-- ==== Sys2Proof/Word.lean ====
section
/-!
DEFINITION. The word types of the model: a byte, the 32-bit word of a token or an FP32 number, and the 64-bit word.
Addresses, counts and register fields are natural numbers that the operations of Machine/ keep within their widths.
-/
namespace Sys2Proof

/-- A byte of memory (R7: the smallest addressable unit). -/
abbrev Byte := BitVec 8

/-- A 32-bit word: a token (R90), an FP32 number (R178). -/
abbrev Word := BitVec 32

/-- A 64-bit word: an atomic operand (R553). -/
abbrev DWord := BitVec 64

end Sys2Proof
end

