-- ==== Sys2Proof/Config.lean ====
section
/-!
DEFINITION. What the spec leaves open: constants with no body, of which nothing can be proved but what holds of every
value. Each is named in the assumption log.
-/
namespace Sys2Proof.Config

/-- A byte of a range that a rule calls undefined, by the range's seed and the byte's address (log 10). -/
opaque freeByte : Nat → Nat → Byte

/-- A value that a rule leaves open, by the counter `fresh` of State (log 3). -/
opaque freeValue : Nat → Nat

/-- What the coefficient table of a version makes of a special function where R219, R220 and R235 give no exact result: by version,
function, monotone branch and node of the binary search over the branch's arguments (log 11). -/
opaque sfu : Nat → Nat → Int → Nat → Nat

/-- The device ID of the regatta's starter, to which R58 sends READY, LATE, DONE and HOLD_REQ: no register of the spec
holds it (log 12). -/
opaque starterId : Nat

/-- Free post-package repair resources of the HBM4 bank that has the fewest, per JEDEC (R617 kind 12, R646): the spec gives no
number (log 18). -/
opaque rowRepairs : Nat

/-- BODY_HASH and SIGNATURE of an image check, by its bytes (offset, value): the key is Halcia's (R697, log 33). -/
opaque fwSigned : List (Nat × Nat) → Bool

/-- The bytes of the identity record (R670): written at the factory (log 34). -/
opaque identity : Nat → Byte

/-- The SPDM response to a request (R695): DMTF SPDM 1.2 lays it out. By the request, the connection state, the bytes measured,
and a counter that makes each nonce a new one (log 35). -/
opaque spdmReply : List Byte → Nat → List (List Byte) → Nat → List Byte

/-- The place of a K group in a seat's history of 65,536 bits, by CMD_ID, row tile and group (R302): the index function is not published
(log 41). -/
opaque predIndex : Nat → Nat → Nat → Nat

/-- The bit columns of scratchpads (kind 1) and crew stores (kind 3) that factory fuses have replaced by spare columns: kind, block and bank
(R407, R617, log 6). -/
opaque fuseColumns : List (Nat × Nat × Nat)

/-- What a soft error strikes at an instant of the stroke clock, if anything: kind, block, position and a number that places it (R398,
R405, R619, log 50). The spec says what the device does about such errors, and not when they come. -/
opaque upset : Nat → Option (Nat × Nat × Nat × Nat)

/-- Virtual function `n` is enabled under SR-IOV (R593): a setting of the PCIe configuration space, which no register of the spec
shows (log 37). -/
opaque vfEnabled : Nat → Bool

end Sys2Proof.Config
end

