-- ==== Sys2Proof/Machine/Flags.lean ====
section
/-!
DEFINITION. Status codes (R18), record flags (R679), logbook events (R686), and the bit helpers that every family uses.
-/
namespace Sys2Proof.Machine

/-- Status codes of R18. -/
def stSuccess : Nat := 0x01
def stFlags : Nat := 0x02
def stShape : Nat := 0x10
def stMalformed : Nat := 0x11
def stPageFault : Nat := 0x20
def stPermission : Nat := 0x21
def stBadDesc : Nat := 0x22
def stBus : Nat := 0x23
def stDeferred : Nat := 0x30
def stSuspended : Nat := 0x31
def stBusy : Nat := 0x32
def stPreempted : Nat := 0x40
def stRefused : Nat := 0x41
def stUnreachable : Nat := 0x50
def stTimeout : Nat := 0x51
def stOverrun : Nat := 0x60
def stLost : Nat := 0x7E
def stInternal : Nat := 0x7F

/-- Flags of a status record (R679). -/
def flZeroShape : Nat := 1
def flSaturated : Nat := 2
def flNonfinite : Nat := 4
def flNoKeys : Nat := 8
def flAbsent : Nat := 16
def flStarved : Nat := 32
def flBadBox : Nat := 64
def flAbandoned : Nat := 128
def flLost : Nat := 256

/-- A status is no failure when it is success or success with flags (R86). -/
def statusOk (st : Nat) : Bool := st == 1 || st == 2

/-- Bits [lo + w - 1 : lo] of a number. -/
def bits (x lo w : Nat) : Nat := (x >>> lo) % 2 ^ w

/-- One bit of a number. -/
def bitOf (x i : Nat) : Bool := x.testBit i

/-- A number read as a signed one of `w` bits. -/
def signed (x w : Nat) : Int :=
  if x % 2 ^ w < 2 ^ (w - 1) then ((x % 2 ^ w : Nat) : Int) else ((x % 2 ^ w : Nat) : Int) - ((2 ^ w : Nat) : Int)

/-- An integer reduced to `w` bits. -/
def wrapInt (x : Int) (w : Nat) : Nat := (x % ((2 ^ w : Nat) : Int)).toNat

/-- 1 for true, 0 for false. -/
def b2n (b : Bool) : Nat := if b then 1 else 0

/-- Bytes of a number, low byte first (R7). -/
def leBytes (v : Nat) : Nat → List Byte
  | 0 => []
  | n + 1 => BitVec.ofNat 8 v :: leBytes (v / 256) n

/-- The number that bytes spell, low byte first (R7). -/
def leNat : List Byte → Nat
  | [] => 0
  | b :: t => b.toNat + 256 * leNat t

/-- A field of `n` bytes at an offset of a descriptor. -/
def fieldLE (raw : List Byte) (off n : Nat) : Nat := leNat ((raw.drop off).take n)

/-- Bits of a field at a byte offset of a descriptor. -/
def fieldBits (raw : List Byte) (off lo w : Nat) : Nat := bits (fieldLE raw off 8) lo w

/-- A span of bytes of a descriptor is zero. -/
def zeroSpan (raw : List Byte) (off n : Nat) : Bool := ((raw.drop off).take n).all (· == 0)

/-- Two spans of bytes overlap. -/
def overlaps (a la b lb : Nat) : Bool := decide (a < b + lb) && decide (b < a + la) && decide (0 < la) && decide (0 < lb)

/-- The set bits of a mask below `n`, in rising order. -/
def setBits (m n : Nat) : List Nat := (List.range n).filter (fun i => m.testBit i)

/-- How many bits of a mask below `n` are set. -/
def popBits (m n : Nat) : Nat := (setBits m n).length

/-- Rounds a quotient up. -/
def ceilDiv (a b : Nat) : Nat := if b = 0 then 0 else (a + b - 1) / b

/-- Replaces one element of a list. -/
def setAt {α : Type} : List α → Nat → α → List α
  | [], _, _ => []
  | _ :: t, 0, v => v :: t
  | a :: t, n + 1, v => a :: setAt t n v

/-- Replaces the bytes of a span of a byte list. -/
def splice (raw : List Byte) (off : Nat) (v : List Byte) : List Byte :=
  raw.take off ++ v ++ raw.drop (off + v.length)

end Sys2Proof.Machine
end

