-- ==== Sys2Proof/Machine/Fp.lean ====
section
/-!
DEFINITION. Numbers: exact values, FP32 arithmetic (R178, R186, R213 to R216), the thirteen stored formats (R127, R176 to
R185), narrowing (R203 to R208) and the special functions (R217 to R222).
-/
namespace Sys2Proof.Machine

/-- A decoded value: NaN, an infinity, or a sign with m × 2^e (m = 0 is a signed zero). -/
inductive Num where
  | nan
  | inf (neg : Bool)
  | fin (neg : Bool) (m : Nat) (e : Int)
  deriving DecidableEq, Repr

/-! ### Rounding -/

/-- m / 2^k to the nearest integer, ties to even. -/
def rneShift (m k : Nat) : Nat :=
  let q := m >>> k
  let r := m % 2 ^ k
  if k = 0 then m
  else if 2 ^ (k - 1) < r ∨ (r = 2 ^ (k - 1) ∧ q % 2 = 1) then q + 1 else q

/-- Rounds m × 2^e to `p` significant bits, no finer than 2^least: the new significand and exponent (R206, R213). -/
def roundMag (p : Nat) (least : Int) (m : Nat) (e : Int) : Nat × Int :=
  if m = 0 then (0, least)
  else
    let ulp := max least (e + (Nat.log2 m + 1 : Nat) - (p : Nat))
    if ulp ≤ e then (m * 2 ^ (e - ulp).toNat, ulp) else (rneShift m (ulp - e).toNat, ulp)

/-- Canonical NaN of FP32 (R186). -/
def f32NaN : Word := 0x7FC00000
def f32Inf (neg : Bool) : Word := if neg then 0xFF800000 else 0x7F800000
def f32Zero (neg : Bool) : Word := if neg then 0x80000000 else 0
def f32One : Word := 0x3F800000

/-- Rounds an exact value to FP32, to nearest, ties to even (R213). -/
def toF32 (x : Num) : Word :=
  match x with
  | .nan => f32NaN
  | .inf s => f32Inf s
  | .fin s m e =>
    let r := roundMag 24 (-149) m e
    let v := (r.2 + 149).toNat * 2 ^ 23 + r.1
    if 255 * 2 ^ 23 ≤ v then f32Inf s else BitVec.ofNat 32 ((if s then 2 ^ 31 else 0) + v)

/-- Decodes a floating code of an exponent width, mantissa width and bias, with no infinity or NaN. -/
def decodeFloat (eb mb : Nat) (bias : Int) (c : Nat) : Num :=
  let s := bitOf c (eb + mb)
  let ef := bits c mb eb
  let mf := bits c 0 mb
  if ef = 0 then .fin s mf (1 - bias - (mb : Nat)) else .fin s (mf + 2 ^ mb) ((ef : Nat) - bias - (mb : Nat))

/-- The exact value of an FP32 number (R176). -/
def ofF32 (w : Word) : Num :=
  let c := w.toNat
  if bits c 23 8 = 255 then (if bits c 0 23 = 0 then .inf (bitOf c 31) else .nan) else decodeFloat 8 23 127 c

/-! ### Exact arithmetic -/

/-- The integer significand of a finite value at an exponent not above its own. -/
def alignTo (neg : Bool) (m : Nat) (e low : Int) : Int :=
  (if neg then -1 else 1) * ((m * 2 ^ (e - low).toNat : Nat) : Int)

/-- A finite value from a signed significand; a zero has the sign given. -/
def ofInt (z : Int) (e : Int) (zeroNeg : Bool) : Num :=
  if z = 0 then .fin zeroNeg 0 0 else .fin (decide (z < 0)) z.natAbs e

/-- The exact sum. A zero sum is +0 unless both terms are -0 (R216). -/
def addNum : Num → Num → Num
  | .nan, _ => .nan
  | _, .nan => .nan
  | .inf a, .inf b => if a = b then .inf a else .nan
  | .inf a, _ => .inf a
  | _, .inf b => .inf b
  | .fin a m e, .fin b n f =>
    let low := min e f
    ofInt (alignTo a m e low + alignTo b n f low) low (a && b && m == 0 && n == 0)

/-- The exact product. -/
def mulNum : Num → Num → Num
  | .nan, _ => .nan
  | _, .nan => .nan
  | .inf a, .inf b => .inf (a != b)
  | .inf a, .fin b n _ => if n = 0 then .nan else .inf (a != b)
  | .fin a m _, .inf b => if m = 0 then .nan else .inf (a != b)
  | .fin a m e, .fin b n f => .fin (a != b) (m * n) (e + f)

def negNum : Num → Num
  | .nan => .nan
  | .inf a => .inf !a
  | .fin a m e => .fin (!a) m e

/-! ### FP32 operations (R213): each rounds once -/

def fadd (a b : Word) : Word := toF32 (addNum (ofF32 a) (ofF32 b))
def fsub (a b : Word) : Word := toF32 (addNum (ofF32 a) (negNum (ofF32 b)))
def fmul (a b : Word) : Word := toF32 (mulNum (ofF32 a) (ofF32 b))
def ffma (a b c : Word) : Word := toF32 (addNum (mulNum (ofF32 a) (ofF32 b)) (ofF32 c))

/-- Division, correctly rounded: a quotient of enough bits with a sticky last bit. -/
def fdiv (a b : Word) : Word :=
  match ofF32 a, ofF32 b with
  | .nan, _ => f32NaN
  | _, .nan => f32NaN
  | .inf s, .inf _ => if s then f32NaN else f32NaN
  | .inf s, .fin t _ _ => f32Inf (s != t)
  | .fin s _ _, .inf t => f32Zero (s != t)
  | .fin s m e, .fin t n f =>
    if n = 0 then (if m = 0 then f32NaN else f32Inf (s != t))
    else if m = 0 then f32Zero (s != t)
    else
      let q := m * 2 ^ 60 / n
      let r := m * 2 ^ 60 % n
      toF32 (.fin (s != t) (2 * q + (if r = 0 then 0 else 1)) (e - f - 61))

/-- Integer square root of a number below 4^k, bit by bit. -/
def isqrt : Nat → Nat → Nat
  | 0, _ => 0
  | k + 1, n =>
    let r := 2 * isqrt k (n / 4)
    if (r + 1) * (r + 1) ≤ n then r + 1 else r

/-- Square root, correctly rounded (R218). -/
def fsqrt (a : Word) : Word :=
  match ofF32 a with
  | .nan => f32NaN
  | .inf s => if s then f32NaN else f32Inf false
  | .fin s m e =>
    if m = 0 then f32Zero s
    else if s then f32NaN
    else
      let m2 := if e % 2 = 0 then m else 2 * m
      let e2 := if e % 2 = 0 then e else e - 1
      let n := m2 * 2 ^ 60
      let r := isqrt 50 n
      toF32 (.fin false (2 * r + (if r * r = n then 0 else 1)) (e2 / 2 - 31))

/-- a < b as numbers; false with a NaN. -/
def flt (a b : Word) : Bool :=
  match ofF32 a, ofF32 b with
  | .nan, _ => false
  | _, .nan => false
  | .inf s, .inf t => s && !t
  | .inf s, _ => s
  | _, .inf t => !t
  | .fin s m e, .fin t n f => decide (alignTo s m e (min e f) < alignTo t n f (min e f))

def fisNaN (a : Word) : Bool := bits a.toNat 23 8 == 255 && bits a.toNat 0 23 != 0
def fisInf (a : Word) : Bool := a.toNat % 2 ^ 31 == 0x7F800000
def fneg (a : Word) : Word := if fisNaN a then f32NaN else a ^^^ 0x80000000
def fabs (a : Word) : Word := if fisNaN a then f32NaN else a &&& 0x7FFFFFFF

/-- The larger of two FP32 values; NaN when either is NaN; +0 is larger than -0. -/
def fmax (a b : Word) : Word :=
  if fisNaN a || fisNaN b then f32NaN
  else if flt a b then b
  else if flt b a then a
  else if a = 0x80000000 then b else a

/-- An integer as FP32. -/
def f32OfInt (z : Int) : Word := toF32 (ofInt z 0 false)
def f32OfNat (n : Nat) : Word := f32OfInt (n : Int)

/-- 2^k as FP32. -/
def f32Pow2 (k : Int) : Word := toF32 (.fin false 1 k)

/-! ### Stored formats (R127, R176) -/

/-- Element width in bits. -/
def fmtBits (f : Nat) : Nat :=
  match f with
  | 0 => 32 | 1 => 16 | 2 => 8 | 3 => 8 | 4 => 8 | 5 => 8 | 6 => 6 | 7 => 6 | 8 => 4 | 9 => 4 | 10 => 8 | 11 => 8
  | 12 => 4 | _ => 8

/-- A format code that is not reserved (R127). -/
def fmtOk (f : Nat) : Bool := decide (f ≤ 12)

/-- An MX format: elements with block scales (R176). -/
def fmtMx (f : Nat) : Bool := f == 4 || f == 5 || f == 6 || f == 7 || f == 8 || f == 10

/-- An integer format (R118). -/
def fmtInt (f : Nat) : Bool := f == 10 || f == 11 || f == 12

/-- A 4-bit format. -/
def fmt4 (f : Nat) : Bool := f == 8 || f == 9 || f == 12

/-- An unscaled format (R191). -/
def fmtUnscaled (f : Nat) : Bool := f == 0 || f == 1

/-- Bytes of a row of n elements. -/
def rowBytes (f n : Nat) : Nat := (if fmtBits f = 6 then (n + 3) / 4 * 3 else (n * fmtBits f + 7) / 8)

/-- The value of an element code, before its block scale (R176, R185). -/
def decodeElem (f c : Nat) : Num :=
  match f with
  | 0 => ofF32 (BitVec.ofNat 32 c)
  | 1 => ofF32 (BitVec.ofNat 32 (c % 65536 * 65536))
  | 2 | 4 => if c % 128 = 127 then .nan else decodeFloat 4 3 7 c
  | 3 | 5 => if bits c 2 5 = 31 then (if bits c 0 2 = 0 then .inf (bitOf c 7) else .nan) else decodeFloat 5 2 15 c
  | 6 => decodeFloat 3 2 3 c
  | 7 => decodeFloat 2 3 1 c
  | 8 | 9 => decodeFloat 2 1 1 c
  | 10 => ofInt (signed c 8) (-6) false
  | 11 => ofInt (signed c 8) 0 false
  | _ => ofInt (signed c 4) 0 false

/-- A value times 2^(e - 127), NaN for the scale byte 0xFF (R177, R183). -/
def scaleNum (x : Num) (e : Nat) : Num :=
  if e = 255 then .nan
  else match x with
    | .fin s m k => .fin s m (k + ((e : Nat) : Int) - 127)
    | y => y

/-- Element `i` of a row of bytes (R178): bits [i × w + w - 1 : i × w] of the little-endian row. -/
def elemCode (f : Nat) (row : List Byte) (i : Nat) : Nat :=
  let w := fmtBits f
  bits (leNat ((row.drop (i * w / 8)).take 6)) (i * w % 8) w

/-- Writes element `i` of a row of bytes, leaving its neighbours (R162, R179). -/
def putElem (f : Nat) (row : List Byte) (i c : Nat) : List Byte :=
  let w := fmtBits f
  let o := i * w / 8
  let n := (i * w % 8 + w + 7) / 8
  let old := leNat ((row.drop o).take n)
  let sh := i * w % 8
  let new := old - bits old sh w * 2 ^ sh + c % 2 ^ w * 2 ^ sh
  splice row o (leBytes new n)

/-- An element as FP32, as the vector unit converts it (R184). -/
def elemF32 (f : Nat) (c e : Nat) : Word :=
  toF32 (if fmtMx f then scaleNum (decodeElem f c) e else decodeElem f c)

/-! ### Narrowing (R203 to R208) -/

/-- Largest finite magnitude of a format's elements: significand and exponent (R198). -/
def fmtMax (f : Nat) : Nat × Int :=
  match f with
  | 0 => (2 ^ 24 - 1, 104)
  | 1 => (255, 120)
  | 2 | 4 => (7, 6)
  | 3 | 5 => (7, 13)
  | 6 => (7, 2)
  | 7 => (15, -1)
  | 8 | 9 => (3, 1)
  | 10 => (127, -6)
  | 11 => (127, 0)
  | _ => (7, 0)

/-- Exponent of the largest normal value of an MX element format (R205). -/
def fmtEmax (f : Nat) : Int :=
  match f with
  | 4 => 8 | 5 => 15 | 6 => 4 | 7 => 2 | 8 => 2 | _ => 0

/-- Exponent width, mantissa width and bias of a floating element format. -/
def fmtLayout (f : Nat) : Nat × Nat × Int :=
  match f with
  | 1 => (8, 7, 127) | 2 | 4 => (4, 3, 7) | 3 | 5 => (5, 2, 15) | 6 => (3, 2, 3) | 7 => (2, 3, 1) | _ => (2, 1, 1)

/-- The code of a magnitude m × 2^e that is a value of a floating format. -/
def encodeMag (f : Nat) (m : Nat) (e : Int) : Nat :=
  let (_, mb, bias) := fmtLayout f
  if m = 0 then 0
  else
    let k := (Nat.log2 m : Nat)
    let x := (k : Int) + e + bias
    if x ≤ 0 then (if 1 - bias - (mb : Nat) ≤ e then m * 2 ^ (e - (1 - bias - (mb : Nat))).toNat else m / 2 ^ ((1 - bias - (mb : Nat)) - e).toNat)
    else
      let sig := if k ≤ mb then m * 2 ^ (mb - k) else m / 2 ^ (k - mb)
      x.toNat * 2 ^ mb + (sig - 2 ^ mb)

/-- m × 2^e > n × 2^f. -/
def magGt (m : Nat) (e : Int) (n : Nat) (f : Int) : Bool :=
  decide (alignTo false n f (min e f) < alignTo false m e (min e f))

/-- Rounds a value to an element of a format (R206, R207): its code, and whether a finite value was clamped. `sat` is
SATURATE of the scale entry. -/
def roundElem (f : Nat) (sat : Bool) (x : Num) : Nat × Bool :=
  if f = 0 then ((toF32 x).toNat, false)
  else if fmtInt f then
    let w := fmtBits f
    let top := (fmtMax f).1
    match x with
    | .nan => (0, false)
    | .inf s => (if s then 2 ^ w - top else top, false)
    | .fin s m e =>
      let e := if f = 10 then e + 6 else e
      let v := if 0 ≤ e then m * 2 ^ e.toNat else (2 * m + 2 ^ (-e).toNat) / (2 * 2 ^ (-e).toNat)
      let c := decide (top < v)
      let v := min v top
      (if s ∧ v ≠ 0 then 2 ^ w - v else v, c)
  else
    let (eb, mb, bias) := fmtLayout f
    let sg (s : Bool) : Nat := if s then 2 ^ (eb + mb) else 0
    let top := fmtMax f
    let big (s : Bool) : Nat :=
      if f = 1 then sg s + 0x7F80
      else if f = 3 ∧ !sat then sg s + 0x7C
      else sg s + encodeMag f top.1 top.2
    match x with
    | .nan => (if f = 1 then 0x7FC0 else if f = 2 ∨ f = 4 then 0x7F else if f = 3 ∨ f = 5 then 0x7E else 0, false)
    | .inf s => (big s, false)
    | .fin s m e =>
      let least := if f = 1 then -2000 else 1 - bias - (mb : Nat)
      let r := roundMag (mb + 1) least m e
      if magGt r.1 r.2 top.1 top.2 then (big s, true)
      else if f = 1 ∧ magGt 1 (-126) r.1 r.2 then (sg s, false)
      else (sg s + encodeMag f r.1 r.2, false)

/-- Counts of narrowing: clamped, infinite and NaN results, and the largest finite magnitude (R193, R194, R208). -/
structure NarrowCount where
  sat  : Nat
  inf  : Nat
  nan  : Nat
  amax : Word
  deriving DecidableEq, Repr, Inhabited

def NarrowCount.add (a b : NarrowCount) : NarrowCount :=
  { sat := a.sat + b.sat, inf := a.inf + b.inf, nan := a.nan + b.nan
    amax := if a.amax.toNat < b.amax.toNat then b.amax else a.amax }

/-- What one result before narrowing adds to the counts, but for the clamped ones. -/
def countResult (r : Word) : NarrowCount :=
  if fisNaN r then { sat := 0, inf := 0, nan := 1, amax := 0 }
  else if fisInf r then { sat := 0, inf := 1, nan := 0, amax := 0 }
  else { sat := 0, inf := 0, nan := 0, amax := r &&& 0x7FFFFFFF }

/-- Narrows one result to a format without block scales (R204). A finite result whose product with the scale overflows to infinity counts
as clamped, and not as an infinite result (R208; DESIGN CHOICE, log 49). -/
def narrowOne (f : Nat) (sat : Bool) (scale r : Word) : Nat × NarrowCount :=
  let c := countResult r
  if f = 0 then (r.toNat, c)
  else
    let y := if f = 1 then r else fmul r scale
    let e := roundElem f sat (ofF32 y)
    let ovf := e.2 || (fisInf y && !fisInf r && !fisNaN r)
    (e.1, if ovf ∧ !fisInf r ∧ !fisNaN r then { c with sat := 1 } else c)

/-- floor(log2) of a nonzero magnitude. -/
def floorLog2 (m : Nat) (e : Int) : Int := ((Nat.log2 m : Nat) : Int) + e

/-- Narrows one block of at most 32 results to an MX format (R204, R205): the scale byte, the codes, the counts. -/
def narrowBlock (f : Nat) (scale : Word) (rs : List Word) : Nat × List Nat × NarrowCount :=
  let ys := rs.map (fun r => fmul r scale)
  let c := rs.foldl (fun c r => c.add (countResult r)) default
  if ys.any fisNaN then (255, ys.map (fun _ => 0), c)
  else
    let mags := ys.map (fun y => min (y.toNat % 2 ^ 31) 0x7F7FFFFF)
    let m := mags.foldl max 0
    let sb : Nat := if m = 0 then 127 else
      match ofF32 (BitVec.ofNat 32 m) with
      | .fin _ k e => ((max (-127) (min 127 (floorLog2 k e - fmtEmax f))) + 127).toNat
      | _ => 127
    (sb, ys.map (fun y => (roundElem f true (scaleNum (ofF32 y) (254 - sb))).1), c)

/-! ### Special functions (R217 to R222, R234, R235) -/

/-- A function code that is not reserved (R234). -/
def sfOk (f : Nat) : Bool := decide (f ≤ 0x10)

/-- |x| × k > n, exactly, for a finite x. -/
def magAbove (m : Nat) (e : Int) (k n : Nat) : Bool := magGt (m * k) e n 0

/-- |x| < 2^k, exactly. -/
def magBelow2 (m : Nat) (e : Int) (k : Int) : Bool := magGt 1 k m e

/-- The limit of a function at an infinity (R220). -/
def sfAtInf (f : Nat) (neg : Bool) : Word :=
  match f with
  | 1 | 2 | 9 | 13 => if neg then 0 else if f = 9 then f32One else f32Inf false
  | 3 | 4 | 6 | 7 => if neg then f32NaN else if f = 6 then 0 else f32Inf false
  | 5 => f32Zero neg
  | 8 => if neg then 0xBF800000 else f32One
  | 10 | 11 | 12 => if neg then 0x80000000 else f32Inf false
  | 14 | 15 => f32NaN
  | _ => f32Inf neg

/-- What a rule fixes of a function at a finite argument: the flush of R219, the special inputs and the limits at ±0 of R220, the overflow of
R214; none where the result comes from the coefficient table. `mag` is the magnitude of the argument as a word: the last three bounds are
those from which |GELU| (both forms) and |SiLU| of a negative argument lie below 2^-126. -/
def sfFixed (f : Nat) (neg : Bool) (m : Nat) (e : Int) (mag : Nat) : Option Word :=
  let tail (bound : Nat) : Option Word :=
    if magBelow2 m e (-125) then some (f32Zero neg) else if neg && decide (bound ≤ mag) then some (f32Zero true) else none
  match f with
  | 1 => if m = 0 then some f32One
         else if neg ∧ magAbove m e 10000 873365 then some 0
         else if !neg ∧ magAbove m e 100 8873 then some (f32Inf false) else none
  | 2 => if m = 0 then some f32One
         else if neg ∧ magAbove m e 1 126 then some 0
         else if !neg ∧ !magBelow2 m e 7 then some (f32Inf false) else none
  | 3 | 4 => if m = 0 then some (f32Inf true) else if neg then some f32NaN else none
  | 5 => if m = 0 ∨ !magGt m e 1 (-128) then some (f32Inf neg) else if magGt m e 1 126 then some (f32Zero neg) else none
  | 6 => if m = 0 then some (f32Inf neg) else if neg then some f32NaN else none
  | 8 | 14 => if magBelow2 m e (-126) then some (f32Zero neg) else none
  | 9 => if m = 0 then some 0x3F000000 else if neg ∧ magAbove m e 10000 873365 then some 0 else none
  | 10 => tail 0x41525707
  | 11 => tail 0x41219C36
  | 12 => tail 0x42B7B6AC
  | 13 => if m = 0 then some 0x3F317218 else if neg ∧ magAbove m e 10000 873365 then some 0 else none
  | 15 => if m = 0 then some f32One else none
  | _ => none

/-- Functions that flush by the size of their result (R218). -/
def sfFlushes (f : Nat) : Bool := f == 5 || f == 8 || f == 10 || f == 11 || f == 12 || f == 14 || f == 15

/-! #### Monotone branches (R221) -/

/-- The place of a value that is not NaN in the order of FP32, -0 just below +0, and the value at a place. -/
def f32Ord (w : Word) : Nat := if 2 ^ 31 ≤ w.toNat then 2 ^ 32 - 1 - w.toNat else w.toNat + 2 ^ 31
def f32AtOrd (n : Nat) : Word := BitVec.ofNat 32 (if 2 ^ 31 ≤ n then n - 2 ^ 31 else 2 ^ 32 - 1 - n)

/-- A nondecreasing function of `d`-bit arguments into the places `lo` to `hi`, by binary search: the free value of a node parts the places
between the lower and the upper half of its arguments. Every nondecreasing function is one of these. -/
def monoTree (g : Nat → Nat) : Nat → Nat → Nat → Nat → Nat → Nat
  | 0, node, lo, hi, _ => lo + g node % (hi - lo + 1)
  | d + 1, node, lo, hi, x =>
    let mid := lo + g node % (hi - lo + 1)
    if x.testBit d then monoTree g d (2 * node + 1) mid hi x else monoTree g d (2 * node) lo mid x

/-- A branch on which a function is monotone: its number, whether it falls, and the results between which it runs: those that R219 and
R220 give at its ends, where they give one. -/
structure SfBranch where
  number : Int
  down   : Bool
  lo     : Word
  hi     : Word

/-- 2^320 × π, rounded down. -/
def piScaled : Nat := 0x3243F6A8885A308D313198A2E03707344A4093822299F31D0082EFA98EC4E6C89452821E638D01377

/-- The half period of sin or cos in which a finite argument lies, from extremum to extremum (R221). Between its own extrema the sine
goes through the zero where a half period of the cosine starts, and the other way round. -/
def halfPeriod (cosine neg : Bool) (m : Nat) (e : Int) : Int :=
  let x : Int := (m * 2 ^ (e + 320).toNat : Nat)
  let x := if neg then -x else x
  if cosine then x / (piScaled : Int) else (2 * x + (piScaled : Int)) / (2 * (piScaled : Int))

/-- The branch of a finite argument of a function that R219, R220 and R235 do not settle: on each branch the true result has one sign, and
so has the result (R219). `mag` is its magnitude as a word; GELU and SiLU turn at the magnitudes named, which are those of the largest
arguments at or below their minima. -/
def sfBranch (f : Nat) (neg : Bool) (m : Nat) (e : Int) (mag : Nat) : SfBranch :=
  let inf := f32Inf false
  let ninf := f32Inf true
  let valley (turn : Nat) : SfBranch :=
    if !neg then ⟨2, false, 0, inf⟩ else if turn ≤ mag then ⟨0, true, ninf, 0x80000000⟩ else ⟨1, false, ninf, 0x80000000⟩
  match f with
  | 1 | 2 => if neg then ⟨0, false, 0, f32One⟩ else ⟨1, false, f32One, inf⟩
  | 3 | 4 => ⟨0, false, ninf, inf⟩
  | 5 => if neg then ⟨0, true, ninf, 0x80000000⟩ else ⟨1, true, 0, inf⟩
  | 6 => ⟨0, true, 0, inf⟩
  | 8 => if neg then ⟨0, false, 0xBF800000, 0x80000000⟩ else ⟨1, false, 0, f32One⟩
  | 9 => if neg then ⟨0, false, 0, 0x3F000000⟩ else ⟨1, false, 0x3F000000, f32One⟩
  | 10 => valley 0x3F407569
  | 11 => valley 0x3F40A150
  | 12 => valley 0x3FA3A4BA
  | 13 => if neg then ⟨0, false, 0, 0x3F317218⟩ else ⟨1, false, 0x3F317218, inf⟩
  | 14 =>
    let k := halfPeriod false neg m e
    let z := halfPeriod true neg m e
    if z % 2 = 0 then ⟨k + z, k % 2 != 0, 0, inf⟩ else ⟨k + z, k % 2 != 0, ninf, 0x80000000⟩
  | _ =>
    let k := halfPeriod true neg m e
    let z := halfPeriod false neg m e
    if z % 2 = 0 then ⟨k + z, k % 2 == 0, 0, if z = 0 then f32One else inf⟩ else ⟨k + z, k % 2 == 0, ninf, 0x80000000⟩

/-- The result on a branch: a free value, but monotone and between the branch's ends (R221, log 11). -/
def sfTable (ver f : Nat) (b : SfBranch) (x : Word) : Word :=
  let p := f32Ord x
  f32AtOrd (monoTree (Config.sfu ver f b.number) 32 1 (f32Ord b.lo) (f32Ord b.hi) (if b.down then 2 ^ 32 - 1 - p else p))

/-- A special function of FP32 with the coefficient table of a version (R217 to R221, R235). -/
def sfuEval (ver f : Nat) (x : Word) : Word :=
  if fisNaN x then f32NaN
  else if f = 0 then x
  else if f = 0x10 then (if flt 0 x then x else 0)
  else if f = 7 then fsqrt x
  else match ofF32 x with
    | .nan => f32NaN
    | .inf s => sfAtInf f s
    | .fin s m e =>
      let mag := x.toNat % 2 ^ 31
      match sfFixed f s m e mag with
      | some r => r
      | none =>
        let r := sfTable ver f (sfBranch f s m e mag) x
        if sfFlushes f && decide (r.toNat % 2 ^ 31 < 0x00800000) then f32Zero (bitOf r.toNat 31) else r

/-- The weight of an included score against the row's maximum (R222). -/
def softWeight (ver : Nat) (s m : Word) : Word :=
  let u := fmul (fsub s m) 0x3FB8AA3B
  if flt u 0xC1C00000 then 0 else sfuEval ver 2 u

/-! ### Lane order (R224) -/

/-- The value of each of 128 lanes: its terms in index order, folded by `f` after its first term `first`. -/
def laneFold (first : Word → Word) (f : Word → Word → Word) (xs : List (Option Word)) : List (Option Word) :=
  (List.range 128).map (fun j =>
    ((List.range ((xs.length + 127 - j) / 128)).map (fun q => (xs[j + 128 * q]?).join)).foldl
      (fun acc x => match acc, x with
        | none, some v => some (first v)
        | some a, some v => some (f a v)
        | a, none => a) none)

/-- Lanes combined pairwise, the lower lane on the left; an empty lane yields the other. -/
def laneMerge (f : Word → Word → Word) : Nat → List (Option Word) → Option Word
  | 0, ls => ls.head?.join
  | k + 1, ls =>
    let h := 2 ^ k
    laneMerge f k (List.zipWith (fun a b => match a, b with
      | some x, some y => some (f x y)
      | some x, none => some x
      | none, y => y) (ls.take h) (ls.drop h))

/-- A sum in lane order; a zero sum of no term is +0. -/
def laneSum (xs : List (Option Word)) : Word := (laneMerge fadd 7 (laneFold id fadd xs)).getD 0

/-- A sum of squares in lane order, by fused multiply-add (R225, R244). -/
def laneSquares (xs : List Word) : Word :=
  (laneMerge fadd 7 (laneFold (fun v => ffma v v 0) (fun a v => ffma v v a) (xs.map some))).getD 0

/-- A maximum in lane order. -/
def laneMax (xs : List (Option Word)) : Option Word := laneMerge fmax 7 (laneFold id fmax xs)

end Sys2Proof.Machine
end

