-- ==== Sys2Proof/Syntax.lean ====
section
/-!
DEFINITION. The commands of the block: one constructor of `Instr` per row of spec/opcode_table.json, with the data
that comes from outside the device with it (a written value, a link frame, a sensor reading) and the unit it concerns
(a crew 0–15, a physical core index 0–143, a DMA engine 0–15 for the crews and 16 for the host engine, a port 0–15).
-/
namespace Sys2Proof

/-- Register pages (R710). -/
inductive Page where
  | dev | stk | pwr | log | spr | tmp | hif | hdm | ctx | hbm | lpd | lnk | mmu | tier | ros
  | crw | cox | cst | cdm | core
  deriving DecidableEq, Repr

/-- A stroke message of R534. `a` is ELAPSED, or the firmware version in READY; `b` is STRETCH, or STK_PERIOD in
READY; `num` is the stroke number, or SCHEDULE_ID in READY. -/
structure StrokeMsg where
  code   : Nat
  dev    : Nat
  status : Nat
  mask   : Nat
  num    : Nat
  a      : Nat
  b      : Nat
  tag    : Nat
  deriving DecidableEq, Repr

/-- A port management message (R542, R544): identity exchange, latency measurement and its reply, credit report. -/
inductive MgmtMsg where
  | none
  | identity (dev port fw width : Nat)
  | measure (t1 : Nat)
  | reply (t1 t2 t3 : Nat)
  | credits (vc0 vc1 vc2 vc3 : Nat)
  deriving DecidableEq, Repr

/-- A packet: the header fields of R532, its data bytes, and the message of a STROKE or MGMT packet. -/
structure Packet where
  type    : Nat
  vc      : Nat
  cls     : Nat
  src     : Nat
  ctx     : Nat
  sched   : Bool
  dst     : Nat
  inc     : Nat
  aop     : Nat
  wide    : Bool
  slot    : Nat
  port    : Nat
  gen     : Nat
  status  : Nat
  hops    : Nat
  addr    : Nat
  aux     : Nat
  operand : Nat
  compare : Nat
  data    : List Byte
  msg     : StrokeMsg
  mgmt    : MgmtMsg
  deriving DecidableEq, Repr

/-- A link frame as the receiver sees it (R531): the header fields, whether every codeword it overlaps was corrected
and its CRC holds, the symbols corrected in it, and the packets whose last cell it carries. -/
structure Frame where
  seq     : Nat
  ack     : Nat
  nak     : Bool
  crVc    : Nat
  crClass : Nat
  crCount : Nat
  good    : Bool
  fixed   : Nat
  packets : List Packet
  deriving DecidableEq, Repr

/-- What a read of a memory finds (R406, R448, R619): no error, a corrected one, or an uncorrectable one. -/
inductive ReadOutcome where
  | clean | corrected | uncorrectable
  deriving DecidableEq, Repr

/-- What the background test of a row finds in a bank (R410, R411): a correctable or an uncorrectable error, in the value as it stood, or,
where `readBack` says so, in a value read back. The offset gives the bank. -/
inductive TestOutcome where
  | single (offset column codeword : Nat) (readBack : Bool)
  | double (offset column codeword : Nat) (readBack : Bool)
  deriving DecidableEq, Repr

/-- The kind of access of a walk (R475). -/
inductive Access where
  | read | write | atomic
  deriving DecidableEq, Repr

/-- Who asked for a translation (R480, R484): a core, a channel of a DMA engine, a cox fetching a sheet or reading a
descriptor, the host interface, the roster, the task unit, the tier manager. -/
inductive Agent where
  | core (i : Nat)
  | chan (engine ch : Nat)
  | cox (c : Nat)
  | host
  | roster
  | tasks
  | tier
  deriving DecidableEq, Repr

/-- Who writes or reads a register (R723): a PCIe function, a device through its register window, or the I3C
controller. -/
inductive Requester where
  | func (n : Nat)
  | device (d : Nat)
  | i3c
  deriving DecidableEq, Repr

/-- One reading of the power controller (R662, R663): junction temperatures of the six dies in degrees, the input
voltage in mV and power in W. -/
structure PowerReading where
  temps : List Nat
  mv    : Nat
  w     : Nat
  deriving DecidableEq, Repr

/-- A command of the block, one constructor per row of the opcode table. -/
inductive Instr where
  -- strokes
  | run
  | clearRun
  | ready (port : Nat)
  | stkCmdGo
  | stkCmdStop
  | stkCmdResume
  | stkCmdAbandon
  | curtain (port : Nat)
  | catchStroke
  | catchTimeout
  | endOfDrive
  | decisionPoint
  | late (port : Nat)
  | doneMsg (port : Nat)
  | holdReq (port : Nat)
  | hold (port : Nat)
  | resume (port : Nat)
  | abandon (port : Nat)
  | stop (port : Nat)
  | enterStopped
  -- cue sheets
  | sheetFetch (crew : Nat)
  | nop (crew : Nat)
  | launch (crew : Nat)
  | dmaCue (crew : Nat)
  | endCue (crew : Nat)
  | cueComplete (crew cue : Nat)
  | batchFlush (crew : Nat)
  -- tensor commands
  | copy (core : Nat)
  | transposeCopy (core : Nat)
  | gemm (core : Nat)
  | gemmList (core : Nat)
  | conv2d (core : Nat)
  | conv3d (core : Nat)
  | attn (core : Nat)
  | attnVerify (core : Nat)
  | acceptMode (core : Nat)
  | epilogue (core : Nat)
  | norm (core : Nat)
  | softmax (core : Nat)
  | sfu (core : Nat)
  | cropResize (core : Nat)
  | spaceToChannel (core : Nat)
  | channelToSpace (core : Nat)
  | scan (core : Nat)
  | stateStep (core : Nat)
  | sample (core : Nat)
  | fork (crew : Nat)
  | admission (crew : Nat)
  | release (crew : Nat)
  | amaxUpdate (core : Nat)
  | signal (core : Nat)
  | wait (core : Nat)
  | waitSatisfied (core : Nat)
  | atomic (core : Nat)
  | step (core : Nat) (checkOk : Bool)
  | cowCopy (core : Nat)
  | poolEnable (pool : Nat)
  | rosPoolAdd (pool count : Nat)
  -- links
  | frame (port : Nat) (f : Frame)
  | ackTimeout (port : Nat)
  | frameLockLoss (port : Nat)
  | laneSpare (port lane : Nat)
  | laneErrorWindow (port : Nat) (errors : List Nat)
  | retrain (port : Nat)
  | trainingPhase (port : Nat) (lanes : Nat)
  | trainingTimeout (port : Nat)
  | mgmt (port : Nat)
  | packetSend (port : Nat)
  | packetForward (port : Nat)
  -- remote operations
  | remotePut (crew : Nat)
  | remotePutSignal (crew : Nat)
  | remoteGet (crew : Nat)
  | remoteAtomic (crew : Nat)
  | putPacket (port : Nat)
  | putSignalPacket (port : Nat)
  | signalPacket (port : Nat)
  | getPacket (port : Nat)
  | add (port : Nat)
  | addFp (port : Nat)
  | swap (port : Nat)
  | cas (port : Nat)
  | ack (port : Nat)
  | getData (port : Nat)
  | atomicResp (port : Nat)
  | nak (port : Nat)
  | rmtTimeout (port slot : Nat)
  -- memory and tiers
  | memoryRequest (addr requester lpdRank lpdBank : Nat)
  | memoryServe (lpd : Bool) (ctl bank unit : Nat) (outcome : ReadOutcome)
  | bounceReissue (lpd : Bool) (ctl bank requester : Nat)
  | memoryTimeout (lpd : Bool) (ctl bank requester : Nat)
  | hbmTemperatureReadout (stack temp : Nat)
  | register
  | free
  | setHint
  | move
  | touch
  | query
  | objectCopy (object : Nat)
  | objectSwitch (object : Nat)
  | lendEnable (window : Nat)
  | windowOpen (window : Nat)
  | leaseEnable (lease : Nat)
  | reclaim (lease : Nat)
  | leaseReturned (lease : Nat)
  | watchRecopy (slot : Nat)
  -- translation and faults
  | walk (agent : Agent) (ctx va : Nat) (access : Access)
  | retry (faultId : Nat)
  | retryContext (ctx : Nat)
  | abort (faultId : Nat)
  | abortContext (ctx : Nat)
  | faultRingFlush
  | invalidation
  | invalidationComplete
  | arm
  | cancel
  | frameCopy (frame : Nat)
  | checkpointScan
  -- DMA
  | dmaCopy (engine ch : Nat)
  | dmaTranspose (engine ch : Nat)
  | dmaFill (engine ch : Nat)
  | descriptorComplete (engine ch : Nat)
  | ownerWait (engine ch : Nat)
  | chEnable (engine ch : Nat)
  | chDisableReq (engine ch : Nat)
  | chForceOff (engine ch : Nat)
  | channelDisabled (engine ch : Nat)
  -- host interface
  | bar2Read (func addr len : Nat)
  | bar2Write (func addr : Nat) (data : List Byte) (poisoned : Bool)
  | rdLimitExpiry (tag : Nat)
  | doorbell (func index value : Nat)
  | trigger (port : Nat)
  | hostCompletion (tag status : Nat) (data : List Byte)
  | completionTimeout (tag : Nat)
  | linkDown
  | functionLevelReset (func : Nat)
  | perstAssert
  | perstDeassert
  -- contexts and tasks
  | taskPlacement
  | saveComplete (core : Nat)
  | restoreComplete (core : Nat)
  | taskComplete (core : Nat)
  | preempt (ctx : Nat)
  | ctxResume (ctx : Nat)
  | accClear (ctx : Nat)
  | rearm
  | summaryRetry
  -- blocks and registers
  | enable (page : Page) (inst : Nat)
  | disableReq (page : Page) (inst : Nat)
  | forceOff (page : Page) (inst : Nat)
  | drainEnd (page : Page) (inst : Nat)
  | softReset (page : Page) (inst : Nat)
  | resetComplete (page : Page) (inst : Nat)
  | intForce (page : Page) (inst mask : Nat)
  | readToClear (who : Requester) (offset : Nat)
  | registerWrite (who : Requester) (offset size value : Nat)
  | rtSeal
  | sfuSeal (version : Nat)
  | devId (id : Nat)
  | narrowCfg (value : Nat)
  | rcInvalidate (crew : Nat)
  | backgroundTest (scratch : Bool) (index : Nat) (found : List TestOutcome)
  | spareBankCopy (scratch : Bool) (index spare : Nat)
  -- power, reset and retention
  | enterRow
  | enterEasy
  | enterHold
  | enterDormant
  | askRound (deferMs : Nat)
  | wake
  | wakeReady
  | padRelease (mask : Nat)
  | powerCheck (r : PowerReading)
  | trip (cause : Nat)
  | supplyLoss
  | supplyReturn
  | mateOpen
  | standbyStart (straps : Nat)
  | pwrWarmReset (key : Nat)
  | pwrRetCommit
  | retCommitDone
  | invalidate
  -- spares
  | retire (kind block : Nat)
  | enter (kind block : Nat)
  | annotate (kind block : Nat)
  | faultWindow
  | seatEntry (crew : Nat)
  | unitRemap (lpd : Bool) (ctl : Nat)
  | ledgerWrite
  | load
  -- logbook and management
  | logTransfer
  | logInject (value : Nat)
  | privateRead
  | readStatus
  | readLog (args : List Byte)
  | readIdentity (args : List Byte)
  | readPwr (args : List Byte)
  | writePwr (args : List Byte)
  | ackIbi (args : List Byte)
  | echo (args : List Byte)
  | readReg (args : List Byte)
  | writeReg (args : List Byte)
  | readLedger (args : List Byte)
  | warmReset (args : List Byte)
  | spdmSend (args : List Byte)
  | spdmRecv (args : List Byte)
  | fwBegin (args : List Byte)
  | fwData (args : List Byte)
  | fwCommit (args : List Byte)
  | ibiRepeat
  | getVersion
  | getCapabilities
  | negotiateAlgorithms
  | getDigests
  | getCertificate
  | challenge
  | getMeasurements
  | testRun (page : Page) (inst : Nat)
  | marginGo (lpd : Bool) (ctl : Nat)
  | marginTrial (lpd : Bool) (ctl : Nat) (errors : List Nat)
  | extest
  | idcode
  | samplePreload (cells : List Bool)
  | clamp
  | highz
  | bypass
  | testLogicReset
  | pcieLinkUp (speed width : Nat) (flit : Bool)
  | standbyStop
  | selfRefreshExit (lpd : Bool) (ctl : Nat)
  | loopbackFollower
  deriving DecidableEq, Repr

end Sys2Proof
end

