-- ==== Sys2Proof/Machine/Regs.lean ====
section
/-!
DEFINITION. The register fields of every page (R709 to R757 and the register tables of the chapters): where each
field lies, its width, access type and reset value. One definition per field, its docstring names the rule of its
table. A field of several items within a page (a channel, a pool, a lane) has a count and a stride.
-/
namespace Sys2Proof.Machine

/-- Access types of R15: read only, read and write, kept through a reset, write 1 to clear, write 1 to set,
write only, read to clear. -/
inductive Acc where
  | ro | rw | rwk | w1c | w1s | wo | rc
  deriving DecidableEq, Repr

/-- A register field: its page, the byte offset and size of its register, its low bit, width, access, reset value,
and, for a repeated register, how many and how far apart. -/
structure Fld where
  page   : Page
  off    : Nat
  size   : Nat
  lo     : Nat
  w      : Nat
  acc    : Acc
  rst    : Nat
  n      : Nat
  stride : Nat
  deriving DecidableEq, Repr

end Sys2Proof.Machine

namespace Sys2Proof

/-- BAR0 offset of item `i` of a page (R710). -/
def Page.base (p : Page) (i : Nat) : Nat :=
  match p with
  | .dev => 0x0 | .stk => 0x1000 | .pwr => 0x2000 | .log => 0x3000 | .spr => 0x4000 | .tmp => 0x5000
  | .hif => 0x10000 | .hdm => 0x11000
  | .ctx => 0x18000 + i * 0x200
  | .hbm => 0x20000 + i * 0x1000
  | .lpd => 0x28000 + i * 0x800
  | .lnk => 0x40000 + i * 0x1000
  | .mmu => 0x50000 | .tier => 0x51000 | .ros => 0x60000
  | .crw => 0x80000 + i * 0x8000
  | .cox => 0x81000 + i * 0x8000
  | .cst => 0x82000 + i * 0x8000
  | .cdm => 0x83000 + i * 0x8000
  | .core => 0x100000 + i * 0x1000

/-- Instances of a page (R710). -/
def Page.count : Page → Nat
  | .ctx => 64 | .hbm => 8 | .lpd => 32 | .lnk => 16
  | .crw | .cox | .cst | .cdm => 16
  | .core => 144
  | _ => 1

/-- Slot size of a page (R709). -/
def Page.slot : Page → Nat
  | .ctx => 0x200 | .lpd => 0x800 | _ => 0x1000

/-- Type code of a page (R710). -/
def Page.typeCode : Page → Nat
  | .dev => 1 | .stk => 2 | .pwr => 3 | .log => 4 | .spr => 5 | .tmp => 6
  | .hif => 0x10 | .hdm => 0x11 | .ctx => 0x12 | .hbm => 0x20 | .lpd => 0x21 | .lnk => 0x30
  | .mmu => 0x40 | .tier => 0x41 | .ros => 0x50
  | .crw => 0x60 | .cox => 0x61 | .cst => 0x62 | .cdm => 0x63 | .core => 0x70

/-- Page number in the summary registers (R732). -/
def Page.number (p : Page) (i : Nat) : Nat :=
  match p with
  | .dev => 0 | .stk => 1 | .pwr => 2 | .log => 3 | .spr => 4 | .tmp => 5 | .hif => 6 | .hdm => 7
  | .mmu => 8 | .tier => 9 | .ros => 10
  | .hbm => 16 + i | .lpd => 24 + i | .lnk => 56 + i | .ctx => 72 + i
  | .crw => 136 + 4 * i | .cox => 137 + 4 * i | .cst => 138 + 4 * i | .cdm => 139 + 4 * i
  | .core => 200 + i

/-- Every page, in the order of R710. -/
def Page.all : List Page :=
  [.dev, .stk, .pwr, .log, .spr, .tmp, .hif, .hdm, .ctx, .hbm, .lpd, .lnk, .mmu, .tier, .ros,
   .crw, .cox, .cst, .cdm, .core]

/-- State of a block at the end of bring-up (R787). -/
def Page.stateReset : Page → Nat
  | .lnk => 3 | .ctx => 3 | _ => 1

end Sys2Proof

namespace Sys2Proof.Machine

/-- The key of a field in the register table: the bit address of its low bit in BAR0. -/
def Fld.key (f : Fld) (inst idx : Nat) : Nat :=
  (f.page.base inst + f.off + idx * f.stride) * 8 + f.lo

/-- Header fields of the pages (R713). -/
def BLK_STAT_STATE (p : Page) : Fld := ⟨p, 0xC, 32, 0, 3, .ro, p.stateReset, 1, 0⟩
def BLK_STAT_CFG_ERR (p : Page) : Fld := ⟨p, 0xC, 32, 3, 1, .w1c, 0, 1, 0⟩
def BLK_CTL_DISABLE_REQ (p : Page) : Fld := ⟨p, 0x8, 32, 1, 1, .w1s, 0, 1, 0⟩
def BLK_CTL_FORCE_OFF (p : Page) : Fld := ⟨p, 0x8, 32, 2, 1, .w1s, 0, 1, 0⟩
def BLK_CTL_SOFT_RESET (p : Page) : Fld := ⟨p, 0x8, 32, 3, 1, .w1s, 0, 1, 0⟩
def BLK_CTL_DRAIN_MODE (p : Page) : Fld := ⟨p, 0x8, 32, 4, 1, .rw, 0, 1, 0⟩
def BLK_INT_STAT (p : Page) : Fld := ⟨p, 0x10, 32, 0, 32, .w1c, 0, 1, 0⟩
def BLK_INT_EN (p : Page) : Fld := ⟨p, 0x14, 32, 0, 32, .rw, 0, 1, 0⟩
def BLK_ERR_CORR (p : Page) : Fld := ⟨p, 0x1C, 32, 0, 32, .rc, 0, 1, 0⟩
def BLK_ERR_UNCORR (p : Page) : Fld := ⟨p, 0x20, 32, 0, 32, .rc, 0, 1, 0⟩
def BLK_RETAIN_CTL_SKIP (p : Page) : Fld := ⟨p, 0x28, 32, 0, 1, .rwk, 0, 1, 0⟩
def BLK_RETAIN_CTL_DIRTY (p : Page) : Fld := ⟨p, 0x28, 32, 1, 1, .ro, 0, 1, 0⟩

/-- The header fields that are stored (R713); BLK_ID, BLK_CAP, the control bits and BLK_SPARE_MAP are computed. -/
def headerFields (p : Page) : List Fld :=
  [BLK_CTL_DISABLE_REQ p, BLK_CTL_FORCE_OFF p, BLK_CTL_SOFT_RESET p, BLK_CTL_DRAIN_MODE p, BLK_STAT_STATE p, BLK_STAT_CFG_ERR p, BLK_INT_STAT p, BLK_INT_EN p,
   BLK_ERR_CORR p, BLK_ERR_UNCORR p, BLK_RETAIN_CTL_SKIP p, BLK_RETAIN_CTL_DIRTY p]

/-- DEV_REVISION.MODULE_REV, R739. -/
def DEV_REVISION_MODULE_REV : Fld := ⟨.dev, 0x100, 64, 0, 8, .ro, 0x1, 1, 0x0⟩
/-- DEV_REVISION.C0_STEP, R739. -/
def DEV_REVISION_C0_STEP : Fld := ⟨.dev, 0x100, 64, 8, 8, .ro, 0x10, 1, 0x0⟩
/-- DEV_REVISION.C1_STEP, R739. -/
def DEV_REVISION_C1_STEP : Fld := ⟨.dev, 0x100, 64, 16, 8, .ro, 0x10, 1, 0x0⟩
/-- DEV_REVISION.C2_STEP, R739. -/
def DEV_REVISION_C2_STEP : Fld := ⟨.dev, 0x100, 64, 24, 8, .ro, 0x10, 1, 0x0⟩
/-- DEV_REVISION.C3_STEP, R739. -/
def DEV_REVISION_C3_STEP : Fld := ⟨.dev, 0x100, 64, 32, 8, .ro, 0x10, 1, 0x0⟩
/-- DEV_REVISION.X0_STEP, R739. -/
def DEV_REVISION_X0_STEP : Fld := ⟨.dev, 0x100, 64, 40, 8, .ro, 0x10, 1, 0x0⟩
/-- DEV_REVISION.X1_STEP, R739. -/
def DEV_REVISION_X1_STEP : Fld := ⟨.dev, 0x100, 64, 48, 8, .ro, 0x10, 1, 0x0⟩
/-- DEV_FW_VERSION, R739. -/
def DEV_FW_VERSION : Fld := ⟨.dev, 0x108, 32, 0, 32, .ro, 0x10000, 1, 0x0⟩
/-- DEV_FW_SLOT.SLOT, R739. -/
def DEV_FW_SLOT_SLOT : Fld := ⟨.dev, 0x10c, 32, 0, 1, .ro, 0x0, 1, 0x0⟩
/-- DEV_FW_SVN, R739. -/
def DEV_FW_SVN : Fld := ⟨.dev, 0x110, 32, 0, 32, .ro, 0x0, 1, 0x0⟩
/-- DEV_FW_MIN_SVN, R739. -/
def DEV_FW_MIN_SVN : Fld := ⟨.dev, 0x114, 32, 0, 32, .ro, 0x0, 1, 0x0⟩
/-- DEV_ID.ID, R739. -/
def DEV_ID_ID : Fld := ⟨.dev, 0x118, 32, 0, 9, .rw, 0x0, 1, 0x0⟩
/-- NARROW_CFG.KV, R739. -/
def NARROW_CFG_KV : Fld := ⟨.dev, 0x120, 32, 0, 4, .rwk, 0x4, 1, 0x0⟩
/-- NARROW_CFG.GRAD, R739. -/
def NARROW_CFG_GRAD : Fld := ⟨.dev, 0x120, 32, 4, 4, .rwk, 0x3, 1, 0x0⟩
/-- NARROW_CFG.OPT, R739. -/
def NARROW_CFG_OPT : Fld := ⟨.dev, 0x120, 32, 8, 4, .rwk, 0x4, 1, 0x0⟩
/-- DEV_ACC_IDLE_ENERGY, R739. -/
def DEV_ACC_IDLE_ENERGY : Fld := ⟨.dev, 0x128, 64, 0, 64, .ro, 0x0, 1, 0x0⟩
/-- RT_CTL.SEAL, R400. -/
def RT_CTL_SEAL : Fld := ⟨.dev, 0x200, 32, 0, 1, .w1s, 0x0, 1, 0x0⟩
/-- RT_CTL.PENDING, R400. -/
def RT_CTL_PENDING : Fld := ⟨.dev, 0x200, 32, 1, 1, .ro, 0x0, 1, 0x0⟩
/-- RT_CTL.FRONT, R400. -/
def RT_CTL_FRONT : Fld := ⟨.dev, 0x200, 32, 2, 1, .ro, 0x0, 1, 0x0⟩
/-- RT_CTL.CFG_ERR, R400. -/
def RT_CTL_CFG_ERR : Fld := ⟨.dev, 0x200, 32, 3, 1, .w1c, 0x0, 1, 0x0⟩
/-- RMT_TIMEOUT.NS, R574. -/
def RMT_TIMEOUT_NS : Fld := ⟨.dev, 0x204, 32, 0, 30, .rwk, 0x8f0d180, 1, 0x0⟩
/-- SFU_CTL.SEAL, R743. -/
def SFU_CTL_SEAL : Fld := ⟨.dev, 0x208, 32, 0, 1, .w1s, 0x0, 1, 0x0⟩
/-- SFU_CTL.PENDING, R743. -/
def SFU_CTL_PENDING : Fld := ⟨.dev, 0x208, 32, 1, 1, .ro, 0x0, 1, 0x0⟩
/-- SFU_CTL.FRONT, R743. -/
def SFU_CTL_FRONT : Fld := ⟨.dev, 0x208, 32, 2, 1, .ro, 0x0, 1, 0x0⟩
/-- SFU_CTL.CFG_ERR, R743. -/
def SFU_CTL_CFG_ERR : Fld := ⟨.dev, 0x208, 32, 3, 1, .w1c, 0x0, 1, 0x0⟩
/-- DEV_INT_CTL.VECTOR, R733. -/
def DEV_INT_CTL_VECTOR : Fld := ⟨.dev, 0x300, 32, 0, 11, .rw, 0x0, 1, 0x0⟩
/-- DEV_INT_CTL.REARM, R733. -/
def DEV_INT_CTL_REARM : Fld := ⟨.dev, 0x300, 32, 16, 1, .w1s, 0x0, 1, 0x0⟩
/-- DEV_INT_CTL.ARMED, R733. -/
def DEV_INT_CTL_ARMED : Fld := ⟨.dev, 0x300, 32, 17, 1, .ro, 0x1, 1, 0x0⟩
/-- DEV_INT_CTL.ENABLE, R733. -/
def DEV_INT_CTL_ENABLE : Fld := ⟨.dev, 0x300, 32, 31, 1, .rw, 0x0, 1, 0x0⟩
/-- DEV_INT_ADDR, R733. -/
def DEV_INT_ADDR : Fld := ⟨.dev, 0x308, 64, 0, 64, .rw, 0x0, 1, 0x0⟩
/-- DEV_DOMAIN_MAP, R739. -/
def DEV_DOMAIN_MAP : Fld := ⟨.dev, 0x400, 32, 0, 32, .rw, 0x0, 16, 0x4⟩
/-- STK_CTL.STARTER, R744. -/
def STK_CTL_STARTER : Fld := ⟨.stk, 0x100, 32, 1, 1, .rw, 0x0, 1, 0x0⟩
/-- STK_CTL.EARLY_RECOVERY, R744. -/
def STK_CTL_EARLY_RECOVERY : Fld := ⟨.stk, 0x100, 32, 2, 1, .rw, 0x0, 1, 0x0⟩
/-- STK_STAT.STATE, R744. -/
def STK_STAT_STATE : Fld := ⟨.stk, 0x104, 32, 0, 2, .ro, 0x0, 1, 0x0⟩
/-- STK_STAT.LATE, R744. -/
def STK_STAT_LATE : Fld := ⟨.stk, 0x104, 32, 2, 1, .ro, 0x0, 1, 0x0⟩
/-- STK_STAT.CFG_ERR, R744. -/
def STK_STAT_CFG_ERR : Fld := ⟨.stk, 0x104, 32, 3, 1, .w1c, 0x0, 1, 0x0⟩
/-- STK_STAT.GO_ERR, R744. -/
def STK_STAT_GO_ERR : Fld := ⟨.stk, 0x104, 32, 4, 1, .w1c, 0x0, 1, 0x0⟩
/-- STK_STAT.CATCH_LATE, R744. -/
def STK_STAT_CATCH_LATE : Fld := ⟨.stk, 0x104, 32, 5, 1, .w1c, 0x0, 1, 0x0⟩
/-- STK_STAT.NONDET_SEEN, R744. -/
def STK_STAT_NONDET_SEEN : Fld := ⟨.stk, 0x104, 32, 6, 1, .w1c, 0x0, 1, 0x0⟩
/-- STK_STAT.HOLD_STATUS, R744. -/
def STK_STAT_HOLD_STATUS : Fld := ⟨.stk, 0x104, 32, 8, 8, .ro, 0x0, 1, 0x0⟩
/-- STK_CMD.CMD, R744. -/
def STK_CMD_CMD : Fld := ⟨.stk, 0x108, 32, 0, 4, .wo, 0x0, 1, 0x0⟩
/-- STK_MEMBERS.COUNT, R744. -/
def STK_MEMBERS_COUNT : Fld := ⟨.stk, 0x10c, 32, 0, 10, .rw, 0x1, 1, 0x0⟩
/-- STK_PERIOD.NS, R744. -/
def STK_PERIOD_NS : Fld := ⟨.stk, 0x110, 32, 0, 30, .rw, 0x1e8480, 1, 0x0⟩
/-- STK_DRIVE.NS, R744. -/
def STK_DRIVE_NS : Fld := ⟨.stk, 0x114, 32, 0, 30, .rw, 0x1b7740, 1, 0x0⟩
/-- STK_LEAD.NS, R744. -/
def STK_LEAD_NS : Fld := ⟨.stk, 0x118, 32, 0, 15, .rw, 0x7d0, 1, 0x0⟩
/-- STK_QUANTUM.NS, R744. -/
def STK_QUANTUM_NS : Fld := ⟨.stk, 0x11c, 32, 0, 17, .rw, 0x3e8, 1, 0x0⟩
/-- STK_STRETCH_MAX.PERMILLE, R744. -/
def STK_STRETCH_MAX_PERMILLE : Fld := ⟨.stk, 0x120, 32, 0, 9, .rw, 0x64, 1, 0x0⟩
/-- STK_CATCH_TIMEOUT.NS, R744. -/
def STK_CATCH_TIMEOUT_NS : Fld := ⟨.stk, 0x124, 32, 0, 30, .rw, 0xc350, 1, 0x0⟩
/-- STK_FIRST_STROKE, R744. -/
def STK_FIRST_STROKE : Fld := ⟨.stk, 0x128, 64, 0, 64, .rw, 0x0, 1, 0x0⟩
/-- STK_FWD_MASK.MASK, R744. -/
def STK_FWD_MASK_MASK : Fld := ⟨.stk, 0x130, 32, 0, 16, .rw, 0x0, 1, 0x0⟩
/-- STK_STROKE, R744. -/
def STK_STROKE : Fld := ⟨.stk, 0x138, 64, 0, 64, .ro, 0x0, 1, 0x0⟩
/-- STK_SCHEDULE_ID, R744. -/
def STK_SCHEDULE_ID : Fld := ⟨.stk, 0x140, 64, 0, 64, .rw, 0x0, 1, 0x0⟩
/-- STK_GO_FAULT.DEV, R744. -/
def STK_GO_FAULT_DEV : Fld := ⟨.stk, 0x148, 32, 0, 9, .ro, 0x0, 1, 0x0⟩
/-- STK_GO_FAULT.CAUSE, R744. -/
def STK_GO_FAULT_CAUSE : Fld := ⟨.stk, 0x148, 32, 12, 3, .ro, 0x0, 1, 0x0⟩
/-- STK_GO_FAULT.READY_COUNT, R744. -/
def STK_GO_FAULT_READY_COUNT : Fld := ⟨.stk, 0x148, 32, 15, 10, .ro, 0x0, 1, 0x0⟩
/-- STK_GO_FAULT.VALID, R744. -/
def STK_GO_FAULT_VALID : Fld := ⟨.stk, 0x148, 32, 31, 1, .ro, 0x0, 1, 0x0⟩
/-- STK_LATE_MASK.MASK, R744. -/
def STK_LATE_MASK_MASK : Fld := ⟨.stk, 0x14c, 32, 0, 16, .ro, 0x0, 1, 0x0⟩
/-- STK_STRETCH_TOTAL, R744. -/
def STK_STRETCH_TOTAL : Fld := ⟨.stk, 0x150, 64, 0, 64, .ro, 0x0, 1, 0x0⟩
/-- STK_STRETCH_COUNT, R744. -/
def STK_STRETCH_COUNT : Fld := ⟨.stk, 0x158, 64, 0, 64, .ro, 0x0, 1, 0x0⟩
/-- STK_STRAY_COUNT, R744. -/
def STK_STRAY_COUNT : Fld := ⟨.stk, 0x160, 32, 0, 32, .ro, 0x0, 1, 0x0⟩
/-- STK_LAST_ELAPSED, R744. -/
def STK_LAST_ELAPSED : Fld := ⟨.stk, 0x164, 32, 0, 32, .ro, 0x0, 1, 0x0⟩
/-- STK_READY_MAP, R744. -/
def STK_READY_MAP : Fld := ⟨.stk, 0x180, 32, 0, 32, .ro, 0x0, 16, 0x4⟩
/-- PWR_PC_ENERGY, R677. -/
def PWR_PC_ENERGY : Fld := ⟨.pwr, 0x30, 64, 0, 64, .ro, 0x0, 1, 0x0⟩
/-- PWR_PC_THROTTLE_NS, R677. -/
def PWR_PC_THROTTLE_NS : Fld := ⟨.pwr, 0x38, 64, 0, 64, .ro, 0x0, 1, 0x0⟩
/-- PWR_PC_ENTRIES, R677. -/
def PWR_PC_ENTRIES : Fld := ⟨.pwr, 0x40, 64, 0, 64, .ro, 0x0, 1, 0x0⟩
/-- PWR_PC_REFUSALS, R677. -/
def PWR_PC_REFUSALS : Fld := ⟨.pwr, 0x48, 64, 0, 64, .ro, 0x0, 1, 0x0⟩
/-- PWR_CMD.TARGET, R677. -/
def PWR_CMD_TARGET : Fld := ⟨.pwr, 0x100, 32, 0, 2, .wo, 0x0, 1, 0x0⟩
/-- PWR_STAT.STATE, R677. -/
def PWR_STAT_STATE : Fld := ⟨.pwr, 0x104, 32, 0, 3, .ro, 0x0, 1, 0x0⟩
/-- PWR_STAT.TRIP, R677. -/
def PWR_STAT_TRIP : Fld := ⟨.pwr, 0x104, 32, 3, 1, .ro, 0x0, 1, 0x0⟩
/-- PWR_STAT.LAST_RESULT, R677. -/
def PWR_STAT_LAST_RESULT : Fld := ⟨.pwr, 0x104, 32, 4, 2, .ro, 0x0, 1, 0x0⟩
/-- PWR_STAT.REASON, R677. -/
def PWR_STAT_REASON : Fld := ⟨.pwr, 0x104, 32, 6, 4, .ro, 0x0, 1, 0x0⟩
/-- PWR_STAT.STEP, R677. -/
def PWR_STAT_STEP : Fld := ⟨.pwr, 0x104, 32, 10, 4, .ro, 0x0, 1, 0x0⟩
/-- PWR_STAT.BLOCK_TYPE, R677. -/
def PWR_STAT_BLOCK_TYPE : Fld := ⟨.pwr, 0x104, 32, 16, 7, .ro, 0x0, 1, 0x0⟩
/-- PWR_STAT.BLOCK_INSTANCE, R677. -/
def PWR_STAT_BLOCK_INSTANCE : Fld := ⟨.pwr, 0x104, 32, 23, 8, .ro, 0x0, 1, 0x0⟩
/-- PWR_DEFER_MAX.MS, R677. -/
def PWR_DEFER_MAX_MS : Fld := ⟨.pwr, 0x108, 32, 0, 14, .rwk, 0x64, 1, 0x0⟩
/-- PWR_LIMIT.W, R677. -/
def PWR_LIMIT_W : Fld := ⟨.pwr, 0x10c, 32, 0, 11, .rwk, 0x640, 1, 0x0⟩
/-- PWR_HYST.W, R677. -/
def PWR_HYST_W : Fld := ⟨.pwr, 0x110, 32, 0, 8, .rwk, 0x32, 1, 0x0⟩
/-- PWR_CLOCK.POINT, R677. -/
def PWR_CLOCK_POINT : Fld := ⟨.pwr, 0x114, 32, 0, 3, .ro, 0x0, 1, 0x0⟩
/-- PWR_CLOCK.CAUSE, R677. -/
def PWR_CLOCK_CAUSE : Fld := ⟨.pwr, 0x114, 32, 4, 3, .ro, 0x0, 1, 0x0⟩
/-- PWR_CLOCK_MAX.POINT, R677. -/
def PWR_CLOCK_MAX_POINT : Fld := ⟨.pwr, 0x118, 32, 0, 3, .rwk, 0x0, 1, 0x0⟩
/-- PWR_INPUT.MV, R677. -/
def PWR_INPUT_MV : Fld := ⟨.pwr, 0x11c, 32, 0, 16, .ro, 0x0, 1, 0x0⟩
/-- PWR_INPUT.W, R677. -/
def PWR_INPUT_W : Fld := ⟨.pwr, 0x11c, 32, 16, 12, .ro, 0x0, 1, 0x0⟩
/-- PWR_PAD_RELEASE.HELD, R677. -/
def PWR_PAD_RELEASE_HELD : Fld := ⟨.pwr, 0x120, 32, 0, 7, .w1c, 0x0, 1, 0x0⟩
/-- PWR_RESET_CAUSE.KIND, R677. -/
def PWR_RESET_CAUSE_KIND : Fld := ⟨.pwr, 0x124, 32, 0, 2, .ro, 0x1, 1, 0x0⟩
/-- PWR_RESET_CAUSE.TRIGGER, R677. -/
def PWR_RESET_CAUSE_TRIGGER : Fld := ⟨.pwr, 0x124, 32, 4, 4, .ro, 0x0, 1, 0x0⟩
/-- PWR_WARM_RESET.KEY, R677. -/
def PWR_WARM_RESET_KEY : Fld := ⟨.pwr, 0x128, 32, 0, 32, .wo, 0x0, 1, 0x0⟩
/-- PWR_RET_CMD.OP, R677. -/
def PWR_RET_CMD_OP : Fld := ⟨.pwr, 0x130, 32, 0, 2, .wo, 0x0, 1, 0x0⟩
/-- PWR_RET_STAT.BUSY, R677. -/
def PWR_RET_STAT_BUSY : Fld := ⟨.pwr, 0x134, 32, 0, 1, .ro, 0x0, 1, 0x0⟩
/-- PWR_RET_STAT.SOURCE, R677. -/
def PWR_RET_STAT_SOURCE : Fld := ⟨.pwr, 0x134, 32, 1, 2, .ro, 0x2, 1, 0x0⟩
/-- PWR_RET_STAT.SEQUENCE, R677. -/
def PWR_RET_STAT_SEQUENCE : Fld := ⟨.pwr, 0x134, 32, 8, 24, .ro, 0x0, 1, 0x0⟩
/-- PWR_RET_COMMITS.SLOT0, R677. -/
def PWR_RET_COMMITS_SLOT0 : Fld := ⟨.pwr, 0x138, 64, 0, 32, .ro, 0x0, 1, 0x0⟩
/-- PWR_RET_COMMITS.SLOT1, R677. -/
def PWR_RET_COMMITS_SLOT1 : Fld := ⟨.pwr, 0x138, 64, 32, 32, .ro, 0x0, 1, 0x0⟩
/-- LOG_WRITTEN, R687. -/
def LOG_WRITTEN : Fld := ⟨.log, 0x100, 64, 0, 64, .ro, 0x0, 1, 0x0⟩
/-- LOG_DROPPED, R687. -/
def LOG_DROPPED : Fld := ⟨.log, 0x108, 64, 0, 64, .ro, 0x0, 1, 0x0⟩
/-- LOG_CTL.MIN_SEVERITY, R687. -/
def LOG_CTL_MIN_SEVERITY : Fld := ⟨.log, 0x110, 32, 0, 3, .rwk, 0x0, 1, 0x0⟩
/-- LOG_CTL.IBI_SEVERITY, R687. -/
def LOG_CTL_IBI_SEVERITY : Fld := ⟨.log, 0x110, 32, 4, 3, .rwk, 0x4, 1, 0x0⟩
/-- LOG_CTL.FREEZE, R687. -/
def LOG_CTL_FREEZE : Fld := ⟨.log, 0x110, 32, 8, 1, .rw, 0x0, 1, 0x0⟩
/-- LOG_INDEX.INDEX, R687. -/
def LOG_INDEX_INDEX : Fld := ⟨.log, 0x114, 32, 0, 13, .rw, 0x0, 1, 0x0⟩
/-- LOG_INJECT_DATA, R687. -/
def LOG_INJECT_DATA : Fld := ⟨.log, 0x140, 64, 0, 64, .rw, 0x0, 1, 0x0⟩
/-- LOG_INJECT.EVENT, R687. -/
def LOG_INJECT_EVENT : Fld := ⟨.log, 0x148, 32, 0, 16, .wo, 0x0, 1, 0x0⟩
/-- LOG_INJECT.SEVERITY, R687. -/
def LOG_INJECT_SEVERITY : Fld := ⟨.log, 0x148, 32, 16, 3, .wo, 0x0, 1, 0x0⟩
/-- SPR_PC_TRANSIENT, R646. -/
def SPR_PC_TRANSIENT : Fld := ⟨.spr, 0x30, 64, 0, 64, .ro, 0x0, 1, 0x0⟩
/-- SPR_PC_PERMANENT, R646. -/
def SPR_PC_PERMANENT : Fld := ⟨.spr, 0x38, 64, 0, 64, .ro, 0x0, 1, 0x0⟩
/-- SPR_PC_ENTERED, R646. -/
def SPR_PC_ENTERED : Fld := ⟨.spr, 0x40, 64, 0, 64, .ro, 0x0, 1, 0x0⟩
/-- SPR_PC_LEDGER, R646. -/
def SPR_PC_LEDGER : Fld := ⟨.spr, 0x48, 64, 0, 64, .ro, 0x0, 1, 0x0⟩
/-- SPR_AUTO.KINDS, R646. -/
def SPR_AUTO_KINDS : Fld := ⟨.spr, 0x100, 32, 0, 16, .rwk, 0xffff, 1, 0x0⟩
/-- SPR_WINDOW.MS, R646. -/
def SPR_WINDOW_MS : Fld := ⟨.spr, 0x104, 32, 0, 16, .rwk, 0x3e8, 1, 0x0⟩
/-- SPR_CMD.OP, R646. -/
def SPR_CMD_OP : Fld := ⟨.spr, 0x108, 32, 0, 2, .wo, 0x0, 1, 0x0⟩
/-- SPR_CMD.KIND, R646. -/
def SPR_CMD_KIND : Fld := ⟨.spr, 0x108, 32, 4, 4, .wo, 0x0, 1, 0x0⟩
/-- SPR_CMD.BLOCK, R646. -/
def SPR_CMD_BLOCK : Fld := ⟨.spr, 0x108, 32, 16, 16, .wo, 0x0, 1, 0x0⟩
/-- SPR_CMD_POS, R646. -/
def SPR_CMD_POS : Fld := ⟨.spr, 0x10c, 32, 0, 32, .rw, 0x0, 1, 0x0⟩
/-- SPR_CMD_STAT.BUSY, R646. -/
def SPR_CMD_STAT_BUSY : Fld := ⟨.spr, 0x110, 32, 0, 1, .ro, 0x0, 1, 0x0⟩
/-- SPR_CMD_STAT.STATUS, R646. -/
def SPR_CMD_STAT_STATUS : Fld := ⟨.spr, 0x110, 32, 8, 8, .ro, 0x0, 1, 0x0⟩
/-- SPR_PENDING.KINDS, R646. -/
def SPR_PENDING_KINDS : Fld := ⟨.spr, 0x114, 32, 0, 16, .ro, 0x0, 1, 0x0⟩
/-- SPR_LEDGER_STAT.REGION, R646. -/
def SPR_LEDGER_STAT_REGION : Fld := ⟨.spr, 0x118, 32, 0, 1, .ro, 0x0, 1, 0x0⟩
/-- SPR_LEDGER_STAT.USED, R646. -/
def SPR_LEDGER_STAT_USED : Fld := ⟨.spr, 0x118, 32, 1, 19, .ro, 0x0, 1, 0x0⟩
/-- SPR_LEDGER_STAT.SKIPPED, R646. -/
def SPR_LEDGER_STAT_SKIPPED : Fld := ⟨.spr, 0x118, 32, 20, 12, .ro, 0x0, 1, 0x0⟩
/-- SPR_LEDGER_INDEX.INDEX, R646. -/
def SPR_LEDGER_INDEX_INDEX : Fld := ⟨.spr, 0x11c, 32, 0, 18, .rw, 0x0, 1, 0x0⟩
/-- SPR_LEDGER_INDEX.OTHER, R646. -/
def SPR_LEDGER_INDEX_OTHER : Fld := ⟨.spr, 0x11c, 32, 31, 1, .rw, 0x0, 1, 0x0⟩
/-- TMP_DIE.TEMP, R757. -/
def TMP_DIE_TEMP : Fld := ⟨.tmp, 0x100, 32, 0, 8, .ro, 0x0, 6, 0x4⟩
/-- TMP_DIE.PEAK, R757. -/
def TMP_DIE_PEAK : Fld := ⟨.tmp, 0x100, 32, 8, 8, .ro, 0x0, 6, 0x4⟩
/-- TMP_DIE.VALID, R757. -/
def TMP_DIE_VALID : Fld := ⟨.tmp, 0x100, 32, 31, 1, .ro, 0x0, 6, 0x4⟩
/-- TMP_HOTTEST.TEMP, R757. -/
def TMP_HOTTEST_TEMP : Fld := ⟨.tmp, 0x118, 32, 0, 8, .ro, 0x0, 1, 0x0⟩
/-- TMP_HOTTEST.DIE, R757. -/
def TMP_HOTTEST_DIE : Fld := ⟨.tmp, 0x118, 32, 8, 3, .ro, 0x0, 1, 0x0⟩
/-- TMP_HOTTEST.VALID, R757. -/
def TMP_HOTTEST_VALID : Fld := ⟨.tmp, 0x118, 32, 31, 1, .ro, 0x0, 1, 0x0⟩
/-- HIF_PC_RX_BYTES, R613. -/
def HIF_PC_RX_BYTES : Fld := ⟨.hif, 0x30, 64, 0, 64, .ro, 0x0, 1, 0x0⟩
/-- HIF_PC_TX_BYTES, R613. -/
def HIF_PC_TX_BYTES : Fld := ⟨.hif, 0x38, 64, 0, 64, .ro, 0x0, 1, 0x0⟩
/-- HIF_PC_BAR_FAULTS, R613. -/
def HIF_PC_BAR_FAULTS : Fld := ⟨.hif, 0x40, 64, 0, 64, .ro, 0x0, 1, 0x0⟩
/-- HIF_PC_TRIGGER_DROPS, R613. -/
def HIF_PC_TRIGGER_DROPS : Fld := ⟨.hif, 0x48, 64, 0, 64, .ro, 0x0, 1, 0x0⟩
/-- HIF_PC_DOORBELL_DROPS, R613. -/
def HIF_PC_DOORBELL_DROPS : Fld := ⟨.hif, 0x50, 64, 0, 64, .ro, 0x0, 1, 0x0⟩
/-- HIF_PC_STEP_SAVES, R613. -/
def HIF_PC_STEP_SAVES : Fld := ⟨.hif, 0x58, 64, 0, 64, .ro, 0x0, 1, 0x0⟩
/-- HIF_PC_BOUNDARY_SAVES, R613. -/
def HIF_PC_BOUNDARY_SAVES : Fld := ⟨.hif, 0x60, 64, 0, 64, .ro, 0x0, 1, 0x0⟩
/-- HIF_LINK_STAT.SPEED, R613. -/
def HIF_LINK_STAT_SPEED : Fld := ⟨.hif, 0x100, 32, 0, 3, .ro, 0x0, 1, 0x0⟩
/-- HIF_LINK_STAT.WIDTH, R613. -/
def HIF_LINK_STAT_WIDTH : Fld := ⟨.hif, 0x100, 32, 8, 5, .ro, 0x0, 1, 0x0⟩
/-- HIF_LINK_STAT.FLIT, R613. -/
def HIF_LINK_STAT_FLIT : Fld := ⟨.hif, 0x100, 32, 13, 1, .ro, 0x0, 1, 0x0⟩
/-- HIF_LINK_STAT.FRONT, R613. -/
def HIF_LINK_STAT_FRONT : Fld := ⟨.hif, 0x100, 32, 14, 1, .ro, 0x0, 1, 0x0⟩
/-- HIF_PREEMPT_HORIZON.NS, R613. -/
def HIF_PREEMPT_HORIZON_NS : Fld := ⟨.hif, 0x104, 32, 0, 27, .rwk, 0xc350, 1, 0x0⟩
/-- HIF_RD_LIMIT.NS, R613. -/
def HIF_RD_LIMIT_NS : Fld := ⟨.hif, 0x108, 32, 0, 27, .rwk, 0x989680, 1, 0x0⟩
/-- HIF_ERR.LINK_DOWN, R613. -/
def HIF_ERR_LINK_DOWN : Fld := ⟨.hif, 0x10c, 32, 0, 1, .w1c, 0x0, 1, 0x0⟩
/-- HIF_ERR.CPL_TIMEOUT, R613. -/
def HIF_ERR_CPL_TIMEOUT : Fld := ⟨.hif, 0x10c, 32, 1, 1, .w1c, 0x0, 1, 0x0⟩
/-- HIF_ERR.POISON_RX, R613. -/
def HIF_ERR_POISON_RX : Fld := ⟨.hif, 0x10c, 32, 2, 1, .w1c, 0x0, 1, 0x0⟩
/-- HIF_HWIN.ENABLE, R613. -/
def HIF_HWIN_ENABLE : Fld := ⟨.hif, 0x200, 64, 0, 1, .rw, 0x0, 16, 0x8⟩
/-- HIF_HWIN.BUS_BASE, R613. -/
def HIF_HWIN_BUS_BASE : Fld := ⟨.hif, 0x200, 64, 12, 52, .rw, 0x0, 16, 0x8⟩
/-- CTX_ACC_CYCLES, R614. -/
def CTX_ACC_CYCLES : Fld := ⟨.ctx, 0x30, 64, 0, 64, .ro, 0x0, 1, 0x0⟩
/-- CTX_ACC_ENERGY, R614. -/
def CTX_ACC_ENERGY : Fld := ⟨.ctx, 0x38, 64, 0, 64, .ro, 0x0, 1, 0x0⟩
/-- CTX_ACC_HBM, R614. -/
def CTX_ACC_HBM : Fld := ⟨.ctx, 0x40, 64, 0, 64, .ro, 0x0, 1, 0x0⟩
/-- CTX_ACC_LPD, R614. -/
def CTX_ACC_LPD : Fld := ⟨.ctx, 0x48, 64, 0, 64, .ro, 0x0, 1, 0x0⟩
/-- CTX_ACC_NBR, R614. -/
def CTX_ACC_NBR : Fld := ⟨.ctx, 0x50, 64, 0, 64, .ro, 0x0, 1, 0x0⟩
/-- CTX_ACC_HOST, R614. -/
def CTX_ACC_HOST : Fld := ⟨.ctx, 0x58, 64, 0, 64, .ro, 0x0, 1, 0x0⟩
/-- CTX_ACC_PORT, R614. -/
def CTX_ACC_PORT : Fld := ⟨.ctx, 0x60, 64, 0, 64, .ro, 0x0, 16, 0x8⟩
/-- CTX_PC_PREEMPTS, R614. -/
def CTX_PC_PREEMPTS : Fld := ⟨.ctx, 0xe0, 64, 0, 64, .ro, 0x0, 1, 0x0⟩
/-- CTX_PC_SAVED_BYTES, R614. -/
def CTX_PC_SAVED_BYTES : Fld := ⟨.ctx, 0xe8, 64, 0, 64, .ro, 0x0, 1, 0x0⟩
/-- CTX_PT_ROOT.ROOT, R467. -/
def CTX_PT_ROOT_ROOT : Fld := ⟨.ctx, 0x100, 64, 13, 30, .rw, 0x0, 1, 0x0⟩
/-- CTX_SCALE_TABLE, R614. -/
def CTX_SCALE_TABLE : Fld := ⟨.ctx, 0x108, 64, 0, 64, .rw, 0x0, 1, 0x0⟩
/-- CTX_CTL.PRIORITY, R614. -/
def CTX_CTL_PRIORITY : Fld := ⟨.ctx, 0x110, 32, 0, 2, .rw, 0x0, 1, 0x0⟩
/-- CTX_CTL.TIER_POOL, R614. -/
def CTX_CTL_TIER_POOL : Fld := ⟨.ctx, 0x110, 32, 2, 3, .rw, 0x0, 1, 0x0⟩
/-- CTX_CTL.URGENT, R614. -/
def CTX_CTL_URGENT : Fld := ⟨.ctx, 0x110, 32, 5, 1, .rw, 0x0, 1, 0x0⟩
/-- CTX_CTL.PREEMPT, R614. -/
def CTX_CTL_PREEMPT : Fld := ⟨.ctx, 0x110, 32, 6, 1, .w1s, 0x0, 1, 0x0⟩
/-- CTX_CTL.RESUME, R614. -/
def CTX_CTL_RESUME : Fld := ⟨.ctx, 0x110, 32, 7, 1, .w1s, 0x0, 1, 0x0⟩
/-- CTX_CTL.ACC_CLEAR, R614. -/
def CTX_CTL_ACC_CLEAR : Fld := ⟨.ctx, 0x110, 32, 8, 1, .w1s, 0x0, 1, 0x0⟩
/-- CTX_STAT.STATE, R614. -/
def CTX_STAT_STATE : Fld := ⟨.ctx, 0x114, 32, 0, 3, .ro, 0x0, 1, 0x0⟩
/-- CTX_STAT.ENABLE_ERR, R614. -/
def CTX_STAT_ENABLE_ERR : Fld := ⟨.ctx, 0x114, 32, 3, 1, .w1c, 0x0, 1, 0x0⟩
/-- CTX_STAT.ERR_CAUSE, R614. -/
def CTX_STAT_ERR_CAUSE : Fld := ⟨.ctx, 0x114, 32, 4, 3, .ro, 0x0, 1, 0x0⟩
/-- CTX_STAT.DOORBELL_DROP, R614. -/
def CTX_STAT_DOORBELL_DROP : Fld := ⟨.ctx, 0x114, 32, 7, 1, .w1c, 0x0, 1, 0x0⟩
/-- CTX_STAT.SEAT_SLOTS_USED, R614. -/
def CTX_STAT_SEAT_SLOTS_USED : Fld := ⟨.ctx, 0x114, 32, 8, 8, .ro, 0x0, 1, 0x0⟩
/-- CTX_STAT.CREW_SLOTS_USED, R614. -/
def CTX_STAT_CREW_SLOTS_USED : Fld := ⟨.ctx, 0x114, 32, 16, 5, .ro, 0x0, 1, 0x0⟩
/-- CTX_WINGS, R614. -/
def CTX_WINGS : Fld := ⟨.ctx, 0x118, 64, 0, 64, .rw, 0x0, 1, 0x0⟩
/-- CTX_WINGS_SIZE.SIZE, R614. -/
def CTX_WINGS_SIZE_SIZE : Fld := ⟨.ctx, 0x120, 32, 0, 12, .rw, 0x0, 1, 0x0⟩
/-- CTX_WINGS_CFG.SEAT_SLOTS, R614. -/
def CTX_WINGS_CFG_SEAT_SLOTS : Fld := ⟨.ctx, 0x124, 32, 0, 8, .rw, 0x0, 1, 0x0⟩
/-- CTX_WINGS_CFG.CREW_SLOTS, R614. -/
def CTX_WINGS_CFG_CREW_SLOTS : Fld := ⟨.ctx, 0x124, 32, 8, 5, .rw, 0x0, 1, 0x0⟩
/-- CTX_LIVE_MAP, R614. -/
def CTX_LIVE_MAP : Fld := ⟨.ctx, 0x128, 64, 0, 64, .rw, 0x0, 1, 0x0⟩
/-- CTX_SELF_VA, R614. -/
def CTX_SELF_VA : Fld := ⟨.ctx, 0x130, 64, 0, 64, .rw, 0x0, 1, 0x0⟩
/-- CTX_TASK_RING_BASE, R614. -/
def CTX_TASK_RING_BASE : Fld := ⟨.ctx, 0x138, 64, 0, 64, .rw, 0x0, 1, 0x0⟩
/-- CTX_TASK_RING_CTL.SIZE_LOG2, R614. -/
def CTX_TASK_RING_CTL_SIZE_LOG2 : Fld := ⟨.ctx, 0x140, 32, 0, 5, .rw, 0x6, 1, 0x0⟩
/-- CTX_TASK_RING_CTL.TOKEN, R614. -/
def CTX_TASK_RING_CTL_TOKEN : Fld := ⟨.ctx, 0x140, 32, 16, 14, .rw, 0x0, 1, 0x0⟩
/-- CTX_TASK_RING_CTL.ENABLE, R614. -/
def CTX_TASK_RING_CTL_ENABLE : Fld := ⟨.ctx, 0x140, 32, 31, 1, .rw, 0x0, 1, 0x0⟩
/-- CTX_TASK_HEAD, R614. -/
def CTX_TASK_HEAD : Fld := ⟨.ctx, 0x144, 32, 0, 32, .rw, 0x0, 1, 0x0⟩
/-- CTX_APERTURE, R614. -/
def CTX_APERTURE : Fld := ⟨.ctx, 0x148, 64, 0, 64, .rw, 0x0, 1, 0x0⟩
/-- CTX_DOORBELL.ADDR, R614. -/
def CTX_DOORBELL_ADDR : Fld := ⟨.ctx, 0x180, 64, 2, 50, .rw, 0x0, 16, 0x8⟩
/-- CTX_DOORBELL.VALID, R614. -/
def CTX_DOORBELL_VALID : Fld := ⟨.ctx, 0x180, 64, 63, 1, .rw, 0x0, 16, 0x8⟩
/-- HBM_PC_BOUNCES, R458. -/
def HBM_PC_BOUNCES : Fld := ⟨.hbm, 0x30, 64, 0, 64, .ro, 0x0, 1, 0x0⟩
/-- HBM_PC_TIMEOUTS, R458. -/
def HBM_PC_TIMEOUTS : Fld := ⟨.hbm, 0x38, 64, 0, 64, .ro, 0x0, 1, 0x0⟩
/-- HBM_TEMP.TEMP, R458. -/
def HBM_TEMP_TEMP : Fld := ⟨.hbm, 0x100, 32, 0, 8, .ro, 0x0, 1, 0x0⟩
/-- HBM_TEMP.VALID, R458. -/
def HBM_TEMP_VALID : Fld := ⟨.hbm, 0x100, 32, 8, 1, .ro, 0x0, 1, 0x0⟩
/-- HBM_THROTTLE.LEVEL, R458. -/
def HBM_THROTTLE_LEVEL : Fld := ⟨.hbm, 0x104, 32, 0, 3, .ro, 0x0, 1, 0x0⟩
/-- HBM_TIMEOUT.NS, R458. -/
def HBM_TIMEOUT_NS : Fld := ⟨.hbm, 0x108, 32, 0, 24, .rwk, 0x186a0, 1, 0x0⟩
/-- HBM_SLOTS_USED.COUNT, R458. -/
def HBM_SLOTS_USED_COUNT : Fld := ⟨.hbm, 0x10c, 32, 0, 16, .ro, 0x0, 1, 0x0⟩
/-- HBM_BANKS_HELD.COUNT, R458. -/
def HBM_BANKS_HELD_COUNT : Fld := ⟨.hbm, 0x110, 32, 0, 11, .ro, 0x0, 1, 0x0⟩
/-- LPD_PC_BOUNCES, R458. -/
def LPD_PC_BOUNCES : Fld := ⟨.lpd, 0x30, 64, 0, 64, .ro, 0x0, 1, 0x0⟩
/-- LPD_PC_TIMEOUTS, R458. -/
def LPD_PC_TIMEOUTS : Fld := ⟨.lpd, 0x38, 64, 0, 64, .ro, 0x0, 1, 0x0⟩
/-- LPD_TEMP.TEMP, R458. -/
def LPD_TEMP_TEMP : Fld := ⟨.lpd, 0x100, 32, 0, 8, .ro, 0x0, 1, 0x0⟩
/-- LPD_TEMP.VALID, R458. -/
def LPD_TEMP_VALID : Fld := ⟨.lpd, 0x100, 32, 8, 1, .ro, 0x0, 1, 0x0⟩
/-- LPD_TIMEOUT.NS, R458. -/
def LPD_TIMEOUT_NS : Fld := ⟨.lpd, 0x108, 32, 0, 24, .rwk, 0x186a0, 1, 0x0⟩
/-- LPD_SLOTS_USED.COUNT, R458. -/
def LPD_SLOTS_USED_COUNT : Fld := ⟨.lpd, 0x10c, 32, 0, 16, .ro, 0x0, 1, 0x0⟩
/-- LPD_BANKS_HELD.COUNT, R458. -/
def LPD_BANKS_HELD_COUNT : Fld := ⟨.lpd, 0x110, 32, 0, 11, .ro, 0x0, 1, 0x0⟩
/-- LNK_PC_TX_CELLS, R575. -/
def LNK_PC_TX_CELLS : Fld := ⟨.lnk, 0x30, 64, 0, 64, .ro, 0x0, 1, 0x0⟩
/-- LNK_PC_RX_CELLS, R575. -/
def LNK_PC_RX_CELLS : Fld := ⟨.lnk, 0x38, 64, 0, 64, .ro, 0x0, 1, 0x0⟩
/-- LNK_PC_FEC_SYMBOLS, R575. -/
def LNK_PC_FEC_SYMBOLS : Fld := ⟨.lnk, 0x40, 64, 0, 64, .ro, 0x0, 1, 0x0⟩
/-- LNK_PC_FEC_UNCORR, R575. -/
def LNK_PC_FEC_UNCORR : Fld := ⟨.lnk, 0x48, 64, 0, 64, .ro, 0x0, 1, 0x0⟩
/-- LNK_PC_REPLAYS, R575. -/
def LNK_PC_REPLAYS : Fld := ⟨.lnk, 0x50, 64, 0, 64, .ro, 0x0, 1, 0x0⟩
/-- LNK_PC_DROPPED, R575. -/
def LNK_PC_DROPPED : Fld := ⟨.lnk, 0x58, 64, 0, 64, .ro, 0x0, 1, 0x0⟩
/-- LNK_PC_TIMEOUTS, R575. -/
def LNK_PC_TIMEOUTS : Fld := ⟨.lnk, 0x60, 64, 0, 64, .ro, 0x0, 1, 0x0⟩
/-- LNK_PC_LATE_RESP, R575. -/
def LNK_PC_LATE_RESP : Fld := ⟨.lnk, 0x68, 64, 0, 64, .ro, 0x0, 1, 0x0⟩
/-- LNK_CTL.LANE_AUTO, R575. -/
def LNK_CTL_LANE_AUTO : Fld := ⟨.lnk, 0x100, 32, 0, 1, .rwk, 0x1, 1, 0x0⟩
/-- LNK_CTL.MIN_WIDTH, R575. -/
def LNK_CTL_MIN_WIDTH : Fld := ⟨.lnk, 0x100, 32, 1, 2, .rwk, 0x1, 1, 0x0⟩
/-- LNK_CTL.RETRAIN, R575. -/
def LNK_CTL_RETRAIN : Fld := ⟨.lnk, 0x100, 32, 3, 1, .w1s, 0x0, 1, 0x0⟩
/-- LNK_STAT.STATE, R575. -/
def LNK_STAT_STATE : Fld := ⟨.lnk, 0x104, 32, 0, 3, .ro, 0x0, 1, 0x0⟩
/-- LNK_STAT.WIDTH, R575. -/
def LNK_STAT_WIDTH : Fld := ⟨.lnk, 0x104, 32, 3, 2, .ro, 0x0, 1, 0x0⟩
/-- LNK_STAT.SPARE_USED, R575. -/
def LNK_STAT_SPARE_USED : Fld := ⟨.lnk, 0x104, 32, 5, 1, .ro, 0x0, 1, 0x0⟩
/-- LNK_STAT.PHASE, R575. -/
def LNK_STAT_PHASE : Fld := ⟨.lnk, 0x104, 32, 6, 2, .ro, 0x0, 1, 0x0⟩
/-- LNK_PEER.DEV, R575. -/
def LNK_PEER_DEV : Fld := ⟨.lnk, 0x108, 32, 0, 9, .ro, 0x0, 1, 0x0⟩
/-- LNK_PEER.PORT, R575. -/
def LNK_PEER_PORT : Fld := ⟨.lnk, 0x108, 32, 16, 4, .ro, 0x0, 1, 0x0⟩
/-- LNK_PEER.VALID, R575. -/
def LNK_PEER_VALID : Fld := ⟨.lnk, 0x108, 32, 31, 1, .ro, 0x0, 1, 0x0⟩
/-- LNK_LATENCY.LAT, R575. -/
def LNK_LATENCY_LAT : Fld := ⟨.lnk, 0x10c, 32, 0, 24, .ro, 0x0, 1, 0x0⟩
/-- LNK_LANE_MAP.SPARED, R575. -/
def LNK_LANE_MAP_SPARED : Fld := ⟨.lnk, 0x110, 32, 0, 5, .ro, 0x1f, 1, 0x0⟩
/-- LNK_LANES_ACTIVE.MASK, R575. -/
def LNK_LANES_ACTIVE_MASK : Fld := ⟨.lnk, 0x114, 32, 0, 17, .ro, 0x0, 1, 0x0⟩
/-- LNK_RETRAIN.MAX_MS, R575. -/
def LNK_RETRAIN_MAX_MS : Fld := ⟨.lnk, 0x118, 32, 0, 8, .rwk, 0x64, 1, 0x0⟩
/-- LNK_RETRAIN.ERR_LIMIT, R575. -/
def LNK_RETRAIN_ERR_LIMIT : Fld := ⟨.lnk, 0x118, 32, 8, 16, .rwk, 0x4000, 1, 0x0⟩
/-- LNK_ARB.AGE, R575. -/
def LNK_ARB_AGE : Fld := ⟨.lnk, 0x11c, 32, 0, 8, .rw, 0x10, 1, 0x0⟩
/-- LNK_CREDIT_VC0.CLASS0, R575. -/
def LNK_CREDIT_VC0_CLASS0 : Fld := ⟨.lnk, 0x120, 32, 0, 14, .rw, 0x600, 1, 0x0⟩
/-- LNK_CREDIT_VC0.CLASS1, R575. -/
def LNK_CREDIT_VC0_CLASS1 : Fld := ⟨.lnk, 0x120, 32, 16, 14, .rw, 0x200, 1, 0x0⟩
/-- LNK_CREDIT_VC1.CLASS0, R575. -/
def LNK_CREDIT_VC1_CLASS0 : Fld := ⟨.lnk, 0x124, 32, 0, 14, .rw, 0xa00, 1, 0x0⟩
/-- LNK_CREDIT_VC1.CLASS1, R575. -/
def LNK_CREDIT_VC1_CLASS1 : Fld := ⟨.lnk, 0x124, 32, 16, 14, .rw, 0x200, 1, 0x0⟩
/-- LNK_CREDIT_VC2.CLASS0, R575. -/
def LNK_CREDIT_VC2_CLASS0 : Fld := ⟨.lnk, 0x128, 32, 0, 14, .rw, 0x800, 1, 0x0⟩
/-- LNK_CREDIT_VC2.CLASS1, R575. -/
def LNK_CREDIT_VC2_CLASS1 : Fld := ⟨.lnk, 0x128, 32, 16, 14, .rw, 0x200, 1, 0x0⟩
/-- LNK_CREDIT_VC3.CLASS0, R575. -/
def LNK_CREDIT_VC3_CLASS0 : Fld := ⟨.lnk, 0x12c, 32, 0, 14, .rw, 0x100, 1, 0x0⟩
/-- LNK_CREDIT_VC3.CLASS1, R575. -/
def LNK_CREDIT_VC3_CLASS1 : Fld := ⟨.lnk, 0x12c, 32, 16, 14, .rw, 0x100, 1, 0x0⟩
/-- LNK_SLOTS_USED.COUNT, R575. -/
def LNK_SLOTS_USED_COUNT : Fld := ⟨.lnk, 0x130, 32, 0, 14, .ro, 0x0, 1, 0x0⟩
/-- MMU_PC_WALKS, R499. -/
def MMU_PC_WALKS : Fld := ⟨.mmu, 0x30, 64, 0, 64, .ro, 0x0, 1, 0x0⟩
/-- MMU_PC_WALK_READS, R499. -/
def MMU_PC_WALK_READS : Fld := ⟨.mmu, 0x38, 64, 0, 64, .ro, 0x0, 1, 0x0⟩
/-- MMU_PC_DTLB_MISSES, R499. -/
def MMU_PC_DTLB_MISSES : Fld := ⟨.mmu, 0x40, 64, 0, 64, .ro, 0x0, 1, 0x0⟩
/-- MMU_PC_FAULTS, R499. -/
def MMU_PC_FAULTS : Fld := ⟨.mmu, 0x48, 64, 0, 64, .ro, 0x0, 1, 0x0⟩
/-- MMU_PC_JOINED, R499. -/
def MMU_PC_JOINED : Fld := ⟨.mmu, 0x50, 64, 0, 64, .ro, 0x0, 1, 0x0⟩
/-- MMU_PC_CKPT_COPIES, R499. -/
def MMU_PC_CKPT_COPIES : Fld := ⟨.mmu, 0x58, 64, 0, 64, .ro, 0x0, 1, 0x0⟩
/-- MMU_PC_CKPT_STALL_NS, R499. -/
def MMU_PC_CKPT_STALL_NS : Fld := ⟨.mmu, 0x60, 64, 0, 64, .ro, 0x0, 1, 0x0⟩
/-- MMU_PC_STALE_RESUME, R499. -/
def MMU_PC_STALE_RESUME : Fld := ⟨.mmu, 0x68, 64, 0, 64, .ro, 0x0, 1, 0x0⟩
/-- MMU_FAULT_RING_BASE, R499. -/
def MMU_FAULT_RING_BASE : Fld := ⟨.mmu, 0x100, 64, 0, 64, .rw, 0x0, 1, 0x0⟩
/-- MMU_FAULT_RING_CTL.SIZE_LOG2, R499. -/
def MMU_FAULT_RING_CTL_SIZE_LOG2 : Fld := ⟨.mmu, 0x108, 32, 0, 5, .rw, 0x8, 1, 0x0⟩
/-- MMU_FAULT_RING_CTL.VECTOR, R499. -/
def MMU_FAULT_RING_CTL_VECTOR : Fld := ⟨.mmu, 0x108, 32, 5, 11, .rw, 0x0, 1, 0x0⟩
/-- MMU_FAULT_RING_CTL.ENABLE, R499. -/
def MMU_FAULT_RING_CTL_ENABLE : Fld := ⟨.mmu, 0x108, 32, 31, 1, .rw, 0x0, 1, 0x0⟩
/-- MMU_FAULT_TAIL, R499. -/
def MMU_FAULT_TAIL : Fld := ⟨.mmu, 0x10c, 32, 0, 32, .ro, 0x0, 1, 0x0⟩
/-- MMU_FAULT_HEAD, R499. -/
def MMU_FAULT_HEAD : Fld := ⟨.mmu, 0x110, 32, 0, 32, .rw, 0x0, 1, 0x0⟩
/-- MMU_FAULT_OUT.COUNT, R499. -/
def MMU_FAULT_OUT_COUNT : Fld := ⟨.mmu, 0x114, 32, 0, 9, .ro, 0x0, 1, 0x0⟩
/-- MMU_FAULT_OUT.OVERFLOW, R499. -/
def MMU_FAULT_OUT_OVERFLOW : Fld := ⟨.mmu, 0x114, 32, 16, 1, .ro, 0x0, 1, 0x0⟩
/-- MMU_FAULT_OUT.RING_ERR, R499. -/
def MMU_FAULT_OUT_RING_ERR : Fld := ⟨.mmu, 0x114, 32, 17, 1, .ro, 0x0, 1, 0x0⟩
/-- MMU_RESUME.FAULT_ID, R499. -/
def MMU_RESUME_FAULT_ID : Fld := ⟨.mmu, 0x118, 32, 0, 16, .wo, 0x0, 1, 0x0⟩
/-- MMU_RESUME.CONTEXT, R499. -/
def MMU_RESUME_CONTEXT : Fld := ⟨.mmu, 0x118, 32, 16, 6, .wo, 0x0, 1, 0x0⟩
/-- MMU_RESUME.MODE, R499. -/
def MMU_RESUME_MODE : Fld := ⟨.mmu, 0x118, 32, 24, 2, .wo, 0x0, 1, 0x0⟩
/-- MMU_INVAL_VA, R499. -/
def MMU_INVAL_VA : Fld := ⟨.mmu, 0x120, 64, 0, 64, .rw, 0x0, 1, 0x0⟩
/-- MMU_INVAL_SIZE, R499. -/
def MMU_INVAL_SIZE : Fld := ⟨.mmu, 0x128, 64, 0, 64, .rw, 0x0, 1, 0x0⟩
/-- MMU_INVAL_CTL.CONTEXT, R499. -/
def MMU_INVAL_CTL_CONTEXT : Fld := ⟨.mmu, 0x130, 32, 0, 6, .rw, 0x0, 1, 0x0⟩
/-- MMU_INVAL_CTL.SCOPE, R499. -/
def MMU_INVAL_CTL_SCOPE : Fld := ⟨.mmu, 0x130, 32, 8, 2, .rw, 0x0, 1, 0x0⟩
/-- MMU_INVAL_CTL.GO, R499. -/
def MMU_INVAL_CTL_GO : Fld := ⟨.mmu, 0x130, 32, 16, 1, .w1s, 0x0, 1, 0x0⟩
/-- MMU_INVAL_CTL.BUSY, R499. -/
def MMU_INVAL_CTL_BUSY : Fld := ⟨.mmu, 0x130, 32, 17, 1, .ro, 0x0, 1, 0x0⟩
/-- MMU_CKPT_BASE, R499. -/
def MMU_CKPT_BASE : Fld := ⟨.mmu, 0x138, 64, 0, 64, .rw, 0x0, 1, 0x0⟩
/-- MMU_CKPT_AT, R499. -/
def MMU_CKPT_AT : Fld := ⟨.mmu, 0x140, 64, 0, 64, .rw, 0x0, 1, 0x0⟩
/-- MMU_CKPT_CTL.ARM, R499. -/
def MMU_CKPT_CTL_ARM : Fld := ⟨.mmu, 0x148, 32, 0, 1, .w1s, 0x0, 1, 0x0⟩
/-- MMU_CKPT_CTL.CANCEL, R499. -/
def MMU_CKPT_CTL_CANCEL : Fld := ⟨.mmu, 0x148, 32, 1, 1, .w1s, 0x0, 1, 0x0⟩
/-- MMU_CKPT_STAT.STATE, R499. -/
def MMU_CKPT_STAT_STATE : Fld := ⟨.mmu, 0x14c, 32, 0, 2, .ro, 0x0, 1, 0x0⟩
/-- MMU_CKPT_STAT.DONE, R499. -/
def MMU_CKPT_STAT_DONE : Fld := ⟨.mmu, 0x14c, 32, 2, 1, .w1c, 0x0, 1, 0x0⟩
/-- TIER_PC_PROMOTED, R456. -/
def TIER_PC_PROMOTED : Fld := ⟨.tier, 0x30, 64, 0, 64, .ro, 0x0, 1, 0x0⟩
/-- TIER_PC_EVICTED, R456. -/
def TIER_PC_EVICTED : Fld := ⟨.tier, 0x38, 64, 0, 64, .ro, 0x0, 1, 0x0⟩
/-- TIER_PC_BUSY, R456. -/
def TIER_PC_BUSY : Fld := ⟨.tier, 0x40, 64, 0, 64, .ro, 0x0, 1, 0x0⟩
/-- TIER_PC_REFUSED, R456. -/
def TIER_PC_REFUSED : Fld := ⟨.tier, 0x48, 64, 0, 64, .ro, 0x0, 1, 0x0⟩
/-- TIER_PC_WATCH_REREAD, R456. -/
def TIER_PC_WATCH_REREAD : Fld := ⟨.tier, 0x50, 64, 0, 64, .ro, 0x0, 1, 0x0⟩
/-- TIER_PC_WATCH_UNUSED, R456. -/
def TIER_PC_WATCH_UNUSED : Fld := ⟨.tier, 0x58, 64, 0, 64, .ro, 0x0, 1, 0x0⟩
/-- TIER_PC_CKPT_RESTORED, R647. -/
def TIER_PC_CKPT_RESTORED : Fld := ⟨.tier, 0x60, 64, 0, 64, .ro, 0x0, 1, 0x0⟩
/-- TIER_CTL.REBALANCE, R456. -/
def TIER_CTL_REBALANCE : Fld := ⟨.tier, 0x100, 32, 0, 1, .rw, 0x1, 1, 0x0⟩
/-- TIER_CTL.DRIVE_MOVES, R456. -/
def TIER_CTL_DRIVE_MOVES : Fld := ⟨.tier, 0x100, 32, 1, 1, .rw, 0x0, 1, 0x0⟩
/-- TIER_CTL.WATCH_ENABLE, R456. -/
def TIER_CTL_WATCH_ENABLE : Fld := ⟨.tier, 0x100, 32, 2, 1, .rwk, 0x1, 1, 0x0⟩
/-- TIER_CTL.WATCH_RETRIES, R456. -/
def TIER_CTL_WATCH_RETRIES : Fld := ⟨.tier, 0x100, 32, 3, 3, .rwk, 0x4, 1, 0x0⟩
/-- TIER_STAT.FULL_HBM, R456. -/
def TIER_STAT_FULL_HBM : Fld := ⟨.tier, 0x104, 32, 0, 1, .ro, 0x0, 1, 0x0⟩
/-- TIER_STAT.FULL_LPD, R456. -/
def TIER_STAT_FULL_LPD : Fld := ⟨.tier, 0x104, 32, 1, 1, .ro, 0x0, 1, 0x0⟩
/-- TIER_STAT.FULL_NBR, R456. -/
def TIER_STAT_FULL_NBR : Fld := ⟨.tier, 0x104, 32, 2, 1, .ro, 0x0, 1, 0x0⟩
/-- TIER_STAT.MOVING, R456. -/
def TIER_STAT_MOVING : Fld := ⟨.tier, 0x104, 32, 3, 1, .ro, 0x0, 1, 0x0⟩
/-- TIER_STAT.TABLE_FULL, R456. -/
def TIER_STAT_TABLE_FULL : Fld := ⟨.tier, 0x104, 32, 4, 1, .ro, 0x0, 1, 0x0⟩
/-- TIER_TABLE_BASE, R456. -/
def TIER_TABLE_BASE : Fld := ⟨.tier, 0x108, 64, 0, 64, .rw, 0x0, 1, 0x0⟩
/-- TIER_TABLE_SIZE.RECORDS, R456. -/
def TIER_TABLE_SIZE_RECORDS : Fld := ⟨.tier, 0x110, 32, 0, 21, .rw, 0x0, 1, 0x0⟩
/-- TIER_OBJECTS.COUNT, R456. -/
def TIER_OBJECTS_COUNT : Fld := ⟨.tier, 0x114, 32, 0, 21, .ro, 0x0, 1, 0x0⟩
/-- TIER_RING_BASE, R456. -/
def TIER_RING_BASE : Fld := ⟨.tier, 0x118, 64, 0, 64, .rw, 0x0, 1, 0x0⟩
/-- TIER_RING_CTL.SIZE_LOG2, R456. -/
def TIER_RING_CTL_SIZE_LOG2 : Fld := ⟨.tier, 0x120, 32, 0, 5, .rw, 0x6, 1, 0x0⟩
/-- TIER_RING_CTL.TOKEN, R456. -/
def TIER_RING_CTL_TOKEN : Fld := ⟨.tier, 0x120, 32, 16, 14, .rw, 0x3000, 1, 0x0⟩
/-- TIER_RING_CTL.ENABLE, R456. -/
def TIER_RING_CTL_ENABLE : Fld := ⟨.tier, 0x120, 32, 31, 1, .rw, 0x0, 1, 0x0⟩
/-- TIER_RING_HEAD, R456. -/
def TIER_RING_HEAD : Fld := ⟨.tier, 0x124, 32, 0, 32, .rw, 0x0, 1, 0x0⟩
/-- TIER_POOL_HBM_LIMIT, R456. -/
def TIER_POOL_HBM_LIMIT : Fld := ⟨.tier, 0x200, 32, 0, 32, .rw, 0x0, 8, 0x20⟩
/-- TIER_POOL_LPD_LIMIT, R456. -/
def TIER_POOL_LPD_LIMIT : Fld := ⟨.tier, 0x204, 32, 0, 32, .rw, 0x0, 8, 0x20⟩
/-- TIER_POOL_NBR_LIMIT, R456. -/
def TIER_POOL_NBR_LIMIT : Fld := ⟨.tier, 0x208, 32, 0, 32, .rw, 0x0, 8, 0x20⟩
/-- TIER_POOL_HBM_USED, R456. -/
def TIER_POOL_HBM_USED : Fld := ⟨.tier, 0x20c, 32, 0, 32, .ro, 0x0, 8, 0x20⟩
/-- TIER_POOL_LPD_USED, R456. -/
def TIER_POOL_LPD_USED : Fld := ⟨.tier, 0x210, 32, 0, 32, .ro, 0x0, 8, 0x20⟩
/-- TIER_POOL_NBR_USED, R456. -/
def TIER_POOL_NBR_USED : Fld := ⟨.tier, 0x214, 32, 0, 32, .ro, 0x0, 8, 0x20⟩
/-- TIER_POOL_MARKS.LOW, R456. -/
def TIER_POOL_MARKS_LOW : Fld := ⟨.tier, 0x218, 32, 0, 8, .rw, 0x20, 8, 0x20⟩
/-- TIER_POOL_MARKS.HIGH, R456. -/
def TIER_POOL_MARKS_HIGH : Fld := ⟨.tier, 0x218, 32, 8, 8, .rw, 0x40, 8, 0x20⟩
/-- TIER_LEASE_CTL.LENDER, R456. -/
def TIER_LEASE_CTL_LENDER : Fld := ⟨.tier, 0x300, 32, 0, 9, .rw, 0x0, 16, 0x10⟩
/-- TIER_LEASE_CTL.TIER, R456. -/
def TIER_LEASE_CTL_TIER : Fld := ⟨.tier, 0x300, 32, 9, 1, .rw, 0x0, 16, 0x10⟩
/-- TIER_LEASE_CTL.ENABLE, R456. -/
def TIER_LEASE_CTL_ENABLE : Fld := ⟨.tier, 0x300, 32, 10, 1, .rw, 0x0, 16, 0x10⟩
/-- TIER_LEASE_CTL.RECLAIM, R456. -/
def TIER_LEASE_CTL_RECLAIM : Fld := ⟨.tier, 0x300, 32, 11, 1, .w1s, 0x0, 16, 0x10⟩
/-- TIER_LEASE_CTL.STATE, R456. -/
def TIER_LEASE_CTL_STATE : Fld := ⟨.tier, 0x300, 32, 12, 2, .ro, 0x0, 16, 0x10⟩
/-- TIER_LEASE_SIZE, R456. -/
def TIER_LEASE_SIZE : Fld := ⟨.tier, 0x304, 32, 0, 32, .rw, 0x0, 16, 0x10⟩
/-- TIER_LEASE_BASE, R456. -/
def TIER_LEASE_BASE : Fld := ⟨.tier, 0x308, 64, 0, 64, .rw, 0x0, 16, 0x10⟩
/-- TIER_LEND_CTL.BORROWER, R456. -/
def TIER_LEND_CTL_BORROWER : Fld := ⟨.tier, 0x400, 32, 0, 9, .rw, 0x0, 8, 0x10⟩
/-- TIER_LEND_CTL.TIER, R456. -/
def TIER_LEND_CTL_TIER : Fld := ⟨.tier, 0x400, 32, 9, 1, .rw, 0x0, 8, 0x10⟩
/-- TIER_LEND_CTL.ENABLE, R456. -/
def TIER_LEND_CTL_ENABLE : Fld := ⟨.tier, 0x400, 32, 10, 1, .rw, 0x0, 8, 0x10⟩
/-- TIER_LEND_CTL.STATE, R456. -/
def TIER_LEND_CTL_STATE : Fld := ⟨.tier, 0x400, 32, 11, 2, .ro, 0x0, 8, 0x10⟩
/-- TIER_LEND_SIZE, R456. -/
def TIER_LEND_SIZE : Fld := ⟨.tier, 0x404, 32, 0, 32, .rw, 0x0, 8, 0x10⟩
/-- TIER_LEND_BASE, R456. -/
def TIER_LEND_BASE : Fld := ⟨.tier, 0x408, 64, 0, 64, .rw, 0x0, 8, 0x10⟩
/-- TIER_CKPT_AREA_BASE, R647. -/
def TIER_CKPT_AREA_BASE : Fld := ⟨.tier, 0x500, 64, 0, 52, .rw, 0x0, 2, 0x10⟩
/-- TIER_CKPT_AREA_SLOTS.SLOTS, R647. -/
def TIER_CKPT_AREA_SLOTS_SLOTS : Fld := ⟨.tier, 0x508, 32, 0, 27, .rw, 0x0, 2, 0x10⟩
/-- TIER_CKPT_CTL.SELECT, R647. -/
def TIER_CKPT_CTL_SELECT : Fld := ⟨.tier, 0x520, 32, 0, 1, .rw, 0x0, 1, 0x0⟩
/-- TIER_CKPT_CTL.LOAD, R647. -/
def TIER_CKPT_CTL_LOAD : Fld := ⟨.tier, 0x520, 32, 1, 1, .w1s, 0x0, 1, 0x0⟩
/-- TIER_CKPT_CTL.LOAD_AREA, R647. -/
def TIER_CKPT_CTL_LOAD_AREA : Fld := ⟨.tier, 0x520, 32, 2, 1, .rw, 0x0, 1, 0x0⟩
/-- TIER_CKPT_STAT.AREA, R647. -/
def TIER_CKPT_STAT_AREA : Fld := ⟨.tier, 0x524, 32, 0, 1, .ro, 0x0, 1, 0x0⟩
/-- TIER_CKPT_STAT.LOAD_BUSY, R647. -/
def TIER_CKPT_STAT_LOAD_BUSY : Fld := ⟨.tier, 0x524, 32, 1, 1, .ro, 0x0, 1, 0x0⟩
/-- TIER_CKPT_STAT.LOAD_ERR, R647. -/
def TIER_CKPT_STAT_LOAD_ERR : Fld := ⟨.tier, 0x524, 32, 2, 3, .ro, 0x0, 1, 0x0⟩
/-- TIER_CKPT_FRAMES.COUNT, R647. -/
def TIER_CKPT_FRAMES_COUNT : Fld := ⟨.tier, 0x528, 32, 0, 27, .ro, 0x0, 1, 0x0⟩
/-- ROS_PC_FORK_CHILDREN, R338. -/
def ROS_PC_FORK_CHILDREN : Fld := ⟨.ros, 0x30, 64, 0, 64, .ro, 0x0, 1, 0x0⟩
/-- ROS_PC_ADMITS, R338. -/
def ROS_PC_ADMITS : Fld := ⟨.ros, 0x38, 64, 0, 64, .ro, 0x0, 1, 0x0⟩
/-- ROS_PC_RELEASES, R338. -/
def ROS_PC_RELEASES : Fld := ⟨.ros, 0x40, 64, 0, 64, .ro, 0x0, 1, 0x0⟩
/-- ROS_PC_DEFERRED, R338. -/
def ROS_PC_DEFERRED : Fld := ⟨.ros, 0x48, 64, 0, 64, .ro, 0x0, 1, 0x0⟩
/-- ROS_PC_SUSPENDS, R338. -/
def ROS_PC_SUSPENDS : Fld := ⟨.ros, 0x50, 64, 0, 64, .ro, 0x0, 1, 0x0⟩
/-- ROS_PC_COW_COPIES, R338. -/
def ROS_PC_COW_COPIES : Fld := ⟨.ros, 0x58, 64, 0, 64, .ro, 0x0, 1, 0x0⟩
/-- ROS_PC_COW_AVOIDED, R338. -/
def ROS_PC_COW_AVOIDED : Fld := ⟨.ros, 0x60, 64, 0, 64, .ro, 0x0, 1, 0x0⟩
/-- ROS_ACTIVE.COUNT, R338. -/
def ROS_ACTIVE_COUNT : Fld := ⟨.ros, 0x100, 32, 0, 15, .ro, 0x0, 1, 0x0⟩
/-- ROS_WAITING.COUNT, R338. -/
def ROS_WAITING_COUNT : Fld := ⟨.ros, 0x104, 32, 0, 15, .ro, 0x0, 1, 0x0⟩
/-- ROS_SUSPENDED.COUNT, R338. -/
def ROS_SUSPENDED_COUNT : Fld := ⟨.ros, 0x108, 32, 0, 15, .ro, 0x0, 1, 0x0⟩
/-- ROS_ADMIT_CTL.STRICT, R338. -/
def ROS_ADMIT_CTL_STRICT : Fld := ⟨.ros, 0x10c, 32, 0, 1, .rw, 0x0, 1, 0x0⟩
/-- ROS_CATCH_NS, R338. -/
def ROS_CATCH_NS : Fld := ⟨.ros, 0x110, 32, 0, 32, .ro, 0x0, 1, 0x0⟩
/-- ROS_LOW_STAT, R338. -/
def ROS_LOW_STAT : Fld := ⟨.ros, 0x114, 32, 0, 16, .w1c, 0x0, 1, 0x0⟩
/-- ROS_REQ_COUNT, R338. -/
def ROS_REQ_COUNT : Fld := ⟨.ros, 0x118, 32, 0, 32, .ro, 0x0, 1, 0x0⟩
/-- ROS_LEN_BASE.ENABLE, R269. -/
def ROS_LEN_BASE_ENABLE : Fld := ⟨.ros, 0x180, 64, 0, 1, .rw, 0x0, 1, 0x0⟩
/-- ROS_LEN_BASE.BASE, R269. -/
def ROS_LEN_BASE_BASE : Fld := ⟨.ros, 0x180, 64, 19, 24, .rw, 0x0, 1, 0x0⟩
/-- ROS_POOL_PAGE_BASE, R338. -/
def ROS_POOL_PAGE_BASE : Fld := ⟨.ros, 0x200, 64, 0, 64, .rw, 0x0, 16, 0x40⟩
/-- ROS_POOL_SCALE_BASE, R338. -/
def ROS_POOL_SCALE_BASE : Fld := ⟨.ros, 0x208, 64, 0, 64, .rw, 0x0, 16, 0x40⟩
/-- ROS_POOL_REF_BASE, R338. -/
def ROS_POOL_REF_BASE : Fld := ⟨.ros, 0x210, 64, 0, 64, .rw, 0x0, 16, 0x40⟩
/-- ROS_POOL_STACK_BASE, R338. -/
def ROS_POOL_STACK_BASE : Fld := ⟨.ros, 0x218, 64, 0, 64, .rw, 0x0, 16, 0x40⟩
/-- ROS_POOL_CTL.ENABLE, R338. -/
def ROS_POOL_CTL_ENABLE : Fld := ⟨.ros, 0x220, 32, 0, 1, .rw, 0x0, 16, 0x40⟩
/-- ROS_POOL_CTL.RESTORE, R338. -/
def ROS_POOL_CTL_RESTORE : Fld := ⟨.ros, 0x220, 32, 1, 1, .rw, 0x0, 16, 0x40⟩
/-- ROS_POOL_CTL.CONTEXT, R338. -/
def ROS_POOL_CTL_CONTEXT : Fld := ⟨.ros, 0x220, 32, 2, 6, .rw, 0x0, 16, 0x40⟩
/-- ROS_POOL_CTL.HINT, R338. -/
def ROS_POOL_CTL_HINT : Fld := ⟨.ros, 0x220, 32, 8, 2, .rw, 0x0, 16, 0x40⟩
/-- ROS_POOL_CTL.FAULTED, R338. -/
def ROS_POOL_CTL_FAULTED : Fld := ⟨.ros, 0x220, 32, 10, 1, .ro, 0x0, 16, 0x40⟩
/-- ROS_POOL_SIZE.SIZE, R338. -/
def ROS_POOL_SIZE_SIZE : Fld := ⟨.ros, 0x224, 32, 0, 24, .rw, 0x0, 16, 0x40⟩
/-- ROS_POOL_FREE.FREE, R338. -/
def ROS_POOL_FREE_FREE : Fld := ⟨.ros, 0x228, 32, 0, 24, .ro, 0x0, 16, 0x40⟩
/-- ROS_POOL_ADD.COUNT, R338. -/
def ROS_POOL_ADD_COUNT : Fld := ⟨.ros, 0x22c, 32, 0, 24, .wo, 0x0, 16, 0x40⟩
/-- ROS_POOL_ADD_AT, R338. -/
def ROS_POOL_ADD_AT : Fld := ⟨.ros, 0x230, 64, 0, 64, .rw, 0x0, 16, 0x40⟩
/-- ROS_POOL_LOW.LOW, R338. -/
def ROS_POOL_LOW_LOW : Fld := ⟨.ros, 0x238, 32, 0, 24, .rw, 0x0, 16, 0x40⟩
/-- COX_SHEET_BASE, R750. -/
def COX_SHEET_BASE : Fld := ⟨.cox, 0x100, 64, 0, 64, .rw, 0x0, 1, 0x0⟩
/-- COX_SHEET_STRIDE.BYTES, R750. -/
def COX_SHEET_STRIDE_BYTES : Fld := ⟨.cox, 0x108, 32, 0, 23, .rw, 0x0, 1, 0x0⟩
/-- COX_SHEET_COUNT.COUNT, R750. -/
def COX_SHEET_COUNT_COUNT : Fld := ⟨.cox, 0x10c, 32, 0, 17, .rw, 0x1, 1, 0x0⟩
/-- COX_SHEET_EPOCH, R750. -/
def COX_SHEET_EPOCH : Fld := ⟨.cox, 0x110, 64, 0, 64, .rw, 0x0, 1, 0x0⟩
/-- COX_BATCH_FLUSH.CYCLES, R750. -/
def COX_BATCH_FLUSH_CYCLES : Fld := ⟨.cox, 0x118, 32, 0, 24, .rw, 0xbb8, 1, 0x0⟩
/-- COX_FAIL_COUNT, R750. -/
def COX_FAIL_COUNT : Fld := ⟨.cox, 0x11c, 32, 0, 32, .rc, 0x0, 1, 0x0⟩
/-- CST_PC_CONFLICT, R413. -/
def CST_PC_CONFLICT : Fld := ⟨.cst, 0x30, 64, 0, 64, .ro, 0x0, 1, 0x0⟩
/-- CST_PC_TRANSPOSE, R413. -/
def CST_PC_TRANSPOSE : Fld := ⟨.cst, 0x38, 64, 0, 64, .ro, 0x0, 1, 0x0⟩
/-- CST_PC_RC_HITS, R413. -/
def CST_PC_RC_HITS : Fld := ⟨.cst, 0x40, 64, 0, 64, .ro, 0x0, 1, 0x0⟩
/-- CST_PC_RC_MISSES, R413. -/
def CST_PC_RC_MISSES : Fld := ⟨.cst, 0x48, 64, 0, 64, .ro, 0x0, 1, 0x0⟩
/-- CST_RC_CTL.ENABLE, R413. -/
def CST_RC_CTL_ENABLE : Fld := ⟨.cst, 0x100, 32, 0, 1, .rwk, 0x1, 1, 0x0⟩
/-- CST_RC_CTL.CATCH_INVAL, R413. -/
def CST_RC_CTL_CATCH_INVAL : Fld := ⟨.cst, 0x100, 32, 1, 1, .rwk, 0x1, 1, 0x0⟩
/-- CST_RC_INVAL.ALL, R413. -/
def CST_RC_INVAL_ALL : Fld := ⟨.cst, 0x104, 32, 0, 1, .wo, 0x0, 1, 0x0⟩
/-- CST_RC_WAYS.RETIRED, R413. -/
def CST_RC_WAYS_RETIRED : Fld := ⟨.cst, 0x108, 32, 0, 16, .ro, 0x0, 1, 0x0⟩
/-- CST_BANK_SPARE.SPARE0_FOR, R413. -/
def CST_BANK_SPARE_SPARE0_FOR : Fld := ⟨.cst, 0x10c, 32, 0, 7, .ro, 0x7f, 1, 0x0⟩
/-- CST_BANK_SPARE.SPARE0_COPYING, R413. -/
def CST_BANK_SPARE_SPARE0_COPYING : Fld := ⟨.cst, 0x10c, 32, 7, 1, .ro, 0x0, 1, 0x0⟩
/-- CST_BANK_SPARE.SPARE1_FOR, R413. -/
def CST_BANK_SPARE_SPARE1_FOR : Fld := ⟨.cst, 0x10c, 32, 8, 7, .ro, 0x7f, 1, 0x0⟩
/-- CST_BANK_SPARE.SPARE1_COPYING, R413. -/
def CST_BANK_SPARE_SPARE1_COPYING : Fld := ⟨.cst, 0x10c, 32, 15, 1, .ro, 0x0, 1, 0x0⟩
/-- CST_TEST_CTL.ENABLE, R413. -/
def CST_TEST_CTL_ENABLE : Fld := ⟨.cst, 0x110, 32, 0, 1, .rwk, 0x1, 1, 0x0⟩
/-- CST_TEST_CTL.ROWS, R413. -/
def CST_TEST_CTL_ROWS : Fld := ⟨.cst, 0x110, 32, 16, 13, .rwk, 0x1000, 1, 0x0⟩
/-- CST_TEST_POS.ROW, R413. -/
def CST_TEST_POS_ROW : Fld := ⟨.cst, 0x114, 32, 0, 12, .ro, 0x0, 1, 0x0⟩
/-- CST_TEST_PASSES, R413. -/
def CST_TEST_PASSES : Fld := ⟨.cst, 0x118, 32, 0, 32, .ro, 0x0, 1, 0x0⟩
/-- CST_ERR_ADDR.OFFSET, R413. -/
def CST_ERR_ADDR_OFFSET : Fld := ⟨.cst, 0x11c, 32, 0, 24, .ro, 0x0, 1, 0x0⟩
/-- CST_ERR_INFO.KIND, R413. -/
def CST_ERR_INFO_KIND : Fld := ⟨.cst, 0x120, 32, 0, 2, .ro, 0x0, 1, 0x0⟩
/-- CST_ERR_INFO.COLUMN, R413. -/
def CST_ERR_INFO_COLUMN : Fld := ⟨.cst, 0x120, 32, 2, 10, .ro, 0x0, 1, 0x0⟩
/-- CST_ERR_INFO.CODEWORD, R413. -/
def CST_ERR_INFO_CODEWORD : Fld := ⟨.cst, 0x120, 32, 12, 2, .ro, 0x0, 1, 0x0⟩
/-- CST_ERR_INFO.TEST, R413. -/
def CST_ERR_INFO_TEST : Fld := ⟨.cst, 0x120, 32, 14, 1, .ro, 0x0, 1, 0x0⟩
/-- CORE_PC_ARRAY_CYCLES, R174. -/
def CORE_PC_ARRAY_CYCLES : Fld := ⟨.core, 0x30, 64, 0, 64, .ro, 0x0, 1, 0x0⟩
/-- CORE_PC_FEED_STALL, R174. -/
def CORE_PC_FEED_STALL : Fld := ⟨.core, 0x38, 64, 0, 64, .ro, 0x0, 1, 0x0⟩
/-- CORE_PC_STEPS, R174. -/
def CORE_PC_STEPS : Fld := ⟨.core, 0x40, 64, 0, 64, .ro, 0x0, 1, 0x0⟩
/-- CORE_PC_SKIPPED, R174. -/
def CORE_PC_SKIPPED : Fld := ⟨.core, 0x48, 64, 0, 64, .ro, 0x0, 1, 0x0⟩
/-- CORE_PC_RECOMPUTED, R174. -/
def CORE_PC_RECOMPUTED : Fld := ⟨.core, 0x50, 64, 0, 64, .ro, 0x0, 1, 0x0⟩
/-- CORE_PC_ATTN_BLOCKS, R303. -/
def CORE_PC_ATTN_BLOCKS : Fld := ⟨.core, 0x58, 64, 0, 64, .ro, 0x0, 1, 0x0⟩
/-- CORE_PC_ATTN_SKIPPED, R303. -/
def CORE_PC_ATTN_SKIPPED : Fld := ⟨.core, 0x60, 64, 0, 64, .ro, 0x0, 1, 0x0⟩
/-- CORE_PC_ATTN_LATE, R303. -/
def CORE_PC_ATTN_LATE : Fld := ⟨.core, 0x68, 64, 0, 64, .ro, 0x0, 1, 0x0⟩
/-- CORE_PC_PAGE_SHARED, R303. -/
def CORE_PC_PAGE_SHARED : Fld := ⟨.core, 0x70, 64, 0, 64, .ro, 0x0, 1, 0x0⟩
/-- CORE_PC_SP_CONFLICT, R414. -/
def CORE_PC_SP_CONFLICT : Fld := ⟨.core, 0x78, 64, 0, 64, .ro, 0x0, 1, 0x0⟩
/-- CORE_STATE.STATE, R174. -/
def CORE_STATE_STATE : Fld := ⟨.core, 0x100, 32, 0, 3, .ro, 0x0, 1, 0x0⟩
/-- CORE_STATE.OPCODE, R174. -/
def CORE_STATE_OPCODE : Fld := ⟨.core, 0x100, 32, 8, 8, .ro, 0x0, 1, 0x0⟩
/-- CORE_STATE.CMD_INDEX, R174. -/
def CORE_STATE_CMD_INDEX : Fld := ⟨.core, 0x100, 32, 16, 16, .ro, 0x0, 1, 0x0⟩
/-- CORE_STEPS_LEFT, R174. -/
def CORE_STEPS_LEFT : Fld := ⟨.core, 0x104, 32, 0, 32, .ro, 0x0, 1, 0x0⟩
/-- CORE_CMD_ADDR, R174. -/
def CORE_CMD_ADDR : Fld := ⟨.core, 0x108, 64, 0, 64, .ro, 0x0, 1, 0x0⟩
/-- CORE_FAULT_ADDR, R174. -/
def CORE_FAULT_ADDR : Fld := ⟨.core, 0x110, 64, 0, 64, .ro, 0x0, 1, 0x0⟩
/-- CORE_FAULT_INFO.STATUS, R174. -/
def CORE_FAULT_INFO_STATUS : Fld := ⟨.core, 0x118, 32, 0, 8, .ro, 0x0, 1, 0x0⟩
/-- CORE_FAULT_INFO.CONTEXT, R174. -/
def CORE_FAULT_INFO_CONTEXT : Fld := ⟨.core, 0x118, 32, 8, 6, .ro, 0x0, 1, 0x0⟩
/-- CORE_FAULT_INFO.WRITE, R174. -/
def CORE_FAULT_INFO_WRITE : Fld := ⟨.core, 0x118, 32, 14, 1, .ro, 0x0, 1, 0x0⟩
/-- CORE_FAULT_INFO.PSUM, R174. -/
def CORE_FAULT_INFO_PSUM : Fld := ⟨.core, 0x118, 32, 15, 1, .ro, 0x0, 1, 0x0⟩
/-- CORE_FAULT_INFO.CMD_ID, R174. -/
def CORE_FAULT_INFO_CMD_ID : Fld := ⟨.core, 0x118, 32, 16, 16, .ro, 0x0, 1, 0x0⟩
/-- CORE_ABORT_COUNT, R174. -/
def CORE_ABORT_COUNT : Fld := ⟨.core, 0x11c, 32, 0, 32, .rc, 0x0, 1, 0x0⟩
/-- CORE_SP_BANK_SPARE.SPARE0_FOR, R414. -/
def CORE_SP_BANK_SPARE_SPARE0_FOR : Fld := ⟨.core, 0x140, 32, 0, 7, .ro, 0x7f, 1, 0x0⟩
/-- CORE_SP_BANK_SPARE.SPARE0_COPYING, R414. -/
def CORE_SP_BANK_SPARE_SPARE0_COPYING : Fld := ⟨.core, 0x140, 32, 7, 1, .ro, 0x0, 1, 0x0⟩
/-- CORE_SP_BANK_SPARE.SPARE1_FOR, R414. -/
def CORE_SP_BANK_SPARE_SPARE1_FOR : Fld := ⟨.core, 0x140, 32, 8, 7, .ro, 0x7f, 1, 0x0⟩
/-- CORE_SP_BANK_SPARE.SPARE1_COPYING, R414. -/
def CORE_SP_BANK_SPARE_SPARE1_COPYING : Fld := ⟨.core, 0x140, 32, 15, 1, .ro, 0x0, 1, 0x0⟩
/-- CORE_SP_TEST_CTL.ENABLE, R414. -/
def CORE_SP_TEST_CTL_ENABLE : Fld := ⟨.core, 0x144, 32, 0, 1, .rwk, 0x1, 1, 0x0⟩
/-- CORE_SP_TEST_CTL.ROWS, R414. -/
def CORE_SP_TEST_CTL_ROWS : Fld := ⟨.core, 0x144, 32, 16, 13, .rwk, 0x400, 1, 0x0⟩
/-- CORE_SP_TEST_POS.ROW, R414. -/
def CORE_SP_TEST_POS_ROW : Fld := ⟨.core, 0x148, 32, 0, 10, .ro, 0x0, 1, 0x0⟩
/-- CORE_SP_TEST_PASSES, R414. -/
def CORE_SP_TEST_PASSES : Fld := ⟨.core, 0x14c, 32, 0, 32, .ro, 0x0, 1, 0x0⟩
/-- CORE_SP_ERR_ADDR.OFFSET, R414. -/
def CORE_SP_ERR_ADDR_OFFSET : Fld := ⟨.core, 0x150, 32, 0, 22, .ro, 0x0, 1, 0x0⟩
/-- CORE_SP_ERR_INFO.KIND, R414. -/
def CORE_SP_ERR_INFO_KIND : Fld := ⟨.core, 0x154, 32, 0, 2, .ro, 0x0, 1, 0x0⟩
/-- CORE_SP_ERR_INFO.COLUMN, R414. -/
def CORE_SP_ERR_INFO_COLUMN : Fld := ⟨.core, 0x154, 32, 2, 10, .ro, 0x0, 1, 0x0⟩
/-- CORE_SP_ERR_INFO.CODEWORD, R414. -/
def CORE_SP_ERR_INFO_CODEWORD : Fld := ⟨.core, 0x154, 32, 12, 2, .ro, 0x0, 1, 0x0⟩
/-- CORE_SP_ERR_INFO.TEST, R414. -/
def CORE_SP_ERR_INFO_TEST : Fld := ⟨.core, 0x154, 32, 14, 1, .ro, 0x0, 1, 0x0⟩
/-- CDM_PC_BYTES_READ, R527. -/
def CDM_PC_BYTES_READ : Fld := ⟨.cdm, 0x30, 64, 0, 64, .ro, 0x0, 1, 0x0⟩
/-- CDM_PC_BYTES_WRITTEN, R527. -/
def CDM_PC_BYTES_WRITTEN : Fld := ⟨.cdm, 0x38, 64, 0, 64, .ro, 0x0, 1, 0x0⟩
/-- CDM_PC_DESCRIPTORS, R527. -/
def CDM_PC_DESCRIPTORS : Fld := ⟨.cdm, 0x40, 64, 0, 64, .ro, 0x0, 1, 0x0⟩
/-- CDM_PC_BAD, R527. -/
def CDM_PC_BAD : Fld := ⟨.cdm, 0x48, 64, 0, 64, .ro, 0x0, 1, 0x0⟩
/-- CDM_PC_BUF_WAIT, R527. -/
def CDM_PC_BUF_WAIT : Fld := ⟨.cdm, 0x50, 64, 0, 64, .ro, 0x0, 1, 0x0⟩
/-- CDM_CH_OWNER_WAITS, R527. -/
def CDM_CH_OWNER_WAITS : Fld := ⟨.cdm, 0x58, 64, 0, 64, .ro, 0x0, 1, 0x0⟩
/-- CDM_SPARE.SPARE_FOR, R527. -/
def CDM_SPARE_SPARE_FOR : Fld := ⟨.cdm, 0x100, 32, 0, 5, .ro, 0x1f, 1, 0x0⟩
/-- CDM_CH_CTL.ENABLE, R527. -/
def CDM_CH_CTL_ENABLE : Fld := ⟨.cdm, 0x200, 32, 0, 1, .rw, 0x0, 9, 0x20⟩
/-- CDM_CH_CTL.DISABLE_REQ, R527. -/
def CDM_CH_CTL_DISABLE_REQ : Fld := ⟨.cdm, 0x200, 32, 1, 1, .w1s, 0x0, 9, 0x20⟩
/-- CDM_CH_CTL.FORCE_OFF, R527. -/
def CDM_CH_CTL_FORCE_OFF : Fld := ⟨.cdm, 0x200, 32, 2, 1, .w1s, 0x0, 9, 0x20⟩
/-- CDM_CH_CTL.MODE, R527. -/
def CDM_CH_CTL_MODE : Fld := ⟨.cdm, 0x200, 32, 3, 1, .rw, 0x0, 9, 0x20⟩
/-- CDM_CH_CTL.CONTEXT, R527. -/
def CDM_CH_CTL_CONTEXT : Fld := ⟨.cdm, 0x200, 32, 4, 6, .rw, 0x0, 9, 0x20⟩
/-- CDM_CH_CTL.BUF_SHARE, R527. -/
def CDM_CH_CTL_BUF_SHARE : Fld := ⟨.cdm, 0x200, 32, 10, 7, .rw, 0x6, 9, 0x20⟩
/-- CDM_CH_STAT.STATE, R527. -/
def CDM_CH_STAT_STATE : Fld := ⟨.cdm, 0x204, 32, 0, 3, .ro, 0x5, 9, 0x20⟩
/-- CDM_CH_STAT.STATUS, R527. -/
def CDM_CH_STAT_STATUS : Fld := ⟨.cdm, 0x204, 32, 8, 8, .ro, 0x0, 9, 0x20⟩
/-- CDM_CH_STAT.DESC_ID, R527. -/
def CDM_CH_STAT_DESC_ID : Fld := ⟨.cdm, 0x204, 32, 16, 16, .ro, 0x0, 9, 0x20⟩
/-- CDM_CH_RING_BASE, R527. -/
def CDM_CH_RING_BASE : Fld := ⟨.cdm, 0x208, 64, 0, 64, .rw, 0x0, 9, 0x20⟩
/-- CDM_CH_RING_CTL.SIZE_LOG2, R527. -/
def CDM_CH_RING_CTL_SIZE_LOG2 : Fld := ⟨.cdm, 0x210, 32, 0, 5, .rw, 0x6, 9, 0x20⟩
/-- CDM_CH_RING_CTL.INDEX, R527. -/
def CDM_CH_RING_CTL_INDEX : Fld := ⟨.cdm, 0x210, 32, 16, 14, .rw, 0xf00, 9, 0x20⟩
/-- CDM_CH_RING_CTL.SCOPE, R527. -/
def CDM_CH_RING_CTL_SCOPE : Fld := ⟨.cdm, 0x210, 32, 30, 1, .rw, 0x0, 9, 0x20⟩
/-- CDM_CH_HEAD, R527. -/
def CDM_CH_HEAD : Fld := ⟨.cdm, 0x214, 32, 0, 32, .rw, 0x0, 9, 0x20⟩
/-- CDM_CH_CUR, R527. -/
def CDM_CH_CUR : Fld := ⟨.cdm, 0x218, 64, 0, 64, .ro, 0x0, 9, 0x20⟩
/-- HDM_PC_BYTES_READ, R527. -/
def HDM_PC_BYTES_READ : Fld := ⟨.hdm, 0x30, 64, 0, 64, .ro, 0x0, 1, 0x0⟩
/-- HDM_PC_BYTES_WRITTEN, R527. -/
def HDM_PC_BYTES_WRITTEN : Fld := ⟨.hdm, 0x38, 64, 0, 64, .ro, 0x0, 1, 0x0⟩
/-- HDM_PC_DESCRIPTORS, R527. -/
def HDM_PC_DESCRIPTORS : Fld := ⟨.hdm, 0x40, 64, 0, 64, .ro, 0x0, 1, 0x0⟩
/-- HDM_PC_BAD, R527. -/
def HDM_PC_BAD : Fld := ⟨.hdm, 0x48, 64, 0, 64, .ro, 0x0, 1, 0x0⟩
/-- HDM_PC_BUF_WAIT, R527. -/
def HDM_PC_BUF_WAIT : Fld := ⟨.hdm, 0x50, 64, 0, 64, .ro, 0x0, 1, 0x0⟩
/-- HDM_CH_OWNER_WAITS, R527. -/
def HDM_CH_OWNER_WAITS : Fld := ⟨.hdm, 0x58, 64, 0, 64, .ro, 0x0, 1, 0x0⟩
/-- HDM_SPARE.SPARE_FOR, R527. -/
def HDM_SPARE_SPARE_FOR : Fld := ⟨.hdm, 0x100, 32, 0, 5, .ro, 0x1f, 1, 0x0⟩
/-- HDM_CH_CTL.ENABLE, R527. -/
def HDM_CH_CTL_ENABLE : Fld := ⟨.hdm, 0x200, 32, 0, 1, .rw, 0x0, 17, 0x20⟩
/-- HDM_CH_CTL.DISABLE_REQ, R527. -/
def HDM_CH_CTL_DISABLE_REQ : Fld := ⟨.hdm, 0x200, 32, 1, 1, .w1s, 0x0, 17, 0x20⟩
/-- HDM_CH_CTL.FORCE_OFF, R527. -/
def HDM_CH_CTL_FORCE_OFF : Fld := ⟨.hdm, 0x200, 32, 2, 1, .w1s, 0x0, 17, 0x20⟩
/-- HDM_CH_CTL.MODE, R527. -/
def HDM_CH_CTL_MODE : Fld := ⟨.hdm, 0x200, 32, 3, 1, .ro, 0x1, 17, 0x20⟩
/-- HDM_CH_CTL.CONTEXT, R527. -/
def HDM_CH_CTL_CONTEXT : Fld := ⟨.hdm, 0x200, 32, 4, 6, .rw, 0x0, 17, 0x20⟩
/-- HDM_CH_CTL.BUF_SHARE, R527. -/
def HDM_CH_CTL_BUF_SHARE : Fld := ⟨.hdm, 0x200, 32, 10, 7, .rw, 0x4, 17, 0x20⟩
/-- HDM_CH_CTL.VECTOR, R527. -/
def HDM_CH_CTL_VECTOR : Fld := ⟨.hdm, 0x200, 32, 17, 11, .rw, 0x0, 17, 0x20⟩
/-- HDM_CH_STAT.STATE, R527. -/
def HDM_CH_STAT_STATE : Fld := ⟨.hdm, 0x204, 32, 0, 3, .ro, 0x5, 17, 0x20⟩
/-- HDM_CH_STAT.STATUS, R527. -/
def HDM_CH_STAT_STATUS : Fld := ⟨.hdm, 0x204, 32, 8, 8, .ro, 0x0, 17, 0x20⟩
/-- HDM_CH_STAT.DESC_ID, R527. -/
def HDM_CH_STAT_DESC_ID : Fld := ⟨.hdm, 0x204, 32, 16, 16, .ro, 0x0, 17, 0x20⟩
/-- HDM_CH_RING_BASE, R527. -/
def HDM_CH_RING_BASE : Fld := ⟨.hdm, 0x208, 64, 0, 64, .rw, 0x0, 17, 0x20⟩
/-- HDM_CH_RING_CTL.SIZE_LOG2, R527. -/
def HDM_CH_RING_CTL_SIZE_LOG2 : Fld := ⟨.hdm, 0x210, 32, 0, 5, .rw, 0x6, 17, 0x20⟩
/-- HDM_CH_RING_CTL.INDEX, R527. -/
def HDM_CH_RING_CTL_INDEX : Fld := ⟨.hdm, 0x210, 32, 16, 14, .rw, 0x3000, 17, 0x20⟩
/-- HDM_CH_RING_CTL.SCOPE, R527. -/
def HDM_CH_RING_CTL_SCOPE : Fld := ⟨.hdm, 0x210, 32, 30, 1, .ro, 0x1, 17, 0x20⟩
/-- HDM_CH_HEAD, R527. -/
def HDM_CH_HEAD : Fld := ⟨.hdm, 0x214, 32, 0, 32, .rw, 0x0, 17, 0x20⟩
/-- HDM_CH_CUR, R527. -/
def HDM_CH_CUR : Fld := ⟨.hdm, 0x218, 64, 0, 64, .ro, 0x0, 17, 0x20⟩
/-- HBM_TEST_CTL.MODE, R699. -/
def HBM_TEST_CTL_MODE : Fld := ⟨.hbm, 0x1c0, 32, 0, 3, .rw, 0x0, 1, 0x0⟩
/-- HBM_TEST_CTL.PATTERN, R699. -/
def HBM_TEST_CTL_PATTERN : Fld := ⟨.hbm, 0x1c0, 32, 3, 3, .rw, 0x0, 1, 0x0⟩
/-- HBM_TEST_CTL.TARGET, R699. -/
def HBM_TEST_CTL_TARGET : Fld := ⟨.hbm, 0x1c0, 32, 8, 6, .rw, 0x0, 1, 0x0⟩
/-- HBM_TEST_CTL.RUN, R699. -/
def HBM_TEST_CTL_RUN : Fld := ⟨.hbm, 0x1c0, 32, 16, 1, .rw, 0x0, 1, 0x0⟩
/-- HBM_TEST_STAT.STATE, R699. -/
def HBM_TEST_STAT_STATE : Fld := ⟨.hbm, 0x1c4, 32, 0, 2, .ro, 0x0, 1, 0x0⟩
/-- HBM_TEST_STAT.LOCK, R699. -/
def HBM_TEST_STAT_LOCK : Fld := ⟨.hbm, 0x1c4, 32, 2, 1, .ro, 0x0, 1, 0x0⟩
/-- HBM_TEST_ERRORS, R699. -/
def HBM_TEST_ERRORS : Fld := ⟨.hbm, 0x1c8, 64, 0, 64, .ro, 0x0, 1, 0x0⟩
/-- HBM_TEST_BITS, R699. -/
def HBM_TEST_BITS : Fld := ⟨.hbm, 0x1d0, 64, 0, 64, .ro, 0x0, 1, 0x0⟩
/-- HBM_TEST_PATTERN, R699. -/
def HBM_TEST_PATTERN : Fld := ⟨.hbm, 0x1d8, 64, 0, 64, .rw, 0x0, 1, 0x0⟩
/-- HBM_MARGIN_CTL.TARGET, R702. -/
def HBM_MARGIN_CTL_TARGET : Fld := ⟨.hbm, 0x1e0, 32, 0, 6, .rw, 0x0, 1, 0x0⟩
/-- HBM_MARGIN_CTL.AXIS, R702. -/
def HBM_MARGIN_CTL_AXIS : Fld := ⟨.hbm, 0x1e0, 32, 6, 2, .rw, 0x0, 1, 0x0⟩
/-- HBM_MARGIN_CTL.GO, R702. -/
def HBM_MARGIN_CTL_GO : Fld := ⟨.hbm, 0x1e0, 32, 16, 1, .w1s, 0x0, 1, 0x0⟩
/-- HBM_MARGIN_CTL.BUSY, R702. -/
def HBM_MARGIN_CTL_BUSY : Fld := ⟨.hbm, 0x1e0, 32, 17, 1, .ro, 0x0, 1, 0x0⟩
/-- HBM_MARGIN_CTL.PAUSED, R702. -/
def HBM_MARGIN_CTL_PAUSED : Fld := ⟨.hbm, 0x1e0, 32, 18, 1, .ro, 0x0, 1, 0x0⟩
/-- HBM_MARGIN_RESULT.LOW, R702. -/
def HBM_MARGIN_RESULT_LOW : Fld := ⟨.hbm, 0x1e4, 32, 0, 8, .ro, 0x0, 1, 0x0⟩
/-- HBM_MARGIN_RESULT.HIGH, R702. -/
def HBM_MARGIN_RESULT_HIGH : Fld := ⟨.hbm, 0x1e4, 32, 8, 8, .ro, 0x0, 1, 0x0⟩
/-- HBM_MARGIN_RESULT.WORST_DQ, R702. -/
def HBM_MARGIN_RESULT_WORST_DQ : Fld := ⟨.hbm, 0x1e4, 32, 16, 5, .ro, 0x0, 1, 0x0⟩
/-- HBM_MARGIN_RESULT.VALID, R702. -/
def HBM_MARGIN_RESULT_VALID : Fld := ⟨.hbm, 0x1e4, 32, 24, 1, .ro, 0x0, 1, 0x0⟩
/-- HBM_MARGIN_RESULT.CLIPPED, R702. -/
def HBM_MARGIN_RESULT_CLIPPED : Fld := ⟨.hbm, 0x1e4, 32, 25, 1, .ro, 0x0, 1, 0x0⟩
/-- LPD_TEST_CTL.MODE, R699. -/
def LPD_TEST_CTL_MODE : Fld := ⟨.lpd, 0x1c0, 32, 0, 3, .rw, 0x0, 1, 0x0⟩
/-- LPD_TEST_CTL.PATTERN, R699. -/
def LPD_TEST_CTL_PATTERN : Fld := ⟨.lpd, 0x1c0, 32, 3, 3, .rw, 0x0, 1, 0x0⟩
/-- LPD_TEST_CTL.TARGET, R699. -/
def LPD_TEST_CTL_TARGET : Fld := ⟨.lpd, 0x1c0, 32, 8, 6, .rw, 0x0, 1, 0x0⟩
/-- LPD_TEST_CTL.RUN, R699. -/
def LPD_TEST_CTL_RUN : Fld := ⟨.lpd, 0x1c0, 32, 16, 1, .rw, 0x0, 1, 0x0⟩
/-- LPD_TEST_STAT.STATE, R699. -/
def LPD_TEST_STAT_STATE : Fld := ⟨.lpd, 0x1c4, 32, 0, 2, .ro, 0x0, 1, 0x0⟩
/-- LPD_TEST_STAT.LOCK, R699. -/
def LPD_TEST_STAT_LOCK : Fld := ⟨.lpd, 0x1c4, 32, 2, 1, .ro, 0x0, 1, 0x0⟩
/-- LPD_TEST_ERRORS, R699. -/
def LPD_TEST_ERRORS : Fld := ⟨.lpd, 0x1c8, 64, 0, 64, .ro, 0x0, 1, 0x0⟩
/-- LPD_TEST_BITS, R699. -/
def LPD_TEST_BITS : Fld := ⟨.lpd, 0x1d0, 64, 0, 64, .ro, 0x0, 1, 0x0⟩
/-- LPD_TEST_PATTERN, R699. -/
def LPD_TEST_PATTERN : Fld := ⟨.lpd, 0x1d8, 64, 0, 64, .rw, 0x0, 1, 0x0⟩
/-- LPD_MARGIN_CTL.TARGET, R702. -/
def LPD_MARGIN_CTL_TARGET : Fld := ⟨.lpd, 0x1e0, 32, 0, 6, .rw, 0x0, 1, 0x0⟩
/-- LPD_MARGIN_CTL.AXIS, R702. -/
def LPD_MARGIN_CTL_AXIS : Fld := ⟨.lpd, 0x1e0, 32, 6, 2, .rw, 0x0, 1, 0x0⟩
/-- LPD_MARGIN_CTL.GO, R702. -/
def LPD_MARGIN_CTL_GO : Fld := ⟨.lpd, 0x1e0, 32, 16, 1, .w1s, 0x0, 1, 0x0⟩
/-- LPD_MARGIN_CTL.BUSY, R702. -/
def LPD_MARGIN_CTL_BUSY : Fld := ⟨.lpd, 0x1e0, 32, 17, 1, .ro, 0x0, 1, 0x0⟩
/-- LPD_MARGIN_CTL.PAUSED, R702. -/
def LPD_MARGIN_CTL_PAUSED : Fld := ⟨.lpd, 0x1e0, 32, 18, 1, .ro, 0x0, 1, 0x0⟩
/-- LPD_MARGIN_RESULT.LOW, R702. -/
def LPD_MARGIN_RESULT_LOW : Fld := ⟨.lpd, 0x1e4, 32, 0, 8, .ro, 0x0, 1, 0x0⟩
/-- LPD_MARGIN_RESULT.HIGH, R702. -/
def LPD_MARGIN_RESULT_HIGH : Fld := ⟨.lpd, 0x1e4, 32, 8, 8, .ro, 0x0, 1, 0x0⟩
/-- LPD_MARGIN_RESULT.WORST_DQ, R702. -/
def LPD_MARGIN_RESULT_WORST_DQ : Fld := ⟨.lpd, 0x1e4, 32, 16, 5, .ro, 0x0, 1, 0x0⟩
/-- LPD_MARGIN_RESULT.VALID, R702. -/
def LPD_MARGIN_RESULT_VALID : Fld := ⟨.lpd, 0x1e4, 32, 24, 1, .ro, 0x0, 1, 0x0⟩
/-- LPD_MARGIN_RESULT.CLIPPED, R702. -/
def LPD_MARGIN_RESULT_CLIPPED : Fld := ⟨.lpd, 0x1e4, 32, 25, 1, .ro, 0x0, 1, 0x0⟩
/-- LNK_TEST_CTL.MODE, R699. -/
def LNK_TEST_CTL_MODE : Fld := ⟨.lnk, 0x1c0, 32, 0, 3, .rw, 0x0, 1, 0x0⟩
/-- LNK_TEST_CTL.PATTERN, R699. -/
def LNK_TEST_CTL_PATTERN : Fld := ⟨.lnk, 0x1c0, 32, 3, 3, .rw, 0x0, 1, 0x0⟩
/-- LNK_TEST_CTL.TARGET, R699. -/
def LNK_TEST_CTL_TARGET : Fld := ⟨.lnk, 0x1c0, 32, 8, 6, .rw, 0x0, 1, 0x0⟩
/-- LNK_TEST_CTL.RUN, R699. -/
def LNK_TEST_CTL_RUN : Fld := ⟨.lnk, 0x1c0, 32, 16, 1, .rw, 0x0, 1, 0x0⟩
/-- LNK_TEST_STAT.STATE, R699. -/
def LNK_TEST_STAT_STATE : Fld := ⟨.lnk, 0x1c4, 32, 0, 2, .ro, 0x0, 1, 0x0⟩
/-- LNK_TEST_STAT.LOCK, R699. -/
def LNK_TEST_STAT_LOCK : Fld := ⟨.lnk, 0x1c4, 32, 2, 1, .ro, 0x0, 1, 0x0⟩
/-- LNK_TEST_ERRORS, R699. -/
def LNK_TEST_ERRORS : Fld := ⟨.lnk, 0x1c8, 64, 0, 64, .ro, 0x0, 1, 0x0⟩
/-- LNK_TEST_BITS, R699. -/
def LNK_TEST_BITS : Fld := ⟨.lnk, 0x1d0, 64, 0, 64, .ro, 0x0, 1, 0x0⟩
/-- LNK_TEST_PATTERN, R699. -/
def LNK_TEST_PATTERN : Fld := ⟨.lnk, 0x1d8, 64, 0, 64, .rw, 0x0, 1, 0x0⟩
/-- HIF_TEST_CTL.MODE, R699. -/
def HIF_TEST_CTL_MODE : Fld := ⟨.hif, 0x1c0, 32, 0, 3, .rw, 0x0, 1, 0x0⟩
/-- HIF_TEST_CTL.PATTERN, R699. -/
def HIF_TEST_CTL_PATTERN : Fld := ⟨.hif, 0x1c0, 32, 3, 3, .rw, 0x0, 1, 0x0⟩
/-- HIF_TEST_CTL.TARGET, R699. -/
def HIF_TEST_CTL_TARGET : Fld := ⟨.hif, 0x1c0, 32, 8, 6, .rw, 0x0, 1, 0x0⟩
/-- HIF_TEST_CTL.RUN, R699. -/
def HIF_TEST_CTL_RUN : Fld := ⟨.hif, 0x1c0, 32, 16, 1, .rw, 0x0, 1, 0x0⟩
/-- HIF_TEST_STAT.STATE, R699. -/
def HIF_TEST_STAT_STATE : Fld := ⟨.hif, 0x1c4, 32, 0, 2, .ro, 0x0, 1, 0x0⟩
/-- HIF_TEST_STAT.LOCK, R699. -/
def HIF_TEST_STAT_LOCK : Fld := ⟨.hif, 0x1c4, 32, 2, 1, .ro, 0x0, 1, 0x0⟩
/-- HIF_TEST_ERRORS, R699. -/
def HIF_TEST_ERRORS : Fld := ⟨.hif, 0x1c8, 64, 0, 64, .ro, 0x0, 1, 0x0⟩
/-- HIF_TEST_BITS, R699. -/
def HIF_TEST_BITS : Fld := ⟨.hif, 0x1d0, 64, 0, 64, .ro, 0x0, 1, 0x0⟩
/-- HIF_TEST_PATTERN, R699. -/
def HIF_TEST_PATTERN : Fld := ⟨.hif, 0x1d8, 64, 0, 64, .rw, 0x0, 1, 0x0⟩

/-- Fields of page DEV, part 0. -/
def devFields0 : List Fld :=
  [DEV_REVISION_MODULE_REV, DEV_REVISION_C0_STEP, DEV_REVISION_C1_STEP, DEV_REVISION_C2_STEP, DEV_REVISION_C3_STEP, DEV_REVISION_X0_STEP, DEV_REVISION_X1_STEP, DEV_FW_VERSION, DEV_FW_SLOT_SLOT, DEV_FW_SVN, DEV_FW_MIN_SVN, DEV_ID_ID, NARROW_CFG_KV, NARROW_CFG_GRAD, NARROW_CFG_OPT, DEV_ACC_IDLE_ENERGY, RT_CTL_SEAL, RT_CTL_PENDING, RT_CTL_FRONT, RT_CTL_CFG_ERR, RMT_TIMEOUT_NS, SFU_CTL_SEAL, SFU_CTL_PENDING, SFU_CTL_FRONT]
/-- Fields of page DEV, part 1. -/
def devFields1 : List Fld :=
  [SFU_CTL_CFG_ERR, DEV_INT_CTL_VECTOR, DEV_INT_CTL_REARM, DEV_INT_CTL_ARMED, DEV_INT_CTL_ENABLE, DEV_INT_ADDR, DEV_DOMAIN_MAP]
/-- Fields of page STK, part 0. -/
def stkFields0 : List Fld :=
  [STK_CTL_STARTER, STK_CTL_EARLY_RECOVERY, STK_STAT_STATE, STK_STAT_LATE, STK_STAT_CFG_ERR, STK_STAT_GO_ERR, STK_STAT_CATCH_LATE, STK_STAT_NONDET_SEEN, STK_STAT_HOLD_STATUS, STK_CMD_CMD, STK_MEMBERS_COUNT, STK_PERIOD_NS, STK_DRIVE_NS, STK_LEAD_NS, STK_QUANTUM_NS, STK_STRETCH_MAX_PERMILLE, STK_CATCH_TIMEOUT_NS, STK_FIRST_STROKE, STK_FWD_MASK_MASK, STK_STROKE, STK_SCHEDULE_ID, STK_GO_FAULT_DEV, STK_GO_FAULT_CAUSE, STK_GO_FAULT_READY_COUNT]
/-- Fields of page STK, part 1. -/
def stkFields1 : List Fld :=
  [STK_GO_FAULT_VALID, STK_LATE_MASK_MASK, STK_STRETCH_TOTAL, STK_STRETCH_COUNT, STK_STRAY_COUNT, STK_LAST_ELAPSED, STK_READY_MAP]
/-- Fields of page PWR, part 0. -/
def pwrFields0 : List Fld :=
  [PWR_PC_ENERGY, PWR_PC_THROTTLE_NS, PWR_PC_ENTRIES, PWR_PC_REFUSALS, PWR_CMD_TARGET, PWR_STAT_STATE, PWR_STAT_TRIP, PWR_STAT_LAST_RESULT, PWR_STAT_REASON, PWR_STAT_STEP, PWR_STAT_BLOCK_TYPE, PWR_STAT_BLOCK_INSTANCE, PWR_DEFER_MAX_MS, PWR_LIMIT_W, PWR_HYST_W, PWR_CLOCK_POINT, PWR_CLOCK_CAUSE, PWR_CLOCK_MAX_POINT, PWR_INPUT_MV, PWR_INPUT_W, PWR_PAD_RELEASE_HELD, PWR_RESET_CAUSE_KIND, PWR_RESET_CAUSE_TRIGGER, PWR_WARM_RESET_KEY]
/-- Fields of page PWR, part 1. -/
def pwrFields1 : List Fld :=
  [PWR_RET_CMD_OP, PWR_RET_STAT_BUSY, PWR_RET_STAT_SOURCE, PWR_RET_STAT_SEQUENCE, PWR_RET_COMMITS_SLOT0, PWR_RET_COMMITS_SLOT1]
/-- Fields of page LOG, part 0. -/
def logFields0 : List Fld :=
  [LOG_WRITTEN, LOG_DROPPED, LOG_CTL_MIN_SEVERITY, LOG_CTL_IBI_SEVERITY, LOG_CTL_FREEZE, LOG_INDEX_INDEX, LOG_INJECT_DATA, LOG_INJECT_EVENT, LOG_INJECT_SEVERITY]
/-- Fields of page SPR, part 0. -/
def sprFields0 : List Fld :=
  [SPR_PC_TRANSIENT, SPR_PC_PERMANENT, SPR_PC_ENTERED, SPR_PC_LEDGER, SPR_AUTO_KINDS, SPR_WINDOW_MS, SPR_CMD_OP, SPR_CMD_KIND, SPR_CMD_BLOCK, SPR_CMD_POS, SPR_CMD_STAT_BUSY, SPR_CMD_STAT_STATUS, SPR_PENDING_KINDS, SPR_LEDGER_STAT_REGION, SPR_LEDGER_STAT_USED, SPR_LEDGER_STAT_SKIPPED, SPR_LEDGER_INDEX_INDEX, SPR_LEDGER_INDEX_OTHER]
/-- Fields of page TMP, part 0. -/
def tmpFields0 : List Fld :=
  [TMP_DIE_TEMP, TMP_DIE_PEAK, TMP_DIE_VALID, TMP_HOTTEST_TEMP, TMP_HOTTEST_DIE, TMP_HOTTEST_VALID]
/-- Fields of page HIF, part 0. -/
def hifFields0 : List Fld :=
  [HIF_PC_RX_BYTES, HIF_PC_TX_BYTES, HIF_PC_BAR_FAULTS, HIF_PC_TRIGGER_DROPS, HIF_PC_DOORBELL_DROPS, HIF_PC_STEP_SAVES, HIF_PC_BOUNDARY_SAVES, HIF_LINK_STAT_SPEED, HIF_LINK_STAT_WIDTH, HIF_LINK_STAT_FLIT, HIF_LINK_STAT_FRONT, HIF_PREEMPT_HORIZON_NS, HIF_RD_LIMIT_NS, HIF_ERR_LINK_DOWN, HIF_ERR_CPL_TIMEOUT, HIF_ERR_POISON_RX, HIF_HWIN_ENABLE, HIF_HWIN_BUS_BASE, HIF_TEST_CTL_MODE, HIF_TEST_CTL_PATTERN, HIF_TEST_CTL_TARGET, HIF_TEST_CTL_RUN, HIF_TEST_STAT_STATE, HIF_TEST_STAT_LOCK]
/-- Fields of page HIF, part 1. -/
def hifFields1 : List Fld :=
  [HIF_TEST_ERRORS, HIF_TEST_BITS, HIF_TEST_PATTERN]
/-- Fields of page CTX, part 0. -/
def ctxFields0 : List Fld :=
  [CTX_ACC_CYCLES, CTX_ACC_ENERGY, CTX_ACC_HBM, CTX_ACC_LPD, CTX_ACC_NBR, CTX_ACC_HOST, CTX_ACC_PORT, CTX_PC_PREEMPTS, CTX_PC_SAVED_BYTES, CTX_PT_ROOT_ROOT, CTX_SCALE_TABLE, CTX_CTL_PRIORITY, CTX_CTL_TIER_POOL, CTX_CTL_URGENT, CTX_CTL_PREEMPT, CTX_CTL_RESUME, CTX_CTL_ACC_CLEAR, CTX_STAT_STATE, CTX_STAT_ENABLE_ERR, CTX_STAT_ERR_CAUSE, CTX_STAT_DOORBELL_DROP, CTX_STAT_SEAT_SLOTS_USED, CTX_STAT_CREW_SLOTS_USED, CTX_WINGS]
/-- Fields of page CTX, part 1. -/
def ctxFields1 : List Fld :=
  [CTX_WINGS_SIZE_SIZE, CTX_WINGS_CFG_SEAT_SLOTS, CTX_WINGS_CFG_CREW_SLOTS, CTX_LIVE_MAP, CTX_SELF_VA, CTX_TASK_RING_BASE, CTX_TASK_RING_CTL_SIZE_LOG2, CTX_TASK_RING_CTL_TOKEN, CTX_TASK_RING_CTL_ENABLE, CTX_TASK_HEAD, CTX_APERTURE, CTX_DOORBELL_ADDR, CTX_DOORBELL_VALID]
/-- Fields of page HBM, part 0. -/
def hbmFields0 : List Fld :=
  [HBM_PC_BOUNCES, HBM_PC_TIMEOUTS, HBM_TEMP_TEMP, HBM_TEMP_VALID, HBM_THROTTLE_LEVEL, HBM_TIMEOUT_NS, HBM_SLOTS_USED_COUNT, HBM_BANKS_HELD_COUNT, HBM_TEST_CTL_MODE, HBM_TEST_CTL_PATTERN, HBM_TEST_CTL_TARGET, HBM_TEST_CTL_RUN, HBM_TEST_STAT_STATE, HBM_TEST_STAT_LOCK, HBM_TEST_ERRORS, HBM_TEST_BITS, HBM_TEST_PATTERN, HBM_MARGIN_CTL_TARGET, HBM_MARGIN_CTL_AXIS, HBM_MARGIN_CTL_GO, HBM_MARGIN_CTL_BUSY, HBM_MARGIN_CTL_PAUSED, HBM_MARGIN_RESULT_LOW, HBM_MARGIN_RESULT_HIGH]
/-- Fields of page HBM, part 1. -/
def hbmFields1 : List Fld :=
  [HBM_MARGIN_RESULT_WORST_DQ, HBM_MARGIN_RESULT_VALID, HBM_MARGIN_RESULT_CLIPPED]
/-- Fields of page LPD, part 0. -/
def lpdFields0 : List Fld :=
  [LPD_PC_BOUNCES, LPD_PC_TIMEOUTS, LPD_TEMP_TEMP, LPD_TEMP_VALID, LPD_TIMEOUT_NS, LPD_SLOTS_USED_COUNT, LPD_BANKS_HELD_COUNT, LPD_TEST_CTL_MODE, LPD_TEST_CTL_PATTERN, LPD_TEST_CTL_TARGET, LPD_TEST_CTL_RUN, LPD_TEST_STAT_STATE, LPD_TEST_STAT_LOCK, LPD_TEST_ERRORS, LPD_TEST_BITS, LPD_TEST_PATTERN, LPD_MARGIN_CTL_TARGET, LPD_MARGIN_CTL_AXIS, LPD_MARGIN_CTL_GO, LPD_MARGIN_CTL_BUSY, LPD_MARGIN_CTL_PAUSED, LPD_MARGIN_RESULT_LOW, LPD_MARGIN_RESULT_HIGH, LPD_MARGIN_RESULT_WORST_DQ]
/-- Fields of page LPD, part 1. -/
def lpdFields1 : List Fld :=
  [LPD_MARGIN_RESULT_VALID, LPD_MARGIN_RESULT_CLIPPED]
/-- Fields of page LNK, part 0. -/
def lnkFields0 : List Fld :=
  [LNK_PC_TX_CELLS, LNK_PC_RX_CELLS, LNK_PC_FEC_SYMBOLS, LNK_PC_FEC_UNCORR, LNK_PC_REPLAYS, LNK_PC_DROPPED, LNK_PC_TIMEOUTS, LNK_PC_LATE_RESP, LNK_CTL_LANE_AUTO, LNK_CTL_MIN_WIDTH, LNK_CTL_RETRAIN, LNK_STAT_STATE, LNK_STAT_WIDTH, LNK_STAT_SPARE_USED, LNK_STAT_PHASE, LNK_PEER_DEV, LNK_PEER_PORT, LNK_PEER_VALID, LNK_LATENCY_LAT, LNK_LANE_MAP_SPARED, LNK_LANES_ACTIVE_MASK, LNK_RETRAIN_MAX_MS, LNK_RETRAIN_ERR_LIMIT, LNK_ARB_AGE]
/-- Fields of page LNK, part 1. -/
def lnkFields1 : List Fld :=
  [LNK_CREDIT_VC0_CLASS0, LNK_CREDIT_VC0_CLASS1, LNK_CREDIT_VC1_CLASS0, LNK_CREDIT_VC1_CLASS1, LNK_CREDIT_VC2_CLASS0, LNK_CREDIT_VC2_CLASS1, LNK_CREDIT_VC3_CLASS0, LNK_CREDIT_VC3_CLASS1, LNK_SLOTS_USED_COUNT, LNK_TEST_CTL_MODE, LNK_TEST_CTL_PATTERN, LNK_TEST_CTL_TARGET, LNK_TEST_CTL_RUN, LNK_TEST_STAT_STATE, LNK_TEST_STAT_LOCK, LNK_TEST_ERRORS, LNK_TEST_BITS, LNK_TEST_PATTERN]
/-- Fields of page MMU, part 0. -/
def mmuFields0 : List Fld :=
  [MMU_PC_WALKS, MMU_PC_WALK_READS, MMU_PC_DTLB_MISSES, MMU_PC_FAULTS, MMU_PC_JOINED, MMU_PC_CKPT_COPIES, MMU_PC_CKPT_STALL_NS, MMU_PC_STALE_RESUME, MMU_FAULT_RING_BASE, MMU_FAULT_RING_CTL_SIZE_LOG2, MMU_FAULT_RING_CTL_VECTOR, MMU_FAULT_RING_CTL_ENABLE, MMU_FAULT_TAIL, MMU_FAULT_HEAD, MMU_FAULT_OUT_COUNT, MMU_FAULT_OUT_OVERFLOW, MMU_FAULT_OUT_RING_ERR, MMU_RESUME_FAULT_ID, MMU_RESUME_CONTEXT, MMU_RESUME_MODE, MMU_INVAL_VA, MMU_INVAL_SIZE, MMU_INVAL_CTL_CONTEXT, MMU_INVAL_CTL_SCOPE]
/-- Fields of page MMU, part 1. -/
def mmuFields1 : List Fld :=
  [MMU_INVAL_CTL_GO, MMU_INVAL_CTL_BUSY, MMU_CKPT_BASE, MMU_CKPT_AT, MMU_CKPT_CTL_ARM, MMU_CKPT_CTL_CANCEL, MMU_CKPT_STAT_STATE, MMU_CKPT_STAT_DONE]
/-- Fields of page TIER, part 0. -/
def tierFields0 : List Fld :=
  [TIER_PC_PROMOTED, TIER_PC_EVICTED, TIER_PC_BUSY, TIER_PC_REFUSED, TIER_PC_WATCH_REREAD, TIER_PC_WATCH_UNUSED, TIER_PC_CKPT_RESTORED, TIER_CTL_REBALANCE, TIER_CTL_DRIVE_MOVES, TIER_CTL_WATCH_ENABLE, TIER_CTL_WATCH_RETRIES, TIER_STAT_FULL_HBM, TIER_STAT_FULL_LPD, TIER_STAT_FULL_NBR, TIER_STAT_MOVING, TIER_STAT_TABLE_FULL, TIER_TABLE_BASE, TIER_TABLE_SIZE_RECORDS, TIER_OBJECTS_COUNT, TIER_RING_BASE, TIER_RING_CTL_SIZE_LOG2, TIER_RING_CTL_TOKEN, TIER_RING_CTL_ENABLE, TIER_RING_HEAD]
/-- Fields of page TIER, part 1. -/
def tierFields1 : List Fld :=
  [TIER_POOL_HBM_LIMIT, TIER_POOL_LPD_LIMIT, TIER_POOL_NBR_LIMIT, TIER_POOL_HBM_USED, TIER_POOL_LPD_USED, TIER_POOL_NBR_USED, TIER_POOL_MARKS_LOW, TIER_POOL_MARKS_HIGH, TIER_LEASE_CTL_LENDER, TIER_LEASE_CTL_TIER, TIER_LEASE_CTL_ENABLE, TIER_LEASE_CTL_RECLAIM, TIER_LEASE_CTL_STATE, TIER_LEASE_SIZE, TIER_LEASE_BASE, TIER_LEND_CTL_BORROWER, TIER_LEND_CTL_TIER, TIER_LEND_CTL_ENABLE, TIER_LEND_CTL_STATE, TIER_LEND_SIZE, TIER_LEND_BASE, TIER_CKPT_AREA_BASE, TIER_CKPT_AREA_SLOTS_SLOTS, TIER_CKPT_CTL_SELECT]
/-- Fields of page TIER, part 2. -/
def tierFields2 : List Fld :=
  [TIER_CKPT_CTL_LOAD, TIER_CKPT_CTL_LOAD_AREA, TIER_CKPT_STAT_AREA, TIER_CKPT_STAT_LOAD_BUSY, TIER_CKPT_STAT_LOAD_ERR, TIER_CKPT_FRAMES_COUNT]
/-- Fields of page ROS, part 0. -/
def rosFields0 : List Fld :=
  [ROS_PC_FORK_CHILDREN, ROS_PC_ADMITS, ROS_PC_RELEASES, ROS_PC_DEFERRED, ROS_PC_SUSPENDS, ROS_PC_COW_COPIES, ROS_PC_COW_AVOIDED, ROS_ACTIVE_COUNT, ROS_WAITING_COUNT, ROS_SUSPENDED_COUNT, ROS_ADMIT_CTL_STRICT, ROS_CATCH_NS, ROS_LOW_STAT, ROS_REQ_COUNT, ROS_LEN_BASE_ENABLE, ROS_LEN_BASE_BASE, ROS_POOL_PAGE_BASE, ROS_POOL_SCALE_BASE, ROS_POOL_REF_BASE, ROS_POOL_STACK_BASE, ROS_POOL_CTL_ENABLE, ROS_POOL_CTL_RESTORE, ROS_POOL_CTL_CONTEXT, ROS_POOL_CTL_HINT]
/-- Fields of page ROS, part 1. -/
def rosFields1 : List Fld :=
  [ROS_POOL_CTL_FAULTED, ROS_POOL_SIZE_SIZE, ROS_POOL_FREE_FREE, ROS_POOL_ADD_COUNT, ROS_POOL_ADD_AT, ROS_POOL_LOW_LOW]
/-- Fields of page COX, part 0. -/
def coxFields0 : List Fld :=
  [COX_SHEET_BASE, COX_SHEET_STRIDE_BYTES, COX_SHEET_COUNT_COUNT, COX_SHEET_EPOCH, COX_BATCH_FLUSH_CYCLES, COX_FAIL_COUNT]
/-- Fields of page CST, part 0. -/
def cstFields0 : List Fld :=
  [CST_PC_CONFLICT, CST_PC_TRANSPOSE, CST_PC_RC_HITS, CST_PC_RC_MISSES, CST_RC_CTL_ENABLE, CST_RC_CTL_CATCH_INVAL, CST_RC_INVAL_ALL, CST_RC_WAYS_RETIRED, CST_BANK_SPARE_SPARE0_FOR, CST_BANK_SPARE_SPARE0_COPYING, CST_BANK_SPARE_SPARE1_FOR, CST_BANK_SPARE_SPARE1_COPYING, CST_TEST_CTL_ENABLE, CST_TEST_CTL_ROWS, CST_TEST_POS_ROW, CST_TEST_PASSES, CST_ERR_ADDR_OFFSET, CST_ERR_INFO_KIND, CST_ERR_INFO_COLUMN, CST_ERR_INFO_CODEWORD, CST_ERR_INFO_TEST]
/-- Fields of page CORE, part 0. -/
def coreFields0 : List Fld :=
  [CORE_PC_ARRAY_CYCLES, CORE_PC_FEED_STALL, CORE_PC_STEPS, CORE_PC_SKIPPED, CORE_PC_RECOMPUTED, CORE_PC_ATTN_BLOCKS, CORE_PC_ATTN_SKIPPED, CORE_PC_ATTN_LATE, CORE_PC_PAGE_SHARED, CORE_PC_SP_CONFLICT, CORE_STATE_STATE, CORE_STATE_OPCODE, CORE_STATE_CMD_INDEX, CORE_STEPS_LEFT, CORE_CMD_ADDR, CORE_FAULT_ADDR, CORE_FAULT_INFO_STATUS, CORE_FAULT_INFO_CONTEXT, CORE_FAULT_INFO_WRITE, CORE_FAULT_INFO_PSUM, CORE_FAULT_INFO_CMD_ID, CORE_ABORT_COUNT, CORE_SP_BANK_SPARE_SPARE0_FOR, CORE_SP_BANK_SPARE_SPARE0_COPYING]
/-- Fields of page CORE, part 1. -/
def coreFields1 : List Fld :=
  [CORE_SP_BANK_SPARE_SPARE1_FOR, CORE_SP_BANK_SPARE_SPARE1_COPYING, CORE_SP_TEST_CTL_ENABLE, CORE_SP_TEST_CTL_ROWS, CORE_SP_TEST_POS_ROW, CORE_SP_TEST_PASSES, CORE_SP_ERR_ADDR_OFFSET, CORE_SP_ERR_INFO_KIND, CORE_SP_ERR_INFO_COLUMN, CORE_SP_ERR_INFO_CODEWORD, CORE_SP_ERR_INFO_TEST]
/-- Fields of page CDM, part 0. -/
def cdmFields0 : List Fld :=
  [CDM_PC_BYTES_READ, CDM_PC_BYTES_WRITTEN, CDM_PC_DESCRIPTORS, CDM_PC_BAD, CDM_PC_BUF_WAIT, CDM_CH_OWNER_WAITS, CDM_SPARE_SPARE_FOR, CDM_CH_CTL_ENABLE, CDM_CH_CTL_DISABLE_REQ, CDM_CH_CTL_FORCE_OFF, CDM_CH_CTL_MODE, CDM_CH_CTL_CONTEXT, CDM_CH_CTL_BUF_SHARE, CDM_CH_STAT_STATE, CDM_CH_STAT_STATUS, CDM_CH_STAT_DESC_ID, CDM_CH_RING_BASE, CDM_CH_RING_CTL_SIZE_LOG2, CDM_CH_RING_CTL_INDEX, CDM_CH_RING_CTL_SCOPE, CDM_CH_HEAD, CDM_CH_CUR]
/-- Fields of page HDM, part 0. -/
def hdmFields0 : List Fld :=
  [HDM_PC_BYTES_READ, HDM_PC_BYTES_WRITTEN, HDM_PC_DESCRIPTORS, HDM_PC_BAD, HDM_PC_BUF_WAIT, HDM_CH_OWNER_WAITS, HDM_SPARE_SPARE_FOR, HDM_CH_CTL_ENABLE, HDM_CH_CTL_DISABLE_REQ, HDM_CH_CTL_FORCE_OFF, HDM_CH_CTL_MODE, HDM_CH_CTL_CONTEXT, HDM_CH_CTL_BUF_SHARE, HDM_CH_CTL_VECTOR, HDM_CH_STAT_STATE, HDM_CH_STAT_STATUS, HDM_CH_STAT_DESC_ID, HDM_CH_RING_BASE, HDM_CH_RING_CTL_SIZE_LOG2, HDM_CH_RING_CTL_INDEX, HDM_CH_RING_CTL_SCOPE, HDM_CH_HEAD, HDM_CH_CUR]

/-- The block-specific fields of a page. -/
def pageFields : Page → List Fld
  | .dev => devFields0 ++ devFields1
  | .stk => stkFields0 ++ stkFields1
  | .pwr => pwrFields0 ++ pwrFields1
  | .log => logFields0
  | .spr => sprFields0
  | .tmp => tmpFields0
  | .hif => hifFields0 ++ hifFields1
  | .ctx => ctxFields0 ++ ctxFields1
  | .hbm => hbmFields0 ++ hbmFields1
  | .lpd => lpdFields0 ++ lpdFields1
  | .lnk => lnkFields0 ++ lnkFields1
  | .mmu => mmuFields0 ++ mmuFields1
  | .tier => tierFields0 ++ tierFields1 ++ tierFields2
  | .ros => rosFields0 ++ rosFields1
  | .cox => coxFields0
  | .cst => cstFields0
  | .core => coreFields0 ++ coreFields1
  | .cdm => cdmFields0
  | .hdm => hdmFields0
  | .crw => []

/-- The reset value of a field, at the end of bring-up: the value of its table; a spare DMA channel's slot reports
state 7 (R527). -/
def Fld.resetAt (f : Fld) (idx : Nat) : Nat :=
  if (f.page = .cdm ∧ f.off = 0x204 ∧ f.lo = 0 ∧ idx = 8) ∨ (f.page = .hdm ∧ f.off = 0x204 ∧ f.lo = 0 ∧ idx = 16)
  then 7 else f.rst

end Sys2Proof.Machine
end

