-- ==== Sys2Proof/Machine/Tab.lean ====
section
/-!
DEFINITION. Tables: a list of pairs of a key and a value in rising order of the key. Memory, registers, tokens and every
other numbered collection of the device is such a table, so equal contents are equal lists.
-/
namespace Sys2Proof.Machine.Tab

/-- The value listed under a key. -/
def find {α : Type} : List (Nat × α) → Nat → Option α
  | [], _ => none
  | (a, b) :: t, k => if a = k then some b else find t k

/-- The value under a key, or the default of an unlisted key. -/
def look {α : Type} (t : List (Nat × α)) (k : Nat) (d : α) : α := (find t k).getD d

/-- Lists a value under a key, in order, in place of the one listed there. -/
def put {α : Type} : List (Nat × α) → Nat → α → List (Nat × α)
  | [], k, v => [(k, v)]
  | (a, b) :: t, k, v =>
    if k < a then (k, v) :: (a, b) :: t
    else if k = a then (k, v) :: t
    else (a, b) :: put t k v

/-- Removes a key. -/
def del {α : Type} (t : List (Nat × α)) (k : Nat) : List (Nat × α) := t.filter (fun p => p.1 ≠ k)

/-- Lists a value, or removes the key when the value is the default of an unlisted key. -/
def set {α : Type} [DecidableEq α] (t : List (Nat × α)) (k : Nat) (d v : α) : List (Nat × α) :=
  if v = d then del t k else put t k v

/-- The keys rise strictly. -/
def sorted {α : Type} (t : List (Nat × α)) : Bool := decide ((t.map Prod.fst).Pairwise (· < ·))

/-- The same table with its keys in strict order. -/
def canon {α : Type} (t : List (Nat × α)) : List (Nat × α) := t.foldr (fun p r => put r p.1 p.2) []

/-- Applies a function to the value under a key. -/
def upd {α : Type} (t : List (Nat × α)) (k : Nat) (d : α) (f : α → α) : List (Nat × α) := put t k (f (look t k d))

end Sys2Proof.Machine.Tab
end

