-- ==== Sys2Proof/Machine/State.lean ====
section
/-!
DEFINITION. The state of the module and its value at reset. Every stored register field is in `regs` (a field that is not
listed holds its reset value); everything else the spec gives the machine has a field of its own.
-/
namespace Sys2Proof.Machine

/-- Why a step could stop with a fault. No step of this block stops with one: every outcome the spec describes is an effect
on the state. -/
inductive Fault where
  | none
  deriving DecidableEq, Repr

/-- Why a command could be refused. `notModelled` is raised by the dispatch only, for a command that has no meaning yet
(safe). -/
inductive Refusal where
  | notModelled (mnemonic : String)
  deriving DecidableEq, Repr

/-- A range of local memory whose contents a rule calls undefined; its bytes read as the free values of the seed. -/
structure UndefRange where
  lo   : Nat
  len  : Nat
  seed : Nat
  deriving DecidableEq, Repr

/-- A logbook entry (R682). -/
structure LogEntry where
  time     : Nat
  stroke   : Nat
  source   : Nat
  event    : Nat
  severity : Nat
  status   : Nat
  data     : Nat
  deriving DecidableEq, Repr

/-- A cue of a sheet (R74). -/
structure Cue where
  kind      : Nat
  batch     : Bool
  holdOnErr : Bool
  seatMask  : Nat
  id        : Nat
  waitA     : Nat
  waitB     : Nat
  threshA   : Nat
  threshB   : Nat
  postA     : Nat
  incA      : Nat
  postB     : Nat
  incB      : Nat
  earliest  : Nat
  arg       : Nat
  ptr       : Nat
  statusPtr : Nat
  deriving DecidableEq, Repr, Inhabited

/-- A fetched and checked sheet: the stroke it is for, its header (R73) and its cues. -/
structure Sheet where
  stroke : Nat
  ctx    : Nat
  nondet : Bool
  cues   : List Cue
  deriving DecidableEq, Repr, Inhabited

/-- A cue that has issued and not completed: the parts of its action still running, what its record will carry. -/
structure CueRun where
  left   : Nat
  status : Nat
  flags  : Nat
  order  : Nat
  detail : List Byte
  deriving DecidableEq, Repr, Inhabited

/-- Rows of one contribution of the batcher (R154 to R156): its cue, the first of the rows, how many, the run-time N and K of the
contribution (R130), its command and where that stands. -/
structure RowSpan where
  cue   : Nat
  first : Nat
  count : Nat
  n     : Nat
  k     : Nat
  raw   : List Byte
  addr  : Nat
  deriving DecidableEq, Repr, Inhabited

/-- An open class of the batcher (R154, R155): the shared fields of its contributions and the rows gathered, in order, with the seats of
the cue that contributed last. -/
structure BatchClass where
  key   : List Byte
  seats : Nat
  rows  : List RowSpan
  deriving DecidableEq, Repr, Inhabited

/-- A contribution as the batcher takes it: its run-time M, N and K (R130), its command and where that stands. -/
structure Contribution where
  m    : Nat
  n    : Nat
  k    : Nat
  raw  : List Byte
  addr : Nat
  deriving DecidableEq, Repr, Inhabited

/-- Contributions of an issued cue that wait for a class to close (R155): the cue, its seats, the contributions in command order. -/
structure Backlog where
  cue   : Nat
  seats : Nat
  rest  : List Contribution
  deriving DecidableEq, Repr, Inhabited

/-- The cox of a crew: the sheet in execution and the one fetched for the next stroke, the strokes whose sheet it has refused, the cues
issued and completed,
the actions running, the batcher's open classes, the contributions that wait for one and the tiles that wait for a seat, and the flags
of the stroke. -/
structure Cox where
  cur     : Option Sheet
  next    : Option Sheet
  bad     : List Nat
  issued  : List Nat
  done    : List Nat
  running : List (Nat × CueRun)
  batch   : List BatchClass
  backlog : List Backlog
  tiles   : List (Nat × List RowSpan)
  ended   : Bool
  late    : Bool
  stopped : Bool
  deriving DecidableEq, Repr, Inhabited

/-- The stroke unit beyond its registers: the instant T of the current stroke, the scheduled catch, what the starter
knows of its regatta, the requests it has in hand, the stroke numbers of the CATCH messages taken (R63), and the code and stroke
number of the other broadcasts passed on (log 39). Instants are in 1/16 ns. -/
structure StrokeUnit where
  catchAt   : Nat
  ended     : Bool
  due       : Option (Nat × Nat)
  k         : Nat
  emitted   : Option Nat
  lates     : List (Nat × Nat)
  readys    : List (Nat × Nat × Nat × Nat)
  stopping  : Option Nat
  resumed   : Option Nat
  curtain   : Bool
  seen      : List Nat
  relayed   : List (Nat × Nat)
  deriving DecidableEq, Repr, Inhabited

/-- Who waits for a remote operation or a host read: a cue, a core, a channel, the host interface for a BAR2 access of a
function, an agent that reads, a message of the device itself, the summary message (R734), or nobody any more. -/
inductive Owner where
  | cue (crew idx : Nat)
  | core (i : Nat)
  | chan (engine ch : Nat)
  | bar (func tag : Nat)
  | agent (a : Agent)
  | message
  | summary
  | gone
  deriving DecidableEq, Repr

/-- A remote operation in progress: the packets not yet answered, the failing packet of the lowest address (address,
device, status), the increment still to send (R556), and whether its length was 0. -/
structure RemOp where
  owner  : Owner
  left   : Nat
  worst  : Option (Nat × Nat × Nat)
  signal : Option (Nat × Nat × Nat)
  zero   : Bool
  ctx    : Nat
  sched  : Bool
  deriving DecidableEq, Repr

/-- A transaction slot in use (R567): the operation it belongs to, the packet sent, where its response goes, and when it
times out (R571). -/
structure Txn where
  op     : Nat
  packet : Packet
  dest   : Option Nat
  due    : Nat
  deriving DecidableEq, Repr

/-- An Azeaper port beyond its registers: receive buffer (each packet with its instant of arrival), queue (each packet with
the frames it has waited and the instant it was queued), replay buffer with the number of the next frame each way, credits held
of the peer's buffer (VC and class), cells to return, transaction slots and their generations, and the training: its phase, its
start, the lanes that failed, the latency sums and the grants the peer reported. -/
structure Port where
  rx       : List (Nat × Packet)
  tx       : List (Nat × Nat × Packet)
  replay   : List Frame
  nextSeq  : Nat
  rxSeq    : Nat
  nak      : Bool
  ackAt    : Nat
  replays  : Nat
  credits  : List Nat
  owed     : List (Nat × Nat × Nat)
  slots    : List (Nat × Txn)
  gens     : List (Nat × Nat)
  frames   : Nat
  start    : Nat
  failed   : Nat
  rttSum   : Nat
  rttRaw   : Nat
  rttCount : Nat
  peerCr   : Bool
  phase    : Nat
  grant    : List Nat
  deriving DecidableEq, Repr, Inhabited

/-- A request the front device has passed to PCIe: a posted write, an MSI-X message, a completion with data, a completion
with an error. -/
inductive HostOut where
  | write (func addr : Nat) (data : List Byte)
  | read (func addr len tag : Nat)
  | msix (func vector : Nat)
  | completion (func addr : Nat) (data : List Byte)
  | unsupported (func addr : Nat)
  | abort (func addr : Nat)
  | aer (kind : Nat)
  deriving DecidableEq, Repr

/-- A device read of host memory that waits for its completion (R577, R591), and to whom its data goes: a packet of
another device, or an agent of this one. -/
structure HostRead where
  packet : Option (Nat × Packet)
  agent  : Option Agent
  addr   : Nat
  len    : Nat
  due    : Nat
  deriving DecidableEq, Repr

/-- An access of the host that has not completed (R582 to R584), by its tag, which rises in the order of arrival: 0 a BAR2 read, 1 a BAR2 write,
2 a doorbell write; function, offset (the doorbell's index), length, the data written or gathered (the doorbell's value), when a read
expires, and whether its remote operation has left. -/
structure BarWait where
  kind : Nat
  func : Nat
  addr : Nat
  len  : Nat
  data : List Byte
  due  : Nat
  sent : Bool
  deriving DecidableEq, Repr

/-- Bytes of another device, or of host memory, that have arrived for an agent (its response buffer, R99), and whether the read cache of
its crew keeps them too (R394). -/
structure Arrived where
  agent  : Agent
  addr   : Nat
  data   : List Byte
  cached : Bool := false
  deriving DecidableEq, Repr

/-- A line of a crew's read cache (R375, R394): the 64-byte line of global physical memory that it holds, and its two sectors of 32 bytes;
one that is not valid is empty. `bad` says that it holds a check-bit error that no lookup has met yet (R398). -/
structure RcLine where
  line : Nat
  lo   : List Byte
  hi   : List Byte
  bad  : Bool
  deriving DecidableEq, Repr

/-- A fault slot (R480): context, 64 KiB page, access class, generation, whether its record has been written, the agents it stalls, each
with the number of its command (R481, ID), and the status and the stroke of its record. One of status 0x7E only waits for its record
(R487). -/
structure FaultSlot where
  ctx      : Nat
  page     : Nat
  va       : Nat
  write    : Bool
  level    : Nat
  reported : Bool
  agents   : List (Agent × Nat)
  status   : Nat := 0x20
  stroke   : Nat := 0
  deriving DecidableEq, Repr, Inhabited

/-- An entry of the translation caches (R468): context, first virtual address, bytes, the leaf. -/
structure TlbEntry where
  ctx  : Nat
  va   : Nat
  size : Nat
  leaf : Nat
  deriving DecidableEq, Repr

/-- A block of tensor commands handed to a seat (R77, R115): where it comes from (a cue, a batched tile, a task), its
context, its address and length, the position of the next command, its place in seat order (R88), and the flags gathered
so far. -/
structure Block where
  kind  : Nat
  cue   : Nat
  order : Nat
  ctx   : Nat
  addr  : Nat
  count : Nat
  pos   : Nat
  flags : Nat
  rows  : List RowSpan
  deriving DecidableEq, Repr, Inhabited

/-- Per-tensor scales that a command read at its decode (R190): inverse scales of A and B, scale of C, SATURATE. -/
structure Scales where
  a   : Word
  b   : Word
  c   : Word
  sat : Bool
  deriving DecidableEq, Repr, Inhabited

/-- Rows of a matrix-class command that share an M sequence (R146, R152): operand addresses, block scales, output, the rows,
their run-time N and K, their strides, the first output row of a fused epilogue (R241). -/
structure Seg where
  a    : Nat
  b    : Nat
  c    : Nat
  sa   : Nat
  sb   : Nat
  rows : Nat
  n    : Nat
  k    : Nat
  lda  : Nat
  ldc  : Nat
  out  : Nat
  deriving DecidableEq, Repr, Inhabited

/-- A slot of ATTN, ATTN_VERIFY, SCAN or STATE_STEP as its decode found it: roster ID, whether it runs, its flag (R281, R359),
committed length, rows or COUNT, and of its directory or state block the format, row stride, tokens per page, list or slice
address, initial slice and marks. -/
structure Slot where
  id     : Nat
  live   : Bool
  flag   : Nat
  len    : Nat
  count  : Nat
  fmt    : Nat
  stride : Nat
  tpp    : Nat
  base   : Nat
  init   : Nat
  marks  : Nat
  deriving DecidableEq, Repr, Inhabited

/-- A step of a key block (R292, R296): the block, the slots that share its page, the head, and whether the step ends the work of
that head with the block; the steps before it only expand keys, in the work area. -/
structure KeyStep where
  blk   : Nat
  slots : List Nat
  head  : Nat
  last  : Bool
  deriving DecidableEq, Repr, Inhabited

/-- A running tensor command: its 128 bytes, run-time shape, the step it stands at and how many it has, the flags it has
raised, its counts (and those of LAT_ENTRY), its scales and those of a fused EPILOGUE, that command, its row segments or
slots, the running values of attention rows (R288), its partial-sum and work areas in the context (address, bytes) or, for a batched
tile, in its scratchpad (R158), whether its results are undefined (R153), its own number among all commands run (R200), the slots whose
rows are written and those of them whose writes are visible (R360, R369), and the steps of its key blocks (R292, R296). -/
structure Run where
  raw   : List Byte
  m     : Nat
  n     : Nat
  k     : Nat
  b     : Nat
  step  : Nat
  steps : Nat
  flags : Nat
  cnt   : NarrowCount
  cnt2  : NarrowCount
  sc    : Scales
  esc   : Scales
  epi   : List Byte
  segs  : List (List Seg)
  slots : List Slot
  parts : List (List Word)
  areas : List (Nat × Nat)
  spot  : Nat × Nat
  wild  : Bool
  num   : Nat
  fin   : List Nat
  done  : List Nat
  plan  : List KeyStep
  deriving DecidableEq, Repr, Inhabited

/-- A core: its block, the command it has fetched, the command it runs, what it waits for, the counts of its
self-check (R620), the CMD_ID and index of the command to which the writes outstanding belong (R142, R679), the shared page (roster
entry, layer, index) whose copy its step waits for (R284), and the pages of that copy, each as a context and a virtual address (R335). -/
structure Core where
  block   : Option Block
  next    : Option (List Byte)
  run     : Option Run
  wait    : Option (Nat × Nat)
  stalled : Bool
  held    : Bool
  saving  : Nat
  out     : Nat
  failing : Nat
  error   : Option Nat
  lastCmd : Nat × Nat
  cow     : Option (Nat × Nat × Nat)
  cowVas  : List (Nat × Nat)
  deriving DecidableEq, Repr, Inhabited

/-- A DMA descriptor in progress: its 64 bytes, its address, whether its transfer is done and its read-back awaited, its
outcome so far, and whether its increment has left for another device. -/
structure DescRun where
  raw    : List Byte
  addr   : Nat
  moved  : Bool
  status : Nat
  cause  : Nat
  flags  : Nat
  done   : Nat
  sent   : Bool
  stage   : Nat := 0
  part    : Nat := 0
  checked : Bool := false
  armed   : Bool := false
  deriving DecidableEq, Repr, Inhabited

/-- A DMA channel (R501, R511, R513): the list a cue handed it (crew and cue, context, address, length, position), the
descriptor in progress, the first failure of the list, the writes not yet acknowledged, whether it is paused at a fault or
stopped at a boundary, and, while it drains, the doorbell count read at the request and whether it abandons. -/
structure Chan where
  cue     : Option Nat
  ctx     : Nat
  addr    : Nat
  count   : Nat
  pos     : Nat
  desc    : Option DescRun
  fail    : Option (Nat × Nat × Nat × Nat × Nat)
  flags   : Nat
  out     : Nat
  error   : Option Nat
  paused  : Bool
  stopped : Bool
  bell    : Nat
  force   : Bool
  deriving DecidableEq, Repr, Inhabited

/-- An armed watch slot (R450): the source as pieces of local memory, the destination as pieces of global physical memory, the uses left,
whether it is stale, how often the recopy has been repeated, and the descriptor that says how the bytes move. -/
structure Watch where
  src     : List (Nat × Nat)
  dst     : List (Nat × Nat)
  uses    : Nat
  stale   : Bool
  retries : Nat
  raw     : List Byte := []
  deriving DecidableEq, Repr, Inhabited

/-- A move of an object (R433): the tier it goes to, the frames allocated there, how many 64 KiB chunks have been copied, the
64-byte lines written after their chunk was copied, a move that waits for this one (R439), and whether its writers stall (point 3). -/
structure ObjMove where
  tier   : Nat
  frames : List Nat
  next   : Nat
  dirty  : List Nat
  after  : Option Nat
  stall  : Bool := false
  deriving DecidableEq, Repr, Inhabited

/-- An object of the tier manager (R420 to R425): its context, its pages (virtual address and frame, the frame number being
the global physical address over 64 KiB), whether its pages are of 2 MiB, hint and PIN_TIER, state (0 RESIDENT, 1 PROMOTING,
2 EVICTING, 3 PINNED, 4 LOST), tier, last-touched stroke, kind (0 host, 1 pool page, 2 stream, 3 scale page), the roster
entries or pool pages it serves, and its move. -/
structure Obj where
  ctx     : Nat
  pages   : List (Nat × Nat)
  big     : Bool
  hint    : Nat
  pinTier : Nat
  state   : Nat
  tier    : Nat
  touched : Nat
  kind    : Nat
  members : List Nat
  move    : Option ObjMove
  deriving DecidableEq, Repr, Inhabited

/-- 64 KiB frames of a page of the object. -/
def Obj.pageFrames (o : Obj) : Nat := if o.big then 32 else 1

/-- The 64 KiB frames of the object, in the order of its chunks. -/
def Obj.frames (o : Obj) : List Nat := o.pages.flatMap (fun p => (List.range o.pageFrames).map (fun k => p.2 + k))

/-- Records the lines of a write at a global physical address that fall into chunks already copied, or into the one whose bytes are on their
way (R433 point 2). -/
def Obj.noteLines (o : Obj) (a n : Nat) : Obj :=
  match o.move with
  | none => o
  | some m =>
    let hit (f : Nat) : List Nat :=
      let lo := f * 65536
      if decide (lo < a + n) && decide (a < lo + 65536) && decide (0 < n) then
        (List.range ((min (a + n) (lo + 65536) - 1) / 64 - max a lo / 64 + 1)).map (fun k => max a lo / 64 + k)
      else []
    let new := ((o.frames.take (m.next + 1)).flatMap hit).filter (fun l => !m.dirty.contains l)
    { o with move := some { m with dirty := m.dirty ++ new.dedup } }

/-- A request that the roster recorded in the current stroke (R313, R316): context, the 128 bytes of its command, and
the child records of a FORK. -/
structure RosReq where
  ctx  : Nat
  raw  : List Byte
  kids : List (Nat × Nat)
  deriving DecidableEq, Repr, Inhabited

/-- A deferred reference drop of a copy-on-write (R331): entry, layer, pool, page. -/
structure Drop where
  entry : Nat
  layer : Nat
  pool  : Nat
  page  : Nat
  deriving DecidableEq, Repr, Inhabited

/-- A pending pool addition (R341): pages, stroke, whether its catch had passed at the write. -/
structure PoolAdd where
  count : Nat
  due   : Nat
  late  : Bool
  deriving DecidableEq, Repr, Inhabited

/-- What the snapshot of a checkpoint holds (R635), and the object table. `seed` names the free bytes that stand for it in
memory, since the layout is not given (log 17). -/
structure Snapshot where
  seed    : Nat
  entries : List Host.Cell
  reqs    : List RosReq
  prev    : List (Nat × Nat)
  advs    : List (Nat × Nat)
  demands : List (Nat × Nat)
  drops   : List Drop
  adds    : List (Nat × PoolAdd)
  noDir   : List (Nat × RosReq)
  regs    : List (Nat × Nat)
  tokens  : List (Nat × Word)
  objs    : List (Nat × Obj)
  deriving DecidableEq, Repr, Inhabited


/-- An item of a resource of R617: kind, block and position, coded as R753 says. -/
structure Inst where
  kind  : Nat
  block : Nat
  pos   : Nat
  deriving DecidableEq, Repr, Inhabited

/-- A wear-ledger record (R629) that waits to be written. -/
structure LedgerRec where
  time  : Nat
  event : Nat
  inst  : Inst
  data  : Nat
  deriving DecidableEq, Repr, Inhabited

/-- A bank of a memory controller (R446 to R448): the requests that hold its slots and those it has bounced, each with its
requester and its age, and whether it is held. -/
structure Bank where
  queue   : List (Nat × Nat)
  bounced : List (Nat × Nat)
  held    : Bool
  deriving DecidableEq, Repr, Inhabited


/-- A saved seat (R605 to R612): the context, its wings slot, the home seat (global logical index), whether only that seat may
resume it, whether the save was at a command boundary, what the core held, and the granules of the scratchpad and of the crew store that
are live (R607). -/
structure Saved where
  ctx      : Nat
  slot     : Nat
  home     : Nat
  pinned   : Bool
  boundary : Bool
  what     : Core
  masks    : Nat × Nat := (0, 0)
  deriving DecidableEq, Repr, Inhabited

/-- Work on its way to or from the wings (R605, R609): the context that a save makes room for, and the slot. -/
structure CrewSave where
  ctx  : Nat
  slot : Nat
  mask : Nat
  deriving DecidableEq, Repr, Inhabited



/-- A request for a power state that is in progress (R652 to R654): its target, the state it came from, when it was made, whether
every block has accepted, and the last block that deferred (type code, item). -/
structure PowerReq where
  target : Nat
  origin : Nat
  start  : Nat
  agreed : Bool
  block  : Nat × Nat
  deriving DecidableEq, Repr, Inhabited

/-- The power controller beyond its registers: the request in progress, the memory controllers in self-refresh (stacks in bits 0 to 7,
packages from bit 8 on), the ports that were up when HOLD was entered, the straps as sampled (three address straps, then the
factory-restore strap), PERST#, J2 in range for the main rails, the standby converter, the rails good again in a wake from HOLD, the
checks of R663 in a row that allow a raise and the time of the last one, the snapshot slot last chosen or written, and a warm reset that
waits, with its trigger. -/
structure PowerUnit where
  req      : Option PowerReq
  selfRef  : Nat
  ports    : Nat
  straps   : Nat
  perst    : Bool
  supply   : Bool
  standby  : Bool
  ready    : Bool
  calm     : Nat
  checkAt  : Nat
  lastSlot : Nat
  owed     : Option Nat
  deriving DecidableEq, Repr, Inhabited

/-- A snapshot slot of the retention store (R671): whether its CHECK holds, sequence, firmware, and its entries (OFFSET, VALUE,
MASK). -/
structure RetSlot where
  good    : Bool
  seq     : Nat
  fw      : Nat
  entries : List (Nat × Nat × Nat)
  deriving DecidableEq, Repr, Inhabited

/-- A firmware image slot (R697): whether it holds the image that the factory installed, with its VERSION and SVN, else the bytes
that FW_DATA has written. -/
structure FwImage where
  factory : Bool
  version : Nat
  svn     : Nat
  data    : List Host.Cell
  deriving DecidableEq, Repr, Inhabited

/-- The I3C target (R688 to R694): the response not yet collected, the command that waits for ROW or for its answer, the size
given to FW_BEGIN, and the next attempt of an in-band interrupt. -/
structure I3cUnit where
  resp    : Option (List Byte)
  waiting : Option Instr
  fwSize  : Option Nat
  ibiAt   : Nat
  deriving DecidableEq, Repr, Inhabited

/-- An SPDM responder, on I3C or on DOE (R4, R695): the request gathered, whether it is complete, the response left to collect, and the
connection state (0 none, 1 version, 2 capabilities, 3 algorithms agreed). -/
structure SpdmUnit where
  msg   : List Byte
  ready : Bool
  resp  : Option (List Byte)
  conn  : Nat
  deriving DecidableEq, Repr, Inhabited

/-- The JTAG test access port (R705 to R708): its instruction register and the boundary register. -/
structure Tap where
  ir    : Nat
  cells : List Bool
  deriving DecidableEq, Repr, Inhabited

/-- A margin sweep in progress (R703): the side under way and the passing steps of this side. -/
structure Sweep where
  upper : Bool
  steps : Nat
  worst : Option Nat
  deriving DecidableEq, Repr, Inhabited

/-- The state of the module. `pending` is the queue of commands; `fresh` counts the free values used (the model's own
field, log 3); the rest is what the spec gives the machine. -/
structure State where
  pending : List Instr
  clock : Nat
  fresh : Nat
  regs : List (Nat × Nat)
  mem : List Host.Cell
  undef : List UndefRange
  poison : List Nat
  tokens : List (Nat × Word)
  spareMap : List (Nat × List Nat)
  halves : List (Requester × Nat × Nat)
  latched : List (Requester × Nat × Nat)
  routesF : List (Nat × Nat)
  routesB : List (Nat × Nat)
  sfuVer : Nat × Nat
  stk : StrokeUnit
  coxes : List (Nat × Cox)
  cores : List (Nat × Core)
  ports : List (Nat × Port)
  ops : List (Nat × RemOp)
  nextOp : Nat
  arrived : List Arrived
  asked : List Arrived
  hostOut : List HostOut
  hostReads : List (Nat × HostRead)
  nextTag : Nat
  barWaits : List (Nat × BarWait)
  barFailed : List Nat
  slots : List (Nat × FaultSlot)
  slotGen : List (Nat × Nat)
  slotless : List FaultSlot
  lost : List Nat
  tlb : List TlbEntry
  logQueue : List LogEntry
  logRing : List (Nat × LogEntry)
  ibi : List (Nat × Nat × Bool)
  chans : List (Nat × Chan)
  watches : List (Nat × Watch)
  lostObjs : List (Nat × Nat × Nat)
  waitPkts : List (Nat × Packet × Option Nat)
  regWrites : List (Requester × Nat × Nat × Nat)
  ctxFaults : List Nat
  touched : List (Nat × Nat)
  amaxDone : List (Nat × Nat)
  objs : List (Nat × Obj)
  tierCmd : Option (List Byte)
  rosReqs : List RosReq
  rosPrev : List (Nat × Nat)
  rosAdvs : List (Nat × Nat)
  rosDemands : List (Nat × Nat)
  rosDrops : List Drop
  rosAdds : List (Nat × PoolAdd)
  rosNoDir : List (Nat × RosReq)
  rosAborted : List (Nat × Nat)
  lenFull : Bool
  lenDirty : Bool
  snaps : List (Nat × Snapshot)
  ckptFrames : List Nat
  faults : List (Inst × Nat)
  suspects : List (Inst × Nat)
  retired : List (Inst × Nat)
  ledger0 : List (List Byte)
  ledger1 : List (List Byte)
  ledgerPend : List LedgerRec
  powerCycles : Nat
  sprOp : Option Inst
  testRows : List (Nat × Nat)
  banks : List (Nat × Bank)
  self : Option Nat
  saved : List (Nat × Saved)
  nextSave : Nat
  crewSaves : List (Nat × CrewSave)
  filtered : List (Nat × Packet)
  leaseFails : List (Nat × Nat × Nat)
  pinned : List (Nat × List Nat)
  ctxBell : List (Nat × Nat)
  pwr : PowerUnit
  ret0 : RetSlot
  ret1 : RetSlot
  fwA : FwImage
  fwB : FwImage
  fwMin : Nat
  i3c : I3cUnit
  spdm : SpdmUnit
  tap : Tap
  sweeps : List (Nat × Sweep)
  loadPos : Option Nat
  summaryAt : Option Nat
  wideParams : List Nat
  zeroHist : List (Nat × Nat)
  nextRun : Nat
  mcast : List (Nat × Nat)
  pageReads : List (Nat × Nat × Nat × Nat)
  rcache : List (Nat × RcLine)
  faultsMet : List Inst
  wildPools : List Nat
  forkAborted : List (Nat × Nat)
  waitMoves : List (Nat × Nat)
  rosWait : Option Bool
  doe : SpdmUnit
  msixTab : List (Nat × Nat)
  msixPba : List (Nat × Nat)
  /-- Device IDs that this device has answered to before (R742). -/
  formerIds : List Nat
  deriving DecidableEq, Repr

/-- Physical seat 8 of every crew is the spare one (the spare map of the factory, log 6): its CORE page reports state
spare (R25, R787). -/
def spareSeats : List (Nat × Nat) :=
  (List.range 16).map fun c => ((BLK_STAT_STATE .core).key (9 * c + 8) 0, 5)

/-- The spare channel of every DMA engine reports state spare (R527). -/
def spareChans : List (Nat × Nat) :=
  (List.range 16).map (fun c => (CDM_CH_STAT_STATE.key c 8, 7)) ++ [(HDM_CH_STAT_STATE.key 0 16, 7)]

/-- The module at the end of bring-up after a cold reset (R668 step 9), the factory values in every retained field. -/
def State.reset : State :=
  { pending := []
    clock := 0
    fresh := 0
    regs := Tab.canon (spareSeats ++ spareChans)
    mem := []
    undef := []
    poison := []
    tokens := []
    spareMap := []
    halves := []
    latched := []
    routesF := []
    routesB := []
    sfuVer := (0x10000, 0x10000)
    stk := default
    coxes := []
    cores := []
    ports := []
    ops := []
    nextOp := 0
    arrived := []
    asked := []
    hostOut := []
    hostReads := []
    nextTag := 0
    barWaits := []
    barFailed := []
    slots := []
    slotGen := []
    slotless := []
    lost := []
    tlb := []
    logQueue := []
    logRing := []
    ibi := []
    chans := []
    watches := []
    lostObjs := []
    waitPkts := []
    regWrites := []
    ctxFaults := []
    touched := []
    amaxDone := []
    objs := []
    tierCmd := none
    rosReqs := []
    rosPrev := []
    rosAdvs := []
    rosDemands := []
    rosDrops := []
    rosAdds := []
    rosNoDir := []
    rosAborted := []
    lenFull := true
    lenDirty := false
    snaps := []
    ckptFrames := []
    faults := []
    suspects := []
    retired := []
    ledger0 := []
    ledger1 := []
    ledgerPend := []
    powerCycles := 1
    sprOp := none
    testRows := []
    banks := []
    self := none
    saved := []
    nextSave := 0
    crewSaves := []
    filtered := []
    leaseFails := []
    pinned := []
    ctxBell := []
    pwr := { (default : PowerUnit) with supply := true, standby := true, lastSlot := 1 }
    ret0 := default
    ret1 := default
    fwA := { factory := true, version := 0x10000, svn := 0, data := [] }
    fwB := default
    fwMin := 0
    i3c := default
    spdm := default
    tap := { ir := 1, cells := List.replicate 96 false }
    sweeps := []
    loadPos := none
    summaryAt := none
    wideParams := []
    zeroHist := []
    nextRun := 0
    mcast := []
    pageReads := []
    rcache := []
    faultsMet := []
    wildPools := []
    forkAborted := []
    waitMoves := []
    rosWait := none
    doe := default
    msixTab := []
    msixPba := []
    formerIds := [] }

end Sys2Proof.Machine
end

