-- ==== Sys2Proof/Machine/Spans.lean ====
section
/-!
DEFINITION. Where a tensor command reads and writes (R126, R133, R149 to R152, R166, R231, R261, R278, R352, R364): its common fields, rows at
a stride, and for each command the rows of its operands and of its results, for the watch slots (R452) and for the objects that
they use (R425).
-/
namespace Sys2Proof.Machine

/-! ### Fields that every tensor command has (R126) -/

def fmtA (raw : List Byte) : Nat := fieldBits raw 4 0 4
def fmtB (raw : List Byte) : Nat := fieldBits raw 4 4 4
def fmtC (raw : List Byte) : Nat := fieldBits raw 5 0 4
def fmtD (raw : List Byte) : Nat := fieldBits raw 5 4 4
def scaleBase (raw : List Byte) : Nat := fieldLE raw 6 2
def planM (raw : List Byte) : Nat := fieldLE raw 8 3
def planN (raw : List Byte) : Nat := fieldLE raw 12 3
def planK (raw : List Byte) : Nat := fieldLE raw 16 3
def planB (raw : List Byte) : Nat := fieldLE raw 20 2
def shapePtr (raw : List Byte) : Nat := fieldLE raw 24 8
def aPtr (raw : List Byte) : Nat := fieldLE raw 32 8
def bPtr (raw : List Byte) : Nat := fieldLE raw 40 8
def cPtr (raw : List Byte) : Nat := fieldLE raw 48 8
def dPtr (raw : List Byte) : Nat := fieldLE raw 56 8
def word32 (raw : List Byte) (off : Nat) : Word := BitVec.ofNat 32 (fieldLE raw off 4)

/-- ACCUM (R126). -/
def accum (raw : List Byte) : Bool := bitOf (fieldLE raw 1 1) 0

/-- Row stride of block scales along a row of n planned elements (R181, R231). -/
def mxStride (n : Nat) : Nat := 64 * ceilDiv (ceilDiv n 32) 64

/-- The row stride of an operand, which is ignored when its pointer is 0: then every row stands at the one address (R133; log 40). -/
def strideFor (ptr ld : Nat) : Nat := if ptr = 0 then 0 else ld

/-! ### Rows at a stride -/

/-- Rows of some bytes at a stride. -/
structure Rows where
  base   : Nat
  stride : Nat
  rows   : Nat
  bytes  : Nat
  deriving DecidableEq, Repr

/-- A span of `n` bytes at `a` meets one of the rows. -/
def Rows.hit (x : Rows) (a n : Nat) : Bool :=
  if x.rows = 0 ∨ x.bytes = 0 ∨ n = 0 then false
  else if x.stride = 0 then overlaps x.base x.bytes a n
  else
    let lo := if a < x.base + x.bytes then 0 else (a - x.base - x.bytes) / x.stride + 1
    decide (lo < min x.rows (ceilDiv (a + n - x.base) x.stride))

/-- Two sets of rows share a byte. -/
def Rows.meets (x y : Rows) : Bool := (List.range x.rows).any (fun r => y.hit (x.base + r * x.stride) x.bytes)

/-- The spans of rows. -/
def Rows.spans (x : Rows) : List (Nat × Nat) :=
  if x.bytes = 0 then [] else (List.range (if x.stride = 0 then min 1 x.rows else x.rows)).map (fun r => (x.base + r * x.stride, x.bytes))

/-- Bytes at one address. -/
def oneRow (a n : Nat) : Rows := { base := a, stride := 0, rows := 1, bytes := n }

/-! ### The matrix class -/

/-- What an entry of a list writes, and what it reads (R149, R150, R181, R241): its rows of C and, with a fused EPILOGUE, its output rows with
their scales and the rows of its residual. -/
def Seg.outputs (raw e : List Byte) (g : Seg) : List Rows :=
  (if g.c = 0 then [] else [⟨g.c, g.ldc, g.rows, rowBytes (fmtC raw) g.n⟩]) ++
  (if e.isEmpty then [] else
    ⟨fieldLE e 96 8 + g.out * fieldLE e 104 4, fieldLE e 104 4, g.rows, rowBytes (fmtC e) g.n⟩ ::
    (if fmtMx (fmtC e) then [⟨fieldLE e 120 8 + g.out * mxStride (planN raw), mxStride (planN raw), g.rows, ceilDiv g.n 32⟩] else []))

/-- The residual of a fused EPILOGUE, and B with its scales. -/
def Seg.shared (raw e : List Byte) (ldb : Nat) (g : Seg) : List Rows :=
  (if e.isEmpty ∨ dPtr e = 0 then [] else [⟨dPtr e + g.out * fieldLE e 68 4, fieldLE e 68 4, g.rows, rowBytes (fmtD e) g.n⟩]) ++
  [⟨g.b, strideFor g.b ldb, g.k, rowBytes (fmtB raw) g.n⟩] ++
  (if g.sb = 0 then [] else [⟨g.sb, 64 * ceilDiv (planN raw) 64, ceilDiv g.k 32, g.n⟩])

def Seg.inputs (raw e : List Byte) (g : Seg) : List Rows :=
  g.shared raw e (fieldLE raw 68 4) ++ [⟨g.a, g.lda, g.rows, rowBytes (fmtA raw) g.k⟩] ++
  (if g.sa = 0 then [] else [⟨g.sa, mxStride (planK raw), g.rows, ceilDiv g.k 32⟩])

/-- Scale and bias of an EPILOGUE's columns (R237). -/
def columnRows (e : List Byte) (n : Nat) : List Rows :=
  ([fieldLE e 80 8, fieldLE e 88 8].filter (· != 0)).map (fun p => oneRow p (4 * n))

/-- The address of an input pixel (R169). FRAME_STRIDE is signed. The strides of an input that is not named are ignored (R133, log 40). -/
def convPixelVa (raw : List Byte) (b t y x : Nat) : Nat :=
  if aPtr raw = 0 then 0 else wrapInt (((aPtr raw + b * fieldLE raw 100 4 + y * fieldLE raw 88 4 + x * fieldLE raw 96 4 : Nat) : Int) +
    (t : Int) * signed (fieldLE raw 92 4) 32) 64

/-- The input of a convolution of run-time extents (R169): the rows of pixels of each frame, and their block scales. -/
def convRows (raw : List Byte) (iw ih it b : Nat) : List Rows :=
  let cin := fieldLE raw 70 2
  let sc := fieldLE raw 112 8
  (List.range b).flatMap (fun i => (List.range it).map (fun t =>
    (⟨convPixelVa raw i t 0 0, if aPtr raw = 0 then 0 else fieldLE raw 88 4, ih,
      if iw = 0 then 0 else (if aPtr raw = 0 then 0 else (iw - 1) * fieldLE raw 96 4) + rowBytes (fmtA raw) cin⟩ : Rows))) ++
  (if sc = 0 then [] else [oneRow sc (b * fieldLE raw 68 2 * fieldLE raw 66 2 * fieldLE raw 64 2 * ceilDiv cin 32)])

/-! ### The vector class -/

/-- Rows of n elements at A with their scales (R231). -/
def vectorRows (r : Run) : List Rows :=
  let sc := fieldLE r.raw 112 8
  ⟨aPtr r.raw, fieldLE r.raw 64 4, r.m, rowBytes (fmtA r.raw) r.n⟩ ::
    (if sc = 0 then [] else [⟨sc, mxStride (planN r.raw), r.m, ceilDiv r.n 32⟩])

/-- Images at A: so many, at a stride, of `h` rows of `w` pixels of `c` channels (R253). -/
def imageRows (raw : List Byte) (count stride w h c : Nat) : List Rows :=
  (List.range count).map (fun i => (⟨aPtr raw + i * stride, fieldLE raw 80 4, h,
    if w = 0 then 0 else (w - 1) * fieldLE raw 84 4 + rowBytes (fmtA raw) c⟩ : Rows))

/-! ### Every command -/

/-- Where a command reads its operands: whole rows at their strides (log 23). -/
def operandRows (r : Run) : List Rows :=
  let raw := r.raw
  let f := fieldLE raw
  let segs := r.segs.flatten
  let listed (o n : Nat) : List Rows := if f o 8 = 0 then [] else [oneRow (f o 8) n]
  let kept : List Rows := if accum raw then segs.flatMap (fun g => [⟨g.c, g.ldc, g.rows, rowBytes (fmtC raw) g.n⟩]) else []
  match f 0 1 with
  | 0x01 | 0x02 =>
    (List.range r.m).map (fun k => oneRow (wrapInt (((f 72 8 : Nat) : Int) + (k : Int) * signed (f 96 4) 32) 64) r.n)
  | 0x10 | 0x11 => segs.flatMap (fun g => g.inputs raw r.epi) ++ kept ++ (if r.epi.isEmpty then [] else columnRows r.epi r.n)
  | 0x12 | 0x13 =>
    let x := (r.parts.headD []).map BitVec.toNat
    convRows raw (x.getD 0 0) (x.getD 1 0) (x.getD 2 0) r.b ++ segs.flatMap (fun g => g.shared raw r.epi (f 104 4)) ++ kept ++
      (if r.epi.isEmpty then [] else columnRows r.epi r.n)
  | 0x18 | 0x19 =>
    if f 0 1 = 0x19 ∧ bitOf (f 65 1) 5 then
      r.slots.zipIdx.flatMap (fun x => [oneRow (f 96 8 + 64 * x.2) (4 * x.1.count), ⟨f 104 8 + 1024 * x.2, 64, x.1.count, 4⟩])
    else
      [⟨aPtr raw, f 96 4, r.m * r.b, rowBytes (fmtA raw) (fieldBits raw 64 0 6 * (64 * fieldBits raw 66 0 4))⟩,
       ⟨bPtr raw, f 108 4, fieldBits raw 64 0 6, f 108 4⟩] ++
      (if bitOf (f 65 1) 2 then [oneRow (dPtr raw) (r.m * r.b * (planK raw * (fmtBits (fmtD raw) / 8)))] else [])
  | 0x20 =>
    vectorRows r ++ (if dPtr raw = 0 then [] else [⟨dPtr raw, f 68 4, r.m, rowBytes (fmtD raw) r.n⟩]) ++ columnRows raw r.n
  | 0x21 => vectorRows r ++ columnRows raw r.n
  | 0x22 => vectorRows r ++ (if fieldBits raw 72 0 1 = 1 then [oneRow (f 88 8) (4 * r.m)] else [])
  | 0x23 => vectorRows r
  | 0x38 => vectorRows r ++ listed 88 (8 * r.m)
  | 0x28 => imageRows raw r.k (f 88 8) r.m r.n (f 68 2) ++ [oneRow (f 96 8) (32 * r.b)]
  | 0x29 | 0x2A =>
    imageRows raw r.b (f 96 4) r.m r.n (f 68 2 * (if f 0 1 = 0x2A then f 70 1 * f 71 1 else 1)) ++
      listed 112 (r.b * f 66 2 * f 64 2 * mxStride (planN raw))
  | 0x30 =>
    r.slots.zipIdx.flatMap (fun x => if !x.1.live then [] else
      [⟨bPtr raw + x.2 * planM raw * strideFor (bPtr raw) (f 68 4), strideFor (bPtr raw) (f 68 4), x.1.count, rowBytes (fmtB raw) r.n⟩,
       ⟨aPtr raw + (if bitOf (f 77 1) 0 then x.2 else x.2 * planM raw) * strideFor (aPtr raw) (f 64 4), strideFor (aPtr raw) (f 64 4),
        if bitOf (f 77 1) 0 then 1 else x.1.count, rowBytes (fmtA raw) r.n⟩, oneRow x.1.base x.1.stride] ++
      (if x.1.init = 0 then [] else [oneRow x.1.init x.1.stride])) ++ listed 88 (32 * r.m)
  | 0x31 =>
    [⟨bPtr raw, strideFor (bPtr raw) (f 68 4), r.k, rowBytes (fmtB raw) r.n⟩] ++ listed 88 (ceilDiv r.k 32 * (64 * ceilDiv (planN raw) 64)) ++
      r.slots.zipIdx.flatMap (fun x => if !(x.1.live && x.1.count == 1) then [] else
        [⟨aPtr raw + x.2 * strideFor (aPtr raw) (f 64 4), 0, 1, rowBytes (fmtA raw) r.n⟩,
         if x.1.marks = 0 then oneRow x.1.base x.1.stride else oneRow x.1.init (if x.1.init = 0 then 0 else x.1.stride)]) ++
      (if r.epi.isEmpty then [] else columnRows r.epi r.n)
  | _ => []

/-- Where a command writes its rows. -/
def resultRows (r : Run) : List Rows :=
  let raw := r.raw
  let f := fieldLE raw
  match f 0 1 with
  | 0x01 => (List.range r.m).map (fun k => oneRow (wrapInt (((f 80 8 : Nat) : Int) + (k : Int) * signed (f 100 4) 32) 64) r.n)
  | 0x02 =>
    let el := 2 ^ fieldBits raw 67 0 2
    (List.range (r.n / el)).map (fun k => oneRow (wrapInt (((f 80 8 : Nat) : Int) + (k : Int) * signed (f 100 4) 32) 64) (r.m * el))
  | 0x10 | 0x11 | 0x12 | 0x13 => r.segs.flatten.flatMap (fun g => g.outputs raw r.epi)
  | 0x18 | 0x19 =>
    if cPtr raw = 0 then [] else [⟨cPtr raw, f 100 4, r.m * r.b, rowBytes (fmtC raw) (fieldBits raw 64 0 6 * (64 * fieldBits raw 66 4 4))⟩]
  | 0x20 => [⟨f 96 8, f 104 4, r.m, rowBytes (fmtC raw) r.n⟩]
  | 0x21 | 0x22 | 0x23 => [⟨cPtr raw, f 68 4, r.m, rowBytes (fmtC raw) r.n⟩]
  | 0x38 => [⟨cPtr raw, f 68 4, r.m, 4 * fieldBits raw 72 0 5⟩]
  | 0x28 =>
    (List.range r.b).map (fun i => (⟨cPtr raw + i * f 108 4, f 104 4, f 72 2 * f 74 2, rowBytes (fmtC raw) (f 68 2)⟩ : Rows))
  | 0x30 | 0x31 =>
    (if cPtr raw = 0 then [] else [⟨cPtr raw, f 72 4, if f 0 1 = 0x30 then r.m * planM raw else r.m, rowBytes (fmtC raw) r.n⟩]) ++
      (r.slots.filter (fun x => x.live)).map (fun x => oneRow x.base x.stride)
  | _ => []

/-- The tables that a command goes by: the record of its shape, its slot words, and the page lists of its slots. -/
def tableRows (r : Run) : List Rows :=
  let raw := r.raw
  let op := fieldLE raw 0 1
  (if shapePtr raw = 0 then [] else [oneRow (shapePtr raw) 16]) ++ r.areas.map (fun a => oneRow a.1 a.2) ++
  (if op = 0x18 ∨ op = 0x19 then
    oneRow (fieldLE raw 88 8) (4 * r.m) :: r.slots.flatMap (fun x => oneRow (fieldLE raw 80 8 + 32 * x.id) 32 ::
      (if x.live && x.tpp != 0 then [oneRow x.base (16 * ceilDiv (x.len + x.count) x.tpp)] else []))
  else if op = 0x30 ∨ op = 0x31 then [oneRow (fieldLE raw 80 8) (4 * r.m)]
  else [])

end Sys2Proof.Machine
end

