-- ==== Sys2Proof/Machine/Ops.lean ====
section
/-!
DEFINITION. The named operations over the state that every family uses: register fields, bytes of memory, tokens, the
logbook queue, interrupt causes, the units, and the frame of a command (what happens around its effect).
-/
namespace Sys2Proof.Machine

/-! ### Time -/

/-- Stroke-clock ns (R26). -/
def State.ns (s : State) : Nat := s.clock / 16

/-- Moves the clock forward to an instant (1/16 ns), never back. -/
def State.at (s : State) (t : Nat) : State := { s with clock := max s.clock t }

/-- Takes a fresh free value (log 3). -/
def State.free (s : State) : Nat × State := (Config.freeValue s.fresh, { s with fresh := s.fresh + 1 })

/-! ### Register fields -/

/-- The value of a field of item `i`, element `j` (R15). -/
def State.rd (s : State) (f : Fld) (i : Nat := 0) (j : Nat := 0) : Nat :=
  Tab.look s.regs (f.key i j) (f.resetAt j)

/-- Sets a field, within its width. A field at its reset value is not listed. -/
def State.wr (s : State) (f : Fld) (v : Nat) (i : Nat := 0) (j : Nat := 0) : State :=
  { s with regs := Tab.set s.regs (f.key i j) (f.resetAt j) (v % 2 ^ f.w) }

/-- Adds to a counter field, modulo its width. -/
def State.bump (s : State) (f : Fld) (n : Nat := 1) (i : Nat := 0) (j : Nat := 0) : State :=
  s.wr f (s.rd f i j + n) i j

/-- Adds to a counter that stops at its largest value (R713, R750). -/
def State.bumpSat (s : State) (f : Fld) (n : Nat := 1) (i : Nat := 0) (j : Nat := 0) : State :=
  s.wr f (min (s.rd f i j + n) (2 ^ f.w - 1)) i j

/-- Sets a one-bit field. -/
def State.on (s : State) (f : Fld) (i : Nat := 0) (j : Nat := 0) : State := s.wr f 1 i j

/-- Clears a field. -/
def State.off (s : State) (f : Fld) (i : Nat := 0) (j : Nat := 0) : State := s.wr f 0 i j

/-- A context takes a state; CTX_CTL.PREEMPT and RESUME read 1 while what they started goes on (R608, R783). -/
def State.setCtxState (s : State) (ctx v : Nat) : State :=
  ((s.wr CTX_STAT_STATE v ctx).wr CTX_CTL_PREEMPT (b2n (v == 2)) ctx).wr CTX_CTL_RESUME (b2n (v == 4)) ctx

/-- A one-bit field is set. -/
def State.is (s : State) (f : Fld) (i : Nat := 0) (j : Nat := 0) : Bool := s.rd f i j != 0

/-- BLK_ID of a page (R713, R714). -/
def pageBlkId (p : Page) (i : Nat) : Nat := p.typeCode + i % 256 * 0x10000 + 0x1000000

/-! ### Blocks -/

/-- State of a block: 0 off, 1 enabled, 2 draining, 3 disabled, 4 retired, 5 spare (R713). -/
def State.blk (s : State) (p : Page) (i : Nat := 0) : Nat := s.rd (BLK_STAT_STATE p) i

/-- A context is enabled (R593). -/
def State.ctxOn (s : State) (c : Nat) : Bool := decide (c < 64) && (s.blk .ctx c == 1 || s.blk .ctx c == 2)

/-- The device's own ID (R38). -/
def State.dev (s : State) : Nat := s.rd DEV_ID_ID

/-- The stroke unit's state: 0 STOPPED, 1 ARMED, 2 RUNNING, 3 HOLDING (R66). -/
def State.stkState (s : State) : Nat := s.rd STK_STAT_STATE

/-- The current or last stroke number (R53). -/
def State.stroke (s : State) : Nat := s.rd STK_STROKE

/-- A drive is under way, or the curtain has fallen: recovery work does not run (R55 to R57). -/
def State.inDrive (s : State) : Bool := s.stkState == 3 || s.stk.curtain || (s.stkState == 2 && !s.stk.ended)

/-- The device is a front device (R578). -/
def State.front (s : State) : Bool := s.is HIF_LINK_STAT_FRONT

/-- The blocks of the main dies run: the module is in ROW (0), EASY (1) or still ENTERING (5) another state, or WAKING (6) with every
rail good (R650, R660, R677). -/
def State.railsUp (s : State) : Bool := s.rd PWR_STAT_STATE == 0 || s.rd PWR_STAT_STATE == 1 || s.rd PWR_STAT_STATE == 5 ||
  (s.rd PWR_STAT_STATE == 6 && s.pwr.ready)

/-! ### Interrupt causes, errors and the logbook -/

/-- Sets a bit of BLK_INT_STAT (R731). -/
def State.cause (s : State) (p : Page) (bit : Nat) (i : Nat := 0) : State :=
  s.wr (BLK_INT_STAT p) (s.rd (BLK_INT_STAT p) i ||| 2 ^ bit) i

/-- Sets BLK_STAT.CFG_ERR and its cause (R713, R731). -/
def State.cfgErr (s : State) (p : Page) (i : Nat := 0) : State := (s.wr (BLK_STAT_CFG_ERR p) 1 i).cause p 0 i

/-- Counts a corrected error (R715, R731). -/
def State.errCorr (s : State) (p : Page) (i : Nat := 0) : State := (s.bumpSat (BLK_ERR_CORR p) 1 i).cause p 1 i

/-- Counts an uncorrectable error (R715, R731). -/
def State.errUncorr (s : State) (p : Page) (i : Nat := 0) : State := (s.bumpSat (BLK_ERR_UNCORR p) 1 i).cause p 2 i

/-- Passes an entry to the logbook queue; a full queue discards it and counts it (R684). -/
def State.logFrom (s : State) (source event severity status data : Nat) : State :=
  if s.logQueue.length < 64 then
    { s with logQueue := s.logQueue ++
        [{ time := s.ns, stroke := s.stroke, source := source, event := event, severity := severity,
           status := status, data := data % 2 ^ 64 }] }
  else s.bump LOG_DROPPED

/-- Logs an event of a page (R682, R686). -/
def State.logEv (s : State) (p : Page) (i event severity status data : Nat) : State :=
  s.logFrom (pageBlkId p i) event severity status data

/-- The largest severity of a list of pending causes is kept as it stands: raises an in-band interrupt cause (R693). A
cause already pending keeps the time of its first event. -/
def State.ibiRaise (s : State) (bit : Nat) : State :=
  if s.ibi.any (fun e => e.1 == bit) then s else { s with ibi := s.ibi ++ [(bit, s.ns, false)] }

/-- Logs a change of the power state (R686). -/
def State.logPower (s : State) (old new : Nat) : State := s.logEv .pwr 0 0x701 1 0 (old + new * 2 ^ 8)

/-- Work that starts in EASY returns the module to ROW first (R651). -/
def State.easyWake (s : State) : State := if s.rd PWR_STAT_STATE = 1 then (s.wr PWR_STAT_STATE 0).logPower 1 0 else s

/-! ### Memory bytes -/

/-- The seed of the undefined range that holds an address, the latest one first. -/
def undefSeed : List UndefRange → Nat → Option Nat
  | [], _ => none
  | u :: t, a => if u.lo ≤ a ∧ a < u.lo + u.len then some u.seed else undefSeed t a

/-- What a byte that nothing has written reads as: its entry's ENTRY_ID in the roster (R304, R305), else 0 (log 4). -/
def initByte (a : Nat) : Byte :=
  if 0x40050000000 ≤ a ∧ a < 0x40050100000 ∧ a % 64 < 2 then
    BitVec.ofNat 8 ((a - 0x40050000000) / 64 / 256 ^ (a % 64))
  else 0

/-- What an unlisted byte reads as: its initial value, or the free value of its undefined range (log 10). -/
def State.blank (s : State) (a : Nat) : Byte :=
  match undefSeed s.undef a with
  | some r => Config.freeByte r a
  | none => initByte a

/-- The byte at a local address. -/
def State.rdByte (s : State) (a : Nat) : Byte := Tab.look s.mem a (s.blank a)

/-- Stores a byte. Outside the undefined ranges a byte of its initial value is not listed. -/
def State.wrByte (s : State) (a : Nat) (b : Byte) : State :=
  { s with mem := if b = initByte a ∧ undefSeed s.undef a = none then Tab.del s.mem a else Tab.put s.mem a b }

/-- Bytes from a local address on. -/
def State.rdMem (s : State) (a n : Nat) : List Byte := (List.range n).map (fun i => s.rdByte (a + i))

/-- Stores bytes from a local address on. -/
def State.wrMem (s : State) (a : Nat) : List Byte → State
  | [] => s
  | b :: t => (s.wrByte a b).wrMem (a + 1) t

/-- A little-endian number of `n` bytes. -/
def State.rdLE (s : State) (a n : Nat) : Nat := leNat (s.rdMem a n)

/-- Stores a little-endian number of `n` bytes. -/
def State.wrLE (s : State) (a n v : Nat) : State := s.wrMem a (leBytes v n)

/-- Marks bytes undefined: each reads as a free value until it is written (log 10). -/
def State.undefine (s : State) (a n : Nat) : State :=
  if n = 0 then s else
  { s with mem := s.mem.filter (fun p => p.1 < a || a + n ≤ p.1)
           undef := { lo := a, len := n, seed := s.fresh } :: s.undef
           fresh := s.fresh + 1 }

/-- A byte that memory must list: one of an undefined range, or one that differs from its initial value. -/
def State.mustList (s : State) (p : Host.Cell) : Bool := p.2 != initByte p.1 || (undefSeed s.undef p.1).isSome

/-- Memory is in its canonical form: addresses rise strictly, and no byte outside the undefined ranges is listed at its
initial value. -/
def State.memWf (s : State) : Bool := Tab.sorted s.mem && s.mem.all s.mustList

/-- A write clears the poison of the codewords that it replaces whole (R406). -/
def State.cleanse (s : State) (a n : Nat) : State :=
  { s with poison := s.poison.filter (fun c => !(decide (a ≤ c) && decide (c + 16 ≤ a + n))) }

/-! ### Local addresses -/

/-- The kinds of local address of R39. -/
inductive Region where
  | hbm | lpd | crewStore | scratch | tokens | roster | window | host | reserved
  deriving DecidableEq, Repr

/-- The kind of a local address, and the first address beyond its range (R39). -/
def regionOf (a : Nat) : Region × Nat :=
  if a < 0x7C00000000 then (.hbm, 0x7C00000000)
  else if a < 0x8000000000 then (.reserved, 0x8000000000)
  else if a < 0x27000000000 then (.lpd, 0x27000000000)
  else if a < 0x40000000000 then (.reserved, 0x40000000000)
  else if a < 0x40010000000 then (.crewStore, 0x40010000000)
  else if a < 0x40030000000 then
    let slot := a / 0x400000 * 0x400000
    if a < slot + 0x300000 then (.scratch, slot + 0x300000) else (.reserved, slot + 0x400000)
  else if a < 0x40040000000 then (.reserved, 0x40040000000)
  else if a < 0x40040050000 then (.tokens, 0x40040050000)
  else if a < 0x40050000000 then (.reserved, 0x40050000000)
  else if a < 0x40050100000 then (.roster, 0x40050100000)
  else if a < 0x40080000000 then (.reserved, 0x40080000000)
  else if a < 0x40084000000 then (.window, 0x40084000000)
  else if a < 0x60000000000 then (.reserved, 0x60000000000)
  else if a < 0x80000000000 then (.host, 0x80000000000)
  else (.reserved, a + 1)

/-- A local address lies in a scratchpad or a crew store, whose memories read and write words of 64 bytes (R375). -/
def onChip (a : Nat) : Bool := (regionOf a).1 == .scratch || (regionOf a).1 == .crewStore

/-- A read of a span meets an uncorrectable codeword: of on-chip memory the whole word is marked poisoned (R406). -/
def State.poisoned (s : State) (a n : Nat) : Bool :=
  s.poison.any (fun c => if onChip c then overlaps (c / 64 * 64) 64 a n else overlaps c 16 a n)

/-- The kinds that a span of local addresses touches. The span crosses at most the slots it covers. -/
def regionsOf (fuel a n : Nat) : List Region :=
  match fuel with
  | 0 => []
  | fuel + 1 =>
    if n = 0 then [] else
    let r := regionOf a
    if a + n ≤ r.2 then [r.1] else r.1 :: regionsOf fuel r.2 (a + n - r.2)

/-- Base of a crew store (R39). -/
def crewStoreBase (c : Nat) : Nat := 0x40000000000 + c * 0x1000000

/-- Base of the scratchpad of a logical seat (R39). -/
def scratchBase (c seat : Nat) : Nat := 0x40010000000 + c * 0x2000000 + seat * 0x400000

/-- Local address of roster entry `e` (R39). -/
def rosterAddr (e : Nat) : Nat := 0x40050000000 + e * 64

/-- The bank and the row of an offset of a scratchpad or a crew store (R376, R377). -/
def bankOf (scratch : Bool) (o : Nat) : Nat := if scratch then 16 * bits o 20 2 + bits o 6 4 else bits o 6 6
def rowOf (scratch : Bool) (o : Nat) : Nat := if scratch then bits o 10 10 else bits o 12 12

/-- POSITION of a scratchpad or crew-store item (R753). -/
def bankPos (bank row col : Nat) : Nat := bank + row * 256 + col * 2 ^ 20

/-- Notes the last error of a memory (R413): offset, kind, column, codeword, found by the test. -/
def State.noteErr (s : State) (scratch : Bool) (index off kind col cw : Nat) (test : Bool) : State :=
  if scratch then
    ((((s.wr CORE_SP_ERR_ADDR_OFFSET off index).wr CORE_SP_ERR_INFO_KIND kind index).wr CORE_SP_ERR_INFO_COLUMN col index).wr
      CORE_SP_ERR_INFO_CODEWORD cw index).wr CORE_SP_ERR_INFO_TEST (b2n test) index
  else
    ((((s.wr CST_ERR_ADDR_OFFSET off index).wr CST_ERR_INFO_KIND kind index).wr CST_ERR_INFO_COLUMN col index).wr
      CST_ERR_INFO_CODEWORD cw index).wr CST_ERR_INFO_TEST (b2n test) index

/-- The lowest of some addresses. -/
def lowest : List Nat → Option Nat
  | [] => none
  | a :: t => match lowest t with
    | some b => some (min a b)
    | none => some a

/-- A read that ends with 0x23 has met an uncorrectable codeword of on-chip memory, the first of those in its span (R406): its page counts
it, the offset is recorded, and the bank's count goes on (R619). Its column no rule gives: 0 (log 48). -/
def State.metPoison (s : State) (a n : Nat) : State :=
  match lowest (s.poison.filter (fun c => onChip c && overlaps (c / 64 * 64) 64 a n)) with
  | none => s
  | some c =>
    let scratch := (regionOf c).1 == .scratch
    let o := if scratch then (c - 0x40010000000) % 0x400000 else (c - 0x40000000000) % 0x1000000
    let i := if scratch then
        let crew := (c - 0x40010000000) / 0x2000000
        9 * crew + (Tab.look s.spareMap crew [0, 1, 2, 3, 4, 5, 6, 7]).getD ((c - 0x40010000000) / 0x400000 % 8) 8
      else (c - 0x40000000000) / 0x1000000
    let s := (s.errUncorr (if scratch then .core else .cst) i).noteErr scratch i o 2 0 (c / 16 % 4) false
    { s with faultsMet := s.faultsMet ++ [{ kind := if scratch then 2 else 4, block := i, pos := bankPos (bankOf scratch o) 0 0 }] }

/-! ### Tokens -/

/-- Number of a token in the token table: device-global tokens first, then each crew's. -/
def tokGlobal (t : Nat) : Nat := t
def tokCrew (c t : Nat) : Nat := 0x4000 + c * 0x1000 + t

/-- Local address of a token (R39). -/
def tokAddr (k : Nat) : Nat := 0x40040000000 + k * 4

/-- The token at a local address. -/
def tokOfAddr (a : Nat) : Nat := (a - 0x40040000000) / 4

/-- A token is stroke-scoped (R90). -/
def tokScoped (k : Nat) : Bool :=
  if k < 0x4000 then decide (k < 12288) else decide ((k - 0x4000) % 0x1000 < 3840)

/-- The value of a token (R90). -/
def State.tok (s : State) (k : Nat) : Word := Tab.look s.tokens k 0

/-- Sets a token. -/
def State.setTok (s : State) (k : Nat) (v : Word) : State := { s with tokens := Tab.set s.tokens k 0 v }

/-- A change of a stroke-scoped token between the end of the drive and the next catch that is no scheduled work is counted
and logged (R94). -/
def State.stray (s : State) (k : Nat) (sched : Bool) : State :=
  if tokScoped k && !sched && s.stk.ended then
    (s.bump STK_STRAY_COUNT).logEv .stk 0 0x102 2 0 (tokAddr k)
  else s

/-- A token takes a value; one that stays as it is has not changed (R94). -/
def State.changeTok (s : State) (k : Nat) (v : Word) (sched : Bool) : State := (s.setTok k v).stray k (sched || s.tok k == v)

/-- Adds to a token (R92). -/
def State.addTok (s : State) (k inc : Nat) (sched : Bool) : State := s.changeTok k (s.tok k + BitVec.ofNat 32 inc) sched

/-- A threshold is satisfied (R83). -/
def satisfied (value threshold : Word) : Bool := !(value - threshold).msb

/-- The token that a valid selector names, for a crew (R75). -/
def selToken (crew sel : Nat) : Option Nat :=
  if bitOf sel 15 then
    some (if bitOf sel 14 then tokGlobal (bits sel 0 14) else tokCrew crew (bits sel 0 14))
  else none

/-- A valid crew-scope selector has an index of at most 4,095 (R75, R79). -/
def selOk (sel : Nat) : Bool := !bitOf sel 15 || bitOf sel 14 || decide (bits sel 0 14 ≤ 4095)

/-- Posts a selector with an increment (R84). -/
def State.post (s : State) (crew sel inc : Nat) (sched : Bool) : State :=
  match selToken crew sel with
  | some k => s.addTok k inc sched
  | none => s

/-- A wait selector's token satisfies its threshold, or the selector is not valid (R81). -/
def State.waitOk (s : State) (crew sel thresh : Nat) : Bool :=
  match selToken crew sel with
  | some k => satisfied (s.tok k) (BitVec.ofNat 32 thresh)
  | none => true

/-! ### Units -/

def State.cox (s : State) (c : Nat) : Cox := Tab.look s.coxes c default
def State.setCox (s : State) (c : Nat) (x : Cox) : State := { s with coxes := Tab.set s.coxes c default x }
def State.core (s : State) (i : Nat) : Core := Tab.look s.cores i default
def State.setCore (s : State) (i : Nat) (x : Core) : State := { s with cores := Tab.set s.cores i default x }
def State.port (s : State) (p : Nat) : Port := Tab.look s.ports p default
def State.setPort (s : State) (p : Nat) (x : Port) : State := { s with ports := Tab.set s.ports p default x }

/-- Physical seat of a logical seat of a crew (R23, R713). The factory map is the identity (log 6). -/
def State.phys (s : State) (c seat : Nat) : Nat := (Tab.look s.spareMap c [0, 1, 2, 3, 4, 5, 6, 7]).getD seat 8

/-- Physical core index of a logical seat (R13, R729). -/
def State.coreOf (s : State) (c seat : Nat) : Nat := 9 * c + s.phys c seat

/-- Logical seat of a physical core, when it serves one (R24). -/
def State.seatOf (s : State) (i : Nat) : Option Nat :=
  (List.range 8).find? (fun t => s.phys (i / 9) t == i % 9)

/-- The crew spare map as the CRW page shows it (R713). -/
def State.spareMapReg (s : State) (c : Nat) : Nat :=
  ((List.range 8).map (fun t => s.phys c t * 2 ^ (4 * t))).sum

/-! ### The frame of a command -/

/-- Memory in its canonical form, registers and tokens with their keys in order. -/
def State.tidy (s : State) : State :=
  { s with mem := (Tab.canon s.mem).filter s.mustList, regs := Tab.canon s.regs, tokens := Tab.canon s.tokens }

/-- What a command leaves: its effect, tables in order, and the queue as it was (a command acts on everything but the
queue). -/
def State.commit (s t : State) : State := { t.tidy with pending := s.pending }

/-- A command of the always-on domain: it acts in every power state in which that domain is powered. `ok` says that the
command is well formed and that what it announces can happen; where it does not hold, nothing changes (log 8). -/
def State.always (s : State) (ok : Bool) (f : State → State) : Host.Outcome State Fault Refusal :=
  .next (if ok then s.commit (f s) else s)

/-- A command of the main dies: it acts while their rails are on (R650), and changes nothing otherwise. -/
def State.rails (s : State) (ok : Bool) (f : State → State) : Host.Outcome State Fault Refusal :=
  s.always (s.railsUp && ok) f

/-- A command that starts work of the main dies: from EASY the module returns to ROW first (R651). -/
def State.work (s : State) (ok : Bool) (f : State → State) : Host.Outcome State Fault Refusal :=
  s.rails ok (fun s => f s.easyWake)

end Sys2Proof.Machine
end

