-- ==== Sys2Proof/Machine/Route.lean ====
section
/-!
DEFINITION. Sending packets: the route table (R546, R547), transaction slots (R567), remote operations and their
completion (R555, R559), stroke messages (R58, R786), and the parts of a cue's action.
-/
namespace Sys2Proof.Machine

/-- An empty stroke message. -/
def noMsg : StrokeMsg := { code := 0, dev := 0, status := 0, mask := 0, num := 0, a := 0, b := 0, tag := 0 }

/-- A packet with every field zero. -/
def zeroPacket : Packet :=
  { type := 0, vc := 0, cls := 0, src := 0, ctx := 0, sched := false, dst := 0, inc := 0, aop := 0, wide := false,
    slot := 0, port := 0, gen := 0, status := 0, hops := 0, addr := 0, aux := 0, operand := 0, compare := 0,
    data := [], msg := noMsg, mgmt := .none }

/-- Packet types of R533. -/
def ptPut : Nat := 0
def ptPutSignal : Nat := 1
def ptSignal : Nat := 2
def ptGet : Nat := 4
def ptAtomic : Nat := 5
def ptAck : Nat := 8
def ptGetData : Nat := 9
def ptAtomicResp : Nat := 10
def ptNak : Nat := 11
def ptStroke : Nat := 12
def ptMgmt : Nat := 13

/-- The virtual channel that a packet type requires (R533); none for a reserved type. -/
def vcOf (t : Nat) : Option Nat :=
  if t = 0 ∨ t = 1 ∨ t = 2 then some 1
  else if t = 4 ∨ t = 5 then some 2
  else if t = 8 ∨ t = 9 ∨ t = 10 ∨ t = 11 then some 0
  else if t = 12 ∨ t = 13 then some 3
  else none

/-- Cells of a packet: its header cell and its data cells (R532). Write data of at most 32 bytes rides in the header. -/
def packetCells (p : Packet) : Nat := if p.data.length ≤ 32 then 1 else 1 + ceilDiv p.data.length 64

/-- Bytes 0 to 7 of a packet's header (R532), as the logbook shows them (R686). -/
def packetHead (p : Packet) : Nat :=
  p.type % 16 + p.vc % 4 * 16 + p.cls % 2 * 64 + (packetCells p - 1) * 256 + p.src % 512 * 2 ^ 16 + p.ctx % 64 * 2 ^ 25 +
    b2n p.sched * 2 ^ 31 + p.dst % 512 * 2 ^ 32 + (if p.type = 5 then p.aop % 8 + b2n p.wide * 8 else p.inc % 65536) * 2 ^ 48

/-- A packet carries a local address that routing uses (R547). -/
def packetHasAddr (p : Packet) : Bool := p.type == 0 || p.type == 1 || p.type == 2 || p.type == 4 || p.type == 5

/-- A port is UP or DEGRADED. -/
def State.portUp (s : State) (p : Nat) : Bool := s.rd LNK_STAT_STATE p == 2 || s.rd LNK_STAT_STATE p == 3

/-- The front copy of a route entry (R546). -/
def State.route (s : State) (d : Nat) : Nat := Tab.look s.routesF d 0

/-- The port by which a packet for another device leaves (R547), none when no port of a valid entry serves (R548). -/
def State.portFor (s : State) (d : Nat) (p : Packet) : Option Nat :=
  let e := s.route d
  let up := (setBits (bits e 0 16) 16).filter (fun q => s.portUp q)
  if !bitOf e 31 || up.isEmpty then none
  else
    let k := if !packetHasAddr p then p.slot % up.length
             else if 0x60000000000 ≤ p.addr then 0
             else bits p.addr 11 8 % up.length
    up[k]?

/-- The buffer class in which a packet leaves: an entry with DATELINE moves VC0 to VC2 from class 0 to class 1 (R549). -/
def State.classFor (s : State) (d : Nat) (p : Packet) : Nat :=
  if p.vc < 3 ∧ bitOf (s.route d) 16 then 1 else p.cls

/-- Queues a packet at a port. -/
def State.enqueue (s : State) (q : Nat) (p : Packet) : State :=
  let x := s.port q
  s.setPort q { x with tx := x.tx ++ [(0, s.clock, p)] }

/-- Routes a packet that keeps its tag (a response, a stroke message); none when it cannot be routed. -/
def State.sendRouted (s : State) (p : Packet) : Option State :=
  match s.portFor p.dst p with
  | some q => some (s.enqueue q { p with cls := s.classFor p.dst p })
  | none => none

/-- The lowest free transaction slot of a port (R567). -/
def Port.freeSlot (x : Port) : Option Nat := (List.range 8192).find? (fun n => (Tab.find x.slots n).isNone)

/-- RMT_TIMEOUT in 1/16 ns; smaller values act as 1,000 ns (R574). -/
def State.rmtTimeout (s : State) : Nat := max 1000 (s.rd RMT_TIMEOUT_NS) * 16

/-! ### Parts of a cue -/

/-- Parts of a cue's action have ended with a status: the first failing status in seat order stands (R88), and flags
gather (R681). -/
def State.cuePart (s : State) (crew idx status flags order : Nat) (detail : List Byte) (parts : Nat := 1) : State :=
  let x := s.cox crew
  match Tab.find x.running idx with
  | none => s
  | some r =>
    let worse := !statusOk status && (statusOk r.status || decide (order < r.order))
    let r' : CueRun :=
      { left := r.left - parts, flags := r.flags ||| flags
        status := if worse then status else if statusOk r.status then (if status = 2 ∨ r.status = 2 then 2 else 1)
                  else r.status
        order := if worse then order else r.order
        detail := if worse then detail else r.detail }
    s.setCox crew { x with running := Tab.put x.running idx r' }

/-! ### Remote operations -/

/-- Opens a remote operation (R551). -/
def State.openOp (s : State) (owner : Owner) (ctx left : Nat) (sched zero : Bool) (signal : Option (Nat × Nat × Nat)) :
    Nat × State :=
  (s.nextOp,
   { s with
     ops := Tab.put s.ops s.nextOp
       { owner := owner, left := left, worst := none, signal := signal, zero := zero, ctx := ctx, sched := sched }
     nextOp := s.nextOp + 1 })

/-- Key of a DMA channel: 17 engines of up to 32 channels. -/
def chanKey (engine ch : Nat) : Nat := engine * 32 + ch
def State.chan (s : State) (engine ch : Nat) : Chan := Tab.look s.chans (chanKey engine ch) default
def State.setChan (s : State) (engine ch : Nat) (x : Chan) : State :=
  { s with chans := Tab.set s.chans (chanKey engine ch) default x }

/-- A channel's register, in the CDM page of its crew or in the HDM page (engine 16) (R501, R527). -/
def State.dmaRd (s : State) (e ch : Nat) (c h : Fld) : Nat := if e = 16 then s.rd h 0 ch else s.rd c e ch
def State.dmaWr (s : State) (e ch : Nat) (c h : Fld) (v : Nat) : State := if e = 16 then s.wr h v 0 ch else s.wr c v e ch

/-- STATE of a channel: 0 idle, 1 active, 2 paused, 3 stopped, 4 draining, 5 disabled, 6 retired, 7 spare (R527). -/
def State.chState (s : State) (e ch : Nat) : Nat := s.dmaRd e ch CDM_CH_STAT_STATE HDM_CH_STAT_STATE
def State.setChState (s : State) (e ch v : Nat) : State := s.dmaWr e ch CDM_CH_STAT_STATE HDM_CH_STAT_STATE v

/-- A BAR2 read is answered: with its data, which the host interface counts (R597, R613), or with Completer Abort. -/
def State.barAnswer (s : State) (f addr : Nat) : Option (List Byte) → State
  | some d => (({ s with hostOut := s.hostOut ++ [HostOut.completion f addr d] } : State).bump HIF_PC_TX_BYTES d.length).bump CTX_ACC_HOST
      d.length f
  | none => { s with hostOut := s.hostOut ++ [HostOut.abort f addr] }

/-- The PUT of a summary message has failed (R734): it is counted, and ARMED is set again after 1 ms. -/
def State.summaryFailed (s : State) : State := { s.errUncorr .dev with summaryAt := some (s.clock + 16000000) }

/-- A remote operation has ended: its owner learns the status (R555, R559). -/
def State.finishOp (s : State) (o : RemOp) : State :=
  let status := match o.worst with
    | some (_, _, st) => st
    | none => if o.zero then stFlags else stSuccess
  match o.owner with
  | .cue c idx =>
    let d := match o.worst with
      | some (a, dev, _) => leBytes dev 2 ++ leBytes 0 4 ++ leBytes a 8
      | none => []
    let old := (Tab.look (s.cox c).running idx default).detail
    s.cuePart c idx status (if o.zero then flZeroShape else 0) 0 (old.take 2 ++ d)
  | .core i =>
    let x := s.core i
    s.setCore i { x with out := x.out - 1, error := if statusOk status then x.error else some (x.error.getD status) }
  | .chan e ch =>
    let x := s.chan e ch
    s.setChan e ch { x with out := x.out - 1, error := if statusOk status then x.error else some (x.error.getD status) }
  | .bar f tag => match Tab.find s.barWaits tag with
    | none => s
    | some w =>
      let s : State := { s with barWaits := Tab.del s.barWaits tag }
      if w.kind = 0 then s.barAnswer f w.addr (if statusOk status then some w.data else none)
      else if w.kind = 1 ∧ !statusOk status then { s with barFailed := (f :: s.barFailed).dedup }
      else s
  | .agent ag => if statusOk status then s else
    { s with asked := s.asked.map (fun x => if x.agent == ag then { x with data := leBytes status 1 } else x) }
  | .message => if statusOk status then s else s.errUncorr .dev
  | .summary => if statusOk status then s else s.summaryFailed
  | .gone => s

/-- What waited for some operations is gone: they run on, and nobody learns how they end (R596). -/
def State.detach (s : State) (f : Owner → Bool) : State :=
  { s with ops := s.ops.map (fun o => (o.1, if f o.2.owner then { o.2 with owner := .gone } else o.2)) }

/-- An agent whose work is given up leaves the fault slots it holds (R109, R523, R596). -/
def State.leaveSlots (s : State) (ag : Agent) : State :=
  let drop (f : FaultSlot) : FaultSlot := if f.status = 0x20 then { f with agents := f.agents.filter (fun a => a.1 != ag) } else f
  { s with slots := s.slots.map (fun f => (f.1, drop f.2)), slotless := (s.slotless.map drop).filter (fun f => !f.agents.isEmpty || f.status != 0x20) }

/-- The FORKs of a crew are given up with its cues (R109, R595): no fault and no abort of their child records is left (R315). -/
def State.forgetForks (s : State) (c : Nat) : State :=
  let mine (tag : Nat) : Bool := decide (65536 ≤ tag) && tag / 2 ^ 32 == c
  let drop (f : FaultSlot) : FaultSlot := { f with agents := f.agents.filter (fun a => !(a.1 == .roster && mine a.2)) }
  { s with
    slots := s.slots.map (fun f => (f.1, drop f.2))
    slotless := (s.slotless.map drop).filter (fun f => !f.agents.isEmpty || f.status != 0x20)
    forkAborted := s.forkAborted.filter (fun a => !mine a.1) }

/-- Sends one request packet of an operation in a slot of a port (R567); it waits while no slot is free. -/
def State.sendRequest (s : State) (q op : Nat) (p : Packet) (dest : Option Nat) : State :=
  let x := s.port q
  match x.freeSlot with
  | none => { s with waitPkts := s.waitPkts ++ [(op, p, dest)] }
  | some n =>
    let g := Tab.look x.gens n 0
    let p' := { p with slot := n, port := q, gen := g, src := s.dev, cls := s.classFor p.dst p }
    let s := s.setPort q { x with
      slots := Tab.put x.slots n { op := op, packet := p', dest := dest, due := s.clock + s.rmtTimeout }
      tx := x.tx ++ [(0, s.clock, p')] }
    s.bump LNK_SLOTS_USED_COUNT 1 q

/-- The SIGNAL packet of a multi-packet PUT_SIGNAL (R556): device, token address, increment. -/
def signalPkt (ctx : Nat) (sched : Bool) (dev addr inc : Nat) : Packet :=
  { zeroPacket with type := ptSignal, vc := 1, ctx := ctx, sched := sched, dst := dev, inc := inc, aux := addr }

/-- A packet of an operation has been answered: the failing packet of the lowest address decides (R559); after the last
answer the increment leaves (R556) or the operation ends. -/
def State.answer (s : State) (op : Nat) (addr dev status : Nat) : State :=
  match Tab.find s.ops op with
  | none => s
  | some o =>
    let s : State := if status = stUnreachable ∨ status = stTimeout then { s with leaseFails := s.leaseFails ++ [(dev, addr, status)] } else s
    let worst := if statusOk status then o.worst else
      match o.worst with
      | some (a, d, st) => if addr < a then some (addr, dev, status) else some (a, d, st)
      | none => some (addr, dev, status)
    let o' : RemOp := { o with left := o.left - 1, worst := worst }
    if 1 < o.left then { s with ops := Tab.put s.ops op o' }
    else match o'.signal, o'.worst with
      | some (d, a, inc), none =>
        let s1 := { s with ops := Tab.put s.ops op { o' with left := 1, signal := none } }
        match s1.portFor d (signalPkt o.ctx o.sched d a inc) with
        | some q => s1.sendRequest q op (signalPkt o.ctx o.sched d a inc) none
        | none => { s1 with ops := Tab.del s1.ops op }.finishOp { o' with worst := some (a, d, stUnreachable) }
      | _, _ => { s with ops := Tab.del s.ops op }.finishOp o'

/-- The local address that a request packet is about: the token of a SIGNAL, else ADDR. -/
def packetTarget (p : Packet) : Nat := if p.type = ptSignal then p.aux else p.addr

/-- Sends one packet of an operation, or ends it with 0x50 at once (R548); a port that drains refuses it with 0x41 (R717). -/
def State.sendOrFail (s : State) (op : Nat) (p : Packet) (dest : Option Nat) : State :=
  match s.portFor p.dst p with
  | some q => if s.blk .lnk q = 2 then s.answer op (packetTarget p) p.dst stRefused else s.sendRequest q op p dest
  | none => s.answer op (packetTarget p) p.dst stUnreachable

/-- Bytes to the next 2 KiB boundary (R552). -/
def to2K (a : Nat) : Nat := 2048 - a % 2048

/-- Cuts a span of a local address into packets at 2 KiB boundaries: offset and length of each (R552). -/
def cut2K (fuel a n off : Nat) : List (Nat × Nat) :=
  match fuel with
  | 0 => []
  | fuel + 1 => if n = 0 then [] else
    let k := min n (to2K a)
    (off, k) :: cut2K fuel (a + k) (n - k) (off + k)

/-- The pieces of a span. -/
def pieces2K (a n : Nat) : List (Nat × Nat) := cut2K (n / 2048 + 2) a n 0

/-- Device and local address of a global physical address (R36). -/
def gpaDev (g : Nat) : Nat := g / 2 ^ 43
def gpaLocal (g : Nat) : Nat := g % 2 ^ 43
def gpaOf (dev a : Nat) : Nat := dev * 2 ^ 43 + a

/-- Puts bytes at another device: the packets of R552, each in a slot. `op` counts them. -/
def State.putPieces (s : State) (op ctx : Nat) (sched : Bool) (gpa : Nat) (data : List Byte) :
    List (Nat × Nat) → State
  | [] => s
  | (off, n) :: t =>
    let p := { zeroPacket with
      type := ptPut, vc := 1, ctx := ctx, sched := sched, dst := gpaDev gpa, addr := gpaLocal gpa + off
      data := (data.drop off).take n }
    (s.sendOrFail op p none).putPieces op ctx sched gpa data t

/-- An owner that counts its operations outstanding has one more. -/
def State.countOut (s : State) : Owner → State
  | .core i => let x := s.core i; s.setCore i { x with out := x.out + 1 }
  | .chan e ch => let x := s.chan e ch; s.setChan e ch { x with out := x.out + 1 }
  | _ => s

/-- A PUT of bytes to another device by an owner; the owner counts one operation outstanding. -/
def State.remotePut (s : State) (owner : Owner) (ctx : Nat) (sched : Bool) (gpa : Nat) (data : List Byte) : State :=
  let ps := pieces2K (gpaLocal gpa) data.length
  if ps.isEmpty then s else
  let (op, s) := s.openOp owner ctx ps.length sched false none
  (s.countOut owner).putPieces op ctx sched gpa data ps

/-- GET packets of a span of another device; the bytes go to the agent's response buffer, or to a local address. -/
def State.getPieces (s : State) (op ctx : Nat) (sched : Bool) (gpa : Nat) (dest : Option Nat) :
    List (Nat × Nat) → State
  | [] => s
  | (off, n) :: t =>
    let p := { zeroPacket with
      type := ptGet, vc := 2, ctx := ctx, sched := sched, dst := gpaDev gpa, addr := gpaLocal gpa + off, aux := n }
    (s.sendOrFail op p (dest.map (· + off))).getPieces op ctx sched gpa dest t

/-- A slot has been freed: its generation moves on (R568). -/
def State.slotGone (s : State) (q n : Nat) : State :=
  let x := s.port q
  (s.setPort q { x with slots := Tab.del x.slots n, gens := Tab.set x.gens n 0 ((Tab.look x.gens n 0 + 1) % 128) }).wr
    LNK_SLOTS_USED_COUNT (s.rd LNK_SLOTS_USED_COUNT q - 1) q

/-- The oldest packet that waits for a slot and need wait no longer: its port has one, or no port serves it (R567). -/
def State.nextWait (s : State) : Option (Nat × Packet × Option Nat) :=
  s.waitPkts.find? (fun w => match s.portFor w.2.1.dst w.2.1 with
    | some r => (s.port r).freeSlot.isSome
    | none => true)

/-- The packet that need wait no longer leaves (R567). -/
def State.sendWaiting (s : State) : State :=
  match s.nextWait with
  | none => s
  | some w => ({ s with waitPkts := s.waitPkts.erase w } : State).sendOrFail w.1 w.2.1 w.2.2

/-! ### Stroke messages -/

/-- A STROKE packet (R534). -/
def strokePkt (s : State) (dst cls : Nat) (m : StrokeMsg) : Packet :=
  { zeroPacket with type := ptStroke, vc := 3, cls := cls, src := s.dev, dst := dst, msg := m }

/-- Queues a broadcast on the forward ports but one (R60, R549: class 1). -/
def State.broadcast (s : State) (m : StrokeMsg) (except : Option Nat) : State :=
  ((setBits (s.rd STK_FWD_MASK_MASK) 16).filter (fun q => some q != except && s.portUp q)).foldl
    (fun t q => t.enqueue q (strokePkt t 0 1 m)) s

end Sys2Proof.Machine
end

