-- ==== Sys2Proof/Machine/Cache.lean ====
section
/-!
DEFINITION. The crew read caches (R375, R394 to R398): 16 ways of 2,048 sets of 64-byte lines for each crew, each line with two sectors
of 32 bytes, named by global physical address.
-/
namespace Sys2Proof.Machine

/-- Key of a line: crew, set, way. The set is the line number modulo 2,048 (DESIGN CHOICE, log 47: R375 gives the number of sets only). -/
def rcKey (crew line way : Nat) : Nat := (crew * 2048 + line % 2048) * 16 + way

/-- The line of a crew's cache that holds a sector's line. -/
def State.rcFind (s : State) (crew sec : Nat) : Option (Nat × RcLine) :=
  s.rcache.find? (fun e => e.1 / 32768 == crew && e.2.line == sec / 2)

/-- The sector of a line. -/
def RcLine.sector (l : RcLine) (sec : Nat) : List Byte := if sec % 2 = 0 then l.lo else l.hi

/-- A line with a sector replaced; an empty one is not valid. -/
def RcLine.withSector (l : RcLine) (sec : Nat) (d : List Byte) : RcLine :=
  if sec % 2 = 0 then { l with lo := d } else { l with hi := d }

/-- Ways of a crew's cache that are in service (R398). -/
def State.rcWays (s : State) (crew : Nat) : List Nat :=
  (List.range 16).filter (fun w => !bitOf (s.rd CST_RC_WAYS_RETIRED crew) w)

/-- A sector is filled (R394): in its line, or in a way of its set that is free to be replaced. Which one the spec does not say: a free
value chooses (log 47). -/
def State.rcFill (s : State) (crew sec : Nat) (d : List Byte) : State :=
  let ways := s.rcWays crew
  if !s.is CST_RC_CTL_ENABLE crew ∨ ways.isEmpty then s
  else match s.rcFind crew sec with
    | some (k, l) => { s with rcache := Tab.put s.rcache k (l.withSector sec d) }
    | none =>
      let w := ways.getD (Config.freeValue s.fresh % ways.length) 0
      let l : RcLine := { line := sec / 2, lo := [], hi := [], bad := false }
      { s with rcache := Tab.put s.rcache (rcKey crew (sec / 2) w) (l.withSector sec d), fresh := s.fresh + 1 }

/-- The crew of an agent that reads through a read cache. -/
def agentCrew : Agent → Option Nat
  | .core i => some (i / 9)
  | .cox c => some c
  | _ => none

/-- The crew of an agent whose writes invalidate its sectors (R395): a seat, the cox, the crew's DMA engine. -/
def Owner.crew : Owner → Option Nat
  | .cue c _ => some c
  | .core i => some (i / 9)
  | .chan e _ => if e < 16 then some e else none
  | .agent (.chan e _) => if e < 16 then some e else none
  | .agent a => agentCrew a
  | _ => none

/-- What a crew still has on its way through the cache is used, and not kept (R396). -/
def State.rcUnkeep (s : State) (crew : Nat) : List Arrived :=
  s.asked.map (fun a => if agentCrew a.agent == some crew then { a with cached := false } else a)

/-- The sectors of a span of global physical addresses are invalidated in a crew's cache (R395). -/
def State.rcDrop (s : State) (crew gpa n : Nat) : State :=
  if n = 0 then s
  else
    let meets (sec : Nat) : Bool := overlaps (32 * sec) 32 gpa n
    { s with
      asked := if s.asked.any (fun a => a.cached) then s.rcUnkeep crew else s.asked
      rcache := (s.rcache.map (fun e =>
        if e.1 / 32768 = crew then
          (e.1, { e.2 with
            lo := if meets (2 * e.2.line) then [] else e.2.lo
            hi := if meets (2 * e.2.line + 1) then [] else e.2.hi })
        else e)).filter (fun e => !e.2.lo.isEmpty || !e.2.hi.isEmpty) }

/-- A write of an agent of a crew (R395). -/
def State.rcWrite (s : State) (owner : Owner) (gpa n : Nat) : State :=
  match owner.crew with
  | some c => if s.rcache.isEmpty && s.asked.isEmpty then s else s.rcDrop c gpa n
  | none => s

/-- Every line of a crew's cache is invalidated (R396). -/
def State.rcClear (s : State) (crew : Nat) : State :=
  { s with asked := s.rcUnkeep crew, rcache := s.rcache.filter (fun e => e.1 / 32768 != crew) }

/-- The catch invalidates the caches that have CATCH_INVAL set (R396). -/
def State.rcCatch (s : State) : State :=
  (List.range 16).foldl (fun (t : State) c => if t.is CST_RC_CTL_CATCH_INVAL c then t.rcClear c else t) s

end Sys2Proof.Machine
end

