-- ==== Sys2Proof/Machine/Entries.lean ====
section
/-!
DEFINITION. Roster entries as they lie in memory (R304, R343), and the state blocks of streams (R343, R370).
-/
namespace Sys2Proof.Machine

/-! ### Entries (R304, R343) -/

/-- A roster entry: the fields of R304, and those of R343 for a stream. -/
structure REnt where
  id      : Nat
  kind    : Nat
  state   : Nat
  ctx     : Nat
  prio    : Nat
  parent  : Nat
  forked  : Nat
  cand    : Nat
  reset   : Nat
  starved : Nat
  last    : Nat
  len     : Nat
  cap     : Nat
  step    : Nat
  adv     : Nat
  advOn   : Nat
  dir     : Nat
  touched : Nat
  pool    : Nat
  pages   : Nat
  init    : Nat
  stride  : Nat
  layers  : Nat
  fmt     : Nat
  hint    : Nat
  refs    : Nat
  deriving DecidableEq, Repr, Inhabited

/-- An entry from its 64 bytes. -/
def parseEntry (e : Nat) (r : List Byte) : REnt :=
  { id := e, kind := fieldBits r 0 14 1, state := fieldBits r 2 0 3, ctx := fieldBits r 3 0 6, prio := fieldBits r 3 6 2
    parent := fieldBits r 4 0 14, forked := fieldBits r 4 14 1, cand := fieldBits r 6 0 5, reset := fieldBits r 6 5 1
    starved := fieldBits r 6 6 1, last := fieldLE r 7 1, len := fieldLE r 8 3, cap := fieldLE r 12 3, step := fieldLE r 16 3
    adv := fieldLE r 20 3, advOn := fieldBits r 23 7 1, dir := fieldLE r 24 8, touched := fieldLE r 32 8
    pool := fieldBits r 40 0 4, pages := fieldLE r 44 3, init := fieldLE r 48 8, stride := fieldLE r 56 3
    layers := fieldLE r 60 1, fmt := fieldBits r 61 0 4, hint := fieldBits r 61 4 2, refs := fieldLE r 62 2 }

/-- The 64 bytes of an entry. -/
def REnt.bytes (x : REnt) : List Byte :=
  leBytes (x.id + x.kind * 2 ^ 14) 2 ++ leBytes x.state 1 ++ leBytes (x.ctx + x.prio * 64) 1 ++
  leBytes (x.parent + x.forked * 2 ^ 14) 2 ++ leBytes (x.cand + x.reset * 32 + x.starved * 64) 1 ++ leBytes x.last 1 ++
  leBytes (x.len % 2 ^ 24) 4 ++ leBytes (x.cap % 2 ^ 24) 4 ++ leBytes (x.step % 2 ^ 24) 4 ++
  leBytes (x.adv % 2 ^ 24 + x.advOn * 2 ^ 31) 4 ++ leBytes x.dir 8 ++ leBytes x.touched 8 ++ leBytes x.pool 4 ++
  leBytes (x.pages % 2 ^ 24) 4 ++ leBytes x.init 8 ++ leBytes x.stride 4 ++ leBytes x.layers 1 ++
  leBytes (x.fmt + x.hint * 16) 1 ++ leBytes x.refs 2

/-- Entry `e` of the roster. -/
def State.entry (s : State) (e : Nat) : REnt := parseEntry e (s.rdMem (rosterAddr e) 64)

/-- Stores an entry. -/
def State.setEntry (s : State) (x : REnt) : State := s.wrMem (rosterAddr x.id) x.bytes

/-- A free entry: every field but ENTRY_ID and LAST_STATUS is zero (R320). -/
def freeEntry (e last : Nat) : REnt := { (default : REnt) with id := e, last := last }

/-- The entries whose bytes differ from those at reset, in ascending order. -/
def State.rosterIds (s : State) : List Nat :=
  let base := rosterAddr 0
  let listed := (s.mem.filter (fun c => decide (base ≤ c.1) && decide (c.1 < base + 0x100000))).map (fun c => ((c.1 - base) / 64, ()))
  let free := (s.undef.filter (fun u => overlaps u.lo u.len base 0x100000)).flatMap (fun u =>
    let a := max u.lo base - base
    let b := min (u.lo + u.len) (base + 0x100000) - base
    (List.range ((b + 63) / 64 - a / 64)).map (fun k => (a / 64 + k, ())))
  (Tab.canon (listed ++ free)).map (fun c => c.1)

/-- Bytes of the header part of a directory block (R314). -/
def dirHead (layers : Nat) : Nat := 64 * ceilDiv (64 + 8 * layers) 64

/-- Bytes of the state block of a stream, from DIR_PTR on (R343, R346). -/
def REnt.blockSize (x : REnt) : Nat := x.layers * x.stride

end Sys2Proof.Machine
end

