-- ==== Sys2Proof/Machine/Operands.lean ====
section
/-!
DEFINITION. How an operand is reached: registers read by address (R711 to R728), translation of a context virtual address
(R460 to R475), the checks of a local address (R40 to R44, R441, R781), reads and writes of an agent on this device, on
another device and in host memory (R35, R37, R551), and fault slots (R480).
-/
namespace Sys2Proof.Machine

/-! ### Register reads -/

/-- Page, item and offset within the page of a BAR0 offset (R710); none for a reserved one (R711). -/
def pageAt (o : Nat) : Option (Page × Nat × Nat) :=
  if o < 0x6000 then
    match o / 0x1000 with
    | 0 => some (.dev, 0, o) | 1 => some (.stk, 0, o % 0x1000) | 2 => some (.pwr, 0, o % 0x1000)
    | 3 => some (.log, 0, o % 0x1000) | 4 => some (.spr, 0, o % 0x1000) | _ => some (.tmp, 0, o % 0x1000)
  else if o < 0x10000 then none
  else if o < 0x11000 then some (.hif, 0, o % 0x1000)
  else if o < 0x12000 then some (.hdm, 0, o % 0x1000)
  else if o < 0x18000 then none
  else if o < 0x20000 then some (.ctx, (o - 0x18000) / 0x200, o % 0x200)
  else if o < 0x28000 then some (.hbm, (o - 0x20000) / 0x1000, o % 0x1000)
  else if o < 0x38000 then some (.lpd, (o - 0x28000) / 0x800, o % 0x800)
  else if o < 0x40000 then none
  else if o < 0x50000 then some (.lnk, (o - 0x40000) / 0x1000, o % 0x1000)
  else if o < 0x51000 then some (.mmu, 0, o % 0x1000)
  else if o < 0x52000 then some (.tier, 0, o % 0x1000)
  else if o < 0x60000 then none
  else if o < 0x61000 then some (.ros, 0, o % 0x1000)
  else if o < 0x80000 then none
  else if o < 0x100000 then
    match (o - 0x80000) % 0x8000 / 0x1000 with
    | 0 => some (.crw, (o - 0x80000) / 0x8000, o % 0x1000)
    | 1 => some (.cox, (o - 0x80000) / 0x8000, o % 0x1000)
    | 2 => some (.cst, (o - 0x80000) / 0x8000, o % 0x1000)
    | 3 => some (.cdm, (o - 0x80000) / 0x8000, o % 0x1000)
    | _ => none
  else if o < 0x190000 then some (.core, (o - 0x100000) / 0x1000, o % 0x1000)
  else none

/-- BLK_CAP of a page (R713): sub-units, built-in spares, performance counters, RETAIN. -/
def blkCap (p : Page) : Nat :=
  let units := match p with
    | .crw => 9 | .cdm => 8 | .hdm => 16 | .core => 48 | .cst => 64 | .lnk => 17 | .hbm => 64 | .lpd => 4 | .ros => 16
    | _ => 0
  let spares := match p with
    | .crw | .cdm | .hdm | .lnk => 1 | .core | .cst => 2 | _ => 0
  let pcs := match p with
    | .core => 10 | .cst => 4 | .cdm | .hdm => 6 | .hif => 7 | .ctx => 24 | .hbm | .lpd => 2 | .lnk | .mmu => 8
    | .tier | .ros => 7 | .spr | .pwr => 4 | _ => 0
  let retain := match p with
    | .cst | .core | .lnk | .hif | .hbm | .lpd | .tier | .log | .dev | .pwr | .spr => 1
    | _ => 0
  units + spares * 256 + pcs * 0x10000 + retain * 0x1000000

/-- A page is pending (R732). -/
def State.pagePending (s : State) (p : Page) (i : Nat) : Bool :=
  (s.rd (BLK_INT_STAT p) i &&& s.rd (BLK_INT_EN p) i) != 0

/-- The pending pages' numbers (R732). -/
def State.pendingPages (s : State) : List Nat :=
  Page.all.flatMap (fun p => ((List.range p.count).filter (fun i => s.pagePending p i)).map (fun i => p.number i))

/-- Word `w` of DEV_INT_PAGE (R733). -/
def State.intPage (s : State) (w : Nat) : Nat :=
  ((s.pendingPages.filter (fun n => n / 32 == w)).map (fun n => 2 ^ (n % 32))).sum

/-- The bytes of a logbook entry (R682). -/
def logBytes (e : LogEntry) : List Byte :=
  leBytes e.time 8 ++ leBytes e.stroke 8 ++ leBytes e.source 4 ++ leBytes e.event 2 ++ leBytes e.severity 1 ++
    leBytes e.status 1 ++ leBytes e.data 8

/-- Spares of the kind that BLK_SPARE_MAP counts, as built (R782), and that kind. -/
def spareKindOf (p : Page) : Option (Nat × Nat) :=
  match p with
  | .core => some (2, 2) | .cst => some (4, 2) | .cdm | .hdm => some (9, 1) | .lnk => some (8, 2)
  | .hbm => some (6, 1046528) | .lpd => some (7, 1046528) | .ros => some (10, 256) | .cox => some (11, 32)
  | .dev => some (11, 128) | _ => none

/-- The block item that the page of a kind shows (R753, R782). -/
def pageBlock (kind block : Nat) : Nat :=
  if kind = 10 then 0 else if kind = 11 ∧ block = 0xFFFF then 16 else block

/-- Spares of a kind in service in a block item, and sub-units retired without one (R782). -/
def State.spareCount (s : State) (kind block : Nat) : Nat × Nat :=
  let mine := s.retired.filter (fun r => r.1.kind == kind && pageBlock r.1.kind r.1.block == block)
  ((mine.filter (fun r => r.2 == 1 || r.2 == 2)).length, (mine.filter (fun r => r.2 == 3)).length)

/-- As built, the spares that an item of a kind can draw on (R617, R782). -/
def spareTotal (kind block : Nat) : Nat :=
  match kind with
  | 0 => 1 | 1 => 8 | 2 => 2 | 3 => 8 | 4 => 2 | 6 => 1046528 | 7 => 1046528 | 8 => 1 | 9 => 1 | 10 => 256
  | 11 => if block = 0xFFFF then 128 else 32
  | _ => 0

/-- Two items draw on the same spares (R617): a crew's seats, a bank's columns, a direction of a port, else a block. -/
def samePool (a b : Inst) : Bool :=
  a.kind == b.kind &&
  (if a.kind = 0 then a.block / 9 == b.block / 9
   else if a.kind = 1 ∨ a.kind = 3 then a.block == b.block && a.pos % 128 == b.pos % 128
   else if a.kind = 8 then a.block == b.block && bitOf a.pos 8 == bitOf b.pos 8
   else a.block == b.block)

/-- Spares of an item's pool that its factory fuses have left free (R407, R617). -/
def sparesBuilt (i : Inst) : Nat :=
  if i.kind = 12 then Config.rowRepairs % 2 ^ 24
  else if i.kind = 1 ∨ i.kind = 3 then
    spareTotal i.kind i.block - (Config.fuseColumns.filter (fun c => c.1 == i.kind && c.2.1 == i.block && c.2.2 == i.pos % 128)).length
  else spareTotal i.kind i.block

/-- The items whose pools have given a spare, to a retired item or to a factory fuse. -/
def State.drawnOn (s : State) (k : Nat) : List Inst :=
  (s.retired.filter (fun r => r.1.kind == k)).map Prod.fst ++
  (if k = 1 ∨ k = 3 then (Config.fuseColumns.filter (fun c => c.1 == k)).map (fun c => { kind := k, block := c.2.1, pos := c.2.2 }) else [])

/-- Free spares that an item can draw on. -/
def State.spareLeft (s : State) (i : Inst) : Nat :=
  sparesBuilt i - (s.retired.filter (fun r => samePool r.1 i && (r.2 == 1 || r.2 == 2))).length

/-- SPR_SPARES_LEFT of a kind (R646, R755): the fewest free spares among its items. -/
def State.sparesLeft (s : State) (k : Nat) : Nat :=
  (s.drawnOn k).foldl (fun (m : Nat) i => min m (s.spareLeft i))
    (if k = 12 then Config.rowRepairs % 2 ^ 24 else spareTotal k 0)

/-- The records of the current region of the wear ledger, or of the other one. -/
def State.ledger (s : State) (other : Bool) : List (List Byte) :=
  if s.is SPR_LEDGER_STAT_REGION != other then s.ledger1 else s.ledger0

/-- The record at SPR_LEDGER_INDEX (R632). -/
def State.ledgerAt (s : State) : List Byte :=
  ((s.ledger (s.is SPR_LEDGER_INDEX_OTHER))[s.rd SPR_LEDGER_INDEX_INDEX]?).getD (leBytes 0 32)

/-- BLK_SPARE_MAP (R713, R782). -/
def State.spareMapOf (s : State) (p : Page) (i : Nat) : Nat :=
  match p with
  | .crw => s.spareMapReg i
  | _ => match spareKindOf p with
    | some (k, n) =>
      let u := s.spareCount k (if p = .hdm ∨ p = .dev then 16 else i)
      min u.1 255 + min (n - u.1) 255 * 256 + min u.2 255 * 65536
    | none => 0

/-- The part of a register's value that its stored fields give. -/
def State.storedReg (s : State) (p : Page) (i off : Nat) : Nat :=
  ((pageFields p ++ headerFields p).map (fun f =>
    if f.acc = .wo then 0
    else if f.n = 1 then (if f.off = off then s.rd f i * 2 ^ f.lo else 0)
    else if f.off ≤ off ∧ (off - f.off) % f.stride = 0 ∧ (off - f.off) / f.stride < f.n
      then s.rd f i ((off - f.off) / f.stride) * 2 ^ f.lo else 0)).sum

/-- A seat holds saved scheduled work (R601, R609). -/
def State.holdsSaved (s : State) (i : Nat) : Bool :=
  match s.seatOf i with
  | some t => s.saved.any (fun a => a.2.home == 8 * (i / 9) + t && (match a.2.what.block with | some b => b.kind != 2 | none => false))
  | none => false

/-- A crew is reserved (R601): from each catch until it posts its done token with EARLY_RECOVERY set, or else until the end of the
drive, and while it is late. -/
def State.crewReserved (s : State) (c : Nat) : Bool :=
  decide (2 ≤ s.stkState) &&
  (if s.stk.ended then (s.cox c).late else !(s.is STK_CTL_EARLY_RECOVERY && (s.cox c).ended))

/-- A seat is free for a task (R601). -/
def State.taskFree (s : State) (i : Nat) : Bool :=
  let x := s.core i
  s.blk .core i == 1 && x.block.isNone && x.saving == 0 && !s.holdsSaved i && !s.crewReserved (i / 9)

/-- A global logical seat that HIF_SEAT_BUSY shows is not free (R601, R613). -/
def State.seatBusy (s : State) (g : Nat) : Bool := !s.taskFree (s.coreOf (g / 8) (g % 8))

/-- The value of a register that is computed from other state (R713, R744, R733, R574, R687). -/
def State.computedReg (s : State) (p : Page) (i off : Nat) : Nat :=
  if off = 0 then pageBlkId p i
  else if off = 4 then blkCap p
  else if off = 8 then b2n (s.blk p i == 1)
  else if off = 0x24 then s.spareMapOf p i
  else match p with
    | .stk => if off = 0x100 then b2n (s.stkState != 0) else 0
    | .dev =>
      if 0x340 ≤ off ∧ off < 0x36C then s.intPage ((off - 0x340) / 4)
      else if 0x800 ≤ off ∧ off < 0x1000 then Tab.look s.routesB ((off - 0x800) / 4) 0
      else 0
    | .log =>
      if 0x120 ≤ off ∧ off < 0x140 then
        match Tab.find s.logRing (s.rd LOG_INDEX_INDEX) with
        | some e => fieldLE (logBytes e) (off - 0x120) 4
        | none => 0
      else 0
    | .spr =>
      if 0x120 ≤ off ∧ off < 0x140 then fieldLE s.ledgerAt (off - 0x120) 4
      else if 0x180 ≤ off ∧ off < 0x1C0 then s.sparesLeft ((off - 0x180) / 4)
      else 0
    | .hif => if 0x110 ≤ off ∧ off < 0x120 then
        ((List.range 32).map (fun b => b2n (s.seatBusy ((off - 0x110) / 4 * 32 + b)) * 2 ^ b)).sum
      else 0
    | .tier =>
      if 0x480 ≤ off ∧ off < 0x4A0 then
        ((List.range 32).map (fun b => b2n (Tab.find s.watches ((off - 0x480) / 4 * 32 + b)).isSome * 2 ^ b)).sum
      else if 0x4A0 ≤ off ∧ off < 0x4C0 then
        ((List.range 32).map (fun b =>
          b2n (Tab.look s.watches ((off - 0x4A0) / 4 * 32 + b) default).stale * 2 ^ b)).sum
      else 0
    | _ => 0

/-- The value of the 32-bit or 64-bit register at a BAR0 offset. A block that is off shows only its first header words
(R727); reserved offsets read zero (R711). R783 has SOFT_RESET read 1 until the reset ends, in a block that is off: there R727 wins, and
BLK_CTL reads zero (DESIGN CHOICE, log 25). -/
def State.readReg (s : State) (o : Nat) : Nat :=
  match pageAt o with
  | none => 0
  | some (p, i, off) =>
    if s.blk p i = 0 ∧ off ≠ 0 ∧ off ≠ 4 ∧ off ≠ 0xC then 0
    else s.storedReg p i off + s.computedReg p i off

/-- The size of the register at an offset of a page in bits: 64 for the registers that the tables mark so. -/
def regSize (p : Page) (off : Nat) : Nat :=
  if (pageFields p).any (fun f => f.size = 64 ∧
      (if f.n = 1 then f.off = off else f.off ≤ off ∧ (off - f.off) % f.stride = 0 ∧ (off - f.off) / f.stride < f.n))
  then 64 else 32

/-- Bytes of a register access: 4 bytes of a 32-bit register or of a half of a 64-bit one, 8 bytes of a 64-bit one (R722). -/
def State.readRegBytes (s : State) (o n : Nat) : List Byte :=
  match pageAt o with
  | none => leBytes 0 n
  | some (p, _, off) =>
    if n = 4 ∧ off % 8 = 4 ∧ regSize p (off - 4) = 64 then leBytes (s.readReg (o - 4) / 2 ^ 32) 4
    else leBytes (s.readReg o) n

/-- An access of the register window or BAR0 has a size and alignment that the page accepts (R722). -/
def regAccessOk (o n : Nat) : Bool :=
  if n = 4 then o % 4 == 0
  else if n = 8 then o % 8 == 0 && (match pageAt o with | some (p, _, off) => regSize p off == 64 | none => true)
  else false

/-- An accepted read clears the RC register at an offset. -/
def State.clearRc (s : State) (o : Nat) : State :=
  match pageAt o with
  | none => s
  | some (p, i, off) =>
    if s.blk p i = 0 then s
    else (pageFields p ++ headerFields p).foldl (fun (t : State) f => if f.acc = .rc ∧ f.off = off then t.wr f 0 i else t) s

/-- A read of a register by a requester (R723, R726): a read of the low half of a 64-bit register latches the high half for the
requester's next read of it; an RC register is cleared. -/
def State.regRead (s : State) (who : Requester) (o n : Nat) : List Byte × State :=
  let wide (o : Nat) : Bool := match pageAt o with
    | some (p, _, off) => regSize p off == 64 && off % 8 == 0
    | none => false
  if n = 4 ∧ o % 8 = 0 ∧ wide o then
    let v := s.readReg o
    let kept := s.latched.filter (fun l => !(l.1 == who && l.2.1 == o))
    (leBytes v 4, { s with latched := (who, o, v / 2 ^ 32) :: kept })
  else if n = 4 ∧ o % 8 = 4 ∧ wide (o - 4) then
    match s.latched.find? (fun l => l.1 == who && l.2.1 == o - 4) with
    | some l => (leBytes l.2.2 4, { s with latched := s.latched.filter (fun m => !(m.1 == who && m.2.1 == o - 4)) })
    | none => (s.readRegBytes o 4, s)
  else (s.readRegBytes o n, s.clearRc o)

/-! ### Translation -/

/-- Why an access does not complete now. -/
inductive Stop where
  | fail (status : Nat) (va : Nat) (write : Bool)
  | pageFault (va level : Nat) (write : Bool)
  | ctxFault (va level : Nat) (write : Bool)
  | wait
  | frame (f : Nat)
  | need (gpa len : Nat)
  | lookup (gpa len : Nat)
  deriving DecidableEq, Repr

/-- A failure with the virtual address of its access. -/
def Stop.placed (va : Nat) (write : Bool) : Stop → Stop
  | .fail st _ _ => .fail st va write
  | e => e

/-- A local address lies in this device's usable HBM or LPDDR (R39). -/
def inDram (a : Nat) : Bool := (regionOf a).1 == .hbm || (regionOf a).1 == .lpd

/-- One level of a walk: its number, the shift and width of its index, the size of its table (R461). -/
def walkLevels : List (Nat × Nat × Nat × Nat) := [(3, 39, 10, 8192), (2, 30, 9, 4096), (1, 21, 9, 4096), (0, 16, 5, 256)]

/-- Size of the table that a pointer at a level names (R461). -/
def nextTable (level : Nat) : Nat := if level = 1 then 256 else 4096

/-- Reserved bits of an entry (R462). -/
def entryReserved (e : Nat) : Bool := bits e 10 6 != 0 || bits e 52 12 != 0

/-- A malformed entry (R463). -/
def entryMalformed (level e : Nat) : Bool :=
  if entryReserved e then true
  else if bitOf e 1 then
    decide (2 ≤ level) || bits e 4 2 == 3 || (level == 1 && bits e 16 5 != 0)
  else
    level == 0 || bits e 2 8 != 0 || bitOf e 51 || !inDram (bits e 16 35 * 256) || bits e 16 35 * 256 % nextTable level != 0

/-- A lend window is open over some byte of a span for another borrower than a device (R441). -/
def State.lentAway (s : State) (src a n : Nat) : Bool :=
  (List.range 8).any (fun w =>
    s.rd TIER_LEND_CTL_STATE 0 w == 2 &&
    overlaps (s.rd TIER_LEND_BASE 0 w) (s.rd TIER_LEND_SIZE 0 w * 0x200000) a n &&
    s.rd TIER_LEND_CTL_BORROWER 0 w != src)

/-- Walks the tables of a context from a table of a level on (R461, R475 points 3 to 5): the leaf and the bytes it maps. A table in an
open lend window cannot be read (R441). -/
def State.walkFrom (s : State) (va : Nat) (write : Bool) : List (Nat × Nat × Nat × Nat) → Nat → Except Stop (Nat × Nat)
  | [], _ => .error (.fail stPermission va write)
  | (level, shift, w, _) :: rest, base =>
    let a := base + bits va shift w * 8
    if s.lentAway s.dev a 8 then .error (.fail stPermission va write)
    else
      let e := s.rdLE a 8
      if !bitOf e 0 then .error (.pageFault va level write)
      else if entryMalformed level e then .error (.fail stPermission va write)
      else if s.poisoned a 8 then .error (.ctxFault va level write)
      else if bitOf e 1 then .ok (e, if level = 1 then 0x200000 else 0x10000)
      else s.walkFrom va write rest (bits e 16 35 * 256)

/-- The leaf of a context virtual address: from the translation caches when they hold it, else by a walk (R468). -/
def State.leafOf (s : State) (ctx va : Nat) (write : Bool) : Except Stop (Nat × Nat) :=
  match s.tlb.find? (fun t => t.ctx == ctx && decide (t.va ≤ va) && decide (va < t.va + t.size)) with
  | some t => .ok (t.leaf, t.size)
  | none => s.walkFrom va write walkLevels (s.rd CTX_PT_ROOT_ROOT ctx * 8192)

/-- The checkpoint bit of the frame of a local address (R490). -/
def State.ckptBit (s : State) (a : Nat) : Bool :=
  bitOf (s.rdByte (s.rd MMU_CKPT_BASE + a / 65536 / 8)).toNat (a / 65536 % 8)

/-- A protected frame among the local frames of a span (R492): writes to it wait while the unit is ACTIVE. -/
def State.protectedIn (s : State) (a n : Nat) : Option Nat :=
  if s.rd MMU_CKPT_STAT_STATE = 2 ∧ inDram a then
    ((List.range (n / 65536 + 2)).map (fun i => a / 65536 + i)).find?
      (fun f => decide (f * 65536 < a + n) && s.ckptBit (f * 65536))
  else none

/-- A translated address: global physical address, write operation, leaf. -/
structure Xlat where
  gpa  : Nat
  wop  : Nat
  leaf : Nat
  deriving DecidableEq, Repr

/-- The self window of a task (R603): the offset of an address in it, and the scratchpad of the seat that runs the task. -/
def State.selfWindow (s : State) (ctx va : Nat) : Option (Nat × Nat) :=
  match s.self with
  | none => none
  | some i =>
    let base := s.rd CTX_SELF_VA ctx
    if base ≠ 0 ∧ base ≤ va ∧ va < base + 0x400000 then some (va - base, scratchBase (i / 9) ((s.seatOf i).getD 0)) else none

/-- Translates a context virtual address for an access, in the order of R475 (points 1 to 8), by an MMU that serves (R727); the self
window of a task needs no tables (R603). -/
def State.translate (s : State) (ctx va : Nat) (acc : Access) : Except Stop Xlat :=
  let write := acc != .read
  if 2 ^ 49 ≤ va then .error (.fail stMalformed va write)
  else if s.blk .mmu = 0 ∨ s.blk .mmu = 3 then .error (.fail stRefused va write)
  else if s.lostObjs.any (fun o => o.1 == ctx && decide (o.2.1 ≤ va) && decide (va < o.2.1 + o.2.2)) then
    .error (.fail stUnreachable va write)
  else if s.lost.contains ctx then .error (.fail stLost va write)
  else if !s.ctxOn ctx then .error (.fail stPermission va write)
  else match s.selfWindow ctx va with
  | some (off, base) =>
    if off < 0x300000 then .ok { gpa := gpaOf s.dev (base + off), wop := 0, leaf := 0xF } else .error (.fail stBus va write)
  | none => match s.leafOf ctx va write with
    | .error e => .error e
    | .ok (leaf, size) =>
      let g := bits leaf 16 36 * 65536 + va % size
      let wop := bits leaf 4 2
      let near := decide (gpaDev g = s.dev) &&
        ((regionOf (gpaLocal g)).1 == .scratch || (regionOf (gpaLocal g)).1 == .crewStore)
      if (acc != .write && !bitOf leaf 2) || (write && !bitOf leaf 3) then .error (.fail stPermission va write)
      else if acc = .atomic ∧ wop ≠ 0 then .error (.fail stMalformed va write)
      else if wop ≠ 0 ∧ !near then .error (.fail stPermission va write)
      else if write && bitOf leaf 9 then .error .wait
      else if write && decide (gpaDev g = s.dev) then
        match s.protectedIn (if size = 0x200000 then gpaLocal g / size * size else gpaLocal g)
            (if size = 0x200000 then size else 1) with
        | some f => .error (.frame f)
        | none => .ok { gpa := g, wop := wop, leaf := leaf }
      else .ok { gpa := g, wop := wop, leaf := leaf }

/-! ### Local accesses -/

/-- Kinds of access to a local address that R40 to R44 tell apart: a read, a write, an integer atomic, a floating atomic. -/
inductive Reach where
  | get | put | atomic | atomicFp
  deriving DecidableEq, Repr

/-- The device is a member of the front device's host domain (R45). -/
def State.member (s : State) (d : Nat) : Bool :=
  d == s.dev || bitOf (s.rd DEV_DOMAIN_MAP 0 (d / 32)) (d % 32)

/-- The memory channel of a local address of a tier (R417, R418), as POSITION and BLOCK of kind 14 name it (R753). -/
def memChannel (a : Nat) : Option Inst :=
  match (regionOf a).1 with
  | .hbm => some { kind := 14, block := bits a 11 3 ^^^ bits a 21 3 ^^^ bits a 31 3, pos := bits a 14 6 ^^^ bits a 24 6 }
  | .lpd =>
    let b := a - 0x8000000000
    some { kind := 14, block := 8 + (bits b 11 5 ^^^ bits b 21 5 ^^^ bits b 31 5), pos := bits b 16 2 }
  | _ => none

/-- First addresses of the 2 KiB units of a span. -/
def unitsOf (a n : Nat) : List Nat := (List.range (n / 2048 + 2)).map (fun k => (a / 2048 + k) * 2048) |>.filter (fun u => decide (u < a + n))

/-- A span touches a retired memory channel, which completes every request with 0x23 (R624). -/
def State.deadMem (s : State) (a n : Nat) : Bool :=
  s.retired.any (fun r => r.1.kind == 14 && (unitsOf a n).any (fun u => memChannel u == some r.1))

/-- A loopback test or a margin sweep holds every request to a memory channel (R700, R702): the whole controller in modes 1 and 2,
else its target. -/
def State.testHolds (s : State) (i : Inst) : Bool :=
  let lpd := decide (8 ≤ i.block)
  let c := if lpd then i.block - 8 else i.block
  let f (h l : Fld) : Nat := if lpd then s.rd l c else s.rd h c
  (f HBM_TEST_STAT_STATE LPD_TEST_STAT_STATE == 1 &&
    (decide (f HBM_TEST_CTL_MODE LPD_TEST_CTL_MODE ≤ 2) || f HBM_TEST_CTL_TARGET LPD_TEST_CTL_TARGET == i.pos)) ||
  (f HBM_MARGIN_CTL_BUSY LPD_MARGIN_CTL_BUSY == 1 && f HBM_MARGIN_CTL_TARGET LPD_MARGIN_CTL_TARGET == i.pos)

/-- A span touches a retired unit whose spare waits for ENTER: the request waits at its controller (R622).
So does a request to a memory that has not left self-refresh after HOLD (R660), or that a test holds (R700). -/
def State.unitWaits (s : State) (a n : Nat) : Bool :=
  s.retired.any (fun r => (r.1.kind == 6 || r.1.kind == 7) && r.2 == 0 && overlaps (r.1.pos * 2048) 2048 a n) ||
  (unitsOf a n).any (fun u => match memChannel u with
    | some i => bitOf s.pwr.selfRef i.block || s.testHolds i
    | none => false)

/-- A block refuses an access that reaches its memory (R717, R727): a memory controller or a crew store that is not enabled, the
scratchpad of a seat that is disabled or off; retired blocks keep the consequences of R624. -/
def State.blockRefuses (s : State) (a n : Nat) : Bool :=
  let off (p : Page) (i : Nat) : Bool := decide (s.blk p i = 0) || decide (s.blk p i = 2) || decide (s.blk p i = 3)
  match (regionOf a).1 with
  | .hbm | .lpd => (unitsOf a n).any (fun u => match memChannel u with
      | some i => if i.block < 8 then off .hbm i.block else off .lpd (i.block - 8)
      | none => false)
  | .crewStore => off .cst ((a - 0x40000000000) / 0x1000000)
  | .scratch =>
    let i := s.coreOf ((a - 0x40010000000) / 0x2000000) ((a - 0x40010000000) % 0x2000000 / 0x400000)
    s.blk .core i == 0 || s.blk .core i == 3
  | .host => s.blk .hif != 1
  | _ => false

/-- The first rule that an access breaks at the device that serves it, and its status (R781): R40 (0), R41 (1), R42 (2), R43 (3), R44 (4),
then lend windows (R441), register access sizes (R722), the trigger page (R588), blocks that are not enabled (R717) and retired memory
channels (R624). -/
def State.broken (s : State) (src ctx a n : Nat) (k : Reach) : Option (Nat × Nat) :=
  let rs := regionsOf 300 a n
  if rs.contains .reserved then some (0, stBus)
  else if rs.contains .tokens && !(n == 4 && a % 4 == 0 && k != .atomicFp) then some (1, stMalformed)
  else if rs.contains .roster && k != .get then some (2, stPermission)
  else if rs.contains .window && ctx != 0 then some (3, stPermission)
  else if rs.contains .host && !s.front then some (4, stUnreachable)
  else if rs.contains .host && !s.member src then some (5, stPermission)
  else if s.lentAway src a n then some (6, stPermission)
  else if rs.contains .window && (k == .atomic || k == .atomicFp || !regAccessOk (a - 0x40080000000) n) then some (7, stMalformed)
  else if rs.contains .host && (k == .atomic || k == .atomicFp) then some (8, stMalformed)
  else if s.blockRefuses a n then some (9, stRefused)
  else if s.deadMem a n then some (10, stBus)
  else none

/-- The checks of the device that serves an access: the status of the first broken rule. -/
def State.checkLocal (s : State) (src ctx a n : Nat) (k : Reach) : Except Nat Unit :=
  match s.broken src ctx a n k with
  | some b => .error b.2
  | none => .ok ()

/-- Of what the parts of one access break, the rule that stands first (R781); `α` tells the part. -/
def firstBroken {α : Type} (l : List (Option (Nat × Nat) × α)) : Option (Nat × α) :=
  (l.foldl (fun (m : Option (Nat × Nat × α)) x =>
    match x.1, m with
    | some b, some c => if b.1 < c.1 then some (b.1, b.2, x.2) else some c
    | some b, none => some (b.1, b.2, x.2)
    | none, c => c) none).map Prod.snd

/-- The bytes of a local span: a token, a register, or memory. -/
def State.rdLocal (s : State) (a n : Nat) : List Byte :=
  match (regionOf a).1 with
  | .tokens => leBytes (s.tok (tokOfAddr a)).toNat n
  | .window => (s.regRead (.device s.dev) (a - 0x40080000000) n).1
  | _ => s.rdMem a n

/-- The moves in progress record the lines of a write at a global physical address (R433). -/
def State.noteMoves (s : State) (g n : Nat) : State :=
  if s.objs.any (fun o => o.2.move.isSome) then { s with objs := s.objs.map (fun o => (o.1, o.2.noteLines g n)) } else s

/-- The length table has been written by an agent other than the roster: its contents are undefined (R266). -/
def State.noteLengths (s : State) (a n : Nat) : State :=
  if s.is ROS_LEN_BASE_ENABLE && overlaps (s.rd ROS_LEN_BASE_BASE * 0x80000) 0x80000 a n then
    ({ s with lenDirty := true } : State).undefine (s.rd ROS_LEN_BASE_BASE * 0x80000) 0x80000 else s

/-- A write has changed bytes: the watch slots whose source it overlaps turn stale (R451), and the poison of whole codewords clears
(R406). -/
def State.noteWrite (s : State) (a n : Nat) : State :=
  let s := if s.watches.isEmpty then s else
    { s with watches := s.watches.map (fun w =>
        (w.1, if w.2.src.any (fun p => overlaps p.1 p.2 a n) then { w.2 with stale := true } else w.2)) }
  let s := s.noteMoves (gpaOf s.dev a) n
  if s.poison.isEmpty then s else s.cleanse a n

/-- Stores bytes in memory under a write operation: 0 plain, 1 SET, 2 CLEAR (R384). A span that scheduled work writes is noted as the
stroke's (R109). -/
def State.store (s : State) (a wop : Nat) (sched : Bool) (data : List Byte) : State :=
  let old := s.rdMem a data.length
  let data := if wop = 1 then List.zipWith (fun b d => b ||| d) old data
              else if wop = 2 then List.zipWith (fun b d => b &&& ~~~d) old data
              else data
  let s := ((s.wrMem a data).noteWrite a data.length).noteLengths a data.length
  if sched then { s with touched := (a, data.length) :: s.touched } else s

/-- Bytes that have arrived for an agent (R99). -/
def State.arrivedAt (s : State) (ag : Agent) (gpa n : Nat) : Option (List Byte) :=
  (s.arrived.find? (fun x => x.agent == ag && decide (x.addr ≤ gpa) && decide (gpa + n ≤ x.addr + x.data.length))).map
    (fun x => (x.data.drop (gpa - x.addr)).take n)

/-- Reads a span that lies in one page, at its global physical address. -/
def State.readGpa (s : State) (ag : Agent) (ctx gpa n : Nat) : Except Stop (List Byte) :=
  if gpaDev gpa = s.dev then
    let a := gpaLocal gpa
    match s.checkLocal s.dev ctx a n .get with
    | .error st => .error (.fail st 0 false)
    | .ok () =>
      if (regionOf a).1 = .host then
        if 0x7FFFFFF0000 ≤ a then .error (.fail stMalformed 0 false)
        else if !s.is HIF_HWIN_ENABLE 0 ((a - 0x60000000000) / 0x2000000000) then .error (.fail stUnreachable 0 false)
        else match s.arrivedAt ag gpa n with
          | some d => .ok d
          | none => .error (.need gpa n)
      else if s.unitWaits a n then .error .wait
      else if s.poisoned a n then .error (.fail stBus 0 false)
      else .ok (s.rdLocal a n)
  else match s.arrivedAt ag gpa n with
    | some d => .ok d
    | none => .error (.need gpa n)

/-- A span cut at 64 KiB pages: first address and length of each piece. -/
def pagesOf (fuel va n : Nat) : List (Nat × Nat) :=
  match fuel with
  | 0 => []
  | fuel + 1 => if n = 0 then [] else
    let k := min n (65536 - va % 65536)
    (va, k) :: pagesOf fuel (va + k) (n - k)

/-- The pieces of a span within one page each. -/
def spanPages (va n : Nat) : List (Nat × Nat) := pagesOf (n / 65536 + 2) va n

/-- A read goes through the read cache of its crew (R394): a seat or a cox reads memory of this or another device in a read-cacheable page.
Which reads take the narrow path the spec shows by example only: here all of theirs do, but for those of the page reader (log 47). -/
def State.cached (s : State) (ag : Agent) (x : Xlat) : Bool :=
  bitOf x.leaf 6 && (gpaDev x.gpa != s.dev || inDram (gpaLocal x.gpa)) &&
  (match ag with | .core _ => true | .cox _ => true | _ => false)

/-- Reads a piece of a page: one that goes through a read cache takes the bytes that its lookup has brought. -/
def State.readPage (s : State) (ag : Agent) (ctx : Nat) (x : Xlat) (n : Nat) : Except Stop (List Byte) :=
  if !s.cached ag x then s.readGpa ag ctx x.gpa n
  else match s.arrivedAt ag x.gpa n with
    | some d => .ok d
    | none => match s.readGpa ag ctx x.gpa n with
      | .error (.need _ _) => .error (.lookup x.gpa n)
      | .error e => .error e
      | .ok _ => .error (.lookup x.gpa n)

/-- Reads a list of pieces. -/
def State.readPieces (s : State) (ag : Agent) (ctx : Nat) : List (Nat × Nat) → Except Stop (List Byte)
  | [] => .ok []
  | (va, n) :: t =>
    match s.translate ctx va .read with
    | .error e => .error e
    | .ok x => match s.readPage ag ctx x n with
      | .error e => .error (e.placed va false)
      | .ok d => match s.readPieces ag ctx t with
        | .error e => .error e
        | .ok r => .ok (d ++ r)

/-- Translates the pieces of a span: the virtual address, global physical address and length of each. -/
def State.placed (s : State) (ctx : Nat) (acc : Access) : List (Nat × Nat) → Except Stop (List (Nat × Nat × Nat))
  | [] => .ok []
  | (va, n) :: t => match s.translate ctx va acc with
    | .error e => .error e
    | .ok x => match s.placed ctx acc t with
      | .error e => .error e
      | .ok ps => .ok ((va, x.gpa, n) :: ps)

/-- The checks of a span of more than one page: the translations of all of it come before any rule of the device that serves it, and of
the rules that its pieces here break the first one decides (R781). -/
def State.spanCheck (s : State) (ctx : Nat) (acc : Access) (k : Reach) (write : Bool) (pieces : List (Nat × Nat)) : Except Stop Unit :=
  if pieces.length ≤ 1 then .ok ()
  else match s.placed ctx acc pieces with
    | .error e => .error e
    | .ok ps => match firstBroken ((ps.filter (fun p => gpaDev p.2.1 = s.dev)).map (fun p =>
        (s.broken s.dev ctx (gpaLocal p.2.1) p.2.2 k, p.1))) with
      | some (st, va) => .error (.fail st va write)
      | none => .ok ()

/-- Reads `n` bytes of a context from a virtual address on. -/
def State.readV (s : State) (ag : Agent) (ctx va n : Nat) : Except Stop (List Byte) :=
  match s.spanCheck ctx .read .get false (spanPages va n) with
  | .error e => .error e
  | .ok () => s.readPieces ag ctx (spanPages va n)

/-- A read of a context that has ended with 0x23 at an address has met poison, where there is some in the page from there on (R406). -/
def State.readPoison (s : State) (ctx va : Nat) : State :=
  match s.translate ctx va .read with
  | .ok x => if gpaDev x.gpa = s.dev then s.metPoison (gpaLocal x.gpa) (65536 - va % 65536) else s
  | .error _ => s

/-- An access of a context has failed with a status; a read that ended with 0x23 may have met poison. -/
def State.failedAt (s : State) (ctx st va : Nat) (w : Bool) : State := if st = stBus ∧ !w then s.readPoison ctx va else s

/-- Reads of some spans of a context that do not go through the read cache, those of DMA and of the page reader (R394): their leaves, cached or
walked, count as not read-cacheable. -/
def State.uncached (s : State) (ctx : Nat) (spans : List (Nat × Nat)) : State :=
  let walked := (spans.flatMap (fun p => spanPages p.1 p.2)).filterMap (fun p => match s.leafOf ctx p.1 false with
    | .ok (leaf, size) => some ({ ctx := ctx, va := p.1 / size * size, size := size, leaf := leaf } : TlbEntry)
    | .error _ => none)
  { s with tlb := (walked ++ s.tlb).map (fun e => { e with leaf := e.leaf - (e.leaf &&& 64) }) }

/-- A read of this device's own register window has its side effects (R723, R726). -/
def State.noteRead (s : State) (gpa n : Nat) : State :=
  if gpaDev gpa = s.dev ∧ (regionOf (gpaLocal gpa)).1 = .window then (s.regRead (.device s.dev) (gpaLocal gpa - 0x40080000000) n).2 else s

/-- The side effects of the reads of some spans of a context. -/
def State.noteReads (s : State) (ctx : Nat) (spans : List (Nat × Nat)) : State :=
  (spans.flatMap (fun p => spanPages p.1 p.2)).foldl (fun (t : State) p =>
    match t.translate ctx p.1 .read with
    | .ok x => t.noteRead x.gpa p.2
    | .error _ => t) s

/-- A write that a step is to make: its address in the context and its bytes. -/
structure Write where
  va   : Nat
  data : List Byte
  deriving DecidableEq, Repr

/-- Checks one piece of a write before any byte is written (R140, R516). -/
def State.checkPiece (s : State) (ctx va n : Nat) : Except Stop Unit :=
  match s.translate ctx va .write with
  | .error e => .error e
  | .ok x =>
    if gpaDev x.gpa = s.dev then
      match s.checkLocal s.dev ctx (gpaLocal x.gpa) n .put with
      | .error st => .error (.fail st va true)
      | .ok () =>
        if s.unitWaits (gpaLocal x.gpa) n then .error .wait
        else if (regionOf (gpaLocal x.gpa)).1 = .host ∧ gpaLocal x.gpa < 0x7FFFFFF0000 ∧
            !s.is HIF_HWIN_ENABLE 0 ((gpaLocal x.gpa - 0x60000000000) / 0x2000000000)
        then .error (.fail stUnreachable va true) else .ok ()
    else .ok ()

/-- Checks every piece of a span. -/
def State.checkPieces (s : State) (ctx : Nat) : List (Nat × Nat) → Except Stop Unit
  | [] => .ok ()
  | (va, n) :: t => match s.checkPiece ctx va n with
    | .error e => .error e
    | .ok () => s.checkPieces ctx t

/-- Checks a list of writes. -/
def State.checkWrites (s : State) (ctx : Nat) : List Write → Except Stop Unit
  | [] => .ok ()
  | w :: t => match s.spanCheck ctx .write .put true (spanPages w.va w.data.length) with
    | .error e => .error e
    | .ok () => match s.checkPieces ctx (spanPages w.va w.data.length) with
      | .error e => .error e
      | .ok () => s.checkWrites ctx t

/-- The vector word of a PUT to the trigger page is well formed (R588, R589). -/
def vectorWordOk (w : Nat) : Bool := bits w 11 5 == 0 && bits w 22 10 == 0

/-- Vectors of a function (R577). -/
def msixVectors (f : Nat) : Nat := if f = 0 then 2048 else 32

/-- Key of a word of a function's MSI-X table (R579). -/
def msixKey (f word : Nat) : Nat := f * 8192 + word

/-- A word of a function's MSI-X table, four to a vector: address, data, and the Vector Control with its mask bit. Until the host writes it
a vector is masked and its other words are zero, as the PCIe standard has it (R4, R588; PRESUMED, log 44). -/
def State.msixWord (s : State) (f word : Nat) : Nat := Tab.look s.msixTab (msixKey f word) (b2n (word % 4 == 3))

/-- A vector of a function is masked (R588). -/
def State.msixMasked (s : State) (f v : Nat) : Bool := bitOf (s.msixWord f (4 * v + 3)) 0

/-- The message of a vector leaves, or its pending bit is set while it is masked (R588). -/
def State.msixSend (s : State) (f v : Nat) : State :=
  if s.msixMasked f v then { s with msixPba := Tab.set s.msixPba f 0 (Tab.look s.msixPba f 0 ||| 2 ^ v) }
  else { s with hostOut := s.hostOut ++ [HostOut.msix f v] }

/-- The host writes a word of a function's MSI-X table: a vector that is pending and no longer masked sends its message. -/
def State.msixWrite (s : State) (f word v : Nat) : State :=
  let s : State := { s with msixTab := Tab.set s.msixTab (msixKey f word) (b2n (word % 4 == 3)) (v % 2 ^ 32) }
  if bitOf (Tab.look s.msixPba f 0) (word / 4) && !s.msixMasked f (word / 4) then
    ({ s with msixPba := Tab.set s.msixPba f 0 (Tab.look s.msixPba f 0 - 2 ^ (word / 4)) } : State).msixSend f (word / 4)
  else s

/-- A reset of a function clears its MSI-X table and pending bits (R4, log 44). -/
def State.msixReset (s : State) (f : Nat) : State :=
  { s with msixTab := s.msixTab.filter (fun e => e.1 / 8192 != f), msixPba := Tab.del s.msixPba f }

/-- A PUT to the trigger page: the message leaves, or the status of R589. -/
def State.triggerPut (s : State) (ctx : Nat) (a : Nat) (data : List Byte) : Nat × State :=
  let w := leNat data
  if data.length ≠ 4 ∨ a % 4 ≠ 0 ∨ !vectorWordOk w ∨ msixVectors (bits w 16 6) ≤ bits w 0 11 then
    (stMalformed, s.bump HIF_PC_TRIGGER_DROPS)
  else if ctx ≠ 0 ∧ ctx ≠ bits w 16 6 then (stPermission, s.bump HIF_PC_TRIGGER_DROPS)
  else (stSuccess, s.msixSend (bits w 16 6) (bits w 0 11))

/-- Bytes passed through the host interface are counted for the context (R597, R613). -/
def State.hostOutBytes (s : State) (ctx n : Nat) : State := (s.bump HIF_PC_TX_BYTES n).bump CTX_ACC_HOST n ctx

/-- A posted write through the host window (R586, R587): the status and what is passed to PCIe. -/
def State.hostPut (s : State) (ctx a : Nat) (data : List Byte) : Nat × State :=
  if 0x7FFFFFF0000 ≤ a then s.triggerPut ctx a data
  else
    let i := (a - 0x60000000000) / 0x2000000000
    if !s.is HIF_HWIN_ENABLE 0 i then (stUnreachable, s)
    else (stSuccess,
      { s with hostOut := s.hostOut ++
          [HostOut.write ctx (s.rd HIF_HWIN_BUS_BASE 0 i * 4096 + (a - 0x60000000000) % 0x2000000000) data] }.hostOutBytes
        ctx data.length)

/-- Counts the bytes of a context in the tier that backs a local address (R597). -/
def State.account (s : State) (ctx a n : Nat) : State :=
  match (regionOf a).1 with
  | .hbm => s.bump CTX_ACC_HBM n ctx
  | .lpd => s.bump CTX_ACC_LPD n ctx
  | _ => s

/-- Register writes that arrive through the register window are kept for the end of the access: page writes are the
business of the registers' own family, which takes them from `regWrites`. -/
def State.queueRegWrite (s : State) (who : Requester) (o : Nat) (data : List Byte) : State :=
  { s with regWrites := s.regWrites ++ [(who, o, data.length, leNat data)] }

/-- An owner has an operation outstanding that fails with a status, as a PUT to another device would (R37). -/
def State.failedHere (s : State) (owner : Owner) (ctx a : Nat) (sched : Bool) (status : Nat) : State :=
  (s.countOut owner).finishOp { owner := owner, left := 0, worst := some (a, s.dev, status), signal := none, zero := false, ctx := ctx
                                sched := sched }

/-- The spans of what only the roster writes for a pool (R309): its reference array and free stack, and the copy lists and page lists of
its entries, each as a context, a virtual address and a length. -/
def State.poolSpans (s : State) (p : Nat) : List (Nat × Nat × Nat) :=
  let n := s.rd ROS_POOL_SIZE_SIZE 0 p
  let ctx := s.rd ROS_POOL_CTL_CONTEXT 0 p
  (ctx, s.rd ROS_POOL_REF_BASE 0 p, 2 * n) :: (ctx, s.rd ROS_POOL_STACK_BASE 0 p, 4 * n) ::
    ((s.rosterIds.map s.entry).filter (fun x => x.state != 0 && x.kind == 0 && x.pool == p)).filterMap (fun x =>
      match s.readV .roster x.ctx x.dir 64 with
      | .error _ => none
      | .ok h => some (x.ctx, x.dir + dirHead (fieldLE h 0 1),
          64 * ceilDiv (4 * fieldLE h 0 1) 64 + fieldLE h 0 1 * fieldLE h 8 4 * 16))

/-- Where the leaf of a page lies (R461): the walk to its level. -/
def State.leafSlot (s : State) (va : Nat) (big : Bool) : List (Nat × Nat × Nat × Nat) → Nat → Except Stop Nat
  | [], _ => .error (.fail stPermission va true)
  | (level, shift, w, _) :: rest, base =>
    let a := base + bits va shift w * 8
    if level = (if big then 1 else 0) then .ok a
    else if s.poisoned a 8 then .error (.ctxFault va level true)
    else
      let e := s.rdLE a 8
      if !bitOf e 0 then .error (.pageFault va level true)
      else if entryMalformed level e || bitOf e 1 then .error (.fail stPermission va true)
      else s.leafSlot va big rest (bits e 16 35 * 256)

def State.leafAddr (s : State) (ctx va : Nat) (big : Bool) : Except Stop Nat :=
  s.leafSlot va big walkLevels (s.rd CTX_PT_ROOT_ROOT ctx * 8192)

/-- A write touches the leaf of a page of an object (R465). -/
def State.hitsLeaf (s : State) (o : Obj) (gpa n : Nat) : Bool :=
  o.pages.any (fun p => match s.leafAddr o.ctx p.1 o.big with
    | .ok a => overlaps (gpaOf s.dev a) 8 gpa n
    | .error _ => false)

/-- What a write of a span spoils: the pools whose structures it touches (R309; 0 to 15), the checkpoint whose bitmap it touches while the
unit is not IDLE (R491; 16), and the objects of which it touches a leaf (R465; 32 and their numbers). -/
def State.spoiledBy (s : State) (gpa n : Nat) : List Nat :=
  (List.range 16).filter (fun p => s.is ROS_POOL_CTL_ENABLE 0 p &&
    (s.poolSpans p).any (fun x => (spanPages x.2.1 x.2.2).any (fun q => match s.translate x.1 q.1 .read with
      | .ok y => overlaps y.gpa q.2 gpa n
      | .error _ => false))) ++
  (if s.rd MMU_CKPT_STAT_STATE ≠ 0 ∧ overlaps (gpaOf s.dev (s.rd MMU_CKPT_BASE)) 5111808 gpa n = true then [16] else []) ++
  (s.objs.filter (fun o => s.hitsLeaf o.2 gpa n)).map (fun o => 32 + o.1)

/-- The contents of an object are undefined, as far as they lie on this device (R465, log 20). -/
def State.undefineObj (s : State) (o : Obj) : State :=
  o.frames.foldl (fun (t : State) f => if gpaDev (f * 65536) = t.dev then t.undefine (gpaLocal (f * 65536)) 65536 else t) s

/-- An agent other than the roster and the tier manager writes a span: an object whose leaf it touches has undefined contents (R465), and the
results of a pool or of a checkpoint that it spoils are undefined from then on (R309, R491). -/
def State.spoilPools (s : State) (gpa n : Nat) : State :=
  let bad := (s.spoiledBy gpa n).filter (fun p => !s.wildPools.contains p)
  if bad.isEmpty then s
  else
    let t := bad.foldl (fun (t : State) k => if k < 32 then t else match Tab.find s.objs (k - 32) with
      | some o => t.undefineObj o
      | none => t) s
    { t with wildPools := t.wildPools ++ bad.filter (fun k => decide (k < 32)) }

/-- Writes a span of one page at its global physical address, after its checks. -/
def State.writeGpa (s : State) (owner : Owner) (ctx gpa wop : Nat) (sched : Bool) (data : List Byte) : State :=
  let s := s.rcWrite owner gpa data.length
  let s := if owner == .agent .roster then s else s.spoilPools gpa data.length
  if gpaDev gpa = s.dev then
    let a := gpaLocal gpa
    match (regionOf a).1 with
    | .tokens => s.changeTok (tokOfAddr a) (BitVec.ofNat 32 (leNat data)) sched
    | .window => s.queueRegWrite (.device s.dev) (a - 0x40080000000) data
    | .host =>
      let r := s.hostPut ctx a data
      if statusOk r.1 then r.2 else r.2.failedHere owner ctx a sched r.1
    | _ => (s.store a wop sched data).account ctx a data.length
  else (s.noteMoves gpa data.length).remotePut owner ctx sched gpa data

/-- Writes the pieces of a span. -/
def State.writePieces (s : State) (owner : Owner) (ctx : Nat) (sched : Bool) (data : List Byte) :
    List (Nat × Nat) → State
  | [] => s
  | (va, n) :: t =>
    match s.translate ctx va .write with
    | .error _ => s.writePieces owner ctx sched (data.drop n) t
    | .ok x => (s.writeGpa owner ctx x.gpa x.wop sched (data.take n)).writePieces owner ctx sched (data.drop n) t

/-- Writes bytes of a context from a virtual address on, after `checkWrites`. -/
def State.writeV (s : State) (owner : Owner) (ctx va : Nat) (sched : Bool) (data : List Byte) : State :=
  s.writePieces owner ctx sched data (spanPages va data.length)

/-- Makes a list of writes. -/
def State.writeAll (s : State) (owner : Owner) (ctx : Nat) (sched : Bool) : List Write → State
  | [] => s
  | w :: t => (s.writeV owner ctx w.va sched w.data).writeAll owner ctx sched t

/-- The bytes that an agent asked for are used up, and what is still on its way to it is discarded when it comes. -/
def State.clearArrived (s : State) (ag : Agent) : State :=
  let led (x : Arrived) : Bool := s.mcast.any (fun p => .core p.2 == ag && .core p.1 == x.agent && x.data.isEmpty)
  { s.detach (fun o => o == .agent ag) with
    arrived := s.arrived.filter (fun x => x.agent != ag)
    asked := s.asked.filter (fun x => x.agent != ag && !led x)
    mcast := s.mcast.filter (fun p => .core p.1 != ag && .core p.2 != ag)
    hostReads := s.hostReads.filter (fun x => x.2.agent != some ag || x.2.packet.isSome) }

/-- Reads host memory through a host window of this front device (R586, R591). -/
def State.hostGet (s : State) (ctx : Nat) (ag : Option Agent) (pk : Option (Nat × Packet)) (a n : Nat) : State :=
  let i := (a - 0x60000000000) / 0x2000000000
  { s with
    hostOut := s.hostOut ++ [HostOut.read ctx (s.rd HIF_HWIN_BUS_BASE 0 i * 4096 + (a - 0x60000000000) % 0x2000000000) n s.nextTag]
    hostReads := Tab.put s.hostReads s.nextTag
      { packet := pk, agent := ag, addr := a, len := n, due := s.clock + 40000000 * 16 }
    nextTag := s.nextTag + 1 }

/-- Asks for a span that lies on another device or in host memory, once (R551). -/
def State.askSpan (s : State) (ag : Agent) (ctx : Nat) (sched : Bool) (gpa n : Nat) : State :=
  if s.asked.any (fun x => x.agent == ag && x.addr == gpa) then s
  else
    let s : State := { s with asked := { agent := ag, addr := gpa, data := [] } :: s.asked }
    if gpaDev gpa = s.dev then s.hostGet ctx (some ag) none (gpaLocal gpa) n
    else
      let ps := pieces2K (gpaLocal gpa) n
      let (op, s) := s.openOp (.agent ag) ctx ps.length sched false none
      s.getPieces op ctx sched gpa none ps

/-- Cuts `n` bytes into pieces of at most `k`: offset and length of each. -/
def piecesOf (k n : Nat) : List (Nat × Nat) := (List.range (ceilDiv n k)).map (fun i => (i * k, min k (n - i * k)))

/-- Bytes of buffer in which a DMA channel receives what it reads: BUF_SHARE units of 4 KiB (R503, R504). -/
def State.bufBytes (s : State) (e ch : Nat) : Nat := s.dmaRd e ch CDM_CH_CTL_BUF_SHARE HDM_CH_CTL_BUF_SHARE * 4096

/-- Bytes that an agent may have on their way at once (R503, R504): the share of a DMA channel, or the two units of a seat lane, which a
seat's COPY and TRANSPOSE_COPY use. -/
def State.shareOf (s : State) (ag : Agent) (n : Nat) : Nat :=
  match ag with
  | .chan e ch => s.bufBytes e ch
  | .core i => match (s.core i).run with
    | some r => if fieldLE r.raw 0 1 = 1 ∨ fieldLE r.raw 0 1 = 2 then 8192 else n
    | none => n
  | _ => n

/-- Asks for bytes that lie on another device or in host memory. An agent with a share of a buffer has at most that share on their way: it
asks for the next part of the span once the part before has come (R99, R504). -/
def State.ask (s : State) (ag : Agent) (ctx : Nat) (sched : Bool) (gpa n : Nat) : State :=
  match (piecesOf (s.shareOf ag n) n).find? (fun p => (s.arrivedAt ag (gpa + p.1) p.2).isNone) with
  | some p => s.askSpan ag ctx sched (gpa + p.1) p.2
  | none => s.askSpan ag ctx sched gpa n

/-! ### Lookups in the read cache (R394 to R398) -/

/-- A lookup of a sector in the read cache of a crew: a hit gives what the line holds. A miss takes the sector from memory, when it lies
on this device, and fills the cache. A line with a check-bit error is a miss and is dropped (R398). -/
def State.rcLookup (s : State) (crew sec : Nat) : State × Option (List Byte) :=
  let here : Option (List Byte) := if gpaDev (32 * sec) = s.dev then some (s.rdLocal (gpaLocal (32 * sec)) 32) else none
  let miss (t : State) : State × Option (List Byte) :=
    let t := t.bump CST_PC_RC_MISSES 1 crew
    match here with
    | some d => (t.rcFill crew sec d, some d)
    | none => (t, none)
  if !s.is CST_RC_CTL_ENABLE crew then miss s
  else match s.rcFind crew sec with
    | none => miss s
    | some (k, l) =>
      if l.bad then miss ({ s.errCorr .cst crew with rcache := Tab.del s.rcache k, faultsMet := s.faultsMet ++ [{ kind := 5, block := crew, pos := k % 16 }] })
      else if (l.sector sec).isEmpty then miss s
      else (s.bump CST_PC_RC_HITS 1 crew, some (l.sector sec))

/-- The lookups of a read, sector by sector: what they bring goes to the agent; a sector of another device that misses is asked for, with
the sectors beside it, and kept when it comes. -/
def State.lookups (s : State) (ag : Agent) (crew ctx : Nat) (sched : Bool) (gpa n : Nat) : State :=
  let first := gpa / 32
  let k := (gpa + n + 31) / 32 - first
  if s.asked.any (fun x => x.agent == ag && x.addr == 32 * first) then s
  else
    let r := (List.range k).foldl (fun (p : State × List (Option (List Byte))) j =>
      let q := p.1.rcLookup crew (first + j)
      (q.1, p.2 ++ [q.2])) (s, [])
    if r.2.all (fun d => d.isSome) then
      { r.1 with arrived := { agent := ag, addr := 32 * first, data := r.2.flatMap (fun d => d.getD []) } :: r.1.arrived }
    else
      let t := r.1.ask ag ctx sched (32 * first) (32 * k)
      { t with asked := t.asked.map (fun x =>
          if x.agent == ag && x.addr == 32 * first then { x with cached := s.is CST_RC_CTL_ENABLE crew } else x) }

/-- Bytes that have come for an agent: its crew's read cache keeps those that it had asked for through it (R394). -/
def State.rcKeep (s : State) (x : Arrived) : State :=
  match agentCrew x.agent with
  | some c =>
    if s.asked.any (fun a => a.agent == x.agent && a.cached && decide (a.addr ≤ x.addr)) then
      (List.range (x.data.length / 32)).foldl (fun (t : State) j => t.rcFill c (x.addr / 32 + j) ((x.data.drop (32 * j)).take 32)) s
    else s
  | none => s

/-! ### Page faults -/

/-- A PUT of the device itself at a global physical address without translation (R590): on this device it has the checks and the effect
of a PUT that comes from another one (R37). -/
def State.putWord (s : State) (owner : Owner) (ctx gpa : Nat) (w : List Byte) : State :=
  if gpaDev gpa = s.dev then
    match s.checkLocal s.dev ctx (gpaLocal gpa) w.length .put with
    | .error st => s.failedHere owner ctx (gpaLocal gpa) false st
    | .ok () => s.writeGpa owner ctx gpa 0 false w
  else s.remotePut owner ctx false gpa w

/-- Sends the MSI-X message of a vector of a context (R590): a PUT, without translation, of the vector word to DEV_INT_ADDR. A
PUT that fails is counted in the DEV page. -/
def State.msix (s : State) (ctx vector : Nat) : State :=
  s.putWord .message ctx (s.rd DEV_INT_ADDR) (leBytes (vector + ctx * 65536) 4)

/-- A core's read that faulted was its crew's page reader's: a page or scale slot of a pool, for ATTN or ATTN_VERIFY (R293, R481). -/
def State.byReader (s : State) (i : Nat) (f : FaultSlot) : Bool :=
  let attends := match (s.core i).run with
    | some r => [0x18, 0x19].contains (fieldLE r.raw 0 1)
    | none => false
  let inside (lo n : Nat) : Bool := decide (lo ≤ f.va) && decide (f.va < lo + n)
  !f.write && attends && (List.range 16).any (fun p => s.is ROS_POOL_CTL_ENABLE 0 p && s.rd ROS_POOL_CTL_CONTEXT 0 p == f.ctx &&
    (inside (s.rd ROS_POOL_PAGE_BASE 0 p) (s.rd ROS_POOL_SIZE_SIZE 0 p * 65536) ||
      inside (s.rd ROS_POOL_SCALE_BASE 0 p) (s.rd ROS_POOL_SIZE_SIZE 0 p * 4096)))

/-- The fault record of a slot (R481). PAGE_2M stays 0: the entry at which the walk of a page fault stops is not VALID, so it maps no
2 MiB page (DEDUCED, log 53). -/
def faultRecord (s : State) (slot : Nat) (f : FaultSlot) : List Byte :=
  let (kind, crew, unit, id) := match f.agents.head? with
    | some (.core i, n) => (if s.byReader i f then 3 else 0, i / 9, (s.seatOf i).getD 0, n)
    | some (.chan 16 ch, n) => (4, 0, ch, n)
    | some (.chan e ch, n) => (2, e, ch, n)
    | some (.cox c, n) => (1, c, 0, n)
    | some (.roster, n) => (5, 0, 0, n)
    | some (.tier, n) => (6, 0, 0, n)
    | some (.tasks, n) => (7, 0, 0, n)
    | some (.host, n) => (7, 0, 0, n)
    | none => (7, 0, 0, 0)
  leBytes f.status 1 ++ leBytes kind 1 ++ leBytes (f.ctx + b2n f.write * 64) 1 ++ leBytes f.level 1 ++
    leBytes (slot + Tab.look s.slotGen slot 0 * 256) 2 ++ leBytes (crew + unit * 16) 1 ++ leBytes 0 1 ++
    leBytes f.va 8 ++ leBytes f.stroke 8 ++ leBytes id 2 ++ leBytes 0 6

/-- Writes the record of a slot to the fault ring, or leaves it unreported (R482, R483). A record whose page may not be written yet, under
WSTALL or protection, is left for the next FAULT_RING_FLUSH (R475 points 7 and 8). -/
def State.reportFault (s : State) (slot : Nat) : State :=
  match Tab.find s.slots slot with
  | none => s
  | some f =>
    let size := 2 ^ s.rd MMU_FAULT_RING_CTL_SIZE_LOG2
    let tail := s.rd MMU_FAULT_TAIL
    let full := (tail + 2 ^ 32 - s.rd MMU_FAULT_HEAD) % 2 ^ 32 == size
    if full || !s.is MMU_FAULT_RING_CTL_ENABLE || s.is MMU_FAULT_OUT_RING_ERR then s.on MMU_FAULT_OUT_OVERFLOW
    else
      let va := s.rd MMU_FAULT_RING_BASE + tail % size * 32
      match s.checkWrites 0 [{ va := va, data := leBytes 0 32 }] with
      | .error .wait => s
      | .error (.frame _) => s
      | .error _ => (s.on MMU_FAULT_OUT_RING_ERR).on MMU_FAULT_OUT_OVERFLOW
      | .ok () =>
        let s := s.writeV .message 0 va false (faultRecord s slot f)
        let s : State := { s with slots := Tab.put s.slots slot { f with reported := true } }
        (s.bump MMU_FAULT_TAIL).msix 0 (s.rd MMU_FAULT_RING_CTL_VECTOR)

/-- A page fault of an agent's access is outstanding: the agent goes on once it is resumed (R476). -/
def State.faultHeld (s : State) (p : FaultSlot → Agent × Nat → Bool) : Bool :=
  let has (f : FaultSlot) : Bool := f.status == stPageFault && f.agents.any (p f)
  s.slots.any (fun f => has f.2) || s.slotless.any has

/-- The number under which a cue waits at a page fault (R476): its CUE_ID (or the roster's ID) in the low 16 bits, as the fault
record shows it, then its place in the sheet and its crew. -/
def cueTag (c idx id : Nat) : Nat := id % 65536 + (c * 65536 + idx + 1) * 65536

/-- A cue waits at a page fault on its descriptor, record or remote operation, or on the child records of its FORK (R476). -/
def State.cueWaits (s : State) (c idx : Nat) : Bool :=
  let mine (f : FaultSlot) : Bool :=
    f.agents.any (fun a => (a.1 == .cox c || a.1 == .roster) && a.2 / 65536 == c * 65536 + idx + 1)
  s.slots.any (fun f => mine f.2) || s.slotless.any mine

/-- An agent has taken a page fault (R480): it joins the slot of its page and class, takes the lowest free slot, or stalls
without one. A cox has one fault for each cue that waits. -/
def State.takeFault (s : State) (ag : Agent) (ctx va level : Nat) (write : Bool) (id : Nat) : State :=
  match s.slots.find? (fun f => f.2.ctx == ctx && f.2.page == va / 65536 && f.2.write == write) with
  | some (n, f) =>
    if f.agents.contains (ag, id) then s
    else { s with slots := Tab.put s.slots n { f with agents := f.agents ++ [(ag, id)] } }.bump MMU_PC_JOINED
  | none =>
    let f : FaultSlot := { ctx := ctx, page := va / 65536, va := va, write := write, level := level, reported := false,
                           agents := [(ag, id)], stroke := s.stroke }
    match (List.range 256).find? (fun n => (Tab.find s.slots n).isNone) with
    | none => if s.slotless.any (fun g => g.agents.contains (ag, id)) then s else { s with slotless := s.slotless ++ [f] }
    | some n =>
      let s : State := { s with slots := Tab.put s.slots n f, slotGen := Tab.put s.slotGen n ((Tab.look s.slotGen n 0 + 1) % 256) }
      ((s.bump MMU_PC_FAULTS).bump MMU_FAULT_OUT_COUNT).reportFault n

/-- Marks an area of a context undefined where it lies on this device (R147, R233, R295, R363). -/
def State.undefineV (s : State) (ctx va n : Nat) : State :=
  (spanPages va n).foldl (fun (t : State) (p : Nat × Nat) =>
    match t.translate ctx p.1 .read with
    | .ok x => if gpaDev x.gpa = t.dev ∧ (regionOf (gpaLocal x.gpa)).1 = .scratch then t.undefine (gpaLocal x.gpa) p.2 else t
    | .error _ => t) s

/-- The areas of a command are undefined (R147, R233, R295, R363). -/
def State.undefineAreas (s : State) (ctx : Nat) (r : Run) : State :=
  r.areas.foldl (fun (t : State) p => t.undefineV ctx p.1 p.2) s

/-- A command's partial-sum and work areas are undefined once the command has ended, however it ended (R147, R233, R295, R363). -/
def State.undefineRun (s : State) (i : Nat) : State :=
  match (s.core i).block, (s.core i).run with
  | some b, some r =>
    let s := s.undefineAreas b.ctx r
    if r.spot.2 = 0 then s else s.undefine r.spot.1 r.spot.2
  | _, _ => s

/-- A context is marked lost (0x7E; R444, R487, R489). -/
def State.markLost (s : State) (ctx : Nat) : State :=
  ({ s with lost := ctx :: s.lost, ctxFaults := ctx :: s.ctxFaults } : State).setCtxState ctx 5

/-- The record of a context fault (R487): it is written in a slot, which is free again then; where the ring has no room the slot waits, and
where no slot is free the record does (R480, R483). -/
def State.reportLost (s : State) (f : FaultSlot) : State :=
  match (List.range 256).find? (fun n => (Tab.find s.slots n).isNone) with
  | none => { s with slotless := s.slotless ++ [f] }
  | some n =>
    let t : State := { s with slots := Tab.put s.slots n f, slotGen := Tab.put s.slotGen n ((Tab.look s.slotGen n 0 + 1) % 256) }
    let t := t.reportFault n
    match Tab.find t.slots n with
    | some g => if g.reported then { t with slots := Tab.del t.slots n } else t.bump MMU_FAULT_OUT_COUNT
    | none => t

/-- A context fault, met by an agent at a level of the walk, marks the context lost (R487). -/
def State.loseContext (s : State) (ctx va level : Nat) (write : Bool) (ag : Agent) (id : Nat) : State :=
  if s.lost.contains ctx then s
  else (s.markLost ctx).reportLost { ctx := ctx, page := va / 65536, va := va, write := write, level := level, reported := false
                                     agents := [(ag, id % 65536)], status := stLost, stroke := s.stroke }

end Sys2Proof.Machine
end

