-- ==== Sys2Proof/Machine/Saves.lean ====
section
/-!
DEFINITION. The request to save a seat (R604, R605, R610): at the curtain, for an urgent task, or at the pre-emption of a context.
The save itself and the restore are in Tasks.lean.
-/
namespace Sys2Proof.Machine

/-- Seat slots of a context's wings that hold a save, or that a save under way will take (R612). -/
def State.slotsTaken (s : State) (ctx : Nat) : Nat :=
  (s.saved.filter (fun a => a.2.ctx == ctx && decide (a.2.slot < 128))).length +
  (s.cores.filter (fun c => c.2.saving == 1 && (match c.2.block with | some b => b.ctx == ctx | none => false))).length

/-- Time of some core cycles at the operating point in effect, in ns (R662). -/
def State.cyclesNs (s : State) (n : Nat) : Nat := n * 20 / (3 * (10 - s.rd PWR_CLOCK_POINT))

/-- The save of a seat starts: it is logged with status 0x40 and counted (R610, R613). -/
def State.noteSave (s : State) (i ctx : Nat) (step : Bool) : State :=
  let seat := 8 * (i / 9) + (s.seatOf i).getD 0
  let s := (s.logEv .hif 0 0x501 0 stPreempted (ctx + seat * 2 ^ 8 + (if step then 2 else 1) * 2 ^ 16)).bump CTX_PC_PREEMPTS 1 ctx
  if step then s.bump HIF_PC_STEP_SAVES else s.bump HIF_PC_BOUNDARY_SAVES

/-- A seat is to be saved (R605): within the horizon, or without a free seat slot, it finishes its command first; else it stops at its
next step boundary, where one that waits for a fault already stands (R477). The curtain takes the step save where a slot is free; a
restore that it meets is given up, and its save stands. -/
def State.requestSave (s : State) (i : Nat) (curtain : Bool) : State :=
  let x := s.core i
  match x.block with
  | none => s
  | some b =>
    if x.saving = 3 ∧ curtain then s.setCore i default
    else if x.saving ≠ 0 ∨ (b.kind = 2 ∧ x.error.isSome ∧ b.count ≤ b.pos) then s
    else
      let noSlot := decide (s.rd CTX_WINGS_CFG_SEAT_SLOTS b.ctx ≤ s.slotsTaken b.ctx)
      let h := s.rd HIF_PREEMPT_HORIZON_NS
      let soon := !curtain && !x.stalled && h != 0 && decide (s.cyclesNs (s.rd CORE_STEPS_LEFT i * 512) ≤ h)
      if noSlot || soon then s.setCore i { x with saving := 2 }
      else (s.setCore i { x with saving := 1 }).noteSave i b.ctx true

/-- At the curtain every seat that runs a task is saved (R57, R605). -/
def State.curtainSaves (s : State) : State :=
  s.cores.foldl (fun (t : State) c =>
    match c.2.block with
    | some b => if b.kind = 2 then t.requestSave c.1 true else t
    | none => t) s

end Sys2Proof.Machine
end

