-- ==== Sys2Proof/Machine/Stroke.lean ====
section
/-!
DEFINITION. The stroke unit: starting and stopping a run, the messages of the broadcast tree, late crews, hold water
(R50 to R70, R100 to R109, R744 to R748). The catch itself is in Catch.lean.
-/
namespace Sys2Proof.Machine

/-! ### Shared operations -/

/-- An ignored write of the STK page (R51, R52, R746). -/
def State.stkCfgErr (s : State) : State := (s.on STK_STAT_CFG_ERR).cfgErr .stk

/-- The device is the starter (R744). -/
def State.starter (s : State) : Bool := s.is STK_CTL_STARTER

/-- The stretch limit in ns (R103). -/
def State.stretchLimit (s : State) : Nat := s.rd STK_STRETCH_MAX_PERMILLE * s.rd STK_PERIOD_NS / 1000

/-- The parameters of R50 lie in their ranges, and none was written with a value that exceeds its field (R744). -/
def State.stkParamsOk (s : State) : Bool :=
  let p := s.rd STK_PERIOD_NS
  let l := s.rd STK_LEAD_NS
  let d := s.rd STK_DRIVE_NS
  decide (10000 ≤ p) && decide (p ≤ 1000000000) && decide (500 ≤ l) && decide (l ≤ 20000) &&
  decide (1000 ≤ d) && decide (d + max (2 * l) 2000 ≤ p) &&
  decide (100 ≤ s.rd STK_QUANTUM_NS) && decide (s.rd STK_QUANTUM_NS ≤ 100000) &&
  decide (s.rd STK_STRETCH_MAX_PERMILLE ≤ 500) &&
  decide (1000 ≤ s.rd STK_CATCH_TIMEOUT_NS) && decide (s.rd STK_CATCH_TIMEOUT_NS ≤ 1000000000) &&
  decide (1 ≤ s.rd STK_MEMBERS_COUNT) && decide (s.rd STK_MEMBERS_COUNT ≤ 512) && s.wideParams.isEmpty

/-- The COX registers of a crew lie in their ranges (R50, R751). -/
def State.coxParamsOk (s : State) (c : Nat) : Bool :=
  let st := s.rd COX_SHEET_STRIDE_BYTES c
  let n := s.rd COX_SHEET_COUNT_COUNT c
  s.rd COX_SHEET_BASE c % 64 == 0 && decide (1 ≤ n) && decide (n ≤ 65536) &&
  ((st == 0 && n == 1) || (st % 64 == 0 && decide (128 ≤ st) && decide (st ≤ 4194368)))

/-- A status record (R679): status, origin, identifier, flags, stroke, detail. -/
def statusRecord (status origin id flags stroke : Nat) (detail : List Byte) : List Byte :=
  leBytes status 1 ++ leBytes origin 1 ++ leBytes id 2 ++ leBytes flags 4 ++ leBytes stroke 8 ++
    (detail ++ leBytes 0 16).take 16

/-- Writes a cue's status record when its pages can be written; whether it was written. -/
def State.putRecord (s : State) (c ctx va : Nat) (rec : List Byte) : Bool × State :=
  match s.checkWrites ctx [{ va := va, data := rec }] with
  | .ok () => (true, s.writeV (.agent (.cox c)) ctx va true rec)
  | .error _ => (false, s)

/-- The cores, coxes and channels stop at their boundaries, and recovery work stops (R106). -/
def State.stopUnits (s : State) : State :=
  { s with
    coxes := s.coxes.map (fun x => (x.1, { x.2 with stopped := true }))
    cores := s.cores.map (fun x => (x.1, { x.2 with held := true }))
    chans := s.chans.map (fun x => (x.1, { x.2 with stopped := true })) }

/-- Every core that holds a block shows STATE 4, stopped at hold water (R174), and an active channel between descriptors STATE 3
(R521, R527). -/
def State.showHeld (s : State) : State :=
  let s := s.cores.foldl (fun (t : State) x => if x.2.block.isSome then t.wr CORE_STATE_STATE 4 x.1 else t) s
  s.chans.foldl (fun (t : State) x =>
    if x.2.desc.isNone ∧ t.chState (x.1 / 32) (x.1 % 32) = 1 then t.setChState (x.1 / 32) (x.1 % 32) 3 else t) s

/-- The stopped units go on (R108). -/
def State.startUnits (s : State) : State :=
  let s : State := { s with
    coxes := s.coxes.map (fun x => (x.1, { x.2 with stopped := false }))
    cores := s.cores.map (fun x => (x.1, { x.2 with held := false }))
    chans := s.chans.map (fun x => (x.1, { x.2 with stopped := false })) }
  let s := s.chans.foldl (fun (t : State) x =>
    if t.chState (x.1 / 32) (x.1 % 32) = 3 then t.setChState (x.1 / 32) (x.1 % 32) 1 else t) s
  s.cores.foldl (fun (t : State) x =>
    if x.2.block.isSome then
      t.wr CORE_STATE_STATE (if x.2.stalled then 3 else if x.2.wait.isSome then 2 else 1) x.1
    else t) s

/-- Hold water (R106): from RUNNING, the units stop, the status is logged and shown, and BLK_INT_STAT.HOLD is set. A catch
scheduled and not reached does not take place. -/
def State.holdWater (s : State) (status requester : Nat) : State :=
  if s.stkState = 2 then
    let s := s.stopUnits.showHeld
    let s : State := { s with stk := { s.stk with due := none, seen := [], emitted := none, curtain := true } }
    ((s.wr STK_STAT_STATE 3).wr STK_STAT_HOLD_STATUS status).logEv .stk 0 0x103 3 status requester |>.cause .stk 8
  else s

/-- The starter orders hold water (R58, R104): it broadcasts HOLD and holds itself. -/
def State.orderHold (s : State) (status requester : Nat) : State :=
  (s.broadcast { noMsg with code := 6, status := status, num := s.stroke, dev := requester } none).holdWater status requester

/-- Every LATE of the current stroke has been matched by a DONE (R103). -/
def State.latesMatched (s : State) : Bool := s.stk.lates.all (fun l => l.2 != s.stroke)

/-- What a device does with a CATCH that it acts on: it schedules its catch, adds the stretch and lets the curtain fall
(R57, R61, R748). -/
def State.scheduleCatch (s : State) (at' num stretch : Nat) : State :=
  let s : State := { s with stk := { s.stk with due := some (at', num), curtain := true } }
  let s := s.curtainSaves.bump STK_STRETCH_TOTAL stretch
  if 0 < stretch then s.bump STK_STRETCH_COUNT else s

/-- The starter emits a CATCH (R59, R69): ELAPSED 0, the stretch given; its own catch falls STK_LEAD later. -/
def State.emitCatch (s : State) (num stretch : Nat) : State :=
  let s := s.broadcast { noMsg with code := 2, num := num, b := stretch, tag := s.rd STK_SCHEDULE_ID % 2 ^ 32 } none
  let s : State := { s with stk := { s.stk with emitted := some num, k := 0 } }
  s.scheduleCatch (s.clock + s.rd STK_LEAD_NS * 16) num stretch

/-- After a RESUME the starter emits the next CATCH as soon as every LATE is matched, not before the drive has ended (its LATE
messages are still to come until then, R100) nor before T + P - L; STRETCH carries
the delay beyond T + P (R108). -/
def State.emitResumed (s : State) : State :=
  let nominal := s.stk.catchAt + (s.rd STK_PERIOD_NS - s.rd STK_LEAD_NS) * 16
  if s.starter ∧ s.stkState = 2 ∧ s.stk.ended ∧ s.stk.resumed.isSome ∧ s.stk.due = none ∧ s.stk.stopping = none ∧ s.latesMatched ∧
      nominal ≤ s.clock then
    s.emitCatch ((s.stroke + 1) % 2 ^ 64) ((s.clock - nominal) / 16)
  else s

/-- The starter has emitted the CATCH of the stroke after `num`, or of a later one (R102); numbers wrap. -/
def State.emittedAfter (s : State) (num : Nat) : Bool :=
  match s.stk.emitted with
  | some e => decide ((e + (2 ^ 64 - (num + 1) % 2 ^ 64)) % 2 ^ 64 < 2 ^ 63)
  | none => false

/-- The starter takes a message of R58 that was sent to it. What a HOLD_REQ does to a starter that is not RUNNING the rules do not
say: it has no effect (DESIGN CHOICE, log 39). -/
def State.starterTake (s : State) (m : StrokeMsg) : State :=
  if !s.starter then s
  else if m.code = 1 then
    let s := s.wr STK_READY_MAP (s.rd STK_READY_MAP 0 (m.dev / 32) ||| 2 ^ (m.dev % 32)) 0 (m.dev / 32)
    { s with stk := { s.stk with readys := Tab.put s.stk.readys m.dev (m.num, m.a, m.b) } }
  else if m.code = 3 then
    let s : State := { s with stk := { s.stk with lates := s.stk.lates ++ [(m.dev, m.num)] } }
    if s.emittedAfter m.num then s.orderHold stOverrun m.dev else s
  else if m.code = 4 then
    { s with stk := { s.stk with lates := s.stk.lates.filter (fun l => l != (m.dev, m.num)) } }.emitResumed
  else if m.code = 5 then
    if s.stkState = 2 then s.orderHold m.status m.dev else s
  else s

/-- Sends a message to the starter (R58). A message that cannot be routed is logged; a lost HOLD_REQ puts the device into
hold water (R786). -/
def State.toStarter (s : State) (m : StrokeMsg) : State :=
  if s.starter then s.starterTake m
  else match s.sendRouted (strokePkt s (Config.starterId % 512) 0 m) with
    | some t => t
    | none =>
      let s := s.logEv .dev 0 0x301 2 stUnreachable (packetHead (strokePkt s (Config.starterId % 512) 0 m))
      if m.code = 5 then s.holdWater m.status s.dev else s

/-- Requests hold water (R58). -/
def State.sendHoldReq (s : State) (status : Nat) : State :=
  s.toStarter { noMsg with code := 5, dev := s.dev, num := s.stroke, status := status }

/-- The READY records clear (R745). -/
def State.clearReady (s : State) : State := (List.range 16).foldl (fun t w => t.wr STK_READY_MAP 0 0 w) s

/-! ### Route table and special-function table (R400 to R404, R743) -/

/-- Swaps the copies of the route table (R401, R404). -/
def State.swapRoutes (s : State) : State :=
  { (((s.wr RT_CTL_FRONT (1 - s.rd RT_CTL_FRONT)).off RT_CTL_SEAL).off RT_CTL_PENDING) with routesF := s.routesB, routesB := s.routesF }

/-- Swaps the copies of the special-function tables (R401, R404): the first version is in force, and is the firmware version that the DEV
page reports, since that version identifies the table (R217; DEDUCED, log 45). -/
def State.swapSfu (s : State) : State :=
  { (((s.wr SFU_CTL_FRONT (1 - s.rd SFU_CTL_FRONT)).off SFU_CTL_SEAL).off SFU_CTL_PENDING).wr DEV_FW_VERSION s.sfuVer.2 with
    sfuVer := (s.sfuVer.2, s.sfuVer.1) }

/-- The swaps that a seal has asked for (R53, R401). -/
def State.swapTables (s : State) : State :=
  let s := if s.is RT_CTL_PENDING then s.swapRoutes else s
  if s.is SFU_CTL_PENDING then s.swapSfu else s


/-! ### The end of a run, and what abandons a stroke -/

/-- The device enters STOPPED: the starter's READY records clear (R66, R745), and no crew has a sheet any more. A
table that is sealed swaps now (R403). -/
def State.becomeStopped (s : State) : State :=
  { s.clearReady.swapTables.wr STK_STAT_STATE 0 with coxes := [], stk := { s.stk with
      due := none, seen := [], emitted := none, lates := [], readys := [], stopping := none, resumed := none,
      curtain := false, k := 0 } }

/-- Clears every stroke-scoped token (R91). -/
def State.clearScoped (s : State) : State := { s with tokens := s.tokens.filter (fun p => !tokScoped p.1) }

/-- A cue's status record on ABANDON (R109). -/
def State.abandonCue (s : State) (c ctx idx : Nat) (q : Cue) : State :=
  let x := s.cox c
  if x.done.contains idx ∨ q.statusPtr = 0 then s
  else (s.putRecord c ctx q.statusPtr (statusRecord stOverrun 0 q.id 0 s.stroke [])).2

/-- Abandons a crew's sheet (R109). -/
def State.abandonCrew (s : State) (c : Nat) : State :=
  let x := s.cox c
  let s := match x.cur with
    | none => s
    | some sh => sh.cues.zipIdx.foldl (fun (t : State) (q : Cue × Nat) => t.abandonCue c sh.ctx q.2 q.1) s
  ((((s.detach (fun o => match o with | .cue d _ => d == c | _ => false)).clearArrived (.cox c)).leaveSlots (.cox c)).forgetForks c).setCox c default

/-- A core gives up the block it holds (R109). -/
def State.giveUpCore (s : State) (i : Nat) : State :=
  ((((s.undefineRun i).detach (fun o => o == .core i)).clearArrived (.core i)).leaveSlots (.core i)).setCore i default

/-- A channel gives up the list of a cue (R109); one that drains has nothing left. -/
def State.giveUpCue (s : State) (e ch : Nat) : State :=
  let x := s.chan e ch
  let s := (((s.detach (fun o => o == .chan e ch)).clearArrived (.chan e ch)).leaveSlots (.chan e ch)).setChan e ch
    { (default : Chan) with bell := x.bell, force := x.force }
  if s.chState e ch ≤ 3 then s.setChState e ch 0 else s

/-- The scheduled work that lies saved is given up (R109): its slots are free again. Work of a task stays. -/
def State.giveUpSaved (s : State) : State :=
  let gone (a : Saved) : Bool := match a.what.block with | some b => b.kind != 2 | none => false
  let t : State := { s with saved := s.saved.filter (fun a => !gone a.2) }
  ((s.saved.filter (fun a => gone a.2)).map (fun a => a.2.ctx)).dedup.foldl (fun (u : State) c =>
    u.wr CTX_STAT_SEAT_SLOTS_USED (u.saved.filter (fun a => a.2.ctx == c && decide (a.2.slot < 128))).length c) t

/-- Hold water ends and the stroke is discarded (R109): what the stroke wrote is undefined before the records are written; unissued cues
and commands in progress are abandoned with 0x60, the scheduled work of a pre-empted context too; stroke-scoped tokens are cleared, and
the unit is STOPPED. No crew is late any more (log 38). -/
def State.abandonStroke (s : State) : State :=
  if s.stkState = 3 then
    let s := s.touched.foldl (fun t p => t.undefine p.1 p.2) s
    let s := (List.range 16).foldl (fun t c => t.abandonCrew c) s
    let s := s.cores.foldl (fun (t : State) x => match x.2.block with
      | some b => if b.kind = 2 then t else t.giveUpCore x.1
      | none => t) s
    let s := s.chans.foldl (fun (t : State) x => if x.2.cue.isSome then t.giveUpCue (x.1 / 32) (x.1 % 32) else t) s
    let s := s.giveUpSaved.startUnits
    let s := (List.range 144).foldl (fun t i => if (t.core i).block.isNone then t.off CORE_STATE_STATE i else t) s
    { (s.off STK_STAT_LATE).clearScoped.becomeStopped with touched := [] }
  else s

/-- RESUME: the device goes on from where it stopped; recovery work goes on in a drive that has ended (R108). -/
def State.resumeStroke (s : State) : State :=
  if s.stkState = 3 then
    let s := { s.startUnits with stk := { s.stk with resumed := some s.clock, curtain := false, seen := [] } }
    (s.wr STK_STAT_STATE 2).emitResumed
  else s

/-- STOP names the last stroke of the run (R70); a catch scheduled for another stroke does not take place. A device that holds water by
itself notes it too, and stops after it has resumed. -/
def State.noteStop (s : State) (last : Nat) : State :=
  if s.stkState = 2 ∨ s.stkState = 3 then
    let due := s.stk.due.filter (fun d => d.2 == last)
    { s with stk := { s.stk with stopping := some last, due := due, curtain := s.stk.curtain && due.isSome } }
  else s

/-- A crew has posted its done token (R89, R100): when the last late crew has, LATE clears and DONE leaves. -/
def State.crewDone (s : State) (c : Nat) : State :=
  let x := s.cox c
  let s := s.setCox c { x with ended := true, late := false }
  if x.late ∧ (List.range 16).all (fun d => !(s.cox d).late) then
    (s.off STK_STAT_LATE).toStarter { noMsg with code := 4, dev := s.dev, num := s.stroke }
  else s

/-! ### Stroke messages that have arrived -/

/-- The oldest packet of a virtual channel in a port's receive buffer (R537). -/
def State.headVc (s : State) (q vc : Nat) : Option (Nat × Packet) := (s.port q).rx.find? (fun e => e.2.vc == vc)

/-- The oldest VC3 packet of a port when it is a stroke message of a code; a message to the starter must be for this device
(R58). -/
def State.strokeAt (s : State) (q code : Nat) : Option (Nat × Packet) :=
  match s.headVc q 3 with
  | some (t, p) =>
    if p.type = ptStroke ∧ p.msg.code = code ∧ (code = 1 ∨ code = 3 ∨ code = 4 ∨ code = 5 → p.dst = s.dev) then some (t, p)
    else none
  | none => none

/-- Takes the oldest packet of a virtual channel out of the receive buffer; its cells are owed to the sender (R565). -/
def State.dropHead (s : State) (q vc : Nat) : State :=
  let x := s.port q
  match x.rx.find? (fun e => e.2.vc == vc) with
  | none => s
  | some e => s.setPort q { x with
      rx := x.rx.eraseP (fun e => e.2.vc == vc), owed := x.owed ++ [(vc, e.2.cls, packetCells e.2)] }

/-- Takes a stroke message of a code at a port and applies its effect. -/
def State.onStroke (s : State) (q code : Nat) (f : Nat → StrokeMsg → State → State) : State :=
  match s.strokeAt q code with
  | some (t, p) => f t p.msg (s.dropHead q 3)
  | none => s

/-- Forwards a broadcast (R58, R60). -/
def State.relay (s : State) (q : Nat) (m : StrokeMsg) : State := s.broadcast m (some q)

/-- A broadcast of the starter other than CATCH is passed on in every state, but each only once: a second copy of the same code and
stroke number, until a message that undoes the first has passed, is not (R58; the rules do not say how copies end, DESIGN CHOICE,
log 39). HOLD is undone by RESUME or ABANDON, and these by HOLD. -/
def State.relayOnce (s : State) (q : Nat) (m : StrokeMsg) : State :=
  if s.stk.relayed.contains (m.code, m.num) then s
  else
    let undoes (c : Nat) : Bool := if m.code = 6 then c == 7 || c == 8 else (m.code == 7 || m.code == 8) && c == 6
    { s.relay q m with stk := { s.stk with relayed := (m.code, m.num) :: s.stk.relayed.filter (fun r => !undoes r.1) } }

/-- The CATCH of a stroke number has been taken: it lies among the strokes of this run that have been caught, or an earlier copy of it
has arrived since the last hold (R63, log 39). -/
def State.catchSeen (s : State) (num : Nat) : Bool :=
  let back (n : Nat) : Nat := (n + (2 ^ 64 - s.rd STK_FIRST_STROKE % 2 ^ 64)) % 2 ^ 64
  s.stk.seen.contains num || ((s.stkState == 2 || s.stkState == 3) && decide (back num ≤ back s.stroke))

/-- The curtain (R57, R60 to R64, R68, R102): a CATCH that arrived at instant `t` on port `q`. R57 calls the arrival of a CATCH the curtain,
and R64 discards one of another number or tag: here the curtain falls only for a CATCH that the device acts on (DESIGN CHOICE, log 39). -/
def State.takeCatch (s : State) (q t : Nat) (m : StrokeMsg) : State :=
  let elapsed := m.a + s.rd LNK_LATENCY_LAT q
  let s := s.wr STK_LAST_ELAPSED elapsed
  if s.stkState = 0 ∨ s.catchSeen m.num then s
  else
    let s : State := { s with stk := { s.stk with seen := m.num :: s.stk.seen } }
    let s := s.relay q { m with a := elapsed + (s.clock - t) }
    let expected := if s.stkState = 1 then s.rd STK_FIRST_STROKE else (s.stroke + 1) % 2 ^ 64
    if s.stkState = 3 then s
    else if m.num ≠ expected ∨ m.tag ≠ s.rd STK_SCHEDULE_ID % 2 ^ 32 then s.sendHoldReq stInternal
    else if s.is STK_STAT_LATE then (s.sendHoldReq stOverrun).holdWater stOverrun s.dev
    else
      let lead := s.rd STK_LEAD_NS * 16
      let s := if lead ≤ elapsed then (s.on STK_STAT_CATCH_LATE).logEv .stk 0 0x101 2 0 elapsed else s
      s.scheduleCatch (t + (lead - elapsed)) m.num m.b

/-! ### Meanings -/

/-- RUN (R52, R66, R748). -/
def runEffect (s : State) : State :=
  if s.stkState ≠ 0 then s
  else if s.blk .stk == 1 && s.stkParamsOk && (List.range 16).all (fun c => s.coxParamsOk c) then
    let s := ((((((s.wr STK_STAT_STATE 1).wr STK_STRETCH_TOTAL 0).wr STK_STRETCH_COUNT 0).wr STK_STRAY_COUNT 0).wr
      STK_LATE_MASK_MASK 0).wr STK_GO_FAULT_DEV 0)
    let s := ((s.wr STK_GO_FAULT_CAUSE 0).wr STK_GO_FAULT_READY_COUNT 0).wr STK_GO_FAULT_VALID 0
    if s.starter then s
    else s.toStarter { noMsg with code := 1, dev := s.dev, num := s.rd STK_SCHEDULE_ID, a := s.rd DEV_FW_VERSION,
                                  b := s.rd STK_PERIOD_NS }
  else s.stkCfgErr

def execRun (s : State) : Host.Outcome State Fault Refusal := s.work true runEffect

/-- CLEAR_RUN (R66, R746): ARMED returns to STOPPED; in RUNNING or HOLDING the write is ignored. -/
def clearRunEffect (s : State) : State :=
  if s.stkState = 1 then s.becomeStopped else if s.stkState = 0 then s else s.stkCfgErr

def execClearRun (s : State) : Host.Outcome State Fault Refusal := s.work true clearRunEffect

/-- READY (R67, R745). -/
def execReady (port : Nat) (s : State) : Host.Outcome State Fault Refusal :=
  s.rails (s.strokeAt port 1).isSome (fun s => s.onStroke port 1 (fun _ m s => s.starterTake m))

/-- GO refused: GO_ERR, the cause, the device and the count (R67), and CFG_ERR as for every command that is not accepted
(R747; DEDUCED, log 51). -/
def State.goFault (s : State) (cause dev : Nat) : State :=
  ((((s.stkCfgErr.on STK_STAT_GO_ERR).wr STK_GO_FAULT_CAUSE cause).wr STK_GO_FAULT_DEV dev).wr STK_GO_FAULT_READY_COUNT
    s.stk.readys.length).on STK_GO_FAULT_VALID

/-- The cause of a READY that does not match the starter (R67). -/
def State.readyCause (s : State) (r : Nat × Nat × Nat) : Nat :=
  if r.1 ≠ s.rd STK_SCHEDULE_ID then 1 else if r.2.1 ≠ s.rd DEV_FW_VERSION then 2
  else if r.2.2 ≠ s.rd STK_PERIOD_NS then 3 else 0

/-- STK_CMD GO (R67, R69, R747). A catch is emitted once: a GO while the first one is scheduled is not accepted (DESIGN CHOICE, log 39).
Of several devices whose READY mismatches, R67's first one is the one with the lowest device ID, not the one whose READY came first
(DESIGN CHOICE, log 39). -/
def goEffect (s : State) : State :=
  if s.stkState ≠ 1 ∨ !s.starter ∨ s.stk.due.isSome then s.stkCfgErr
  else if s.stk.readys.length + 1 < s.rd STK_MEMBERS_COUNT then s.goFault 0 0
  else match s.stk.readys.find? (fun r => s.readyCause r.2 != 0) with
    | some r => s.goFault (s.readyCause r.2) r.1
    | none => s.emitCatch (s.rd STK_FIRST_STROKE) 0

def execStkCmdGo (s : State) : Host.Outcome State Fault Refusal := s.rails true goEffect

/-- STK_CMD STOP (R70, R747). -/
def stopCmdEffect (s : State) : State :=
  if s.stkState = 2 ∧ s.starter then (s.broadcast { noMsg with code := 9, num := s.stroke } none).noteStop s.stroke
  else s.stkCfgErr

def execStkCmdStop (s : State) : Host.Outcome State Fault Refusal := s.rails true stopCmdEffect

/-- STK_CMD RESUME (R107, R108, R747). -/
def resumeCmdEffect (s : State) : State :=
  if s.stkState = 3 ∧ s.starter then (s.broadcast { noMsg with code := 7, num := s.stroke } none).resumeStroke
  else s.stkCfgErr

def execStkCmdResume (s : State) : Host.Outcome State Fault Refusal := s.rails true resumeCmdEffect

/-- STK_CMD ABANDON (R107, R109, R747). -/
def abandonCmdEffect (s : State) : State :=
  if s.stkState = 3 ∧ s.starter then (s.broadcast { noMsg with code := 8, num := s.stroke } none).abandonStroke
  else s.stkCfgErr

def execStkCmdAbandon (s : State) : Host.Outcome State Fault Refusal := s.rails true abandonCmdEffect

/-- The instant at which hold water follows a missing CATCH (R65). -/
def State.catchTimeoutAt (s : State) : Nat :=
  match s.stk.resumed with
  | some t => t + s.rd STK_CATCH_TIMEOUT_NS * 16
  | none => s.stk.catchAt + (s.rd STK_PERIOD_NS + s.stretchLimit + s.rd STK_CATCH_TIMEOUT_NS) * 16

/-- CATCH_TIMEOUT (R65). A starter that times out orders hold water for all (R58). -/
def execCatchTimeout (s : State) : Host.Outcome State Fault Refusal :=
  s.rails (s.stkState == 2 && s.stk.due.isNone && s.stk.stopping != some s.stroke) (fun s =>
    ((s.at s.catchTimeoutAt).sendHoldReq stTimeout).holdWater stTimeout s.dev)

/-- DECISION_POINT (R59, R103, R104, R108): at T + P - L + k quanta the starter emits the next CATCH when every LATE is
matched, else it waits one quantum more, up to the stretch limit, and then orders hold water. -/
def decisionEffect (s : State) : State :=
  if s.stk.resumed.isSome then (s.at (s.stk.catchAt + (s.rd STK_PERIOD_NS - s.rd STK_LEAD_NS) * 16)).emitResumed
  else
    let k := s.stk.k
    let q := s.rd STK_QUANTUM_NS
    let s := s.at (s.stk.catchAt + (s.rd STK_PERIOD_NS - s.rd STK_LEAD_NS + k * q) * 16)
    if s.latesMatched then s.emitCatch ((s.stroke + 1) % 2 ^ 64) (k * q)
    else if (k + 1) * q ≤ s.stretchLimit then { s with stk := { s.stk with k := k + 1 } }
    else s.orderHold stOverrun s.dev

def execDecisionPoint (s : State) : Host.Outcome State Fault Refusal :=
  s.rails (s.starter && s.stkState == 2 && s.stk.ended && s.stk.due.isNone && s.stk.stopping.isNone) decisionEffect

/-- LATE (R102, R103). -/
def execLate (port : Nat) (s : State) : Host.Outcome State Fault Refusal :=
  s.rails (s.strokeAt port 3).isSome (fun s => s.onStroke port 3 (fun _ m s => s.starterTake m))

/-- DONE (R103, R108). -/
def execDoneMsg (port : Nat) (s : State) : Host.Outcome State Fault Refusal :=
  s.rails (s.strokeAt port 4).isSome (fun s => s.onStroke port 4 (fun _ m s => s.starterTake m))

/-- HOLD_REQ (R58). -/
def execHoldReq (port : Nat) (s : State) : Host.Outcome State Fault Refusal :=
  s.rails (s.strokeAt port 5).isSome (fun s => s.onStroke port 5 (fun _ m s => s.starterTake m))

/-- HOLD (R106). -/
def execHold (port : Nat) (s : State) : Host.Outcome State Fault Refusal :=
  s.rails (s.strokeAt port 6).isSome (fun s =>
    s.onStroke port 6 (fun _ m s => (s.relayOnce port m).holdWater m.status m.dev))

/-- RESUME (R108). -/
def execResume (port : Nat) (s : State) : Host.Outcome State Fault Refusal :=
  s.rails (s.strokeAt port 7).isSome (fun s =>
    s.onStroke port 7 (fun _ m s => (s.relayOnce port m).resumeStroke))

/-- ABANDON (R109). -/
def execAbandon (port : Nat) (s : State) : Host.Outcome State Fault Refusal :=
  s.rails (s.strokeAt port 8).isSome (fun s =>
    s.onStroke port 8 (fun _ m s => (s.relayOnce port m).abandonStroke))

/-- STOP (R70). -/
def execStop (port : Nat) (s : State) : Host.Outcome State Fault Refusal :=
  s.rails (s.strokeAt port 9).isSome (fun s =>
    s.onStroke port 9 (fun _ m s =>
      if s.stk.stopping = none then (s.relayOnce port m).noteStop m.num else s.relayOnce port m))

/-- CURTAIN (R57, R60 to R64). -/
def execCurtain (port : Nat) (s : State) : Host.Outcome State Fault Refusal :=
  s.rails (s.strokeAt port 2).isSome (fun s => s.onStroke port 2 (fun t m s => (if s.stkState = 0 then s else s.easyWake).takeCatch port t m))

/-- Recovery work stands at a boundary: no channel that runs a ring is within a descriptor (R521). A step is one act of the model, so a
seat is always between two of them; a channel paused by a page fault (R519) is not within its descriptor either (log 39). -/
def State.atBoundary (s : State) : Bool := s.chans.all (fun x => x.2.desc.isNone || x.2.cue.isSome || x.2.paused)

/-- ENTER_STOPPED (R70): the stroke that STOP named is the current one and has ended its drive, no crew is late, and recovery work
stands at a boundary. -/
def execEnterStopped (s : State) : Host.Outcome State Fault Refusal :=
  s.rails (s.stkState == 2 && s.stk.ended && s.stk.stopping == some s.stroke && (List.range 16).all (fun c => !(s.cox c).late) &&
    s.atBoundary) State.becomeStopped

end Sys2Proof.Machine
end

