-- ==== Sys2Proof/Machine/Seat.lean ====
section
/-!
DEFINITION. A seat and its block (R115, R128 to R131, R138 to R143): handing a block over, fetching the next command,
ending or failing a command, and what a step does when an access does not complete.
-/
namespace Sys2Proof.Machine

/-- Bits [63:49] of a pointer field are zero (R34). -/
def ptrOk (v : Nat) : Bool := decide (v < 2 ^ 49)

/-- Opcodes of R128. -/
def opcodes : List Nat :=
  [0x01, 0x02, 0x10, 0x11, 0x12, 0x13, 0x18, 0x19, 0x20, 0x21, 0x22, 0x23, 0x28, 0x29, 0x2A, 0x30, 0x31, 0x38, 0x40, 0x41,
   0x42, 0x48, 0x50, 0x51, 0x52]

/-- An opcode that a seat's block may hold: FORK, ADMIT and RELEASE are malformed there (R128, R129). -/
def seatOpcode (o : Nat) : Bool := opcodes.contains o && !(o == 0x40 || o == 0x41 || o == 0x42)

/-- Recovery work may run (R55 to R57): the drive has ended, and the curtain has not fallen, or the stroke unit is not
running a stroke; under EARLY_RECOVERY a crew that has posted its done token may start before the end of the drive. A late
crew starts only after its done token. -/
def State.recovery (s : State) (crew : Nat) : Bool :=
  if s.stkState = 3 ∨ s.stk.curtain then false
  else if s.stkState = 0 ∨ s.stkState = 1 then true
  else if s.stk.ended then (s.cox crew).ended || !(s.cox crew).late
  else s.is STK_CTL_EARLY_RECOVERY && (s.cox crew).ended

/-- A block of kind 2 is a task; the others are scheduled work (R94). -/
def Block.sched (b : Block) : Bool := b.kind != 2

/-- The context is urgent: its tasks run outside the recovery as well (R599, R614). -/
def State.urgent (s : State) (ctx : Nat) : Bool := s.is CTX_CTL_URGENT ctx

/-- The seat may work on its block now: no hold water (R106), it is enabled, not held, not stalled, not being saved, and a task's time has
come. -/
def State.canRun (s : State) (i : Nat) : Bool :=
  let x := s.core i
  match x.block with
  | none => false
  | some b => (s.blk .core i == 1 || s.blk .core i == 2) && s.stkState != 3 && !x.held && !x.stalled && (x.saving == 0 || (x.saving == 2 && x.run.isSome)) && x.cow.isNone &&
      (b.sched || s.recovery (i / 9) || s.urgent b.ctx)

/-- A seat is free (R81, R601): an enabled working seat with no block and no saved scheduled work. -/
def State.seatFree (s : State) (i : Nat) : Bool :=
  let x := s.core i
  s.blk .core i == 1 && x.block.isNone && x.saving == 0 && !s.holdsSaved i

/-- A seat whose block drains, is disabled or is off refuses new work with 0x41 (R717, R727). A retired or spare one leaves its cues
waiting (R623, R624). -/
def State.seatRefuses (s : State) (i : Nat) : Bool := s.blk .core i == 0 || s.blk .core i == 2 || s.blk .core i == 3

/-- Changes the core record. -/
def State.updCore (s : State) (i : Nat) (f : Core → Core) : State := s.setCore i (f (s.core i))

/-- Detail bytes of a LAUNCH or task record (R679): CMD_ID, seat, index of the failing command. -/
def launchDetail (cmdId seat pos : Nat) : List Byte := leBytes cmdId 2 ++ leBytes seat 2 ++ leBytes pos 4

/-- CORE_STATE.STATE of a seat that holds work: running, or stopped at hold water (R106, R174). -/
def State.runCode (s : State) : Nat := if s.stkState = 3 then 4 else 1

/-- CORE_STATE.STATE of the seat of a core that holds work: as above, or waiting, or stalled (R174). -/
def State.seatCode (s : State) (i : Nat) : Nat :=
  if s.stkState = 3 then 4 else if (s.core i).stalled then 3 else if (s.core i).wait.isSome then 2 else 1

/-- CORE_STATE of a seat without work: idle, or pre-empted where scheduled work of its own lies saved (R174). -/
def State.showIdle (s : State) (i : Nat) : State :=
  ((s.wr CORE_STATE_STATE (if s.holdsSaved i then 5 else 0) i).wr CORE_STATE_OPCODE 0 i).wr CORE_STATE_CMD_INDEX 0 i |>.wr CORE_STEPS_LEFT 0 i

/-- The seat is done with its block, with a status (R77, R88, R142): the cue learns it, a batched tile tells every cue whose
rows it held, and a task waits for TASK_COMPLETE. -/
def State.endBlock (s : State) (i status cmdId : Nat) : State :=
  match (s.core i).block with
  | none => s
  | some b =>
    let c := i / 9
    let st := if status = stSuccess ∧ b.flags ≠ 0 then stFlags else status
    let detail := if statusOk st then [] else launchDetail cmdId ((s.seatOf i).getD 0) b.pos
    if b.kind = 2 then
      (s.updCore i (fun x => { x with run := none, next := none, wait := none, stalled := false, error := some st, saving := 0,
                                      block := some { b with cue := b.cue, count := b.pos, order := cmdId } })).showIdle i
    else
      let s := ((s.detach (fun o => o == .core i)).setCore i default).showIdle i
      if b.kind = 0 then s.cuePart c b.cue st b.flags b.order detail
      else b.rows.foldl (fun t r => t.cuePart c r.cue st b.flags b.order detail r.count) s

/-- Issues the tiles of the batcher that wait for a seat, each to the lowest free seat of its mask (R156). CORE_CMD_ADDR shows where the
command of the tile's first row stands. -/
def State.issueTiles (s : State) (c : Nat) : List (Nat × List RowSpan) → State
  | [] => s
  | (mask, rows) :: t =>
    match (setBits mask 8).find? (fun seat => s.seatFree (s.coreOf c seat)) with
    | none =>
      let s := s.issueTiles c t
      if (setBits mask 8).all (fun seat => s.seatRefuses (s.coreOf c seat)) then
        rows.foldl (fun (u : State) r => u.cuePart c r.cue stRefused 0 8 [] r.count) s
      else
        let x := s.cox c
        s.setCox c { x with tiles := (mask, rows) :: x.tiles }
    | some seat =>
      let i := s.coreOf c seat
      let ctx := match (s.cox c).cur with | some sh => sh.ctx | none => 0
      let raw := match rows with | r :: _ => r.raw | [] => []
      let b : Block := { kind := 1, cue := 0, order := seat, ctx := ctx, addr := 0, count := 1, pos := 0, flags := 0, rows := rows }
      let s := s.updCore i (fun x => { x with block := some b, next := some raw })
      let s := (((s.wr CORE_STATE_STATE s.runCode i).wr CORE_STATE_OPCODE (fieldLE raw 0 1) i).wr CORE_STATE_CMD_INDEX 0 i).wr CORE_CMD_ADDR
        (match rows with | r :: _ => r.addr | [] => 0) i
      s.issueTiles c t

/-- The waiting tiles of a crew try again. -/
def State.retryTiles (s : State) (c : Nat) : State :=
  let ts := (s.cox c).tiles
  let cs := match (s.cox c).cur with | some sh => s.rd CTX_STAT_STATE sh.ctx | none => 0
  if ts.isEmpty ∨ cs = 2 ∨ cs = 3 ∨ cs = 4 then s else (s.setCox c { s.cox c with tiles := [] }).issueTiles c ts

/-- A command has failed: the seat abandons the rest of its block (R142). Its block ends once the writes of its earlier steps to other
devices are acknowledged, so that END waits for them (R89); until then the seat runs nothing. -/
def State.failCommand (s : State) (i status cmdId : Nat) : State :=
  let s := s.undefineRun i
  let x := s.core i
  if 0 < x.out then
    (s.updCore i (fun x => { x with
      run := none, next := none, wait := none, stalled := false, cow := none, error := some (x.error.getD status),
      lastCmd := (cmdId, match x.block with | some b => b.pos | none => 0) })).clearArrived (.core i)
  else ((s.endBlock i status cmdId).clearArrived (.core i)).retryTiles (i / 9)

/-- Stalls a seat on a page fault (R141, R174). -/
def State.stallCore (s : State) (i ctx va level : Nat) (write psum : Bool) (cmdId : Nat) : State :=
  let s := s.updCore i (fun x => { x with stalled := true })
  let s := ((((((s.wr CORE_STATE_STATE 3 i).wr CORE_FAULT_ADDR va i).wr CORE_FAULT_INFO_STATUS stPageFault i).wr
    CORE_FAULT_INFO_CONTEXT ctx i).wr CORE_FAULT_INFO_WRITE (b2n write) i).wr CORE_FAULT_INFO_PSUM (b2n psum) i).wr
    CORE_FAULT_INFO_CMD_ID cmdId i
  s.takeFault (.core i) ctx va level write cmdId

/-- What a seat does when an access of its command does not complete (R141, R142, R476): a page fault stalls it, which CORE_ABORT_COUNT
counts when a step aborted, a failure ends the command, a wait leaves it, and bytes of another device are asked for. -/
def State.coreStop (s : State) (i ctx cmdId : Nat) (psum : Bool) : Stop → State
  | .pageFault va level w =>
    let t := s.stallCore i ctx va level w psum cmdId
    if (s.core i).run.isSome then t.bumpSat CORE_ABORT_COUNT 1 i else t
  | .fail st va w =>
    let s := if st = stPermission ∨ st = stBus then
        ((((((s.wr CORE_FAULT_ADDR va i).wr CORE_FAULT_INFO_STATUS st i).wr CORE_FAULT_INFO_CONTEXT ctx i).wr
          CORE_FAULT_INFO_WRITE (b2n w) i).wr CORE_FAULT_INFO_PSUM (b2n psum) i).wr CORE_FAULT_INFO_CMD_ID cmdId i)
      else s
    (s.failedAt ctx st va w).failCommand i st cmdId
  | .ctxFault va l w => (s.loseContext ctx va l w (.core i) cmdId).failCommand i stLost cmdId
  | .wait => s
  | .frame _ => s
  | .need g n => s.ask (.core i) ctx (match (s.core i).block with | some b => b.sched | none => false) g n
  | .lookup g n => s.lookups (.core i) (i / 9) ctx (match (s.core i).block with | some b => b.sched | none => false) g n

/-- What a seat does is under way: a task's accesses use its self window (R603). -/
def State.asSeat (s : State) (i : Nat) (f : State → State) : State :=
  let who := match (s.core i).block with | some b => if b.kind = 2 then some i else none | none => none
  { f { s with self := who } with self := s.self }

/-- Fetches the next command of the block, or ends the block when every command has run and its writes to other devices are
acknowledged (R77, R115, R128). Under DRAIN_MODE 0 a seat that drains starts none of the rest (R717). -/
def State.fetchNext (s : State) (i : Nat) : State := s.asSeat i (fun s =>
  let x := s.core i
  match x.block, x.run, x.next with
  | some b, none, none =>
    if b.kind = 2 ∧ x.error.isSome ∧ b.count ≤ b.pos then s
    else if 0 < x.out then s
    else match x.error with
    | some st => ((s.updCore i (fun x => { x with block := some { b with pos := x.lastCmd.2 } })).endBlock i st x.lastCmd.1).retryTiles (i / 9)
    | none =>
    if x.saving ≠ 0 ∧ b.pos < b.count then s
    else if b.count ≤ b.pos then (s.endBlock i stSuccess 0).retryTiles (i / 9)
    else if s.blk .core i = 2 ∧ !s.is (BLK_CTL_DRAIN_MODE .core) i then (s.endBlock i stRefused 0).retryTiles (i / 9)
    else
      let va := b.addr + b.pos * 128
      match s.readV (.core i) b.ctx va 128 with
      | .error e => s.coreStop i b.ctx 0 false e
      | .ok raw =>
        let s := s.clearArrived (.core i)
        let op := fieldLE raw 0 1
        let s := (((s.wr CORE_STATE_STATE s.runCode i).wr CORE_STATE_OPCODE op i).wr CORE_STATE_CMD_INDEX b.pos i).wr CORE_CMD_ADDR va i
        if seatOpcode op then s.updCore i (fun x => { x with next := some raw })
        else s.failCommand i stMalformed (fieldLE raw 2 2)
  | _, _, _ => s)

/-- A command has ended with flags; the seat goes on to the next (R115). -/
def State.endCommand (s : State) (i flags : Nat) : State :=
  let s := s.updCore i (fun x =>
    { x with run := none, next := none, wait := none
             lastCmd := (match x.run, x.next with
               | some r, _ => fieldLE r.raw 2 2
               | none, some raw => fieldLE raw 2 2
               | none, none => 0, match x.block with | some b => b.pos | none => 0)
             block := x.block.map (fun b => { b with pos := b.pos + 1, flags := b.flags ||| flags }) })
  ((s.wr CORE_STEPS_LEFT 0 i).clearArrived (.core i)).fetchNext i

/-- Hands a block to a seat (R77). -/
def State.handBlock (s : State) (i : Nat) (b : Block) : State :=
  (s.updCore i (fun x => { x with block := some b, run := none, next := none, wait := none, error := none })).fetchNext i

/-- A seat has a command of an opcode to decode, and may work. -/
def State.decodes (s : State) (i op : Nat) : Bool :=
  decide (i < 144) && s.canRun i && (s.core i).run.isNone &&
  (match (s.core i).next with | some raw => fieldLE raw 0 1 == op | none => false)

/-- Decodes the fetched command of a seat (R131): `f` answers the running command, or a status with flags that ends it, or an
access that stops, or that the seat stalls until a swap-out has switched (R371). -/
inductive Decoded where
  | run (r : Run)
  | done (flags : Nat)
  | fail (status : Nat)
  | stop (e : Stop)
  | stall

/-- The object holds a page of a span of a context. -/
def Obj.covers (o : Obj) (ctx va n : Nat) : Bool :=
  o.ctx == ctx && o.pages.any (fun p => overlaps p.1 (o.pageFrames * 65536) va n)

/-- Objects that hold a page with some bytes of rows of a context are used in this stroke (R425). -/
def State.touchSpans (s : State) (ctx : Nat) (rows : List Rows) : State :=
  if s.objs.isEmpty then s
  else
    { s with objs := s.objs.map (fun e =>
        if e.2.ctx == ctx && e.2.pages.any (fun p => rows.any (fun x => x.hit p.1 (e.2.pageFrames * 65536))) then
          (e.1, { e.2 with touched := max e.2.touched s.stroke })
        else e) }

/-- A seat's command uses the objects of its operands, results and tables, of its scale entries, and of its own 128 bytes (R425). The pages of
latents are touched through their roster entries (R334). -/
def State.touchRun (s : State) (b : Block) (r : Run) : State :=
  let entries := if fieldLE r.raw 0 1 = 0x48 then planB r.raw else 4
  s.touchSpans b.ctx (oneRow (b.addr + b.pos * 128) (if b.kind = 1 then 0 else 128) :: oneRow (s.rd CTX_SCALE_TABLE b.ctx + 256 * scaleBase r.raw) (256 * entries) ::
    (operandRows r ++ resultRows r ++ tableRows r))

/-- The armed watch slots whose destination overlaps some spans of a context (R452). -/
def State.watchHits (s : State) (ctx : Nat) (spans : List (Nat × Nat)) : List (Nat × Watch) :=
  if s.watches.isEmpty then []
  else
    let pieces := spans.flatMap (fun p => (spanPages p.1 p.2).filterMap (fun q =>
      match s.translate ctx q.1 .read with
      | .ok x => some (x.gpa, q.2)
      | .error _ => none))
    s.watches.filter (fun w => w.2.dst.any (fun d => pieces.any (fun q => overlaps d.1 d.2 q.1 q.2)))

/-- A consumer checks the watch slots of its operands (R452): a stale one makes it wait for the recopy, or fail with 0x32 after
the last retry; each check uses a slot once. -/
def State.watchGate (s : State) (ctx : Nat) (spans : List (Nat × Nat)) : Except Stop State :=
  let hits := s.watchHits ctx spans
  if hits.any (fun w => w.2.stale && decide (max 1 (s.rd TIER_CTL_WATCH_RETRIES) ≤ w.2.retries)) then .error (.fail stBusy 0 false)
  else if hits.any (fun w => w.2.stale) then .error .wait
  else .ok (hits.foldl (fun (t : State) w =>
    if w.2.uses ≤ 1 then { t with watches := Tab.del t.watches w.1 }
    else { t with watches := Tab.put t.watches w.1 { w.2 with uses := w.2.uses - 1, retries := 0 } }) s)

/-- Starts, ends or fails a command as its decoding says (R131). -/
def State.decodeWith (s : State) (i : Nat) (f : Block → List Byte → Decoded) : State :=
  match (s.core i).block, (s.core i).next with
  | some b, some raw =>
    let id := fieldLE raw 2 2
    match f b raw with
    | .run r => match s.watchGate b.ctx ((operandRows r).flatMap Rows.spans) with
      | .ok s =>
        let t := s.updCore i (fun x => { x with run := some { r with num := s.nextRun } })
        let t := if s.rd CORE_STATE_STATE i = 3 then t.wr CORE_STATE_STATE s.runCode i else t
        ((({ t with nextRun := s.nextRun + 1 } : State).wr CORE_STEPS_LEFT r.steps i).clearArrived (.core i)).touchRun b r
      | .error e => s.coreStop i b.ctx id false e
    | .done fl => s.endCommand i fl
    | .fail st => s.failCommand i st id
    | .stop e => s.coreStop i b.ctx id false e
    | .stall => s.wr CORE_STATE_STATE 3 i
  | _, _ => s

/-- A command that tells the roster what its slots have done, once its writes are visible (R281, R285, R299, R360, R368). -/
def tellsRoster (r : Run) : Bool := [0x18, 0x19, 0x30, 0x31].contains (fieldLE r.raw 0 1)

/-- The last step of such a command is done, and it waits for its writes to be visible. -/
def Run.closing (r : Run) : Bool := tellsRoster r && decide (r.steps ≤ r.step)

/-- A running command with nothing but its bytes. -/
def emptyRun (raw : List Byte) : Run := { (default : Run) with raw := raw }

end Sys2Proof.Machine
end

