-- ==== Sys2Proof/Machine/Cox.lean ====
section
/-!
DEFINITION. Cue sheets (R71 to R89).
-/
namespace Sys2Proof.Machine

/-! ### Sheets -/

/-- A cue from its 64 bytes (R74). -/
def parseCue (r : List Byte) : Cue :=
  { kind := fieldBits r 0 0 4, batch := bitOf (fieldLE r 0 1) 4, holdOnErr := bitOf (fieldLE r 0 1) 5
    seatMask := fieldLE r 1 1, id := fieldLE r 2 2, waitA := fieldLE r 4 2, waitB := fieldLE r 6 2
    threshA := fieldLE r 8 4, threshB := fieldLE r 12 4, postA := fieldLE r 16 2, incA := fieldLE r 18 2
    postB := fieldLE r 20 2, incB := fieldLE r 22 2, earliest := fieldLE r 24 4, arg := fieldLE r 28 4
    ptr := fieldLE r 32 8, statusPtr := fieldLE r 40 8 }

/-- The cues of a sheet from the bytes after its header (R73). -/
def parseCues : Nat → List Byte → List Cue
  | 0, _ => []
  | n + 1, r => parseCue (r.take 64) :: parseCues n (r.drop 64)

/-- A valid post selector also has an increment and does not name token 0 (R79, R90). -/
def postOk (sel inc : Nat) : Bool := selOk sel && (!bitOf sel 15 || (inc != 0 && bits sel 0 14 != 0))

/-- ACTION_ARG lies in the range of its kind (R76). -/
def argOk (q : Cue) : Bool :=
  if q.kind = 1 then decide (1 ≤ q.arg) && decide (q.arg ≤ 4096)
  else if q.kind = 2 then bits q.arg 3 13 == 0 && decide (1 ≤ bits q.arg 16 16)
  else q.arg == 0

/-- A cue breaks no rule of R79, as the last of its sheet or not. -/
def cueOk (q : Cue) (last : Bool) : Bool :=
  (q.kind == 0 || q.kind == 1 || q.kind == 2 || q.kind == 3 || q.kind == 4 || q.kind == 15) &&
  ((q.kind == 15) == last) && ((q.kind == 1) == (q.seatMask != 0)) &&
  selOk q.waitA && selOk q.waitB && postOk q.postA q.incA && postOk q.postB q.incB && argOk q

/-- The index of the first cue that breaks R79. -/
def badCue (qs : List Cue) : Option Nat :=
  (qs.zipIdx.find? (fun p => !cueOk p.1 (p.2 + 1 == qs.length))).map (fun p => p.2)

/-- Address of the sheet for a stroke (R71). -/
def State.sheetAddr (s : State) (c n : Nat) : Nat :=
  s.rd COX_SHEET_BASE c +
    ((n + 2 ^ 64 - s.rd COX_SHEET_EPOCH c) % 2 ^ 64 % max 1 (s.rd COX_SHEET_COUNT_COUNT c)) * s.rd COX_SHEET_STRIDE_BYTES c

/-- The stroke whose sheet the cox would fetch now (R72): the first one when ARMED, the current one when it is missing, the
next one in the recovery. One that has been refused is not fetched again. -/
def State.fetchTarget (s : State) (c : Nat) : Option Nat :=
  let x := s.cox c
  if s.stkState = 1 then (if x.next.isSome ∨ x.bad.contains (s.rd STK_FIRST_STROKE) then none else some (s.rd STK_FIRST_STROKE))
  else if s.stkState = 2 then
    let n := (s.stroke + 1) % 2 ^ 64
    if x.cur.isNone ∧ !x.bad.contains s.stroke then some s.stroke
    else if s.stk.ended ∧ x.next.isNone ∧ s.stk.stopping.isNone ∧ !x.bad.contains n then some n
    else none
  else none

/-- A fetched sheet starts: in the drive already under way it becomes the current one (R72), else it waits for its catch. A
sheet with NONDET sets NONDET_SEEN when it starts (R113). -/
def State.placeSheet (s : State) (c : Nat) (sh : Sheet) : State :=
  let x := s.cox c
  if s.stkState = 2 ∧ sh.stroke = s.stroke then
    let s := s.setCox c { x with cur := some sh }
    if sh.nondet then s.on STK_STAT_NONDET_SEEN else s
  else s.setCox c { x with next := some sh }

/-- A sheet that cannot be executed: it is not, and hold water is requested (R80, R476). -/
def State.refuseSheet (s : State) (c num : Nat) (status : Nat) : State :=
  (s.setCox c { s.cox c with bad := num :: (s.cox c).bad }).sendHoldReq status

/-- SHEET_FETCH (R71 to R73, R79, R80, R476, R749). Where the header is at fault and no cue is, the entry carries index 0 (DESIGN CHOICE,
log 39). -/
def sheetFetchEffect (c : Nat) (s : State) : State :=
  match s.fetchTarget c with
  | none => s
  | some n =>
    let va := s.sheetAddr c n
    let stop (e : Stop) : State := match e with
      | .pageFault a l w => s.takeFault (.cox c) 0 a l w 0
      | .fail st _ _ => (s.logEv .cox c 0x106 3 st (c + va % 2 ^ 48 * 2 ^ 16)).refuseSheet c n st
      | .ctxFault a l w => (s.loseContext 0 a l w (.cox c) 0).refuseSheet c n stLost
      | .need g k => s.ask (.cox c) 0 true g k
      | .lookup g k => s.lookups (.cox c) c 0 true g k
      | .wait => s
      | .frame _ => s
    match s.readV (.cox c) 0 va 64 with
    | .error e => stop e
    | .ok h =>
      let count := fieldLE h 2 2
      let malformed (k : Nat) : State := (s.logEv .cox c 0x104 3 stMalformed (c + k * 2 ^ 16)).refuseSheet c n stMalformed
      if fieldLE h 0 2 ≠ 8 ∨ !s.ctxOn (fieldBits h 4 0 6) ∨ fieldLE h 8 8 ≠ s.rd STK_SCHEDULE_ID ∨ count = 0 then malformed 0
      else match s.readV (.cox c) 0 (va + 64) (count * 64) with
        | .error e => stop e
        | .ok body =>
          let qs := parseCues count body
          match badCue qs with
          | some k => malformed k
          | none =>
            (s.clearArrived (.cox c)).placeSheet c
              { stroke := n, ctx := fieldBits h 4 0 6, nondet := bitOf (fieldLE h 5 1) 0, cues := qs }

def execSheetFetch (crew : Nat) (s : State) : Host.Outcome State Fault Refusal :=
  s.rails (decide (crew < 16) && s.blk .cox crew == 1 && (s.fetchTarget crew).isSome &&
    !s.faultHeld (fun _ a => a.1 == .cox crew && decide (a.2 < 65536))) (sheetFetchEffect crew)

/-! ### Issue -/

/-- The channel that a DMA cue names (R76). -/
def Cue.channel (q : Cue) : Nat := bits q.arg 0 3

/-- The seats of a LAUNCH are free, or refuse it (R717); a batched one needs none of them (R81, R154). -/
def State.seatsFree (s : State) (c : Nat) (q : Cue) : Bool :=
  q.batch || (setBits q.seatMask 8).all (fun t => s.seatFree (s.coreOf c t) || s.seatRefuses (s.coreOf c t))

/-- The channel of a DMA cue is free, or the cue fails there at once (R81, R512). -/
def State.channelFree (s : State) (c : Nat) (q : Cue) : Bool :=
  (s.chan c q.channel).cue.isNone || s.blk .cdm c != 1 || s.is CDM_CH_CTL_MODE c q.channel || 3 < s.rd CDM_CH_STAT_STATE c q.channel

/-- A REMOTE cue with FENCE waits for every earlier REMOTE cue of its crew, and no later one passes an unissued one (R561). -/
def State.fenceOk (s : State) (c ctx : Nat) (q : Cue) (idx : Nat) (qs : List Cue) : Bool :=
  let x := s.cox c
  let earlier := qs.zipIdx.filter (fun p => p.1.kind == 3 && decide (p.2 < idx))
  let fenced (p : Cue) : Bool :=
    match s.readV (.cox c) ctx p.ptr 1 with
    | .ok r => bitOf (fieldLE r 0 1) 2
    | .error _ => false
  (!fenced q || earlier.all (fun p => x.done.contains p.2)) &&
    earlier.all (fun p => x.issued.contains p.2 || !fenced p.1)

/-! ### The descriptor of a remote operation (R553) -/

def rOp (d : List Byte) : Nat := fieldBits d 0 0 2
def rAop (d : List Byte) : Nat := fieldBits d 1 0 3
def rWide (d : List Byte) : Bool := bitOf (fieldLE d 1 1) 4
def rLength (d : List Byte) : Nat := fieldLE d 4 4
def rDst (d : List Byte) : Nat := fieldLE d 8 8
def rLocal (d : List Byte) : Nat := fieldLE d 16 8
def rOperand (d : List Byte) : Nat := fieldLE d 24 8
def rCompare (d : List Byte) : Nat := fieldLE d 32 8
def rSignal (d : List Byte) : Nat := fieldLE d 40 8
def rInc (d : List Byte) : Nat := fieldLE d 48 2

/-- The first local address and the device of each packet that an operation sends first (R552, R556): its data, or its one SIGNAL or
ATOMIC packet. A span that does not translate sends none. -/
def State.remoteHeads (s : State) (ctx : Nat) (d : List Byte) : List (Nat × Nat) :=
  let acc : Access := if rOp d = 2 then .read else if rOp d = 3 then .atomic else .write
  let span (va n : Nat) : List (Nat × Nat) := (spanPages va n).flatMap (fun p => match s.translate ctx p.1 acc with
    | .ok x => if gpaDev x.gpa = s.dev then [] else (pieces2K (gpaLocal x.gpa) p.2).map (fun c => (gpaDev x.gpa, gpaLocal x.gpa + c.1))
    | .error _ => [])
  if rOp d = 3 then span (rDst d) 4
  else if rOp d = 1 ∧ rLength d = 0 then (span (rSignal d) 4).map (fun h => (h.1, 0))
  else span (rDst d) (min (rLength d) 16777216)

/-- Every port by which packets of an operation leave has the transaction slots that they need (R81, R567); an operation of more packets
than a port has slots needs all of them (DESIGN CHOICE, log 43). -/
def State.slotsFree (s : State) (ctx : Nat) (d : List Byte) : Bool :=
  let heads := s.remoteHeads ctx d
  let ports := heads.filterMap (fun h => s.portFor h.1 { zeroPacket with addr := h.2 })
  ports.dedup.all (fun q => decide (min 8192 (ports.count q) + (s.port q).slots.length ≤ 8192))

/-- The credits of a REMOTE cue: its operation can leave at once (R81, R87). -/
def State.remoteCredit (s : State) (c ctx : Nat) (q : Cue) : Bool :=
  match s.readV (.cox c) ctx q.ptr 64 with
  | .ok d => s.slotsFree ctx d
  | .error _ => true

/-- A cue is ready (R81, R476): its waits, EARLIEST and the 16 ns after the catch, its resources, and no page fault of its own. -/
def State.cueReady (s : State) (c : Nat) (sh : Sheet) (q : Cue) (idx : Nat) : Bool :=
  s.waitOk c q.waitA q.threshA && s.waitOk c q.waitB q.threshB &&
  decide (s.stk.catchAt + max 16 q.earliest * 16 ≤ s.clock) && !s.cueWaits c idx &&
  (if q.kind = 1 then s.seatsFree c q
   else if q.kind = 2 then s.channelFree c q
   else if q.kind = 3 then s.fenceOk c sh.ctx q idx sh.cues && s.remoteCredit c sh.ctx q
   else if q.kind = 15 then (List.range idx).all (fun k => (s.cox c).done.contains k)
   else true)

/-- The 64 oldest cues that have not issued (R81). -/
def Cox.window (x : Cox) (qs : List Cue) : List (Cue × Nat) :=
  (qs.zipIdx.filter (fun p => !x.issued.contains p.2)).take 64

/-- The cox may issue: a stroke runs, it is not stopped, its page is enabled or drains what it has accepted (R717). -/
def State.coxOn (s : State) (c : Nat) : Bool :=
  s.stkState == 2 && !(s.cox c).stopped && (s.blk .cox c == 1 || (s.blk .cox c == 2 && s.is (BLK_CTL_DRAIN_MODE .cox) c))

/-- A context is being pre-empted, is pre-empted, or resumes (R608). -/
def State.preempted (s : State) (ctx : Nat) : Bool :=
  let cs := s.rd CTX_STAT_STATE ctx
  cs == 2 || cs == 3 || cs == 4

/-- The lowest ready cue of the window (R82). -/
def State.readyCue (s : State) (c : Nat) : Option (Sheet × Cue × Nat) :=
  match (s.cox c).cur with
  | none => none
  | some sh =>
    if !s.coxOn c || s.preempted sh.ctx then none
    else (((s.cox c).window sh.cues).find? (fun p => s.cueReady c sh p.1 p.2)).map (fun p => (sh, p.1, p.2))

/-- The cue that issues next is of a kind. -/
def State.issues (s : State) (c kind : Nat) : Bool :=
  decide (c < 16) && (match s.readyCue c with | some (_, q, _) => q.kind == kind | none => false)

/-- Marks a cue issued with a number of parts of its action. -/
def State.issueCue (s : State) (c idx parts : Nat) : State :=
  let x := s.cox c
  s.setCox c { x with
    issued := idx :: x.issued
    running := Tab.put x.running idx { left := parts, status := stSuccess, flags := 0, order := 8, detail := [] } }

/-- A cue ends at issue with a status (its action does not run). -/
def State.failCue (s : State) (c idx status : Nat) : State :=
  (s.issueCue c idx 1).cuePart c idx status 0 0 []

/-- The context of a sheet does not let its cues run (R487, R595, R596): the status with which an unissued cue fails. -/
def State.ctxRefuses (s : State) (ctx : Nat) : Option Nat :=
  if s.lost.contains ctx then some stLost
  else if s.blk .ctx ctx ≠ 1 then some stRefused else none

/-- What stands in the way of a cue's record (R476, R680): its bytes cannot be written now, or at all. -/
def State.recordStop (s : State) (ctx : Nat) (q : Cue) : Option Stop :=
  if q.statusPtr = 0 then none
  else match s.checkWrites ctx [{ va := q.statusPtr, data := leBytes 0 32 }] with
    | .ok () => none
    | .error e => some e

/-- Completes a cue with or without a record (R84, R86): the logbook entry of one that has none, the failure count, its posts. -/
def State.endCue (s : State) (c : Nat) (q : Cue) (idx : Nat) (r : CueRun) (status : Nat) (logged : Bool) : State :=
  let failed := !statusOk status
  let s := if logged then
      s.logEv .cox c 0x105 3 status (c + q.id * 2 ^ 16 + leNat (r.detail.take 4) * 2 ^ 32)
    else s
  let s := if failed then s.bumpSat COX_FAIL_COUNT 1 c else s
  let x := s.cox c
  let s := s.setCox c { x with done := idx :: x.done, running := Tab.del x.running idx }
  if failed ∧ q.holdOnErr then s
  else (s.post c q.postA q.incA true).post c q.postB q.incB true

/-- Completes a cue (R84, R86, R476, R680). A record whose page is not mapped waits; one that cannot be written fails the cue, with
the first failure's status, and leaves a logbook entry. -/
def State.completeCue (s : State) (c : Nat) (sh : Sheet) (q : Cue) (idx : Nat) (r : CueRun) : State :=
  let st := if r.status = stSuccess ∧ r.flags ≠ 0 then stFlags else r.status
  let lose (s : State) (fail : Nat) : State := s.endCue c q idx r (if statusOk st then fail else st) true
  if q.statusPtr = 0 then s.endCue c q idx r st (!statusOk st)
  else match s.recordStop sh.ctx q with
    | none =>
      (s.writeV (.agent (.cox c)) sh.ctx q.statusPtr true (statusRecord st 0 q.id r.flags s.stroke r.detail)).endCue c q idx r st false
    | some (.pageFault a l w) => s.takeFault (.cox c) sh.ctx a l w (cueTag c idx q.id)
    | some (.fail fst _ _) => lose s fst
    | some (.ctxFault a l w) => lose (s.loseContext sh.ctx a l w (.cox c) q.id) stLost
    | some _ => s

/-- CUE_COMPLETE (R84, R86 to R88): once nothing of the action runs, and no register write of it still has to take effect (R93). -/
def cueCompleteEffect (c idx : Nat) (s : State) : State :=
  let x := s.cox c
  match x.cur, Tab.find x.running idx with
  | some sh, some r => match sh.cues[idx]? with
    | some q => if r.left = 0 then (s.completeCue c sh q idx r).retryTiles c else s
    | none => s
  | _, _ => s

def execCueComplete (crew cue : Nat) (s : State) : Host.Outcome State Fault Refusal :=
  s.rails (decide (crew < 16) && s.regWrites.isEmpty) (cueCompleteEffect crew cue)

/-- How a cox goes on when an access of a cue does not complete (R476): a page fault leaves the cue waiting, a failure ends
it. -/
def State.cueStop (s : State) (c ctx id idx : Nat) : Stop → State
  | .pageFault a l w => s.takeFault (.cox c) ctx a l w (cueTag c idx id)
  | .fail st va w => (s.failedAt ctx st va w).failCue c idx st
  | .ctxFault a l w => (s.loseContext ctx a l w (.cox c) id).failCue c idx stLost
  | .need g k => s.ask (.cox c) ctx true g k
  | .lookup g k => s.lookups (.cox c) c ctx true g k
  | .wait => s
  | .frame _ => s

/-- Issues the ready cue of a crew (R81, R476, R595): a context that refuses it or a record that cannot be written fails it, a record
whose page is not mapped leaves it waiting, else its action starts. -/
def State.issueWith (s : State) (c : Nat) (f : Sheet → Cue → Nat → State → State) : State :=
  match s.readyCue c with
  | none => s
  | some (sh, q, idx) => match s.ctxRefuses sh.ctx with
    | some st => s.failCue c idx st
    | none => match s.recordStop sh.ctx q with
      | some e => s.cueStop c sh.ctx q.id idx e
      | none => f sh q idx s

/-- NOP (R76): it completes at once. -/
def nopEffect (c : Nat) (s : State) : State :=
  s.issueWith c (fun _ _ idx s => cueCompleteEffect c idx (s.issueCue c idx 0))

def execNop (crew : Nat) (s : State) : Host.Outcome State Fault Refusal := s.rails (s.issues crew 0) (nopEffect crew)

/-- END (R89, R100): every other cue has completed; the done token is posted, and a late crew's DONE may leave. -/
def endEffect (c : Nat) (s : State) : State :=
  match s.readyCue c with
  | none => s
  | some (_, _, idx) =>
    let s := cueCompleteEffect c idx (s.issueCue c idx 0)
    if (s.cox c).done.contains idx then (s.addTok (tokCrew c 0) 1 true).crewDone c
    else s.setCox c { s.cox c with issued := (s.cox c).issued.erase idx, running := Tab.del (s.cox c).running idx }

def execEndCue (crew : Nat) (s : State) : Host.Outcome State Fault Refusal := s.rails (s.issues crew 15) (endEffect crew)

/-! ### DMA cues -/

/-- DMA (R76, R511, R512): the channel gets COUNT contiguous descriptors; a channel in ring mode fails the cue with 0x11, one
that is draining or disabled with 0x41. -/
def dmaCueEffect (c : Nat) (s : State) : State :=
  s.issueWith c (fun sh q idx s =>
    let ch := q.channel
    if s.is CDM_CH_CTL_MODE c ch then s.failCue c idx stMalformed
    else if s.rd CDM_CH_STAT_STATE c ch = 6 ∧ s.retired.any (fun r => r.1 == { kind := 9, block := c, pos := ch } && r.2 < 3) then s
    else if 3 < s.rd CDM_CH_STAT_STATE c ch ∨ s.blk .cdm c ≠ 1 then s.failCue c idx stRefused
    else
      let x := s.chan c ch
      ((s.issueCue c idx 1).setChan c ch
        { x with cue := some idx, ctx := sh.ctx, addr := q.ptr, count := bits q.arg 16 16, pos := 0, desc := none, fail := none,
                 flags := 0 }).wr CDM_CH_STAT_STATE 1 c ch)

def execDmaCue (crew : Nat) (s : State) : Host.Outcome State Fault Refusal := s.rails (s.issues crew 2) (dmaCueEffect crew)

end Sys2Proof.Machine
end

