-- ==== Sys2Proof/Machine/Ports.lean ====
section
/-!
DEFINITION. What comes of a port when it fails or gains its spare lane (R539, R543, R573): used by the spares and by the link
layer.
-/
namespace Sys2Proof.Machine

/-- Data of a PORT_STATE entry (R686): port, old and new STATE, WIDTH, SPARED, one byte each (log 28). -/
def State.portData (s : State) (q old : Nat) : Nat :=
  q + old * 2 ^ 8 + s.rd LNK_STAT_STATE q * 2 ^ 16 + s.rd LNK_STAT_WIDTH q * 2 ^ 24 + s.rd LNK_LANE_MAP_SPARED q * 2 ^ 32

/-- A port takes a state, which the logbook notes (R686). RETRAIN reads 0 again once the port no longer trains (R783). -/
def State.setPortState (s : State) (q new : Nat) : State :=
  let old := s.rd LNK_STAT_STATE q
  let s := s.wr LNK_STAT_STATE new q
  let s := if new = 1 ∨ new = 4 then s else s.off LNK_CTL_RETRAIN q
  s.logEv .lnk q 0x302 2 0 (s.portData q old)

/-- A request or write packet. -/
def isRequest (p : Packet) : Bool := p.vc == 1 || p.vc == 2

/-- A device's answer to a request that it has served (R555, R558): the TAG and SCHED of the request, a status, and what was read.
One that no port can carry vanishes (log 28). -/
def State.sendReply (s : State) (p : Packet) (type status old : Nat) (data : List Byte) : State :=
  let n := { zeroPacket with
    type := type, vc := 0, src := s.dev, ctx := p.ctx, sched := p.sched, dst := p.src, slot := p.slot, port := p.port
    gen := p.gen, status := status, operand := old, data := data }
  match s.sendRouted n with
  | some t => t
  | none => s

/-- The memory of this device behind a span of a context is undefined (R559, R571). -/
def State.undefineLocal (s : State) (ctx va n : Nat) : State :=
  (spanPages va n).foldl (fun (t : State) p =>
    match t.translate ctx p.1 .write with
    | .ok x =>
      let a := gpaLocal x.gpa
      if gpaDev x.gpa = t.dev ∧ (inDram a ∨ (regionOf a).1 = .scratch ∨ (regionOf a).1 = .crewStore) then t.undefine a p.2 else t
    | .error _ => t) s

/-- The LOCAL bytes of a GET packet of a cue that has failed are undefined (R559). -/
def State.undefGet (s : State) (op : Nat) (p : Packet) (dest : Option Nat) : State :=
  match dest, Tab.find s.ops op with
  | some va, some o => match o.owner with
    | .cue _ _ => if p.type = ptGet then s.undefineLocal o.ctx va p.aux else s
    | _ => s
  | _, _ => s

/-- A request packet cannot leave: no port serves it (R548), or the port that does drains (R717). -/
def State.cannotSend (s : State) (p : Packet) : Bool :=
  match s.portFor p.dst p with
  | some q => s.blk .lnk q == 2
  | none => true

/-- A packet of this device's transaction slot ends with a status: the slot is freed and the operation learns it (R559). -/
def State.endSlot (s : State) (q n : Nat) (status : Nat) : State :=
  match Tab.find (s.port q).slots n with
  | none => s
  | some t =>
    let s := if statusOk status then s else s.undefGet t.op t.packet t.dest
    let s := s.slotGone q n
    let s := match s.nextWait with
      | some w => if s.cannotSend w.2.1 then s.undefGet w.1 w.2.1 w.2.2 else s
      | none => s
    s.sendWaiting.answer t.op (packetTarget t.packet) t.packet.dst status

/-- A request of this device ends with a status, when its slot still holds it (R559, R568). -/
def State.endIssued (s : State) (p : Packet) (status : Nat) : State :=
  match Tab.find (s.port p.port).slots p.slot with
  | some t => if t.packet.gen = p.gen then s.endSlot p.port p.slot status else s
  | none => s

/-- A NAK to the issuer of a request packet, with its TAG (R548); one that cannot be routed is discarded and logged. Where this
device is the issuer, its own slot ends. -/
def State.sendNak (s : State) (p : Packet) (status : Nat) : State :=
  if p.src = s.dev then s.endIssued p status else
  let n := { zeroPacket with
    type := ptNak, vc := 0, src := s.dev, ctx := p.ctx, sched := p.sched, dst := p.src, slot := p.slot, port := p.port
    gen := p.gen, status := status }
  match s.sendRouted n with
  | some t => t
  | none => s.logEv .dev 0 0x301 2 stUnreachable (packetHead n)

/-- A packet that a failing port discards (R573): its slot ends with 0x50 when this device issued it, else its issuer gets a
NAK; responses vanish. -/
def State.discard (s : State) (q : Nat) (p : Packet) : State :=
  if !isRequest p then s
  else if p.src = s.dev then s.endSlot q p.slot stUnreachable
  else s.sendNak p stUnreachable

/-- A port fails (R543, R573): its replay buffer and queue are discarded. -/
def State.portDown (s : State) (q : Nat) : State :=
  let x := s.port q
  let gone := x.replay.flatMap (fun f => f.packets) ++ x.tx.map (fun e => e.2.2)
  let s := (s.setPort q { x with replay := [], tx := [], phase := 0 }).setPortState q 5
  gone.foldl (fun (t : State) p => t.discard q p) s

/-- The spare lane of a port carries a lane's symbols (R539). -/
def State.useSpareLane (s : State) (q lane : Nat) : State :=
  let m := s.rd LNK_LANES_ACTIVE_MASK q
  let m := if bitOf m lane then m - 2 ^ lane + (if bitOf m 16 then 0 else 2 ^ 16) else m
  ((s.wr LNK_LANES_ACTIVE_MASK m q).wr LNK_LANE_MAP_SPARED lane q).on LNK_STAT_SPARE_USED q

end Sys2Proof.Machine
end

