-- ==== Sys2Proof/Machine/Spares.lean ====
section
/-!
DEFINITION. Fault classes and spares (R617 to R628), the wear ledger (R629 to R632), the background test and spare banks
(R405 to R412), seat entry (R623), SPR_CMD (R753 to R756).
-/
namespace Sys2Proof.Machine

/-- Appends a wear-ledger record to those waiting (R629, R630). -/
def State.ledgerNote (s : State) (event : Nat) (i : Inst) (data : Nat) : State :=
  { s with ledgerPend := s.ledgerPend ++ [{ time := s.ns, event := event, inst := i, data := data }] }

/-- Logbook data that names an item (R686): kind, BLOCK, POSITION bits [31:0]. -/
def instData (i : Inst) : Nat := i.kind + i.block % 65536 * 2 ^ 16 + i.pos % 2 ^ 32 * 2 ^ 32

/-- Sets a bit of SPR_PENDING (R622, R624, R731). -/
def State.pendKind (s : State) (k : Nat) : State :=
  (s.wr SPR_PENDING_KINDS (s.rd SPR_PENDING_KINDS ||| 2 ^ k)).cause .spr 9

/-- SPR_AUTO, or for a lane LNK_CTL.LANE_AUTO (R621). -/
def State.autoSpare (s : State) (i : Inst) : Bool :=
  if i.kind = 8 then s.is LNK_CTL_LANE_AUTO i.block else bitOf (s.rd SPR_AUTO_KINDS) i.kind

/-- How far a retired item is with its spare: 0 waits for ENTER, 1 is being entered, 2 in service, 3 has none. -/
def State.phase (s : State) (i : Inst) : Option Nat := (s.retired.find? (fun r => r.1 == i)).map (fun r => r.2)

def State.setPhase (s : State) (i : Inst) (p : Nat) : State :=
  { s with retired := s.retired.filter (fun r => r.1 != i) ++ [(i, p)] }

/-- Ends the SPR_CMD in progress on an item (R628). -/
def State.sprDone (s : State) (i : Inst) (status : Nat) : State :=
  if s.sprOp = some i then ({ s with sprOp := none }.off SPR_CMD_STAT_BUSY).wr SPR_CMD_STAT_STATUS status else s

/-- A spare has entered service (R621, R646): logbook, ledger, BLK_INT_STAT.PERMANENT, SPR_PC_ENTERED. -/
def State.entered (s : State) (i : Inst) : State :=
  let s := ((((s.setPhase i 2).logEv .spr 0 0x603 1 0 (instData i)).ledgerNote (if i.kind = 6 ∨ i.kind = 7 then 7 else 3) i 0).cause
    .spr 8).bump SPR_PC_ENTERED
  s.sprDone i stSuccess

/-- The spare-bank fields of a scratchpad or crew store: replaced bank and copy flag of spare 0 or 1. -/
def bankFld (scratch : Bool) (spare : Nat) : Fld × Fld :=
  match scratch, spare with
  | true, 0 => (CORE_SP_BANK_SPARE_SPARE0_FOR, CORE_SP_BANK_SPARE_SPARE0_COPYING)
  | true, _ => (CORE_SP_BANK_SPARE_SPARE1_FOR, CORE_SP_BANK_SPARE_SPARE1_COPYING)
  | false, 0 => (CST_BANK_SPARE_SPARE0_FOR, CST_BANK_SPARE_SPARE0_COPYING)
  | false, _ => (CST_BANK_SPARE_SPARE1_FOR, CST_BANK_SPARE_SPARE1_COPYING)

/-- A spare starts to enter (R617, column Entered). Banks, seats and units are copied first; a roster row waits for the next
catch; a channel takes over the logical channel with its work (R502), and a token counter enters at once. -/
def State.startEntry (s : State) (i : Inst) : State :=
  if i.kind = 2 ∨ i.kind = 4 then
    let f0 := bankFld (i.kind == 2) 0
    let f := if s.rd f0.1 i.block = 0x7F then f0 else bankFld (i.kind == 2) 1
    ((s.wr f.1 (i.pos % 128) i.block).on f.2 i.block).setPhase i 1
  else if i.kind = 9 then
    let s := if i.block = 16 then s.wr HDM_SPARE_SPARE_FOR i.pos else s.wr CDM_SPARE_SPARE_FOR i.pos i.block
    let x := s.chan i.block i.pos
    let ctl (c h : Fld) : Bool := s.dmaRd i.block i.pos c h == 1
    let st := if !ctl CDM_CH_CTL_ENABLE HDM_CH_CTL_ENABLE then 5
      else if x.paused then 2
      else if ctl CDM_CH_CTL_DISABLE_REQ HDM_CH_CTL_DISABLE_REQ || ctl CDM_CH_CTL_FORCE_OFF HDM_CH_CTL_FORCE_OFF then 4
      else if x.stopped then 3
      else if x.desc.isSome ∨ x.cue.isSome then 1 else 0
    (s.setChState i.block i.pos st).entered i
  else if i.kind = 8 then (s.useSpareLane i.block (i.pos % 32)).entered i
  else if i.kind = 11 then s.entered i
  else s.setPhase i 1

/-- A retired item takes no new work, and its status says so (R618). -/
def State.markRetired (s : State) (i : Inst) : State :=
  if i.kind = 0 then (s.wr (BLK_STAT_STATE .core) 4 i.block).cause .core 3 i.block
  else if i.kind = 5 then 
    let s : State := { s with rcache := s.rcache.filter (fun e => e.1 / 32768 != i.block || e.1 % 16 != i.pos % 16) }
    s.wr CST_RC_WAYS_RETIRED (s.rd CST_RC_WAYS_RETIRED i.block ||| 2 ^ (i.pos % 16)) i.block
  else if i.kind = 9 then
    if i.block = 16 then s.wr HDM_CH_STAT_STATE 6 0 i.pos else s.wr CDM_CH_STAT_STATE 6 i.block i.pos
  else if i.kind = 13 then (if s.rd LNK_STAT_STATE i.block = 5 then s else s.portDown i.block)
  else s

/-- An item becomes permanent and retires (R618, R621, R622, R624): logbook, ledger, then a spare enters, or the kind's bit of
SPR_PENDING is set. A column or a row is repaired at the next reset. -/
def State.permanent (s : State) (i : Inst) (count : Nat) : State :=
  if (s.phase i).isSome then s
  else
    let s := (((s.logEv .spr 0 0x602 3 0 (instData i)).ledgerNote 1 i count).bump SPR_PC_PERMANENT).ibiRaise 5
    if i.kind = 1 ∨ i.kind = 3 ∨ i.kind = 12 then (s.ledgerNote 4 i count).setPhase i 3
    else
      let s := s.markRetired i
      if s.spareLeft i = 0 then (s.setPhase i 3).pendKind i.kind
      else if s.autoSpare i then s.startEntry i
      else (s.setPhase i 0).pendKind i.kind

/-- A transient fault of an item (R618, R619): permanent when its count in the window reaches the threshold (0: no threshold). -/
def State.transient (s : State) (i : Inst) (limit : Nat) : State :=
  if (s.phase i).isSome then s
  else
    let n : Nat := ((s.faults.find? (fun f => f.1 == i)).map Prod.snd).getD 0 + 1
    let s : State := { s with faults := s.faults.filter (fun f => f.1 != i) ++ [(i, n)] }
    let s := s.bump SPR_PC_TRANSIENT
    if 0 < limit ∧ limit ≤ n then s.permanent i n else s

/-- A column was found suspect in one more test pass (R411, R619). -/
def State.suspect (s : State) (i : Inst) : State :=
  let n : Nat := ((s.suspects.find? (fun f => f.1 == i)).map Prod.snd).getD 0 + 1
  let s : State := { s with suspects := s.suspects.filter (fun f => f.1 != i) ++ [(i, n)] }
  let s := s.ledgerNote 2 i n
  if 2 ≤ n then s.permanent i n else s

/-- Errors a window of an item's kind takes before it is permanent (R619). -/
def faultLimit (kind : Nat) : Nat :=
  match kind with
  | 0 => 16
  | 2 => 64
  | 4 => 64
  | 5 => 8
  | 6 => 4
  | 7 => 4
  | 9 => 4
  | 10 => 4
  | 11 => 4
  | 14 => 16
  | _ => 0

/-- Errors that reads have met are classed (R618, R619). -/
def State.classFaults (s : State) : State :=
  s.faultsMet.foldl (fun (t : State) i => t.transient i (faultLimit i.kind)) { s with faultsMet := [] }

/-- FAULT_WINDOW (R618): every count restarts. -/
def execFaultWindow (s : State) : Host.Outcome State Fault Refusal := s.rails true (fun s => { s with faults := [] })

/-! ### Self-checks (R620) -/

/-- A step's self-check has failed (R619, R620): the step restarts, and the third failure of the same step in a row, or the
sixteenth in a window, retires the seat. -/
def State.selfCheckFailed (s : State) (i : Nat) : State :=
  let s := (s.bumpSat CORE_ABORT_COUNT 1 i).updCore i (fun x => { x with failing := x.failing + 1 })
  let inst : Inst := { kind := 0, block := i, pos := 0 }
  let s := s.transient inst 16
  if 3 ≤ (s.core i).failing then s.permanent inst (s.core i).failing else s

/-! ### Seat entry (R623) -/

/-- The seat of a crew whose spare is being entered, and the spare core of the crew. -/
def State.enteringSeat (s : State) (c : Nat) : Option (Inst × Nat) :=
  match s.retired.find? (fun r => r.1.kind == 0 && r.1.block / 9 == c && r.2 == 1) with
  | some r => ((List.range 9).find? (fun p => s.blk .core (9 * c + p) == 5)).map (fun p => (r.1, p))
  | none => none

/-- An agent of a retired core is the core that has taken its place. -/
def reseat (o n : Nat) : Agent → Agent
  | .core i => if i = o then .core n else .core i
  | a => a

/-- SEAT_ENTRY (R25, R623): the spare core takes over the logical seat with its scratchpad, and the aborted step restarts on
it. Scratchpad addresses name logical seats (R39), so the contents keep theirs. -/
def seatEntryEffect (c : Nat) (s : State) : State :=
  match s.enteringSeat c with
  | none => s
  | some (i, p) =>
    let o := i.block
    let n := 9 * c + p
    let m := (List.range 8).map (fun t => if s.phys c t = o % 9 then p else s.phys c t)
    let x := s.core o
    let shown := [CORE_STATE_STATE, CORE_STATE_OPCODE, CORE_STATE_CMD_INDEX, CORE_STEPS_LEFT, CORE_CMD_ADDR].foldl
      (fun (t : State) f => t.wr f (s.rd f o) n) s
    let s : State := { shown with
      spareMap := Tab.put s.spareMap c m
      ops := s.ops.map (fun e => (e.1, match e.2.owner with
        | .core k => if k = o then { e.2 with owner := .core n } else e.2
        | .agent a => { e.2 with owner := .agent (reseat o n a) }
        | _ => e.2))
      slots := s.slots.map (fun f => (f.1, { f.2 with agents := f.2.agents.map (fun a => (reseat o n a.1, a.2)) }))
      slotless := s.slotless.map (fun f => { f with agents := f.agents.map (fun a => (reseat o n a.1, a.2)) })
      arrived := s.arrived.map (fun a => { a with agent := reseat o n a.agent })
      asked := s.asked.map (fun a => { a with agent := reseat o n a.agent }) }
    let s := ((s.setCore n { x with failing := 0 }).setCore o default).showIdle o
    ((s.wr (BLK_STAT_STATE .core) 1 n).entered i).fetchNext n

def execSeatEntry (crew : Nat) (s : State) : Host.Outcome State Fault Refusal :=
  s.rails (decide (crew < 16) && (s.enteringSeat crew).isSome) (seatEntryEffect crew)

/-! ### Units and banks -/

/-- UNIT_REMAP (R625): the copy of a unit into a spare completes during the recovery, and the remap entry switches. -/
def State.remapping (s : State) (lpd : Bool) (ctl : Nat) : Option Inst :=
  (s.retired.find? (fun r => r.1.kind == (if lpd then 7 else 6) && r.1.block == ctl && r.2 == 1)).map (fun r => r.1)

def unitRemapEffect (lpd : Bool) (ctl : Nat) (s : State) : State :=
  match s.remapping lpd ctl with
  | some i => s.entered i
  | none => s

def execUnitRemap (lpd : Bool) (ctl : Nat) (s : State) : Host.Outcome State Fault Refusal :=
  s.rails (s.inDrive == false && (s.remapping lpd ctl).isSome) (unitRemapEffect lpd ctl)

/-- SPARE_BANK_COPY (R408): the last row of the copy is done, and reads switch to the spare bank. -/
def State.copyingBank (s : State) (scratch : Bool) (index spare : Nat) : Bool :=
  decide (spare < 2) && decide (index < if scratch then 144 else 16) && s.is (bankFld scratch spare).2 index

def spareBankCopyEffect (scratch : Bool) (index spare : Nat) (s : State) : State :=
  let f := bankFld scratch spare
  let i : Inst := { kind := if scratch then 2 else 4, block := index, pos := s.rd f.1 index }
  (s.off f.2 index).entered i

def execSpareBankCopy (scratch : Bool) (index spare : Nat) (s : State) : Host.Outcome State Fault Refusal :=
  s.rails (s.inDrive == false && s.copyingBank scratch index spare) (spareBankCopyEffect scratch index spare)

/-! ### The background test (R409 to R412) -/

/-- Rows of a memory's banks. -/
def testRows (scratch : Bool) : Nat := if scratch then 1024 else 4096

/-- Registers of the test of a scratchpad, or of a crew store: ENABLE, ROWS, POS, PASSES. -/
def testFlds (scratch : Bool) : Fld × Fld × Fld × Fld :=
  if scratch then (CORE_SP_TEST_CTL_ENABLE, CORE_SP_TEST_CTL_ROWS, CORE_SP_TEST_POS_ROW, CORE_SP_TEST_PASSES)
  else (CST_TEST_CTL_ENABLE, CST_TEST_CTL_ROWS, CST_TEST_POS_ROW, CST_TEST_PASSES)

def testKey (scratch : Bool) (index : Nat) : Nat := index * 2 + b2n scratch

/-- The test may run (R409, R412): enabled, between the end of the drive and the curtain, on a seat without recovery work, within
its rows for this recovery. -/
def State.testReady (s : State) (scratch : Bool) (index : Nat) : Bool :=
  let f := testFlds scratch
  let rows := s.rd f.2.1 index
  s.is f.1 index && s.stkState == 2 && s.stk.ended && !s.stk.curtain &&
  (!scratch || (match (s.core index).block with | some b => b.kind != 2 | none => true)) &&
  (rows == 0 || decide (Tab.look s.testRows (testKey scratch index) 0 < rows))

/-- Logs an outcome of the test (R411, R686): bank, row, column, row of the table. -/
def State.logTest (s : State) (scratch : Bool) (index off col row : Nat) : State :=
  s.logEv (if scratch then .core else .cst) index 0x601 2 0
    (bankOf scratch off + rowOf scratch off * 2 ^ 16 + col * 2 ^ 32 + row * 2 ^ 48)

/-- Local address of a memory; the scratchpad of a core that serves no seat has none (R24, R39). -/
def State.memBase (s : State) (scratch : Bool) (index : Nat) : Option Nat :=
  if scratch then (s.seatOf index).map (scratchBase (index / 9)) else some (crewStoreBase index)

/-- Offset of the word of the row under test in which a finding lies: the test gives the bank, its row register the row (R376, R377, R410). -/
def testOffset (scratch : Bool) (row off : Nat) : Nat :=
  if scratch then bits off 20 2 % 3 * 2 ^ 20 + row % 1024 * 1024 + off % 1024 else row % 4096 * 4096 + off % 4096

/-- One finding of the test (R411): of the value as it stood, or of a value read back. -/
def State.testFinding (s : State) (scratch : Bool) (index row : Nat) : TestOutcome → State
  | .single o col cw readBack =>
    let off := testOffset scratch row o
    if readBack then
      ((s.noteErr scratch index off 3 col cw true).logTest scratch index off col 1).suspect
        { kind := if scratch then 1 else 3, block := index, pos := bankPos (bankOf scratch off) (rowOf scratch off) col }
    else (s.errCorr (if scratch then .core else .cst) index).noteErr scratch index off 1 col cw true
  | .double o col cw readBack =>
    let off := testOffset scratch row o
    let i : Inst := { kind := if scratch then 2 else 4, block := index, pos := bankPos (bankOf scratch off) 0 0 }
    if readBack then ((s.noteErr scratch index off 3 col cw true).logTest scratch index off col 3).permanent i 1
    else
      let s : State := match s.memBase scratch index with
        | some m =>
          let c := m + off / 64 * 64 + cw % 4 * 16
          { s with poison := c :: s.poison.filter (fun p => p != c) }
        | none => s
      (((s.errUncorr (if scratch then .core else .cst) index).noteErr scratch index off 2 col cw true).logTest scratch index off col 2).transient
        i 64

/-- BACKGROUND_TEST (R410 to R412): one row of every bank, with what it found. The row holds its corrected value afterwards. -/
def backgroundTestEffect (scratch : Bool) (index : Nat) (found : List TestOutcome) (s : State) : State :=
  let f := testFlds scratch
  let row := s.rd f.2.2.1 index
  let s := s.wr f.2.2.1 ((row + 1) % testRows scratch) index
  let s := if row + 1 = testRows scratch then s.bump f.2.2.2 1 index else s
  let s : State := { s with testRows := Tab.put s.testRows (testKey scratch index) (Tab.look s.testRows (testKey scratch index) 0 + 1) }
  found.foldl (fun (t : State) x => t.testFinding scratch index row x) s

def execBackgroundTest (scratch : Bool) (index : Nat) (found : List TestOutcome) (s : State) : Host.Outcome State Fault Refusal :=
  s.rails (decide (index < if scratch then 144 else 16) && s.testReady scratch index) (backgroundTestEffect scratch index found)

/-- RC_INVALIDATE (R396): every line of the crew read cache is invalidated at once. -/
def execRcInvalidate (crew : Nat) (s : State) : Host.Outcome State Fault Refusal :=
  s.rails (decide (crew < 16)) (fun s => s.rcClear crew)

/-! ### SPR_CMD (R628, R753 to R756) -/

/-- The item exists (R753). -/
def Inst.exists' (i : Inst) : Bool :=
  let bank := i.pos % 128
  match i.kind with
  | 0 => decide (i.block < 144) && i.pos == 0
  | 1 => decide (i.block < 144) && decide (bank < 50) && decide (bits i.pos 8 12 < 1024) && decide (bits i.pos 20 10 < 548)
  | 2 => decide (i.block < 144) && decide (bank < 50) && i.pos == bank
  | 3 => decide (i.block < 16) && decide (bank < 66) && decide (bits i.pos 20 10 < 548)
  | 4 => decide (i.block < 16) && decide (bank < 66) && i.pos == bank
  | 5 => decide (i.block < 16) && decide (i.pos < 16)
  | 6 => decide (i.block < 8)
  | 7 => decide (i.block < 32)
  | 8 => decide (i.block < 16) && decide (i.pos % 32 < 17) && (i.pos / 32 == 0 || i.pos / 32 == 8)
  | 9 => decide (i.block < 17) && decide (i.pos < if i.block = 16 then 16 else 8)
  | 10 => i.block == 0xFFFF && decide (i.pos < 16384)
  | 11 => (i.block == 0xFFFF && decide (i.pos < 16384)) || (decide (i.block < 16) && decide (i.pos < 4096))
  | 12 => decide (i.block < 8)
  | 13 => decide (i.block < 16) && i.pos == 0
  | 14 => decide (i.block < 40) && decide (i.pos < 64)
  | _ => false

/-- An SPR_CMD ends at once with a status. -/
def State.sprStatus (s : State) (status : Nat) : State := (s.off SPR_CMD_STAT_BUSY).wr SPR_CMD_STAT_STATUS status

/-- The item that an SPR_CMD names. -/
def State.sprInst (s : State) (kind block : Nat) : Inst := { kind := kind % 16, block := block % 65536, pos := s.rd SPR_CMD_POS }

/-- While an SPR_CMD is in progress the write is ignored (R648). -/
def State.sprCmd (s : State) (f : State → State) : State := if s.is SPR_CMD_STAT_BUSY then s.cfgErr .spr else f s

/-- The command stays BUSY while its item is being entered. -/
def State.sprSettle (s : State) (i : Inst) : State :=
  if s.phase i = some 1 ∧ i.kind ≠ 1 ∧ i.kind ≠ 3 ∧ i.kind ≠ 12 then { s with sprOp := some i }.on SPR_CMD_STAT_BUSY
  else s.sprStatus stSuccess

/-- RETIRE (R628, R754). -/
def retireEffect (kind block : Nat) (s : State) : State :=
  s.sprCmd (fun s =>
    let i := s.sprInst kind block
    if i.kind = 15 ∨ !i.exists' then s.sprStatus stMalformed
    else if i.kind = 1 ∨ i.kind = 3 ∨ i.kind = 12 then (s.ledgerNote 4 i 0).sprStatus stSuccess
    else if (s.phase i).isSome then s.sprStatus stBusy
    else (s.permanent i 0).sprSettle i)

def execRetire (kind block : Nat) (s : State) : Host.Outcome State Fault Refusal := s.rails true (retireEffect kind block)

/-- ENTER (R628, R754, R755). -/
def enterSpareEffect (kind block : Nat) (s : State) : State :=
  s.sprCmd (fun s =>
    let i := s.sprInst kind block
    if i.kind = 15 ∨ i.kind = 1 ∨ i.kind = 3 ∨ i.kind = 12 then s.sprStatus stMalformed
    else if i.kind = 5 ∨ i.kind = 13 ∨ i.kind = 14 then s.sprStatus stDeferred
    else if !i.exists' then s.sprStatus stMalformed
    else match s.phase i with
      | some 0 | some 3 =>
        if s.spareLeft i = 0 then s.sprStatus stDeferred
        else
          let s := (s.startEntry i).sprSettle i
          if s.retired.any (fun r => r.1.kind == i.kind && (r.2 == 0 || r.2 == 3)) then s
          else s.wr SPR_PENDING_KINDS (s.rd SPR_PENDING_KINDS - (s.rd SPR_PENDING_KINDS &&& 2 ^ i.kind))
      | _ => s.sprStatus stBusy)

def execEnter (kind block : Nat) (s : State) : Host.Outcome State Fault Refusal := s.rails true (enterSpareEffect kind block)

/-- Records of a region (R629). -/
def ledgerCap : Nat := 262144

/-- ANNOTATE (R628): a host record with INSTANCE and DATA as written. -/
def annotateEffect (kind block : Nat) (s : State) : State :=
  s.sprCmd (fun s =>
    if ledgerCap ≤ (s.ledger false).length + s.ledgerPend.length then s.sprStatus stDeferred
    else (s.ledgerNote 9 (s.sprInst kind block) (s.rd SPR_CMD_POS)).sprStatus stSuccess)

def execAnnotate (kind block : Nat) (s : State) : Host.Outcome State Fault Refusal := s.rails true (annotateEffect kind block)

/-! ### The wear ledger (R629 to R631) -/

/-- CRC-32, IEEE 802.3 (R629). -/
def crcByte (c : Nat) (b : Byte) : Nat :=
  (List.range 8).foldl (fun x _ => if x % 2 = 1 then (x / 2) ^^^ 0xEDB88320 else x / 2) (c ^^^ b.toNat)

def crc32 (d : List Byte) : Nat := (d.foldl crcByte 0xFFFFFFFF) ^^^ 0xFFFFFFFF

/-- The 32 bytes of a record (R629). -/
def ledgerBytes (cycle : Nat) (r : LedgerRec) : List Byte :=
  let b := leBytes r.time 8 ++ leBytes cycle 4 ++ leBytes r.inst.kind 1 ++ leBytes r.event 1 ++ leBytes 0 2 ++
    leBytes r.inst.block 2 ++ leBytes r.inst.pos 6 ++ leBytes r.data 4
  b ++ leBytes (crc32 b) 4

/-- The last record of each item of a region, in the order of those records: the summary of R630. -/
def summarize : List (List Byte) → List (List Byte)
  | [] => []
  | r :: t =>
    let same (q : List Byte) : Bool := fieldLE q 12 1 == fieldLE r 12 1 && (q.drop 16).take 8 == (r.drop 16).take 8
    if t.any same then summarize t else r :: summarize t

/-- Sets the records of a region. -/
def State.setLedger (s : State) (region : Bool) (rs : List (List Byte)) : State :=
  if region then { s with ledger1 := rs } else { s with ledger0 := rs }

/-- LEDGER_WRITE (R630): the oldest waiting record goes into the current region; a region seven-eighths full is summarised into
the other one. -/
def ledgerWriteEffect (s : State) : State :=
  match s.ledgerPend with
  | [] => s
  | r :: t =>
    let region := s.is SPR_LEDGER_STAT_REGION
    let s : State := { s with ledgerPend := t }
    let rs := s.ledger false ++ [ledgerBytes s.powerCycles r]
    let s := (s.setLedger region rs).bump SPR_PC_LEDGER
    if ledgerCap * 7 / 8 ≤ rs.length then
      let sum := summarize rs
      ((s.setLedger (!region) sum).wr SPR_LEDGER_STAT_REGION (b2n (!region))).wr SPR_LEDGER_STAT_USED sum.length
    else s.wr SPR_LEDGER_STAT_USED rs.length

def execLedgerWrite (s : State) : Host.Outcome State Fault Refusal := s.always (!s.ledgerPend.isEmpty) ledgerWriteEffect

end Sys2Proof.Machine
end

