-- ==== Sys2Proof/Machine/Mmu.lean ====
section
/-!
DEFINITION. Translation and faults: walks and the translation caches (R468 to R475), fault slots and their resumption (R480 to
R486), invalidations (R471), the checkpoint unit and the area it writes (R490 to R498, R633 to R636).
-/
namespace Sys2Proof.Machine

/-! ### Walks -/

/-- How far a walk goes (R461): the index shift and width of the last level read, the address of the table and of the entry read
there, and how many sectors the walk has read. -/
def State.walkReads (s : State) (va : Nat) :
    List (Nat × Nat × Nat × Nat) → Nat → Nat → Nat × Nat × Nat × Nat × Nat
  | [], base, n => (0, 0, base, base, n)
  | (level, shift, w, _) :: rest, base, n =>
    let a := base + bits va shift w * 8
    let e := s.rdLE a 8
    if s.poisoned a 8 || !bitOf e 0 || entryMalformed level e || bitOf e 1 then (shift, w, base, a, n + 1)
    else s.walkReads va rest (bits e 16 35 * 256) (n + 1)

/-- The leaves of the sector that a walk read last (R470): every valid one goes into the device TLB. -/
def State.sectorLeaves (s : State) (ctx va shift w base a : Nat) : List TlbEntry :=
  (List.range 4).filterMap (fun k =>
    let b := a / 32 * 32 + 8 * k
    let e := s.rdLE b 8
    let level := if shift = 16 then 0 else 1
    if decide (b < base) || s.poisoned b 8 || !bitOf e 0 || !bitOf e 1 || entryMalformed level e then none
    else some { ctx := ctx, va := va / 2 ^ (shift + w) * 2 ^ (shift + w) + (b - base) / 8 * 2 ^ shift, size := 2 ^ shift, leaf := e })

/-- The object of the tier manager that holds a page of a context (R420). -/
def State.objAt (s : State) (ctx va : Nat) : Option (Nat × Obj) :=
  s.objs.find? (fun o => o.2.ctx == ctx && o.2.pages.any (fun p =>
    decide (p.1 ≤ va) && decide (va < p.1 + o.2.pageFrames * 65536)))

/-- A page of an object has been used: its last-touched stroke rises (R425). -/
def State.touchObj (s : State) (ctx va : Nat) : State :=
  match s.objAt ctx va with
  | some (n, o) => { s with objs := Tab.put s.objs n { o with touched := max o.touched s.stroke } }
  | none => s

/-- An agent may ask for a translation in a context: a core that holds a block of it, a channel that works in it, or a unit of
the device. -/
def State.asks (s : State) (ag : Agent) (ctx : Nat) : Bool :=
  match ag with
  | .core i => decide (i < 144) && (match (s.core i).block with | some b => b.ctx == ctx | none => false)
  | .chan e c => (s.chan e c).desc.isSome && (s.chan e c).ctx == ctx
  | .cox c => decide (c < 16)
  | _ => true

/-- CMD_ID of the command that a seat holds. -/
def Core.cmdId (x : Core) : Nat :=
  match x.run, x.next with
  | some r, _ => fieldLE r.raw 2 2
  | none, some raw => fieldLE raw 2 2
  | none, none => 0

/-- The number of the descriptor that a channel has in progress (R481, ID). -/
def State.chanCmd (s : State) (e c : Nat) : Nat := match (s.chan e c).desc with | some d => fieldLE d.raw 4 2 | none => 0

/-- DISABLE_REQ or FORCE_OFF of a channel has been written, and it is not disabled yet (R522, R523). -/
def State.draining (s : State) (e c : Nat) : Bool :=
  s.dmaRd e c CDM_CH_CTL_DISABLE_REQ HDM_CH_CTL_DISABLE_REQ == 1 || s.dmaRd e c CDM_CH_CTL_FORCE_OFF HDM_CH_CTL_FORCE_OFF == 1

/-- A channel pauses at a page fault (R519, R527), one that drains too. -/
def State.pauseChan (s : State) (e c ctx va level : Nat) (write : Bool) : State :=
  let id := s.chanCmd e c
  let s := (s.setChan e c { s.chan e c with paused := true }).dmaWr e c CDM_CH_STAT_STATUS HDM_CH_STAT_STATUS stPageFault
  let s := s.setChState e c 2
  s.takeFault (.chan e c) ctx va level write id

/-- A paused channel goes on. -/
def State.unpauseChan (s : State) (e c : Nat) (error : Option Nat) : State :=
  let x := s.chan e c
  let s := s.setChan e c { x with paused := false, error := error.orElse (fun _ => x.error) }
  if s.chState e c = 2 then s.setChState e c (if s.draining e c then 4 else 1) else s

/-- An agent stops at a page fault and takes a fault slot (R141, R476, R480). -/
def State.faultAgent (s : State) (ag : Agent) (ctx va level : Nat) (write : Bool) : State :=
  match ag with
  | .core i =>
    let t := s.stallCore i ctx va level write false (s.core i).cmdId
    if (s.core i).run.isSome then t.bumpSat CORE_ABORT_COUNT 1 i else t
  | .chan e c => s.pauseChan e c ctx va level write
  | _ => s.takeFault ag ctx va level write 0

/-! ### Resuming and aborting faults (R484 to R486) -/

/-- An agent that a fault had stopped goes on (R477). -/
def State.wakeAgent (s : State) (ag : Agent) : State :=
  match ag with
  | .core i =>
    let s := s.updCore i (fun x => { x with stalled := false })
    let s := if (s.core i).block.isSome ∧ !(s.core i).held then s.wr CORE_STATE_STATE 1 i else s
    s.fetchNext i
  | .chan e c => s.unpauseChan e c none
  | _ => s

/-- A cox whose access was aborted with 0x20 (R476, R484): the sheet is refused, or the cue fails. A cue that waited for its
record gets none, which leaves a logbook entry (R86). -/
def State.abortCox (s : State) (c va tag st : Nat) : State :=
  let x := s.cox c
  if tag / 65536 = 0 then s.refuseSheet c ((s.fetchTarget c).getD s.stroke) st
  else
    let idx := tag / 65536 % 65536 - 1
    match x.cur with
    | some sh => match sh.cues[idx]? with
      | some q =>
        if x.done.contains idx then s
        else if x.issued.contains idx then
          match Tab.find x.running idx with
          | some r => s.endCue c q idx r (if statusOk r.status then st else r.status) true
          | none => s
        else if q.statusPtr ≠ 0 ∧ (spanPages q.statusPtr 32).any (fun p => p.1 / 65536 == va / 65536) then
          (s.issueCue c idx 0).endCue c q idx { (default : CueRun) with status := st } st true
        else s.failCue c idx st
      | none => s
    | none => s

/-- An agent's access ends with a status: 0x20 when its fault is aborted (R484), 0x7E when its context is lost (R487). -/
def State.abortAgent (s : State) (ctx va st : Nat) (a : Agent × Nat) : State :=
  match a.1 with
  | .core i => (s.updCore i (fun x => { x with stalled := false })).failCommand i st (s.core i).cmdId
  | .chan e c => s.unpauseChan e c (some st)
  | .cox c => s.abortCox c va a.2 st
  | .roster => if 65536 ≤ a.2 then { s with forkAborted := (a.2, st) :: s.forkAborted } else s
  | .tier => { s with rosAborted := (ctx + 64, va / 65536) :: s.rosAborted }
  | .tasks => { s with rosAborted := (ctx + 128, va / 65536) :: s.rosAborted }
  | _ => s

/-- The fault of a page has been aborted for a unit that has no state of its own to say so: 64 for the tier manager, 128 for the task
unit. Its next access there fails with 0x20 (R484). -/
def State.faultAborted (s : State) (base ctx va : Nat) : Bool := s.rosAborted.contains (ctx + base, va / 65536)

/-- The failure has been taken. -/
def State.takeAbort (s : State) (base ctx : Nat) : State := { s with rosAborted := s.rosAborted.filter (fun a => a.1 != ctx + base) }

/-- Agents stalled without a slot retry each time a slot is freed (R480). -/
def State.retrySlotless (s : State) : State :=
  let fs := s.slotless
  fs.foldl (fun (t : State) f =>
    if f.status = stLost then t.reportLost f else f.agents.foldl (fun (u : State) a => u.wakeAgent a.1) t) { s with slotless := [] }

/-- Frees a slot: its agents walk again, or fail. -/
def State.freeFault (s : State) (n : Nat) (abort : Option Nat) : State :=
  match Tab.find s.slots n with
  | none => s
  | some f =>
    if f.status = stLost then s else
    let s : State := { s with slots := Tab.del s.slots n }
    let s := s.wr MMU_FAULT_OUT_COUNT (s.rd MMU_FAULT_OUT_COUNT - 1)
    f.agents.foldl (fun (t : State) a => match abort with | some st => t.abortAgent f.ctx f.va st a | none => t.wakeAgent a.1) s

/-- A write of mode 0 or 2 (R484, R485): a stale generation is ignored and counted. -/
def State.resumeSlot (s : State) (id : Nat) (abort : Option Nat) : State :=
  let n := id % 256
  if Tab.look s.slotGen n 0 ≠ id / 256 % 256 then s.bump MMU_PC_STALE_RESUME
  else if (Tab.find s.slots n).isSome then (s.freeFault n abort).retrySlotless else s

/-- A write of mode 1 or 3 (R484): every slot of the context and every agent of it without a slot. -/
def State.resumeContext (s : State) (ctx : Nat) (abort : Option Nat) : State :=
  let mine := s.slotless.filter (fun f => f.ctx == ctx && f.status != stLost)
  let s : State := { s with slotless := s.slotless.filter (fun f => f.ctx != ctx || f.status == stLost) }
  let s := mine.foldl (fun (t : State) f =>
    f.agents.foldl (fun (u : State) a => match abort with | some st => u.abortAgent f.ctx f.va st a | none => u.wakeAgent a.1) t) s
  let ns := (s.slots.filter (fun f => f.2.ctx == ctx && f.2.status != stLost)).map (fun f => f.1)
  let s := ns.foldl (fun (t : State) n => t.freeFault n abort) s
  if ns.isEmpty then s else s.retrySlotless

def execRetry (faultId : Nat) (s : State) : Host.Outcome State Fault Refusal :=
  s.rails true (fun s => s.resumeSlot faultId none)

def execRetryContext (ctx : Nat) (s : State) : Host.Outcome State Fault Refusal :=
  s.rails true (fun s => s.resumeContext (ctx % 64) none)

def execAbort (faultId : Nat) (s : State) : Host.Outcome State Fault Refusal :=
  s.rails true (fun s => s.resumeSlot faultId (some stPageFault))

def execAbortContext (ctx : Nat) (s : State) : Host.Outcome State Fault Refusal :=
  s.rails true (fun s => s.resumeContext (ctx % 64) (some stPageFault))

/-- What follows a context fault (R487): every stalled access of the context ends with 0x7E, and each cox that runs a sheet of it
requests hold water. -/
def State.settleLost (s : State) : State :=
  s.ctxFaults.foldl (fun (t : State) ctx =>
    let t := t.resumeContext ctx (some stLost)
    (List.range 16).foldl (fun (u : State) c =>
      match (u.cox c).cur with
      | some sh => if sh.ctx = ctx then u.sendHoldReq stLost else u
      | none => u) t) { s with ctxFaults := [] }

/-- WALK (R461 to R475): a walk of the tables ends at a leaf, which fills the device TLB, or at a fault. A translation that the
caches hold is used without one; either way the object is touched (R425; log 59). -/
def walkEffect (ag : Agent) (ctx va : Nat) (acc : Access) (s : State) : State :=
  if s.tlb.any (fun t => t.ctx == ctx && decide (t.va ≤ va) && decide (va < t.va + t.size)) then s.touchObj ctx va
  else
    let (shift, w, base, a, n) := s.walkReads va walkLevels (s.rd CTX_PT_ROOT_ROOT ctx * 8192) 0
    let r := s.leafOf ctx va (acc != .read)
    let s := ((s.bump MMU_PC_DTLB_MISSES).bump MMU_PC_WALK_READS n).bump MMU_PC_WALKS
    match r with
    | .ok _ =>
      let new := s.sectorLeaves ctx va shift w base a
      let s : State := { s with tlb := s.tlb.filter (fun t => !new.any (fun u => u.ctx == t.ctx && u.va == t.va)) ++ new }
      s.touchObj ctx va
    | .error (.pageFault a level wr) => s.faultAgent ag ctx a level wr
    | .error (.ctxFault a l w) => (s.loseContext ctx a l w ag 0).settleLost
    | .error _ => s

def execWalk (agent : Agent) (ctx va : Nat) (access : Access) (s : State) : Host.Outcome State Fault Refusal :=
  s.rails (decide (ctx < 64) && decide (va < 2 ^ 49) && s.ctxOn ctx && !s.lost.contains ctx && s.asks agent ctx)
    (walkEffect agent ctx va access)

/-! ### The fault ring -/

/-- The fault ring has room, is enabled and has no error (R483). -/
def State.ringReady (s : State) : Bool :=
  s.is MMU_FAULT_RING_CTL_ENABLE && !s.is MMU_FAULT_OUT_RING_ERR &&
  (s.rd MMU_FAULT_TAIL + 2 ^ 32 - s.rd MMU_FAULT_HEAD) % 2 ^ 32 != 2 ^ s.rd MMU_FAULT_RING_CTL_SIZE_LOG2

/-- FAULT_RING_FLUSH (R483): a record for each slot not yet reported, in ascending order; OVERFLOW clears when none is left. -/
def flushEffect (s : State) : State :=
  let s := (s.slots.filter (fun f => !f.2.reported)).foldl (fun (t : State) f =>
    if t.ringReady then t.reportFault f.1 else t) s
  let done := s.slots.filter (fun f => f.2.reported && f.2.status == stLost)
  let s := done.foldl (fun (t : State) f =>
    ({ t with slots := Tab.del t.slots f.1 } : State).wr MMU_FAULT_OUT_COUNT (t.rd MMU_FAULT_OUT_COUNT - 1)) s
  let s := if done.isEmpty then s else s.retrySlotless
  if s.slots.all (fun f => f.2.reported) then s.off MMU_FAULT_OUT_OVERFLOW else s

def execFaultRingFlush (s : State) : Host.Outcome State Fault Refusal :=
  s.work (s.ringReady && (s.is MMU_FAULT_OUT_OVERFLOW || s.slots.any (fun f => !f.2.reported))) flushEffect

/-! ### Invalidations -/

/-- A cached translation lies in the scope of MMU_INVAL_CTL (R471). -/
def State.inScope (s : State) (t : TlbEntry) : Bool :=
  let va := s.rd MMU_INVAL_VA
  match s.rd MMU_INVAL_CTL_SCOPE with
  | 0 => t.ctx == s.rd MMU_INVAL_CTL_CONTEXT && decide (t.va ≤ va) && decide (va < t.va + t.size)
  | 1 => t.ctx == s.rd MMU_INVAL_CTL_CONTEXT && overlaps t.va t.size va (s.rd MMU_INVAL_SIZE)
  | 2 => t.ctx == s.rd MMU_INVAL_CTL_CONTEXT
  | _ => true

/-- Drops the translations of a context (R474). -/
def State.dropContext (s : State) (ctx : Nat) : State := { s with tlb := s.tlb.filter (fun t => t.ctx != ctx) }

/-- INVALIDATION (R471, R500, R783): GO drops the translations in scope and sets BUSY; while BUSY is set the write is ignored. -/
def invalidationEffect (s : State) : State :=
  if s.is MMU_INVAL_CTL_BUSY then s.cfgErr .mmu
  else ({ s with tlb := s.tlb.filter (fun t => !s.inScope t) }.on MMU_INVAL_CTL_GO).on MMU_INVAL_CTL_BUSY

def execInvalidation (s : State) : Host.Outcome State Fault Refusal := s.rails true invalidationEffect

/-- Remote operations and reads of host memory in the scope's contexts are outstanding: they may have used a translation that the
invalidation drops (R471, R472). -/
def State.invalWaits (s : State) : Bool :=
  let mine (ctx : Nat) : Bool := s.rd MMU_INVAL_CTL_SCOPE == 3 || ctx == s.rd MMU_INVAL_CTL_CONTEXT
  s.ops.any (fun o => mine o.2.ctx) || s.hostReads.any (fun r => r.2.agent.isSome) || !s.filtered.isEmpty

/-- INVALIDATION_COMPLETE (R471, R472): the accesses that used the translations have completed, and BUSY clears. -/
def execInvalidationComplete (s : State) : Host.Outcome State Fault Refusal :=
  s.rails (s.is MMU_INVAL_CTL_BUSY && !s.invalWaits) (fun s => (s.off MMU_INVAL_CTL_GO).off MMU_INVAL_CTL_BUSY)

/-! ### The checkpoint area (R633 to R636) -/

/-- Global physical address of checkpoint area `a` and its slots. -/
def State.areaBase (s : State) (a : Nat) : Nat := s.rd TIER_CKPT_AREA_BASE 0 a
def State.areaSlots (s : State) (a : Nat) : Nat := s.rd TIER_CKPT_AREA_SLOTS_SLOTS 0 a

/-- Offset of slot 0 of an area (R634). -/
def areaSlot0 (slots : Nat) : Nat := 0x200000 + 65536 * ceilDiv (slots * 8) 65536

/-- Bytes that the checkpoint unit writes at a global physical address: in local memory, or as PUTs to the lender. Memory that an open lend
window has given to another device is not written (R441). -/
def State.putRaw (s : State) (g : Nat) (data : List Byte) : State :=
  if gpaDev g = s.dev then
    if s.lentAway s.dev (gpaLocal g) data.length then s else (s.wrMem (gpaLocal g) data).noteWrite (gpaLocal g) data.length
  else s.remotePut (.agent .tier) 0 false g data

/-- The header of an area (R634). -/
def State.areaHeader (s : State) (state stroke : Nat) : List Byte :=
  leBytes 8 2 ++ leBytes state 1 ++ leBytes 0 1 ++ leBytes s.dev 2 ++ leBytes 0 2 ++ leBytes stroke 8 ++
    leBytes (s.rd STK_SCHEDULE_ID) 8 ++ leBytes (s.rd DEV_FW_VERSION) 4 ++
    leBytes (s.rd NARROW_CFG_KV + s.rd NARROW_CFG_GRAD * 16 + s.rd NARROW_CFG_OPT * 256) 4 ++ leBytes 0 32

/-- The bytes that stand for a snapshot in an area: its layout is not given, so they are free values (log 17). -/
def snapBytes (seed g : Nat) : List Byte :=
  (List.range 0x1F0000).map (fun k => Config.freeByte seed (gpaLocal g + 0x10000 + k))

/-- The registers that a snapshot holds: the pools of the ROS page and the STK parameters (R635). -/
def snapReg (k : Nat × Nat) : Bool :=
  (pageFields .ros ++ [STK_PERIOD_NS, STK_DRIVE_NS, STK_LEAD_NS, STK_QUANTUM_NS, STK_STRETCH_MAX_PERMILLE, STK_CATCH_TIMEOUT_NS,
    STK_FIRST_STROKE, STK_MEMBERS_COUNT, STK_FWD_MASK_MASK]).any (fun f =>
    (List.range f.n).any (fun j => f.key 0 j == k.1 && (f.page != .ros || decide (0x200 ≤ f.off))))

/-- The on-chip state that a snapshot holds (R635). -/
def State.snapshot (s : State) : Snapshot :=
  { seed := s.fresh, entries := s.mem.filter (fun c => (regionOf c.1).1 == .roster), reqs := s.rosReqs, prev := s.rosPrev
    advs := s.rosAdvs, demands := s.rosDemands, drops := s.rosDrops, adds := s.rosAdds, noDir := s.rosNoDir
    regs := s.regs.filter snapReg, tokens := s.tokens.filter (fun t => !tokScoped t.1), objs := s.objs }

/-- The checkpoint unit enters ACTIVE (R491, R493, R635): the header with STATE 1, then the snapshot. Writes to protected frames
wait from here on. -/
def State.enterActive (s : State) (stroke : Nat) : State :=
  let a := s.rd TIER_CKPT_CTL_SELECT
  let g := s.areaBase a
  let s := (((s.off MMU_CKPT_CTL_ARM).wr MMU_CKPT_STAT_STATE 2).wr TIER_CKPT_STAT_AREA a).wr TIER_CKPT_FRAMES_COUNT 0
  let s : State := { s with ckptFrames := [] }
  let s := s.putRaw g (s.areaHeader 1 stroke)
  let snap := s.snapshot
  let s : State := { s with snaps := Tab.put s.snaps g snap }
  if gpaDev g = s.dev then s.undefine (gpaLocal g + 0x10000) 0x1F0000
  else { s with fresh := s.fresh + 1 }.putRaw (g + 0x10000) (snapBytes snap.seed g)

/-- The checkpoint breaks (R496, R636). -/
def State.breakCkpt (s : State) : State :=
  ((s.wr MMU_CKPT_STAT_STATE 3).putRaw (s.areaBase (s.rd TIER_CKPT_STAT_AREA) + 2) (leBytes 3 1)).logEv .mmu 0 0x403 3 0
    s.ckptFrames.length

/-- Address and mask of a frame's bit (R490). -/
def State.clearCkptBit (s : State) (f : Nat) : State :=
  let a := s.rd MMU_CKPT_BASE + f / 8
  (s.wrByte a (s.rdByte a &&& BitVec.ofNat 8 (255 - 2 ^ (f % 8)))).noteWrite a 1

/-- Copies a frame into the next free slot of the area and clears its bit, or breaks the checkpoint (R494, R636). Once the bitmap has been
written outside IDLE the copies are undefined (R491): free values. -/
def State.copyFrame (s : State) (f : Nat) : State :=
  let a := s.rd TIER_CKPT_STAT_AREA
  let n := s.ckptFrames.length
  if s.areaSlots a ≤ n then s.breakCkpt
  else
    let g := s.areaBase a
    let data := if s.wildPools.contains 16 || s.wildPools.contains 17 then (List.range 65536).map (fun k => Config.freeByte s.fresh (f * 65536 + k))
      else s.rdMem (f * 65536) 65536
    let s := s.putRaw (g + areaSlot0 (s.areaSlots a) + n * 65536) data
    let s := (s.putRaw (g + 0x200000 + 8 * n) (leBytes (f * 65536 + 1) 8)).clearCkptBit f
    { s with ckptFrames := s.ckptFrames ++ [f] }.wr TIER_CKPT_FRAMES_COUNT (n + 1) |>.bump MMU_PC_CKPT_COPIES

/-- A frame is protected: it can be, and its bit is set. -/
def State.frameSet (s : State) (f : Nat) : Bool := inDram (f * 65536) && s.ckptBit (f * 65536)

/-- The protected frames of a local span are copied, so that a write of the device itself may go on (R492, R494). -/
def State.copyHeld (s : State) (a n : Nat) : State :=
  if s.rd MMU_CKPT_STAT_STATE ≠ 2 then s
  else ((List.range (n / 65536 + 2)).map (fun k => a / 65536 + k)).foldl (fun (t : State) f =>
    if f * 65536 < a + n ∧ t.rd MMU_CKPT_STAT_STATE = 2 ∧ t.frameSet f then t.copyFrame f else t) s

/-- The protected frames at which some writes of a context wait are copied at once, each in its turn (R494). -/
def State.copyFor (s : State) (ctx : Nat) (ws : List Write) : Nat → State
  | 0 => s
  | n + 1 => match s.checkWrites ctx ws with
    | .error (.frame f) => (s.copyFrame f).copyFor ctx ws n
    | _ => s

/-- Bytes that the device itself writes at a global physical address; a protected frame is copied first (R492). -/
def State.putOwn (s : State) (g : Nat) (data : List Byte) : State :=
  (if gpaDev g = s.dev then s.copyHeld (gpaLocal g) data.length else s).putRaw g data

/-- FRAME_COPY (R492, R494). -/
def execFrameCopy (frame : Nat) (s : State) : Host.Outcome State Fault Refusal :=
  s.rails (s.rd MMU_CKPT_STAT_STATE == 2 && s.frameSet frame) (fun s => s.copyFrame frame)

/-- The frames whose bit is set, in ascending order: only listed and undefined bytes of the bitmap can hold one. -/
def State.setFrames (s : State) : List Nat :=
  let lo := s.rd MMU_CKPT_BASE
  let n := 5111808
  let listed := (s.mem.filter (fun c => decide (lo ≤ c.1) && decide (c.1 < lo + n))).map (fun c => (c.1, ()))
  let free := s.undef.flatMap (fun u =>
    let a := max u.lo lo
    (List.range (min (u.lo + u.len) (lo + n) - a)).map (fun k => (a + k, ())))
  (Tab.canon (listed ++ free)).flatMap (fun c =>
    ((List.range 8).map (fun b => (c.1 - lo) * 8 + b)).filter s.frameSet)

/-- Recovery work of the device may run now (R55 to R57). -/
def State.inRecovery (s : State) : Bool :=
  !s.stk.curtain && (s.stkState == 0 || s.stkState == 1 || (s.stkState == 2 && s.stk.ended))

/-- The scan has reached the end of the bitmap (R495, R636): FRAMES and the checks, then STATE 2; the unit is IDLE with DONE. -/
def State.endScan (s : State) : State :=
  let g := s.areaBase (s.rd TIER_CKPT_STAT_AREA)
  let index := s.ckptFrames.flatMap (fun f => leBytes (f * 65536 + 1) 8)
  let snap := snapBytes (Tab.look s.snaps g default).seed g
  let s := s.putRaw (g + 32) (leBytes s.ckptFrames.length 4 ++ leBytes (crc32 index) 4 ++ leBytes (crc32 snap) 4)
  ((s.putRaw (g + 2) (leBytes 2 1)).wr MMU_CKPT_STAT_STATE 0).on MMU_CKPT_STAT_DONE

/-- CHECKPOINT_SCAN (R495, R496): the lowest frame still set is copied, or in BROKEN its bit is cleared without a copy; with none left the
scan is at its end. So the curtain stops it at a frame boundary, and the next recovery goes on from there. -/
def scanEffect (s : State) : State :=
  match s.setFrames.head? with
  | some f => if s.rd MMU_CKPT_STAT_STATE = 2 then s.copyFrame f else s.clearCkptBit f
  | none => if s.rd MMU_CKPT_STAT_STATE = 2 then s.endScan else s

def execCheckpointScan (s : State) : Host.Outcome State Fault Refusal :=
  s.rails (decide (2 ≤ s.rd MMU_CKPT_STAT_STATE) && s.inRecovery) scanEffect

/-- ARM (R491, R635). MMU_CKPT_CTL.ARM reads 1 while the unit is ARMED: R783 has it read 1 while the action lasts, and that this ends as the
checkpoint becomes ACTIVE, not as ARM is accepted, is DESIGN CHOICE, log 19. -/
def armEffect (s : State) : State :=
  if s.rd MMU_CKPT_STAT_STATE ≠ 0 then s
  else if s.stkState = 0 then s.enterActive (s.rd STK_FIRST_STROKE)
  else if s.rd MMU_CKPT_AT ≤ s.stroke then s.cfgErr .mmu
  else (s.wr MMU_CKPT_STAT_STATE 1).on MMU_CKPT_CTL_ARM

def execArm (s : State) : Host.Outcome State Fault Refusal := s.rails true armEffect

/-- CANCEL (R491). -/
def cancelEffect (s : State) : State :=
  let s := s.off MMU_CKPT_CTL_ARM
  match s.rd MMU_CKPT_STAT_STATE with
  | 1 => s.wr MMU_CKPT_STAT_STATE 0
  | 2 => s.breakCkpt
  | 3 => s.wr MMU_CKPT_STAT_STATE 0
  | _ => s

def execCancel (s : State) : Host.Outcome State Fault Refusal := s.rails true cancelEffect

end Sys2Proof.Machine
end

