-- ==== Sys2Proof/Machine/Tier.lean ====
section
/-!
DEFINITION. The tier manager (R416 to R444): objects, frames, the tier command ring, moves, rebalancing, leases and lend windows.
-/
namespace Sys2Proof.Machine

/-! ### Frames and tier pools (R426 to R429) -/

/-- Ranges of 64 KiB frames of a tier: first frame and count (R39, R416, R442). -/
def State.tierRanges (s : State) (t : Nat) : List (Nat × Nat) :=
  match t with
  | 1 => [(s.dev * 2 ^ 27, 0x7C0000)]
  | 2 => [(s.dev * 2 ^ 27 + 0x800000, 0x1F00000)]
  | _ => (List.range 16).filterMap (fun j =>
      if s.is TIER_LEASE_CTL_ENABLE 0 j && s.rd TIER_LEASE_CTL_STATE 0 j == 0 then
        some (s.rd TIER_LEASE_CTL_LENDER 0 j * 2 ^ 27 + s.rd TIER_LEASE_BASE 0 j / 65536, s.rd TIER_LEASE_SIZE 0 j * 32)
      else none)

/-- Frames of a lend window that is not closed. -/
def State.lendFrames (s : State) (w : Nat) : Nat × Nat :=
  (s.dev * 2 ^ 27 + s.rd TIER_LEND_BASE 0 w / 65536, s.rd TIER_LEND_SIZE 0 w * 32)

/-- Frames an object holds, of its pages and of its move. -/
def Obj.held (o : Obj) : List (Nat × Nat) :=
  o.pages.map (fun p => (p.2, o.pageFrames)) ++
    (match o.move with | some m => m.frames.map (fun f => (f, o.pageFrames)) | none => [])

/-- Frames that no object may take: those of objects and of lend windows (R440). -/
def State.takenFrames (s : State) : List (Nat × Nat) :=
  s.objs.flatMap (fun o => o.2.held) ++
    ((List.range 8).filter (fun w => s.rd TIER_LEND_CTL_STATE 0 w != 0)).map s.lendFrames

/-- Number of frames of an object. -/
def Obj.size (o : Obj) : Nat := o.pages.length * o.pageFrames

/-- Frames of a tier that are free: a frame of an object within a lend window counts once. -/
def State.freeFrames (s : State) (t : Nat) : Nat :=
  let total := ((s.tierRanges t).map (fun r => r.2)).sum
  let lent := ((List.range 8).filter (fun w => s.rd TIER_LEND_CTL_STATE 0 w != 0)).map s.lendFrames
  let held := (s.objs.flatMap (fun o => o.2.held)).filter (fun h => !lent.any (fun w => overlaps w.1 w.2 h.1 h.2))
  let used := ((held ++ lent).map (fun u => if (s.tierRanges t).any (fun r => overlaps r.1 r.2 u.1 u.2) then u.2 else 0)).sum
  total - used

/-- Place `k` of runs of `n` frames in some ranges. -/
def nthFrame (n : Nat) : List (Nat × Nat) → Nat → Option Nat
  | [], _ => none
  | (f, c) :: t, k => if k < c / n then some (f + k * n) else nthFrame n t (k - c / n)

/-- A free run of `n` frames, searched from a starting place. -/
def pickFrames (ranges used : List (Nat × Nat)) (n start : Nat) : Option Nat :=
  let total := (ranges.map (fun r => r.2 / n)).sum
  if total = 0 then none
  else
    let tries := min total ((used.map (fun u => u.2)).sum + 1)
    (List.range tries).findSome? (fun k =>
      match nthFrame n ranges ((start + k) % total) with
      | some f => if used.any (fun u => overlaps u.1 u.2 f n) then none else some f
      | none => none)

/-- Allocates runs of `n` frames in a tier. Which free frames the tier manager takes is not given: the search starts at a free
value (log 20). -/
def State.alloc (s : State) (t n : Nat) (used : List (Nat × Nat)) : Nat → Option (List Nat × State)
  | 0 => some ([], s)
  | k + 1 =>
    let (r, s) := s.free
    match pickFrames (s.tierRanges t) used n r with
    | none => none
    | some f => match s.alloc t n ((f, n) :: used) k with
      | some (fs, s) => some (f :: fs, s)
      | none => none

/-- LIMIT and USED registers of a tier (R428). -/
def poolFlds (t : Nat) : Fld × Fld :=
  match t with
  | 1 => (TIER_POOL_HBM_LIMIT, TIER_POOL_HBM_USED)
  | 2 => (TIER_POOL_LPD_LIMIT, TIER_POOL_LPD_USED)
  | _ => (TIER_POOL_NBR_LIMIT, TIER_POOL_NBR_USED)

/-- Tier pool of a context. -/
def State.poolOf (s : State) (ctx : Nat) : Nat := s.rd CTX_CTL_TIER_POOL ctx

/-- Counts frames for or against a tier pool. -/
def State.addUsed (s : State) (ctx t n : Nat) : State :=
  s.wr (poolFlds t).2 (s.rd (poolFlds t).2 0 (s.poolOf ctx) + n) 0 (s.poolOf ctx)
def State.subUsed (s : State) (ctx t n : Nat) : State :=
  s.wr (poolFlds t).2 (s.rd (poolFlds t).2 0 (s.poolOf ctx) - n) 0 (s.poolOf ctx)

/-- Takes `count` runs of `n` frames in a tier for a context, within its tier pool's limit (R428, R429). -/
def State.take (s : State) (ctx t n count : Nat) : Option (List Nat × State) :=
  let q := s.poolOf ctx
  if s.rd (poolFlds t).1 0 q < s.rd (poolFlds t).2 0 q + n * count then none
  else match s.alloc t n s.takenFrames count with
    | some (fs, s) => some (fs, s.addUsed ctx t (n * count))
    | none => none

/-- Tier order of a hint (R426). -/
def hintOrder (hint pinTier : Nat) : List Nat :=
  match hint with
  | 0 => [1, 2, 3] | 1 => [2, 1, 3] | 2 => [3, 2, 1] | _ => [pinTier + 1]

/-- Preferred tier of an object. -/
def Obj.preferred (o : Obj) : Nat := (hintOrder o.hint o.pinTier).headD 1

/-! ### The object table (R421) -/

/-- Objects in the table; a scale page has no record (R422). -/
def State.objCount (s : State) : Nat := (s.objs.filter (fun o => decide (o.1 < 2 ^ 20))).length

/-- Free records of the table. -/
def State.freeRecords (s : State) : Nat := s.rd TIER_TABLE_SIZE_RECORDS - s.objCount

/-- The table's registers after a change, and the record in memory: its layout is not given, so its bytes are free values
(log 20). -/
def State.noteObj (s : State) (id : Nat) : State :=
  let s := (s.wr TIER_OBJECTS_COUNT s.objCount).wr TIER_STAT_TABLE_FULL (b2n (s.freeRecords == 0))
  let s := s.wr TIER_STAT_MOVING (b2n (s.objs.any (fun o => o.2.move.isSome)))
  if id < 2 ^ 20 then s.undefine (s.rd TIER_TABLE_BASE + id * 64) 64 else s

def State.setObj (s : State) (id : Nat) (o : Obj) : State := { s with objs := Tab.put s.objs id o }.noteObj id
def State.delObj (s : State) (id : Nat) : State := { s with objs := Tab.del s.objs id }.noteObj id

/-- A free record: which one is not given, so the search starts at a free value (log 20). -/
def State.newId (s : State) : Nat × State :=
  let (r, s) := s.free
  let n := max 1 (s.rd TIER_TABLE_SIZE_RECORDS)
  (((List.range (s.objs.length + 1)).findSome? (fun k =>
    if (Tab.find s.objs ((r + k) % n)).isNone then some ((r + k) % n) else none)).getD (r % n), s)

/-! ### Page-table entries of managed pages (R462, R465) -/

/-- The leaf of a managed page: VALID, LEAF, MANAGED, PINNED and PA; the permissions stay as the entry held them (log 21). -/
def managedLeaf (old frame : Nat) (pin : Bool) : Nat :=
  (old &&& 0x7C) + 0x83 + b2n pin * 0x100 + frame * 65536

/-- Writes a page-table entry; a protected frame is copied first (R492). -/
def State.putLeaf (s : State) (a v : Nat) : State := ((s.copyHeld a 8).wrLE a 8 v).noteWrite a 8

/-- Maps a page of an object to a frame; the leaf of a PINNED object is pinned (R427). A page whose walk fails stays as it is. -/
def State.mapPage (s : State) (o : Obj) (va frame : Nat) : State :=
  match s.leafAddr o.ctx va o.big with
  | .ok a => s.putLeaf a (managedLeaf (s.rdLE a 8) frame (o.state == 3))
  | .error _ => s

/-- Writers to a page of an object stall at their translation (R433 point 3). -/
def State.stallPage (s : State) (o : Obj) (va : Nat) : State :=
  match s.leafAddr o.ctx va o.big with
  | .ok a => s.putLeaf a (s.rdLE a 8 ||| 0x200)
  | .error _ => s

/-- State of an object with a hint that is not moving: hint PIN pins it, but never in tier 3 (R427). -/
def restState (hint tier : Nat) : Nat := if hint = 3 ∧ tier < 3 then 3 else 0

/-- Unmaps a page of an object. -/
def State.unmapPage (s : State) (o : Obj) (va : Nat) : State :=
  match s.leafAddr o.ctx va o.big with
  | .ok a => s.putLeaf a (s.rdLE a 8 &&& 0x7C)
  | .error _ => s

/-- Drops the cached translations of an object's pages. -/
def State.dropPages (s : State) (o : Obj) : State :=
  { s with tlb := s.tlb.filter (fun t =>
      !(t.ctx == o.ctx && o.pages.any (fun p => overlaps p.1 (o.pageFrames * 65536) t.va t.size))) }

/-! ### Moves (R433, R439) -/

/-- An object starts to move to a tier: its frames there are allocated (R433 point 1). -/
def State.startMove (s : State) (id : Nat) (o : Obj) (t : Nat) : Option State :=
  match s.take o.ctx t o.pageFrames o.pages.length with
  | none => none
  | some (fs, s) =>
    some (s.setObj id { o with
      state := if t < o.tier then 1 else 2
      move := some { tier := t, frames := fs, next := 0, dirty := [], after := none } })

/-- The first tier of a list to which the object can move. -/
def State.startFirst (s : State) (id : Nat) (o : Obj) : List Nat → Option State
  | [] => none
  | t :: rest => match s.startMove id o t with
    | some u => some u
    | none => s.startFirst id o rest

/-- Moves run now (R435). -/
def State.movesRun (s : State) : Bool := s.inRecovery || (s.is TIER_CTL_DRIVE_MOVES && s.stkState == 2)

/-- Chunks that a move copies. -/
def Obj.newFrames (o : Obj) (m : ObjMove) : List Nat :=
  m.frames.flatMap (fun f => (List.range o.pageFrames).map (fun k => f + k))

/-- The bytes of a span of a frame, read where the frame lies. A poisoned codeword of local memory is copied with its poison. -/
def State.frameBytes (s : State) (g n : Nat) : Except Stop (List Byte) :=
  if gpaDev g = s.dev then .ok (s.rdMem (gpaLocal g) n)
  else match s.arrivedAt .tier g n with
    | some d => .ok d
    | none => .error (.need g n)

/-- Copies a span from one frame to another. -/
def State.copySpan (s : State) (src dst n : Nat) (data : List Byte) : State :=
  let s := s.putOwn dst data
  if gpaDev src = s.dev ∧ gpaDev dst = s.dev then
    let moved := (s.poison.filter (fun p => decide (gpaLocal src ≤ p) && decide (p < gpaLocal src + n))).map
      (fun p => p - gpaLocal src + gpaLocal dst)
    { s with poison := s.poison ++ moved.filter (fun p => !s.poison.contains p) }
  else s

/-- OBJECT_COPY (R433 point 2): the next 64 KiB chunk of an object. -/
def objectCopyEffect (id : Nat) (s : State) : State :=
  match Tab.find s.objs id with
  | some o => match o.move with
    | some m => match o.frames[m.next]?, (o.newFrames m)[m.next]? with
      | some f, some g => match s.frameBytes (f * 65536) 65536 with
        | .error (.need a n) => s.ask .tier 0 false a n
        | .error _ => s
        | .ok d =>
          let s := ((s.copySpan (f * 65536) (g * 65536) 65536 d).clearArrived .tier)
          { s with objs := Tab.upd s.objs id o (fun o => { o with move := some { m with next := m.next + 1 } }) }
      | _, _ => s
    | none => s
  | none => s

/-- An object has a chunk to copy. -/
def State.copying (s : State) (id : Nat) : Bool :=
  match Tab.find s.objs id with
  | some o => match o.move with | some m => decide (m.next < o.size) | none => false
  | none => false

def execObjectCopy (object : Nat) (s : State) : Host.Outcome State Fault Refusal :=
  s.rails (s.movesRun && s.copying object) (objectCopyEffect object)

/-- The references held on the state blocks that lie in an object, in whole or in part (R370, R423). -/
def State.objRefs (s : State) (o : Obj) : Nat :=
  (((s.rosterIds.map s.entry).filter (fun x => x.kind == 1 && x.refs != 0 &&
    ((o.kind == 2 && o.members.contains x.id) || o.covers x.ctx x.dir x.blockSize))).map (fun x => x.refs)).sum

/-- The object is the source or the target of a page copy in flight (R335). -/
def State.copyBusy (s : State) (o : Obj) : Bool :=
  s.cores.any (fun c => c.2.cow.isSome && c.2.cowVas.any (fun p => o.covers p.1 p.2 65536))

/-- Starts the movements that waited for a copy in flight to end (R335). -/
def State.startWaiting (s : State) : State :=
  let ready := s.waitMoves.filter (fun w => match Tab.find s.objs w.1 with | some o => !s.copyBusy o | none => true)
  ready.foldl (fun (t : State) w => match Tab.find t.objs w.1 with
    | some o => if o.move.isNone ∧ o.state = 0 ∧ w.2 < o.tier then (t.startMove w.1 o w.2).getD t else t
    | none => t) { s with waitMoves := s.waitMoves.filter (fun w => !ready.contains w) }

/-- Every chunk of an object has been copied, and no reference holds its switch back (R370, R433). -/
def State.switchable (s : State) (id : Nat) : Bool :=
  match Tab.find s.objs id with
  | some o => (match o.move with | some m => decide (o.size ≤ m.next) | none => false) && s.objRefs o == 0
  | none => false

/-- The lines recorded during the copy: source, destination, bytes (R433 point 4). -/
def State.dirtyLines (s : State) (old new : List Nat) : List Nat → Except Stop (List (Nat × Nat × List Byte))
  | [] => .ok []
  | l :: t =>
    match (old.zip new).find? (fun p => p.1 == l / 1024) with
    | none => s.dirtyLines old new t
    | some p => match s.frameBytes (l * 64) 64 with
      | .error e => .error e
      | .ok d => match s.dirtyLines old new t with
        | .error e => .error e
        | .ok r => .ok ((l * 64, p.2 * 65536 + l % 1024 * 64, d) :: r)

/-- Status record of a tier command (R679, R680). -/
def tierRecord (s : State) (raw : List Byte) (status flags obj tier state : Nat) : List Byte :=
  statusRecord status 2 (fieldLE raw 2 2) flags s.stroke (leBytes obj 4 ++ leBytes tier 1 ++ leBytes state 1)

/-- A tier command completes (R430): its record, then HEAD. A record whose page is not mapped stalls the ring (R476). -/
def State.tierDone (s : State) (raw : List Byte) (status flags obj tier state : Nat) : State :=
  let va := fieldLE raw 32 8
  let fin (s : State) : State := { (s.clearArrived .tier).bump TIER_RING_HEAD with tierCmd := none }
  if va = 0 then fin s
  else match s.checkWrites 0 [{ va := va, data := leBytes 0 32 }] with
    | .ok () => fin (s.writeV (.agent .tier) 0 va false (tierRecord s raw status flags obj tier state))
    | .error (.pageFault a l w) => s.takeFault .tier 0 a l w (fieldLE raw 2 2)
    | .error (.ctxFault a l w) => fin (s.loseContext 0 a l w .tier (fieldLE raw 2 2))
    | .error _ => fin s

/-- The record of a command can be written now. -/
def State.recordReady (s : State) (raw : List Byte) : Except Stop Unit :=
  if fieldLE raw 32 8 = 0 then .ok () else
  match s.checkWrites 0 [{ va := fieldLE raw 32 8, data := leBytes 0 32 }] with
  | .error (.pageFault a l w) => .error (.pageFault a l w)
  | .error .wait => .error .wait
  | .error (.frame f) => .error (.frame f)
  | _ => .ok ()

/-- An access to old frames on another device is still outstanding: a packet with a transaction slot, or one that waits for a slot. -/
def State.farBusy (s : State) (frames : List Nat) : Bool :=
  let hits (p : Packet) : Bool := frames.contains (gpaOf p.dst p.addr / 65536)
  s.ports.any (fun q => q.2.slots.any (fun x => hits x.2.packet)) || s.waitPkts.any (fun w => hits w.2.1)

/-- The pool pages of an object. -/
def pageMember (pool i : Nat) : Nat := pool * 2 ^ 24 + i

/-- ID of a scale page outside the table: pool and group of 16 pool pages (R422). -/
def scaleId (pool j : Nat) : Nat := 2 ^ 20 + pool * 2 ^ 20 + j

/-- The scale page of a group of 16 pool pages goes to the highest tier that holds any of them, and ages with the newest of them (R422). -/
def State.settleScale (s : State) (id : Nat) : State :=
  match Tab.find s.objs id with
  | some sc =>
    let mine := (s.objs.filter (fun x => x.2.kind == 1 && x.2.members.any (fun y => scaleId (y / 2 ^ 24) (y % 2 ^ 24 / 16) == id))).map
      (fun x => x.2)
    let best := (mine.map (fun x => x.tier)).foldl min 3
    if mine.isEmpty then s
    else
      let sc := { sc with touched := (mine.map (fun x => x.touched)).foldl max sc.touched }
      let s := s.setObj id sc
      match sc.move with
      | some m => s.setObj id { sc with move := some { m with after := if m.tier = best then none else some best } }
      | none => if sc.tier = best then s else (s.startMove id sc best).getD s
  | none => s

/-- The scale page that the switch of an object concerns: its own, or that of its pool page. -/
def State.moveScale (s : State) (id : Nat) (o : Obj) : State :=
  match o.kind, o.members with
  | 3, _ => s.settleScale id
  | 1, [m] => s.settleScale (scaleId (m / 2 ^ 24) (m % 2 ^ 24 / 16))
  | _, _ => s

/-- The watch slots on an object that has been switched (R451): one with its source there is stale, and from now on its source and its
destination are the new frames, the source as far as these lie on this device. -/
def State.moveWatches (s : State) (o : Obj) (new : List Nat) : State :=
  let old := o.frames
  let hit (p : Nat × Nat) : Bool := old.any (fun f => f / 2 ^ 27 == s.dev && overlaps p.1 p.2 (f % 2 ^ 27 * 65536) 65536)
  let to' (g : Nat) : Nat := match (old.zip new).find? (fun q => g / 65536 == q.1) with
    | some q => q.2 * 65536 + g % 65536
    | none => g
  let near (p : Nat × Nat) : Nat × Nat :=
    let g := to' (gpaOf s.dev p.1)
    if gpaDev g = s.dev then (gpaLocal g, p.2) else p
  { s with watches := s.watches.map (fun w =>
      (w.1, { w.2 with src := w.2.src.map near, dst := w.2.dst.map (fun p => (to' p.1, p.2)), stale := w.2.stale || w.2.src.any hit })) }

/-- Points 4 to 6 of R433: the recorded lines, the page-table entries, the caches; the old frames are freed, and a MOVE that waited
completes. One that joined an eviction completes with it, and a promotion that waited then starts (R439). -/
def State.switchObject (s : State) (id : Nat) (o : Obj) (m : ObjMove) (cmd : Option (List Byte)) (ls : List (Nat × Nat × List Byte)) :
    State :=
  let s := ls.foldl (fun (t : State) (l : Nat × Nat × List Byte) => t.copySpan l.1 l.2.1 64 l.2.2) s
  let s := if s.rd MMU_CKPT_STAT_STATE = 2 then
      o.frames.foldl (fun (t : State) f =>
        if f / 2 ^ 27 = t.dev ∧ t.rd MMU_CKPT_STAT_STATE = 2 ∧ t.frameSet (f % 2 ^ 27) then t.copyFrame (f % 2 ^ 27) else t) s
    else s
  let n : Obj := { o with pages := List.zipWith (fun p f => (p.1, f)) o.pages m.frames, tier := m.tier,
                          state := restState o.hint m.tier, move := none }
  let s := n.pages.foldl (fun (t : State) p => t.mapPage n p.1 p.2) s
  let s := s.dropPages o
  let s := s.moveWatches o (o.newFrames m)
  let s := (s.subUsed o.ctx o.tier o.size).bump (if m.tier < o.tier then TIER_PC_PROMOTED else TIER_PC_EVICTED) (o.size * 65536)
  let s := (s.setObj id n).clearArrived .tier
  let s := match m.after, cmd with
    | some t, some raw =>
      if t = n.tier then s.tierDone raw stSuccess 0 id n.tier n.state
      else if fieldLE raw 5 1 = n.tier then
        let s := s.tierDone raw stSuccess 0 id n.tier n.state
        (s.startMove id n t).getD s
      else (match s.startMove id n t with
        | some u => u
        | none => s.tierDone raw stDeferred 0 id n.tier n.state)
    | some t, none => if t = n.tier then s else (s.startMove id n t).getD s
    | none, some raw => s.tierDone raw stSuccess 0 id n.tier n.state
    | none, none => s
  s.moveScale id n

/-- OBJECT_SWITCH (R433 points 3 to 6, R451, R497). While old frames lie on another device its lines come by GETs: the writers stall first, and
the accesses that used the old frames end (points 3 and 6). -/
def objectSwitchEffect (id : Nat) (s : State) : State :=
  match Tab.find s.objs id with
  | none => s
  | some o => match o.move with
    | none => s
    | some m =>
      let cmd := match s.tierCmd with | some raw => if fieldLE raw 24 4 = id then some raw else none | none => none
      let far := o.frames.any (fun f => f / 2 ^ 27 != s.dev)
      if far && !m.stall then
        ((o.pages.foldl (fun (t : State) p => t.stallPage o p.1) s).dropPages o).setObj id { o with move := some { m with stall := true } }
      else if far && s.farBusy o.frames then s
      else match s.dirtyLines o.frames (o.newFrames m) m.dirty, (match cmd with | some raw => s.recordReady raw | none => .ok ()) with
      | .error (.need a n), _ => s.ask .tier 0 false a n
      | .error _, _ => s
      | .ok ls, .error (.pageFault a l w) =>
        if s.faultAborted 64 0 a then { s.takeAbort 64 0 with tierCmd := none }.switchObject id o m none ls
        else s.takeFault .tier 0 a l w (match cmd with | some raw => fieldLE raw 2 2 | none => 0)
      | .ok _, .error _ => s
      | .ok ls, .ok () => s.switchObject id o m cmd ls

/-- A move that has reached point 3 always completes; another runs only when moves run (R435). -/
def State.switchRuns (s : State) (id : Nat) : Bool :=
  s.movesRun || (match (Tab.find s.objs id).bind (fun o => o.move) with | some m => m.stall | none => false)

def execObjectSwitch (object : Nat) (s : State) : Host.Outcome State Fault Refusal :=
  s.rails (s.switchRuns object && s.switchable object) (objectSwitchEffect object)

/-! ### The tier command ring (R430 to R432) -/

/-- Commands wait in the ring: the doorbell token exceeds HEAD (R430). -/
def State.ringWaits (s : State) : Bool :=
  s.is TIER_RING_CTL_ENABLE && (s.blk .tier == 1 || s.blk .tier == 2 || s.blk .tier == 3) && s.tierCmd.isNone &&
  (let d := s.tok (tokGlobal (s.rd TIER_RING_CTL_TOKEN)) - BitVec.ofNat 32 (s.rd TIER_RING_HEAD)
   d != 0 && !d.msb)

/-- Number of the TIER ring's doorbell among the counts kept at a DISABLE_REQ; the contexts' task rings take 0 to 63. -/
def tierBellKey : Nat := 64

/-- The tier manager refuses the command at HEAD with 0x41 (R717, R727): it is disabled, or drains and the command was not counted
before DISABLE_REQ, or its DRAIN_MODE is 0. -/
def State.tierRefuses (s : State) : Bool :=
  s.blk .tier == 3 || (s.blk .tier == 2 && (!s.is (BLK_CTL_DRAIN_MODE .tier) ||
    (let d := BitVec.ofNat 32 (Tab.look s.ctxBell tierBellKey 0) - BitVec.ofNat 32 (s.rd TIER_RING_HEAD)
     d == 0 || d.msb)))

/-- The command at HEAD. -/
def State.tierHead (s : State) : Except Stop (List Byte) :=
  s.readV .tier 0 (s.rd TIER_RING_BASE + s.rd TIER_RING_HEAD % 2 ^ s.rd TIER_RING_CTL_SIZE_LOG2 * 64) 64

/-- The command at HEAD has an operation; a command that cannot be read yet may have any, and one with a reserved OP is taken by
REGISTER (log 22). -/
def State.tierOp (s : State) (op : Nat) : Bool :=
  s.ringWaits && (match s.tierHead with
    | .ok raw => fieldLE raw 0 1 == op || (op == 1 && (fieldLE raw 0 1 == 0 || decide (6 < fieldLE raw 0 1)))
    | .error _ => true)

/-- Reserved fields of a tier command are zero, and OP, CONTEXT and STATUS_PTR are in range (R34, R431). -/
def tierOk (raw : List Byte) : Bool :=
  decide (1 ≤ fieldLE raw 0 1) && decide (fieldLE raw 0 1 ≤ 6) && fieldBits raw 1 3 5 == 0 && decide (fieldLE raw 4 1 < 64) &&
  fieldBits raw 5 2 6 == 0 && fieldBits raw 6 1 7 == 0 && fieldLE raw 7 1 == 0 && fieldBits raw 24 20 12 == 0 &&
  zeroSpan raw 28 4 && zeroSpan raw 40 24 && decide (fieldLE raw 32 8 < 2 ^ 49)

/-- The failures of aborted faults have been taken. -/
def State.takeTierAborts (s : State) : State := { s with rosAborted := s.rosAborted.filter (fun a => decide (a.1 < 64 ∨ 128 ≤ a.1)) }

/-- A fault of the command at HEAD has been aborted (R484, R486): of an access to its pages or, with no page named, to any. -/
def State.tierAborted (s : State) (va : Option Nat) : Bool :=
  s.rosAborted.any (fun a => decide (64 ≤ a.1) && decide (a.1 < 128) &&
    (match va with | some v => a.1 == 64 && a.2 == v / 65536 | none => true))

/-- Address of the command at HEAD. -/
def State.tierAt (s : State) : Nat := s.rd TIER_RING_BASE + s.rd TIER_RING_HEAD % 2 ^ s.rd TIER_RING_CTL_SIZE_LOG2 * 64

/-- Runs the command at HEAD: `f` answers its effect, after the checks of R431 and when its record can be written. A command whose fault is
outstanding waits for its resumption (R476); one whose fault was aborted fails with 0x20 (R484), without a record where the fault was the
command's own read or its record's write. -/
def State.tierRun (s : State) (f : List Byte → State → State) : State :=
  if s.faultHeld (fun _ a => a.1 == .tier) then s
  else if s.tierAborted (some s.tierAt) then s.takeTierAborts.bump TIER_RING_HEAD
  else match s.tierHead with
  | .error (.pageFault a l w) => s.takeFault .tier 0 a l w 0
  | .error (.need g n) => s.ask .tier 0 false g n
  | .error (.lookup _ _) => s
  | .error (.ctxFault a l w) => (s.loseContext 0 a l w .tier 0).bump TIER_RING_HEAD
  | .error .wait => s
  | .error (.frame _) => s
  | .error (.fail _ _ _) => s.bump TIER_RING_HEAD
  | .ok raw =>
    if fieldLE raw 32 8 ≠ 0 ∧ s.tierAborted (some (fieldLE raw 32 8)) = true then s.takeTierAborts.bump TIER_RING_HEAD
    else match s.recordReady raw with
    | .error (.pageFault a l w) => s.takeFault .tier 0 a l w (fieldLE raw 2 2)
    | .error _ => s
    | .ok () => if s.tierAborted none then s.takeTierAborts.tierDone raw stPageFault 0 0 0 0
      else if s.tierRefuses then s.tierDone raw stRefused 0 0 0 0
      else if tierOk raw then f raw s else s.tierDone raw stMalformed 0 0 0 0

/-- The leaf places of the pages of a range, or why the range cannot be mapped. -/
def State.leafAddrs (s : State) (ctx : Nat) (big : Bool) : List Nat → Except Stop (List (Nat × Nat))
  | [] => .ok []
  | va :: t => match s.leafAddr ctx va big with
    | .error e => .error e
    | .ok a => if bitOf (s.rdLE a 8) 0 then .error (.fail stPermission va true)
      else match s.leafAddrs ctx big t with
        | .error e => .error e
        | .ok r => .ok ((va, a) :: r)

/-- The first tier in which the frames of a registration all fit (R429). -/
def State.takeFirst (s : State) (ctx n count : Nat) : List Nat → Option (Nat × List Nat × State)
  | [] => none
  | t :: rest => match s.take ctx t n count with
    | some (fs, u) => some (t, fs, u)
    | none => s.takeFirst ctx n count rest

/-- REGISTER (R427, R429, R431, R432). -/
def registerEffect (raw : List Byte) (s : State) : State :=
  let ctx := fieldLE raw 4 1
  let big := bitOf (fieldLE raw 6 1) 0
  let page := if big then 0x200000 else 0x10000
  let va := fieldLE raw 8 8
  let size := fieldLE raw 16 8
  let hint := fieldBits raw 1 0 2
  if va % page ≠ 0 ∨ size % page ≠ 0 ∨ size = 0 ∨ 2 ^ 49 < va + size then s.tierDone raw stMalformed 0 0 0 0
  else if !s.ctxOn ctx || s.lost.contains ctx then s.tierDone raw (if s.lost.contains ctx then stLost else stPermission) 0 0 0 0
  else match s.leafAddrs ctx big ((List.range (size / page)).map (fun k => va + k * page)) with
    | .error (.pageFault a l w) => s.takeFault .tier ctx a l w (fieldLE raw 2 2)
    | .error (.ctxFault a l w) => (s.loseContext ctx a l w .tier (fieldLE raw 2 2)).tierDone raw stLost 0 0 0 0
    | .error _ => s.tierDone raw stPermission 0 0 0 0
    | .ok leaves =>
      if s.freeRecords = 0 then (s.bump TIER_PC_REFUSED).tierDone raw stDeferred 0 0 0 0
      else
        let n := if big then 32 else 1
        match s.takeFirst ctx n leaves.length (hintOrder hint (fieldBits raw 1 2 1)) with
        | none => (s.bump TIER_PC_REFUSED).tierDone raw stDeferred 0 0 0 0
        | some (t, fs, s) =>
          let (id, s) := s.newId
          let o : Obj := { ctx := ctx, pages := List.zipWith (fun l f => (l.1, f)) leaves fs, big := big, hint := hint,
                           pinTier := fieldBits raw 1 2 1, state := if hint = 3 then 3 else 0, tier := t, touched := 0, kind := 0,
                           members := [], move := none }
          let s := (leaves.zip fs).foldl (fun (u : State) p => u.putLeaf p.1.2 (managedLeaf (u.rdLE p.1.2 8) p.2 (hint == 3))) s
          (s.setObj id o).tierDone raw stSuccess 0 id t o.state

def execRegister (s : State) : Host.Outcome State Fault Refusal := s.work (s.tierOp 1) (fun s => s.tierRun registerEffect)

/-- An operation on the object that the command names: a number without an object is out of range. -/
def State.onObj (s : State) (raw : List Byte) (f : Nat → Obj → State → State) : State :=
  let id := fieldLE raw 24 4
  match Tab.find s.objs id with
  | some o => f id o s
  | none => s.tierDone raw stMalformed 0 id 0 0

/-- FREE (R432): it waits for a move of the object to finish. -/
def freeEffect (raw : List Byte) (s : State) : State :=
  s.onObj raw (fun id o s =>
    if o.kind ≠ 0 ∨ o.ctx ≠ fieldLE raw 4 1 then s.tierDone raw stPermission 0 id o.tier o.state
    else if o.move.isSome then s
    else
      let s := o.pages.foldl (fun (t : State) p => t.unmapPage o p.1) s
      let s := (s.dropPages o).subUsed o.ctx o.tier o.size
      let s : State := { s with lostObjs := s.lostObjs.filter (fun l => !(l.1 == o.ctx && o.pages.any (fun p => p.1 == l.2.1))) }
      (s.delObj id).tierDone raw stSuccess 0 id o.tier o.state)

def execFree (s : State) : Host.Outcome State Fault Refusal := s.work (s.tierOp 2) (fun s => s.tierRun freeEffect)

/-- SET_HINT (R432). -/
def setHintEffect (raw : List Byte) (s : State) : State :=
  s.onObj raw (fun id o s =>
    let h := fieldBits raw 1 0 2
    if h = 3 ∨ o.hint = 3 then s.tierDone raw stPermission 0 id o.tier o.state
    else (s.setObj id { o with hint := h }).tierDone raw stSuccess 0 id o.tier o.state)

def execSetHint (s : State) : Host.Outcome State Fault Refusal := s.work (s.tierOp 3) (fun s => s.tierRun setHintEffect)

/-- MOVE (R432, R439). One to a higher or to the same tier of an object that a page copy in flight touches waits at the head of the ring for
the copy to end (R335). -/
def moveEffect (raw : List Byte) (s : State) : State :=
  s.onObj raw (fun id o s =>
    let t := fieldLE raw 5 1
    let done (st fl : Nat) (s : State) : State := s.tierDone raw st fl id o.tier o.state
    if t = 0 ∨ 3 < t then done stMalformed 0 s
    else if o.state = 3 then done stPermission 0 s
    else if o.state = 4 then done stFlags flLost s
    else if o.move.isNone ∧ s.copyBusy o then (if o.tier < t then done stBusy 0 s else s)
    else match o.move with
      | none =>
        if t = o.tier then done stSuccess 0 s
        else (match s.startMove id o t with
          | some u => { u with tierCmd := some raw }
          | none => done stDeferred 0 s)
      | some m =>
        if o.state = 1 then
          if m.tier < t then done stBusy 0 s else { s with tierCmd := some raw }
        else if t = m.tier then { s with tierCmd := some raw }
        else if o.tier < t then done stBusy 0 s
        else { s.setObj id { o with move := some { m with after := some t } } with tierCmd := some raw })

def execMove (s : State) : Host.Outcome State Fault Refusal := s.work (s.tierOp 4) (fun s => s.tierRun moveEffect)

/-- TOUCH (R425, R432). -/
def touchEffect (raw : List Byte) (s : State) : State :=
  s.onObj raw (fun id o s => (s.setObj id { o with touched := max o.touched s.stroke }).tierDone raw stSuccess 0 id o.tier o.state)

def execTouch (s : State) : Host.Outcome State Fault Refusal := s.work (s.tierOp 5) (fun s => s.tierRun touchEffect)

/-- QUERY (R432, R679): the record carries the object, its tier and its state. -/
def queryEffect (raw : List Byte) (s : State) : State :=
  s.onObj raw (fun id o s => s.tierDone raw stSuccess 0 id o.tier o.state)

def execQuery (s : State) : Host.Outcome State Fault Refusal := s.work (s.tierOp 6) (fun s => s.tierRun queryEffect)

/-! ### Rebalancing (R436 to R438) -/

/-- Inserts by a key. -/
def insertBy (key : Nat × Obj → Nat) (x : Nat × Obj) : List (Nat × Obj) → List (Nat × Obj)
  | [] => [x]
  | y :: t => if key x < key y then x :: y :: t else y :: insertBy key x t

/-- Sorts by a key; equal keys keep their order (the lower ID first). -/
def sortBy (key : Nat × Obj → Nat) (l : List (Nat × Obj)) : List (Nat × Obj) := l.foldl (fun r x => insertBy key x r) []

/-- Objects of a tier pool in a tier. -/
def State.poolObjs (s : State) (q t : Nat) : List (Nat × Obj) :=
  s.objs.filter (fun o => s.poolOf o.2.ctx == q && o.2.tier == t && o.2.kind != 3)

/-- Eviction victims in the order of R437. -/
def State.victims (s : State) (q t : Nat) : List (Nat × Obj) :=
  let os := (s.poolObjs q t).filter (fun o => o.2.state == 0 || o.2.state == 1)
  sortBy (fun o => o.2.touched) (os.filter (fun o => decide (o.2.tier < o.2.preferred))) ++
    sortBy (fun o => o.2.touched) (os.filter (fun o => !decide (o.2.tier < o.2.preferred)))

/-- Free frames of a tier pool in a tier (R436). -/
def State.poolFree (s : State) (q t : Nat) : Nat :=
  min (s.rd (poolFlds t).1 0 q - s.rd (poolFlds t).2 0 q) (s.freeFrames t)

/-- FULL bit of a tier (R437, R443). -/
def fullFld (t : Nat) : Fld := match t with | 1 => TIER_STAT_FULL_HBM | 2 => TIER_STAT_FULL_LPD | _ => TIER_STAT_FULL_NBR

/-- Evicts victims until enough frames come free (R436, R437). A promoting one, or one that a page copy in
flight touches, is refused and counted (R335, R439); one without a
lower tier that has frames stays, and sets FULL. -/
def State.evict (s : State) (t : Nat) (need : Nat) : List (Nat × Obj) → State
  | [] => if need = 0 then s else s.on (fullFld t)
  | (id, o) :: rest =>
    if need = 0 then s
    else if o.state = 1 || s.copyBusy o then (s.bump TIER_PC_BUSY).evict t need rest
    else match s.startFirst id o ((hintOrder o.hint o.pinTier).filter (fun u => decide (t < u))) with
      | some u => u.evict t (need - o.size) rest
      | none => (s.on (fullFld t)).evict t need rest

/-- Promotion candidates (R438): below their preferred tier, newest first; one that is being evicted is one of them (R439). -/
def State.candidates (s : State) (q : Nat) : List (Nat × Obj) :=
  let os := s.objs.filter (fun o => s.poolOf o.2.ctx == q && (o.2.state == 0 || o.2.state == 2) && o.2.kind != 3 && decide (o.2.preferred < o.2.tier))
  let top := os.foldl (fun m o => max m o.2.touched) 0
  sortBy (fun o => top - o.2.touched) os

/-- Promotes candidates until the pool's free HBM frames would fall below HIGH (R438): one that goes to another tier takes none. The
promotion of an object that is being evicted waits for its move to end (R439), and that of one that a page copy in flight touches for the
copy (R335). -/
def State.promote (s : State) (q high : Nat) : List (Nat × Obj) → State
  | [] => s
  | (id, o) :: rest =>
    let later := o.move.isSome || s.copyBusy o
    if later && o.preferred == 1 && decide (s.poolFree q 1 < high + o.size) then s
    else match o.move with
    | some m => (s.setObj id { o with move := some { m with after := some o.preferred } }).promote q high rest
    | none =>
      if s.copyBusy o then
        ({ s with waitMoves := s.waitMoves.filter (fun w => w.1 != id) ++ [(id, o.preferred)] } : State).promote q high rest
      else match s.startFirst id o (o.preferred :: ([1, 2].filter (fun t => decide (t < o.tier) && t != o.preferred))) with
        | some u => if u.poolFree q 1 < high ∧ u.poolFree q 1 < s.poolFree q 1 then s else u.promote q high rest
        | none => s.promote q high rest

/-- LOW and HIGH of a pool in a tier, in frames (R436). -/
def State.marks (s : State) (q t : Nat) : Nat × Nat :=
  (s.rd TIER_POOL_MARKS_LOW 0 q * s.rd (poolFlds t).1 0 q / 256, s.rd TIER_POOL_MARKS_HIGH 0 q * s.rd (poolFlds t).1 0 q / 256)

/-- Rebalances one tier pool (R436). -/
def State.rebalancePool (s : State) (q : Nat) : State :=
  let (low, high) := s.marks q 1
  let free := s.poolFree q 1
  let s := if free < low then s.evict 1 (high - free) (s.victims q 1)
    else if high < free then s.promote q high (s.candidates q) else s
  let (low2, high2) := s.marks q 2
  let free2 := s.poolFree q 2
  if !(s.tierRanges 3).isEmpty && decide (free2 < low2) then s.evict 2 (high2 - free2) (s.victims q 2) else s

/-- An object has a frame in a range of frames. -/
def Obj.inRange (o : Obj) (r : Nat × Nat) : Bool := o.held.any (fun h => overlaps h.1 h.2 r.1 r.2)

/-- Frames of a lease. -/
def State.leaseFrames (s : State) (j : Nat) : Nat × Nat :=
  (s.rd TIER_LEASE_CTL_LENDER 0 j * 2 ^ 27 + s.rd TIER_LEASE_BASE 0 j / 65536, s.rd TIER_LEASE_SIZE 0 j * 32)

/-- Starts to move every object out of a range of frames that is not moving yet; without room the FULL bit of the tier is set. -/
def State.vacate (s : State) (r : Nat × Nat) (order : Obj → List Nat) : State :=
  (s.objs.filter (fun o => o.2.inRange r && o.2.move.isNone && o.2.state == 0 && !s.copyBusy o.2)).foldl (fun (t : State) o =>
    match t.startFirst o.1 o.2 (order o.2) with
    | some u => u
    | none => t.on (fullFld o.2.tier)) s

/-- Where an object goes from a lend window: to other frames of the lender's own (R440). -/
def Obj.ownOrder (o : Obj) : List Nat := (o.tier :: (hintOrder o.hint o.pinTier).filter (· != o.tier)).filter (· != 3)

/-- REBALANCE (R436, R440, R443): at the end of a drive every tier pool, and what reclaims and lend windows still have to move. -/
def State.rebalance (s : State) : State :=
  let s := if s.is TIER_CTL_REBALANCE then
      (List.range 8).foldl (fun t q => t.rebalancePool q)
        (((s.off TIER_STAT_FULL_HBM).off TIER_STAT_FULL_LPD).off TIER_STAT_FULL_NBR)
    else s
  let s := (List.range 16).foldl (fun (t : State) j =>
    if t.rd TIER_LEASE_CTL_STATE 0 j = 1 then t.vacate (t.leaseFrames j) (fun o => hintOrder o.hint o.pinTier) else t) s
  (List.range 8).foldl (fun (t : State) w =>
    if t.rd TIER_LEND_CTL_STATE 0 w = 1 then t.vacate (t.lendFrames w) Obj.ownOrder else t) s

/-! ### Leases and lend windows (R440 to R444) -/

/-- LEND_ENABLE (R440): the window is PREPARING, and the objects in its range start to move out. -/
def lendEnableEffect (w : Nat) (s : State) : State :=
  let s := (s.on TIER_LEND_CTL_ENABLE 0 w).wr TIER_LEND_CTL_STATE 1 0 w
  s.vacate (s.lendFrames w) Obj.ownOrder

def execLendEnable (window : Nat) (s : State) : Host.Outcome State Fault Refusal :=
  s.rails (decide (window < 8) && !s.is TIER_LEND_CTL_ENABLE 0 window) (lendEnableEffect window)

/-- WINDOW_OPEN (R440): the range holds no object frame. -/
def execWindowOpen (window : Nat) (s : State) : Host.Outcome State Fault Refusal :=
  s.rails (decide (window < 8) && s.rd TIER_LEND_CTL_STATE 0 window == 1 &&
      !s.objs.any (fun o => o.2.inRange (s.lendFrames window)))
    (fun s => s.wr TIER_LEND_CTL_STATE 2 0 window)

/-- LEASE_ENABLE (R442): the frames join tier 3, and no reclaim of the lease runs any more (R783). -/
def execLeaseEnable (lease : Nat) (s : State) : Host.Outcome State Fault Refusal :=
  s.rails (decide (lease < 16) && !s.is TIER_LEASE_CTL_ENABLE 0 lease)
    (fun s => ((s.on TIER_LEASE_CTL_ENABLE 0 lease).off TIER_LEASE_CTL_RECLAIM 0 lease).wr TIER_LEASE_CTL_STATE 0 0 lease)

/-- RECLAIM (R443): nothing more is allocated from the lease, and its objects start to move out. -/
def reclaimEffect (j : Nat) (s : State) : State :=
  let s := (s.wr TIER_LEASE_CTL_STATE 1 0 j).on TIER_LEASE_CTL_RECLAIM 0 j
  s.vacate (s.leaseFrames j) (fun o => hintOrder o.hint o.pinTier)

def execReclaim (lease : Nat) (s : State) : Host.Outcome State Fault Refusal :=
  s.rails (decide (lease < 16) && s.is TIER_LEASE_CTL_ENABLE 0 lease && s.rd TIER_LEASE_CTL_STATE 0 lease == 0) (reclaimEffect lease)

/-- LEASE_RETURNED (R443). -/
def execLeaseReturned (lease : Nat) (s : State) : Host.Outcome State Fault Refusal :=
  s.rails (decide (lease < 16) && s.rd TIER_LEASE_CTL_STATE 0 lease == 1 &&
      !s.objs.any (fun o => o.2.inRange (s.leaseFrames lease)))
    (fun s => (s.wr TIER_LEASE_CTL_STATE 2 0 lease).off TIER_LEASE_CTL_RECLAIM 0 lease)

/-- Gives up the move of an object; a MOVE that waits for it completes with a status, 0x32 where a registration takes the pages (log 20). -/
def State.dropMove (s : State) (id : Nat) (o : Obj) (status : Nat) : State :=
  match o.move with
  | some m =>
    let s := (s.subUsed o.ctx m.tier o.size).setObj id { o with move := none, state := restState o.hint o.tier }
    let s := if m.stall then o.pages.foldl (fun (t : State) p => t.mapPage o p.1 p.2) s else s
    match s.tierCmd with
    | some raw => if fieldLE raw 24 4 = id then s.tierDone raw status (if status = stFlags then flLost else 0) id o.tier o.state else s
    | none => s
  | none => s

/-- A lease has failed, or is reclaimed by force (R424, R444): every object with a frame in it is LOST, and the contexts that own them are
lost. -/
def State.failLease (s : State) (j : Nat) : State :=
  let r := s.leaseFrames j
  let gone := s.objs.filter (fun o => o.2.inRange r)
  let s := (s.wr TIER_LEASE_CTL_STATE 3 0 j).off TIER_LEASE_CTL_RECLAIM 0 j
  let s := gone.foldl (fun (t : State) o =>
    let t := (t.dropMove o.1 o.2 stFlags).setObj o.1 { o.2 with state := 4, move := none }
    let t : State := { t with lostObjs := t.lostObjs ++ o.2.pages.map (fun p => (o.2.ctx, p.1, o.2.pageFrames * 65536)) }
    if t.lost.contains o.2.ctx then t else t.markLost o.2.ctx) s
  s.settleLost

/-- A remote access to a lender has ended with a status: 0x50 or 0x51 fails the lease that holds the address (R444). -/
def State.leaseOutcome (s : State) (dev addr status : Nat) : State :=
  if status = stUnreachable ∨ status = stTimeout then
    (List.range 16).foldl (fun (t : State) j =>
      if t.is TIER_LEASE_CTL_ENABLE 0 j && decide (t.rd TIER_LEASE_CTL_STATE 0 j < 2) && t.rd TIER_LEASE_CTL_LENDER 0 j == dev &&
          overlaps (t.rd TIER_LEASE_BASE 0 j) (t.rd TIER_LEASE_SIZE 0 j * 0x200000) addr 1
      then t.failLease j else t) s
  else s

/-! ### Roster objects (R422, R423) -/

/-- Pages of 64 KiB that a span covers. -/
def coverPages (va n : Nat) : List Nat :=
  if n = 0 then [] else (List.range ((va + n - 1) / 65536 - va / 65536 + 1)).map (fun k => (va / 65536 + k) * 65536)

/-- A host object gives up a page: what it keeps is one object, or two where the page lay inside it; the number of records the
split adds is returned. A move of it is given up. -/
def splitRuns (pages : List (Nat × Nat)) (taken : Nat → Bool) : List (List (Nat × Nat)) :=
  let r := pages.foldl (fun (acc : List (List (Nat × Nat)) × List (Nat × Nat)) p =>
    if taken p.1 then (if acc.2.isEmpty then acc else (acc.1 ++ [acc.2], [])) else (acc.1, acc.2 ++ [p])) ([], [])
  if r.2.isEmpty then r.1 else r.1 ++ [r.2]

/-- Takes pages of a size out of the host objects that hold them (R420, R423): for each of these the pages with their frames and the tier,
and the state; none for lack of records. Each group takes `more` records. -/
def State.takePages (s : State) (ctx : Nat) (big : Bool) (vas : List Nat) (more : Nat) :
    Option (List (List (Nat × Nat) × Nat) × State) :=
  let hosts := s.objs.filter (fun o => o.2.kind == 0 && o.2.ctx == ctx && o.2.big == big && o.2.state != 4 &&
    o.2.pages.any (fun p => vas.contains p.1))
  let extra := (hosts.map (fun o => (splitRuns o.2.pages vas.contains).length)).sum
  if s.freeRecords + hosts.length < more * hosts.length + extra then none
  else
    let s' := hosts.foldl (fun (t : State) o =>
      let t := t.dropMove o.1 o.2 stBusy
      match splitRuns o.2.pages vas.contains with
      | [] => t.delObj o.1
      | r :: rest =>
        let base : Obj := { o.2 with pages := r, move := none, state := if o.2.state = 3 then 3 else 0 }
        rest.foldl (fun (u : State) q => let (id, u) := u.newId; u.setObj id { base with pages := q }) (t.setObj o.1 base)) s
    some (hosts.map (fun o => (o.2.pages.filter (fun p => vas.contains p.1), o.2.tier)), s')

/-- The tier in which a frame lies (R416, R442). -/
def State.tierOfFrame (s : State) (f : Nat) : Nat :=
  if f / 2 ^ 27 ≠ s.dev then 3 else if f % 2 ^ 27 < 0x800000 then 1 else 2

/-- A new object of the roster over some pages: a PINNED one has its leaves pinned (R427). -/
def State.newRosObj (s : State) (id : Nat) (o : Obj) : State :=
  let s := s.setObj id o
  if o.state = 3 then o.pages.foldl (fun (t : State) p => t.mapPage o p.1 p.2) s else s

/-- A new object of a stream over some pages. -/
def State.newStreamObj (s : State) (entry ctx hint tier : Nat) (big : Bool) (pages : List (Nat × Nat)) : State :=
  let (id, s) := s.newId
  s.newRosObj id { ctx := ctx, pages := pages, big := big, hint := hint, pinTier := min 1 (tier - 1), state := restState hint tier,
                   tier := tier, touched := 0, kind := 2, members := [entry], move := none }

/-- Pages of 64 KiB that no object holds but that the page table maps: they stay in their frames (log 20). -/
def State.loosePages (s : State) (ctx : Nat) (vas : List Nat) : List (Nat × Nat) :=
  vas.filterMap (fun va =>
    if s.objs.any (fun o => o.2.covers ctx va 65536) then none
    else match s.leafAddr ctx va false with
      | .ok a => let e := s.rdLE a 8
        if bitOf e 0 && bitOf e 1 then some (va, bits e 16 36) else none
      | .error _ => none)

/-- Pages that no object held become objects of a stream, one for each tier where they lie, within the limits of the tier pool (R428); their
frames are managed from now on. -/
def State.adoptPages (s : State) (entry ctx hint : Nat) (loose : List (Nat × Nat)) : Option State :=
  [1, 2, 3].foldl (fun (r : Option State) t =>
    let ps := loose.filter (fun p => s.tierOfFrame p.2 == t)
    match r with
    | none => none
    | some s =>
      if ps.isEmpty then some s
      else if s.freeRecords = 0 ∨ s.rd (poolFlds t).1 0 (s.poolOf ctx) < s.rd (poolFlds t).2 0 (s.poolOf ctx) + ps.length then none
      else
        let o : Obj := { ctx := ctx, pages := ps, big := false, hint := hint, pinTier := min 1 (t - 1), state := restState hint t,
                         tier := t, touched := 0, kind := 2, members := [entry], move := none }
        some (ps.foldl (fun (u : State) p => u.mapPage o p.1 p.2)
          ((s.addUsed ctx t ps.length).newStreamObj entry ctx hint t false ps))) (some s)

/-- Registers a stream's state block (R346, R423); none when there is no object space. A page that another stream's object holds stays
there, and the stream joins that object; the pages taken from a host object form a new object, so that a block which several host objects
held becomes several (log 20). -/
def State.registerStream (s : State) (entry ctx va n hint : Nat) : Option State :=
  let vas := coverPages va n
  let streams := s.objs.filter (fun o => o.2.kind == 2 && o.2.covers ctx va n)
  let left := vas.filter (fun v => !streams.any (fun o => o.2.covers ctx v 65536))
  let bigs := ((s.objs.filter (fun o => o.2.kind == 0 && o.2.ctx == ctx && o.2.big && o.2.state != 4)).flatMap (fun o =>
    o.2.pages.filter (fun p => left.any (fun v => overlaps p.1 0x200000 v 65536)))).map (fun p => p.1)
  let small := left.filter (fun v => !bigs.any (fun p => overlaps p 0x200000 v 65536))
  let loose := s.loosePages ctx small
  let own (s : State) (big : Bool) (vas : List Nat) : Option State :=
    match s.takePages ctx big vas 1 with
    | none => none
    | some (gs, s) => some (gs.foldl (fun (t : State) g => t.newStreamObj entry ctx hint g.2 big g.1) s)
  let s := streams.foldl (fun (t : State) o => t.setObj o.1 { o.2 with members := o.2.members ++ [entry] }) s
  match own s true bigs with
  | none => none
  | some s => match own s false small with
    | none => none
    | some s => s.adoptPages entry ctx hint loose

/-- Deregisters a stream's state block (R374): an object without streams is a host object again. -/
def State.deregisterStream (s : State) (entry : Nat) : State :=
  (s.objs.filter (fun o => o.2.kind == 2 && o.2.members.contains entry)).foldl (fun (t : State) o =>
    let ms := o.2.members.filter (· != entry)
    t.setObj o.1 { o.2 with members := ms, kind := if ms.isEmpty then 0 else 2 }) s

/-- The pages of a pool become objects of their own as far as records reach, and its scale pages are held apart, in the tier of their pool
pages (R334, R422). -/
def State.registerPool (s : State) (p ctx page scale first count hint : Nat) : State :=
  let mine := s.objs.flatMap (fun o => if o.2.kind == 0 && o.2.ctx == ctx then
    (o.2.pages.filter (fun q => decide (page + first * 65536 ≤ q.1) && decide (q.1 < page + (first + count) * 65536))).map (fun q => q.1)
    else [])
  let s := mine.foldl (fun (t : State) va =>
    match t.takePages ctx false [va] 1 with
    | some ([([q], tier)], t) =>
      let (id, t) := t.newId
      t.newRosObj id { ctx := ctx, pages := [q], big := false, hint := hint, pinTier := min 1 (tier - 1), state := restState hint tier,
                       tier := tier, touched := 0, kind := 1, members := [pageMember p ((va - page) / 65536)], move := none }
    | _ => t) s
  let scales := s.objs.flatMap (fun o => if o.2.kind == 0 && o.2.ctx == ctx then
    (o.2.pages.filter (fun q => decide (scale + first * 4096 / 65536 * 65536 ≤ q.1) && decide (q.1 < scale + (first + count) * 4096))).map
      (fun q => q.1)
    else [])
  if scale % 65536 ≠ 0 then s
  else scales.foldl (fun (t : State) va =>
    match t.takePages ctx false [va] 0 with
    | some ([([q], tier)], t) =>
      let o : Obj := { ctx := ctx, pages := [q], big := false, hint := hint, pinTier := min 1 (tier - 1), state := 0, tier := tier,
                       touched := 0, kind := 3, members := [], move := none }
      (t.setObj (scaleId p ((va - scale) / 65536)) o).settleScale (scaleId p ((va - scale) / 65536))
    | _ => t) s

end Sys2Proof.Machine
end

