-- ==== Sys2Proof/Machine/Roster.lean ====
section
/-!
DEFINITION. The roster (R304 to R350): its entries, cache pools and directories, the recording of requests, catch processing,
copy-on-write, advances and references.
-/
namespace Sys2Proof.Machine

/-! ### Entries (R304) -/

/-- The entries that are not free. -/
def State.entries (s : State) : List REnt := (s.rosterIds.map s.entry).filter (fun x => x.state != 0)

/-- Sorts entries in descending PRIORITY, then in ascending ID (R327). -/
def byPriority (l : List REnt) : List REnt :=
  [3, 2, 1, 0].flatMap (fun p => l.filter (fun x => x.prio == p))

/-! ### Accesses of the roster -/

/-- The status with which an access of the roster fails. One that only has to wait never fails (`State.rosterCatch`). -/
def stopStatus : Stop → Nat
  | .fail st _ _ => st
  | .pageFault _ _ _ => stPageFault
  | .ctxFault _ _ _ => stLost
  | .wait => stUnreachable
  | .frame _ => stUnreachable
  | .need _ _ => stUnreachable
  | .lookup _ _ => stUnreachable

/-- Makes a span writable: a protected frame is copied first (R337, R494). -/
def State.rosReady (s : State) (ctx : Nat) (ws : List Write) : Nat → Except Stop State
  | 0 => .error .wait
  | n + 1 => match s.checkWrites ctx ws with
    | .ok () => .ok s
    | .error (.frame f) => (s.copyFrame f).rosReady ctx ws n
    | .error e => .error e

/-- Bytes that some writes cover decide how many frames can be in their way. -/
def frameFuel (ws : List Write) : Nat := (ws.map (fun w => w.data.length / 65536 + 2)).sum + 1

/-- What the roster has read from another device follows what it writes there. -/
def State.patchArrived (s : State) (ctx : Nat) (ws : List Write) : State :=
  if s.arrived.isEmpty then s
  else ws.foldl (fun (t : State) w => (spanPages w.va w.data.length).foldl (fun (u : State) q =>
    match u.translate ctx q.1 .write with
    | .error _ => u
    | .ok x => { u with arrived := u.arrived.map (fun y =>
        if y.agent = .roster ∧ y.addr ≤ x.gpa ∧ x.gpa + q.2 ≤ y.addr + y.data.length then
          { y with data := splice y.data (x.gpa - y.addr) ((w.data.drop (q.1 - w.va)).take q.2) } else y) }) t) s

/-- Writes of the roster: none is made unless all can be. -/
def State.rosWrite (s : State) (ctx : Nat) (ws : List Write) : Except Stop State :=
  match s.rosReady ctx ws (frameFuel ws) with
  | .ok t => .ok ((t.writeAll (.agent .roster) ctx true ws).patchArrived ctx ws)
  | .error e => .error e

/-- Writes of the roster in two contexts: none is made unless all can be. -/
def State.rosWrite2 (s : State) (c1 : Nat) (w1 : List Write) (c2 : Nat) (w2 : List Write) : Except Stop State :=
  match s.rosReady c2 w2 (frameFuel w2) with
  | .error e => .error e
  | .ok t => match t.rosWrite c1 w1 with
    | .error e => .error e
    | .ok u => u.rosWrite c2 w2

/-- Reads of the roster. A read of another device that has failed gives its status. -/
def State.rosRead (s : State) (ctx va n : Nat) : Except Stop (List Byte) :=
  match s.readV .roster ctx va n with
  | .error (.need g k) => match s.asked.find? (fun x => x.agent == .roster && x.addr == g && !x.data.isEmpty) with
    | some x => .error (.fail (leNat x.data) va false)
    | none => .error (.need g k)
  | r => r

/-- Notes that the phases have met bytes of another device that have not come, or held memory (0 bytes): the catch does not take what
these phases did, and runs them again later (`State.rosterCatch`). -/
def State.rosMissed (s : State) (g n : Nat) : State := { s with asked := { agent := .roster, addr := g, data := leBytes n 8 } :: s.asked }

/-- An access to a directory block has failed (R479): the status goes to LAST_STATUS and the logbook, and a page fault into the
fault ring. -/
def State.dirFault (s : State) (e ctx : Nat) (x : Stop) : State :=
  let st := stopStatus x
  let t := (s.setEntry { s.entry e with last := st }).logEv .ros 0 0x204 3 st e
  match x with
  | .need g n => s.rosMissed g n
  | .wait => s.rosMissed 0 0
  | .pageFault va level w => t.takeFault .roster ctx va level w e
  | .ctxFault va l w => t.loseContext ctx va l w .roster e
  | _ => t

/-- A directory fault of an entry at a catch leaves its state as R479 says. -/
def State.faultEntry (s : State) (x : REnt) (e : Stop) : State :=
  let s := s.dirFault x.id x.ctx e
  if x.state = 2 then (s.setEntry { s.entry x.id with state := 3 }).bump ROS_PC_SUSPENDS else s

/-! ### Cache pools (R308 to R312) -/

/-- Context of a pool, its free count and its size. -/
def State.poolCtx (s : State) (p : Nat) : Nat := s.rd ROS_POOL_CTL_CONTEXT 0 p
def State.poolFreeCount (s : State) (p : Nat) : Nat := s.rd ROS_POOL_FREE_FREE 0 p
def State.poolSize (s : State) (p : Nat) : Nat := s.rd ROS_POOL_SIZE_SIZE 0 p

/-- Address of REFS[i] and of a word of the free stack (R308). -/
def State.refAddr (s : State) (p i : Nat) : Nat := s.rd ROS_POOL_REF_BASE 0 p + 2 * i
def State.stackAddr (s : State) (p k : Nat) : Nat := s.rd ROS_POOL_STACK_BASE 0 p + 4 * k

/-- Virtual addresses of the page and the scale slot of pool page i (R308). -/
def State.poolPage (s : State) (p i : Nat) : Nat := s.rd ROS_POOL_PAGE_BASE 0 p + i * 65536
def State.poolScale (s : State) (p i : Nat) : Nat := s.rd ROS_POOL_SCALE_BASE 0 p + i * 4096

/-- The pool page that a page-list entry names. -/
def State.pageIndex (s : State) (p va : Nat) : Nat := (va - s.rd ROS_POOL_PAGE_BASE 0 p) / 65536

/-- A catch access to a structure of a pool has faulted (R312). -/
def State.poolFault (s : State) (p : Nat) (x : Stop) : State :=
  match x with
  | .need g n => s.rosMissed g n
  | .wait => s.rosMissed 0 0
  | _ => (s.on ROS_POOL_CTL_FAULTED 0 p).logEv .ros 0 0x204 3 stPageFault p

/-- REFS[i] of a pool. -/
def State.refsOf (s : State) (p i : Nat) : Except Stop Nat :=
  match s.rosRead (s.poolCtx p) (s.refAddr p i) 2 with
  | .ok d => .ok (leNat d)
  | .error e => .error e

/-- Adds a reference to a page (R329). -/
def State.addRef (s : State) (p i : Nat) : State :=
  match s.refsOf p i with
  | .error e => s.poolFault p e
  | .ok n => match s.rosWrite (s.poolCtx p) [{ va := s.refAddr p i, data := leBytes (n + 1) 2 }] with
    | .ok t => t
    | .error e => s.poolFault p e

/-- Pushes a page (R310). -/
def State.pushPage (s : State) (p i : Nat) : State :=
  let k := s.poolFreeCount p
  match s.rosWrite (s.poolCtx p) [{ va := s.stackAddr p k, data := leBytes i 4 }, { va := s.refAddr p i, data := leBytes 0 2 }] with
  | .ok t => t.wr ROS_POOL_FREE_FREE (k + 1) 0 p
  | .error e => s.poolFault p e

/-- Drops a reference; a page whose count reaches 0 is pushed (R310). -/
def State.dropRef (s : State) (p i : Nat) : State :=
  match s.refsOf p i with
  | .error e => s.poolFault p e
  | .ok n =>
    if n ≤ 1 then s.pushPage p i
    else match s.rosWrite (s.poolCtx p) [{ va := s.refAddr p i, data := leBytes (n - 1) 2 }] with
      | .ok t => t
      | .error e => s.poolFault p e

/-- The words of a byte list. -/
def words4 : List Byte → List Nat
  | a :: b :: c :: d :: t => leNat [a, b, c, d] :: words4 t
  | _ => []

/-- Allocates `n` pages: pops them from the top and sets REFS to 1 (R310). Where the pool is FAULTED, is short of pages, or an
access to its structures faults, none is allocated (R312). -/
def State.allocPages (s : State) (p n : Nat) : Option (List Nat) × State :=
  let k := s.poolFreeCount p
  if s.is ROS_POOL_CTL_FAULTED 0 p || !s.is ROS_POOL_CTL_ENABLE 0 p || decide (k < n) then (none, s)
  else match s.rosRead (s.poolCtx p) (s.stackAddr p (k - n)) (4 * n) with
    | .error e => (none, s.poolFault p e)
    | .ok d =>
      let pages := (words4 d).reverse
      match s.rosWrite (s.poolCtx p) (pages.map (fun i => { va := s.refAddr p i, data := leBytes 1 2 })) with
      | .error e => (none, s.poolFault p e)
      | .ok t => (some pages, t.wr ROS_POOL_FREE_FREE (k - n) 0 p)

/-! ### Directory blocks (R271, R272, R314) -/

/-- The header of a directory. -/
structure Dir where
  ctx    : Nat
  at'    : Nat
  layers : Nat
  fmt    : Nat
  elems  : Nat
  stride : Nat
  tpp    : Nat
  cap    : Nat
  deriving DecidableEq, Repr, Inhabited

/-- Row stride and log2 of the tokens per page (R270). -/
def rowStrideOf (fmt elems : Nat) : Nat := 64 * ceilDiv (elems * fmtBits fmt) 512
def tppLog (stride : Nat) : Nat := min 8 (Nat.log2 (65536 / max 1 stride))

/-- The address of the copy list of a directory block, and of its page lists (R314). -/
def Dir.copyList (d : Dir) : Nat := d.at' + dirHead d.layers
def Dir.list (d : Dir) (l : Nat) : Nat := d.copyList + 64 * ceilDiv (4 * d.layers) 64 + l * d.cap * 16

/-- A directory from its header. -/
def parseDir (ctx a : Nat) (h : List Byte) : Dir :=
  { ctx := ctx, at' := a, layers := fieldLE h 0 1, fmt := fieldBits h 1 0 4, elems := fieldLE h 2 2, stride := fieldLE h 4 2
    tpp := 2 ^ fieldLE h 6 1, cap := fieldLE h 8 4 }

/-- Reads the directory of an entry. -/
def State.dirOf (s : State) (x : REnt) : Except Stop Dir :=
  match s.rosRead x.ctx x.dir 64 with
  | .ok h => .ok (parseDir x.ctx x.dir h)
  | .error e => .error e

/-- The header of a directory with its LIST pointers, and an empty copy list. -/
def Dir.writes (d : Dir) (header : List Byte) : List Write :=
  [{ va := d.at', data := header },
   { va := d.at' + 64, data := (List.range d.layers).flatMap (fun l => leBytes (d.list l) 8) },
   { va := d.copyList, data := (List.range d.layers).flatMap (fun _ => leBytes 0xFFFFFFFF 4) }]

/-- The header of the directory that an ADMIT creates (R271, R274, R314). -/
def Dir.header (d : Dir) : List Byte :=
  leBytes d.layers 1 ++ leBytes d.fmt 1 ++ leBytes d.elems 2 ++ leBytes d.stride 2 ++ leBytes (Nat.log2 d.tpp) 1 ++
    leBytes 0 1 ++ leBytes d.cap 4 ++ leBytes 0 52

/-- Page-list entry i of a layer: its two words. -/
def State.listEntry (s : State) (d : Dir) (l i : Nat) : Except Stop (Nat × Nat) :=
  match s.rosRead d.ctx (d.list l + 16 * i) 16 with
  | .ok b => .ok (fieldLE b 0 8, fieldLE b 8 8)
  | .error e => .error e

/-- Some page-list entries of a layer, from index `i` on. -/
def State.listEntries (s : State) (d : Dir) (l i n : Nat) : Except Stop (List (Nat × Nat)) :=
  match s.rosRead d.ctx (d.list l + 16 * i) (16 * n) with
  | .ok b => .ok ((List.range n).map (fun k => (fieldLE b (16 * k) 8, fieldLE b (16 * k + 8) 8)))
  | .error e => .error e

/-- The copy list. -/
def State.copyWords (s : State) (d : Dir) : Except Stop (List Nat) :=
  match s.rosRead d.ctx d.copyList (4 * d.layers) with
  | .ok b => .ok (words4 b)
  | .error e => .error e

/-- No page in a word of the copy list. -/
def noPage : Nat := 0xFFFFFFFF

/-- The page that a VALID page-list word names. -/
def entryPage (w : Nat) : Nat := bits w 16 33 * 65536

/-- A page-list entry that names a pool page (R272, R309). -/
def State.listBytes (s : State) (d : Dir) (pool i : Nat) : List Byte :=
  leBytes (1 + s.poolPage pool i % 2 ^ 49) 8 ++ leBytes (if fmtMx d.fmt then s.poolScale pool i % 2 ^ 49 else 0) 8

/-- How many consecutive indices of layer 0 are VALID from index `i` on. -/
def State.validRun (s : State) (d : Dir) : Nat → Nat → Except Stop Nat
  | 0, i => .ok i
  | n + 1, i => match s.listEntry d 0 i with
    | .error e => .error e
    | .ok w => if bitOf w.1 0 then s.validRun d n (i + 1) else .ok i

/-- The pages that an entry's page lists name, layer by layer: none for an index that is not VALID. -/
def State.listedPages (s : State) (d : Dir) (n : Nat) : Nat → Except Stop (List (List (Option Nat)))
  | 0 => .ok []
  | l + 1 => match s.listedPages d n l with
    | .error e => .error e
    | .ok r => match s.listEntries d l 0 n with
      | .error e => .error e
      | .ok ws => .ok (r ++ [ws.map (fun w => if bitOf w.1 0 then some (entryPage w.1) else none)])

/-- Every page of an entry with its directory: the page lists in index order and within an index in layer order, then the copy list. -/
def State.pagesOfEntry (s : State) (x : REnt) : Except Stop (List Nat) :=
  match s.dirOf x with
  | .error e => .error e
  | .ok d => match s.validRun d d.cap 0 with
    | .error e => .error e
    | .ok n => match s.listedPages d n d.layers, s.copyWords d with
      | .error e, _ => .error e
      | _, .error e => .error e
      | .ok ls, .ok cs =>
        .ok ((List.range n).flatMap (fun i => (ls.filterMap (fun l => l.getD i none)).map (s.pageIndex x.pool)) ++
          cs.filter (fun c => c != noPage))

/-! ### Provisioning (R322 to R326) -/

/-- What provisioning finds: the pages missing or why there are none. -/
inductive Provision where
  | fault (x : Stop)
  | long
  | short (s : State)
  | done (s : State) (pages cap : Nat)

/-- The need of a sequence (R322): the missing indices below the cover, and whether it needs a copy set. -/
def State.pageNeed (s : State) (x : REnt) (d : Dir) : Except Stop (List Nat × Bool) :=
  let c := ceilDiv (x.len + x.step) d.tpp + 1
  match s.listEntries d 0 0 c, s.copyWords d with
  | .error e, _ => .error e
  | _, .error e => .error e
  | .ok ws, .ok cs =>
    let missing := (List.range c).filter (fun i => !bitOf (ws.getD i (0, 0)).1 0)
    let shared := bitOf (ws.getD (x.len / max 1 d.tpp) (0, 0)).1 1
    .ok (missing, x.len % max 1 d.tpp != 0 && shared && cs.all (· == noPage))

/-- Allocates the whole need of a sequence, or nothing (R322). -/
def State.provision (s : State) (x : REnt) : Provision :=
  match s.dirOf x with
  | .error e => .fault e
  | .ok d =>
    if d.cap < ceilDiv (x.len + x.step) d.tpp + 1 then .long
    else match s.pageNeed x d with
      | .error e => .fault e
      | .ok (missing, copy) =>
        let sets := missing.length + b2n copy
        let place (i l : Nat) (b : List Byte) : Write := { va := d.list l + 16 * i, data := b }
        let room := missing.flatMap (fun i => (List.range d.layers).map (fun l => place i l (leBytes 0 16))) ++
          (if copy then [{ va := d.copyList, data := leBytes 0 (4 * d.layers) }] else [])
        match s.rosReady d.ctx room (frameFuel room) with
        | .error e => .fault e
        | .ok s =>
          let (got, s) := if sets = 0 then (some [], s) else s.allocPages x.pool (d.layers * sets)
          match got with
          | none => .short s
          | some ps =>
            let ws := missing.zipIdx.flatMap (fun m => (List.range d.layers).map (fun l =>
              place m.1 l (s.listBytes d x.pool (ps.getD (m.2 * d.layers + l) 0)))) ++
              (if copy then [{ va := d.copyList, data := (List.range d.layers).flatMap (fun l =>
                leBytes (ps.getD (missing.length * d.layers + l) 0) 4) }] else [])
            let s := s.writeAll (.agent .roster) d.ctx true ws
            match s.validRun d d.cap 0 with
            | .error e => .fault e
            | .ok n => .done s ps.length (n * d.tpp)

/-! ### Phases of catch processing (R317) -/

/-- Logs conflicts of a set of requests (R318): the CMD_IDs two to an entry of the logbook. -/
def State.logConflict (s : State) (e : Nat) : List Nat → State
  | [] => s
  | [a] => s.logEv .ros 0 0x201 2 stBusy (e + a * 2 ^ 16)
  | a :: b :: t => (s.logEv .ros 0 0x201 2 stBusy (e + a * 2 ^ 16 + b * 2 ^ 32)).logConflict e t

/-- Fields of a recorded request. -/
def RosReq.op (r : RosReq) : Nat := fieldLE r.raw 0 1
def RosReq.cmd (r : RosReq) : Nat := fieldLE r.raw 2 2
def RosReq.target (r : RosReq) : Nat := fieldBits r.raw 64 0 14

/-- The recorded requests of an operation, in ascending order of the entry they name and then of their bytes: an order that does not
depend on the order of recording (R317, R318). -/
def State.reqsOf (s : State) (op : Nat) : List RosReq :=
  let key (r : RosReq) : Nat := r.target * 2 ^ 1024 + leNat r.raw
  let rs := s.rosReqs.filter (fun r => r.op == op)
  (Tab.canon (rs.map (fun r => (key r, ())))).flatMap (fun k => rs.filter (fun r => key r == k.1))

/-- The entries that ADMITs and FORK children name, each with its CMD_ID, in ascending order. -/
def State.namings (s : State) : List (Nat × Nat) :=
  let ns := (s.reqsOf 0x41).map (fun r => (r.target, r.cmd)) ++ (s.reqsOf 0x40).flatMap (fun r => r.kids.map (fun k => (k.1, r.cmd)))
  let key (n : Nat × Nat) : Nat := n.1 * 65536 + n.2
  (Tab.canon (ns.map (fun n => (key n, ())))).flatMap (fun k => ns.filter (fun n => key n == k.1))

/-- The entries that more than one request names (R318). -/
def State.conflicts (s : State) : List Nat :=
  let ns := s.namings.map (fun n => n.1)
  ((Tab.canon (ns.map (fun n => (n, ())))).map (fun n => n.1)).filter (fun n => decide (1 < ns.count n))

/-- Phase 1 for one entry (R333): copy-list pages whose page is no longer shared return to the stack. -/
def State.returnCopies (s : State) (x : REnt) : State :=
  match s.dirOf x with
  | .error e => s.faultEntry x e
  | .ok d => match s.copyWords d with
    | .error e => s.faultEntry x e
    | .ok cs =>
      (cs.zipIdx.filter (fun c => c.1 != noPage)).foldl (fun (t : State) c =>
        match t.listEntry d c.2 (x.len / max 1 d.tpp) with
        | .error e => t.faultEntry (t.entry x.id) e
        | .ok w =>
          if bitOf w.1 1 then t
          else match t.rosWrite d.ctx [{ va := d.copyList + 4 * c.2, data := leBytes noPage 4 }] with
            | .error e => t.faultEntry (t.entry x.id) e
            | .ok t =>
              let t := t.pushPage x.pool c.1
              t.setEntry { t.entry x.id with pages := (t.entry x.id).pages - 1 }) s

/-- An entry's deferred drops, in layer order. -/
def State.applyDrops (s : State) (e : Nat) : State :=
  let ds := s.rosDrops.filter (fun d => d.entry == e)
  (List.range 128).foldl (fun (t : State) l =>
    (ds.filter (fun d => d.layer == l)).foldl (fun (u : State) d => u.dropRef d.pool d.page) t) s

/-- Phase 1 (R317, R331, R333). -/
def State.phaseDrops (s : State) : State :=
  let s := s.rosterIds.foldl (fun (t : State) e =>
    let t := t.applyDrops e
    let x := t.entry e
    if x.state = 0 ∨ x.kind = 1 ∨ (Tab.find t.rosNoDir e).isSome then t else t.returnCopies x) s
  { s with rosDrops := [] }

/-- Phase 2 (R285, R348, R349): the smallest advance of a sequence, the sum of a stream's; two or more advances of a sequence are
logged. -/
def State.phaseAdvances (s : State) : State :=
  let s := s.rosterIds.foldl (fun (t : State) e =>
    let x := t.entry e
    if x.advOn = 0 then t
    else
      let mine := t.rosAdvs.filter (fun a => a.1 == e)
      let t := if x.kind = 0 ∧ 1 < mine.length then t.logEv .ros 0 0x202 2 0 (e + x.adv * 2 ^ 16) else t
      t.setEntry { x with len := (x.len + x.adv) % 2 ^ 24, adv := 0, advOn := 0
                          reset := if x.kind = 1 ∧ x.adv ≠ 0 then 0 else x.reset }) s
  { s with rosAdvs := [] }

/-- The state of a parent at the fork phase, before any RELEASE of the stroke (R319). -/
def State.stateBefore (s : State) (e : Nat) : Nat :=
  let x := s.entry e
  if x.state = 4 then Tab.look s.rosPrev e 4 else x.state

/-- The page-list words of the prefix of each layer. -/
def State.prefixLists (s : State) (d : Dir) (n : Nat) : Nat → Except Stop (List (List (Nat × Nat)))
  | 0 => .ok []
  | l + 1 => match s.prefixLists d n l with
    | .error e => .error e
    | .ok r => match s.listEntries d l 0 n with
      | .error e => .error e
      | .ok ws => .ok (r ++ [ws])

/-- A FORK whose checks have passed (R319): its request, its parent with its directory, the page-list words of the prefix. -/
structure ForkPlan where
  req    : RosReq
  parent : REnt
  dir    : Dir
  header : List Byte
  lists  : List (List (Nat × Nat))

/-- A page-list entry with SHARED set. -/
def sharedBytes (w : Nat × Nat) : List Byte := leBytes (w.1 ||| 2) 8 ++ leBytes w.2 8

/-- The words of the parent's page lists, SHARED (R329). -/
def ForkPlan.parents (f : ForkPlan) : List Write :=
  f.lists.zipIdx.map (fun l => { va := f.dir.list l.2, data := l.1.flatMap sharedBytes })

/-- One child of a FORK (R329). -/
def State.forkChild (s : State) (f : ForkPlan) (k : Nat × Nat) : State :=
  let r := f.req
  let p := f.parent
  let d := f.dir
  if (s.entry k.1).state ≠ 0 ∨ (s.entry k.1).refs ≠ 0 then s.logEv .ros 0 0x201 2 stBusy (k.1 + r.cmd * 2 ^ 16)
  else
    let n := ceilDiv p.len d.tpp
    let c : Dir := { d with ctx := r.ctx, at' := k.2 }
    let own := c.writes f.header ++ f.lists.zipIdx.map (fun l => { va := c.list l.2, data := l.1.flatMap sharedBytes })
    match s.rosWrite r.ctx own with
    | .error e => s.dirFault k.1 r.ctx e
    | .ok s =>
      let s := match s.rosWrite p.ctx f.parents with | .ok t => t | .error _ => s
      let s := f.lists.foldl (fun (t : State) l => l.foldl (fun (u : State) w => u.addRef p.pool (u.pageIndex p.pool (entryPage w.1))) t) s
      (s.setEntry { freeEntry k.1 (s.entry k.1).last with
        state := 1, ctx := r.ctx, prio := p.prio, parent := p.id, forked := 1, cand := p.cand, len := p.len, cap := n * d.tpp
        step := p.step, dir := k.2, pool := p.pool, pages := d.layers * n }).bump ROS_PC_FORK_CHILDREN

/-- A FORK fails as a whole (R319, R347). -/
def State.refuseFork (s : State) (r : RosReq) (status : Nat) : State :=
  (s.setEntry { s.entry r.target with last := status }).logEv .ros 0 (if status = stBusy then 0x201 else 0x205) 2 status
    (r.target + r.cmd * 2 ^ 16)

/-- The checks of a FORK (R319, R347): the plan for its children, or its refusal as a whole, which a fault of the parent's directory block
is too, on the read of its header and prefix and on the write of SHARED (R479). -/
def State.planFork (s : State) (r : RosReq) : Option ForkPlan × State :=
  let p := s.entry r.target
  let before := s.stateBefore r.target
  if p.kind = 1 then (none, s.refuseFork r stMalformed)
  else if before ≠ 2 ∧ before ≠ 3 then (none, s.refuseFork r stBusy)
  else match s.dirOf p, s.rosRead p.ctx p.dir 64 with
    | .error e, _ => (none, s.faultEntry p e)
    | _, .error e => (none, s.faultEntry p e)
    | .ok d, .ok header =>
      if d.fmt ≠ s.rd NARROW_CFG_KV then (none, s.refuseFork r stMalformed)
      else match s.prefixLists d (ceilDiv p.len d.tpp) d.layers with
        | .error e => (none, s.faultEntry p e)
        | .ok lists =>
          let f : ForkPlan := { req := r, parent := p, dir := d, header := header, lists := lists }
          match s.rosReady p.ctx f.parents (frameFuel f.parents) with
          | .error e => (none, s.faultEntry p e)
          | .ok s => (some f, s)

/-- Phase 3: the FORKs are checked in ascending order of their parents, and the children are created in ascending order of their own entry
IDs. -/
def State.phaseForks (s : State) (bad : List Nat) : State :=
  let (plans, s) := (s.reqsOf 0x40).foldl (fun (x : List ForkPlan × State) r =>
    let y := x.2.planFork r
    (x.1 ++ y.1.toList, y.2)) ([], s)
  let kids := plans.flatMap (fun f => (f.req.kids.filter (fun k => !bad.contains k.1)).map (fun k => (f, k)))
  ((Tab.canon (kids.map (fun k => (k.2.1, ())))).flatMap (fun e => kids.filter (fun k => k.2.1 == e.1))).foldl
    (fun (t : State) k => t.forkChild k.1 k.2) s

/-- One leaving entry is freed (R320, R374). -/
def State.releaseEntry (s : State) (x : REnt) : State :=
  let fin (s : State) (y : REnt) : State :=
    ({ s.setEntry y with rosNoDir := Tab.del s.rosNoDir x.id, rosPrev := Tab.del s.rosPrev x.id } : State).bump ROS_PC_RELEASES
  if x.kind = 1 then
    if x.refs ≠ 0 then
      fin s { freeEntry x.id x.last with kind := 1, dir := x.dir, init := x.init, stride := x.stride, layers := x.layers, fmt := x.fmt
                                         hint := x.hint, refs := x.refs }
    else fin (s.deregisterStream x.id) (freeEntry x.id x.last)
  else if (Tab.find s.rosNoDir x.id).isSome then fin s (freeEntry x.id x.last)
  else match s.pagesOfEntry x with
    | .error e => s.dirFault x.id x.ctx e
    | .ok ps => fin (ps.foldl (fun (t : State) i => t.dropRef x.pool i) s) (freeEntry x.id x.last)

/-- Phase 4. -/
def State.phaseReleases (s : State) : State :=
  s.rosterIds.foldl (fun (t : State) e => if (t.entry e).state = 4 then t.releaseEntry (t.entry e) else t) s

/-- The pages of one pool addition (R341). -/
def State.addPages (s : State) (p n : Nat) : State :=
  let first := s.poolSize p
  let k := s.poolFreeCount p
  match s.rosWrite (s.poolCtx p)
      [{ va := s.refAddr p first, data := leBytes 0 (2 * n) },
       { va := s.stackAddr p k, data := (List.range n).flatMap (fun i => leBytes (first + i) 4) }] with
  | .error e => s.poolFault p e
  | .ok t =>
    ((t.wr ROS_POOL_FREE_FREE (k + n) 0 p).wr ROS_POOL_SIZE_SIZE (first + n) 0 p).registerPool p (s.poolCtx p)
      (s.rd ROS_POOL_PAGE_BASE 0 p) (s.rd ROS_POOL_SCALE_BASE 0 p) first n (s.rd ROS_POOL_CTL_HINT 0 p)

/-- Phase 5 (R341). -/
def State.phaseAdds (s : State) : State :=
  (s.rosAdds.filter (fun a => a.2.late || a.2.due == s.stroke)).foldl (fun (t : State) a =>
    { t with rosAdds := Tab.del t.rosAdds a.1 }.addPages a.1 a.2.count) s

/-- The demands of starved slots, before phase 6 (R328). -/
def State.applyDemands (s : State) : State :=
  let ids := (Tab.canon (s.rosDemands.map (fun d => (d.1, ())))).map (fun d => d.1)
  let s := ids.foldl (fun (t : State) e =>
    let x := t.entry e
    let top := (t.rosDemands.filter (fun d => d.1 == e)).foldl (fun m d => max m d.2) x.step
    if x.state = 2 then (t.setEntry { x with step := top, starved := 0, state := 3, last := stSuspended }).bump ROS_PC_SUSPENDS
    else if x.state = 0 then t
    else t.setEntry { x with step := top, starved := 0 }) s
  { s with rosDemands := [] }

/-- An entry has received its need (R323). -/
def State.grant (s : State) (e pages cap : Nat) : State :=
  let x := s.entry e
  let s := s.setEntry { x with state := 2, last := stSuccess, pages := x.pages + pages, cap := cap }
  if x.state = 1 then s.bump ROS_PC_ADMITS else s

/-- Phases 6 and 7 for one entry (R322 to R326). -/
def State.provisionHeld (s : State) (x : REnt) : State :=
  let suspend (s : State) (st : Nat) : State :=
    let s := s.setEntry { s.entry x.id with state := 3, last := st }
    if x.state = 2 then s.bump ROS_PC_SUSPENDS else s
  match s.provision x with
  | .fault e => s.faultEntry x e
  | .long => suspend s stShape
  | .short s => suspend s stSuspended
  | .done s n cap => s.grant x.id n cap

/-- The sequences in a state. -/
def State.seqsIn (s : State) (state : Nat) : List REnt := s.entries.filter (fun x => x.state == state && x.kind == 0)

/-- Phases 6 and 7 over some entries (R327). -/
def State.phaseHeld (s : State) (xs : List REnt) : State :=
  (byPriority xs).foldl (fun (t : State) x => t.provisionHeld (t.entry x.id)) s

/-- The entry that an ADMIT asks for, waiting (R313, R321, R344). -/
def admitEntry (r : RosReq) (last : Nat) : REnt :=
  let raw := r.raw
  { freeEntry r.target last with
    kind := fieldBits raw 64 14 1, state := 1, ctx := r.ctx, prio := fieldBits raw 66 0 2, pool := fieldBits raw 66 2 4
    cand := fieldBits raw 67 0 5, reset := fieldBits raw 67 5 1, step := fieldLE raw 76 3, dir := fieldLE raw 80 8
    init := fieldLE raw 88 8, stride := fieldLE raw 96 3, layers := fieldLE raw 100 1, fmt := fieldBits raw 101 0 4
    hint := fieldBits raw 101 4 2 }

/-- The directory that an ADMIT asks for (R314, R321). -/
def State.admitDir (s : State) (r : RosReq) : Dir :=
  let fmt := s.rd NARROW_CFG_KV
  let stride := rowStrideOf fmt (fieldLE r.raw 70 2)
  { ctx := r.ctx, at' := fieldLE r.raw 80 8, layers := fieldLE r.raw 68 1, fmt := fmt, elems := fieldLE r.raw 70 2, stride := stride
    tpp := 2 ^ tppLog stride, cap := fieldLE r.raw 72 4 }

/-- An entry waits with a status (R325). -/
def State.deferEntry (s : State) (e status : Nat) : State :=
  let s := s.setEntry { s.entry e with state := 1, last := status }
  if status = stDeferred then s.bump ROS_PC_DEFERRED else s

/-- Phase 8 for one waiting entry; `true` when it failed in the sense of R327, which a wait for a deregistration (R374) is not. A
directory not yet created is created first; a stream registers its state block (R346). -/
def State.admitOne (s : State) (e : Nat) (held : Bool) : Bool × State :=
  let x := s.entry e
  let s : State := if (Tab.find s.rosNoDir e).isSome && x.kind == 1 && x.refs == 0 then
    { s with rosNoDir := Tab.del s.rosNoDir e } else s
  if held then (true, s.deferEntry e stDeferred)
  else if x.kind = 1 then
    if x.refs ≠ 0 then (false, s.deferEntry e stDeferred)
    else match s.registerStream e x.ctx x.dir (x.layers * x.stride) x.hint with
      | none => (true, (s.bump TIER_PC_REFUSED).deferEntry e stDeferred)
      | some t => (false, (t.setEntry { x with state := 2, len := 0, last := stSuccess }).bump ROS_PC_ADMITS)
  else
    let made := match Tab.find s.rosNoDir e with
      | none => Except.ok s
      | some r => match s.rosWrite r.ctx ((s.admitDir r).writes (s.admitDir r).header) with
        | .ok t => .ok { t with rosNoDir := Tab.del t.rosNoDir e }
        | .error x => .error x
    match made with
    | .error er => (false, s.dirFault e x.ctx er)
    | .ok s => match s.provision x with
      | .fault er => (false, s.dirFault e x.ctx er)
      | .long => (false, s.deferEntry e stShape)
      | .short s => (true, s.deferEntry e stDeferred)
      | .done s n cap => (false, s.grant e n cap)

/-- Phase 8 over the waiting entries (R327): under STRICT the first failure defers every later entry. -/
def State.admitAll (s : State) : List REnt → Bool → State
  | [], _ => s
  | x :: t, held =>
    let r := s.admitOne x.id held
    r.2.admitAll t (held || (r.1 && s.is ROS_ADMIT_CTL_STRICT))

/-- A recorded ADMIT enters its entry (R318, R321): not one in conflict, and not one whose entry is not free. A free stream entry
whose block is still registered waits with its request (R374). -/
def State.enterAdmit (s : State) (bad : List Nat) (r : RosReq) : State :=
  let x := s.entry r.target
  if bad.contains r.target then s
  else if x.state ≠ 0 then s.logEv .ros 0 0x201 2 stBusy (r.target + r.cmd * 2 ^ 16)
  else
    let y := admitEntry r x.last
    let s : State := { s with rosNoDir := Tab.put s.rosNoDir r.target r }
    if x.refs ≠ 0 then
      s.setEntry { x with state := 1, ctx := r.ctx, prio := y.prio }
    else s.setEntry y

/-- An ADMIT that waited for a deregistration takes its entry once REFS is 0 (R374). -/
def State.settleAdmit (s : State) (e : Nat) : State :=
  match Tab.find s.rosNoDir e with
  | some r => let x := s.entry e
    if x.kind = 1 ∧ x.refs = 0 ∧ x.state = 1 then s.setEntry (admitEntry r x.last) else s
  | none => s

/-- Phase 8 (R317, R321, R325, R327). -/
def State.phaseAdmit (s : State) (bad : List Nat) : State :=
  let s := (s.reqsOf 0x41).foldl (fun (t : State) r => t.enterAdmit bad r) s
  let s := s.rosNoDir.foldl (fun (t : State) r => t.settleAdmit r.1) s
  s.admitAll (byPriority (s.entries.filter (fun x => x.state == 1))) false

/-! ### The length table (R266, R267) -/

/-- Zeroes a span of local memory. -/
def State.fillZero (s : State) (a n : Nat) : State :=
  { s with
    mem := s.mem.filter (fun p => p.1 < a || a + n ≤ p.1)
    undef := s.undef.flatMap (fun u =>
      if overlaps u.lo u.len a n then
        [{ u with len := a - u.lo }, { u with lo := max u.lo (a + n), len := u.lo + u.len - max u.lo (a + n) }].filter
          (fun v => decide (0 < v.len))
      else [u]) }

/-- The length-table entry of a roster entry. -/
def lengthEntry (x : REnt) : List Byte :=
  if x.state = 2 ∧ x.kind = 0 then
    leBytes (x.len % 2 ^ 24 + x.cand * 2 ^ 24 + 2 ^ 31) 4 ++ leBytes (x.cap % 2 ^ 24) 4 ++ leBytes x.dir 8 ++ leBytes x.ctx 1 ++ leBytes 0 15
  else leBytes 0 32

/-- Phase 9. -/
def State.phaseLengths (s : State) (full : Bool) : State :=
  if !s.is ROS_LEN_BASE_ENABLE then s
  else
    let base := s.rd ROS_LEN_BASE_BASE * 0x80000
    let s := (List.range 8).foldl (fun (t : State) k =>
      if t.rd MMU_CKPT_STAT_STATE = 2 ∧ t.frameSet (base / 65536 + k) then t.copyFrame (base / 65536 + k) else t) s
    let ids := s.rosterIds ++ (s.mem.filter (fun c => decide (base ≤ c.1) && decide (c.1 < base + 0x80000))).map (fun c => (c.1 - base) / 32)
    let s := if full then { s.fillZero base 0x80000 with lenDirty := false, lenFull := false } else s
    let s := ((Tab.canon (ids.map (fun e => (e, ())))).map (fun e => e.1)).foldl (fun (t : State) e =>
      let new := lengthEntry (t.entry e)
      if t.rdMem (base + e * 32) 32 = new then t else (t.wrMem (base + e * 32) new).noteWrite (base + e * 32) 32) s
    if s.lenDirty then s.undefine base 0x80000 else s

/-- Counts after a catch (R338, R342). -/
def State.rosterCounts (s : State) : State :=
  let xs := s.entries
  let n (k : Nat) : Nat := (xs.filter (fun x => x.state == k)).length
  let s := ((s.wr ROS_ACTIVE_COUNT (n 2)).wr ROS_WAITING_COUNT (n 1)).wr ROS_SUSPENDED_COUNT (n 3)
  (List.range 16).foldl (fun (t : State) p =>
    if t.is ROS_POOL_CTL_ENABLE 0 p && decide (t.poolFreeCount p < t.rd ROS_POOL_LOW_LOW 0 p) then
      t.wr ROS_LOW_STAT (t.rd ROS_LOW_STAT ||| 2 ^ p) else t) s

/-! ### Copy-on-write (R284, R331) -/

/-- The roster resolves an abort on a shared page. `none` when a copy is needed and no page is there for it. -/
def State.cowPage (s : State) (ag : Agent) (e l i : Nat) : Except Stop (Option State) :=
  let x := s.entry e
  match s.readV ag x.ctx x.dir 64 with
  | .error er => .error er
  | .ok h =>
    let d := parseDir x.ctx x.dir h
    match s.readV ag x.ctx (d.list l + 16 * i) 16, s.readV ag x.ctx (d.copyList + 4 * l) 4 with
    | .error er, _ => .error er
    | _, .error er => .error er
    | .ok w, .ok c =>
      let old := s.pageIndex x.pool (entryPage (fieldLE w 0 8))
      if !bitOf (fieldLE w 0 1) 1 then .ok (some s)
      else match s.refsOf x.pool old with
        | .error er => .error er
        | .ok refs =>
          if refs = 1 then
            match s.rosWrite x.ctx [{ va := d.list l + 16 * i, data := leBytes (fieldLE w 0 8 - 2) 8 }] with
            | .error er => .error er
            | .ok t => .ok (some (t.bump ROS_PC_COW_AVOIDED))
          else if leNat c = noPage then .ok none
          else
            let ctx := s.poolCtx x.pool
            match s.readV ag ctx (s.poolPage x.pool old) 65536,
                (if fmtMx d.fmt then s.readV ag ctx (s.poolScale x.pool old) 4096 else .ok []) with
            | .error er, _ => .error er
            | _, .error er => .error er
            | .ok page, .ok scale =>
              match s.rosWrite2 ctx ([{ va := s.poolPage x.pool (leNat c), data := page }] ++
                    (if scale.isEmpty then [] else [{ va := s.poolScale x.pool (leNat c), data := scale }]))
                  x.ctx [{ va := d.list l + 16 * i, data := s.listBytes d x.pool (leNat c) },
                    { va := d.copyList + 4 * l, data := leBytes noPage 4 }] with
              | .error er => .error er
              | .ok t =>
                let t : State := { t with rosDrops := t.rosDrops ++ [{ entry := e, layer := l, pool := x.pool, page := old }] }
                .ok (some ((t.setEntry { t.entry e with pages := (t.entry e).pages - 1 }).bump ROS_PC_COW_COPIES))

/-- The pages of a copy that a seat waits for, in the pool's context: the source, and the target that the copy list names (R335). -/
def State.cowSpan (s : State) (e l i : Nat) : List (Nat × Nat) :=
  let x := s.entry e
  match s.dirOf x with
  | .error _ => []
  | .ok d =>
    let ctx := s.poolCtx x.pool
    (match s.listEntry d l i with | .ok w => [(ctx, entryPage w.1)] | .error _ => []) ++
      (match s.rosRead d.ctx (d.copyList + 4 * l) 4 with
        | .ok c => if leNat c = noPage then [] else [(ctx, s.poolPage x.pool (leNat c))]
        | .error _ => [])

/-- A step has aborted on a shared page: its seat waits for the copy (R284). -/
def State.startCopy (s : State) (i e l k : Nat) : State :=
  (s.updCore i (fun c => { c with cow := some (e, l, k), cowVas := s.cowSpan e l k })).bumpSat CORE_ABORT_COUNT 1 i

/-- COW_COPY (R284, R331): the page of the step that a seat's command has aborted; the step restarts. -/
def cowCopyEffect (i : Nat) (s : State) : State :=
  match (s.core i).cow, (s.core i).block with
  | some (e, l, k), some b =>
    let id := (s.core i).cmdId
    let clear (s : State) : State := ((s.updCore i (fun x => { x with cow := none, cowVas := [] })).clearArrived (.core i)).startWaiting
    match s.cowPage (.core i) e l k with
    | .ok (some t) => clear t
    | .ok none => (clear (s.logEv .ros 0 0x204 3 stInternal e)).failCommand i stInternal id
    | .error (.fail st va w) => (clear s).coreStop i b.ctx id false (.fail st va w)
    | .error (.ctxFault va l w) => (clear s).coreStop i b.ctx id false (.ctxFault va l w)
    | .error er => s.coreStop i b.ctx id false er
  | _, _ => s

def execCowCopy (core : Nat) (s : State) : Host.Outcome State Fault Refusal :=
  s.rails (decide (core < 144) && (s.core core).cow.isSome && !(s.core core).stalled) (cowCopyEffect core)

/-- Every copy in flight is finished before the phases of a catch (R317). -/
def State.finishCopies (s : State) : State :=
  (s.cores.filter (fun c => c.2.cow.isSome)).foldl (fun (t : State) c => cowCopyEffect c.1 t) s

/-- The phases of a catch (R317). A sequence that a fault of phases 1 or 3 or phase 6 suspends is retried at a later catch (R479), not in
phase 7 of this one. -/
def State.catchPhases (s : State) (full : Bool) : State :=
  let active := (s.seqsIn 2).map (fun x => x.id)
  let s := s.phaseDrops.phaseAdvances
  let bad := s.conflicts
  let s := bad.foldl (fun (t : State) e => t.logConflict e ((t.namings.filter (fun n => n.1 == e)).map (fun n => n.2))) s
  let s := ((s.phaseForks bad).phaseReleases.phaseAdds)
  let hurt := active.filter (fun e => (s.entry e).state == 3)
  let s := s.applyDemands
  let held := (s.seqsIn 3).filter (fun x => !hurt.contains x.id)
  let s := ((s.phaseHeld (s.seqsIn 2)).phaseHeld held).phaseAdmit bad
  let s := (s.phaseLengths full).rosterCounts
  let (v, s) := s.free
  let s : State := { s with rosReqs := [], rosPrev := s.rosPrev.filter (fun p => (s.entry p.1).state == 4), rosWait := none }
  ((s.wr ROS_CATCH_NS v).wr ROS_REQ_COUNT 0).addTok (tokGlobal 0) 1 true

/-- Catch processing (R317): it waits until every page copy in flight has ended; then the phases run. Where they meet bytes of another
device that have not come or memory that is held, nothing of what they did is taken: the roster asks for those bytes, and the phases run
again from the same state once they are there (log 24). -/
def State.rosterCatch (s : State) (full : Bool) : State :=
  let s := s.finishCopies
  let waits : State := { s with rosWait := some (full || s.rosWait == some true) }
  if s.cores.any (fun c => c.2.cow.isSome) then waits
  else
    let t := s.catchPhases full
    let missed := t.asked.filter (fun x => x.agent == .roster && !x.data.isEmpty && !s.asked.contains x)
    if missed.isEmpty then t.clearArrived .roster
    else (missed.filter (fun x => x.data != leBytes 0 8)).foldl (fun (u : State) x => u.ask .roster 0 true x.addr (leNat x.data)) waits

/-! ### What commands record -/

/-- An advance of an entry (R285, R349, R360). -/
def State.recordAdvance (s : State) (e v : Nat) : State :=
  let x := s.entry e
  let s : State := { s with rosAdvs := s.rosAdvs ++ [(e, v)] }
  s.setEntry { x with advOn := 1
                      adv := if x.advOn = 0 then v else if x.kind = 1 then (x.adv + v) % 2 ^ 24 else min x.adv v }

/-- A starved slot (R328). -/
def State.recordStarved (s : State) (e v : Nat) : State :=
  { s.setEntry { s.entry e with starved := 1 } with rosDemands := s.rosDemands ++ [(e, v)] }

/-- A command names an entry in a slot (R307, R350). -/
def State.touchEntry (s : State) (e : Nat) : State :=
  if (s.entry e).state = 0 then s else s.setEntry { s.entry e with touched := max (s.entry e).touched s.stroke }

/-- Takes a reference on the state block of a stream (R369). -/
def State.holdStream (s : State) (e : Nat) : State := s.setEntry { s.entry e with refs := (s.entry e).refs + 1 }

/-- Drops one; a stream released meanwhile is deregistered with the last (R320, R374). -/
def State.dropStream (s : State) (e : Nat) : State :=
  let x := { s.entry e with refs := (s.entry e).refs - 1 }
  let s := s.setEntry x
  if x.refs = 0 ∧ x.state = 0 then (s.deregisterStream e).setEntry (freeEntry e x.last)
  else if x.refs = 0 ∧ x.state = 1 ∧ (Tab.find s.rosNoDir e).isSome then s.deregisterStream e
  else s

/-- The last-touched stroke of a pool page is the latest of the entries that name it (R334). -/
def State.agePoolPages (s : State) : State :=
  (s.entries.filter (fun x => x.kind == 0)).foldl (fun (t : State) x =>
    match t.pagesOfEntry x with
    | .error _ => t
    | .ok ps => { t with objs := t.objs.map (fun o =>
        if o.2.kind = 1 ∧ o.2.members.any (fun m => ps.any (fun i => pageMember x.pool i == m)) then
          (o.1, { o.2 with touched := max o.2.touched x.touched }) else o) }) s

/-! ### Requests (R313 to R316, R344, R345) -/

/-- The fields that every request leaves zero (R313). -/
def rosHeadOk (raw : List Byte) : Bool := zeroSpan raw 1 1 && zeroSpan raw 4 60

/-- An ADMIT keeps its rules (R34, R315, R345). A DIR_PTR that is not 64-byte aligned is refused for a sequence as R345 has it for a stream
(DESIGN CHOICE, log 24: R315 names no such case). -/
def State.admitOk (s : State) (ctx : Nat) (raw : List Byte) : Bool :=
  let e := fieldLE raw 70 2
  let stride := rowStrideOf (s.rd NARROW_CFG_KV) e
  let pool := fieldBits raw 66 2 4
  let common := rosHeadOk raw && !bitOf (fieldLE raw 64 2) 15 && fieldBits raw 66 6 2 == 0 && fieldBits raw 67 6 2 == 0 &&
    zeroSpan raw 69 1 && ptrOk (fieldLE raw 80 8) && fieldLE raw 80 8 % 64 == 0
  if bitOf (fieldLE raw 64 2) 14 then
    let n := fieldLE raw 96 3
    common && pool == 0 && fieldBits raw 67 0 5 == 0 && zeroSpan raw 68 12 && ptrOk (fieldLE raw 88 8) && fieldLE raw 88 8 % 64 == 0 && zeroSpan raw 99 1 &&
      n % 64 == 0 && decide (64 ≤ n) && decide (1 ≤ fieldLE raw 100 1) && decide (fieldLE raw 100 1 ≤ 128) &&
      decide (fieldBits raw 101 0 4 ≤ 1) && fieldBits raw 101 6 2 == 0 && zeroSpan raw 102 26
  else
    let step := fieldLE raw 76 3
    let cand := fieldBits raw 67 0 5
    common && !bitOf (fieldLE raw 67 1) 5 && decide (cand ≤ 16) && decide (1 ≤ fieldLE raw 68 1) && decide (fieldLE raw 68 1 ≤ 128) &&
      decide (1 ≤ fieldLE raw 72 4) && decide (fieldLE raw 72 4 ≤ 65536) && zeroSpan raw 79 1 && decide (1 ≤ step) &&
      decide (step ≤ 65536) && decide (cand ≤ step) && zeroSpan raw 88 40 && e % 64 == 0 && decide (128 ≤ stride) &&
      decide (stride ≤ 1024) && s.is ROS_POOL_CTL_ENABLE 0 pool && s.poolCtx pool == ctx

/-- A FORK keeps its rules, its child records apart (R315). -/
def forkOk (raw : List Byte) : Bool :=
  rosHeadOk raw && fieldBits raw 64 14 2 == 0 && decide (1 ≤ fieldLE raw 66 1) && decide (fieldLE raw 66 1 ≤ 64) && zeroSpan raw 67 5 &&
    ptrOk (fieldLE raw 72 8) && zeroSpan raw 80 48

/-- The child records of a FORK. -/
def forkKids (n : Nat) (b : List Byte) : List (Nat × Nat) :=
  (List.range n).map (fun k => (fieldBits b (16 * k) 0 14, fieldLE b (16 * k + 8) 8))

/-- Reserved fields of child records are zero (R315), and DIR_PTR is in range (R34) and aligned (DESIGN CHOICE, log 24: no rule states the
alignment of a child's directory at recording). -/
def kidsOk (n : Nat) (b : List Byte) : Bool :=
  (List.range n).all (fun k => fieldBits b (16 * k) 14 2 == 0 && zeroSpan b (16 * k + 2) 6 && ptrOk (fieldLE b (16 * k + 8) 8) &&
    fieldLE b (16 * k + 8) 8 % 64 == 0)

/-- A RELEASE keeps its rules (R315). -/
def releaseOk (raw : List Byte) : Bool := rosHeadOk raw && fieldBits raw 64 14 2 == 0 && zeroSpan raw 66 62

/-- Records a request of some entries, within 4,096 of a stroke (R316); its cue completes (R87). -/
def State.recordReq (s : State) (c idx : Nat) (r : RosReq) (n : Nat) (f : State → State) : State :=
  let d := leBytes r.cmd 2
  if 4096 < s.rd ROS_REQ_COUNT + n then (s.issueCue c idx 1).cuePart c idx stShape 0 0 d
  else
    let s := f { s with rosReqs := s.rosReqs ++ [r] }
    let s := (s.bump ROS_REQ_COUNT n).issueCue c idx 1
    let x := s.cox c
    let s := s.setCox c { x with running := Tab.upd x.running idx default (fun q => { q with detail := d }) }
    s.cuePart c idx stSuccess 0 8 d

/-- The command of the ROSTER cue that a crew issues next is of an opcode; one that cannot be read yet may be any, and a reserved
one is refused by FORK's row. -/
def State.rosterCue (s : State) (c op : Nat) : Bool :=
  s.issues c 4 && (match s.readyCue c with
    | some (sh, q, _) => match s.readV (.cox c) sh.ctx q.ptr 128 with
      | .ok raw => fieldLE raw 0 1 == op || (op == 0x40 && !(fieldLE raw 0 1 == 0x41 || fieldLE raw 0 1 == 0x42))
      | .error _ => true
    | none => false)

/-- The child records of the FORK that a crew issues next lie at some bytes of another device. -/
def State.forkReads (s : State) (c gpa : Nat) : Bool :=
  s.rosterCue c 0x40 && (match s.readyCue c with
    | some (sh, q, _) => match s.readV (.cox c) sh.ctx q.ptr 128 with
      | .ok raw => (spanPages (fieldLE raw 72 8) (16 * fieldLE raw 66 1)).any (fun p => match s.translate sh.ctx p.1 .read with
        | .ok x => decide (x.gpa ≤ gpa) && decide (gpa < x.gpa + p.2)
        | .error _ => false)
      | .error _ => false
    | none => false)

/-- A ROSTER cue (R76, R313): its command is read; a failed check fails the cue with 0x11. It waits while the last catch is still being
processed (log 24). -/
def State.rosterIssue (s : State) (c : Nat) (f : Nat → Nat → Nat → List Byte → State → State) : State :=
  s.issueWith c (fun sh q idx s =>
    if s.blk .ros ≠ 1 then s.failCue c idx stRefused
    else if s.rosWait.isSome then s
    else match s.readV (.cox c) sh.ctx q.ptr 128 with
    | .error e => s.cueStop c sh.ctx q.id idx e
    | .ok raw => f sh.ctx idx q.id raw (s.clearArrived (.cox c)))

/-- A failed check (R315). -/
def State.refuseReq (s : State) (c idx status : Nat) (raw : List Byte) : State :=
  (s.issueCue c idx 1).cuePart c idx status 0 0 (leBytes (fieldLE raw 2 2) 2)

/-- ADMIT (R313, R315, R316, R344, R345). -/
def admitEffect (c : Nat) (s : State) : State :=
  s.rosterIssue c (fun ctx idx _ raw s =>
    if s.admitOk ctx raw then s.recordReq c idx { ctx := ctx, raw := raw, kids := [] } 1 id
    else s.refuseReq c idx stMalformed raw)

def execAdmit (crew : Nat) (s : State) : Host.Outcome State Fault Refusal := s.rails (s.rosterCue crew 0x41) (admitEffect crew)

/-- FORK (R315, R316, R476): its child records are read by the roster, whose page fault makes the cue wait. -/
def forkEffect (c : Nat) (s : State) : State :=
  s.rosterIssue c (fun ctx idx _ raw s =>
    let n := fieldLE raw 66 1
    let va := fieldLE raw 72 8
    if fieldLE raw 0 1 ≠ 0x40 || !forkOk raw then s.refuseReq c idx stMalformed raw
    else match s.forkAborted.find? (fun a => a.1 == cueTag c idx (fieldBits raw 64 0 14)) with
    | some a => ({ s with forkAborted := s.forkAborted.filter (fun x => x.1 != a.1) } : State).refuseReq c idx a.2 raw
    | none => match s.readV .roster ctx va (16 * n) with
      | .error (.pageFault a l w) => s.takeFault .roster ctx a l w (cueTag c idx (fieldBits raw 64 0 14))
      | .error (.need g k) => s.ask .roster ctx true g k
      | .error (.ctxFault a l w) => (s.loseContext ctx a l w .roster (fieldBits raw 64 0 14)).refuseReq c idx stLost raw
      | .error (.fail st _ _) => s.refuseReq c idx st raw
      | .error _ => s
      | .ok b =>
        if !kidsOk n b then s.refuseReq c idx stMalformed raw
        else (s.clearArrived .roster).recordReq c idx { ctx := ctx, raw := raw, kids := forkKids n b } n id)

def execFork (crew : Nat) (s : State) : Host.Outcome State Fault Refusal := s.rails (s.rosterCue crew 0x40) (forkEffect crew)

/-- RELEASE (R305, R316, R320): a non-free entry moves to leaving; one of a free entry is logged. -/
def releaseEffect (c : Nat) (s : State) : State :=
  s.rosterIssue c (fun ctx idx _ raw s =>
    if !releaseOk raw then s.refuseReq c idx stMalformed raw
    else
      let e := fieldBits raw 64 0 14
      s.recordReq c idx { ctx := ctx, raw := raw, kids := [] } 1 (fun s =>
        let x := s.entry e
        if x.state = 0 then s.logEv .ros 0 0x201 2 stBusy (e + fieldLE raw 2 2 * 2 ^ 16)
        else if x.state = 4 then s
        else { s.setEntry { x with state := 4 } with rosPrev := Tab.put s.rosPrev e x.state }))

def execRelease (crew : Nat) (s : State) : Host.Outcome State Fault Refusal := s.rails (s.rosterCue crew 0x42) (releaseEffect crew)

/-! ### Pool registers (R339 to R341) -/

/-- The free stack found in memory (R340): how many entries stand before the first index of SIZE or more. -/
def State.stackCount (s : State) (p : Nat) : Nat → Nat → Except Stop (Option Nat)
  | 0, _ => .ok none
  | n + 1, k => match s.rosRead (s.poolCtx p) (s.stackAddr p k) 4 with
    | .error e => .error e
    | .ok w => if s.poolSize p ≤ leNat w then .ok (some k) else s.stackCount p n (k + 1)

/-- The objects of a pool with another hint than ROS_POOL_CTL. -/
def State.offHint (s : State) (p : Nat) : List (Nat × Obj) :=
  s.objs.filter (fun o => o.2.kind == 1 && o.2.members.any (fun m => m / 2 ^ 24 == p) && o.2.hint != s.rd ROS_POOL_CTL_HINT 0 p)

/-- An object takes a hint: it becomes PINNED or is so no more, and its leaves with it (R427); a move that runs ends first. -/
def State.rehint (s : State) (h : Nat) (o : Nat × Obj) : State :=
  let new : Obj := { o.2 with hint := h, state := if o.2.state = 0 ∨ o.2.state = 3 then restState h o.2.tier else o.2.state }
  let s := s.setObj o.1 new
  if new.state = o.2.state then s else new.pages.foldl (fun (t : State) q => t.mapPage new q.1 q.2) s

/-- The objects of a pool take the hint of ROS_POOL_CTL (R334). -/
def State.rehintPool (s : State) (p : Nat) : State :=
  (s.offHint p).foldl (fun (t : State) o => t.rehint (s.rd ROS_POOL_CTL_HINT 0 p) o) s

/-- ENABLE of a pool changes from 0 to 1 (R334, R340). -/
def State.startPool (s : State) (p : Nat) : State :=
  let n := s.poolSize p
  let s : State := { s with wildPools := s.wildPools.filter (· != p) }
  let up (s : State) (free : Nat) : State :=
    (((s.on ROS_POOL_CTL_ENABLE 0 p).wr ROS_POOL_FREE_FREE free 0 p).registerPool p (s.poolCtx p) (s.rd ROS_POOL_PAGE_BASE 0 p)
      (s.rd ROS_POOL_SCALE_BASE 0 p) 0 n (s.rd ROS_POOL_CTL_HINT 0 p)).rehintPool p
  let fault (s : State) (x : Stop) : State := match x with
    | .need g n => s.ask .roster (s.poolCtx p) true g n
    | .wait => s
    | _ => (s.on ROS_POOL_CTL_ENABLE 0 p).poolFault p x
  let s := s.off ROS_POOL_CTL_FAULTED 0 p
  if s.is ROS_POOL_CTL_RESTORE 0 p then
    match s.stackCount p (n + 1) 0 with
    | .ok (some k) => up s k
    | .ok none => s.cfgErr .ros
    | .error x => fault s x
  else
    match s.rosWrite (s.poolCtx p)
        [{ va := s.refAddr p 0, data := leBytes 0 (2 * n) },
         { va := s.stackAddr p 0, data := (List.range n).flatMap (fun k => leBytes (n - 1 - k) 4) }] with
    | .ok t => up t n
    | .error x => fault s x

/-- POOL_ENABLE (R339, R340): a write of ENABLE to ROS_POOL_CTL. -/
def poolEnableEffect (p : Nat) (s : State) : State :=
  if s.stkState ≠ 0 then s.cfgErr .ros
  else if s.is ROS_POOL_CTL_ENABLE 0 p then (s.off ROS_POOL_CTL_FAULTED 0 p).rehintPool p
  else s.startPool p

def execPoolEnable (pool : Nat) (s : State) : Host.Outcome State Fault Refusal := s.rails (decide (pool < 16)) (poolEnableEffect pool)

/-- The catch of a stroke has passed: one up to the current stroke, and outside a run one before the first stroke of the next run (log 24). -/
def State.catchPassed (s : State) (n : Nat) : Bool :=
  if s.stkState = 0 ∨ s.stkState = 1 then decide (n < s.rd STK_FIRST_STROKE) else decide (n ≤ s.stroke)

/-- ROS_POOL_ADD (R341). -/
def poolAddEffect (p count : Nat) (s : State) : State :=
  if (Tab.find s.rosAdds p).isSome then s.cfgErr .ros
  else
    let due := s.rd ROS_POOL_ADD_AT 0 p
    let late := s.catchPassed due
    let s : State := { s with rosAdds := Tab.put s.rosAdds p { count := count % 2 ^ 24, due := due, late := late } }
    if late then s.logEv .ros 0 0x203 2 0 (p + due % 2 ^ 56 * 2 ^ 8) else s

def execRosPoolAdd (pool count : Nat) (s : State) : Host.Outcome State Fault Refusal :=
  s.rails (decide (pool < 16)) (poolAddEffect pool count)

end Sys2Proof.Machine
end

