-- ==== Sys2Proof/Machine/Tensor.lean ====
section
/-!
DEFINITION. What every tensor command shares (R126 to R131, R140, R143, R180, R181, R187 to R194, R203 to R211): its fields,
the checks and reads of its decode, rows of elements read and narrowed, the record of its amax and counts, and how a step
ends.
-/
namespace Sys2Proof.Machine

/-! ### Fields (R126) -/

/-- A field of whole bytes as a span of bits. -/
def byteSpan (off n : Nat) : Nat × Nat := (8 * off, 8 * n)

/-- The bits of some fields. -/
def spanMask (fs : List (Nat × Nat)) : Nat := fs.foldl (fun m f => m ||| ((2 ^ f.2 - 1) <<< f.1)) 0

/-- Every bit outside the named fields is zero: reserved fields, and fields that the opcode does not use (R126). -/
def onlyFields (raw : List Byte) (fs : List (Nat × Nat)) : Bool := (leNat raw &&& spanMask fs) == leNat raw

/-- OPCODE and CMD_ID. -/
def idFields : List (Nat × Nat) := [byteSpan 0 1, byteSpan 2 2]

/-- A row stride is a multiple of 64 and spans its planned row (R133, R229). -/
def strideOk (ld fmt n : Nat) : Bool := ld % 64 == 0 && decide (rowBytes fmt n ≤ ld)

/-- The pointers at some offsets of a command (R34). -/
def ptrsOk (raw : List Byte) (offs : List Nat) : Bool := offs.all (fun o => ptrOk (fieldLE raw o 8))

/-- A block-scale pointer is nonzero exactly under an MX format (R784). -/
def scalePtrOk (fmt ptr : Nat) : Bool := (ptr != 0) == fmtMx fmt

/-! ### Decode -/

/-- A check of point 1 to 4 of R131. -/
def need (c : Bool) (status : Nat) : Except Decoded Unit := if c then .ok () else .error (.fail status)

/-- A read or translation of the decode. -/
def access {α : Type} : Except Stop α → Except Decoded α
  | .ok a => .ok a
  | .error e => .error (.stop e)

/-- The outcome of a decode. -/
def asDecoded : Except Decoded Run → Decoded
  | .ok r => .run r
  | .error d => d

/-- The run-time shape record, or the plan (R130). -/
def State.shapeOf (s : State) (ag : Agent) (ctx : Nat) (raw : List Byte) (plan : List Nat) : Except Stop (List Nat) :=
  if shapePtr raw = 0 then .ok plan
  else match s.readV ag ctx (shapePtr raw) 16 with
    | .error e => .error e
    | .ok w => .ok [fieldLE w 0 4, fieldLE w 4 4, fieldLE w 8 4, fieldLE w 12 4]

/-- A span lies wholly in the scratchpad of the seat that a core serves (R133, R233). Only a page fault stops the check. -/
def State.spanOwn (s : State) (i ctx : Nat) : List (Nat × Nat) → Except Stop Bool
  | [] => .ok true
  | (va, n) :: t =>
    let lo := scratchBase (i / 9) ((s.seatOf i).getD 8)
    match s.translate ctx va .read with
    | .error (.pageFault a l w) => .error (.pageFault a l w)
    | .error (.ctxFault a l w) => .error (.ctxFault a l w)
    | .error _ => .ok false
    | .ok x =>
      if gpaDev x.gpa = s.dev ∧ lo ≤ gpaLocal x.gpa ∧ gpaLocal x.gpa + n ≤ lo + 0x300000 then s.spanOwn i ctx t
      else .ok false

def State.ownScratch (s : State) (i ctx va n : Nat) : Except Stop Bool := s.spanOwn i ctx (spanPages va n)

/-! ### Scale table (R187 to R194) -/

/-- Context virtual address of a scale-table entry (R187). -/
def State.scaleVa (s : State) (ctx e : Nat) : Nat := s.rd CTX_SCALE_TABLE ctx + 256 * e

/-- The parity slot of the current stroke (R189). -/
def State.parity (s : State) : Nat := s.stroke % 2

/-- The first 64 bytes of an entry. -/
def State.scaleEntry (s : State) (ag : Agent) (ctx e : Nat) : Except Stop (List Byte) := s.readV ag ctx (s.scaleVa ctx e) 64

/-- INV_SCALE of an entry for a format (R189, R191). -/
def State.invOf (s : State) (e : List Byte) (fmt : Nat) : Word :=
  if fmtUnscaled fmt then f32One else word32 e (8 + 4 * s.parity)

/-- SCALE of an entry for a format (R189, R191, R203). -/
def State.scaleOf (s : State) (e : List Byte) (fmt : Nat) : Word :=
  if fmtUnscaled fmt then f32One else word32 e (4 * s.parity)

/-- CLASS of an entry. -/
def entryClass (e : List Byte) : Nat := fieldBits e 29 3 2

/-- The format agrees with NARROW_CFG for the entry's CLASS (R211). -/
def State.classOk (s : State) (e : List Byte) (fmt : Nat) : Bool :=
  match entryClass e with
  | 0 => true
  | 1 => s.rd NARROW_CFG_KV == fmt
  | 2 => s.rd NARROW_CFG_GRAD == fmt
  | _ => s.rd NARROW_CFG_OPT == fmt

/-- SATURATE of an entry (R187). -/
def entrySat (e : List Byte) : Bool := bitOf (fieldLE e 29 1) 2

/-- Entries SCALE_BASE to + 2 with their CLASS checks (R190, R211): `fb` is the format of an operand B and `fc` that of an operand C, where
there is one. -/
def State.readScalesOf (s : State) (ag : Agent) (ctx : Nat) (raw : List Byte) (fa : Nat) (fb : Option Nat) (fd : Nat) (fc : Option Nat) :
    Except Decoded Scales := do
  let e0 ← access (s.scaleEntry ag ctx (scaleBase raw))
  let e1 ← access (s.scaleEntry ag ctx (scaleBase raw + 1))
  let e2 ← access (s.scaleEntry ag ctx (scaleBase raw + 2))
  need (s.classOk e0 fa && (match fb with | some f => s.classOk e1 f | none => true) &&
    (match fc with | some f => s.classOk e2 f | none => true)) stMalformed
  return { a := s.invOf e0 fa, b := s.invOf e1 (fb.getD fd), c := s.scaleOf e2 (fc.getD 0), sat := entrySat e2 }

/-- The scales of a command that has an output. -/
def State.readScales (s : State) (ag : Agent) (ctx : Nat) (raw : List Byte) (fa : Nat) (fb : Option Nat) (fd fc : Nat) :
    Except Decoded Scales := s.readScalesOf ag ctx raw fa fb fd (some fc)

/-- The writes that combine an amax and counts into an entry (R193, R194). -/
def State.recordWrites (s : State) (ag : Agent) (ctx e : Nat) (c : NarrowCount) : Except Stop (List Write) :=
  let va := s.scaleVa ctx e
  match s.readV ag ctx va 64 with
  | .error x => .error x
  | .ok b =>
    let old := word32 b (16 + 4 * s.parity)
    let cap (o n : Nat) : List Byte := leBytes (min (fieldLE b o 4 + n) (2 ^ 32 - 1)) 4
    .ok [{ va := va + 16 + 4 * s.parity, data := leBytes (if flt old c.amax then c.amax else old).toNat 4 },
         { va := va + 36, data := cap 36 c.sat ++ cap 40 c.inf ++ cap 44 c.nan }]

/-- Flags of a command's counts (R208). -/
def countFlags (c : NarrowCount) : Nat :=
  (if c.sat = 0 then 0 else flSaturated) ||| (if c.inf = 0 ∧ c.nan = 0 then 0 else flNonfinite)

/-! ### Rows of elements -/

/-- Codes of elements j0 to j0 + n - 1 of the row at an address (R178). -/
def State.codes (s : State) (ag : Agent) (ctx va fmt j0 n : Nat) : Except Stop (List Nat) :=
  if n = 0 then .ok []
  else
    let w := fmtBits fmt
    let lo := j0 * w / 8
    match s.readV ag ctx (va + lo) (((j0 + n) * w + 7) / 8 - lo) with
    | .error e => .error e
    | .ok b =>
      let v := leNat b >>> (j0 * w - 8 * lo)
      .ok ((List.range n).map (fun i => bits v (i * w) w))

/-- Scale byte of each of the elements j0 to j0 + n - 1 of a row (R180). -/
def State.rowScales (s : State) (ag : Agent) (ctx sva j0 n : Nat) : Except Stop (List Nat) :=
  if n = 0 then .ok []
  else
    let first := j0 / 32
    match s.readV ag ctx (sva + first) ((j0 + n - 1) / 32 - first + 1) with
    | .error e => .error e
    | .ok b => .ok ((List.range n).map (fun i => ((b[(j0 + i) / 32 - first]?).getD 0).toNat))

/-- Exact values of elements of a row (R183). -/
def State.rowNums (s : State) (ag : Agent) (ctx va sva fmt j0 n : Nat) : Except Stop (List Num) :=
  match s.codes ag ctx va fmt j0 n with
  | .error e => .error e
  | .ok cs =>
    if fmtMx fmt then
      match s.rowScales ag ctx sva j0 n with
      | .error e => .error e
      | .ok ss => .ok (List.zipWith (fun c e => scaleNum (decodeElem fmt c) e) cs ss)
    else .ok (cs.map (decodeElem fmt))

/-- Elements of a row as FP32, descaled (R184, R232). -/
def State.rowF32 (s : State) (ag : Agent) (ctx va sva fmt : Nat) (inv : Word) (j0 n : Nat) : Except Stop (List Word) :=
  match s.rowNums ag ctx va sva fmt j0 n with
  | .error e => .error e
  | .ok xs => .ok (xs.map (fun x => fmul (toF32 x) inv))

/-- FP32 values stored one after another. -/
def State.f32s (s : State) (ag : Agent) (ctx va n : Nat) : Except Stop (List Word) := s.rowF32 ag ctx va 0 0 f32One 0 n

/-- Bytes of FP32 values. -/
def f32Bytes (ws : List Word) : List Byte := ws.flatMap (fun w => leBytes w.toNat 4)

/-- Narrows a row from a block boundary on (R204): codes, scale bytes, counts. -/
def narrowRow (fmt : Nat) (sat : Bool) (scale : Word) : Nat → List Word → List Nat × List Byte × NarrowCount
  | 0, _ => ([], [], default)
  | fuel + 1, rs =>
    if rs.isEmpty then ([], [], default)
    else if fmtMx fmt then
      let (e, cs, c) := narrowBlock fmt scale (rs.take 32)
      let (cs', es, c') := narrowRow fmt sat scale fuel (rs.drop 32)
      (cs ++ cs', BitVec.ofNat 8 e :: es, c.add c')
    else
      let xs := rs.map (narrowOne fmt sat scale)
      (xs.map Prod.fst, [], xs.foldl (fun c x => c.add x.2) default)

/-- The bytes that a partial write keeps, page by page: read where the write goes. -/
def State.oldPieces (s : State) (ag : Agent) (ctx : Nat) : List (Nat × Nat) → Except Stop (List Byte)
  | [] => .ok []
  | (va, n) :: t =>
    match s.translate ctx va .write with
    | .error e => .error e
    | .ok x => match s.readGpa ag ctx x.gpa n with
      | .error e => .error (e.placed va true)
      | .ok d => match s.oldPieces ag ctx t with
        | .error e => .error e
        | .ok r => .ok (d ++ r)

/-- The bytes that a partial write keeps (R162, R179). -/
def State.oldBytes (s : State) (ag : Agent) (ctx va n : Nat) : Except Stop (List Byte) := s.oldPieces ag ctx (spanPages va n)

/-- The write of codes at elements j0 on of a row; a bit outside the bound is kept. -/
def State.codeWrite (s : State) (ag : Agent) (ctx va fmt j0 : Nat) (cs : List Nat) : Except Stop (List Write) :=
  if cs.isEmpty then .ok []
  else
    let w := fmtBits fmt
    let lo := j0 * w / 8
    let top := (j0 + cs.length) * w
    let n := (top + 7) / 8 - lo
    let off := j0 * w - 8 * lo
    let v := (cs.zipIdx.map (fun p => p.1 % 2 ^ w * 2 ^ (p.2 * w))).sum
    let out (old : Nat) : List Write :=
      [{ va := va + lo, data := leBytes (old % 2 ^ off + v * 2 ^ off + (old >>> (off + cs.length * w)) <<< (off + cs.length * w)) n }]
    if off = 0 ∧ top % 8 = 0 then .ok (out 0)
    else match s.oldBytes ag ctx (va + lo) n with
      | .error e => .error e
      | .ok b => .ok (out (leNat b))

/-- The write of +0 at elements j0 on of a row: its code is 0 in every format, whatever the scale. -/
def State.zeroWrite (s : State) (ag : Agent) (ctx va fmt j0 n : Nat) : Except Stop (List Write) :=
  s.codeWrite ag ctx va fmt j0 (List.replicate n 0)

/-- The writes of a narrowed row, from element j0 on (a block boundary under an MX format), and its counts. -/
def State.rowWrite (s : State) (ag : Agent) (ctx va sva fmt : Nat) (sat : Bool) (scale : Word) (j0 : Nat) (rs : List Word) :
    Except Stop (List Write × NarrowCount) :=
  let (cs, es, c) := narrowRow fmt sat scale (rs.length + 1) rs
  match s.codeWrite ag ctx va fmt j0 cs with
  | .error e => .error e
  | .ok ws => .ok (ws ++ (if es.isEmpty then [] else [{ va := sva + j0 / 32, data := es }]), c)

/-- Joins the writes and counts of rows. -/
def joinRows (xs : List (List Write × NarrowCount)) : List Write × NarrowCount :=
  (xs.flatMap Prod.fst, xs.foldl (fun c x => c.add x.2) default)

/-! ### The end of a step -/

/-- What a step makes: its writes in the context, its writes to the seat's scratchpad by local address (R158), the command as it goes
on, and whether the command's work area holds values of its own from now on, which nobody else may know (R233, R295, R363). -/
structure StepOut where
  writes : List Write
  locals : List (Nat × List Byte)
  run    : Run
  scrub  : Bool := false

/-- The flags with which a command completes (R208). -/
def runFlags (r : Run) : Nat := r.flags ||| countFlags r.cnt ||| countFlags r.cnt2

/-- One byte of each page of a command's areas: a step that keeps values of its own there needs WRITE on them as on what it writes (R140,
R233, R296, R362). -/
def Run.areaWrites (r : Run) : List Write := r.areas.flatMap (fun a => (spanPages a.1 a.2).map (fun p => { va := p.1, data := [0] }))

/-- A step has run (R138 to R143): its pages are checked, its bytes are written; the last step records the amax and counts,
and ends the command, once its writes are visible where it has something to tell the roster. `entry` takes the counts, `area` is the
partial-sum or work area. -/
def State.stepDone (s : State) (i : Nat) (b : Block) (entry : Option Nat) (area : Nat × Nat) (finish : State → Run → State)
    (x : Except Stop StepOut) : State :=
  let ag := Agent.core i
  let psum : Stop → Bool
    | .pageFault va _ _ => decide (area.1 ≤ va) && decide (va < area.1 + area.2)
    | .fail _ va _ => decide (area.1 ≤ va) && decide (va < area.1 + area.2)
    | _ => false
  match x with
  | .error e => s.coreStop i b.ctx (match (s.core i).run with | some r => fieldLE r.raw 2 2 | none => 0) (psum e) e
  | .ok o =>
    let id := fieldLE o.run.raw 2 2
    let last := decide (o.run.steps ≤ o.run.step + 1)
    let recs : Except Stop (List Write) :=
      if last then match entry with
        | some e => s.recordWrites ag b.ctx e o.run.cnt
        | none => .ok []
      else .ok []
    match recs with
    | .error e => s.coreStop i b.ctx id false e
    | .ok rw =>
      match s.checkWrites b.ctx (o.writes ++ rw ++ (if o.scrub ∧ !last then o.run.areaWrites else [])) with
      | .error e => s.coreStop i b.ctx id (psum e) e
      | .ok () =>
        let s := (s.writeAll (.core i) b.ctx b.sched (o.writes ++ rw))
        let s := o.locals.foldl (fun (t : State) (p : Nat × List Byte) => t.store p.1 0 b.sched p.2) s
        let s := if o.scrub ∧ !last then s.undefineAreas b.ctx o.run else s
        let s := (s.bump CORE_PC_STEPS 1 i).touchRun b o.run
        let r : Run := { o.run with step := o.run.step + 1 }
        if last then
          let s := (s.updCore i (fun x => { x with run := some r })).undefineRun i
          if tellsRoster r ∧ 0 < (s.core i).out then (s.wr CORE_STEPS_LEFT 0 i).clearArrived ag
          else (finish s r).endCommand i (runFlags r)
        else ((s.updCore i (fun x => { x with run := some r })).wr CORE_STEPS_LEFT (r.steps - r.step) i).clearArrived ag

end Sys2Proof.Machine
end

