-- ==== Sys2Proof/Machine/Matrix.lean ====
section
/-!
DEFINITION. The matrix class: GEMM, GEMM_LIST, CONV2D and CONV3D (R117 to R122, R132 to R134, R139, R144 to R153, R160 to
R173, R181, R182, R784), and the fused EPILOGUE (R237 to R241).
-/
namespace Sys2Proof.Machine

/-! ### Formats and tiles -/

/-- The pair of formats may meet in the arrays (R117, R118). -/
def pairOk (fa fb : Nat) : Bool :=
  fmtOk fa && fmtOk fb && fa != 0 && fb != 0 && fmtInt fa == fmtInt fb

/-- Rate class of a pair (R117): 0 the 4-bit class, 1 the 8-bit class, 2 BF16. -/
def rateOf (fa fb : Nat) : Nat := if fa = 1 ∨ fb = 1 then 2 else if fmt4 fa ∧ fmt4 fb then 0 else 1

/-- A tile: rows, columns, depth, and the width of a K group (R119, R173). -/
structure Tile where
  m : Nat
  n : Nat
  k : Nat
  g : Nat
  deriving DecidableEq, Repr

/-- The tile of TILE and COMPAT_TILE (R133, R144, R171). -/
def tileOf (raw : List Byte) : Option Tile :=
  let ct := fieldLE raw 22 2
  let t := fieldBits raw 1 2 3
  if t ≠ 7 ∧ ct ≠ 0 then none
  else match t with
    | 0 => some ⟨256, 64, 256, 64⟩
    | 1 => some ⟨256, 128, 128, 64⟩
    | 2 => some ⟨512, 64, 128, 64⟩
    | 3 => some ⟨128, 64, 512, 64⟩
    | 4 => some ⟨256, 256, 64, 64⟩
    | 7 =>
      let tm := 32 * (bits ct 0 5 + 1)
      let tn := 32 * (bits ct 5 5 + 1)
      let tk := 32 * (bits ct 10 5 + 1)
      let n' := ceilDiv tn 64
      let k' := ceilDiv tk 64
      if bitOf ct 15 || decide (512 < tm) || decide (256 < tn) || decide (512 < tk) || decide (16384 < tm / 4 * (64 * n')) ||
          decide (256 < tm / 4 * n' * k') then none
      else some ⟨tm, tn, tk, 32⟩
    | _ => none

/-- Array cycles of a step (R144, R172). -/
def arrayCycles (t : Tile) (rate : Nat) : Nat :=
  let c := t.m / 4 * ceilDiv t.n 64 * ceilDiv t.k 64
  match rate with
  | 2 => 2 * c
  | 0 => if t.g = 64 then c / 2 else t.m / 4 * ceilDiv t.n 64 * ceilDiv (64 * ceilDiv t.k 64) 128
  | _ => c

/-- Bytes of the partial-sum area (R147). -/
def psumBytes (t : Tile) (plan : Nat) : Nat := ceilDiv plan t.m * t.m * t.n * 4

/-! ### The fused EPILOGUE -/

/-- Fields of EPILOGUE (R126, R237). -/
def epilogueFields : List (Nat × Nat) :=
  idFields ++ [(32, 4), (40, 8), byteSpan 6 2, (64, 24), (96, 24), byteSpan 24 8, byteSpan 32 8, byteSpan 48 8, byteSpan 56 8,
    byteSpan 64 4, byteSpan 68 4, byteSpan 72 1, byteSpan 76 4, byteSpan 80 8, byteSpan 88 8, byteSpan 96 8, byteSpan 104 4,
    byteSpan 112 8, byteSpan 120 8]

/-- Checks that both forms of EPILOGUE share (R34, R237, R239, R240, R784): `n` is the planned width. R237 asks that LDO is a multiple of 64;
that it also spans the planned row is taken from R229, which says so of LDA and LDC (DESIGN CHOICE, log 49). -/
def epilogueOk (e : List Byte) (n : Nat) : Bool :=
  fmtOk (fmtC e) && fmtOk (fmtD e) && !fmtMx (fmtD e) && !fmt4 (fmtD e) && sfOk (fieldLE e 72 1) &&
    decide (scaleBase e ≤ 65532) && strideOk (fieldLE e 104 4) (fmtC e) n && scalePtrOk (fmtC e) (fieldLE e 120 8) &&
    ptrsOk e [56, 80, 88, 96, 120]

/-- The fused command, when D_PTR names one, with its scales (R240, R241). What a target does whose OPCODE is not that of EPILOGUE the rules
do not say: the matrix command is malformed (DESIGN CHOICE, log 49). PLAN_K and PLAN_B are ignored; bits [31:24] of the PLAN_K word
stay reserved. -/
def State.readFused (s : State) (ag : Agent) (ctx : Nat) (raw : List Byte) : Except Decoded (List Byte) := do
  if dPtr raw = 0 then return []
  let e ← access (s.readV ag ctx (dPtr raw) 128)
  need (fieldLE e 0 1 == 0x20 && onlyFields (splice (splice e 16 (leBytes 0 3)) 20 (leBytes 0 2)) epilogueFields &&
    epilogueOk e (planN raw)) stMalformed
  return e

/-- The fused command of a STATE_STEP, of which only the function, the scales and the bias count (R240, R367). -/
def State.readFunction (s : State) (ag : Agent) (ctx : Nat) (raw : List Byte) : Except Decoded (List Byte) := do
  if dPtr raw = 0 then return []
  let e ← access (s.readV ag ctx (dPtr raw) 128)
  need (fieldLE e 0 1 == 0x20 && onlyFields (splice (splice e 16 (leBytes 0 3)) 20 (leBytes 0 2)) epilogueFields &&
    fmtOk (fmtD e) && !fmtMx (fmtD e) && !fmt4 (fmtD e) && sfOk (fieldLE e 72 1) && ptrsOk e [80, 88]) stMalformed
  return e

/-- R238 on one element: input, scale, bias, function, residual. -/
def epilogueElem (ver func : Nat) (x a b : Word) (res : Option Word) : Word :=
  let t := sfuEval ver func (ffma x a b)
  match res with
  | some r => fadd t r
  | none => t

/-- R238 on elements n0 on of a row; `r` is the output row. -/
def State.epilogueRow (s : State) (ag : Agent) (ctx : Nat) (e : List Byte) (sc : Scales) (r n0 : Nat) (xs : List Word) :
    Except Stop (List Word) := do
  let n := xs.length
  let col := fieldLE e 80 8
  let bias := fieldLE e 88 8
  let as ← if col = 0 then pure (List.replicate n (word32 e 76)) else s.f32s ag ctx (col + 4 * n0) n
  let bs ← if bias = 0 then pure (List.replicate n 0) else s.f32s ag ctx (bias + 4 * n0) n
  let rs ← if dPtr e = 0 then pure (List.replicate n none) else do
    let ys ← s.rowF32 ag ctx (dPtr e + r * fieldLE e 68 4) 0 (fmtD e) sc.b n0 n
    pure (ys.map some)
  return (List.range n).map (fun j =>
    epilogueElem s.sfuVer.1 (fieldLE e 72 1) (xs.getD j 0) (as.getD j 0) (bs.getD j 0) (rs.getD j none))

/-- The narrowed write of an EPILOGUE row (R231, R238, R241). -/
def State.epilogueWrite (s : State) (ag : Agent) (ctx : Nat) (e : List Byte) (sc : Scales) (width r n0 : Nat)
    (xs : List Word) : Except Stop (List Write × NarrowCount) := do
  let ys ← s.epilogueRow ag ctx e sc r n0 xs
  s.rowWrite ag ctx (fieldLE e 96 8 + r * fieldLE e 104 4) (fieldLE e 120 8 + r * mxStride width) (fmtC e) sc.sat sc.c n0 ys

/-! ### Decode of GEMM and GEMM_LIST -/

/-- Bytes 0 to 63 of a matrix-class command, but FMT_D and the reserved bits. -/
def matrixFields : List (Nat × Nat) :=
  [byteSpan 0 1, (8, 6), byteSpan 2 2, (32, 12), byteSpan 6 2, (64, 24), (96, 24), (128, 24), byteSpan 20 2, (176, 15),
   (192, 320)]

def gemmFields : List (Nat × Nat) := matrixFields ++ [byteSpan 64 12, byteSpan 80 48]

/-- Checks of R118, R133 and R188 that GEMM, GEMM_LIST and the convolutions share, on the fields alone. -/
def matrixOk (raw : List Byte) : Bool :=
  pairOk (fmtA raw) (fmtB raw) && fmtOk (fmtC raw) && decide (scaleBase raw ≤ 65532) &&
  (!(accum raw || dPtr raw != 0) || fmtC raw == 0) &&
  (dPtr raw != 0 || !(fmtMx (fmtC raw) || fmt4 (fmtC raw))) &&
  aPtr raw % 64 == 0 && bPtr raw % 64 == 0 && cPtr raw % 64 == 0

/-- A batch stride under an MX format (R181). -/
def batchStrideOk (fmt bs : Nat) : Bool := !fmtMx fmt || bs % (4 * fmtBits fmt) == 0

/-- The pointers of bytes 0 to 63 (R34, R126). -/
def matrixPtrs : List Nat := [24, 32, 40, 48, 56]

/-- The fields of a GEMM (R34, R133, R149, R181, R784). -/
def gemmOk (raw : List Byte) : Bool :=
  onlyFields raw gemmFields && ptrsOk raw (matrixPtrs ++ [80, 88, 96]) && matrixOk raw && (!accum raw || cPtr raw != 0) &&
  (aPtr raw == 0 || strideOk (fieldLE raw 64 4) (fmtA raw) (planK raw)) &&
  (bPtr raw == 0 || strideOk (fieldLE raw 68 4) (fmtB raw) (planN raw)) &&
  (cPtr raw == 0 || strideOk (fieldLE raw 72 4) (fmtC raw) (planN raw)) &&
  scalePtrOk (fmtA raw) (fieldLE raw 80 8) && scalePtrOk (fmtB raw) (fieldLE raw 88 8) &&
  batchStrideOk (fmtA raw) (fieldLE raw 104 8) && batchStrideOk (fmtB raw) (fieldLE raw 112 8)

/-- The partial-sum area of a batched tile is named where it is used, and lies in the scratchpad by its offset (R133, R158). -/
def tilePsumOk (raw : List Byte) (t : Tile) : Bool :=
  let psum := fieldLE raw 96 8
  (decide (planK raw ≤ t.k) || psum != 0) && (psum == 0 || decide (psum % 2 ^ 22 + psumBytes t (planM raw) ≤ 0x300000))

/-- The partial-sum area of a command at decode (R133, R147, R158). One that is named though PLAN_K does not exceed TK is checked all the
same, and is undefined afterwards (DESIGN CHOICE, log 40: R149 says the field is 0 then, and no rule makes another value malformed). -/
def State.psumOk (s : State) (i : Nat) (b : Block) (raw : List Byte) (t : Tile) (psum : Nat) : Except Decoded Unit := do
  if b.kind = 1 then return ← need (tilePsumOk raw t) stMalformed
  need (decide (planK raw ≤ t.k) || psum != 0) stMalformed
  if psum = 0 then return ()
  else
    let own ← access (s.ownScratch i b.ctx psum (psumBytes t (planM raw)))
    need own stMalformed

/-- Steps of a sequence of `m` rows (R132, R139). -/
def matrixSteps (t : Tile) (m n k : Nat) : Nat := ceilDiv m t.m * ceilDiv n t.n * max 1 (ceilDiv k t.k)

/-- Rows of a sequence. -/
def segRows (g : List Seg) : Nat := (g.map (fun x => x.rows)).sum

/-- The scales of a matrix command and of its fused EPILOGUE. R211 compares the format of an operand C with its entry: without a fused
EPILOGUE, FMT_C is compared even where C_PTR is 0 and no C is written (DESIGN CHOICE, log 40). -/
def State.matrixScales (s : State) (ag : Agent) (ctx : Nat) (raw e : List Byte) : Except Decoded (Scales × Scales) := do
  if e.isEmpty then
    let sc ← s.readScales ag ctx raw (fmtA raw) (some (fmtB raw)) 0 (fmtC raw)
    return (sc, default)
  else
    let e0 ← access (s.scaleEntry ag ctx (scaleBase raw))
    let e1 ← access (s.scaleEntry ag ctx (scaleBase raw + 1))
    let _ ← access (s.scaleEntry ag ctx (scaleBase raw + 2))
    need (s.classOk e0 (fmtA raw) && s.classOk e1 (fmtB raw)) stMalformed
    let f1 ← access (s.scaleEntry ag ctx (scaleBase e + 1))
    let f2 ← access (s.scaleEntry ag ctx (scaleBase e + 2))
    need (s.classOk f2 (fmtC e)) stMalformed
    return ({ a := s.invOf e0 (fmtA raw), b := s.invOf e1 (fmtB raw), c := f32One, sat := false },
            { a := f32One, b := s.invOf f1 (fmtD e), c := s.scaleOf f2 (fmtC e), sat := entrySat f2 })

/-- The running command of a matrix-class decode. -/
def matrixRun (raw e : List Byte) (t : Tile) (n k b : Nat) (sc esc : Scales) (gs : List (List Seg)) : Run :=
  { emptyRun raw with
    n := n, k := k, b := b, epi := e, sc := sc, esc := esc, segs := gs
    m := (gs.map segRows).sum
    steps := (gs.map (fun g => matrixSteps t (segRows g) n k)).sum }

/-- Element bytes per scale byte divide a batch stride (R181). -/
def scaleStride (fmt bs : Nat) : Nat := if fmtMx fmt then bs / (4 * fmtBits fmt) else 0

/-- The batches of a GEMM, each an M sequence (R139, R149, R241). A C that is not named stays so in every batch. -/
def gemmSegs (raw : List Byte) (m n k b : Nat) : List (List Seg) :=
  (List.range b).map (fun i =>
    [{ a := (aPtr raw + i * fieldLE raw 104 8) % 2 ^ 64, b := (bPtr raw + i * fieldLE raw 112 8) % 2 ^ 64
       c := if cPtr raw = 0 then 0 else (cPtr raw + i * fieldLE raw 120 8) % 2 ^ 64
       sa := fieldLE raw 80 8 + i * scaleStride (fmtA raw) (fieldLE raw 104 8)
       sb := fieldLE raw 88 8 + i * scaleStride (fmtB raw) (fieldLE raw 112 8)
       rows := m, n := n, k := k, lda := strideFor (aPtr raw) (fieldLE raw 64 4), ldc := fieldLE raw 72 4, out := i * planM raw }])

/-- The rows of a batched tile, one M sequence (R156); each keeps the N and K of its own contribution, so that its result does not depend
on the rows beside it (R121, R130). -/
def batchSegs (rows : List RowSpan) : List Seg :=
  rows.map (fun x =>
    let lda := strideFor (aPtr x.raw) (fieldLE x.raw 64 4)
    { a := aPtr x.raw + x.first * lda, b := bPtr x.raw
      c := if cPtr x.raw = 0 then 0 else cPtr x.raw + x.first * fieldLE x.raw 72 4
      sa := fieldLE x.raw 80 8 + x.first * mxStride (planK x.raw), sb := fieldLE x.raw 88 8
      rows := x.count, n := x.n, k := x.k, lda := lda, ldc := fieldLE x.raw 72 4, out := x.first })

/-- The partial-sum area of a batched tile: the low 22 bits of PSUM_PTR are an offset in the executing seat's scratchpad (R158). -/
def State.tileArea (s : State) (i : Nat) (raw : List Byte) : Nat := scratchBase (i / 9) ((s.seatOf i).getD 8) + fieldLE raw 96 8 % 2 ^ 22

/-- The partial-sum area that a command names (R147). -/
def psumArea (raw : List Byte) (t : Tile) : Nat × Nat := (fieldLE raw 96 8, if fieldLE raw 96 8 = 0 then 0 else psumBytes t (planM raw))

/-- The largest of some numbers. -/
def maxOf (l : List Nat) : Nat := l.foldl max 0

/-- A tile of the batcher (R156): its contributions' shapes were read and checked when the batcher took them (R130, R131, log 40), and the
tile walks the largest N and K among its rows. -/
def State.decodeTile (s : State) (i : Nat) (b : Block) (raw : List Byte) (t : Tile) : Except Decoded Run := do
  let ag := Agent.core i
  s.psumOk i b raw t (fieldLE raw 96 8)
  let e ← s.readFused ag b.ctx raw
  let (sc, esc) ← s.matrixScales ag b.ctx raw e
  let r := matrixRun raw e t (maxOf (b.rows.map (fun x => x.n))) (maxOf (b.rows.map (fun x => x.k))) 1 sc esc [batchSegs b.rows]
  return { r with spot := if fieldLE raw 96 8 = 0 then (0, 0) else (s.tileArea i raw, psumBytes t (planM raw)) }

/-- GEMM's decode (R131), for a command of a block or for a tile of the batcher. -/
def State.decodeGemm (s : State) (i : Nat) (b : Block) (raw : List Byte) : Except Decoded Run := do
  let ag := Agent.core i
  need (if b.kind = 1 then b.rows.all (fun x => gemmOk x.raw) else gemmOk raw) stMalformed
  match tileOf raw with
  | none => throw (.fail stMalformed)
  | some t =>
    if b.kind = 1 then s.decodeTile i b raw t
    else do
      s.psumOk i b raw t (fieldLE raw 96 8)
      let e ← s.readFused ag b.ctx raw
      let dims ← access (s.shapeOf ag b.ctx raw [planM raw, planN raw, planK raw, planB raw])
      let (sc, esc) ← s.matrixScales ag b.ctx raw e
      let m := dims.getD 0 0
      let n := dims.getD 1 0
      let k := dims.getD 2 0
      let bb := dims.getD 3 0
      need (decide (m ≤ planM raw) && decide (n ≤ planN raw) && decide (k ≤ planK raw) && decide (bb ≤ planB raw)) stShape
      if m = 0 ∨ n = 0 ∨ bb = 0 then throw (.done flZeroShape)
      return { matrixRun raw e t n k bb sc esc (gemmSegs raw m n k bb) with areas := [psumArea raw t] }

/-- An entry of a GEMM_LIST is well formed (R34, R133, R150, R784). -/
def listEntryOk (raw x : List Byte) : Bool :=
  onlyFields x [(0, 344)] && ptrsOk x [0, 8, 16, 24, 32] && fieldLE x 0 8 % 64 == 0 && fieldLE x 8 8 % 64 == 0 && fieldLE x 16 8 % 64 == 0 &&
    scalePtrOk (fmtA raw) (fieldLE x 24 8) && scalePtrOk (fmtB raw) (fieldLE x 32 8)

/-- Fields of a GEMM_LIST (R34, R133, R150, R151). -/
def gemmListOk (raw : List Byte) : Bool :=
  onlyFields raw gemmFields && ptrsOk raw (matrixPtrs ++ [96]) && matrixOk raw && decide (planB raw ≤ 4096) && bPtr raw == 0 && cPtr raw == 0 &&
    zeroSpan raw 80 16 && zeroSpan raw 104 24

/-- Reads the entries of a list, each checked (R151). -/
def State.readEntries (s : State) (ag : Agent) (ctx : Nat) (raw : List Byte) : Nat → Nat → Except Decoded (List (List Byte))
  | 0, _ => .ok []
  | n + 1, va => do
    let x ← access (s.readV ag ctx va 64)
    need (listEntryOk raw x) stMalformed
    let t ← s.readEntries ag ctx raw n (va + 64)
    return x :: t

/-- Entries that run, as M sequences: consecutive entries of one B and SB join (R152) while their rows are at most `cap`: those that the
partial-sum area holds, where the command uses it (R147, log 40). -/
def joinSegs (cap : Nat) : List Seg → List (List Seg)
  | [] => []
  | x :: t =>
    match joinSegs cap t with
    | [] => [[x]]
    | g :: gs =>
      match g with
      | y :: _ => if x.b = y.b ∧ x.sb = y.sb ∧ x.rows + segRows g ≤ cap then (x :: g) :: gs else [x] :: g :: gs
      | [] => [x] :: gs

/-- Segments of the entries with their first output rows (R241). -/
def listSegs (raw : List Byte) (n k : Nat) : Nat → List (List Byte) → List Seg
  | _, [] => []
  | out, x :: t =>
    { a := fieldLE x 0 8, b := fieldLE x 8 8, c := fieldLE x 16 8, sa := fieldLE x 24 8, sb := fieldLE x 32 8
      rows := fieldLE x 40 3, n := n, k := k, lda := strideFor (fieldLE x 0 8) (fieldLE raw 64 4), ldc := fieldLE raw 72 4, out := out } ::
      listSegs raw n k (out + fieldLE x 40 3) t

/-- The output or partial-sum region of one entry overlaps an operand or output of another one: the results are undefined (R153). The
regions are compared as context virtual addresses (log 40). -/
def listClash (raw e : List Byte) (area : Nat × Nat) (gs : List Seg) : Bool :=
  gs.zipIdx.any (fun x => gs.zipIdx.any (fun y => x.2 != y.2 &&
    (x.1.outputs raw e ++ [({ base := area.1, stride := 0, rows := 1, bytes := area.2 } : Rows)]).any (fun o =>
      (y.1.inputs raw e ++ y.1.outputs raw e).any (fun q => o.meets q))))

/-- GEMM_LIST's decode (R131, R151). Entries of 0 rows are left out before consecutive entries are compared, so one between two entries of
one B does not part them (DESIGN CHOICE, log 40: R151 says that it contributes nothing, and R152 does not name it). -/
def State.decodeGemmList (s : State) (i : Nat) (b : Block) (raw : List Byte) : Except Decoded Run := do
  let ag := Agent.core i
  need (gemmListOk raw) stMalformed
  match tileOf raw with
  | none => throw (.fail stMalformed)
  | some t => do
    s.psumOk i b raw t (fieldLE raw 96 8)
    let es ← s.readEntries ag b.ctx raw (planB raw) (aPtr raw)
    let some' (o : Nat) : Bool := es.any (fun x => fieldLE x o 8 != 0)
    need ((!some' 0 || strideOk (fieldLE raw 64 4) (fmtA raw) (planK raw)) &&
      (!some' 8 || strideOk (fieldLE raw 68 4) (fmtB raw) (planN raw)) &&
      (!some' 16 || strideOk (fieldLE raw 72 4) (fmtC raw) (planN raw))) stMalformed
    let e ← s.readFused ag b.ctx raw
    let dims ← access (s.shapeOf ag b.ctx raw [planM raw, planN raw, planK raw, planB raw])
    let (sc, esc) ← s.matrixScales ag b.ctx raw e
    let m := dims.getD 0 0
    let n := dims.getD 1 0
    let k := dims.getD 2 0
    let bb := dims.getD 3 0
    need (!(accum raw || e.isEmpty) || (es.take bb).all (fun x => fieldLE x 16 8 != 0)) stMalformed
    need (decide (m ≤ planM raw) && decide (n ≤ planN raw) && decide (k ≤ planK raw) && decide (bb ≤ planB raw) &&
      es.all (fun x => decide (fieldLE x 40 3 ≤ planM raw))) stShape
    if m = 0 ∨ n = 0 ∨ bb = 0 then throw (.done flZeroShape)
    let segs := (listSegs raw n k 0 (es.take bb)).filter (fun g => g.rows != 0)
    let cap := if t.k < k then ceilDiv (planM raw) t.m * t.m else segRows segs
    let r := matrixRun raw e t n k bb sc esc (joinSegs cap segs)
    if r.steps = 0 then throw (.done 0)
    return { r with areas := [psumArea raw t], wild := listClash raw e (psumArea raw t) segs }

/-! ### Decode of the convolutions -/

def convFields : List (Nat × Nat) :=
  matrixFields ++ [byteSpan 64 11, (600, 2), byteSpan 76 4, (640, 4), byteSpan 81 6, byteSpan 88 40]

/-- Geometry along one dimension: extent, filter, stride, dilation, pads before and after. -/
structure Dim where
  ext  : Nat
  f    : Nat
  st   : Nat
  dil  : Nat
  pb   : Nat
  pa   : Nat

/-- The output extent of a dimension (R167); 0 when the extent is 0 (R255). -/
def Dim.out (d : Dim) : Nat :=
  if d.ext = 0 ∨ d.ext + d.pb + d.pa < d.dil * (d.f - 1) + 1 then 0
  else (d.ext + d.pb + d.pa - d.dil * (d.f - 1) - 1) / d.st + 1

def convW (raw : List Byte) (iw : Nat) : Dim :=
  { ext := iw, f := fieldLE raw 72 1, st := fieldLE raw 76 1, dil := fieldBits raw 79 0 4, pb := fieldLE raw 81 1,
    pa := fieldLE raw 84 1 }
def convH (raw : List Byte) (ih : Nat) : Dim :=
  { ext := ih, f := fieldLE raw 73 1, st := fieldLE raw 77 1, dil := fieldBits raw 79 4 4, pb := fieldLE raw 82 1,
    pa := fieldLE raw 85 1 }
def convT (raw : List Byte) (it : Nat) : Dim :=
  { ext := it, f := fieldLE raw 74 1, st := fieldLE raw 78 1, dil := fieldBits raw 80 0 4, pb := fieldLE raw 83 1,
    pa := fieldLE raw 86 1 }

/-- A dimension's filter, stride and dilation lie in their ranges (R166). -/
def Dim.ok (d : Dim) : Bool :=
  decide (1 ≤ d.f) && decide (d.f ≤ 7) && decide (1 ≤ d.st) && decide (1 ≤ d.dil)

def convCin (raw : List Byte) : Nat := fieldLE raw 70 2

/-- Output pixels of `b` images of run-time extents (R167). -/
def convPixels (raw : List Byte) (iw ih it b : Nat) : Nat := b * (convT raw it).out * (convH raw ih).out * (convW raw iw).out

/-- Bytes from the first to the last of the planned pixels of an input row, which ROW_STRIDE spans (R133, log 40). -/
def convRowBytes (raw : List Byte) : Nat :=
  if fieldLE raw 64 2 = 0 then 0 else (fieldLE raw 64 2 - 1) * fieldLE raw 96 4 + rowBytes (fmtA raw) (convCin raw)

/-- Fields of a convolution (R34, R133, R166, R167, R182, R784). `three` says CONV3D. PLAN_M is compared with the run-time extents once the
record has been read. -/
def convOk (raw : List Byte) (three : Bool) : Bool :=
  let w := convW raw (fieldLE raw 64 2)
  let h := convH raw (fieldLE raw 66 2)
  let t := convT raw (fieldLE raw 68 2)
  onlyFields raw convFields && ptrsOk raw (matrixPtrs ++ [112, 120]) && matrixOk raw && (!accum raw || cPtr raw != 0) && w.ok && h.ok && t.ok &&
  (three || (t.ext == 1 && t.f == 1 && t.st == 1 && t.dil == 1 && t.pb == 0 && t.pa == 0)) &&
  fieldBits raw 75 0 2 != 3 && fieldLE raw 96 4 % 64 == 0 &&
  (aPtr raw == 0 || (fieldLE raw 88 4 % 64 == 0 && decide (convRowBytes raw ≤ fieldLE raw 88 4))) &&
  (bPtr raw == 0 || strideOk (fieldLE raw 104 4) (fmtB raw) (planN raw)) &&
  (cPtr raw == 0 || strideOk (fieldLE raw 108 4) (fmtC raw) (planN raw)) &&
  scalePtrOk (fmtA raw) (fieldLE raw 112 8) && scalePtrOk (fmtB raw) (fieldLE raw 120 8) &&
  planK raw == t.f * h.f * w.f * convCin raw &&
  (!fmtMx (fmtA raw) || convCin raw % 32 == 0)

/-- Decode of CONV2D and CONV3D (R131, R166, R167). The first part of the run holds the run-time extents; the others hold
the partial sums, for which the operand block names no area (log 13). -/
def State.decodeConv (s : State) (i : Nat) (b : Block) (raw : List Byte) (three : Bool) : Except Decoded Run := do
  let ag := Agent.core i
  need (convOk raw three) stMalformed
  match tileOf raw with
  | none => throw (.fail stMalformed)
  | some t => do
    let e ← s.readFused ag b.ctx raw
    let dims ← access (s.shapeOf ag b.ctx raw [fieldLE raw 64 2, fieldLE raw 66 2, fieldLE raw 68 2, planB raw])
    let (sc, esc) ← s.matrixScales ag b.ctx raw e
    let iw := dims.getD 0 0
    let ih := dims.getD 1 0
    let it := dims.getD 2 0
    let bb := dims.getD 3 0
    need (decide (convPixels raw iw ih it (planB raw) ≤ planM raw)) stMalformed
    need (decide (iw ≤ fieldLE raw 64 2) && decide (ih ≤ fieldLE raw 66 2) && decide (it ≤ fieldLE raw 68 2) &&
      decide (bb ≤ planB raw)) stShape
    let m := convPixels raw iw ih it bb
    if m = 0 ∨ planN raw = 0 then throw (.done flZeroShape)
    let seg : Seg := { a := aPtr raw, b := bPtr raw, c := cPtr raw, sa := fieldLE raw 112 8, sb := fieldLE raw 120 8, rows := m
                       n := planN raw, k := planK raw, lda := 0, ldc := fieldLE raw 108 4, out := 0 }
    let r := matrixRun raw e t (planN raw) (planK raw) bb sc esc [[seg]]
    return { r with parts := [[BitVec.ofNat 32 iw, BitVec.ofNat 32 ih, BitVec.ofNat 32 it]] }

/-! ### A step -/

/-- Where a step stands: its sequence, and tile numbers in the order nt, kt, mt (R146). -/
structure StepAt where
  segs : List Seg
  nt   : Nat
  kt   : Nat
  mt   : Nat
  nk   : Nat

/-- The place of step `x` (R146). -/
def stepAt (t : Tile) (n k : Nat) : List (List Seg) → Nat → Option StepAt
  | [], _ => none
  | g :: gs, x =>
    let nm := ceilDiv (segRows g) t.m
    let nk := max 1 (ceilDiv k t.k)
    let c := nm * ceilDiv n t.n * nk
    if x < c then some { segs := g, nt := x / (nk * nm), kt := x / nm % nk, mt := x % nm, nk := nk }
    else stepAt t n k gs (x - c)

/-- Segment and row within it of a row of a sequence. -/
def rowIn : List Seg → Nat → Option (Seg × Nat)
  | [], _ => none
  | g :: gs, x => if x < g.rows then some (g, x) else rowIn gs (x - g.rows)

/-- The exact sum of a K group, rounded once (R119, R120, R215). -/
def groupSum (as bs : List Num) : Word := toF32 ((List.zipWith mulNum as bs).foldl addNum (.fin false 0 0))

/-- An element of A: whether it decodes to +0 or -0 before its block scale (R164), and its value. -/
abbrev Elem := Bool × Num

/-- The element that pads an operand (R160). -/
def padElem : Elem := (true, .fin false 0 0)

/-- Adds the K groups of a tile to an accumulator, in ascending order (R119); a skipped group that proved zero counts as +0 (R165). -/
def addGroups (g : Nat) : Nat → List Bool → Word → List Num → List Num → Word
  | 0, _, acc, _, _ => acc
  | fuel + 1, skip, acc, as, bs =>
    if as.isEmpty then acc
    else
      let sum := if skip.headD false then 0 else groupSum (as.take g) (bs.take g)
      addGroups g fuel (skip.drop 1) (fadd acc sum) (as.drop g) (bs.drop g)

/-- Column `j` of rows of B. -/
def column (rows : List (List Num)) (j : Nat) : List Num := rows.map (fun r => r.getD j (.fin false 0 0))

/-- One row of a tile against the columns of B. -/
def tileRow (g : Nat) (skip : List Bool) (acc : List Word) (as : List Num) (bcols : List (List Num)) : List Word :=
  List.zipWith (fun a col => addGroups g (as.length + 1) skip a as col) acc bcols

/-- What the activation predictor does in a step (R164, R165, R302): the groups that it skips, those of them that prove not to be zero and
are computed after all, how many groups the step has, and the history as the step leaves it. -/
structure Predicted where
  skips  : List Bool
  redo   : Nat
  groups : Nat
  hist   : Nat
  deriving DecidableEq, Repr, Inhabited

/-- The predictor on the K groups of a row tile: each group indexes one of the 65,536 bits of the seat's history by CMD_ID, row tile and
group, by an index function that is not published (R302, log 41). The group is skipped when SKIP_PRED is set and its bit is, and the bit
then says whether the group proved all-zero. -/
def State.predict (s : State) (i : Nat) (raw : List Byte) (tile first g d : Nat) (rows : List (List Elem)) : Predicted :=
  (List.range (ceilDiv d g)).foldl (fun (p : Predicted) j =>
    let x := Config.predIndex (fieldLE raw 2 2) tile (first + j) % 65536
    let isZero := rows.all (fun as => ((as.drop (j * g)).take g).all (fun e => e.1))
    let skip := bitOf (fieldLE raw 1 1) 1 && bitOf p.hist x
    { skips := p.skips ++ [skip && isZero]
      redo := p.redo + b2n (skip && !isZero)
      groups := p.groups + 1
      hist := if isZero then p.hist ||| 2 ^ x else p.hist - (p.hist &&& 2 ^ x) })
    { skips := [], redo := 0, groups := 0, hist := Tab.look s.zeroHist i 0 }

/-- Rows k0 to k0 + n - 1 of B, columns j0 to j0 + w - 1 (R149, R168, R181). -/
def State.bRows (s : State) (ag : Agent) (ctx : Nat) (fmt base sb ld plan : Nat) (k0 n j0 w : Nat) :
    Except Stop (List (List Num)) :=
  (List.range n).mapM (fun d =>
    match s.codes ag ctx (base + (k0 + d) * ld) fmt j0 w with
    | .error e => .error e
    | .ok cs =>
      if fmtMx fmt then
        match s.readV ag ctx (sb + (k0 + d) / 32 * (64 * ceilDiv plan 64) + j0) w with
        | .error e => .error e
        | .ok ss => .ok (List.zipWith (fun c (x : Byte) => scaleNum (decodeElem fmt c) x.toNat) cs ss)
      else .ok (cs.map (decodeElem fmt)))

/-- The element that a border mode feeds for an index (R253): none outside under mode 0. -/
def borderAt (mode : Nat) (p : Int) (e : Nat) : Option Nat :=
  if 0 ≤ p ∧ p < (e : Int) then some p.toNat
  else match mode with
    | 1 => some (if p < 0 then 0 else e - 1)
    | 2 => if e ≤ 1 then some 0 else
      let q := (p % ((2 * (e - 1) : Nat) : Int)).toNat
      some (if q < e then q else 2 * (e - 1) - q)
    | _ => none

/-- The runs of one tap that a range of reduction indices covers: tap, first channel, how many. -/
def tapRuns (cin : Nat) : Nat → Nat → Nat → List (Nat × Nat × Nat)
  | 0, _, _ => []
  | fuel + 1, k, n =>
    if n = 0 ∨ cin = 0 then []
    else
      let len := min n (cin - k % cin)
      (k / cin, k % cin, len) :: tapRuns cin fuel (k + len) (n - len)

/-- A value is +0 or -0. -/
def numZero : Num → Bool
  | .fin _ m _ => m == 0
  | _ => false

/-- Elements of A in a row, each with whether it is zero before its block scale (R164). -/
def State.rowElems (s : State) (ag : Agent) (ctx va sva fmt j0 n : Nat) : Except Stop (List Elem) :=
  match s.codes ag ctx va fmt j0 n, s.rowNums ag ctx va sva fmt j0 n with
  | .ok cs, .ok xs => .ok (List.zipWith (fun c x => (numZero (decodeElem fmt c), x)) cs xs)
  | .error e, _ => .error e
  | _, .error e => .error e

/-- Reduction indices k0 to k0 + n - 1 of output pixel `m`, fed by address walk (R168, R169, R253, R254). -/
def State.convRow (s : State) (ag : Agent) (ctx : Nat) (r : Run) (m k0 n : Nat) : Except Stop (List Elem) :=
  let raw := r.raw
  let ext := (r.parts.headD []).map (fun w => w.toNat)
  let w := convW raw (ext.getD 0 0)
  let h := convH raw (ext.getD 1 0)
  let t := convT raw (ext.getD 2 0)
  let xo := m % w.out
  let yo := m / w.out % h.out
  let tq := m / (w.out * h.out) % t.out
  let bi := m / (w.out * h.out * t.out)
  let cin := convCin raw
  let mode := fieldBits raw 75 0 2
  match (tapRuns cin (n + 1) k0 n).mapM (fun (run : Nat × Nat × Nat) =>
    let tap := run.1
    let sx := tap % w.f
    let sy := tap / w.f % h.f
    let sq := tap / (w.f * h.f)
    let pt := ((tq * t.st + sq * t.dil : Nat) : Int) - (t.pb : Int)
    let py := ((yo * h.st + sy * h.dil : Nat) : Int) - (h.pb : Int)
    let px := ((xo * w.st + sx * w.dil : Nat) : Int) - (w.pb : Int)
    match borderAt mode pt t.ext, borderAt mode py h.ext, borderAt mode px w.ext with
    | some a, some y, some x =>
      let p := ((bi * fieldLE raw 68 2 + a) * fieldLE raw 66 2 + y) * fieldLE raw 64 2 + x
      s.rowElems ag ctx (convPixelVa raw bi a y x) (fieldLE raw 112 8 + p * ceilDiv cin 32) (fmtA raw) run.2.1 run.2.2
    | _, _, _ => .ok (List.replicate run.2.2 padElem)) with
  | .error e => .error e
  | .ok xs => .ok xs.flatten

/-- Partial sums of a row before a step: +0 at the first reduction tile, else read back (R145, R147). -/
inductive Psum where
  | va (base : Nat)
  | scratch (base : Nat)
  | held

/-- Reads the partial sums of row `row` of a sequence. -/
def State.psumRow (s : State) (ag : Agent) (ctx : Nat) (p : Psum) (r : Run) (t : Tile) (row w : Nat) :
    Except Stop (List Word) :=
  match p with
  | .va base => s.f32s ag ctx (base + row * t.n * 4) w
  | .scratch base =>
    let b := s.rdMem (base + row * t.n * 4) (4 * w)
    .ok ((List.range w).map (fun j => word32 b (4 * j)))
  | .held => .ok ((r.parts.getD (row + 1) []).take w)

/-- Writes the partial sums of rows. -/
def putPsums (p : Psum) (t : Tile) (r : Run) (first : Nat) (accs : List (List Word)) : StepOut :=
  match p with
  | .va base =>
    { writes := accs.zipIdx.map (fun x => { va := base + (first + x.2) * t.n * 4, data := f32Bytes x.1 }), locals := [], run := r }
  | .scratch base =>
    { writes := [], locals := accs.zipIdx.map (fun x => (base + (first + x.2) * t.n * 4, f32Bytes x.1)), run := r }
  | .held =>
    let old := r.parts.drop 1 ++ List.replicate (first + accs.length - (r.parts.length - 1)) []
    { writes := [], locals := [],
      run := { r with parts := r.parts.headD [] :: (old.take first ++ accs ++ old.drop (first + accs.length)) } }

/-- The accumulators of a step: rows of the tile against its columns, from the partial sums on (R119, R146), and what the predictor did. -/
def State.tileSums (s : State) (i ctx : Nat) (p : Psum) (r : Run) (t : Tile) (at' : StepAt)
    (aRow : Nat → Nat → Nat → Except Stop (List Elem)) (bRow : Nat → Nat → Nat → Nat → Except Stop (List (List Num))) :
    Except Stop (List (List Word) × Predicted) := do
  let m0 := at'.mt * t.m
  let rows := min t.m (segRows at'.segs - m0)
  let n0 := at'.nt * t.n
  let w := min t.n (r.n - n0)
  let k0 := at'.kt * t.k
  let d := min t.k (r.k - k0)
  let b ← bRow k0 d n0 w
  let cols := (List.range w).map (column b)
  let olds ← (List.range rows).mapM (fun x =>
    if at'.kt = 0 then .ok (List.replicate w 0) else s.psumRow (.core i) ctx p r t (m0 + x) w)
  let as ← (List.range rows).mapM (fun x => aRow (m0 + x) k0 d)
  let q := s.predict i r.raw at'.mt (k0 / t.g) t.g d as
  return (List.zipWith (fun acc row => tileRow t.g q.skips acc (row.map (fun e => e.2)) cols) olds as, q)

/-- Results of the last reduction tile within the row's bound: descale, ACCUM, then the fused EPILOGUE or narrowing (R122, R134, R161, R203,
R241). A command that names no C writes none (log 40). -/
def State.finishRow (s : State) (ag : Agent) (ctx : Nat) (r : Run) (g : Seg) (row n0 : Nat) (acc : List Word) :
    Except Stop (List Write × NarrowCount) := do
  let d := fmul r.sc.a r.sc.b
  let xs := (acc.take (g.n - n0)).map (fun x => fmul x d)
  let c := g.c + row * g.ldc
  let ys ← if accum r.raw then do
      let old ← s.f32s ag ctx (c + 4 * n0) xs.length
      pure (List.zipWith fadd xs old)
    else pure xs
  if r.epi.isEmpty then
    let o ← s.rowWrite ag ctx c 0 (fmtC r.raw) r.sc.sat r.sc.c n0 ys
    return (if g.c = 0 then [] else o.1, o.2)
  else
    let e ← s.epilogueWrite ag ctx r.epi r.esc (planN r.raw) (g.out + row) n0 ys
    if g.c = 0 then return e
    else return ({ va := c + 4 * n0, data := f32Bytes ys } :: e.1, e.2)

/-- Undefined results of a list whose entries overlap (R153): every byte that is written, and every count, is a free value (log 40). -/
def wildOut (seed : Nat) (o : List Write × NarrowCount) : List Write × NarrowCount :=
  (o.1.map (fun w => { w with data := (List.range w.data.length).map (fun k => Config.freeByte seed (w.va + k)) }),
   { o.2 with
     amax := BitVec.ofNat 32 (Config.freeValue seed) &&& 0x7FFFFFFF
     sat := Config.freeValue (seed + 1), inf := Config.freeValue (seed + 2), nan := Config.freeValue (seed + 3) })

/-- One step of a matrix-class command. -/
def State.matrixStep (s : State) (i : Nat) (b : Block) (r : Run) (t : Tile) (p : Psum)
    (aRow : List Seg → Nat → Nat → Nat → Except Stop (List Elem))
    (bRow : Seg → Nat → Nat → Nat → Nat → Except Stop (List (List Num))) : Except Stop (StepOut × Predicted) := do
  let ag := Agent.core i
  match stepAt t r.n r.k r.segs r.step with
  | none => return ({ writes := [], locals := [], run := r }, default)
  | some at' =>
    let first := at'.segs.headD default
    let (accs, q) ← s.tileSums i b.ctx p r t at' (aRow at'.segs) (bRow first)
    if at'.kt + 1 < at'.nk then return (putPsums p t r (at'.mt * t.m) accs, q)
    else
      let outs ← accs.zipIdx.mapM (fun x =>
        match rowIn at'.segs (at'.mt * t.m + x.2) with
        | some (g, row) => s.finishRow ag b.ctx r g row (at'.nt * t.n) x.1
        | none => .ok ([], default))
      let o := if r.wild then wildOut s.fresh (joinRows outs) else joinRows outs
      return ({ writes := o.1, locals := [], run := { r with cnt := r.cnt.add o.2 } }, q)

/-- Entry that takes the counts of a matrix command (R193, R241). -/
def countEntry (r : Run) : Nat := (if r.epi.isEmpty then scaleBase r.raw else scaleBase r.epi) + 3

/-- A step of a command has completed: CORE_PC_STEPS has counted it. -/
def stepped (s t : State) (i : Nat) : Bool := s.rd CORE_PC_STEPS i != t.rd CORE_PC_STEPS i

/-- What a completed matrix step leaves in the seat: its array cycles (R144, R172, R174), less those of the groups skipped for good
(R165, log 41), the counts and the history of the predictor (R174, R302). -/
def State.arrayWork (s : State) (i : Nat) (r : Run) (t : Tile) (rate : Nat) (q : Predicted) : State :=
  let c := arrayCycles t rate
  let kept := q.skips.countP (fun b => b)
  let s := s.bump CORE_PC_ARRAY_CYCLES (if q.groups = 0 then c else c * (q.groups - kept) / q.groups) i
  let s := (s.bump CORE_PC_SKIPPED (kept + q.redo) i).bump CORE_PC_RECOMPUTED q.redo i
  { s with zeroHist := Tab.set s.zeroHist i 0 q.hist, fresh := if r.wild then s.fresh + 4 else s.fresh }

/-- Ends a matrix step, and notes its work when it has completed. -/
def State.matrixDone (s : State) (i : Nat) (b : Block) (r : Run) (t : Tile) (area : Nat × Nat) (x : Except Stop (StepOut × Predicted)) :
    State :=
  let u := s.stepDone i b (some (countEntry r)) area (fun s _ => s) (match x with | .ok o => .ok o.1 | .error e => .error e)
  match x with
  | .ok o => if stepped s u i then u.arrayWork i r t (rateOf (fmtA r.raw) (fmtB r.raw)) o.2 else u
  | .error _ => u

/-- A step of GEMM or GEMM_LIST. -/
def State.stepGemm (s : State) (i : Nat) (b : Block) (r : Run) : State :=
  match tileOf r.raw with
  | none => s
  | some t =>
    let raw := r.raw
    let ag := Agent.core i
    let psum := fieldLE raw 96 8
    let p : Psum := if b.kind = 1 then .scratch (s.tileArea i raw) else .va psum
    let aRow (g : List Seg) (x k0 n : Nat) : Except Stop (List Elem) :=
      match rowIn g x with
      | some (q, row) =>
        s.rowElems ag b.ctx (q.a + row * q.lda) (q.sa + row * mxStride (planK raw)) (fmtA raw) k0 (min n (q.k - k0))
      | none => .ok []
    let bRow (q : Seg) (k0 n j0 w : Nat) : Except Stop (List (List Num)) :=
      s.bRows ag b.ctx (fmtB raw) q.b q.sb (strideFor (if fieldLE raw 0 1 = 0x11 then q.b else bPtr raw) (fieldLE raw 68 4)) (planN raw) k0 n
        j0 w
    s.matrixDone i b r t (psumArea raw t) (s.matrixStep i b r t p aRow bRow)

/-- A step of a convolution. -/
def State.stepConv (s : State) (i : Nat) (b : Block) (r : Run) : State :=
  match tileOf r.raw with
  | none => s
  | some t =>
    let raw := r.raw
    let ag := Agent.core i
    let aRow (_ : List Seg) (x k0 n : Nat) : Except Stop (List Elem) := s.convRow ag b.ctx r x k0 n
    let bRow (q : Seg) (k0 n j0 w : Nat) : Except Stop (List (List Num)) :=
      s.bRows ag b.ctx (fmtB raw) q.b q.sb (strideFor q.b (fieldLE raw 104 4)) (planN raw) k0 n j0 w
    s.matrixDone i b r t (0, 0) (s.matrixStep i b r t .held aRow bRow)

/-! ### Meanings -/

def execGemm (core : Nat) (s : State) : Host.Outcome State Fault Refusal :=
  s.rails (s.decodes core 0x10) (fun s => s.asSeat core (fun s => s.decodeWith core (fun b raw => asDecoded (s.decodeGemm core b raw))))

def execGemmList (core : Nat) (s : State) : Host.Outcome State Fault Refusal :=
  s.rails (s.decodes core 0x11) (fun s => s.asSeat core (fun s => s.decodeWith core (fun b raw => asDecoded (s.decodeGemmList core b raw))))

def execConv2d (core : Nat) (s : State) : Host.Outcome State Fault Refusal :=
  s.rails (s.decodes core 0x12) (fun s => s.asSeat core (fun s => s.decodeWith core (fun b raw => asDecoded (s.decodeConv core b raw false))))

def execConv3d (core : Nat) (s : State) : Host.Outcome State Fault Refusal :=
  s.rails (s.decodes core 0x13) (fun s => s.asSeat core (fun s => s.decodeWith core (fun b raw => asDecoded (s.decodeConv core b raw true))))

end Sys2Proof.Machine
end

