-- ==== Sys2Proof/Machine/Vector.lean ====
section
/-!
DEFINITION. The vector class but CROP_RESIZE: EPILOGUE, NORM, SOFTMAX, SFU, SAMPLE (R224 to R252); AMAX_UPDATE (R195 to R201);
SIGNAL and WAIT (R135, R136). A step of the vector class is one row, or a part of a row that would take more than 512 cycles (R233,
log 14).
-/
namespace Sys2Proof.Machine

/-! ### Common decode (R229 to R233) -/

/-- Bytes 0 to 63 of a vector-class command. -/
def vectorFields : List (Nat × Nat) :=
  idFields ++ [(32, 4), (40, 4), byteSpan 6 2, (64, 24), (96, 24), byteSpan 24 8, byteSpan 32 8, byteSpan 48 8]

/-- Checks of R34, R118, R188 and R229 on rows read at LDA. -/
def rowsOk (raw : List Byte) : Bool :=
  ptrsOk raw [24, 32, 48, 112] && fmtOk (fmtA raw) && decide (scaleBase raw ≤ 65532) && strideOk (fieldLE raw 64 4) (fmtA raw) (planN raw) &&
    scalePtrOk (fmtA raw) (fieldLE raw 112 8)

/-- Checks on rows written at LDC. -/
def outRowsOk (raw : List Byte) : Bool :=
  ptrsOk raw [120] && fmtOk (fmtC raw) && strideOk (fieldLE raw 68 4) (fmtC raw) (planN raw) && scalePtrOk (fmtC raw) (fieldLE raw 120 8)

/-- The work area of R233. -/
def State.workOk (s : State) (i ctx va n : Nat) : Except Decoded Unit := do
  need (ptrOk va && va % 64 == 0) stMalformed
  let own ← access (s.ownScratch i ctx va n)
  need own stMalformed

/-! ### Steps of rows (R233) -/

/-- Vector-unit cycles of 128 elements under a function (R234). Sin and cos of large arguments count their longer time. -/
def funcCycles (f : Nat) : Nat := [1, 9, 8, 12, 11, 6, 6, 8, 14, 13, 20, 18, 15, 22, 24, 24, 1].getD f 1

/-- Elements of a row that one step takes, where 128 of them take some cycles: at most 512 cycles (R233; DESIGN CHOICE, log 14). -/
def stepElems (cycles : Nat) : Nat := 128 * max 1 (512 / max 1 cycles)

/-- Elements that a step of a vector-class command takes: EPILOGUE adds one cycle for its scale, bias and residual, NORM has three passes of
one cycle, SOFTMAX an exponential and two more passes, SAMPLE two logarithms a draw (log 14). -/
def rowChunk (raw : List Byte) : Nat :=
  stepElems (match fieldLE raw 0 1 with
    | 0x20 => funcCycles (fieldLE raw 72 1) + 1
    | 0x21 => 3
    | 0x22 => 10
    | 0x38 => 24 * fieldBits raw 72 0 5 + 1
    | _ => funcCycles (fieldLE raw 72 1))

/-- Parts of a row of n elements. -/
def rowParts (raw : List Byte) (n : Nat) : Nat := max 1 (ceilDiv n (rowChunk raw))

/-- Steps of a row: one for each part, and for a long row of NORM or SOFTMAX as many again, since its output needs the whole row's values
first (log 14). -/
def rowSteps (raw : List Byte) (n : Nat) : Nat :=
  let c := rowParts raw n
  if 1 < c ∧ (fieldLE raw 0 1 = 0x21 ∨ fieldLE raw 0 1 = 0x22) then 2 * c else c

/-- Where a step of a row command stands: its row, its part, the first element of that part and how many it has. -/
structure RowAt where
  row   : Nat
  part  : Nat
  first : Nat
  count : Nat

/-- The place of the next step. The second half of a long row of NORM or SOFTMAX takes the parts again. -/
def Run.rowAt (r : Run) : RowAt :=
  let per := rowSteps r.raw r.n
  let part := r.step % per
  let first := part % rowParts r.raw r.n * rowChunk r.raw
  { row := r.step / per, part := part, first := first, count := min (rowChunk r.raw) (r.n - first) }

/-- Points 2 to 4 of R131 for rows (R230): the run, with its steps. -/
def State.vectorRun (s : State) (i : Nat) (b : Block) (raw : List Byte) (fd fc : Nat) (areas : List (Nat × Nat)) : Except Decoded Run := do
  let ag := Agent.core i
  let dims ← access (s.shapeOf ag b.ctx raw [planM raw, planN raw])
  let sc ← s.readScales ag b.ctx raw (fmtA raw) none fd fc
  let m := dims.getD 0 0
  let n := dims.getD 1 0
  need (decide (m ≤ planM raw) && decide (n ≤ planN raw)) stShape
  if m = 0 ∨ n = 0 then throw (.done flZeroShape)
  return { emptyRun raw with m := m, n := n, steps := m * rowSteps raw n, sc := sc, areas := areas }

/-- Elements j0 to j0 + n - 1 of row `m` of the input as FP32 (R229, R231, R232). -/
def State.inPart (s : State) (i : Nat) (b : Block) (r : Run) (m j0 n : Nat) : Except Stop (List Word) :=
  s.rowF32 (.core i) b.ctx (aPtr r.raw + m * fieldLE r.raw 64 4) (fieldLE r.raw 112 8 + m * mxStride (planN r.raw))
    (fmtA r.raw) r.sc.a j0 n

/-- Row `m` of the input. -/
def State.inRow (s : State) (i : Nat) (b : Block) (r : Run) (m : Nat) : Except Stop (List Word) := s.inPart i b r m 0 r.n

/-- A step whose output is elements j0 on of row `m`, with further writes and flags (R229, R231, R232). -/
def State.partOut (s : State) (i : Nat) (b : Block) (r : Run) (m j0 : Nat) (ys : List Word) (more : List Write) (flags : Nat) :
    Except Stop StepOut := do
  let o ← s.rowWrite (.core i) b.ctx (cPtr r.raw + m * fieldLE r.raw 68 4) (fieldLE r.raw 120 8 + m * mxStride (planN r.raw))
    (fmtC r.raw) r.sc.sat r.sc.c j0 ys
  return { writes := o.1 ++ more, locals := [], scrub := true, run := { r with cnt := r.cnt.add o.2, flags := r.flags ||| flags } }

/-- Ends a step of a command with a 2 KiB work area (R233). -/
def State.workDone (s : State) (i : Nat) (b : Block) (r : Run) (x : Except Stop StepOut) : State :=
  s.stepDone i b (some (scaleBase r.raw + 3)) (r.areas.headD (0, 0)) (fun t _ => t) x

/-- The work area of a command at WORK_PTR. -/
def workArea (raw : List Byte) : List (Nat × Nat) := [(fieldLE raw 104 8, 2048)]

/-- The elements of a row that its earlier steps have read. -/
def Run.heldRow (r : Run) (p : RowAt) : List Word := if p.part = 0 then [] else r.parts.headD []

/-- What a row's later parts need of the whole row: R233 keeps it in the work area, whose layout is not given, so it stands in the command
(log 13). A step reads its part beside those that it holds, and the last one brings the row's values. -/
def State.gather (s : State) (i : Nat) (b : Block) (r : Run) (p : RowAt) (values : List Word → Except Stop (List Word)) :
    Except Stop StepOut :=
  match s.inPart i b r p.row p.first p.count with
  | .error e => .error e
  | .ok xs =>
    let row := r.heldRow p ++ xs
    if p.part + 1 < rowParts r.raw r.n then .ok { writes := [], locals := [], scrub := true, run := { r with parts := [row] } }
    else match values row with
      | .error e => .error e
      | .ok vs => .ok { writes := [], locals := [], scrub := true, run := { r with parts := [vs] } }

/-- Elements j0 to j0 + n - 1 of an area of FP32 values, or of a constant when its pointer is 0. -/
def State.columnVals (s : State) (i : Nat) (b : Block) (ptr j0 n : Nat) (d : Word) : Except Stop (List Word) :=
  if ptr = 0 then .ok (List.replicate n d) else s.f32s (.core i) b.ctx (ptr + 4 * j0) n

/-! ### SFU and EPILOGUE -/

def sfuFields : List (Nat × Nat) := vectorFields ++ [byteSpan 64 9, byteSpan 112 16]

def State.decodeSfu (s : State) (i : Nat) (b : Block) (raw : List Byte) : Except Decoded Run := do
  need (onlyFields raw sfuFields && rowsOk raw && outRowsOk raw && sfOk (fieldLE raw 72 1)) stMalformed
  s.vectorRun i b raw 0 (fmtC raw) []

/-- A step of SFU (R236). -/
def State.stepSfu (s : State) (i : Nat) (b : Block) (r : Run) : State :=
  s.stepDone i b (some (scaleBase r.raw + 3)) (0, 0) (fun t _ => t) (do
    let p := r.rowAt
    let xs ← s.inPart i b r p.row p.first p.count
    s.partOut i b r p.row p.first (xs.map (sfuEval s.sfuVer.1 (fieldLE r.raw 72 1))) [] 0)

def State.decodeEpilogue (s : State) (i : Nat) (b : Block) (raw : List Byte) : Except Decoded Run := do
  need (onlyFields raw epilogueFields && rowsOk raw && epilogueOk raw (planN raw) && cPtr raw == 0) stMalformed
  s.vectorRun i b raw (fmtD raw) (fmtC raw) []

/-- A step of a standalone EPILOGUE (R238). -/
def State.stepEpilogue (s : State) (i : Nat) (b : Block) (r : Run) : State :=
  s.stepDone i b (some (scaleBase r.raw + 3)) (0, 0) (fun t _ => t) (do
    let p := r.rowAt
    let xs ← s.inPart i b r p.row p.first p.count
    let o ← s.epilogueWrite (.core i) b.ctx r.raw r.sc (planN r.raw) p.row p.first xs
    return { writes := o.1, locals := [], run := { r with cnt := r.cnt.add o.2 } })

/-! ### NORM -/

def normFields : List (Nat × Nat) := vectorFields ++ [byteSpan 64 8, (576, 1), byteSpan 76 52]

/-- A positive normal FP32 value (R243). -/
def positiveNormal (w : Word) : Bool := decide (0x00800000 ≤ w.toNat) && decide (w.toNat < 0x7F800000)

def State.decodeNorm (s : State) (i : Nat) (b : Block) (raw : List Byte) : Except Decoded Run := do
  need (onlyFields raw normFields && rowsOk raw && outRowsOk raw && ptrsOk raw [80, 88, 96] && positiveNormal (word32 raw 76)) stMalformed
  s.workOk i b.ctx (fieldLE raw 104 8) 2048
  s.vectorRun i b raw 0 (fmtC raw) (workArea raw)

/-- max(+0, v) of R226. -/
def clampVar (v : Word) : Word := if fisNaN v then f32NaN else if flt 0 v then v else 0

/-- Mean and variance of a row (R224 to R227). -/
def moments (two : Bool) (xs : List Word) : Word × Word :=
  let n := f32OfNat xs.length
  let c := xs.headD 0
  let ds := xs.map (fun x => fsub x c)
  let mu := fdiv (laneSum (ds.map some)) n
  let mean := fadd c mu
  let var := if two then clampVar (fdiv (laneSquares (xs.map (fun x => fsub x mean))) n)
             else clampVar (ffma (fneg mu) mu (fdiv (laneSquares ds) n))
  (mean, var)

/-- Mean and rstd of a NORM row (R244). -/
def normStats (ver : Nat) (rms two : Bool) (eps : Word) (xs : List Word) : List Word :=
  let mv := if rms then (0, fdiv (laneSquares xs) (f32OfNat xs.length)) else moments two xs
  [mv.1, sfuEval ver 6 (fadd mv.2 eps)]

/-- The outputs of elements of a NORM row (R244). -/
def normOut (rms : Bool) (st xs gs bs : List Word) : List Word :=
  (List.range xs.length).map (fun j =>
    let x := xs.getD j 0
    ffma (fmul (if rms then x else fsub x (st.getD 0 0)) (st.getD 1 0)) (gs.getD j 0) (bs.getD j 0))

/-- A step of NORM (R225, R244): two passes when the whole row lies in the seat's own scratchpad. The row is its element bytes: where its
block scales lie does not count (DESIGN CHOICE, log 49: R225 does not say whether they belong to the row). -/
def State.stepNorm (s : State) (i : Nat) (b : Block) (r : Run) : State :=
  let raw := r.raw
  let p := r.rowAt
  let rms := bitOf (fieldLE raw 72 1) 0
  let stats (xs : List Word) : Except Stop (List Word) := do
    let two ← s.ownScratch i b.ctx (aPtr raw + p.row * fieldLE raw 64 4) (rowBytes (fmtA raw) r.n)
    return normStats s.sfuVer.1 rms two (word32 raw 76) xs
  let out (st xs : List Word) (first : Nat) : Except Stop StepOut := do
    let gs ← s.columnVals i b (fieldLE raw 80 8) first xs.length f32One
    let bs ← s.columnVals i b (fieldLE raw 88 8) first xs.length 0
    let sp := fieldLE raw 96 8
    let more := if sp = 0 ∨ first ≠ 0 then [] else [{ va := sp + 8 * p.row, data := f32Bytes st }]
    s.partOut i b r p.row first (normOut rms st xs gs bs) more 0
  s.workDone i b r (
    if rowParts raw r.n = 1 then do
      let xs ← s.inRow i b r p.row
      let st ← stats xs
      out st xs 0
    else if p.part < rowParts raw r.n then s.gather i b r p stats
    else do
      let xs ← s.inPart i b r p.row p.first p.count
      out (r.parts.headD []) xs p.first)

/-! ### SOFTMAX -/

def softmaxFields : List (Nat × Nat) := vectorFields ++ [byteSpan 64 8, (576, 2), byteSpan 76 8, byteSpan 88 40]

def State.decodeSoftmax (s : State) (i : Nat) (b : Block) (raw : List Byte) : Except Decoded Run := do
  need (onlyFields raw softmaxFields && rowsOk raw && outRowsOk raw && ptrsOk raw [88, 96]) stMalformed
  s.workOk i b.ctx (fieldLE raw 104 8) 2048
  s.vectorRun i b raw 0 (fmtC raw) (workArea raw)

/-- How many elements of a row are included, from the first on (R246). -/
def included (mask n len m : Nat) (off : Int) : Nat :=
  let a := if mask % 2 = 1 then min n len else n
  if 2 ≤ mask then min a ((m : Int) + off + 1).toNat else a

/-- What a SOFTMAX row's outputs need (R247): the case (0 no keys, 1 NaN, 2 the rest), the maximum, the sum, and the log-sum-exp. -/
def softmaxStats (ver : Nat) (scale : Word) (inc : Nat) (xs : List Word) : List Word :=
  let ss := (xs.take inc).map (fun x => fmul x scale)
  if ss.all (fun x => x == f32Inf true) then [0, 0, 0, f32Inf true]
  else if ss.any (fun x => fisNaN x || x == f32Inf false) then [1, 0, 0, f32NaN]
  else
    let mx := (laneMax (ss.map some)).getD 0
    let l := laneSum ((ss.map (fun x => softWeight ver x mx)).map some)
    [2, mx, l, fadd mx (sfuEval ver 3 l)]

/-- The outputs of elements of a SOFTMAX row, of which the first `inc` are included (R247). -/
def softmaxOut (ver : Nat) (scale : Word) (st : List Word) (inc : Nat) (xs : List Word) : List Word :=
  match (st.getD 0 0).toNat with
  | 0 => xs.map (fun _ => 0)
  | 1 => xs.map (fun _ => f32NaN)
  | _ => xs.zipIdx.map (fun x =>
    if x.2 < inc then fdiv (softWeight ver (fmul x.1 scale) (st.getD 1 0)) (st.getD 2 0) else 0)

/-- A step of SOFTMAX (R246 to R248). -/
def State.stepSoftmax (s : State) (i : Nat) (b : Block) (r : Run) : State :=
  let raw := r.raw
  let p := r.rowAt
  let ver := s.sfuVer.1
  let scale := word32 raw 76
  let keys : Except Stop Nat := do
    let mask := fieldBits raw 72 0 2
    let len ← if mask % 2 = 1 then do
        let d ← s.readV (.core i) b.ctx (fieldLE raw 88 8 + 4 * p.row) 4
        pure (leNat d)
      else pure 0
    return included mask r.n len p.row (signed (fieldLE raw 80 4) 32)
  let stats (xs : List Word) : Except Stop (List Word) := do
    let inc ← keys
    return softmaxStats ver scale inc xs ++ [BitVec.ofNat 32 inc]
  let out (st xs : List Word) (first : Nat) : Except Stop StepOut :=
    let lse := fieldLE raw 96 8
    let more := if lse = 0 ∨ first ≠ 0 then [] else [{ va := lse + 4 * p.row, data := f32Bytes [st.getD 3 0] }]
    s.partOut i b r p.row first (softmaxOut ver scale st ((st.getD 4 0).toNat - first) xs) more
      (if st.getD 0 0 = 0 then flNoKeys else 0)
  s.workDone i b r (
    if rowParts raw r.n = 1 then do
      let xs ← s.inRow i b r p.row
      let st ← stats xs
      out st xs 0
    else if p.part < rowParts raw r.n then s.gather i b r p stats
    else do
      let xs ← s.inPart i b r p.row p.first p.count
      out (r.parts.headD []) xs p.first)

/-! ### SAMPLE -/

def sampleFields : List (Nat × Nat) :=
  vectorFields ++ [byteSpan 64 8, (576, 5), byteSpan 76 4, byteSpan 80 16, byteSpan 104 16]

def State.decodeSample (s : State) (i : Nat) (b : Block) (raw : List Byte) : Except Decoded Run := do
  let d := fieldBits raw 72 0 5
  let t := word32 raw 76
  need (onlyFields raw sampleFields && rowsOk raw && ptrsOk raw [88] && decide (1 ≤ d) && decide (d ≤ 16) && decide (t.toNat < 0x7F800000) &&
    fieldLE raw 68 4 % 64 == 0 && decide (4 * d ≤ fieldLE raw 68 4)) stMalformed
  s.workOk i b.ctx (fieldLE raw 104 8) 2048
  let ag := Agent.core i
  let dims ← access (s.shapeOf ag b.ctx raw [planM raw, planN raw])
  let e0 ← access (s.scaleEntry ag b.ctx (scaleBase raw))
  let _ ← access (s.scaleEntry ag b.ctx (scaleBase raw + 1))
  let _ ← access (s.scaleEntry ag b.ctx (scaleBase raw + 2))
  need (s.classOk e0 (fmtA raw)) stMalformed
  let m := dims.getD 0 0
  let n := dims.getD 1 0
  need (decide (m ≤ planM raw) && decide (n ≤ planN raw)) stShape
  if m = 0 ∨ n = 0 then throw (.done flZeroShape)
  return { emptyRun raw with
    m := m, n := n, steps := m * rowSteps raw n, sc := { (default : Scales) with a := s.invOf e0 (fmtA raw) }, areas := workArea raw }

/-- The counter of R251: four words and the two key words. -/
structure Philox where
  c0 : Word
  c1 : Word
  c2 : Word
  c3 : Word
  k0 : Word
  k1 : Word

/-- One round of R251. -/
def philoxRound (p : Philox) : Philox :=
  let p0 := p.c0.toNat * 0xA54FF53B
  let p1 := p.c2.toNat * 0xB5AD4ECF
  { c0 := BitVec.ofNat 32 (p1 >>> 32) ^^^ p.c1 ^^^ p.k0, c1 := BitVec.ofNat 32 p1
    c2 := BitVec.ofNat 32 (p0 >>> 32) ^^^ p.c3 ^^^ p.k1, c3 := BitVec.ofNat 32 p0
    k0 := p.k0 + 0x9E3779B9, k1 := p.k1 + 0x7F4A7C15 }

/-- The 24 bits from which u is made (R251): u = (result + 0.5) × 2^-24. -/
def sampleBits (seed i draw position roster stroke : Nat) : Nat :=
  let p : Philox :=
    { c0 := BitVec.ofNat 32 i, c1 := BitVec.ofNat 32 (draw * 2 ^ 24 + position), c2 := BitVec.ofNat 32 stroke
      c3 := BitVec.ofNat 32 (roster * 2 ^ 18 + bits stroke 32 18), k0 := BitVec.ofNat 32 seed
      k1 := BitVec.ofNat 32 (seed >>> 32) }
  ((philoxRound^[10] p).c0.toNat) / 256

/-- log(u) of R252. u has up to 25 significant bits; where it is no FP32 number the logarithm is a value of the coefficient table under a
number of its own, which rises with u from log(0.5) to at most -0 (R221, log 15). -/
def logUniform (ver k : Nat) : Word :=
  if k < 2 ^ 23 then sfuEval ver 3 (toF32 (.fin false (2 * k + 1) (-25)))
  else f32AtOrd (monoTree (Config.sfu ver 3 1) 24 1 (f32Ord (sfuEval ver 3 0x3F000000)) (f32Ord 0x80000000) k)

/-- The lowest index with the largest value. -/
def argmax (xs : List Word) : Nat :=
  (xs.zipIdx.foldl (fun (b : Word × Nat) (x : Word × Nat) => if flt b.1 x.1 then x else b) (xs.headD 0, 0)).2

/-- One draw of a row (R252). -/
def sampleDraw (ver : Nat) (t : Word) (seed draw position roster stroke : Nat) (xs : List Word) : Nat :=
  if xs.any fisNaN then 0xFFFFFFFF
  else if t = 0 then argmax xs
  else argmax (xs.zipIdx.map (fun x =>
    fadd (fmul x.1 t) (fneg (sfuEval ver 3 (fneg (logUniform ver (sampleBits seed x.2 draw position roster stroke)))))))

/-- The draws of a row (R249 to R252). -/
def State.sampleRow (s : State) (i : Nat) (b : Block) (r : Run) (p : RowAt) : Except Stop StepOut := do
  let raw := r.raw
  let m := p.row
  let new ← s.inPart i b r m p.first p.count
  let xs := r.heldRow p ++ new
  let info := fieldLE raw 88 8
  let ri ← if info = 0 then pure (leBytes 0 4 ++ leBytes (m % 2 ^ 24) 4) else s.readV (.core i) b.ctx (info + 8 * m) 8
  let d := fieldBits raw 72 0 5
  let outs := (List.range d).map (fun k =>
    sampleDraw s.sfuVer.1 (word32 raw 76) (fieldLE raw 80 8) k (fieldLE ri 4 4 % 2 ^ 24) (fieldLE ri 0 4 % 2 ^ 14) s.stroke xs)
  let nans := if xs.any fisNaN then d else 0
  return { writes := [{ va := cPtr raw + m * fieldLE raw 68 4, data := outs.flatMap (fun w => leBytes w 4) }]
           locals := [], scrub := true, run := { r with cnt := r.cnt.add { (default : NarrowCount) with nan := nans } } }

/-- A step of SAMPLE: a part of a row, of which the last one draws. -/
def State.stepSample (s : State) (i : Nat) (b : Block) (r : Run) : State :=
  let p := r.rowAt
  s.workDone i b r (if p.part + 1 < rowParts r.raw r.n then s.gather i b r p (fun _ => .ok []) else s.sampleRow i b r p)

/-! ### AMAX_UPDATE -/

def amaxFields : List (Nat × Nat) := idFields ++ [byteSpan 6 2, byteSpan 20 2, (512, 1)]

/-- An entry that AMAX_UPDATE accepts (R196). Every COPY_TO value names an entry or is 0xFFFF. -/
def amaxEntryOk (e : List Byte) : Bool :=
  let len := fieldBits e 25 0 6
  decide (1 ≤ len) && decide (len ≤ 32) && decide (fieldBits e 26 0 5 < len) && decide (fieldBits e 27 0 6 ≤ len) &&
    fmtOk (fieldBits e 24 0 4)

/-- The decode of AMAX_UPDATE reads and checks every entry (R195, R196). A step updates one. -/
def State.decodeAmax (s : State) (i : Nat) (b : Block) (raw : List Byte) : Except Decoded Run := do
  let n := planB raw
  need (onlyFields raw amaxFields && decide (1 ≤ n) && decide (scaleBase raw + n ≤ 65536)) stMalformed
  let es ← access ((List.range n).mapM (fun k => s.readV (.core i) b.ctx (s.scaleVa b.ctx (scaleBase raw + k)) 256))
  need (es.all amaxEntryOk) stMalformed
  return { emptyRun raw with steps := n }

/-- floor(log2(top / h)) for the largest value of a format and a positive finite h (R197). -/
def log2Ratio (top : Nat × Int) (m : Nat) (e : Int) : Int :=
  let k := floorLog2 top.1 top.2 - floorLog2 m e
  let low := magGt m (e + k) top.1 top.2
  if low then k - 1 else k

/-- The scale and inverse scale that R197 computes from an amax history's largest value. Where POW2 is set and every value is negative, the
logarithm has no value, and the entry keeps its scale (DESIGN CHOICE, log 49). -/
def newScale (e : List Byte) (cur : Nat) (hs : List Word) : Word × Word :=
  let fmt := fieldBits e 24 0 4
  let fl := fieldLE e 29 1
  let margin := fieldBits e 28 0 3
  let keep := (word32 e (4 * cur), word32 e (8 + 4 * cur))
  let h := hs.foldl (fun a x => if flt a x then x else a) (hs.headD 0)
  if fmtUnscaled fmt then (f32One, f32One)
  else if bitOf fl 1 || h &&& 0x7FFFFFFF == 0 || hs.any (fun x => fisNaN x || fisInf x) then keep
  else match ofF32 h with
    | .fin neg m x =>
      if bitOf fl 0 then
        if neg then keep else
        let k := max (-127) (min 127 (log2Ratio (fmtMax fmt) m x - (margin : Nat)))
        (f32Pow2 k, f32Pow2 (-k))
      else
        let top := fmtMax fmt
        let sc := fmul (fdiv (toF32 (.fin false top.1 top.2)) h) (f32Pow2 (-(margin : Nat)))
        (sc, fdiv f32One sc)
    | _ => keep

/-- The history values that R197 considers: the last `fill` pushes, the newest at `pos`. -/
def lastPushes (e : List Byte) (a : Word) (pos len fill : Nat) : List Word :=
  (List.range fill).map (fun k => if k = 0 then a else word32 e (64 + 4 * ((pos + len - k) % len)))

/-- The writes of R197 for one entry at an address; `table` is the base of the scale table. -/
def amaxWrites (e : List Byte) (va table stroke : Nat) (reset : Bool) : List Write :=
  let cur := stroke % 2
  let src := (stroke + 1) % 2
  let dst := src
  let len := fieldBits e 25 0 6
  let pos := if reset then 0 else fieldBits e 26 0 5
  let fill := min ((if reset then 0 else fieldBits e 27 0 6) + 1) len
  let a := word32 e (16 + 4 * src)
  let (sc, inv) := newScale e cur (lastPushes e a pos len fill)
  let copies := [fieldLE e 32 2, fieldLE e 34 2].filter (· != 0xFFFF)
  [{ va := va + 16 + 4 * src, data := leBytes 0 4 },
   { va := va + 64 + 4 * pos, data := leBytes a.toNat 4 },
   { va := va + 26, data := leBytes ((pos + 1) % len + bits (fieldLE e 26 1) 5 3 * 32) 1 ++ leBytes (fill + bits (fieldLE e 27 1) 6 2 * 64) 1 },
   { va := va + 4 * dst, data := f32Bytes [sc] }, { va := va + 8 + 4 * dst, data := f32Bytes [inv] },
   { va := va + 48, data := leBytes stroke 8 }] ++
  copies.flatMap (fun t => [{ va := table + 256 * t + 4 * dst, data := f32Bytes [sc] },
                            { va := table + 256 * t + 8 + 4 * dst, data := f32Bytes [inv] }])

/-- An entry written by AMAX_UPDATE in this stroke is noted, with the number of the command; one that another command of the stroke had
written is undefined (R200). -/
def State.noteAmax (s : State) (ctx id : Nat) (vas : List Nat) : State :=
  vas.foldl (fun (t : State) va =>
    let t := if t.amaxDone.any (fun d => d.1 == va && d.2 / 64 != id && d.2 % 64 == ctx) then
        (spanPages va 256).foldl (fun (u : State) (p : Nat × Nat) =>
          match u.translate ctx p.1 .read with
          | .ok x => if gpaDev x.gpa = u.dev then u.undefine (gpaLocal x.gpa) p.2 else u
          | .error _ => u) t
      else t
    { t with amaxDone := (va, id * 64 + ctx) :: t.amaxDone }) s

/-- A step of AMAX_UPDATE: one entry (R197). -/
def State.stepAmax (s : State) (i : Nat) (b : Block) (r : Run) : State :=
  let raw := r.raw
  let va := s.scaleVa b.ctx (scaleBase raw + r.step)
  let tbl := s.scaleVa b.ctx 0
  match s.readV (.core i) b.ctx va 256 with
  | .error e => s.coreStop i b.ctx (fieldLE raw 2 2) false e
  | .ok e =>
    let ws := amaxWrites e va tbl s.stroke (bitOf (fieldLE raw 64 1) 0)
    let touched := va :: ([fieldLE e 32 2, fieldLE e 34 2].filter (· != 0xFFFF)).map (fun t => tbl + 256 * t)
    let ok := match s.checkWrites b.ctx ws with | .ok () => true | .error _ => false
    let t := s.stepDone i b none (0, 0) (fun u _ => u) (.ok { writes := ws, locals := [], run := r })
    if ok then t.noteAmax b.ctx r.num touched else t

/-! ### SIGNAL and WAIT -/

/-- Fields of SIGNAL and of WAIT. OPCODE and CMD_ID are those of the common layout, and byte 1, which none of these commands uses, is zero
like every unused field (R126); R135's own list of malformed cases does not name it (DEDUCED, log 49). -/
def signalFields : List (Nat × Nat) := idFields ++ [byteSpan 64 4]
def waitFields : List (Nat × Nat) := idFields ++ [byteSpan 64 2, byteSpan 68 4]

/-- SIGNAL (R135). The block's earlier writes are visible when it is fetched. -/
def signalEffect (i : Nat) (s : State) : State :=
  match (s.core i).block, (s.core i).next with
  | some b, some raw =>
    let sel := fieldLE raw 64 2
    let inc := fieldLE raw 66 2
    if !onlyFields raw signalFields || !selOk sel || inc == 0 || (bitOf sel 15 && bits sel 0 14 == 0) then
      s.failCommand i stMalformed (fieldLE raw 2 2)
    else (s.post (i / 9) sel inc b.sched).endCommand i 0
  | _, _ => s

def execSignal (core : Nat) (s : State) : Host.Outcome State Fault Refusal :=
  s.rails (s.decodes core 0x50) (signalEffect core)

/-- WAIT (R136, R174): it completes at once, or holds the seat until WAIT_SATISFIED. -/
def waitEffect (i : Nat) (s : State) : State :=
  match (s.core i).next with
  | some raw =>
    let sel := fieldLE raw 64 2
    if !onlyFields raw waitFields || !selOk sel then s.failCommand i stMalformed (fieldLE raw 2 2)
    else match selToken (i / 9) sel with
      | none => s.endCommand i 0
      | some k =>
        if satisfied (s.tok k) (BitVec.ofNat 32 (fieldLE raw 68 4)) then s.endCommand i 0
        else (s.updCore i (fun x => { x with wait := some (k, fieldLE raw 68 4) })).wr CORE_STATE_STATE 2 i
  | none => s

def execWait (core : Nat) (s : State) : Host.Outcome State Fault Refusal :=
  s.rails (s.decodes core 0x51 && (s.core core).wait.isNone) (waitEffect core)

/-- A waiting WAIT's token satisfies its threshold. -/
def State.waitDue (s : State) (i : Nat) : Bool :=
  match (s.core i).wait with
  | some (k, t) => satisfied (s.tok k) (BitVec.ofNat 32 t)
  | none => false

/-- WAIT_SATISFIED (R136). -/
def execWaitSatisfied (core : Nat) (s : State) : Host.Outcome State Fault Refusal :=
  s.rails (s.decodes core 0x51 && s.waitDue core) (fun s => (s.wr CORE_STATE_STATE 1 core).endCommand core 0)

/-! ### Meanings of the vector class -/

def execEpilogue (core : Nat) (s : State) : Host.Outcome State Fault Refusal :=
  s.rails (s.decodes core 0x20) (fun s => s.asSeat core (fun s => s.decodeWith core (fun b raw => asDecoded (s.decodeEpilogue core b raw))))

def execNorm (core : Nat) (s : State) : Host.Outcome State Fault Refusal :=
  s.rails (s.decodes core 0x21) (fun s => s.asSeat core (fun s => s.decodeWith core (fun b raw => asDecoded (s.decodeNorm core b raw))))

def execSoftmax (core : Nat) (s : State) : Host.Outcome State Fault Refusal :=
  s.rails (s.decodes core 0x22) (fun s => s.asSeat core (fun s => s.decodeWith core (fun b raw => asDecoded (s.decodeSoftmax core b raw))))

def execSfu (core : Nat) (s : State) : Host.Outcome State Fault Refusal :=
  s.rails (s.decodes core 0x23) (fun s => s.asSeat core (fun s => s.decodeWith core (fun b raw => asDecoded (s.decodeSfu core b raw))))

def execSample (core : Nat) (s : State) : Host.Outcome State Fault Refusal :=
  s.rails (s.decodes core 0x38) (fun s => s.asSeat core (fun s => s.decodeWith core (fun b raw => asDecoded (s.decodeSample core b raw))))

def execAmaxUpdate (core : Nat) (s : State) : Host.Outcome State Fault Refusal :=
  s.rails (s.decodes core 0x48) (fun s => s.asSeat core (fun s => s.decodeWith core (fun b raw => asDecoded (s.decodeAmax core b raw))))

end Sys2Proof.Machine
end

