-- ==== Sys2Proof/Machine/Attention.lean ====
section
/-!
DEFINITION. ATTN and ATTN_VERIFY (R264 to R303, R785). A step appends one row, or takes one key block for one head and all rows of the
slots that share its page, in as many steps as its core cycles need (R292, R296; how a command's rows and heads are parted into steps is
DESIGN CHOICE, log 46).
-/
namespace Sys2Proof.Machine

/-! ### Fields (R276, R277) -/

def attnFields : List (Nat × Nat) :=
  idFields ++ [(9, 1), (32, 16), byteSpan 6 2, (64, 24), (96, 24), (128, 24), byteSpan 20 2, byteSpan 24 40, (512, 6), (520, 5),
    byteSpan 66 2, byteSpan 68 4, (576, 24), byteSpan 76 52]

def attnHeads (raw : List Byte) : Nat := fieldBits raw 64 0 6
def attnMask (raw : List Byte) : Nat := fieldBits raw 65 0 2
def attnAppend (raw : List Byte) : Bool := bitOf (fieldLE raw 65 1) 2
def attnCommit (raw : List Byte) : Bool := bitOf (fieldLE raw 65 1) 3
def attnQk (raw : List Byte) : Nat := 64 * fieldBits raw 66 0 4
def attnV (raw : List Byte) : Nat := 64 * fieldBits raw 66 4 4
def attnLayer (raw : List Byte) : Nat := fieldLE raw 67 1
def attnFrame (raw : List Byte) : Nat := fieldLE raw 70 2
def attnWindow (raw : List Byte) : Nat := fieldLE raw 72 3

/-- Bytes of the weights and scales of one head (R278, R279). -/
def headBytes (raw : List Byte) : Nat :=
  2 * planK raw * fieldLE raw 104 4 + (if fmtMx (fmtB raw) then ceilDiv (planK raw) 32 * (attnQk raw + attnV raw) else 0)

/-- The checks of R34 and R279 on the fields alone. -/
def attnOk (raw : List Byte) (verify : Bool) : Bool :=
  let ld (o fmt n : Nat) : Bool := strideOk (fieldLE raw o 4) fmt n
  onlyFields raw attnFields && ptrsOk raw [24, 32, 40, 48, 56, 80, 88, 112, 120] && decide (1 ≤ fmtA raw) && decide (fmtA raw ≤ 3) && decide (1 ≤ fmtB raw) && decide (fmtB raw ≤ 9) &&
  decide (fmtC raw ≤ 3) && (if attnAppend raw then decide (fmtD raw ≤ 1) else fmtD raw == 0 && dPtr raw == 0) &&
  decide (scaleBase raw ≤ 65532) && decide (1 ≤ attnHeads raw) && decide (attnHeads raw ≤ 32) &&
  decide (64 ≤ attnQk raw) && decide (attnQk raw ≤ 256) && decide (64 ≤ attnV raw) && decide (attnV raw ≤ 256) &&
  (decide (attnMask raw < 2) || attnFrame raw != 0) && !(verify && attnCommit raw) &&
  decide (0 < fieldLE raw 76 4) && decide (fieldLE raw 76 4 < 0x7F800000) &&
  ld 96 (fmtA raw) (attnHeads raw * attnQk raw) && ld 100 (fmtC raw) (attnHeads raw * attnV raw) &&
  ld 104 (fmtB raw) (max (attnQk raw) (attnV raw)) && decide (headBytes raw ≤ fieldLE raw 108 4)

/-- Bytes of the work area (R295). -/
def attnWork (raw : List Byte) (stride : Nat) : Nat :=
  2 * (64 * stride + 4096) + 256 * attnHeads raw * (attnQk raw + attnV raw) +
    planM raw * attnHeads raw * (4 * attnV raw + 8) +
    (if bitOf (fieldLE raw 1 1) 1 then planM raw * attnHeads raw * planK raw / 8 else 0)

/-! ### Slots (R267, R279 to R281) -/

/-- A slot word and the length-table entry that it names. -/
structure SlotRead where
  word  : Nat
  entry : List Byte
  deriving DecidableEq, Repr, Inhabited

def SlotRead.id (x : SlotRead) : Nat := bits x.word 0 14
def SlotRead.valid (x : SlotRead) : Bool := bitOf (fieldLE x.entry 0 4) 31
def SlotRead.len (x : SlotRead) : Nat := fieldLE x.entry 0 3
def SlotRead.cand (x : SlotRead) : Nat := fieldBits x.entry 3 0 5
def SlotRead.cap (x : SlotRead) : Nat := fieldLE x.entry 4 3
def SlotRead.ctx (x : SlotRead) : Nat := fieldBits x.entry 16 0 6

/-- Reads slot words and their length-table entries. -/
def State.readSlots (s : State) (ag : Agent) (ctx seq lens n : Nat) : Except Stop (List SlotRead) :=
  (List.range n).mapM (fun i => do
    let w ← s.readV ag ctx (seq + 4 * i) 4
    let e ← s.readV ag ctx (lens + 32 * (leNat w % 2 ^ 14)) 32
    return { word := leNat w, entry := e })

/-- A list names no element twice. -/
def distinct (l : List Nat) : Bool := decide (l.dedup.length = l.length)

/-- Checks of R279 and R280 on the slots: the context first, then the words. -/
def slotsOk (ctx : Nat) (xs : List SlotRead) : Except Decoded Unit := do
  need (xs.all (fun x => !x.valid || x.ctx == ctx)) stPermission
  need (xs.all (fun x => decide (x.word < 2 ^ 14)) && distinct (xs.map SlotRead.id)) stMalformed

/-- A directory keeps R270 and R271. -/
def dirHeaderOk (h : List Byte) (dir : Nat) : Bool :=
  let fmt := fieldBits h 1 0 4
  let e := fieldLE h 2 2
  let stride := rowStrideOf fmt e
  dir % 64 == 0 && decide (1 ≤ fieldLE h 0 1) && decide (fieldLE h 0 1 ≤ 128) && fieldBits h 1 4 4 == 0 &&
  (fmt == 1 || fmt == 2 || fmt == 4 || fmt == 6 || fmt == 8) && e != 0 && e % 64 == 0 && fieldLE h 4 2 == stride &&
  decide (128 ≤ stride) && decide (stride ≤ 1024) && fieldLE h 6 1 == tppLog stride && zeroSpan h 7 1 &&
  decide (1 ≤ fieldLE h 8 4) && decide (fieldLE h 8 4 ≤ 65536) && zeroSpan h 12 52

/-- A slot of ATTN or ATTN_VERIFY with `n` rows (R279, R281). -/
def State.attnSlot (s : State) (ag : Agent) (ctx : Nat) (raw : List Byte) (x : SlotRead) (n : Nat) : Except Decoded Slot := do
  if !x.valid then return { (default : Slot) with id := x.id, flag := flAbsent, count := n }
  let dir := fieldLE x.entry 8 8
  let h ← access (s.readV ag ctx dir 64)
  need (dirHeaderOk h dir && decide (attnLayer raw < fieldLE h 0 1) && fieldLE h 2 2 == planK raw) stMalformed
  let l ← access (s.readV ag ctx (dir + 64 + 8 * attnLayer raw) 8)
  need (leNat l % 16 == 0) stMalformed
  let starved := decide (x.cap < x.len + n)
  return { id := x.id, live := !starved, flag := if starved then flStarved else 0, len := x.len, count := n, fmt := fieldBits h 1 0 4
           stride := fieldLE h 4 2, tpp := 2 ^ fieldLE h 6 1, base := leNat l, init := 0, marks := 0 }

/-- Key blocks of a slot that runs: 64 positions each; a slot with no rows has nothing to do. -/
def Slot.blocks (x : Slot) : Nat := if x.count = 0 then 0 else ceilDiv (x.len + x.count) 64

/-- Rows that a command appends. -/
def appendRows (raw : List Byte) (xs : List Slot) : Nat :=
  if attnAppend raw then (xs.map (fun x => if x.live then x.count else 0)).sum else 0

/-- The largest row stride of the slots (R295). -/
def maxStride (xs : List Slot) : Nat := xs.foldl (fun m x => max m x.stride) 0

/-- The page that a slot's key block lies in, with the shape of its rows, as the page list now shows it; none where the list faults. A
list on another device is fetched first. -/
def State.pageOf (s : State) (ag : Agent) (ctx blk : Nat) (x : Slot) : Except Stop (Option (Nat × Nat × Nat)) :=
  match s.readV ag ctx (x.base + 16 * (64 * blk / x.tpp)) 8 with
  | .ok w => .ok (if bitOf (leNat w) 0 then some (entryPage (leNat w), x.fmt, x.stride) else none)
  | .error (.need g n) => .error (.need g n)
  | .error (.lookup g n) => .error (.lookup g n)
  | .error .wait => .error .wait
  | .error _ => .ok none

/-- A slot joins the first group whose page is its own, or is a group of its own (R292). -/
def joinGroup (key : Nat → Option (Nat × Nat × Nat)) (i : Nat) : List (List Nat) → List (List Nat)
  | [] => [[i]]
  | g :: gs => if (key i).isSome && key (g.headD 0) == key i then (g ++ [i]) :: gs else g :: joinGroup key i gs

/-- Array cycles of a product of m rows, n columns and depth k at a rate, folded as R144 and R172 fold a tile. -/
def foldCycles (m n k rate : Nat) : Nat :=
  let c := ceilDiv m 4 * ceilDiv n 64
  match rate with
  | 0 => c * ceilDiv k 128
  | 1 => c * ceilDiv k 64
  | _ => 2 * c * ceilDiv k 64

/-- Array cycles of a key block for one head (R117, R174): the expansion of its keys, then the scores and the sums of values of `rows` rows.
R138 gives no count for ATTN: the folding of R144 is taken (DEDUCED, log 46). -/
def headCycles (raw : List Byte) (fmt rows : Nat) : Nat :=
  let k := planK raw
  let rate := rateOf fmt (fmtB raw)
  foldCycles 64 (attnQk raw) k rate + foldCycles 64 (attnV raw) k rate + foldCycles rows 64 (attnQk raw) 2 + foldCycles rows (attnV raw) 64 2

/-- The steps of a key block for the slots of a group: head by head, with at most 512 core cycles in each (R296). -/
def keySteps (raw : List Byte) (xs : List Slot) (blk : Nat) (g : List Nat) : List KeyStep :=
  let rows := (g.map (fun i => (xs.getD i default).count)).sum
  let n := ceilDiv (headCycles raw (xs.getD (g.headD 0) default).fmt rows) 512
  (List.range (attnHeads raw)).flatMap (fun h => List.replicate (n - 1) ⟨blk, g, h, false⟩ ++ [⟨blk, g, h, true⟩])

/-- A block holds a row that the command appends to the slot: its page is then the slot's own (R284). -/
def appendsTo (raw : List Byte) (blk : Nat) (x : Slot) : Bool := attnAppend raw && decide (x.len / x.tpp ≤ 64 * blk / x.tpp)

/-- The steps of a command's key blocks in their order (R288, R292); a slot that does not run has one step for its zero rows (R281). -/
def State.attnPlan (s : State) (ag : Agent) (ctx : Nat) (raw : List Byte) (xs : List Slot) : Except Stop (List KeyStep) := do
  let at' (i : Nat) : Slot := xs.getD i default
  let ids := List.range xs.length
  let dead := (ids.filter (fun i => !(at' i).live && (at' i).count != 0)).map (fun i => (⟨0, [i], 0, true⟩ : KeyStep))
  let most := xs.foldl (fun m x => if x.live then max m x.blocks else m) 0
  let steps ← (List.range most).mapM (fun b => do
    let runs := ids.filter (fun i => (at' i).live && decide (b < (at' i).blocks))
    let keys ← runs.mapM (fun i => if appendsTo raw b (at' i) then .ok (i, none) else do return (i, ← s.pageOf ag ctx b (at' i)))
    let gs := runs.foldl (fun gs i => joinGroup (fun k => ((keys.find? (fun p => p.1 == k)).bind (fun p => p.2))) i gs) []
    return gs.flatMap (keySteps raw xs b))
  return dead ++ steps.flatten

/-- Decode of ATTN and of ATTN_VERIFY in attend mode (R131, R279, R280, R297). The slot words and their length-table entries come first,
then the context check; the rest of point 2 is read and checked in the order: B in the seat's own scratchpad, LAT_ENTRY, the directories slot by
slot, the work area, the scale entries (DESIGN CHOICE, log 46: R279 says only that it follows the context check). -/
def State.decodeAttn (s : State) (i : Nat) (b : Block) (raw : List Byte) (verify : Bool) : Except Decoded Run := do
  let ag := Agent.core i
  need (attnOk raw verify) stMalformed
  let pb := planB raw
  let dims ← access (s.shapeOf ag b.ctx raw [pb, if pb = 0 then 0 else planM raw / pb])
  let n := dims.getD 0 0
  let new := dims.getD 1 0
  let xs ← access (s.readSlots ag b.ctx (fieldLE raw 88 8) (fieldLE raw 80 8) n)
  slotsOk b.ctx xs
  let own ← access (s.ownScratch i b.ctx (bPtr raw) ((attnHeads raw - 1) * fieldLE raw 108 4 + headBytes raw))
  need own stMalformed
  let lat ← access (s.scaleEntry ag b.ctx (fieldLE raw 68 2))
  need (entryClass lat == 1) stMalformed
  let slots ← xs.mapM (fun x => s.attnSlot ag b.ctx raw x (if verify then x.cand else new))
  need (fieldLE raw 112 8 % 64 == 0) stMalformed
  let work ← access (s.ownScratch i b.ctx (fieldLE raw 112 8) (attnWork raw (maxStride slots)))
  need work stMalformed
  let sc ← s.readScales ag b.ctx raw (fmtA raw) (some (fmtB raw)) 0 (fmtC raw)
  let per := if verify then 16 else new
  need (decide (n ≤ pb) && decide (n * per ≤ planM raw) &&
    slots.all (fun x => x.flag == flAbsent || decide (x.len + x.count ≤ planN raw))) stShape
  if n = 0 ∨ per = 0 then throw (.done flZeroShape)
  let flags := slots.foldl (fun f x => f ||| x.flag) 0
  let plan ← access (s.attnPlan ag b.ctx raw slots)
  let steps := appendRows raw slots + plan.length
  if steps = 0 then throw (.done flags)
  return { emptyRun raw with
    m := n, n := new, k := planK raw, b := per, steps := steps, flags := flags, sc := sc, slots := slots, plan := plan
    areas := [(fieldLE raw 112 8, attnWork raw (maxStride slots))] }

/-! ### Latent rows (R272, R273, R283, R284) -/

/-- Where the latent row of a position lies, and whether its page is shared. An entry below CAP that is not VALID is the fault of
R785. -/
def State.latentAt (s : State) (ag : Agent) (ctx : Nat) (x : Slot) (e t : Nat) : Except Stop (Nat × Nat × Bool) := do
  let w ← s.readV ag ctx (x.base + 16 * (t / x.tpp)) 16
  if !bitOf (fieldLE w 0 1) 0 then throw (.fail stInternal 0 false)
  return (entryPage (fieldLE w 0 8) + t % x.tpp * x.stride,
          bits (fieldLE w 8 8) 12 37 * 4096 + t % x.tpp * e / 32, bitOf (fieldLE w 0 1) 1)

/-- The slot, its index and the row within it of append `k`. -/
def appendAt : List (Slot × Nat) → Nat → Option (Slot × Nat × Nat)
  | [], _ => none
  | (x, i) :: t, k =>
    let n := if x.live then x.count else 0
    if k < n then some (x, i, k) else appendAt t (k - n)

/-- An append step (R283): one latent row is narrowed to the directory's format with a scale of 1.0; the last one records the amax
and counts into LAT_ENTRY. -/
def State.appendStep (s : State) (i : Nat) (b : Block) (r : Run) (x : Slot) (idx j : Nat) (va sva : Nat) (last : Bool) :
    Except Stop StepOut := do
  let ag := Agent.core i
  let fd := fmtD r.raw
  let row := idx * r.b + j
  let ys ← s.rowF32 ag b.ctx (dPtr r.raw + row * r.k * (fmtBits fd / 8)) 0 fd f32One 0 r.k
  let o ← s.rowWrite ag b.ctx va sva x.fmt true f32One 0 ys
  let c := r.cnt2.add o.2
  let rec' ← if last then s.recordWrites ag b.ctx (fieldLE r.raw 68 2) c else pure []
  return { writes := o.1 ++ rec', locals := [], scrub := true, run := { r with cnt2 := c } }

/-! ### Blockwise softmax (R282, R286 to R290) -/

/-- The bound hi of the mask (R282). -/
def maskHi (raw : List Byte) (p total : Nat) : Nat :=
  match attnMask raw with
  | 0 => total
  | 1 => p + 1
  | 2 => (p / attnFrame raw + 1) * attnFrame raw
  | _ => p / attnFrame raw * attnFrame raw

/-- Key position `t` is included for query position `p` (R282). -/
def keyIncluded (raw : List Byte) (p total t : Nat) : Bool :=
  let hi := maskHi raw p total
  decide (t < total) && decide (t < hi) && (attnWindow raw == 0 || decide (hi ≤ t + attnWindow raw))

/-- Narrows an FP32 value to BF16 (R206, R207). -/
def bf16Of (w : Word) : Num := decodeElem 1 (narrowOne 1 false f32One w).1

/-- An exact sum rounded once (R288). -/
def exactSum (xs : List Num) : Word := toF32 (xs.foldl addNum (.fin false 0 0))

/-- The dot product of R119. -/
def dotGroups (as bs : List Num) : Word := addGroups 64 (as.length + 1) [] 0 as bs

/-- Running values of a row and head: m, l, bad, then o (R288). -/
def startRow (dim : Nat) : List Word := f32Inf true :: 0 :: 0 :: List.replicate dim 0

/-- One key block of R288: scores and expanded values of the included keys. Of +0 and -0 the maximum keeps the one that came first, in the
block and against the running maximum (DESIGN CHOICE, log 46: R288 does not say which zero it is). A block whose weights are all +0 leaves
l and o as they are (R223, R291). -/
def blockStep (ver : Nat) (st : List Word) (ss : List Word) (vs : List (List Num)) : List Word :=
  match st with
  | m :: l :: bad :: o =>
    if ss.isEmpty then st
    else if bad != 0 || ss.any (fun x => fisNaN x || x == f32Inf false) then m :: l :: 1 :: o
    else
      let bm := ss.foldl (fun a x => if flt a x then x else a) (f32Inf true)
      if bm = f32Inf true then st
      else
        let mn := if flt m bm then bm else m
        let scaled := m != f32Inf true && flt m mn
        let c := if scaled then softWeight ver m mn else 0
        let l := if scaled then fmul l c else l
        let o := if scaled then o.map (fun x => fmul x c) else o
        let pw := ss.map (fun x => bf16Of (softWeight ver x mn))
        let terms := (pw.zip vs).filter (fun p => toF32 p.1 != 0)
        if terms.isEmpty then mn :: l :: bad :: o
        else mn :: fadd l (exactSum (terms.map (fun p => p.1))) :: bad ::
          o.zipIdx.map (fun x => fadd x.1 (exactSum (terms.map (fun p => mulNum p.1 (p.2.getD x.2 (.fin false 0 0))))))
  | _ => st

/-- The end of R288: output, MAX, LSE, and whether NO_KEYS is set. -/
def endRow (ver : Nat) (st : List Word) : List Word × Word × Word × Bool :=
  match st with
  | m :: l :: bad :: o =>
    if bad != 0 then (o.map (fun _ => f32NaN), f32NaN, f32NaN, false)
    else if m = f32Inf true then (o.map (fun _ => 0), f32Inf true, f32Inf true, true)
    else (o.map (fun x => fdiv x l), m, fadd m (sfuEval ver 3 l), false)
  | _ => ([], 0, 0, false)

/-- The columns of one up-projection of a head (R278). -/
def State.headCols (s : State) (ag : Agent) (ctx : Nat) (raw : List Byte) (base sb dim : Nat) : Except Stop (List (List Num)) := do
  let rows ← s.bRows ag ctx (fmtB raw) base sb (fieldLE raw 104 4) dim 0 (planK raw) 0 dim
  return (List.range dim).map (column rows)

/-- The expanded row of a latent for some columns (R286). -/
def expandRow (inv : Word) (c : List Num) (cols : List (List Num)) : List Num :=
  cols.map (fun col => bf16Of (fmul (dotGroups c col) inv))

/-- Writes of the output and of the row record of a row and head (R278, R290, R294). -/
def State.emitRow (s : State) (i : Nat) (b : Block) (r : Run) (row h : Nat) (o : List Word × Word × Word × Bool) :
    Except Stop (List Write × NarrowCount) := do
  let raw := r.raw
  let w ← s.rowWrite (.core i) b.ctx (cPtr raw + row * fieldLE raw 100 4) 0 (fmtC raw) r.sc.sat r.sc.c (h * attnV raw) o.1
  let rp := fieldLE raw 120 8
  return (w.1 ++ (if rp = 0 then [] else
    [{ va := rp + (row * attnHeads raw + h) * 8, data := f32Bytes [o.2.1, o.2.2.1] }]), w.2)

/-- Rows and heads of a slot, in order. -/
def rowHeads (x : Slot) (raw : List Byte) : List (Nat × Nat) :=
  (List.range x.count).flatMap (fun j => (List.range (attnHeads raw)).map (fun h => (j, h)))

/-- The rows of a slot with one head. -/
def headRows (x : Slot) (h : Nat) : List (Nat × Nat) := (List.range x.count).map (fun j => (j, h))

/-- Where the running values of a row and head stand in the command. -/
def rowKey (r : Run) (idx j h : Nat) : Nat := (idx * r.b + j) * attnHeads r.raw + h

/-- What a key block brings to a row and head: where its running values stand, those values, its scores and its values (R286, R287). -/
structure RowBlock where
  key : Nat
  old : List Word
  ss  : List Word
  vs  : List (List Num)

/-- Keys of a block that some row of a slot includes. -/
def blockKeys (raw : List Byte) (x : Slot) (blk : Nat) : List Nat :=
  ((List.range 64).map (fun k => 64 * blk + k)).filter (fun t =>
    (List.range x.count).any (fun j => keyIncluded raw (x.len + j) (x.len + x.count) t))

/-- What the page reader brings of a page on another device: the 64 rows of the block and their scales, each in one read (R293). -/
def State.fetchBlock (s : State) (ag : Agent) (ctx k : Nat) (x : Slot) (blk : Nat) : Except Stop Unit := do
  let p ← s.latentAt ag ctx x k (64 * blk)
  let t := s.uncached ctx [(p.1, 64 * x.stride), (p.2.1, 2 * k)]
  let far (e : Except Stop (List Byte)) : Except Stop Unit := match e with
    | .error (.need g n) => .error (.need g n)
    | _ => .ok ()
  far (t.readV ag ctx p.1 (64 * x.stride))
  if fmtMx x.fmt then far (t.readV ag ctx p.2.1 (2 * k)) else return ()

/-- The latent rows of some keys of a block, which the page reader brings (R293, R394). -/
def State.latents (s : State) (ag : Agent) (ctx k : Nat) (x : Slot) (blk : Nat) (keys : List Nat) : Except Stop (List (List Num)) := do
  if keys.isEmpty then return [] else s.fetchBlock ag ctx k x blk
  keys.mapM (fun t => do
    let p ← s.latentAt ag ctx x k t
    (s.uncached ctx [(p.1, 1), (p.2.1, 1)]).rowNums ag ctx p.1 p.2.1 x.fmt 0 k)

/-- The running values of a row and head as a block meets them. -/
def Run.rowState (r : Run) (blk key : Nat) : List Word :=
  let start := startRow (attnV r.raw)
  if blk = 0 then start else r.parts.getD key start

/-- A key block for the rows of a slot that runs, for one head. -/
def State.slotBlock (s : State) (i : Nat) (b : Block) (r : Run) (blk h idx : Nat) : Except Stop (List RowBlock) := do
  let ag := Agent.core i
  let raw := r.raw
  let x := r.slots.getD idx default
  let total := x.len + x.count
  let keys := blockKeys raw x blk
  let lats ← s.latents ag b.ctx r.k x blk keys
  let kvs ← if keys.isEmpty then pure [] else do
    let a := bPtr raw + h * fieldLE raw 108 4
    let sk := a + 2 * r.k * fieldLE raw 104 4
    let uk ← s.headCols ag b.ctx raw a sk (attnQk raw)
    let uv ← s.headCols ag b.ctx raw (a + r.k * fieldLE raw 104 4) (sk + ceilDiv r.k 32 * attnQk raw) (attnV raw)
    pure (lats.map (fun c => (expandRow r.sc.b c uk, expandRow r.sc.b c uv)))
  (headRows x h).mapM (fun (p : Nat × Nat) => do
    let key := rowKey r idx p.1 p.2
    let st := r.rowState blk key
    let inc := (keys.zip kvs).filter (fun k => keyIncluded raw (x.len + p.1) total k.1)
    if inc.isEmpty then return { key := key, old := st, ss := [], vs := [] }
    let q ← s.rowNums ag b.ctx (aPtr raw + (idx * r.b + p.1) * fieldLE raw 96 4) 0 (fmtA raw) (p.2 * attnQk raw) (attnQk raw)
    return { key := key, old := st
             ss := inc.map (fun k => fmul (fmul (dotGroups q k.2.1) r.sc.a) (word32 raw 76)), vs := inc.map (fun k => k.2.2) })

/-! ### Block skipping (R301) -/

/-- The bound U of a row: no score of the block is above it. How it is built is not published, so a free value raises it (log 46). A score
that is NaN or +infinite leaves no bound. -/
def skipBound (seed : Nat) (ss : List Word) : Option Word :=
  if ss.any (fun x => fisNaN x || x == f32Inf false) then none
  else
    let top := ss.foldl (fun a x => if flt a x then x else a) (f32Inf true)
    let u := BitVec.ofNat 32 (Config.freeValue seed)
    if fisNaN u then none else some (if flt top u then u else top)

/-- The skip stands for a row: U is below its running maximum, and a score of U has weight +0. -/
def skipStands (ver seed : Nat) (x : RowBlock) : Bool :=
  match skipBound seed x.ss, x.old with
  | some u, m :: _ => flt u m && softWeight ver u m == 0
  | _, _ => false

/-- What the core does with a key block: computes it, skips it, or computes it late, after a skip that does not stand. -/
inductive BlockFate where
  | plain | skipped | late
  deriving DecidableEq, Repr

/-- The core plans to skip a key block: only of an MX directory under SKIP_PRED, and then whether it does is a free value (log 46). -/
def plansSkip (fresh : Nat) (raw : List Byte) (x : Slot) : Bool :=
  bitOf (fieldLE raw 1 1) 1 && fmtMx x.fmt && Config.freeValue fresh % 2 != 0

/-- The fate of a key block for its set of rows. -/
def blockFate (ver fresh : Nat) (plans : Bool) (xs : List RowBlock) : BlockFate :=
  if !plans then .plain
  else if xs.zipIdx.all (fun p => skipStands ver (fresh + 1 + p.2) p.1) then .skipped else .late

/-! ### Steps -/

/-- Sets values of a list at their places, which it has. -/
def setMany (l : List (List Word)) (xs : List (Nat × List Word)) : List (List Word) := xs.foldl (fun a x => setAt a x.1 x.2) l

/-- The results of a slot are undefined: another agent has written what only the roster writes for its entry's pool (R309). -/
def State.wildSlot (s : State) (x : Slot) : Bool := s.wildPools.contains (s.entry x.id).pool

/-- What the rows of a set bring to a block that the core plans to skip but cannot read: the bound is then a free value that no score holds,
and where the skip stands the block is not fetched (R301). -/
def Run.blindRows (r : Run) (ks : KeyStep) : List RowBlock :=
  ks.slots.flatMap (fun idx => (headRows (r.slots.getD idx default) ks.head).map (fun p =>
    let key := rowKey r idx p.1 p.2
    { key := key, old := r.rowState ks.blk key, ss := [], vs := [] }))

/-- The rows of a step that ends its head's work with a block, and the fate of the block. A block that cannot be read is skipped where its
skip stands. -/
def State.blockRows (s : State) (i : Nat) (b : Block) (r : Run) (ks : KeyStep) : Except Stop (List RowBlock × BlockFate) :=
  let ver := s.sfuVer.1
  let plans := plansSkip s.fresh r.raw (r.slots.getD (ks.slots.headD 0) default)
  let blind (e : Stop) : Except Stop (List RowBlock × BlockFate) :=
    let xs := r.blindRows ks
    if blockFate ver s.fresh plans xs = .skipped then .ok (xs, .skipped) else .error e
  match ks.slots.mapM (fun idx => s.slotBlock i b r ks.blk ks.head idx) with
  | .ok rows => .ok (rows.flatten, blockFate ver s.fresh plans rows.flatten)
  | .error (.fail st va w) => blind (.fail st va w)
  | .error (.pageFault va l w) => blind (.pageFault va l w)
  | .error e => .error e

/-- A key-block step for the slots of a group, with the fate of the block. -/
def State.attnBlock (s : State) (i : Nat) (b : Block) (r : Run) (ks : KeyStep) : Except Stop (StepOut × BlockFate) := do
  if !ks.last then return ({ writes := [], locals := [], scrub := true, run := r }, .plain)
  let raw := r.raw
  let ver := s.sfuVer.1
  let (xs, fate) ← s.blockRows i b r ks
  let new := xs.map (fun x => (x.key, if fate = .skipped then x.old else blockStep ver x.old x.ss x.vs))
  let parts0 := if r.parts.isEmpty then List.replicate (r.slots.length * r.b * attnHeads raw) [] else r.parts
  let parts := setMany parts0 new
  let outs ← (ks.slots.filter (fun idx => ks.blk + 1 == (r.slots.getD idx default).blocks)).mapM (fun idx =>
    (headRows (r.slots.getD idx default) ks.head).mapM (fun (p : Nat × Nat) => do
      let e := endRow ver (parts.getD (rowKey r idx p.1 p.2) [])
      let w ← s.emitRow i b r (idx * r.b + p.1) p.2 e
      return (w, e.2.2.2)))
  let o := joinRows (outs.flatten.map (fun x => x.1))
  let o := if ks.slots.any (fun idx => s.wildSlot (r.slots.getD idx default)) then wildOut s.fresh o else o
  let flag := if outs.flatten.any (fun x => x.2) then flNoKeys else 0
  return ({ writes := o.1, locals := [], scrub := true
            run := { r with parts := parts, cnt := r.cnt.add o.2, flags := r.flags ||| flag } }, fate)

/-- The step of a slot that is absent or starved (R281): +0 in its output rows, whatever the scale of the output. -/
def State.attnZero (s : State) (i : Nat) (b : Block) (r : Run) (idx : Nat) : Except Stop StepOut := do
  let raw := r.raw
  let rp := fieldLE raw 120 8
  let ws ← (rowHeads (r.slots.getD idx default) raw).mapM (fun p => do
    let row := idx * r.b + p.1
    let w ← s.zeroWrite (.core i) b.ctx (cPtr raw + row * fieldLE raw 100 4) (fmtC raw) (p.2 * attnV raw) (attnV raw)
    return w ++ (if rp = 0 then [] else
      [{ va := rp + (row * attnHeads raw + p.2) * 8, data := f32Bytes [f32Inf true, f32Inf true] }]))
  return { writes := ws.flatten, locals := [], scrub := true, run := r }

/-- Another seat of the crew has a multicast read of a page on its way (R293): in this model one of memory of this device lasts for its
instant, and one of another device until its bytes come (log 46). -/
def State.pageBusy (s : State) (i ctx page : Nat) : Bool :=
  s.pageReads.any (fun p => p.1 / 9 == i / 9 && p.1 != i && p.2.1 == ctx && p.2.2.1 == page && p.2.2.2 == s.clock)

/-- The seat of the crew whose multicast read of a span of another device is on its way, in the same context (R293). -/
def State.pageLeader (s : State) (i ctx gpa : Nat) : Option Nat :=
  (s.asked.find? (fun a => match a.agent with
    | .core k => k != i && k / 9 == i / 9 && a.addr == gpa && a.data.isEmpty &&
        !s.mcast.any (fun p => p.1 == k) &&
        (match (s.core k).block, (s.core k).run with
         | some c, some q => c.ctx == ctx && (fieldLE q.raw 0 1 == 0x18 || fieldLE q.raw 0 1 == 0x19) && bitOf (fieldLE q.raw 65 1) 4
         | _, _ => false)
    | _ => false)).bind (fun a => match a.agent with | .core k => some k | _ => none)

/-- A read of a page that waits for another device joins the one that another seat of the crew has on its way, or leaves itself (R293). -/
def State.joinPage (s : State) (i ctx gpa : Nat) : Option State :=
  if s.asked.any (fun a => a.agent == .core i && a.addr == gpa) then none
  else (s.pageLeader i ctx gpa).map (fun k =>
    ({ s with asked := { agent := .core i, addr := gpa, data := [] } :: s.asked, mcast := (i, k) :: s.mcast } : State).bump CORE_PC_PAGE_SHARED 1 i)

/-- What a completed key-block step leaves in the counters (R174, R303) and with the page reader. A read of a page is that of one key
block: the slots that share it save all reads but one, at the block's first head (DEDUCED, log 46). -/
def State.blockNotes (s : State) (i : Nat) (b : Block) (r : Run) (ks : KeyStep) (fate : BlockFate) (rows : Nat) : State :=
  let x := r.slots.getD (ks.slots.headD 0) default
  let s : State := { s with fresh := s.fresh + 5 + rows }
  if !ks.last then s
  else if fate = .skipped then s.bump CORE_PC_ATTN_SKIPPED 1 i
  else
    let s := (s.bump CORE_PC_ATTN_BLOCKS 1 i).bump CORE_PC_ARRAY_CYCLES (headCycles r.raw x.fmt rows) i
    let s := if fate = .late then s.bump CORE_PC_ATTN_LATE 1 i else s
    let reads := ks.slots.filter (fun k => !(blockKeys r.raw (r.slots.getD k default) ks.blk).isEmpty)
    if reads.isEmpty || ks.head != 0 then s
    else
      let s := s.bump CORE_PC_PAGE_SHARED (reads.length - 1) i
      match s.pageOf (.core i) b.ctx ks.blk x with
      | .ok (some (page, _, _)) =>
        if !bitOf (fieldLE r.raw 65 1) 4 then s
        else
          let at' := page + 64 * ks.blk % x.tpp * x.stride
          if s.pageBusy i b.ctx at' then s.bump CORE_PC_PAGE_SHARED 1 i
          else { s with pageReads := (i, b.ctx, at', s.clock) :: s.pageReads.filter (fun p => p.2.2.2 == s.clock) }
      | _ => s

/-- What a command leaves with the roster when it ends (R281, R285, R328). Its advances are recorded together, when all its writes are
visible. -/
def State.attnFinish (s : State) (r : Run) : State :=
  r.slots.foldl (fun (t : State) x =>
    if x.flag = flStarved then t.recordStarved x.id x.count
    else if x.live && attnCommit r.raw then t.recordAdvance x.id x.count
    else t) s

/-- The slot of a group whose page-list entry is not VALID, where a step fails on one (R785). -/
def State.clearSlot (s : State) (i : Nat) (b : Block) (r : Run) (ks : KeyStep) : Nat :=
  (ks.slots.find? (fun k =>
    let x := r.slots.getD k default
    (blockKeys r.raw x ks.blk).any (fun t => match s.latentAt (.core i) b.ctx x r.k t with
      | .error (.fail st _ _) => st == stInternal
      | _ => false))).getD (ks.slots.headD 0)

/-- A step of ATTN or of ATTN_VERIFY in attend mode. A row whose page is shared waits for its copy (R284); keys wait until the
appended rows are visible (R283). -/
def State.stepAttn (s : State) (i : Nat) (b : Block) (r : Run) : State :=
  let fin (id : Nat) (e : Except Stop StepOut) : State :=
    let s := match e with
      | .error (.fail st _ _) => if st = stInternal then s.logEv .ros 0 0x204 3 stInternal id else s
      | _ => s
    s.stepDone i b (some (scaleBase r.raw + 3)) (r.areas.headD (0, 0)) (fun t q => t.attnFinish q) e
  let n := appendRows r.raw r.slots
  if r.step < n then
    match appendAt r.slots.zipIdx r.step with
    | none => s
    | some (x, idx, j) => match s.latentAt (.core i) b.ctx x r.k (x.len + j) with
      | .error e => fin x.id (.error e)
      | .ok (va, sva, shared) =>
        if shared then
          s.startCopy i x.id (attnLayer r.raw) ((x.len + j) / x.tpp)
        else fin x.id (s.appendStep i b r x idx j va sva (decide (n ≤ r.step + 1)))
  else if 0 < (s.core i).out ∧ r.step = n ∧ 0 < n then s
  else match r.plan[r.step - n]? with
    | none => s
    | some ks =>
      let x := r.slots.getD (ks.slots.headD 0) default
      if !x.live then fin x.id (s.attnZero i b r (ks.slots.headD 0))
      else
        let page := ks.slots.findSome? (fun k =>
          let y := r.slots.getD k default
          match s.latents (.core i) b.ctx r.k y ks.blk (blockKeys r.raw y ks.blk) with
          | .error (.need g _) => if bitOf (fieldLE r.raw 65 1) 4 then s.joinPage i b.ctx g else none
          | _ => none)
        match page with
        | some t => t
        | none => match s.attnBlock i b r ks with
          | .error e => fin (r.slots.getD (s.clearSlot i b r ks) default).id (.error e)
          | .ok (o, fate) =>
            let t := fin x.id (.ok o)
            if stepped s t i then t.blockNotes i b r ks fate (ks.slots.map (fun k => (r.slots.getD k default).count)).sum
            else t

/-! ### Accept mode (R298, R299) -/

def acceptFields : List (Nat × Nat) := idFields ++ [byteSpan 20 2, byteSpan 24 8, (525, 1), byteSpan 80 40]

/-- Decode of ATTN_VERIFY in accept mode. -/
def State.decodeAccept (s : State) (i : Nat) (b : Block) (raw : List Byte) : Except Decoded Run := do
  let ag := Agent.core i
  need (onlyFields raw acceptFields && ptrsOk raw [24, 80, 88, 96, 104, 112]) stMalformed
  let dims ← access (s.shapeOf ag b.ctx raw [planB raw])
  let n := dims.getD 0 0
  let xs ← access (s.readSlots ag b.ctx (fieldLE raw 88 8) (fieldLE raw 80 8) n)
  slotsOk b.ctx xs
  need (decide (n ≤ planB raw)) stShape
  if n = 0 then throw (.done flZeroShape)
  let slots := xs.map (fun x => { (default : Slot) with
    id := x.id, live := x.valid, flag := if x.valid then 0 else flAbsent, count := if x.valid then x.cand else 0 })
  return { emptyRun raw with m := n, steps := n, slots := slots, flags := slots.foldl (fun f x => f ||| x.flag) 0 }

/-- How many drafts are accepted: the first `a` of the targets equal the next candidates (R299). -/
def acceptCount (targets cands : List Nat) : Nat → Nat → Nat
  | 0, a => a
  | n + 1, a =>
    if targets.getD a 0 ≠ 0xFFFFFFFF ∧ targets.getD a 0 = cands.getD (a + 1) 0 then acceptCount targets cands n (a + 1) else a

/-- A step of accept mode: one slot. -/
def State.acceptSlot (s : State) (i : Nat) (b : Block) (r : Run) : Except Stop StepOut := do
  let ag := Agent.core i
  let raw := r.raw
  let k := r.step
  let x := r.slots.getD k default
  let out (adv tok fl : Nat) : StepOut :=
    { writes := [{ va := fieldLE raw 112 8 + 8 * k, data := leBytes adv 4 ++ leBytes tok 4 }], locals := []
      run := { r with flags := r.flags ||| fl, slots := setAt r.slots k { x with marks := adv } } }
  if x.count = 0 then return out 0 0xFFFFFFFF 0
  let cs ← s.readV ag b.ctx (fieldLE raw 96 8 + 64 * k) (4 * x.count)
  let ts ← (List.range x.count).mapM (fun j => s.readV ag b.ctx (fieldLE raw 104 8 + (16 * k + j) * 64) 4)
  let targets := ts.map leNat
  let a := acceptCount targets (words4 cs) (x.count - 1) 0
  return out (1 + a) (targets.getD a 0) (if targets.contains 0xFFFFFFFF then flNonfinite else 0)

/-- The advances of accept mode (R299). -/
def State.acceptFinish (s : State) (r : Run) : State :=
  r.slots.foldl (fun (u : State) x => if x.marks = 0 then u else u.recordAdvance x.id x.marks) s

/-- A step of ATTN_VERIFY in accept mode; the advances are recorded when the command ends and its writes are visible (R299). -/
def State.stepAccept (s : State) (i : Nat) (b : Block) (r : Run) : State :=
  s.stepDone i b none (0, 0) (fun t q => t.acceptFinish q) (s.acceptSlot i b r)

/-! ### Meanings -/

/-- The entries that the slots of a command name, where its decode ends it before a step runs (R307). -/
def State.namedSlots (s : State) (i : Nat) (f : Block → List Byte → Decoded) (plan : List Byte → Nat) (ptr : Nat) : List Nat :=
  match (s.core i).block, (s.core i).next with
  | some b, some raw =>
    let n : Nat := match s.shapeOf (.core i) b.ctx raw [plan raw] with
      | .ok d => d.getD 0 0
      | .error _ => 0
    let words := if n ≤ plan raw then s.readV (.core i) b.ctx (fieldLE raw ptr 8) (4 * n) else .ok []
    let ids : List Nat := match words with
      | .ok d => (words4 d).map (fun w => bits w 0 14)
      | .error _ => []
    match f b raw with
    | .done _ => ids
    | .fail _ => ids
    | _ => []
  | _, _ => []

/-- Decodes a command whose slots name roster entries (R307): each entry is touched. -/
def State.decodeSlots (s : State) (i : Nat) (f : Block → List Byte → Decoded) : State :=
  let t := (s.namedSlots i f planB 88).foldl (fun (u : State) e => u.touchEntry e) (s.decodeWith i f)
  match (s.core i).run, (t.core i).run with
  | none, some r => r.slots.foldl (fun (u : State) x => u.touchEntry x.id) t
  | _, _ => t

/-- MODE of an ATTN_VERIFY command that a seat has to decode (R297, R298). -/
def State.verifyMode (s : State) (i : Nat) : Bool :=
  match (s.core i).next with | some raw => bitOf (fieldLE raw 65 1) 5 | none => false

def execAttn (core : Nat) (s : State) : Host.Outcome State Fault Refusal :=
  s.rails (s.decodes core 0x18) (fun s => s.asSeat core (fun s => s.decodeSlots core (fun b raw => asDecoded (s.decodeAttn core b raw false))))

def execAttnVerify (core : Nat) (s : State) : Host.Outcome State Fault Refusal :=
  s.rails (s.decodes core 0x19 && !s.verifyMode core) (fun s =>
    s.asSeat core (fun s => s.decodeSlots core (fun b raw => asDecoded (s.decodeAttn core b raw true))))

def execAcceptMode (core : Nat) (s : State) : Host.Outcome State Fault Refusal :=
  s.rails (s.decodes core 0x19 && s.verifyMode core) (fun s =>
    s.asSeat core (fun s => s.decodeSlots core (fun b raw => asDecoded (s.decodeAccept core b raw))))

end Sys2Proof.Machine
end

