-- ==== Sys2Proof/Machine/Batch.lean ====
section
/-!
DEFINITION. LAUNCH cues (R77) and the batcher (R154 to R159).
-/
namespace Sys2Proof.Machine

/-! ### The batcher -/

/-- The fields that contributions of one class share (R155). -/
def batchKey (r : List Byte) : List Byte :=
  (r.drop 40).take 8 ++ (r.drop 88).take 8 ++ (r.drop 68).take 4 ++ (r.drop 4).take 1 ++ leBytes (fieldBits r 5 0 4) 1 ++
    (r.drop 12).take 8 ++ (r.drop 6).take 2 ++ leBytes (fieldBits r 1 2 3) 1 ++ (r.drop 56).take 8 ++
    (r.drop 96).take 8 ++ leBytes (fieldBits r 1 0 1) 1

/-- TM of a command's tile (R144, R171). -/
def tileM (r : List Byte) : Nat :=
  match fieldBits r 1 2 3 with
  | 0 => 256 | 1 => 256 | 2 => 512 | 3 => 128 | 4 => 256
  | _ => 32 * (fieldBits r 22 0 5 + 1)

/-- Rows gathered. -/
def batchRows (rows : List RowSpan) : Nat := (rows.map (fun r => r.count)).sum

/-- The first `n` rows gathered, and the rest: a contribution's rows may be split between two tiles (R156). -/
def splitRows : Nat → List RowSpan → List RowSpan × List RowSpan
  | _, [] => ([], [])
  | n, r :: t =>
    if n = 0 then ([], r :: t)
    else if r.count ≤ n then
      let p := splitRows (n - r.count) t
      (r :: p.1, p.2)
    else ([{ r with count := n }], { r with first := r.first + n, count := r.count - n } :: t)

/-- Cuts the full tiles off a class (R156). -/
def fullTiles (fuel tm : Nat) (rows : List RowSpan) :
    List (List RowSpan) × List RowSpan :=
  match fuel with
  | 0 => ([], rows)
  | fuel + 1 =>
    if tm = 0 ∨ batchRows rows < tm then ([], rows)
    else
      let p := splitRows tm rows
      let q := fullTiles fuel tm p.2
      (p.1 :: q.1, q.2)

/-- The batcher takes one contribution: its rows join its class, full tiles go out, FLUSH_AFTER closes the class (R155 to
R157). COMPAT_TILE is not among the fields that contributions of a class share: the rows that fill a tile are counted by the TILE of the
contribution taken last, and the tile runs with the command of its first row (DESIGN CHOICE, log 42). -/
def Cox.contribute (x : Cox) (idx mask : Nat) (p : Contribution) : Cox :=
  let key := batchKey p.raw
  let old := match x.batch.find? (fun b => b.key == key) with
    | some b => b.rows
    | none => []
  let rows := old ++ (if p.m = 0 then [] else
    [{ cue := idx, first := 0, count := p.m, n := p.n, k := p.k, raw := p.raw, addr := p.addr }])
  let cut := fullTiles (batchRows rows + 1) (tileM p.raw) rows
  let flush := bitOf (fieldLE p.raw 1 1) 5
  let out := cut.1 ++ (if flush ∧ !cut.2.isEmpty then [cut.2] else [])
  let rest := if flush then [] else cut.2
  { x with
    batch := x.batch.filter (fun b => b.key != key) ++
      (if rest.isEmpty then [] else [{ key := key, seats := mask, rows := rest }])
    tiles := x.tiles ++ out.map (fun t => (mask, t)) }

/-- A contribution that would open a seventeenth class (R155). -/
def Cox.noClass (x : Cox) (p : Contribution) : Bool :=
  p.m != 0 && decide (16 ≤ x.batch.length) && !x.batch.any (fun b => b.key == batchKey p.raw)

/-- Takes the contributions of a cue in command order until one must wait for a class to close; what is left waits with its cue (R155), and
so does every cue that issued after it, since rows join their classes in the order in which the cues issue (R156). -/
def Cox.takeSome (idx mask : Nat) : List Contribution → Cox → Cox
  | [], x => x
  | p :: t, x =>
    if x.noClass p || !x.backlog.isEmpty then { x with backlog := x.backlog ++ [{ cue := idx, seats := mask, rest := p :: t }] }
    else Cox.takeSome idx mask t (x.contribute idx mask p)

/-- The contributions that wait are tried again, cue by cue in the order in which the cues issued. -/
def Cox.retryBacklog (x : Cox) : Cox :=
  x.backlog.foldl (fun (y : Cox) b => Cox.takeSome b.cue b.seats b.rest y) { x with backlog := [] }

/-- The batcher takes some contributions, and then those that a class closed by them lets in; `n` bounds the rounds. -/
def Cox.takeAll (x : Cox) (idx mask : Nat) (ps : List Contribution) : Cox :=
  let waiting (y : Cox) : Nat := (y.backlog.map (fun b => b.rest.length)).sum
  let go := Cox.takeSome idx mask ps x
  (List.range (waiting go)).foldl (fun (y : Cox) _ => y.retryBacklog) go

/-- The outcome of a decode as an access of the cox knows it. -/
def stopOf : Decoded → Stop
  | .fail st => .fail st 0 false
  | .stop e => e
  | _ => .wait

/-- The fields of a contribution, point 1 of R131: a GEMM of one batch (R154) whose tile, partial-sum area (R158) and fused EPILOGUE are in
order. -/
def State.contribOk (s : State) (c ctx : Nat) (raw : List Byte) : Except Decoded Unit := do
  need (fieldLE raw 0 1 == 0x10 && planB raw == 1 && gemmOk raw) stMalformed
  match tileOf raw with
  | none => throw (.fail stMalformed)
  | some t => do
    need (tilePsumOk raw t) stMalformed
    let _ ← s.readFused (.cox c) ctx raw
    return ()

/-- A contribution with its run-time shape (R130, R131, R154): the record, or the plan, once its fields are in order; one that exceeds its
plan fails with 0x10, and one with an N or B of 0 brings no rows. -/
def State.contribShape (s : State) (c ctx va : Nat) (raw : List Byte) : Except Stop Contribution :=
  match s.contribOk c ctx raw with
  | .error d => .error (stopOf d)
  | .ok () => match s.shapeOf (.cox c) ctx raw [planM raw, planN raw, planK raw, 1] with
    | .error e => .error e
    | .ok dims =>
      let m := dims.getD 0 0
      let n := dims.getD 1 0
      let k := dims.getD 2 0
      let b := dims.getD 3 0
      if planM raw < m ∨ planN raw < n ∨ planK raw < k ∨ 1 < b then .error (.fail stShape 0 false)
      else .ok { m := if n = 0 ∨ b = 0 then 0 else m, n := n, k := k, raw := raw, addr := va }

/-- The contributions of a batched LAUNCH with their shapes, in command order. -/
def State.contribs (s : State) (c ctx va : Nat) : Nat → Except Stop (List Contribution)
  | 0 => .ok []
  | n + 1 =>
    match s.readV (.cox c) ctx va 128 with
    | .error e => .error e
    | .ok raw => match s.contribShape c ctx va raw with
      | .error e => .error e
      | .ok p => match s.contribs c ctx (va + 128) n with
        | .error e => .error e
        | .ok t => .ok (p :: t)

/-- A batched LAUNCH (R154 to R156). A cue one of whose contributions waits for a class has issued all the same, and completes when every
row has been written (DESIGN CHOICE, log 42). -/
def State.launchBatch (s : State) (c : Nat) (sh : Sheet) (q : Cue) (idx : Nat) : State :=
  match s.contribs c sh.ctx q.ptr q.arg with
  | .error e => s.cueStop c sh.ctx q.id idx e
  | .ok cs =>
    let s := (s.clearArrived (.cox c)).setCox c ((s.cox c).takeAll idx q.seatMask cs)
    let zsh := if cs.any (fun p => p.m == 0) then flZeroShape else 0
    let total := (cs.map (fun p => p.m)).sum
    let s := (s.issueCue c idx (total + 1)).cuePart c idx stSuccess zsh 8 []
    s.retryTiles c

/-- LAUNCH (R77, R154): each seat of the mask gets its block, in ascending logical order. -/
def launchEffect (c : Nat) (s : State) : State :=
  s.issueWith c (fun sh q idx s =>
    if q.batch then s.launchBatch c sh q idx
    else
      let seats := setBits q.seatMask 8
      let s := s.issueCue c idx seats.length
      seats.zipIdx.foldl (fun (t : State) (p : Nat × Nat) =>
        if t.seatRefuses (t.coreOf c p.1) then t.cuePart c idx stRefused 0 p.1 (launchDetail 0 p.1 0)
        else t.handBlock (t.coreOf c p.1)
          { kind := 0, cue := idx, order := p.1, ctx := sh.ctx, addr := q.ptr + p.2 * q.arg * 128, count := q.arg, pos := 0
            flags := 0, rows := [] }) s)

def execLaunch (crew : Nat) (s : State) : Host.Outcome State Fault Refusal := s.rails (s.issues crew 1) (launchEffect crew)

/-- BATCH_FLUSH (R157): at T + D - COX_BATCH_FLUSH core cycles (at 1.5 GHz, R26) the partial tile of every open class goes
out. A class opened after that instant, of which R157 does not speak, is flushed by a further BATCH_FLUSH at any later time (DESIGN CHOICE,
log 42). -/
def batchFlushEffect (c : Nat) (s : State) : State :=
  let s := s.at (s.stk.catchAt + s.rd STK_DRIVE_NS * 16 - s.rd COX_BATCH_FLUSH_CYCLES c * 32 / 3)
  let x := s.cox c
  let x : Cox := { x with batch := [], tiles := x.tiles ++ x.batch.map (fun b => (b.seats, b.rows)) }
  (s.setCox c (x.takeAll 0 0 [])).retryTiles c

def execBatchFlush (crew : Nat) (s : State) : Host.Outcome State Fault Refusal :=
  s.rails (decide (crew < 16) && s.coxOn crew && !(s.cox crew).batch.isEmpty) (batchFlushEffect crew)

end Sys2Proof.Machine
end

