-- ==== Sys2Proof/Machine/Streams.lean ====
section
/-!
DEFINITION. SCAN and STATE_STEP (R350 to R371). The P values that SCAN keeps in its work area, whose layout is not given, stand in the
running command (log 13); the work area itself is undefined from the first step on (R363).
-/
namespace Sys2Proof.Machine

/-! ### Slots of streams (R350, R353, R354, R355) -/

/-- The entry is a stream that was active after the last catch (R350). -/
def State.presentStream (s : State) (e : Nat) : Bool := (s.entry e).kind == 1 && s.stateBefore e == 2

/-- A state block is being moved, in whole or in part (R370, R371). -/
def State.streamMoves (s : State) (e : Nat) : Bool :=
  let x := s.entry e
  s.objs.any (fun o => o.2.move.isSome && o.2.covers x.ctx x.dir x.blockSize)

/-- Slot words. -/
def State.slotWords (s : State) (ag : Agent) (ctx seq n : Nat) : Except Stop (List Nat) :=
  (List.range n).mapM (fun i => do
    let w ← s.readV ag ctx (seq + 4 * i) 4
    return leNat w)

/-- The slot of a stream: its slice and initial slice (R352, R355); `marks` has a bit for each marked element. -/
def State.streamSlot (s : State) (layer w marks : Nat) (reset : Bool) : Slot :=
  let e := bits w 0 14
  let x := s.entry e
  let live := s.presentStream e
  { id := e, live := live, flag := if live then 0 else flAbsent, len := x.len, count := bits w 14 9, fmt := x.fmt, stride := x.stride
    tpp := 0, base := x.dir + layer * x.stride, init := if x.init = 0 then 0 else x.init + layer * x.stride
    marks := marks ||| b2n (reset && x.reset == 1) }

/-- The checks of R353 and R354 on the slots, the context first; `reserved` are the reserved bits of their words, `elems` the elements of a
slice that are used. -/
def State.streamsOk (s : State) (ctx layer : Nat) (reserved : Nat) (ws : List Nat) (elems : Nat) : Except Decoded Unit := do
  let ids := ws.map (fun w => bits w 0 14)
  need (ids.all (fun e => !s.presentStream e || (s.entry e).ctx == ctx)) stPermission
  need (distinct ids && ws.all (fun w => decide (w &&& reserved = 0)) &&
    ids.all (fun e => (s.entry e).state == 0 || (s.entry e).kind == 1) &&
    ids.all (fun e => !s.presentStream e || (decide (layer < (s.entry e).layers) &&
      decide (rowBytes (s.entry e).fmt elems ≤ (s.entry e).stride)))) stMalformed

/-- Elements `j0` to `j0 + n - 1` of the initial slice of a slot, +0 where INIT_PTR is 0 (R356). -/
def State.initVals (s : State) (ag : Agent) (ctx : Nat) (x : Slot) (j0 n : Nat) : Except Stop (List Word) :=
  if x.init = 0 then .ok (List.replicate n 0) else s.rowF32 ag ctx x.init 0 x.fmt f32One j0 n

/-- The narrowed write of a slice, with a scale of 1.0, and its counts (R206 to R208). -/
def State.sliceWrite (s : State) (ag : Agent) (ctx : Nat) (x : Slot) (j0 : Nat) (vs : List Word) :
    Except Stop (List Write × NarrowCount) :=
  s.rowWrite ag ctx x.base 0 x.fmt false f32One j0 vs

/-! ### References and advances (R360, R368, R369) -/

/-- A slot of STATE_STEP advances: it is present and its COUNT is 1. -/
def Slot.moves (x : Slot) : Bool := x.live && x.count == 1

/-- A command on streams. -/
def onStreams (r : Run) : Bool := fieldLE r.raw 0 1 == 0x30 || fieldLE r.raw 0 1 == 0x31

/-- References that a running command holds (R369): those of its present slots whose writes are not visible yet. -/
def streamRefs (r : Run) : List Nat :=
  if onStreams r then (r.slots.zipIdx.filter (fun x => x.1.live && !r.done.contains x.2)).map (fun x => x.1.id) else []

/-- The references that the running commands hold on an entry; a pre-empted command keeps those it had (R369). -/
def State.heldRefs (s : State) (e : Nat) : Nat :=
  (s.cores.map (fun c => match c.2.run with | some r => (streamRefs r).count e | none => 0)).sum +
    (s.saved.map (fun a => match a.2.what.run with | some r => (streamRefs r).count e | none => 0)).sum

/-- References whose command has failed or been abandoned, or whose slot is done, are dropped (R369). -/
def State.settleRefs (s : State) : State :=
  ((s.rosterIds.map s.entry).filter (fun x => x.kind == 1 && x.refs != 0 && decide (s.heldRefs x.id < x.refs))).foldl
    (fun (t : State) x => (List.range (x.refs - s.heldRefs x.id)).foldl (fun (u : State) _ => u.dropStream x.id) t) s

/-- The advance that a slot of a command records, under COMMIT (R360, R368). -/
def slotAdvance (r : Run) (x : Slot) : Option Nat :=
  if fieldLE r.raw 0 1 = 0x30 then (if bitOf (fieldLE r.raw 77 1) 2 && x.live then some x.count else none)
  else if bitOf (fieldLE r.raw 77 1) 1 && x.moves then some 1 else none

/-- The slots whose rows a seat's command has written: their writes are visible now, so each records its advance and gives up its
reference. -/
def State.settleSlots (s : State) (i : Nat) : State :=
  match (s.core i).run with
  | none => s
  | some r =>
    let new := r.fin.filter (fun k => !r.done.contains k)
    if new.isEmpty then s
    else
      let t := new.foldl (fun (u : State) k =>
        match slotAdvance r (r.slots.getD k default) with
        | some v => u.recordAdvance (r.slots.getD k default).id v
        | none => u) s
      (t.updCore i (fun c => { c with run := some { r with done := r.done ++ new } })).settleRefs

/-- Rows are written whose writes are not visible yet: the next slot waits for them, so that each slot's visibility is its own (log 26). -/
def Run.unsettled (r : Run) : Bool := r.fin.any (fun k => !r.done.contains k)

/-- A step of a command on streams has ended. -/
def State.afterStep (s : State) (i : Nat) : State :=
  (if (s.core i).out = 0 ∧ (s.core i).error.isNone then s.settleSlots i else s).settleRefs

/-- Every write of a seat's command is visible (R142, R285, R299, R360, R368): what it tells the roster is recorded, and a command that
has run its last step ends. -/
def State.runVisible (s : State) (i : Nat) (_b : Block) (r : Run) : State :=
  if onStreams r then
    let t := s.settleSlots i
    if r.closing then t.endCommand i (runFlags r) else t
  else if r.closing then
    (if fieldLE r.raw 0 1 = 0x19 ∧ bitOf (fieldLE r.raw 65 1) 5 then s.acceptFinish r else s.attnFinish r).endCommand i (runFlags r)
  else s

/-- Decodes a command on streams: present slots are touched and take a reference (R307, R350, R369). -/
def State.decodeStreams (s : State) (i : Nat) (plan : List Byte → Nat) (f : Block → List Byte → Decoded) : State :=
  let named := (s.namedSlots i f plan 80).filter (fun e => s.presentStream e)
  let t := named.foldl (fun (u : State) e => u.touchEntry e) (s.decodeWith i f)
  match (s.core i).run, (t.core i).run with
  | none, some r => (r.slots.filter (fun x => x.live)).foldl (fun (u : State) x => (u.touchEntry x.id).holdStream x.id) t
  | _, _ => t

/-! ### SCAN -/

def scanFields : List (Nat × Nat) :=
  idFields ++ [(32, 12), byteSpan 6 2, (64, 24), (96, 24), byteSpan 20 2, byteSpan 24 32, byteSpan 64 13, (616, 3), byteSpan 80 16,
    (768, 24), byteSpan 104 8]

/-- The checks of R34 and R353 on the fields alone. -/
def scanOk (raw : List Byte) : Bool :=
  let ld (ptr o fmt : Nat) : Bool := ptr == 0 || strideOk (fieldLE raw o 4) fmt (planN raw)
  onlyFields raw scanFields && ptrsOk raw [24, 32, 40, 48, 80, 88, 104] && decide (fmtA raw ≤ 3) && decide (fmtB raw ≤ 3) && decide (fmtC raw ≤ 3) &&
  decide (scaleBase raw ≤ 65532) && decide (1 ≤ planM raw) && decide (planM raw ≤ 256) &&
  ld (aPtr raw) 64 (fmtA raw) && ld (bPtr raw) 68 (fmtB raw) && ld (cPtr raw) 72 (fmtC raw)

/-- Steps of each group of 128 channels of a slot: ⌈COUNT / 64⌉ compose steps and an apply step (R362); an absent slot's +0 rows go 64 to
a step (log 26). -/
def groupSteps (tt : Nat) (x : Slot) : Nat := if x.live then ceilDiv x.count 64 + 1 else ceilDiv tt 64

/-- Steps of a slot. -/
def scanSteps (w tt : Nat) (x : Slot) : Nat := ceilDiv w 128 * groupSteps tt x

/-- Decode of SCAN (R131, R353, R354, R371). The shape record and all its slot words are read first, then the contexts are checked, then
the other items of R353 (its own order, which leaves the work area for point 2). -/
def State.decodeScan (s : State) (i : Nat) (b : Block) (raw : List Byte) : Except Decoded Run := do
  let ag := Agent.core i
  need (scanOk raw) stMalformed
  let dims ← access (s.shapeOf ag b.ctx raw [planB raw, planM raw, planN raw])
  let n := dims.getD 0 0
  let tt := dims.getD 1 0
  let w := dims.getD 2 0
  let ws ← access (s.slotWords ag b.ctx (fieldLE raw 80 8) n)
  let layer := fieldLE raw 76 1
  s.streamsOk b.ctx layer (2 ^ 32 - 2 ^ 23) ws (fieldLE raw 96 3 + planN raw)
  let work := fieldLE raw 104 8
  need (work % 64 == 0) stMalformed
  let own ← access (s.ownScratch i b.ctx work 267264)
  need own stMalformed
  let bitmaps ← (List.range ws.length).mapM (fun k => do
    if fieldLE raw 88 8 = 0 then return 0
    let m ← access (s.readV ag b.ctx (fieldLE raw 88 8 + 32 * k) 32)
    return leNat m)
  let sc ← s.readScalesOf ag b.ctx raw (fmtA raw) (some (fmtB raw)) 0 (if cPtr raw = 0 then none else some (fmtC raw))
  let slots := (ws.zip bitmaps).map (fun p => s.streamSlot layer p.1 p.2 (bitOf (fieldLE raw 77 1) 1))
  if slots.any (fun x => x.live && s.streamMoves x.id) then throw .stall
  need (decide (n ≤ planB raw) && decide (tt ≤ planM raw) && decide (w ≤ planN raw) && slots.all (fun x => decide (x.count ≤ tt))) stShape
  if n = 0 ∨ tt = 0 ∨ w = 0 then throw (.done flZeroShape)
  return { emptyRun raw with
    m := n, n := w, k := tt, b := 1, steps := (slots.map (scanSteps w tt)).sum, sc := sc, slots := slots, areas := [(work, 267264)]
    flags := slots.foldl (fun f x => f ||| x.flag) 0 }

/-- An element of the scan: whether it is cut, then a and b of each channel (R356). -/
def cutOf (p : List Word) : Bool := p.headD 0 != 0
def aOf (p : List Word) (w : Nat) : Word := p.getD (1 + 2 * w) 0
def bOf (p : List Word) (w : Nat) : Word := p.getD (2 + 2 * w) 0

/-- join of R356 over the channels of a group. -/
def joinElem (n : Nat) (q r : List Word) : List Word :=
  if cutOf r then r
  else q.headD 0 :: (List.range n).flatMap (fun w => [fmul (aOf r w) (aOf q w), ffma (aOf r w) (bOf q w) (bOf r w)])

/-- cut_apply of R356. -/
def cutApply (p : List Word) (h : List Word) : List Word :=
  h.zipIdx.map (fun x => if cutOf p then bOf p x.2 else ffma (aOf p x.2) x.1 (bOf p x.2))

/-- p[t] of R356. -/
def scanElem (marked : Bool) (xs ys h0 : List Word) : List Word :=
  if marked then 1 :: (List.range xs.length).flatMap (fun w => [0, ffma (xs.getD w 0) (h0.getD w 0) (ys.getD w 0)])
  else 0 :: (List.range xs.length).flatMap (fun w => [xs.getD w 0, ys.getD w 0])

/-- The compose step of elements t0 on: P follows p in segments of 16 (R356). -/
def composeFrom (n : Nat) : List (List Word) → List (List Word) → List (List Word)
  | done, [] => done
  | done, p :: t =>
    composeFrom n (done ++ [if done.length % 16 = 0 then p else joinElem n (done.getLastD p) p]) t

/-- The apply step: the states of every element (R356); `h` is what the segment starts from, `last` the latest state. -/
def applyAll : Nat → List Word → List Word → List (List Word) → List (List Word)
  | _, _, _, [] => []
  | t, h, last, p :: rest =>
    let h := if t % 16 = 0 then last else h
    let y := cutApply p h
    y :: applyAll (t + 1) h y rest

/-- Where a step of a SCAN stands: slot, index, group, step within the group, and whether it is the slot's last. -/
structure ScanAt where
  slot  : Slot
  idx   : Nat
  group : Nat
  step  : Nat
  last  : Bool

/-- The place of step `k` of a SCAN (R362). -/
def scanAt (w tt : Nat) : List (Slot × Nat) → Nat → Option ScanAt
  | [], _ => none
  | (x, i) :: t, k =>
    let n := scanSteps w tt x
    let per := max 1 (groupSteps tt x)
    if k < n then some { slot := x, idx := i, group := k / per, step := k % per, last := k + 1 == n } else scanAt w tt t (k - n)

/-- The row of b, of a and of the output of an element (R352); the stride of an operand whose pointer is 0 is ignored (R353). -/
def scanRows (raw : List Byte) (i t : Nat) : Nat × Nat × Nat :=
  let n := i * planM raw + t
  (bPtr raw + n * strideFor (bPtr raw) (fieldLE raw 68 4),
   aPtr raw + (if bitOf (fieldLE raw 77 1) 0 then i else n) * strideFor (aPtr raw) (fieldLE raw 64 4),
   cPtr raw + n * fieldLE raw 72 4)

/-- A step of SCAN on a group of channels of a present slot: a compose step, or the apply step, which writes the outputs and the slice. A
slot with COUNT 0 writes nothing (R358). -/
def State.scanGroup (s : State) (i : Nat) (b : Block) (r : Run) (x : Slot) (idx g k : Nat) : Except Stop StepOut := do
  let ag := Agent.core i
  let raw := r.raw
  let w0 := 128 * g
  let n := min 128 (r.n - w0)
  let off := fieldLE raw 96 3
  let chunks := ceilDiv x.count 64
  if x.count = 0 then return { writes := [], locals := [], run := r, scrub := true }
  let h0 ← s.initVals ag b.ctx x (off + w0) n
  if k < chunks then
    let old := if k = 0 then [] else r.parts
    let ps ← (List.range (min 64 (x.count - 64 * k))).mapM (fun d => do
      let t := 64 * k + d
      let (vb, va, _) := scanRows raw idx t
      let xs ← s.rowF32 ag b.ctx va 0 (fmtA raw) r.sc.a w0 n
      let ys ← s.rowF32 ag b.ctx vb 0 (fmtB raw) r.sc.b w0 n
      return scanElem (bitOf x.marks t) xs ys h0)
    return { writes := [], locals := [], scrub := true, run := { r with parts := composeFrom n old ps } }
  let h ← s.rowF32 ag b.ctx x.base 0 x.fmt f32One (off + w0) n
  let hs := applyAll 0 h h r.parts
  let outs ← if cPtr raw = 0 then pure [] else hs.zipIdx.mapM (fun y =>
    s.rowWrite ag b.ctx (scanRows raw idx y.2).2.2 0 (fmtC raw) r.sc.sat r.sc.c w0 y.1)
  let o := joinRows outs
  let slice ← s.sliceWrite ag b.ctx x (off + w0) (hs.getLastD h)
  let cnt : NarrowCount := { sat := 0, inf := slice.2.inf, nan := slice.2.nan, amax := 0 }
  return { writes := o.1 ++ slice.1, locals := [], scrub := true, run := { r with parts := [], cnt := (r.cnt.add o.2).add cnt } }

/-- A step of an absent slot: +0 in up to 64 of its output rows, over a group of channels (R359). -/
def State.scanAbsent (s : State) (i : Nat) (b : Block) (r : Run) (idx g k : Nat) : Except Stop StepOut := do
  let raw := r.raw
  let w0 := 128 * g
  let ws ← if cPtr raw = 0 then pure [] else (List.range (min 64 (r.k - 64 * k))).mapM (fun d =>
    s.zeroWrite (.core i) b.ctx (scanRows raw idx (64 * k + d)).2.2 (fmtC raw) w0 (min 128 (r.n - w0)))
  return { writes := ws.flatten, locals := [], scrub := true, run := r }

/-- A step of SCAN. -/
def State.stepScan (s : State) (i : Nat) (b : Block) (r : Run) : State :=
  if r.unsettled then s
  else match scanAt r.n r.k r.slots.zipIdx r.step with
    | none => s
    | some p =>
      let r := if p.last then { r with fin := r.fin ++ [p.idx] } else r
      let out := if p.slot.live then s.scanGroup i b r p.slot p.idx p.group p.step else s.scanAbsent i b r p.idx p.group p.step
      (s.stepDone i b (some (scaleBase r.raw + 3)) (fieldLE r.raw 104 8, 267264) (fun t _ => t.settleSlots i) out).afterStep i

/-! ### STATE_STEP -/

def stateFields : List (Nat × Nat) :=
  idFields ++ [(9, 4), (32, 12), byteSpan 6 2, (64, 24), (96, 24), (128, 24), byteSpan 20 2, (176, 15), byteSpan 24 40, byteSpan 64 13,
    (616, 2), byteSpan 80 16, (768, 24), byteSpan 104 16]

/-- The fields of a STATE_STEP (R34, R133, R364, R365). An MX copy of the state has no address for its scales (log 26). -/
def stateOk (raw : List Byte) : Bool :=
  let ld (ptr o fmt : Nat) : Bool := ptr == 0 || strideOk (fieldLE raw o 4) fmt (planN raw)
  onlyFields raw stateFields && ptrsOk raw [24, 32, 40, 48, 56, 80, 88, 104, 112] && decide (fmtA raw ≤ 3) && pairOk 1 (fmtB raw) && decide (scaleBase raw ≤ 65532) &&
  planN raw == planK raw && planB raw == 1 && aPtr raw % 64 == 0 && bPtr raw % 64 == 0 && cPtr raw % 64 == 0 &&
  (cPtr raw == 0 || (fmtOk (fmtC raw) && !fmtMx (fmtC raw) && !fmt4 (fmtC raw) && (dPtr raw == 0 || fmtC raw == 0))) &&
  ld (aPtr raw) 64 (fmtA raw) && ld (bPtr raw) 68 (fmtB raw) && ld (cPtr raw) 72 (fmtC raw) && scalePtrOk (fmtB raw) (fieldLE raw 88 8)

/-- Decode of STATE_STEP (R131, R364 to R366). R133's checks and the fused command come at point 1 (R240); then the order is that of
SCAN. -/
def State.decodeState (s : State) (i : Nat) (b : Block) (raw : List Byte) : Except Decoded Run := do
  let ag := Agent.core i
  need (stateOk raw) stMalformed
  match tileOf raw with
  | none => throw (.fail stMalformed)
  | some t => do
    s.psumOk i b raw t (fieldLE raw 112 8)
    let e ← s.readFunction ag b.ctx raw
    let dims ← access (s.shapeOf ag b.ctx raw [planM raw, planN raw])
    let n := dims.getD 0 0
    let w := dims.getD 1 0
    let ws ← access (s.slotWords ag b.ctx (fieldLE raw 80 8) n)
    let layer := fieldLE raw 76 1
    s.streamsOk b.ctx layer (2 ^ 31 - 2 ^ 23) ws (fieldLE raw 96 3 + planN raw)
    need (ws.all (fun x => !s.presentStream (bits x 0 14) || (s.entry (bits x 0 14)).fmt == 1)) stMalformed
    let work := fieldLE raw 104 8
    need (work % 64 == 0) stMalformed
    let own ← access (s.ownScratch i b.ctx work (planM raw * planK raw * 2))
    need own stMalformed
    let sc ← s.readScalesOf ag b.ctx raw (fmtA raw) (some (fmtB raw)) 0 (if cPtr raw = 0 then none else some (fmtC raw))
    let slots := ws.map (fun x => s.streamSlot layer x (bits x 31 1) (bitOf (fieldLE raw 77 1) 0))
    if slots.any (fun x => x.live && s.streamMoves x.id) then throw .stall
    need (decide (n ≤ planM raw) && decide (w ≤ planN raw) && slots.all (fun x => decide (x.count ≤ 1))) stShape
    if n = 0 ∨ w = 0 then throw (.done flZeroShape)
    let psum := fieldLE raw 112 8
    return { emptyRun raw with
      m := n, n := w, k := w, b := 1, sc := sc, epi := e, slots := slots, steps := n + matrixSteps t n w w
      areas := [(work, planM raw * planK raw * 2), (psum, if psum = 0 then 0 else psumBytes t (planM raw))]
      segs := [[{ (default : Seg) with rows := n }]], flags := slots.foldl (fun f x => f ||| x.flag) 0 }

/-- A staging step (R366): the BF16 codes of the old state of a slot go to its row of the work area as they are. -/
def State.stageRow (s : State) (i : Nat) (b : Block) (r : Run) (idx : Nat) : Except Stop StepOut := do
  let x := r.slots.getD idx default
  if !x.moves then return { writes := [], locals := [], run := r }
  let ag := Agent.core i
  let row := fieldLE r.raw 104 8 + idx * planK r.raw * 2
  let src := if x.marks = 0 then x.base else x.init
  let w ← if x.marks ≠ 0 ∧ x.init = 0 then s.zeroWrite ag b.ctx row 1 0 r.n else do
    let cs ← s.codes ag b.ctx src 1 (fieldLE r.raw 96 3) r.n
    s.codeWrite ag b.ctx row 1 0 cs
  return { writes := w, locals := [], run := r }

/-- The staged row of a slot, zeros for one that does not advance (R366, R368). -/
def State.stagedRow (s : State) (i : Nat) (b : Block) (r : Run) (idx k0 n : Nat) : Except Stop (List Elem) :=
  if (r.slots.getD idx default).moves then
    s.rowElems (.core i) b.ctx (fieldLE r.raw 104 8 + idx * planK r.raw * 2) 0 1 k0 n
  else .ok (List.replicate n padElem)

/-- The new state of a row of a tile (R367): descale, x, the function; its writes and counts. A result that is infinite or NaN counts in
each narrowing, that of the slice and that of C (DESIGN CHOICE, log 26: R367 does not say whether it counts once). -/
def State.stateRow (s : State) (i : Nat) (b : Block) (r : Run) (idx n0 : Nat) (acc : List Word) : Except Stop (List Write × NarrowCount) := do
  let x := r.slots.getD idx default
  if !x.moves then return ([], default)
  let ag := Agent.core i
  let raw := r.raw
  let n := acc.length
  let d := fmul f32One r.sc.b
  let xs ← s.rowF32 ag b.ctx (aPtr raw + idx * strideFor (aPtr raw) (fieldLE raw 64 4)) 0 (fmtA raw) r.sc.a n0 n
  let vs := List.zipWith (fun u y => fadd (fmul u d) y) acc xs
  let rs ← if r.epi.isEmpty then pure vs else do
    let e := r.epi
    let col := fieldLE e 80 8
    let bias := fieldLE e 88 8
    let as ← if col = 0 then pure (List.replicate n (word32 e 76)) else s.f32s ag b.ctx (col + 4 * n0) n
    let bs ← if bias = 0 then pure (List.replicate n 0) else s.f32s ag b.ctx (bias + 4 * n0) n
    pure ((List.range n).map (fun j => epilogueElem s.sfuVer.1 (fieldLE e 72 1) (vs.getD j 0) (as.getD j 0) (bs.getD j 0) none))
  let slice ← s.sliceWrite ag b.ctx x (fieldLE raw 96 3 + n0) rs
  if cPtr raw = 0 then return slice
  let o ← s.rowWrite ag b.ctx (cPtr raw + idx * fieldLE raw 72 4) 0 (fmtC raw) r.sc.sat r.sc.c n0 rs
  return (slice.1 ++ o.1, o.2.add slice.2)

/-- A matrix step of STATE_STEP (R146, R147, R364), and what the predictor did. The last step of a row tile finishes its slots. -/
def State.stateMatrix (s : State) (i : Nat) (b : Block) (r : Run) (t : Tile) : Except Stop (StepOut × Predicted) := do
  let ag := Agent.core i
  let raw := r.raw
  let p := Psum.va (fieldLE raw 112 8)
  match stepAt t r.n r.k r.segs (r.step - r.m) with
  | none => return ({ writes := [], locals := [], run := r }, default)
  | some at' =>
    let (accs, q) ← s.tileSums i b.ctx p r t at' (fun x k0 n => s.stagedRow i b r x k0 n)
      (fun k0 n j0 w => s.bRows ag b.ctx (fmtB raw) (bPtr raw) (fieldLE raw 88 8) (strideFor (bPtr raw) (fieldLE raw 68 4)) (planN raw) k0 n j0 w)
    if at'.kt + 1 < at'.nk then return (putPsums p t r (at'.mt * t.m) accs, q)
    let outs ← accs.zipIdx.mapM (fun x => s.stateRow i b r (at'.mt * t.m + x.2) (at'.nt * t.n) x.1)
    let o := joinRows outs
    let fin := if (at'.nt + 1) * t.n < r.n then r.fin else r.fin ++ (List.range accs.length).map (fun k => at'.mt * t.m + k)
    return ({ writes := o.1, locals := [], run := { r with cnt := r.cnt.add o.2, fin := fin } }, q)

/-- A step of STATE_STEP. -/
def State.stepState (s : State) (i : Nat) (b : Block) (r : Run) : State :=
  match tileOf r.raw with
  | none => s
  | some t =>
    if r.unsettled then s
    else
      let psum := fieldLE r.raw 112 8
      let area := if psum = 0 then 0 else psumBytes t (planM r.raw)
      let finish (x : Except Stop StepOut) : State :=
        s.stepDone i b (some (scaleBase r.raw + 3)) (psum, area) (fun u _ => u.settleSlots i) x
      if r.step < r.m then (finish (s.stageRow i b r r.step)).afterStep i
      else match s.stateMatrix i b r t with
        | .error e => (finish (.error e)).afterStep i
        | .ok (o, q) =>
          let u := finish (.ok o)
          (if stepped s u i then u.arrayWork i r t (rateOf 1 (fmtB r.raw)) q else u).afterStep i

/-! ### Meanings -/

def execScan (core : Nat) (s : State) : Host.Outcome State Fault Refusal :=
  s.rails (s.decodes core 0x30) (fun s => s.asSeat core (fun s => s.decodeStreams core planB (fun b raw => asDecoded (s.decodeScan core b raw))))

def execStateStep (core : Nat) (s : State) : Host.Outcome State Fault Refusal :=
  s.rails (s.decodes core 0x31) (fun s => s.asSeat core (fun s => s.decodeStreams core planM (fun b raw => asDecoded (s.decodeState core b raw))))

end Sys2Proof.Machine
end

