-- ==== Sys2Proof/Machine/Memory.lean ====
section
/-!
DEFINITION. The memory controllers (R445 to R448, R454), the HBM temperature readout (R455), and the recopy of a stale watch
slot (R452).
-/
namespace Sys2Proof.Machine

/-- Key of a bank: kind of memory, stack or package, bank. -/
def bankKey (lpd : Bool) (ctl bank : Nat) : Nat := b2n lpd * 2 ^ 20 + ctl * 2 ^ 12 + bank

/-- The bank exists: 64 pseudo-channels of 16 banks (R417), or 4 channels of two ranks of 16 banks (R418). -/
def bankOk (lpd : Bool) (ctl bank : Nat) : Bool :=
  if lpd then decide (ctl < 32) && decide (bank < 128) else decide (ctl < 8) && decide (bank < 1024)

/-- Slots that one bank may hold, and at which count it is broadcast free (R446). -/
def bankQuota (lpd : Bool) : Nat := if lpd then 200 else 4096
def bankFree (lpd : Bool) : Nat := bankQuota lpd * 7 / 8

/-- Registers of a controller: SLOTS_USED, BANKS_HELD, PC_BOUNCES, PC_TIMEOUTS, TIMEOUT. -/
def memFlds (lpd : Bool) : Fld × Fld × Fld × Fld × Fld :=
  if lpd then (LPD_SLOTS_USED_COUNT, LPD_BANKS_HELD_COUNT, LPD_PC_BOUNCES, LPD_PC_TIMEOUTS, LPD_TIMEOUT_NS)
  else (HBM_SLOTS_USED_COUNT, HBM_BANKS_HELD_COUNT, HBM_PC_BOUNCES, HBM_PC_TIMEOUTS, HBM_TIMEOUT_NS)

def State.bank (s : State) (k : Nat) : Bank := Tab.look s.banks k default
def State.setBank (s : State) (k : Nat) (b : Bank) : State := { s with banks := Tab.set s.banks k default b }

/-- Slots of a controller that a requester holds under Mioweard's default division (R445): requesters 0 to 15 are the crews, 16 is the
host DMA engine, 17 the tier manager, 18 the roster and the MMU walks, 19 the incoming remote operations. The grants sum to the slots of
R48. No register carries another division, so that this one stands for the grants of every credit plan (R96; DESIGN CHOICE, log 28). -/
def memGrant (lpd : Bool) (requester : Nat) : Nat :=
  if requester < 16 then (if lpd then 64 else 1536)
  else match requester with
    | 16 => if lpd then 128 else 2048
    | 17 => if lpd then 256 else 2048
    | 18 => if lpd then 64 else 1024
    | 19 => if lpd then 128 else 3072
    | _ => 0

/-- Slots of a controller that a requester occupies. -/
def State.memUsed (s : State) (lpd : Bool) (ctl requester : Nat) : Nat :=
  (s.banks.map (fun b => if b.1 / 2 ^ 12 = b2n lpd * 2 ^ 8 + ctl then b.2.queue.countP (fun r => r.1 == requester) else 0)).sum

/-- The requester holds a credit for the controller's queue (R98, R445). A grant is never moved to another requester. -/
def State.memCredit (s : State) (lpd : Bool) (ctl requester : Nat) : Bool := decide (s.memUsed lpd ctl requester < memGrant lpd requester)

/-- Page of a controller. -/
def memPage (lpd : Bool) : Page := if lpd then .lpd else .hbm

/-- The memory channel of a bank, as kind 14 names it. -/
def bankChannel (lpd : Bool) (ctl bank : Nat) : Inst :=
  { kind := 14, block := if lpd then 8 + ctl else ctl, pos := bank / (if lpd then 32 else 16) }

/-- A request arrives with its age: it takes a slot, or bounces from a bank at its quota, which is held then (R446). -/
def State.arrive (s : State) (lpd : Bool) (ctl bank requester age : Nat) : State :=
  let k := bankKey lpd ctl bank
  let b := s.bank k
  let f := memFlds lpd
  if b.queue.length < bankQuota lpd then
    (s.setBank k { b with queue := b.queue ++ [(requester, age)] }).bump f.1 1 ctl
  else
    let s := if b.held then s else s.bump f.2.1 1 ctl
    (s.setBank k { b with bounced := b.bounced ++ [(requester, age)], held := true }).bump f.2.2.1 1 ctl

/-- The controller and the bank that hold a local address (R417, R418). The rank and bank within an LPDDR channel are given by no rule: the
request brings them (DESIGN CHOICE, log 28). -/
def memPlace (addr lpdRank lpdBank : Nat) : Option (Bool × Nat × Nat) :=
  (memChannel addr).map (fun i =>
    if i.block < 8 then (false, i.block, i.pos * 16 + (bits addr 30 4 ^^^ bits addr 36 4))
    else (true, i.block - 8, i.pos * 32 + lpdRank % 2 * 16 + lpdBank % 16))

/-- A request may be issued: its requester has a credit of the controller and no held request to the bank (R98, R447). -/
def State.memIssues (s : State) (lpd : Bool) (ctl bank requester : Nat) : Bool :=
  s.memCredit lpd ctl requester && !(s.bank (bankKey lpd ctl bank)).bounced.any (fun r => r.1 == requester)

/-- MEMORY_REQUEST (R98, R417, R446, R447): the request of an address arrives at its bank; one that may not be issued is not. -/
def execMemoryRequest (addr requester lpdRank lpdBank : Nat) (s : State) : Host.Outcome State Fault Refusal :=
  match memPlace addr lpdRank lpdBank with
  | some (lpd, ctl, bank) => s.rails (s.memIssues lpd ctl bank requester) (fun s => s.arrive lpd ctl bank requester s.clock)
  | none => .next s

/-- The oldest request of a bank (R448). -/
def oldest : List (Nat × Nat) → Option (Nat × Nat)
  | [] => none
  | r :: t => match oldest t with
    | some q => if r.2 ≤ q.2 then some r else some q
    | none => some r

/-- A request leaves its slot; at seven eighths of its quota a held bank is broadcast free (R446). -/
def State.leave (s : State) (lpd : Bool) (ctl bank : Nat) (r : Nat × Nat) : State :=
  let k := bankKey lpd ctl bank
  let b := s.bank k
  let q := b.queue.erase r
  let free := b.held && decide (q.length ≤ bankFree lpd)
  let f := memFlds lpd
  let s := (s.setBank k { b with queue := q, held := b.held && !free }).wr f.1 (s.rd f.1 ctl - 1) ctl
  if free then s.wr f.2.1 (s.rd f.2.1 ctl - 1) ctl else s

/-- MEMORY_SERVE (R448, R619): the oldest request of the bank is served; what the read found is charged to its 2 KiB unit. -/
def memoryServeEffect (lpd : Bool) (ctl bank unit : Nat) (outcome : ReadOutcome) (s : State) : State :=
  match oldest (s.bank (bankKey lpd ctl bank)).queue with
  | none => s
  | some r =>
    let s := s.leave lpd ctl bank r
    let i : Inst := { kind := if lpd then 7 else 6, block := ctl, pos := unit }
    match outcome with
    | .clean => s
    | .corrected => (s.errCorr (memPage lpd) ctl).transient i 4
    | .uncorrectable => (s.errUncorr (memPage lpd) ctl).permanent i 1

def execMemoryServe (lpd : Bool) (ctl bank unit : Nat) (outcome : ReadOutcome) (s : State) : Host.Outcome State Fault Refusal :=
  s.rails (bankOk lpd ctl bank && !(s.bank (bankKey lpd ctl bank)).queue.isEmpty && !s.testHolds (bankChannel lpd ctl bank)) (memoryServeEffect lpd ctl bank unit outcome)

/-- A held request goes back among those that wait for their bank. -/
def State.holdBack (s : State) (k : Nat) (r : Nat × Nat) : State := s.setBank k { s.bank k with bounced := (s.bank k).bounced ++ [r] }

/-- BOUNCE_REISSUE (R447, R448): the held requests of a requester arrive again with their ages, as far as its credits go. -/
def bounceReissueEffect (lpd : Bool) (ctl bank requester : Nat) (s : State) : State :=
  let k := bankKey lpd ctl bank
  let b := s.bank k
  let mine := b.bounced.filter (fun r => r.1 == requester)
  let s := s.setBank k { b with bounced := b.bounced.filter (fun r => r.1 != requester) }
  mine.foldl (fun (t : State) r => if t.memCredit lpd ctl requester then t.arrive lpd ctl bank r.1 r.2 else t.holdBack k r) s

def execBounceReissue (lpd : Bool) (ctl bank requester : Nat) (s : State) : Host.Outcome State Fault Refusal :=
  s.rails (bankOk lpd ctl bank && !(s.bank (bankKey lpd ctl bank)).held &&
      (s.bank (bankKey lpd ctl bank)).bounced.any (fun r => r.1 == requester))
    (bounceReissueEffect lpd ctl bank requester)

/-- MEMORY_TIMEOUT (R454, R619): a request has waited out the timeout; it completes with 0x23. -/
def memoryTimeoutEffect (lpd : Bool) (ctl bank requester : Nat) (s : State) : State :=
  match oldest ((s.bank (bankKey lpd ctl bank)).queue.filter (fun r => r.1 == requester)) with
  | none => s
  | some r =>
    let f := memFlds lpd
    let ch := bank / (if lpd then 32 else 16)
    let s := s.at (r.2 + s.rd f.2.2.2.2 ctl * 16)
    let s := ((s.leave lpd ctl bank r).bump f.2.2.2.1 1 ctl).errUncorr (memPage lpd) ctl
    (s.logEv (memPage lpd) ctl 0x401 3 stBus (ctl + ch * 2 ^ 16)).transient (bankChannel lpd ctl bank) 16

def execMemoryTimeout (lpd : Bool) (ctl bank requester : Nat) (s : State) : Host.Outcome State Fault Refusal :=
  s.rails (bankOk lpd ctl bank && (s.bank (bankKey lpd ctl bank)).queue.any (fun r => r.1 == requester) &&
      !s.testHolds (bankChannel lpd ctl bank))
    (memoryTimeoutEffect lpd ctl bank requester)

/-- Temperature at which a throttle level starts (R455). -/
def levelEntry (l : Nat) : Nat := match l with | 0 => 0 | 1 => 85 | 2 => 95 | 3 => 100 | _ => 105

/-- Level of a temperature (R455). -/
def levelOf (t : Nat) : Nat := if 105 ≤ t then 4 else if 100 ≤ t then 3 else if 95 ≤ t then 2 else if 85 ≤ t then 1 else 0

/-- The level after a fall: each level is left only 2 °C below its entry. -/
def fallTo (t : Nat) : Nat → Nat
  | 0 => 0
  | l + 1 => if t + 2 ≤ levelEntry (l + 1) then fallTo t l else l + 1

/-- HBM_TEMPERATURE_READOUT (R455). -/
def temperatureEffect (stack temp : Nat) (s : State) : State :=
  let old := s.rd HBM_THROTTLE_LEVEL stack
  let new := max (levelOf temp) (fallTo temp old)
  let s := ((s.wr HBM_TEMP_TEMP (min temp 255) stack).on HBM_TEMP_VALID stack).wr HBM_THROTTLE_LEVEL new stack
  let s := if new ≠ old then s.logEv .hbm stack 0x402 2 0 (stack + new * 2 ^ 16 + temp * 2 ^ 32) else s
  let s := if s.is HBM_MARGIN_CTL_BUSY stack then s.wr HBM_MARGIN_CTL_PAUSED (b2n (decide (2 ≤ new))) stack else s
  let s := if old < 3 ∧ 3 ≤ new then s.cause .hbm 8 stack else s
  if old < 4 ∧ new = 4 then s.ibiRaise 3 else s

def execHbmTemperatureReadout (stack temp : Nat) (s : State) : Host.Outcome State Fault Refusal :=
  s.rails (decide (stack < 8)) (temperatureEffect stack temp)

/-- Bytes of a list of local pieces. -/
def State.rdSpans (s : State) (ps : List (Nat × Nat)) : List Byte := ps.flatMap (fun p => s.rdMem p.1 p.2)

/-- Stores bytes over a list of pieces of global physical memory. -/
def State.wrSpans (s : State) : List (Nat × Nat) → List Byte → State
  | [], _ => s
  | (g, n) :: t, d =>
    (if gpaDev g = s.dev then s.store (gpaLocal g) 0 true (d.take n)
      else (s.noteMoves g n).remotePut (.agent .tier) 0 false g (d.take n)).wrSpans t (d.drop n)

end Sys2Proof.Machine
end

