-- ==== Sys2Proof/Machine/Dma.lean ====
section
/-!
DEFINITION. DMA channels and descriptors (R501 to R528), the watch slots they arm (R450), and the seat copies COPY and
TRANSPOSE_COPY (R525, R526). A channel has one descriptor in progress at a time (log 27).
-/
namespace Sys2Proof.Machine

/-! ### Descriptors (R505 to R508, R510) -/

def dKind (d : List Byte) : Nat := fieldBits d 0 1 2
def dFence (d : List Byte) : Bool := bitOf (fieldLE d 0 1) 3
def dMsi (d : List Byte) : Bool := bitOf (fieldLE d 0 1) 4
def dMcast (d : List Byte) : Bool := bitOf (fieldLE d 0 1) 5
def dWatch (d : List Byte) : Bool := bitOf (fieldLE d 0 1) 6
def dElem (d : List Byte) : Nat := 2 ^ fieldBits d 3 0 2
def dSrc (d : List Byte) : Nat := fieldLE d 8 8
def dDst (d : List Byte) : Nat := fieldLE d 16 8
def dRowBytes (d : List Byte) : Nat := fieldLE d 24 4
def dRows (d : List Byte) : Nat := fieldLE d 28 4
def dSrcStride (d : List Byte) : Int := signed (fieldLE d 32 4) 32
def dDstStride (d : List Byte) : Int := signed (fieldLE d 36 4) 32
def dTotal (d : List Byte) : Nat := dRowBytes d * dRows d

/-- Destination rows and the bytes of each (R506, R507). -/
def dstShape (d : List Byte) : Nat × Nat :=
  if dKind d = 1 then (dRowBytes d / dElem d, dRows d * dElem d) else (dRows d, dRowBytes d)

/-- Address of row `r` at a stride. -/
def rowVa (base : Nat) (stride : Int) (r : Nat) : Nat := wrapInt ((base : Int) + (r : Int) * stride) 64

/-- Source rows and destination rows as addresses and lengths. -/
def srcRows (d : List Byte) : List (Nat × Nat) :=
  if dKind d = 2 then [] else (List.range (dRows d)).map (fun r => (rowVa (dSrc d) (dSrcStride d) r, dRowBytes d))
def dstRows (d : List Byte) : List (Nat × Nat) :=
  (List.range (dstShape d).1).map (fun r => (rowVa (dDst d) (dDstStride d) r, (dstShape d).2))

/-- The range from the lowest to the highest byte that rows reach (R508). -/
def rowSpan (base : Nat) (stride : Int) (rows bytes : Nat) : Int × Int :=
  let a : Int := base
  let b : Int := (base : Int) + ((rows - 1 : Nat) : Int) * stride
  (min a b, max a b + (bytes : Int))

/-- Two spans overlap. -/
def spansMeet (x y : Int × Int) : Bool := decide (x.1 < y.2) && decide (y.1 < x.2)

/-- The pointers that a descriptor carries are context virtual addresses (R34). -/
def descPointers (d : List Byte) : Bool :=
  (dKind d == 2 || decide (dSrc d < 2 ^ 49)) && decide (dDst d < 2 ^ 49) && decide (fieldLE d 40 8 < 2 ^ 49)

/-- The offsets at which a descriptor writes: one, or one for each seat of a multicast (R510). -/
def castOffsets (d : List Byte) : List Nat := if dMcast d then (setBits (fieldLE d 6 1) 8).map (· * 0x400000) else [0]

/-- A descriptor breaks no rule of R34 and R508. `host` says the host engine. -/
def descOk (d : List Byte) (host : Bool) : Bool :=
  let (n, w) := dstShape d
  let empty := dTotal d == 0
  descPointers d && fieldBits d 0 7 1 == 0 && dKind d != 3 && fieldBits d 3 0 2 != 3 && fieldBits d 3 2 4 == 0 && decide (dRows d < 65536) &&
  zeroSpan d 51 1 && zeroSpan d 56 8 && (fieldLE d 40 8 == 0 || fieldLE d 48 2 != 0) && decide (dTotal d ≤ 16777216) &&
  (empty || decide (n ≤ 1) || decide ((w : Int) ≤ |dDstStride d|)) &&
  (empty || dKind d == 2 || !(castOffsets d).any (fun o =>
    spansMeet (rowSpan (dSrc d) (dSrcStride d) (dRows d) (dRowBytes d)) (rowSpan (dDst d + o) (dDstStride d) n w))) &&
  (dKind d != 1 || (dRowBytes d % dElem d == 0 && dSrc d % 64 == 0 && dDst d % 64 == 0 && dSrcStride d % 64 == 0 &&
    dDstStride d % 64 == 0)) &&
  (!dMcast d || !host) && dMcast d == (fieldLE d 6 1 != 0) && (!dMsi d || host) &&
  (if dWatch d then fieldLE d 50 1 != 0 else fieldLE d 50 1 == 0 && fieldLE d 7 1 == 0)

/-- Bytes that a FILL writes in a row: the pattern from its byte 0 (R506). -/
def fillRow (d : List Byte) (n : Nat) : List Byte := (List.range n).map (fun i => d.getD (8 + i % 8) 0)

/-- Row `c` of a transposed source (R507). -/
def transposeRow (e : Nat) (rows : List (List Byte)) (c : Nat) : List Byte := rows.flatMap (fun r => (r.drop (c * e)).take e)

/-- The destination rows of a descriptor from its source rows. -/
def moveRows (d : List Byte) (src : List (List Byte)) : List (List Byte) :=
  match dKind d with
  | 1 => (List.range (dstShape d).1).map (transposeRow (dElem d) src)
  | 2 => List.replicate (dRows d) (fillRow d (dRowBytes d))
  | _ => src

/-! ### The prepare phase (R510, R516) -/

/-- Translates the pages of some spans for reading. -/
def State.prepareReads (s : State) (ctx : Nat) : List (Nat × Nat) → Except Stop Unit
  | [] => .ok ()
  | (va, _) :: t => match s.translate ctx va .read with
    | .error e => .error e
    | .ok _ => s.prepareReads ctx t

/-- The pages of some rows. -/
def rowPages (rows : List (Nat × Nat)) : List (Nat × Nat) := rows.flatMap (fun p => spanPages p.1 p.2)

/-- Every seat's address of a multicast lies in that seat's slot of the crew (R510). -/
def State.castOk (s : State) (crew ctx : Nat) (d : List Byte) : Except Stop Unit :=
  (setBits (fieldLE d 6 1) 8).foldl (fun (a : Except Stop Unit) t =>
    (rowPages (dstRows d)).foldl (fun (b : Except Stop Unit) p =>
      match b with
      | .error e => .error e
      | .ok () => match s.translate ctx (p.1 + t * 0x400000) .write with
        | .error e => .error e
        | .ok x =>
          let lo := scratchBase crew t
          if gpaDev x.gpa = s.dev ∧ lo ≤ gpaLocal x.gpa ∧ gpaLocal x.gpa + p.2 ≤ lo + 0x400000 then .ok ()
          else .error (.fail stPermission (p.1 + t * 0x400000) true)) a) (.ok ())

/-- The prepare phase: every page read or written, the token's too, is translated and checked. -/
def State.prepare (s : State) (crew ctx : Nat) (d : List Byte) : Except Stop Unit :=
  match s.prepareReads ctx (rowPages (srcRows d)) with
  | .error e => .error e
  | .ok () => match if dMcast d then s.castOk crew ctx d else .ok () with
    | .error e => .error e
    | .ok () => match s.checkWrites ctx ((castOffsets d).flatMap (fun o =>
        (dstRows d).map (fun p => { va := p.1 + o, data := List.replicate p.2 0 }))) with
      | .error e => .error e
      | .ok () => if fieldLE d 40 8 = 0 then .ok () else match s.translate ctx (fieldLE d 40 8) .write with
        | .error e => .error e
        | .ok _ => .ok ()

/-- Pieces of some rows in global physical memory, for a watch slot; none where a page cannot be translated. -/
def State.gpaPieces (s : State) (ctx : Nat) (acc : Access) (rows : List (Nat × Nat)) : Option (List (Nat × Nat)) :=
  (rowPages rows).mapM (fun p => match s.translate ctx p.1 acc with
    | .ok x => some (x.gpa, p.2)
    | .error _ => none)

/-- The destination bytes of a descriptor that has failed in its transfer are undefined (R519). -/
def State.undefineRows (s : State) (ctx : Nat) (d : List Byte) : State :=
  (rowPages ((castOffsets d).flatMap (fun o => (dstRows d).map (fun p => (p.1 + o, p.2))))).foldl (fun (t : State) p =>
    match t.translate ctx p.1 .write with
    | .ok x =>
      let a := gpaLocal x.gpa
      if gpaDev x.gpa = t.dev ∧ (inDram a ∨ (regionOf a).1 = .scratch ∨ (regionOf a).1 = .crewStore) then t.undefine a p.2 else t
    | .error _ => t) s

/-! ### Channels -/

def dmaPage (e : Nat) : Page := if e = 16 then .hdm else .cdm
def dmaInst (e : Nat) : Nat := if e = 16 then 0 else e

/-- The channel exists (R501). -/
def chanExists (e ch : Nat) : Bool := (decide (e < 16) && decide (ch < 8)) || (e == 16 && decide (ch < 16))

/-- The channel is in ring mode. -/
def State.ringMode (s : State) (e ch : Nat) : Bool := e == 16 || s.is CDM_CH_CTL_MODE e ch

/-- Context in which the channel works. -/
def State.chanCtx (s : State) (e ch : Nat) : Nat :=
  if s.ringMode e ch then s.dmaRd e ch CDM_CH_CTL_CONTEXT HDM_CH_CTL_CONTEXT else (s.chan e ch).ctx

def State.chanHead (s : State) (e ch : Nat) : Nat := s.dmaRd e ch CDM_CH_HEAD HDM_CH_HEAD

/-- The doorbell of a ring (R513, R527). -/
def State.chanBell (s : State) (e ch : Nat) : Nat :=
  let k := s.dmaRd e ch CDM_CH_RING_CTL_INDEX HDM_CH_RING_CTL_INDEX
  (s.tok (if e = 16 ∨ s.is CDM_CH_RING_CTL_SCOPE e ch then tokGlobal k else tokCrew e k)).toNat

/-- Descriptors between HEAD and a doorbell count, as a signed 32-bit difference (R513). -/
def ringLeft (bell head : Nat) : Nat :=
  let d := (bell + 2 ^ 32 - head % 2 ^ 32) % 2 ^ 32
  if d < 2 ^ 31 then d else 0

/-- The channel works off what was accepted before a drain (R522, R717). -/
def State.drainRuns (s : State) (e ch : Nat) : Bool :=
  s.chState e ch == 4 && s.is (BLK_CTL_DRAIN_MODE (dmaPage e)) (dmaInst e) && !(s.chan e ch).force

/-- Descriptors that wait in the channel's list or ring. -/
def State.chanLeft (s : State) (e ch : Nat) : Nat :=
  let x := s.chan e ch
  if s.ringMode e ch then ringLeft (if s.chState e ch = 4 then x.bell else s.chanBell e ch) (s.chanHead e ch)
  else if x.cue.isSome then x.count - x.pos else 0

/-- Address of the next descriptor. -/
def State.chanNext (s : State) (e ch : Nat) : Nat :=
  let x := s.chan e ch
  if s.ringMode e ch then
    s.dmaRd e ch CDM_CH_RING_BASE HDM_CH_RING_BASE +
      s.chanHead e ch % 2 ^ s.dmaRd e ch CDM_CH_RING_CTL_SIZE_LOG2 HDM_CH_RING_CTL_SIZE_LOG2 * 64
  else x.addr + x.pos * 64

/-- The channel may start a descriptor now: it is enabled and not stopped, and recovery work only in the recovery (R57, R521). A
pre-empted context's channels stop (R608). -/
def State.chanStarts (s : State) (e ch : Nat) : Bool :=
  let st := s.chState e ch
  let cs := s.rd CTX_STAT_STATE (s.chanCtx e ch)
  !(s.chan e ch).stopped && s.stkState != 3 && (decide (st ≤ 1) || st == 3 || s.drainRuns e ch) && !(cs == 2 || cs == 3 || cs == 4) &&
  (!s.ringMode e ch || (if e = 16 then s.inRecovery else s.recovery e))

/-- An active channel that holds no descriptor and may start none has stopped at a boundary (R521, R527). -/
def State.restChans (s : State) : State :=
  s.chans.foldl (fun (t : State) x =>
    let e := x.1 / 32
    let ch := x.1 % 32
    if x.2.desc.isNone ∧ t.chState e ch = 1 ∧ t.chanStarts e ch = false then t.setChState e ch 3 else t) s

/-- The channel works now: on the descriptor in progress, which the curtain, hold water, a pre-emption and a drain let end (R57, R521,
R522), else on one that it may start; never while it is paused at a fault. -/
def State.chanGoes (s : State) (e ch : Nat) : Bool :=
  chanExists e ch && !(s.chan e ch).paused && (if (s.chan e ch).desc.isSome then decide (s.chState e ch ≤ 4) else s.chanStarts e ch)

/-- The descriptor that the channel works on: one already taken, or the next one of its list or ring. -/
def State.chanDesc (s : State) (e ch : Nat) : Option (Except Stop (List Byte)) :=
  match (s.chan e ch).desc with
  | some d => if d.moved then none else some (.ok d.raw)
  | none => if 0 < s.chanLeft e ch then some (s.readV (.chan e ch) (s.chanCtx e ch) (s.chanNext e ch) 64) else none

/-- A descriptor in a ring is posted: its OWNER is 1 (R513). One already taken was. -/
def State.owned (s : State) (e ch : Nat) (raw : List Byte) : Bool :=
  (s.chan e ch).desc.isSome || !s.ringMode e ch || bitOf (fieldLE raw 0 1) 0

/-- The channel works on a descriptor of a KIND; one that cannot be read may be any, and KIND 3 is taken by COPY's row. -/
def State.chanKind (s : State) (e ch k : Nat) : Bool :=
  s.chanGoes e ch && (match s.chanDesc e ch with
    | some (.ok raw) => s.owned e ch raw && (dKind raw == k || (k == 0 && dKind raw == 3))
    | some (.error _) => true
    | none => false)

/-- A descriptor has been taken (R513): HEAD or the position moves on. -/
def State.takeDesc (s : State) (e ch : Nat) (raw : List Byte) : State :=
  let x := s.chan e ch
  if x.desc.isSome then s
  else
    let a := s.chanNext e ch
    let d : DescRun := { raw := raw, addr := a, moved := false, status := stSuccess, cause := 0, flags := 0, done := 0, sent := false }
    let s := s.setChan e ch { x with desc := some d, ctx := s.chanCtx e ch, pos := if s.ringMode e ch then x.pos else x.pos + 1 }
    let s := if s.ringMode e ch then s.dmaWr e ch CDM_CH_HEAD HDM_CH_HEAD (s.chanHead e ch + 1) else s
    let s := (s.dmaWr e ch CDM_CH_CUR HDM_CH_CUR a).dmaWr e ch CDM_CH_STAT_DESC_ID HDM_CH_STAT_DESC_ID (fieldLE raw 4 2)
    if s.chState e ch = 4 then s else s.setChState e ch 1

/-- The transfer of the descriptor in progress has ended with an outcome; it waits for its completion. -/
def State.endTransfer (s : State) (e ch status cause flags done : Nat) : State :=
  let x := s.chan e ch
  s.setChan e ch { x with
    error := none
    desc := x.desc.map (fun d => { d with moved := true, status := status, cause := cause, flags := flags, done := done }) }

/-- A watched descriptor's slot (R450): the slot armed with the descriptor's ranges, unless it is malformed or still armed. Where a page
cannot be translated the descriptor's own accesses say so. -/
inductive Arming where
  | bad
  | wait
  | go (s : State)

def State.armWatch (s : State) (ctx : Nat) (d : List Byte) : Arming :=
  if !dWatch d then .go s
  else match s.gpaPieces ctx .read (srcRows d), s.gpaPieces ctx .write ((castOffsets d).flatMap (fun o =>
      (dstRows d).map (fun p => (p.1 + o, p.2)))) with
    | some src, some dst =>
      if !src.all (fun p => gpaDev p.1 == s.dev && inDram (gpaLocal p.1)) || decide (0x200000 < (src.map (fun p => p.2)).sum) then .bad
      else if !s.is TIER_CTL_WATCH_ENABLE then .go s
      else if (Tab.find s.watches (fieldLE d 7 1)).isSome then .wait
      else
        let w : Watch := { src := src.map (fun p => (gpaLocal p.1, p.2)), dst := dst, uses := fieldLE d 50 1, stale := false, retries := 0,
                           raw := d }
        .go { s with watches := Tab.put s.watches (fieldLE d 7 1) w }
    | _, _ => .go s

/-- The bytes that a recopy writes, from those of the source (R452): rows transposed as the descriptor says, once for each seat of a
multicast. -/
def Watch.copied (w : Watch) (d : List Byte) : List Byte :=
  let rows := (List.range (dRows w.raw)).map (fun r => (d.drop (r * dRowBytes w.raw)).take (dRowBytes w.raw))
  (castOffsets w.raw).flatMap (fun _ => if dKind w.raw = 1 then (moveRows w.raw rows).flatten else d)

/-- The recopy writes into a frame that the checkpoint protects: it waits for the copy (R492). -/
def State.recopyWaits (s : State) (w : Watch) : Bool :=
  w.dst.any (fun p => decide (gpaDev p.1 = s.dev) && (s.protectedIn (gpaLocal p.1) p.2).isSome)

/-- WATCH_RECOPY (R452): the source of a stale slot is copied to the destination again. -/
def watchRecopyEffect (slot : Nat) (s : State) : State :=
  match Tab.find s.watches slot with
  | none => s
  | some w =>
    if s.recopyWaits w then s
    else
      let s := (s.wrSpans w.dst (w.copied (s.rdSpans w.src))).bump TIER_PC_WATCH_REREAD
      { s with watches := Tab.put s.watches slot { w with stale := false, retries := w.retries + 1 } }

def execWatchRecopy (slot : Nat) (s : State) : Host.Outcome State Fault Refusal :=
  s.rails (Tab.look s.watches slot default).stale (watchRecopyEffect slot)

/-- Reads rows in order. -/
def State.readRows (s : State) (ag : Agent) (ctx : Nat) (rows : List (Nat × Nat)) : Except Stop (List (List Byte)) :=
  rows.mapM (fun p => s.readV ag ctx p.1 p.2)

/-- Tiles of 64 rows of 64 bytes that the crew store delivers transposed to an engine of its own crew (R388, R507, R413). -/
def State.countTiles (s : State) (e ctx : Nat) (d : List Byte) : State :=
  if dKind d ≠ 1 ∨ 16 ≤ e then s
  else match s.translate ctx (dSrc d) .read with
    | .ok x =>
      if gpaDev x.gpa = s.dev ∧ (regionOf (gpaLocal x.gpa)).1 = .crewStore ∧ (gpaLocal x.gpa - 0x40000000000) / 0x1000000 = e then
        s.bump CST_PC_TRANSPOSE (ceilDiv (dRows d) 64 * ceilDiv (dRowBytes d) 64) e
      else s
    | .error _ => s

/-- Notes what the descriptor in progress has behind it. -/
def State.updDesc (s : State) (e ch : Nat) (f : DescRun → DescRun) : State :=
  s.setChan e ch { s.chan e ch with desc := (s.chan e ch).desc.map f }

/-- The transfer ends with a failed access (R406, R519). -/
def State.transferFails (s : State) (e ch ctx : Nat) (d : List Byte) (x : Stop) : State :=
  let bad (t : State) (st : Nat) : State :=
    let (v, t) := (t.undefineRows ctx d).free
    t.endTransfer e ch stBadDesc st 0 (v % (dTotal d + 1))
  match x with
  | .fail st va w => bad (s.failedAt ctx st va w) st
  | .ctxFault va l w => bad (s.loseContext ctx va l w (.chan e ch) (s.chanCmd e ch)) stLost
  | _ => s

/-- The transfer has moved every byte (R527). -/
def State.transferEnds (s : State) (e ch ctx : Nat) (d : List Byte) : State :=
  let n := dTotal d
  let s := (((s.noteReads ctx (srcRows d)).countTiles e ctx d).endTransfer e ch stSuccess 0 0 n).clearArrived (.chan e ch)
  let i := dmaInst e
  if e = 16 then (s.bump HDM_PC_BYTES_READ (if dKind d = 2 then 0 else n)).bump HDM_PC_BYTES_WRITTEN n
  else (s.bump CDM_PC_BYTES_READ (if dKind d = 2 then 0 else n) i).bump CDM_PC_BYTES_WRITTEN (n * (castOffsets d).length) i

/-- The parts in which a COPY whose source lies elsewhere moves, each within the channel's share of the buffer (R504): source, destination and
bytes. -/
def copyParts (d : List Byte) (share : Nat) : List (Nat × Nat × Nat) :=
  ((srcRows d).zip (dstRows d)).flatMap (fun p => (piecesOf share p.1.2).map (fun q => (p.1.1 + q.1, p.2.1 + q.1, q.2)))

/-- The next part of such a copy: it is read once the writes of the part before have been accepted (R504), and written. -/
def State.movePart (s : State) (e ch ctx : Nat) (d : List Byte) : State :=
  let ag := Agent.chan e ch
  let x := s.chan e ch
  let k := (x.desc.getD default).part
  match (copyParts d (s.bufBytes e ch))[k]? with
  | none => s.transferEnds e ch ctx d
  | some (src, dst, n) => match s.readV ag ctx src n with
    | .error (.need g m) => if 0 < x.out then s else s.ask ag ctx (!s.ringMode e ch) g m
    | .error er => s.transferFails e ch ctx d er
    | .ok bytes =>
      let ws := (castOffsets d).map (fun o => ({ va := dst + o, data := bytes } : Write))
      let s := ((s.updDesc e ch (fun q => { q with part := k + 1 })).writeAll (.chan e ch) ctx (!s.ringMode e ch) ws).clearArrived ag
      if (copyParts d (s.bufBytes e ch)).length ≤ k + 1 then s.transferEnds e ch ctx d else s

/-- The transfer phase (R506, R507, R510, R516): the source is read, and the destination rows are written, for every seat of a multicast. A
COPY whose source lies elsewhere goes part by part. -/
def State.transfer (s : State) (e ch ctx : Nat) (d : List Byte) : State :=
  let ag := Agent.chan e ch
  if 0 < ((s.chan e ch).desc.getD default).part then s.movePart e ch ctx d
  else match s.readRows ag ctx (srcRows d) with
  | .error (.need g n) => if dKind d = 0 then s.movePart e ch ctx d else s.ask ag ctx (!s.ringMode e ch) g n
  | .error x => s.transferFails e ch ctx d x
  | .ok src =>
    let rows := (moveRows d src).zip (dstRows d)
    let ws := (castOffsets d).flatMap (fun o => rows.map (fun p => ({ va := p.2.1 + o, data := p.1 } : Write)))
    let n := dTotal d
    let s := ((s.noteReads ctx (srcRows d)).countTiles e ctx d).endTransfer e ch stSuccess 0 0 n
    let s := (s.writeAll (.chan e ch) ctx (!s.ringMode e ch) ws).clearArrived ag
    let i := dmaInst e
    if e = 16 then (s.bump HDM_PC_BYTES_READ (if dKind d = 2 then 0 else n)).bump HDM_PC_BYTES_WRITTEN n
    else (s.bump CDM_PC_BYTES_READ (if dKind d = 2 then 0 else n) i).bump CDM_PC_BYTES_WRITTEN (n * (castOffsets d).length) i

/-- A descriptor touches the objects of its pages when it starts (R425). -/
def State.touchRows (s : State) (ctx : Nat) (d : List Byte) : State :=
  if s.objs.isEmpty then s
  else (rowPages (srcRows d ++ dstRows d)).foldl (fun (t : State) p => t.touchObj ctx p.1) s

/-- The watch slots of a descriptor: those of its source, checked once (R452), then its own, armed once (R450). -/
def State.watchStart (s : State) (e ch ctx : Nat) (d : List Byte) : Except Stop Arming :=
  let x := (s.chan e ch).desc.getD default
  match if x.checked then .ok s else s.watchGate ctx (srcRows d) with
  | .error er => .error er
  | .ok s =>
    let s := if x.checked then s else s.updDesc e ch (fun x => { x with checked := true })
    if x.armed then .ok (.go s)
    else match s.armWatch ctx d with
      | .bad => .ok .bad
      | .wait => .ok (.go s)
      | .go t => .ok (.go (t.updDesc e ch (fun x => { x with armed := true })))

/-- Runs a descriptor that has been taken (R509, R516, R519). -/
def State.runDesc (s : State) (e ch : Nat) (d : List Byte) : State :=
  let ctx := (s.chan e ch).ctx
  match (s.chan e ch).error with
  | some st =>
    if st = stPageFault then s.endTransfer e ch stBadDesc st 0 0
    else
      let (v, t) := (s.undefineRows ctx d).free
      t.endTransfer e ch stBadDesc st 0 (v % (dTotal d + 1))
  | none =>
    if !descOk d (e == 16) then s.endTransfer e ch stMalformed 0 0 (dTotal d % 2 ^ 32)
    else if dTotal d = 0 then s.endTransfer e ch stFlags 0 flZeroShape 0
    else match s.prepare e ctx d with
      | .error (.pageFault a l w) => s.pauseChan e ch ctx a l w
      | .error (.fail st _ _) => s.endTransfer e ch stBadDesc st 0 0
      | .error (.ctxFault a l w) => (s.loseContext ctx a l w (.chan e ch) (s.chanCmd e ch)).endTransfer e ch stBadDesc stLost 0 0
      | .error _ => s
      | .ok () => match s.watchStart e ch ctx d with
        | .error (.fail st _ _) => s.endTransfer e ch stBadDesc st 0 0
        | .error _ => s
        | .ok .bad => s.endTransfer e ch stMalformed 0 0 (dTotal d % 2 ^ 32)
        | .ok .wait => s
        | .ok (.go t) =>
          if dWatch d && t.is TIER_CTL_WATCH_ENABLE && !((t.chan e ch).desc.getD default).armed then t
          else (t.touchRows ctx d).transfer e ch ctx d

/-- The channel takes and runs its descriptor (R511, R513, R519). -/
def State.chanRun (s : State) (e ch : Nat) : State :=
  match s.chanDesc e ch with
  | none => s
  | some (.ok raw) => (s.takeDesc e ch raw).runDesc e ch raw
  | some (.error x) =>
    let ctx := s.chanCtx e ch
    let bad (s : State) (st : Nat) : State := (s.takeDesc e ch (leBytes 0 64)).endTransfer e ch stBadDesc st 0 0
    match (s.chan e ch).error, x with
    | some st, _ => bad s st
    | none, .pageFault a l w => s.pauseChan e ch ctx a l w
    | none, .fail st a w => bad (s.failedAt ctx st a w) st
    | none, .ctxFault a l w => bad (s.loseContext ctx a l w (.chan e ch) 0) stLost
    | none, .need g n => s.ask (.chan e ch) ctx (!s.ringMode e ch) g n
    | none, _ => s

def execDmaCopy (engine ch : Nat) (s : State) : Host.Outcome State Fault Refusal :=
  s.work (s.chanKind engine ch 0) (fun s => s.chanRun engine ch)

def execDmaTranspose (engine ch : Nat) (s : State) : Host.Outcome State Fault Refusal :=
  s.work (s.chanKind engine ch 1) (fun s => s.chanRun engine ch)

def execDmaFill (engine ch : Nat) (s : State) : Host.Outcome State Fault Refusal :=
  s.work (s.chanKind engine ch 2) (fun s => s.chanRun engine ch)

/-- OWNER_WAIT (R513): the descriptor at HEAD has OWNER 0; it is read again 1 µs later. -/
def execOwnerWait (engine ch : Nat) (s : State) : Host.Outcome State Fault Refusal :=
  s.rails (s.chanGoes engine ch && (s.chan engine ch).desc.isNone && (match s.chanDesc engine ch with
      | some (.ok raw) => !s.owned engine ch raw
      | _ => false))
    (fun s =>
      let s := (s.at (s.clock + 16000)).clearArrived (.chan engine ch)
      if engine = 16 then s.bump HDM_CH_OWNER_WAITS else s.bump CDM_CH_OWNER_WAITS 1 engine)

/-! ### Completion (R514, R515, R517) -/

/-- The bytes that the engine writes back into a descriptor of a ring (R505, R514). -/
def writeBack (d : DescRun) (status cause done : Nat) : List Write :=
  let b3 := fieldLE d.raw 3 1 &&& 3
  [{ va := d.addr + 2, data := leBytes cause 1 ++
      leBytes (b3 + (if d.flags &&& flZeroShape = 0 then 0 else 64) + (if d.flags &&& flAbandoned = 0 then 0 else 128)) 1 },
   { va := d.addr + 52, data := leBytes done 4 },
   { va := d.addr, data := leBytes (fieldLE d.raw 0 1 / 2 * 2) 1 ++ leBytes status 1 }]

/-- The lines that a descriptor reads back (R517), as global physical addresses: that of the last byte of the last destination row, for
every seat of a multicast. -/
def State.lastLines (s : State) (ctx : Nat) (d : List Byte) : List Nat :=
  (castOffsets d).filterMap (fun o => match (dstRows d).getLast? with
    | none => none
    | some p => match s.translate ctx ((p.1 + o + p.2 - 1) / 64 * 64) .write with
      | .ok x => some x.gpa
      | .error _ => none)

/-- The read-back of a line of this device meets poison or a bus error (R517). -/
def State.readBackBad (s : State) (ctx : Nat) (d : List Byte) : Bool :=
  (s.lastLines ctx d).any (fun g => decide (gpaDev g = s.dev) &&
    (s.poisoned (gpaLocal g) 64 || s.deadMem (gpaLocal g) 64 || s.blockRefuses (gpaLocal g) 64))

/-- The read-back has met the poison of its lines (R406). -/
def State.meetLast (s : State) (ctx : Nat) (d : List Byte) : State :=
  (s.lastLines ctx d).foldl (fun (t : State) g => if gpaDev g = t.dev ∧ t.poisoned (gpaLocal g) 64 then t.metPoison (gpaLocal g) 64 else t) s

/-- A line on another device or in host memory that a read-back has still to bring (R517). -/
def State.readBackNeeds (s : State) (ag : Agent) (ctx : Nat) (d : List Byte) : Option Nat :=
  (s.lastLines ctx d).find? (fun g =>
    (gpaDev g != s.dev || ((regionOf (gpaLocal g)).1 == .host && decide (gpaLocal g < 0x7FFFFFF0000))) && (s.arrivedAt ag g 64).isNone)

/-- What comes of an increment: made here, sent to another device, or failed with a status (R515). -/
inductive Signal where
  | made (s : State)
  | sent (s : State)
  | fault (va level : Nat)
  | failed (status : Nat)

/-- The ATOMIC ADD that adds to a token of another device (R551). -/
def addPkt (ctx : Nat) (sched : Bool) (dev addr inc : Nat) : Packet :=
  { zeroPacket with type := ptAtomic, vc := 2, ctx := ctx, sched := sched, dst := dev, addr := addr, operand := inc }

/-- Increments the token at a context virtual address (R466, R515, R600). The token's page needs WRITE. -/
def State.signalAt (s : State) (owner : Owner) (ctx va inc : Nat) (sched : Bool) : Signal :=
  match s.translate ctx va .write with
  | .error (.pageFault a l _) => .fault a l
  | .error (.fail st _ _) => .failed st
  | .error (.ctxFault _ _ _) => .failed stLost
  | .error _ => .failed stMalformed
  | .ok x =>
    if gpaDev x.gpa = s.dev then
      match s.checkLocal s.dev ctx (gpaLocal x.gpa) 4 .atomic with
      | .error st => .failed st
      | .ok () => if (regionOf (gpaLocal x.gpa)).1 = .tokens then .made (s.addTok (tokOfAddr (gpaLocal x.gpa)) inc sched)
        else .failed stMalformed
    else
      let (op, s) := s.openOp owner ctx 1 sched false none
      .sent (s.sendOrFail op (addPkt ctx sched (gpaDev x.gpa) (gpaLocal x.gpa) inc) none)

/-- A descriptor's outcome is added to that of its list (R511): the first failure decides. -/
def Chan.gather (x : Chan) (d : DescRun) (status cause done : Nat) : Chan :=
  { x with
    flags := x.flags ||| d.flags
    fail := if statusOk status ∨ x.fail.isSome then x.fail else some (status, x.pos - 1, fieldLE d.raw 4 2, cause, done) }

/-- The list of a cue has ended (R511). -/
def State.endList (s : State) (e ch : Nat) : State :=
  let x := s.chan e ch
  match x.cue with
  | none => s
  | some idx =>
    let s := s.setChan e ch { x with cue := none, count := 0, pos := 0, fail := none, flags := 0 }
    let s := if s.chState e ch = 4 then s else s.setChState e ch 0
    match x.fail with
    | some (st, i, id, cause, done) =>
      s.cuePart e idx st x.flags 0 (leBytes i 2 ++ leBytes id 2 ++ leBytes cause 1 ++ leBytes 0 3 ++ leBytes done 4)
    | none => s.cuePart e idx stSuccess x.flags 0 []

/-- The descriptor in progress is done: registers, counters, and the list it ends (R511, R527). -/
def State.finishDesc (s : State) (e ch : Nat) (d : DescRun) (status cause done : Nat) : State :=
  let i := dmaInst e
  let s := s.dmaWr e ch CDM_CH_STAT_STATUS HDM_CH_STAT_STATUS status
  let s := if e = 16 then s.bump HDM_PC_DESCRIPTORS else s.bump CDM_PC_DESCRIPTORS 1 i
  let s := if status = stBadDesc then (if e = 16 then s.bump HDM_PC_BAD else s.bump CDM_PC_BAD 1 i) else s
  let x := s.chan e ch
  let s := s.setChan e ch { (x.gather d status cause done) with desc := none, error := none }
  let s := if s.chState e ch = 4 then s
    else s.setChState e ch (if s.chanLeft e ch = 0 then 0 else if s.chanGoes e ch then 1 else 3)
  if !s.ringMode e ch ∧ (s.chan e ch).count ≤ (s.chan e ch).pos then s.endList e ch else s

/-- Some writes of a context reach another device. -/
def State.writesFar (s : State) (ctx : Nat) (ws : List Write) : Bool :=
  ws.any (fun w => (spanPages w.va w.data.length).any (fun p => match s.translate ctx p.1 .write with
    | .ok x => decide (gpaDev x.gpa ≠ s.dev)
    | .error _ => false))

/-- The descriptor in progress waits for something, with its outcome so far. -/
def State.keepDesc (s : State) (e ch : Nat) (d : DescRun) : State :=
  s.setChan e ch { s.chan e ch with desc := some d, error := none }

/-- A descriptor is done with its outcome: the MSI-X message, the registers and the list (R511, R515). -/
def State.closeDesc (s : State) (e ch : Nat) (d : DescRun) : State :=
  let s := if dMsi d.raw && e == 16 then s.msix (s.chan e ch).ctx (s.rd HDM_CH_CTL_VECTOR 0 ch) else s
  (s.finishDesc e ch d d.status d.cause d.done).clearArrived (.chan e ch)

/-- The write-back of a descriptor of a ring, then `k` (R514): CAUSE, DONE_BYTES and the flags, and once they are visible bytes 0 and 1. On
another device each part is awaited: stage 1 and 2 of the descriptor. A page fault pauses the channel, and is then repeated (R519). -/
def State.backThen (s : State) (e ch : Nat) (d : DescRun) (k : State → State) : State :=
  let x := s.chan e ch
  if !s.ringMode e ch || d.stage == 2 then k s
  else
    let ws := writeBack d d.status d.cause d.done
    match s.checkWrites x.ctx ws with
    | .error (.pageFault a l w) => if x.error = some stPageFault then k s else (s.keepDesc e ch d).pauseChan e ch x.ctx a l w
    | .error .wait => s.keepDesc e ch d
    | .error (.frame _) => s.keepDesc e ch d
    | .error _ => k s
    | .ok () =>
      if s.writesFar x.ctx ws then
        let t := s.writeAll (.chan e ch) x.ctx false (if d.stage = 0 then ws.take 2 else ws.drop 2)
        t.keepDesc e ch { d with stage := d.stage + 1 }
      else k (s.writeAll (.agent (.chan e ch)) x.ctx false ws)

/-- What has become of the descriptor in progress (R517, R519): a write or a read-back that has failed ends it with 0x22, and its destination
is undefined; so does an increment that has failed on another device, whose write-back is repeated (R515). -/
def State.descOutcome (s : State) (e ch : Nat) (d : DescRun) : DescRun × State :=
  let x := s.chan e ch
  let first := d.stage == 0 && !d.sent
  let err := match x.error with | some st => if st = stPageFault then none else some st | none => none
  let late := first && statusOk d.status && err.isSome
  let bad := first && !late && statusOk d.status && d.status != stFlags && s.readBackBad x.ctx d.raw
  if late || bad then
    let (v, s) := ((s.meetLast x.ctx d.raw).undefineRows x.ctx d.raw).free
    ({ d with status := stBadDesc, cause := if late then err.getD 0 else stBus, done := v % (dTotal d.raw + 1) }, s)
  else if d.sent && err.isSome then ({ d with status := stBadDesc, cause := err.getD 0, stage := 0 }, s)
  else (d, s)

/-- The increment of a descriptor (R515), which one that names no token, or was abandoned, has not. -/
def DescRun.increments (d : DescRun) : Bool :=
  fieldLE d.raw 40 8 != 0 && !d.sent && d.flags &&& flAbandoned == 0 && (d.status != stMalformed || decide (fieldLE d.raw 40 8 < 2 ^ 49))

/-- The write-back, the increment, and the end of a descriptor (R514, R515). -/
def State.completeDesc (s : State) (e ch : Nat) (d : DescRun) : State :=
  s.backThen e ch d (fun s =>
    let x := s.chan e ch
    let d := { d with stage := 2 }
    let failed (st : Nat) : State :=
      let d := { d with status := stBadDesc, cause := st, sent := true, stage := 0 }
      s.backThen e ch d (fun t => t.closeDesc e ch d)
    if !d.increments then s.closeDesc e ch d
    else match s.signalAt (.chan e ch) x.ctx (fieldLE d.raw 40 8) (fieldLE d.raw 48 2) (!s.ringMode e ch) with
      | .made t => t.closeDesc e ch d
      | .failed st => failed st
      | .fault a l => if x.error = some stPageFault then failed stPageFault else (s.keepDesc e ch d).pauseChan e ch x.ctx a l true
      | .sent w => w.setChan e ch { w.chan e ch with out := x.out + 1, error := none, desc := some { d with sent := true } })

/-- DESCRIPTOR_COMPLETE (R514, R515, R517, R519): the read-back, of another device's or host memory by a read, then the rest. -/
def descriptorCompleteEffect (e ch : Nat) (s : State) : State :=
  let x := s.chan e ch
  match x.desc with
  | none => s
  | some d =>
    let reads := statusOk d.status && d.status != stFlags && d.stage == 0 && !d.sent && x.error.isNone
    match if reads then s.readBackNeeds (.chan e ch) x.ctx d.raw else none with
    | some g => s.ask (.chan e ch) x.ctx (!s.ringMode e ch) g 64
    | none => let r := s.descOutcome e ch d; r.2.completeDesc e ch r.1

/-! ### Enabling and disabling a channel (R522 to R524) -/

/-- CH_ENABLE (R524, R527, R727). -/
def chEnableEffect (e ch : Nat) (s : State) : State :=
  let st := s.chState e ch
  if st = 5 then
    let x := s.chan e ch
    ((s.setChan e ch { x with force := false, stopped := false }).setChState e ch 0).dmaWr e ch CDM_CH_CTL_ENABLE HDM_CH_CTL_ENABLE 1
  else if st ≤ 4 then s
  else s.cfgErr (dmaPage e) (dmaInst e)

def execChEnable (engine ch : Nat) (s : State) : Host.Outcome State Fault Refusal :=
  s.rails (chanExists engine ch) (chEnableEffect engine ch)

/-- CH_DISABLE_REQ (R522): the channel drains; one that drains already, paused at a fault, goes on so. -/
def chDisableEffect (e ch : Nat) (s : State) : State :=
  if s.chState e ch ≤ 3 ∧ !s.draining e ch then
    let x := s.chan e ch
    ((s.setChan e ch { x with bell := s.chanBell e ch }).setChState e ch 4).dmaWr e ch CDM_CH_CTL_DISABLE_REQ HDM_CH_CTL_DISABLE_REQ 1
  else s

def execChDisableReq (engine ch : Nat) (s : State) : Host.Outcome State Fault Refusal :=
  s.rails (chanExists engine ch) (chDisableEffect engine ch)

/-- CH_FORCE_OFF (R523): the descriptor in progress is abandoned with 0x41. -/
def chForceEffect (e ch : Nat) (s : State) : State :=
  if s.chState e ch ≤ 4 then
    let s := if s.chState e ch = 4 then s else s.setChan e ch { s.chan e ch with bell := s.chanBell e ch }
    let x := s.chan e ch
    let s := (s.leaveSlots (.chan e ch)).setChan e ch { x with
      force := true, paused := false, error := none
      desc := x.desc.map (fun d => { d with
        moved := true, status := stRefused, cause := 0, flags := d.flags ||| flAbandoned, done := if d.moved then d.done else 0 }) }
    (s.setChState e ch 4).dmaWr e ch CDM_CH_CTL_FORCE_OFF HDM_CH_CTL_FORCE_OFF 1
  else s

def execChForceOff (engine ch : Nat) (s : State) : Host.Outcome State Fault Refusal :=
  s.rails (chanExists engine ch) (chForceEffect engine ch)

/-- A descriptor of a ring that is not executed is written back with 0x41 (R522): the state and whether the next one can follow. What the
write-back needs is waited for, and a page fault pauses the channel. -/
def State.refuseDesc (s : State) (e ch : Nat) : Bool × State :=
  let ctx := s.chanCtx e ch
  let a := s.chanNext e ch
  let next (s : State) : Bool × State := (true, (s.clearArrived (.chan e ch)).dmaWr e ch CDM_CH_HEAD HDM_CH_HEAD (s.chanHead e ch + 1))
  let stop (x : Stop) : Bool × State := match x with
    | .pageFault va l w => if (s.chan e ch).error = some stPageFault then next (s.setChan e ch { s.chan e ch with error := none })
        else (false, s.pauseChan e ch ctx va l w)
    | .need g n => (false, s.ask (.chan e ch) ctx false g n)
    | .wait => (false, s)
    | .frame _ => (false, s)
    | _ => next s
  match s.readV (.chan e ch) ctx a 64 with
  | .error x => stop x
  | .ok raw =>
    let d : DescRun := { raw := raw, addr := a, moved := true, status := stRefused, cause := 0, flags := 0, done := 0, sent := false }
    match s.checkWrites ctx (writeBack d stRefused 0 0) with
    | .ok () => next (s.writeAll (.chan e ch) ctx false (writeBack d stRefused 0 0))
    | .error x => stop x

/-- Refuses the descriptors that a draining ring has left, until one has to wait. -/
def State.refuseRing (s : State) (e ch : Nat) : Nat → Bool × State
  | 0 => (true, s)
  | n + 1 => match s.refuseDesc e ch with
    | (true, t) => t.refuseRing e ch n
    | r => r

/-- Bytes that an agent asked for are still on their way to it. -/
def State.readsFly (s : State) (ag : Agent) : Bool := s.asked.any (fun x => x.agent == ag && x.data.isEmpty)

/-- CHANNEL_DISABLED (R522, R523): what the channel has not executed ends with 0x41; once that is written and nothing of the channel is
outstanding, it is disabled. -/
def channelDisabledEffect (e ch : Nat) (s : State) : State :=
  let r := if s.ringMode e ch then s.refuseRing e ch (ringLeft (s.chanBell e ch) (s.chanHead e ch)) else (true, s)
  let s := r.2
  let x := s.chan e ch
  if !r.1 || x.out != 0 then s
  else
    let s := s.clearArrived (.chan e ch)
    let s := match (if s.ringMode e ch then none else x.cue) with
      | none => s
      | some idx =>
        let s := s.setChan e ch { x with cue := none, count := 0, pos := 0, fail := none, flags := 0 }
        s.cuePart e idx stRefused (x.flags ||| (if x.force then flAbandoned else 0)) 0 (leBytes x.pos 2)
    let s := (s.setChan e ch { s.chan e ch with force := false, error := none }).setChState e ch 5
    let s := (s.dmaWr e ch CDM_CH_CTL_ENABLE HDM_CH_CTL_ENABLE 0).dmaWr e ch CDM_CH_CTL_DISABLE_REQ HDM_CH_CTL_DISABLE_REQ 0
    s.dmaWr e ch CDM_CH_CTL_FORCE_OFF HDM_CH_CTL_FORCE_OFF 0

def execChannelDisabled (engine ch : Nat) (s : State) : Host.Outcome State Fault Refusal :=
  s.rails (chanExists engine ch && s.chState engine ch == 4 && (let x := s.chan engine ch
      x.out == 0 && x.desc.isNone && !x.paused && !s.readsFly (.chan engine ch)) && !(s.drainRuns engine ch && decide (0 < s.chanLeft engine ch)))
    (channelDisabledEffect engine ch)

/-! ### Seat copies (R525, R526) -/

def seatFields : List (Nat × Nat) := idFields ++ [byteSpan 24 8, byteSpan 64 64]

/-- The descriptor of a seat copy with its run-time shape. -/
def seatDesc (raw : List Byte) (rows bytes : Nat) : List Byte := splice (raw.drop 64) 24 (leBytes bytes 4 ++ leBytes rows 4)

/-- The fields that a seat copy's descriptor leaves zero (R525). -/
def seatDescOk (d : List Byte) (kind : Nat) : Bool :=
  dKind d == kind && fieldBits d 0 0 1 == 0 && !dMsi d && zeroSpan d 1 2 && fieldBits d 3 6 2 == 0 && zeroSpan d 40 10 && zeroSpan d 52 4

/-- The pieces of a seat copy (R526): destination row, offset in it, bytes. -/
def seatPieces (d : List Byte) : List (Nat × Nat × Nat) :=
  (dstRows d).zipIdx.flatMap (fun r => (spanPages r.1.1 r.1.2).map (fun p => (r.2, p.1 - r.1.1, p.2)))

/-- Decode of COPY and TRANSPOSE_COPY (R131, R508, R525). A seat lane of an engine that is not enabled refuses (R524). -/
def State.decodeSeatCopy (s : State) (i : Nat) (b : Block) (raw : List Byte) (kind : Nat) : Except Decoded Run := do
  let d := raw.drop 64
  need (onlyFields raw seatFields && ptrOk (fieldLE raw 24 8) && seatDescOk d kind && descOk d false) stMalformed
  need (s.blk .cdm (i / 9) == 1) stRefused
  let dims ← access (s.shapeOf (.core i) b.ctx raw [dRows d, dRowBytes d])
  let m := dims.getD 0 0
  let n := dims.getD 1 0
  need (decide (m ≤ dRows d) && decide (n ≤ dRowBytes d)) stShape
  if m = 0 ∨ n = 0 then throw (.done flZeroShape)
  return { emptyRun raw with m := m, n := n, steps := (seatPieces (seatDesc raw m n)).length }

/-- One piece of a seat copy: its bytes and where they go. -/
def State.seatPiece (s : State) (i : Nat) (b : Block) (r : Run) : Except Stop StepOut := do
  let d := seatDesc r.raw r.m r.n
  let ag := Agent.core i
  match (seatPieces d)[r.step]? with
  | none => return { writes := [], locals := [], run := r }
  | some (row, off, n) => do
    let s := s.uncached b.ctx (if dKind d = 1 then srcRows d else [(rowVa (dSrc d) (dSrcStride d) row + off, n)])
    let bytes ← if dKind d = 1 then do
        let src ← s.readRows ag b.ctx (srcRows d)
        pure (((transposeRow (dElem d) src row).drop off).take n)
      else s.readV ag b.ctx (rowVa (dSrc d) (dSrcStride d) row + off) n
    if dMcast d then s.castOk (i / 9) b.ctx d
    let va := rowVa (dDst d) (dDstStride d) row + off
    return { writes := (castOffsets d).map (fun o => { va := va + o, data := bytes }), locals := [], run := r }

/-- The watch slot that a seat copy arms with its first piece (R450). -/
def State.seatWatch (s : State) (ctx : Nat) (r : Run) : Arming :=
  if r.step = 0 then s.armWatch ctx (seatDesc r.raw r.m r.n) else .go s

/-- After the last piece of a seat copy the read-back of what it wrote meets poison (R517, R526). -/
def State.castBack (s : State) (i : Nat) (b : Block) (r : Run) (t : State) (o : StepOut) : Bool :=
  decide (r.steps ≤ r.step + 1) && (match s.checkWrites b.ctx o.writes with
    | .ok () => (t.writeAll (.core i) b.ctx b.sched o.writes).readBackBad b.ctx (seatDesc r.raw r.m r.n)
    | .error _ => false)

/-- A step of COPY or TRANSPOSE_COPY. -/
def State.stepSeatCopy (s : State) (i : Nat) (b : Block) (r : Run) : State :=
  match s.seatWatch b.ctx r with
  | .bad => s.failCommand i stMalformed (fieldLE r.raw 2 2)
  | .wait => s
  | .go t =>
    let c := i / 9
    let out := s.seatPiece i b r
    let u := (match out with | .ok _ => t | .error _ => s).stepDone i b none (0, 0) (fun v q => (v.countTiles c b.ctx (seatDesc q.raw q.m q.n)).bump CDM_PC_DESCRIPTORS 1 c) out
    match out with
    | .ok o =>
      if s.castBack i b r t o then
        ((t.writeAll (.core i) b.ctx b.sched o.writes).meetLast b.ctx (seatDesc r.raw r.m r.n)).failCommand i stBus (fieldLE r.raw 2 2)
      else
      let n := match o.writes with | w :: _ => w.data.length | [] => 0
      if s.rd CORE_PC_STEPS i = u.rd CORE_PC_STEPS i then u
      else (u.bump CDM_PC_BYTES_READ n c).bump CDM_PC_BYTES_WRITTEN (n * o.writes.length) c
    | .error _ => u

def execCopy (core : Nat) (s : State) : Host.Outcome State Fault Refusal :=
  s.rails (s.decodes core 0x01) (fun s => s.asSeat core (fun s => s.decodeWith core (fun b raw => asDecoded (s.decodeSeatCopy core b raw 0))))

def execTransposeCopy (core : Nat) (s : State) : Host.Outcome State Fault Refusal :=
  s.rails (s.decodes core 0x02) (fun s => s.asSeat core (fun s => s.decodeWith core (fun b raw => asDecoded (s.decodeSeatCopy core b raw 1))))

end Sys2Proof.Machine
end

