-- ==== Sys2Proof/Machine/Tasks.lean ====
section
/-!
DEFINITION. Tasks and their placement (R598 to R604), saves and restores of seats and crews (R605 to R612), the pre-emption of a
context (R608), its accounting (R597).
-/
namespace Sys2Proof.Machine

/-! ### Task descriptors (R598, R599) -/

/-- A task descriptor breaks no rule of R599. -/
def taskOk (d : List Byte) : Bool :=
  let fixed := bitOf (fieldLE d 0 1) 2
  fieldBits d 0 3 5 == 0 && fieldBits d 4 7 1 == 0 && fieldBits d 6 3 4 == 0 && zeroSpan d 7 1 && zeroSpan d 42 22 &&
  decide (1 ≤ fieldLE d 8 4) && decide (fieldLE d 8 4 ≤ 4096) && (fieldLE d 32 8 == 0 || fieldLE d 40 2 != 0) &&
  (!fixed || decide (fieldBits d 4 0 7 ≤ 127))

/-- The seat that a task names (FIXED_SEAT). -/
def taskSeat (d : List Byte) : Option Nat := if bitOf (fieldLE d 0 1) 2 then some (fieldBits d 4 0 7) else none

/-- The MSI-X vector of a task. -/
def taskVector (d : List Byte) : Nat := fieldLE d 5 1 + fieldBits d 6 0 3 * 256

/-- Doorbell of a context's task ring (R598, R614). -/
def State.taskBell (s : State) (ctx : Nat) : Nat := (s.tok (tokGlobal (s.rd CTX_TASK_RING_CTL_TOKEN ctx))).toNat

/-- Address of the next task descriptor of a context's ring. -/
def State.taskNext (s : State) (ctx : Nat) : Nat :=
  s.rd CTX_TASK_RING_BASE ctx + s.rd CTX_TASK_HEAD ctx % 2 ^ s.rd CTX_TASK_RING_CTL_SIZE_LOG2 ctx * 64

/-- Tasks that the context's ring still holds: those counted at the drain request once it drains (R595, R717). -/
def State.tasksLeft (s : State) (ctx : Nat) : Nat :=
  ringLeft (if s.blk .ctx ctx = 2 then Tab.look s.ctxBell ctx 0 else s.taskBell ctx) (s.rd CTX_TASK_HEAD ctx)

/-- A context's tasks may be placed: it is enabled and not pre-empted or lost, and of a draining one only what its drain keeps. -/
def State.tasksRun (s : State) (ctx : Nat) : Bool :=
  !s.preempted ctx && !s.lost.contains ctx && (s.blk .ctx ctx == 1 || s.blk .ctx ctx == 2)

/-! ### Completion (R600) -/

/-- What the task unit writes back into a descriptor (R598, R600). -/
def taskBack (a : Nat) (d : List Byte) (status fail : Nat) (abandoned : Bool) : List Write :=
  [{ va := a + 6, data := leBytes (fieldBits d 6 0 3 + b2n abandoned * 128) 1 },
   { va := a + 12, data := leBytes fail 4 },
   { va := a, data := leBytes (fieldLE d 0 1 / 2 * 2) 1 ++ leBytes status 1 }]

/-- An access of the task unit that does not complete now: it waits (R476); any other failure is passed over. -/
def Stop.waits : Stop → Bool
  | .pageFault _ _ _ => true
  | .wait => true
  | .frame _ => true
  | _ => false

/-- Takes a fault for the task unit. -/
def State.taskFault (s : State) (ctx id : Nat) : Stop → State
  | .pageFault a l w => s.takeFault .tasks ctx a l w id
  | _ => s

/-- An access of the task unit to some addresses: it waits while its fault is outstanding (R476), and one whose fault has been aborted is a
failure with 0x20 (R484). -/
def State.taskTry {α : Type} (s : State) (ctx : Nat) (vas : List Nat) (r : Except Stop α) : Except Stop α :=
  match vas.find? (fun v => s.faultAborted 128 ctx v) with
  | some v => .error (.fail stPageFault v false)
  | none =>
    if s.faultHeld (fun f a => a.1 == .tasks && f.ctx == ctx && vas.any (fun v => v / 65536 == f.page)) then .error .wait else r

/-- Addresses of writes. -/
def writeVas (ws : List Write) : List Nat := ws.map (fun w => w.va)

/-- How a completion went: still waiting, or done with its increment made, or sent to another device. -/
inductive TaskEnd where
  | waits (s : State)
  | done (s : State)
  | sent (s : State)

/-- Completes a task but for its message (R600): the write-back, the status record, the increment. An abandoned task makes no
increment (log 29). -/
def State.completeTask (s : State) (owner : Owner) (ctx a : Nat) (d : List Byte) (status flags fail : Nat)
    (detail : List Byte) : TaskEnd :=
  let id := fieldLE d 2 2
  let abandoned := flags &&& flAbandoned != 0
  let back := taskBack a d status fail abandoned
  let rp := fieldLE d 24 8
  let record : List Write := if rp = 0 then [] else [{ va := rp, data := statusRecord status 1 id flags s.stroke detail }]
  match s.taskTry ctx (writeVas back) (s.checkWrites ctx back), s.taskTry ctx (writeVas record) (s.checkWrites ctx record) with
  | .error e, r => if e.waits then .waits (s.taskFault ctx id e) else
    match r with
    | .error e' => if e'.waits then .waits (s.taskFault ctx id e') else .done s
    | .ok () => .done (s.writeAll .message ctx false record)
  | .ok (), .error e => if e.waits then .waits (s.taskFault ctx id e) else .done (s.writeAll .message ctx false back)
  | .ok (), .ok () =>
    let sp := fieldLE d 32 8
    if sp = 0 ∨ abandoned then .done ((s.writeAll .message ctx false back).writeAll .message ctx false record)
    else match s.taskTry ctx [sp] (s.translate ctx sp .write) with
      | .error e => if e.waits then .waits (s.taskFault ctx id e)
        else .done ((s.writeAll .message ctx false back).writeAll .message ctx false record)
      | .ok _ =>
        let t := (s.writeAll .message ctx false back).writeAll .message ctx false record
        match t.signalAt owner ctx sp (fieldLE d 40 2) false with
        | .made u => .done u
        | .sent u => .sent u
        | _ => .done t

/-- The message of a task (R590, R600). -/
def State.taskMessage (s : State) (ctx : Nat) (d : List Byte) : State :=
  if bitOf (fieldLE d 0 1) 1 then s.msix ctx (taskVector d) else s

/-- Bytes of the descriptor of the task that a block runs, and its address. -/
def Block.task (b : Block) : List Byte × Nat :=
  match b.rows with
  | r :: _ => (r.raw, r.first)
  | [] => (leBytes 0 64, 0)

/-- The task of a seat has ended and waits for its completion. -/
def State.taskEnded (s : State) (i : Nat) : Bool :=
  let x := s.core i
  match x.block with
  | some b => b.kind == 2 && x.error.isSome && decide (b.count ≤ b.pos) && x.out == 0 && x.run.isNone
  | none => false

/-! ### Saves and restores (R605 to R612) -/

/-- Global logical index of a seat (R24). -/
def State.homeOf (s : State) (i : Nat) : Nat := 8 * (i / 9) + (s.seatOf i).getD 0

/-- Global physical address of an offset of a context's wings, in the pinned translation store (R488). -/
def State.wingsAt (s : State) (ctx off : Nat) : Nat :=
  ((Tab.look s.pinned ctx []).getD (off / 0x200000) 0) + off % 0x200000

/-- Offsets of a seat slot and of a crew slot (R612). -/
def seatSlotOff (slot : Nat) : Nat := 0x200000 + slot * 0x400000
def State.crewSlotOff (s : State) (ctx slot : Nat) : Nat :=
  0x200000 + s.rd CTX_WINGS_CFG_SEAT_SLOTS ctx * 0x400000 + slot * 0x1200000

/-- The command of a core: the one it runs, or the one it has fetched. -/
def Core.command (x : Core) : List Byte :=
  match x.run, x.next with
  | some r, _ => r.raw
  | none, some raw => raw
  | none, none => leBytes 0 128

/-- The live-map entry of a command (R607): masks of the scratchpad and of the crew store. Without a live map, or where its entry
cannot be read, everything is live. -/
def State.liveMasks (s : State) (ctx : Nat) (raw : List Byte) : Nat × Nat :=
  let all := (2 ^ 96 - 1, 2 ^ 256 - 1)
  let m := s.rd CTX_LIVE_MAP ctx
  if m = 0 then all
  else match s.readV .tasks ctx (m + 64 * fieldLE raw 2 2) 64 with
    | .ok r => (fieldLE r 0 12, fieldLE r 16 32)
    | .error _ => all

/-- The live-map entry of a step save lies on another device and has not come (R442). -/
def State.liveNeed (s : State) (ctx : Nat) (raw : List Byte) : Option (Nat × Nat) :=
  let m := s.rd CTX_LIVE_MAP ctx
  if m = 0 then none
  else match s.readV .tasks ctx (m + 64 * fieldLE raw 2 2) 64 with
    | .error (.need g n) => some (g, n)
    | _ => none

/-- The seat record of a save (R612), as far as its layout is given; the core state follows in a form that is not. -/
def State.seatRecord (s : State) (i : Nat) (b : Block) (x : Core) (step : Bool) (mask : Nat) : List Byte :=
  let cueId := match (s.cox (i / 9)).cur with | some sh => ((sh.cues[b.cue]?).map (fun q => q.id)).getD 0 | none => 0
  let id := if b.kind = 2 then fieldLE b.task.1 2 2 else cueId
  leBytes (if step then 2 else 1) 1 ++ leBytes (if b.kind = 2 then 0 else 1) 1 ++ leBytes id 2 ++ leBytes (s.homeOf i) 1 ++ leBytes 0 3 ++
    leBytes b.addr 8 ++ leBytes b.pos 4 ++ leBytes (if step then (x.run.map (fun r => r.step)).getD 0 else 0) 4 ++ leBytes mask 12 ++
    leBytes 0 4 ++ leBytes s.stroke 8 ++ leBytes 0 16 ++ x.command

/-- Copies the live granules between a memory of this device and a slot of the wings. -/
def State.granulesOut (s : State) (ctx base off size mask n : Nat) : State :=
  (setBits mask n).foldl (fun (t : State) g => t.putOwn (t.wingsAt ctx (off + g * size)) (t.rdMem (base + g * size) size)) s

def State.granulesIn (s : State) (ctx base off size mask n : Nat) : State :=
  (setBits mask n).foldl (fun (t : State) g =>
    let a := t.wingsAt ctx (off + g * size)
    if gpaDev a = t.dev then t.store (base + g * size) 0 false (t.rdMem (gpaLocal a) size)
    else match t.arrivedAt .tasks a size with
      | some d => t.store (base + g * size) 0 false d
      | none => t) s

/-- Granules of the wings that lie on another device and have not arrived, asked for (R488, R551). -/
def State.granulesWanted (s : State) (ctx off size mask n : Nat) : List Nat :=
  ((setBits mask n).map (fun g => s.wingsAt ctx (off + g * size))).filter (fun a =>
    gpaDev a != s.dev && (s.arrivedAt .tasks a size).isNone)

/-- The free value marks of the device's own fields in the wings: the header and the core state (log 30). -/
def State.undefWings (s : State) (ctx off n : Nat) : State :=
  let a := s.wingsAt ctx off
  if gpaDev a = s.dev then s.undefine (gpaLocal a) n else s

/-- The lowest slot below a number that no save holds. -/
def freeSlotIn (used : List Nat) (n : Nat) : Option Nat := (List.range n).find? (fun k => !used.contains k)

/-- SEAT_SLOTS_USED and CREW_SLOTS_USED (R614). -/
def State.showSlots (s : State) (ctx : Nat) : State :=
  (s.wr CTX_STAT_SEAT_SLOTS_USED (s.saved.filter (fun a => a.2.ctx == ctx && decide (a.2.slot < 128))).length ctx).wr
    CTX_STAT_CREW_SLOTS_USED (s.crewSaves.filter (fun a => a.2.ctx == ctx)).length ctx

/-- What a save meets in the scratchpad: poison loses the context (R611). -/
def State.livePoison (s : State) (base size mask n : Nat) : Bool :=
  !s.poison.isEmpty && (setBits mask n).any (fun g => s.poisoned (base + g * size) size)

/-- An uncorrectable error in the data of a context's wings loses the context (R489, R611). -/
def State.loseWings (s : State) (ctx : Nat) : State := if s.lost.contains ctx then s else s.markLost ctx

/-- The seat of a core whose save may end now (R605): a step save at once, a boundary save between commands. -/
def State.saveReady (s : State) (i : Nat) : Bool :=
  let x := s.core i
  match x.block with
  | none => false
  | some b => x.out == 0 && (x.saving == 1 || (x.saving == 2 && x.run.isNone && decide (b.pos < b.count)))

/-- The crews that ran a sheet of a pre-empted context save what its stopped commands hold live (R608, R612). -/
def State.saveCrews (s : State) (ctx : Nat) : State :=
  (List.range 16).foldl (fun (t : State) c =>
    let mine := t.saved.filter (fun a => a.2.ctx == ctx && a.2.home / 8 == c && !a.2.boundary &&
      (match a.2.what.block with | some b => b.kind != 2 | none => false))
    let mask := mine.foldl (fun (m : Nat) a => m ||| a.2.masks.2) 0
    let used := (t.crewSaves.filter (fun a => a.2.ctx == ctx)).map (fun a => a.2.slot)
    if mask = 0 then t
    else match freeSlotIn used (t.rd CTX_WINGS_CFG_CREW_SLOTS ctx) with
      | none => t
      | some j =>
        let off := t.crewSlotOff ctx j
        let t := if t.livePoison (crewStoreBase c) 65536 mask 256 then t.loseWings ctx else t
        let t := (t.granulesOut ctx (crewStoreBase c) (off + 0x200000) 65536 mask 256).undefWings ctx off 4096
        let t := t.bump CTX_PC_SAVED_BYTES (4096 + popBits mask 256 * 65536) ctx
        { t with crewSaves := Tab.put t.crewSaves c { ctx := ctx, slot := j, mask := mask } }) s

/-- Everything of a context that is being pre-empted stands still (R608): the crews save, and the context is pre-empted. -/
def State.settlePreempt (s : State) (ctx : Nat) : State :=
  let busy := s.cores.any (fun c => match c.2.block with | some b => b.ctx == ctx | none => false) ||
    s.chans.any (fun c => c.2.desc.isSome && !c.2.paused && c.2.ctx == ctx)
  if s.rd CTX_STAT_STATE ctx = 2 ∧ !busy then ((s.saveCrews ctx).setCtxState ctx 3).showSlots ctx else s

/-- DESCRIPTOR_COMPLETE (R505, R513 to R519): the row runs when everything the descriptor sent is answered and its writes to a register
window have taken effect (R93); a context that is being pre-empted goes on with its pre-emption when its last descriptor ends (R521). -/
def execDescriptorComplete (engine ch : Nat) (s : State) : Host.Outcome State Fault Refusal :=
  s.rails (chanExists engine ch && s.regWrites.isEmpty && (let x := s.chan engine ch
      x.out == 0 && !x.paused && (match x.desc with | some d => d.moved | none => false)))
    (fun t => (descriptorCompleteEffect engine ch t).settlePreempt (t.chan engine ch).ctx)

/-- A seat is saved (R143, R605 to R611). -/
def State.saveSeat (s : State) (i : Nat) (b : Block) : State :=
  let x := s.core i
  let step := x.saving == 1
  let masks := if step then s.liveMasks b.ctx x.command else (0, 0)
  let mask := masks.1
  let s := s.clearArrived .tasks
  let base := scratchBase (i / 9) ((s.seatOf i).getD 0)
  let used := (s.saved.filter (fun a => a.2.ctx == b.ctx)).map (fun a => a.2.slot)
  let slot := freeSlotIn used (s.rd CTX_WINGS_CFG_SEAT_SLOTS b.ctx)
  let bad := s.livePoison base 32768 mask 96
  let pin := step && b.kind == 2 && (taskSeat b.task.1).isSome
  let s := if step then s else s.noteSave i b.ctx false
  let s := match slot with
    | none => s
    | some k =>
      let off := seatSlotOff k
      let s := s.putOwn (s.wingsAt b.ctx off) (s.seatRecord i b x step mask)
      let s := (s.granulesOut b.ctx base (off + 4096) 32768 mask 96).undefWings b.ctx (off + 192) 3904
      (s.undefWings b.ctx 0 0x200000).bump CTX_PC_SAVED_BYTES (4096 + popBits mask 96 * 32768) b.ctx
  let what : Core := { x with stalled := false, held := false, saving := 0 }
  let sv : Saved := { ctx := b.ctx, slot := slot.getD 255, home := s.homeOf i, pinned := pin, boundary := !step, what := what, masks := masks }
  let s : State := { s with saved := s.saved ++ [(s.nextSave, sv)], nextSave := s.nextSave + 1 }
  let s := ((((s.leaveSlots (.core i)).clearArrived (.core i)).setCore i default).showIdle i).showSlots b.ctx
  let s := if bad then (s.loseWings b.ctx).settleLost else s
  s.settlePreempt b.ctx

/-- SAVE_COMPLETE (R143, R442, R605 to R611): a live-map entry of another device is asked for first. -/
def saveCompleteEffect (i : Nat) (s : State) : State :=
  let x := s.core i
  match x.block with
  | none => s
  | some b => match (if x.saving = 1 then s.liveNeed b.ctx x.command else none) with
    | some (g, n) => s.ask .tasks b.ctx false g n
    | none => s.saveSeat i b

def execSaveComplete (core : Nat) (s : State) : Host.Outcome State Fault Refusal :=
  s.rails (decide (core < 144) && s.saveReady core) (saveCompleteEffect core)

/-- Starts the restore of a save on a seat (R609). -/
def State.startRestore (s : State) (i key : Nat) (a : Saved) : State :=
  s.setCore i { (default : Core) with block := a.what.block, saving := 3, wait := some (key, 0) }

/-- Restores the scheduled work that was saved from a seat, unless its context is pre-empted (R608, R609). -/
def State.restoreHome (s : State) (i : Nat) : State :=
  let x := s.core i
  if x.block.isSome ∨ x.saving ≠ 0 then s
  else match s.saved.find? (fun a => a.2.home == s.homeOf i && !(s.rd CTX_STAT_STATE a.2.ctx == 2 || s.rd CTX_STAT_STATE a.2.ctx == 3) &&
      (match a.2.what.block with | some b => b.kind != 2 | none => false)) with
    | some a => s.startRestore i a.1 a.2
    | none => s

/-- The mask of the granules that a save holds. -/
def State.savedMask (s : State) (a : Saved) : Nat :=
  if a.boundary ∨ 128 ≤ a.slot then 0
  else
    let g := s.wingsAt a.ctx (seatSlotOff a.slot + 24)
    if gpaDev g = s.dev then s.rdLE (gpaLocal g) 12 else a.masks.1

/-- A context has nothing left to restore: it runs (R608). -/
def State.settleResume (s : State) (ctx : Nat) : State :=
  if s.rd CTX_STAT_STATE ctx = 4 ∧ !s.saved.any (fun a => a.2.ctx == ctx && (match a.2.what.block with | some b => b.kind != 2 | none => false))
  then s.setCtxState ctx 1 else s

/-- RESTORE_COMPLETE (R609, R611): the granules are back and the seat goes on where it stopped. -/
def restoreCompleteEffect (i : Nat) (s : State) : State :=
  match (s.core i).wait with
  | none => s
  | some (key, _) => match Tab.find s.saved key with
    | none => s.setCore i default
    | some a =>
      let mask := s.savedMask a
      let off := seatSlotOff a.slot + 4096
      let want := s.granulesWanted a.ctx off 32768 mask 96
      if !want.isEmpty then want.foldl (fun (t : State) g => t.ask .tasks a.ctx false g 32768) s
      else
        let bad := (setBits mask 96).any (fun g => let w := s.wingsAt a.ctx (off + g * 32768)
          decide (gpaDev w = s.dev) && s.poisoned (gpaLocal w) 32768)
        let s := (s.granulesIn a.ctx (scratchBase (i / 9) ((s.seatOf i).getD 0)) off 32768 mask 96).clearArrived .tasks
        let s : State := { s with saved := s.saved.filter (fun e => e.1 != key) }
        let s := ((s.setCore i { a.what with held := s.stkState == 3 }).showSlots a.ctx)
        let s := match a.what.run, a.what.next, a.what.block with
          | some r, _, some b => ((((s.wr CORE_STATE_STATE (s.seatCode i) i).wr CORE_STATE_OPCODE (fieldLE r.raw 0 1) i).wr CORE_STATE_CMD_INDEX b.pos i).wr
              CORE_CMD_ADDR (b.addr + b.pos * 128) i).wr CORE_STEPS_LEFT (r.steps - r.step) i
          | none, some raw, some b => (((s.wr CORE_STATE_STATE (s.seatCode i) i).wr CORE_STATE_OPCODE (fieldLE raw 0 1) i).wr CORE_STATE_CMD_INDEX b.pos i).wr
              CORE_CMD_ADDR (b.addr + b.pos * 128) i
          | _, _, _ => s
        let s := if bad then (s.loseWings a.ctx).settleLost else s.fetchNext i
        s.settleResume a.ctx

def execRestoreComplete (core : Nat) (s : State) : Host.Outcome State Fault Refusal :=
  s.rails (decide (core < 144) && (s.core core).saving == 3) (restoreCompleteEffect core)

/-! ### Placement (R601 to R604) -/

/-- The physical cores of the seats in the order of their global logical index (R24). -/
def State.seats (s : State) : List Nat := (List.range 128).map (fun g => s.coreOf (g / 8) (g % 8))

/-- Work that waits for a seat: a save, or a task of a ring with its descriptor. -/
inductive Waiting where
  | saved (key : Nat) (a : Saved)
  | ring (ctx : Nat) (d : List Byte)

def Waiting.ctx : Waiting → Nat
  | .saved _ a => a.ctx
  | .ring c _ => c

/-- The seat that work must have. -/
def Waiting.seat : Waiting → Option Nat
  | .saved _ a => if a.pinned then some a.home else match a.what.block with | some b => taskSeat b.task.1 | none => none
  | .ring _ d => taskSeat d

/-- Contexts in descending priority, then ascending number (R602). -/
def State.ctxOrder (s : State) : List Nat :=
  [3, 2, 1, 0].flatMap (fun p => (List.range 64).filter (fun c => s.rd CTX_CTL_PRIORITY c == p))

/-- A seat that restores a save already. -/
def State.restoring (s : State) (key : Nat) : Bool := s.cores.any (fun c => c.2.saving == 3 && c.2.wait == some (key, 0))

/-- The saved tasks of a context in the order of their saving; an abandoned one is not placed again. -/
def State.savedTasks (s : State) (ctx : Nat) : List Waiting :=
  (s.saved.filter (fun a => a.2.ctx == ctx && (match a.2.what.block with | some b => b.kind == 2 | none => false) && a.2.what.error.isNone && !s.restoring a.1)).map
    (fun a => .saved a.1 a.2)

/-- The tasks of a context's ring go back without being run: it drains, and not under DRAIN_MODE 1 (R595, R717). -/
def State.ringReturns (s : State) (ctx : Nat) : Bool := s.blk .ctx ctx == 2 && !s.is (BLK_CTL_DRAIN_MODE .ctx) ctx

/-- The task at the head of a context's ring that may be placed: none without one, or with one whose OWNER is 0. -/
def State.ringTask (s : State) (ctx : Nat) : Option (Except Stop (List Byte)) :=
  if !s.is CTX_TASK_RING_CTL_ENABLE ctx || s.ringReturns ctx || s.tasksLeft ctx == 0 then none
  else match s.taskTry ctx [s.taskNext ctx] (s.readV .tasks ctx (s.taskNext ctx) 64) with
    | .ok d => if bitOf (fieldLE d 0 1) 0 then some (.ok d) else none
    | .error e => some (.error e)

/-- What waits for a seat, in the order of R602. -/
def State.waiting (s : State) : List Waiting :=
  let cs := s.ctxOrder.filter s.tasksRun
  cs.flatMap s.savedTasks ++ cs.filterMap (fun c => match s.ringTask c with | some (.ok d) => some (.ring c d) | _ => none)

/-- A free seat takes work of a context now: recovery work in the recovery, urgent work at any time (R598, R614). -/
def State.seatTakes (s : State) (ctx i : Nat) : Bool :=
  s.taskFree i && s.stkState != 3 && (s.recovery (i / 9) || s.urgent ctx)

/-- The seat on which work can be placed now (R602). -/
def State.seatFor (s : State) (w : Waiting) : Option Nat :=
  match w.seat with
  | some g => let i := s.coreOf (g / 8) (g % 8)
    if s.seatTakes w.ctx i then some i else none
  | none => s.seats.find? (s.seatTakes w.ctx)

/-- Places work on a seat. -/
def State.place (s : State) (i : Nat) : Waiting → State
  | .saved key a => s.startRestore i key a
  | .ring ctx d =>
    let a := s.taskNext ctx
    let b : Block := { kind := 2, cue := 0, order := 0, ctx := ctx, addr := fieldLE d 16 8, count := fieldLE d 8 4, pos := 0, flags := 0
                       rows := [{ cue := 0, first := a, count := 0, raw := d, n := 0, k := 0, addr := 0 }] }
    (s.bump CTX_TASK_HEAD 1 ctx).handBlock i b

/-- A malformed task is taken from its ring and completed at once (R599). -/
def State.refuseTask (s : State) (ctx : Nat) (d : List Byte) : State :=
  match s.completeTask .message ctx (s.taskNext ctx) d stMalformed 0 0 (launchDetail 0 0 0) with
  | .waits t => t
  | .done t => ((t.takeAbort 128 ctx).bump CTX_TASK_HEAD 1 ctx).taskMessage ctx d
  | .sent t => (t.bump CTX_TASK_HEAD 1 ctx).taskMessage ctx d

/-- Victims of R604 for work of a context: the priority of each and its place in the order. An idle seat of a reserved crew that
waits for scheduled work of a lower context is one for urgent work of priority 3. -/
def State.preemptable (s : State) (ctx : Nat) : List (Nat × Nat) :=
  let p := s.rd CTX_CTL_PRIORITY ctx
  let strong := s.urgent ctx && p == 3
  (List.range 128).filterMap (fun g =>
    let i := s.coreOf (g / 8) (g % 8)
    let x := s.core i
    if s.blk .core i ≠ 1 ∨ x.saving ≠ 0 then none
    else match x.block with
      | some b =>
        let q := s.rd CTX_CTL_PRIORITY b.ctx
        if q < p ∧ (b.kind = 2 ∨ (strong ∧ s.crewReserved (i / 9))) then some (q, g) else none
      | none => match (s.cox (g / 8)).cur with
        | some sh =>
          let q := s.rd CTX_CTL_PRIORITY sh.ctx
          if strong ∧ s.crewReserved (g / 8) ∧ q < p ∧ !s.holdsSaved i then some (q, g) else none
        | none => none)

/-- The lowest priority, then the lowest index. -/
def lowestVictim : List (Nat × Nat) → Option (Nat × Nat)
  | [] => none
  | v :: t => match lowestVictim t with
    | some w => if v.1 ≤ w.1 then some v else some w
    | none => some v

/-- Makes room for work that no free seat takes (R604). A seat that is being saved already makes it wait. -/
def State.makeRoom (s : State) (w : Waiting) : State :=
  if w.seat.isSome ∨ s.stkState = 3 ∨ s.cores.any (fun c => c.2.saving == 1 || c.2.saving == 2) ∨
      !(s.urgent w.ctx || (List.range 16).any (fun c => s.recovery c)) then s
  else match lowestVictim (s.preemptable w.ctx) with
    | none => s
    | some (_, g) =>
      let i := s.coreOf (g / 8) (g % 8)
      if (s.core i).block.isSome then s.requestSave i false else s.place i w

/-- An access of the task unit for a context does not go on now: its fault is taken, or bytes of another device are asked for (R476). -/
def State.taskStall (s : State) (ctx : Nat) : Stop → State
  | .need g n => s.ask .tasks ctx false g n
  | e => s.taskFault ctx 0 e

/-- A task of a ring that is not run is written back with 0x41 (R595): the state it leaves, and whether it is done. One whose
descriptor cannot be read or written is passed over (log 29). -/
def State.returnTask (s : State) (ctx : Nat) : State × Bool :=
  let a := s.taskNext ctx
  let gone (t : State) : State × Bool := ((t.takeAbort 128 ctx).bump CTX_TASK_HEAD 1 ctx, true)
  let stop (e : Stop) : State × Bool := match e with
    | .need _ _ => (s.taskStall ctx e, false)
    | e => if e.waits then (s.taskStall ctx e, false) else gone s
  match s.taskTry ctx [a] (s.readV .tasks ctx a 64) with
  | .error e => stop e
  | .ok d => match s.taskTry ctx [a] (s.checkWrites ctx (taskBack a d stRefused 0 false)) with
    | .error e => stop e
    | .ok () => gone (s.writeAll .message ctx false (taskBack a d stRefused 0 false))

/-- The ring of a context, if it is enabled, goes back up to its doorbell count, as far as its descriptors can be reached now (R595). -/
def State.returnTasks (s : State) (ctx : Nat) : State :=
  if !s.is CTX_TASK_RING_CTL_ENABLE ctx then s
  else ((List.range (ringLeft (Tab.look s.ctxBell ctx 0) (s.rd CTX_TASK_HEAD ctx))).foldl (fun (t : State × Bool) _ =>
    if t.2 then t.1.returnTask ctx else t) (s, true)).1

/-- A saved task is abandoned (R596): it completes with 0x41, and its slot is free. One whose completion waits stays till it is made. -/
def State.abandonSaved (s : State) (key : Nat) (a : Saved) : State :=
  let u : State := { s with saved := s.saved.filter (fun e => e.1 != key) }
  let u := match a.what.run with | some r => u.undefineAreas a.ctx r | none => u
  let i := u.coreOf (a.home / 8) (a.home % 8)
  let u := if u.rd CORE_STATE_STATE i = 5 then u.showIdle i else u
  match a.what.block with
  | none => u
  | some b =>
    let detail := launchDetail (fieldLE a.what.command 2 2) a.home b.pos
    if b.kind = 2 then
      match u.completeTask .message a.ctx b.task.2 b.task.1 stRefused (b.flags ||| flAbandoned) b.pos detail with
      | .waits t => { t with saved := s.saved.map (fun e => if e.1 = key then (key, { a with what := { a.what with error := some stRefused } }) else e) }
      | .done t => (t.takeAbort 128 a.ctx).taskMessage a.ctx b.task.1
      | .sent t => t.taskMessage a.ctx b.task.1
    else
      let c := a.home / 8
      if b.kind = 0 then u.cuePart c b.cue stRefused (b.flags ||| flAbandoned) b.order detail
      else b.rows.foldl (fun t r => t.cuePart c r.cue stRefused (b.flags ||| flAbandoned) b.order detail r.count) u

/-- What the end of a context's work still waits for and can go on: its ring and its abandoned tasks (R595, R596). -/
def State.returnMore (s : State) (ctx : Nat) : State :=
  let s := if s.ringReturns ctx then s.returnTasks ctx else s
  (s.saved.filter (fun a => a.2.ctx == ctx && a.2.what.error.isSome)).foldl (fun (t : State) a => t.abandonSaved a.1 a.2) s

/-- TASK_PLACEMENT (R602 to R604): the first work that a seat can take is placed; where none can, the first of it may pre-empt. A
ring whose descriptor cannot be read takes its fault; one that fails is passed over (R484). -/
def taskPlacementEffect (s : State) : State :=
  let s := (s.ctxOrder.filter (fun c => s.blk .ctx c == 2)).foldl State.returnMore s
  let s := (s.ctxOrder.filter s.tasksRun).foldl (fun (t : State) c => match t.ringTask c with
    | some (.error (.need g n)) => t.taskStall c (.need g n)
    | some (.error e) => if e.waits then t.taskFault c 0 e else (t.takeAbort 128 c).bump CTX_TASK_HEAD 1 c
    | _ => t) s
  let ws := s.waiting
  match ws.find? (fun w => match w with | .ring _ d => !taskOk d | .saved _ _ => false) with
  | some (.ring c d) => s.refuseTask c d
  | _ => match ws.findSome? (fun w => (s.seatFor w).map (fun i => (w, i))) with
    | some (w, i) => s.easyWake.place i w
    | none => match ws.find? (fun w => w.seat.isNone) with
      | some w => s.makeRoom w
      | none => s

def execTaskPlacement (s : State) : Host.Outcome State Fault Refusal := s.rails true taskPlacementEffect

/-- A seat is done with its task. -/
def State.leaveTask (s : State) (i ctx : Nat) (d : List Byte) : State :=
  ((((s.taskMessage ctx d).setCore i default).showIdle i).restoreHome i).settlePreempt ctx

/-- TASK_COMPLETE (R600). An increment on another device is answered before the message leaves. -/
def taskCompleteEffect (i : Nat) (s : State) : State :=
  let x := s.core i
  match x.block with
  | none => s
  | some b =>
    let d := b.task
    if b.cue = 1 then s.leaveTask i b.ctx d.1
    else
      let st := x.error.getD stSuccess
      let status := if st = stSuccess ∧ b.flags ≠ 0 then stFlags else st
      let ok := statusOk status
      let detail := if ok then [] else launchDetail b.order (s.homeOf i) b.count
      match s.completeTask (.core i) b.ctx d.2 d.1 status b.flags (if ok then 0 else b.count) detail with
      | .waits t => t
      | .done t => (t.takeAbort 128 b.ctx).leaveTask i b.ctx d.1
      | .sent t => t.updCore i (fun y => { y with out := x.out + 1, block := some { b with cue := 1 } })

def execTaskComplete (core : Nat) (s : State) : Host.Outcome State Fault Refusal :=
  s.rails (decide (core < 144) && s.taskEnded core) (taskCompleteEffect core)

/-! ### Pre-emption of a context (R608, R615) -/

/-- PREEMPT (R608, R615). -/
def preemptEffect (ctx : Nat) (s : State) : State :=
  if s.rd CTX_STAT_STATE ctx ≠ 1 then s.cfgErr .ctx ctx
  else
    let s := s.setCtxState ctx 2
    let s := s.cores.foldl (fun (t : State) c => match c.2.block with
      | some b => if b.ctx = ctx then t.requestSave c.1 false else t
      | none => t) s
    s.settlePreempt ctx

def execPreempt (ctx : Nat) (s : State) : Host.Outcome State Fault Refusal :=
  s.rails (decide (ctx < 64)) (preemptEffect ctx)

/-- RESUME (R608): the crew slots, then the seats of the scheduled work, then the coxes go on. -/
def ctxResumeEffect (ctx : Nat) (s : State) : State :=
  if s.rd CTX_STAT_STATE ctx ≠ 3 then s.cfgErr .ctx ctx
  else
    let want := (s.crewSaves.filter (fun c => c.2.ctx == ctx)).flatMap (fun c =>
      s.granulesWanted ctx (s.crewSlotOff ctx c.2.slot + 0x200000) 65536 c.2.mask 256)
    if !want.isEmpty then (want.foldl (fun (t : State) g => t.ask .tasks ctx false g 65536) s).on CTX_CTL_RESUME ctx
    else
      let bad := s.crewSaves.any (fun c => c.2.ctx == ctx && (setBits c.2.mask 256).any (fun g =>
        let w := s.wingsAt ctx (s.crewSlotOff ctx c.2.slot + 0x200000 + g * 65536)
        decide (gpaDev w = s.dev) && s.poisoned (gpaLocal w) 65536))
      let s := (s.crewSaves.filter (fun c => c.2.ctx == ctx)).foldl (fun (t : State) c =>
        t.granulesIn ctx (crewStoreBase c.1) (t.crewSlotOff ctx c.2.slot + 0x200000) 65536 c.2.mask 256) s
      let s : State := { s.clearArrived .tasks with crewSaves := s.crewSaves.filter (fun c => c.2.ctx != ctx) }
      let s := s.setCtxState ctx 4
      if bad then (s.loseWings ctx).settleLost
      else
        let s := s.seats.foldl (fun (t : State) i => if t.saved.any (fun a => a.2.ctx == ctx && a.2.home == t.homeOf i) then t.restoreHome i else t) s
        ((s.showSlots ctx).settleResume ctx)

def execCtxResume (ctx : Nat) (s : State) : Host.Outcome State Fault Refusal :=
  s.rails (decide (ctx < 64)) (ctxResumeEffect ctx)

/-- ACC_CLEAR (R597, R614). -/
def accClearEffect (ctx : Nat) (s : State) : State :=
  let s := [CTX_ACC_CYCLES, CTX_ACC_ENERGY, CTX_ACC_HBM, CTX_ACC_LPD, CTX_ACC_NBR, CTX_ACC_HOST].foldl (fun (t : State) f => t.wr f 0 ctx) s
  (List.range 16).foldl (fun (t : State) p => t.wr CTX_ACC_PORT 0 ctx p) s

def execAccClear (ctx : Nat) (s : State) : Host.Outcome State Fault Refusal :=
  s.rails (decide (ctx < 64)) (accClearEffect ctx)

/-! ### Draining and abandoning a context (R595, R596) -/

/-- The ring-mode channels of a context. -/
def State.ctxChans (s : State) (ctx : Nat) : List (Nat × Nat) :=
  ((List.range 17).flatMap (fun e => (List.range 16).map (fun c => (e, c)))).filter (fun p =>
    chanExists p.1 p.2 && s.ringMode p.1 p.2 && s.chanCtx p.1 p.2 == ctx && decide (s.chState p.1 p.2 ≤ 4))

/-- The unissued cues of the sheets of a context fail with a status (R595, R596). -/
def State.failCues (s : State) (ctx st : Nat) : State :=
  (List.range 16).foldl (fun (t : State) c =>
    match (t.cox c).cur with
    | some sh => if sh.ctx = ctx then
        (List.range sh.cues.length).foldl (fun (u : State) k => if (u.cox c).issued.contains k then u else u.failCue c k st) (t.forgetForks c)
      else t
    | none => t) s

/-- DISABLE_REQ of a context (R595): it drains. -/
def State.drainCtx (s : State) (ctx : Nat) : State :=
  let s : State := { s with ctxBell := Tab.put s.ctxBell ctx (s.taskBell ctx) }
  let s := s.setCtxState ctx 6
  let s := if s.is (BLK_CTL_DRAIN_MODE .ctx) ctx then s else s.returnTasks ctx
  let s := s.failCues ctx stRefused
  (s.ctxChans ctx).foldl (fun (t : State) p => chDisableEffect p.1 p.2 t) s

/-- A seat's work of a context is abandoned with 0x41 (R596): a task completes so, a command of a block ends its block so. -/
def State.abandonSeat (s : State) (i : Nat) : State :=
  let x := s.core i
  match x.block with
  | none => s
  | some b =>
    let s := ((s.undefineRun i).leaveSlots (.core i)).clearArrived (.core i)
    let s := s.updCore i (fun y => { y with saving := 0, wait := none, cow := none, block := some { b with flags := b.flags ||| flAbandoned } })
    if x.saving = 3 then s.setCore i default
    else s.endBlock i stRefused (fieldLE x.command 2 2)

/-- FORCE_OFF of a context (R596). -/
def State.abandonCtx (s : State) (ctx : Nat) : State :=
  let s : State := if s.blk .ctx ctx = 2 then s else { s with ctxBell := Tab.put s.ctxBell ctx (s.taskBell ctx) }
  let s := s.setCtxState ctx 6
  let s := s.returnTasks ctx
  let s := s.failCues ctx stRefused
  let s := (s.saved.filter (fun a => a.2.ctx == ctx)).foldl (fun (t : State) a => t.abandonSaved a.1 a.2) s
  let s : State := { s with crewSaves := s.crewSaves.filter (fun c => c.2.ctx != ctx) }
  let s := (s.cores.filter (fun c => match c.2.block with | some b => b.ctx == ctx | none => false)).foldl
    (fun (t : State) c => t.abandonSeat c.1) s
  let s := (s.ctxChans ctx).foldl (fun (t : State) p => chForceEffect p.1 p.2 t) s
  let s := (s.chans.filter (fun c => c.2.cue.isSome && c.2.ctx == ctx && c.2.desc.isSome)).foldl (fun (t : State) c =>
    let x := t.chan (c.1 / 32) (c.1 % 32)
    let cut (d : DescRun) : DescRun := { d with
      moved := true, status := stRefused, cause := 0, flags := d.flags ||| flAbandoned, done := if d.moved then d.done else 0 }
    (t.leaveSlots (.chan (c.1 / 32) (c.1 % 32))).setChan (c.1 / 32) (c.1 % 32)
      { x with paused := false, error := none, desc := x.desc.map cut, count := x.pos }) s
  s.showSlots ctx

/-- Nothing issued in a context remains outstanding (R595). -/
def State.ctxQuiet (s : State) (ctx : Nat) : Bool :=
  (List.range 16).all (fun c => match (s.cox c).cur with
    | some sh => sh.ctx != ctx || (s.cox c).running.isEmpty
    | none => true) &&
  !s.cores.any (fun c => match c.2.block with | some b => b.ctx == ctx | none => false) &&
  !s.saved.any (fun a => a.2.ctx == ctx) &&
  !s.chans.any (fun c => (c.2.desc.isSome || c.2.cue.isSome) && c.2.ctx == ctx) &&
  !s.ops.any (fun o => o.2.ctx == ctx) &&
  (!s.is CTX_TASK_RING_CTL_ENABLE ctx || s.tasksLeft ctx == 0)

/-- A drained context is disabled (R474, R486, R595): its faults are aborted, its translations dropped. -/
def State.endCtx (s : State) (ctx : Nat) : State :=
  let s := ((s.resumeContext ctx (some stPageFault)).dropContext ctx).setCtxState ctx 0
  { s with pinned := Tab.del s.pinned ctx, lost := s.lost.filter (fun c => c != ctx) }

/-! ### Enabling a context (R593) -/

/-- The 2 MiB frames of a context's wings, when all of them are mapped by pinned leaves with READ and WRITE (R488). -/
def State.wingFrames (s : State) (ctx : Nat) : Option (List Nat) :=
  (List.range (s.rd CTX_WINGS_SIZE_SIZE ctx)).mapM (fun k =>
    match s.walkFrom (s.rd CTX_WINGS ctx + k * 0x200000) true walkLevels (s.rd CTX_PT_ROOT_ROOT ctx * 8192) with
    | .ok (leaf, size) =>
      if size = 0x200000 ∧ bitOf leaf 2 ∧ bitOf leaf 3 ∧ bitOf leaf 8 then some (bits leaf 16 36 * 65536) else none
    | .error _ => none)

/-- Units of 2 MiB that CTX_WINGS_CFG requires (R612). -/
def State.wingsNeeded (s : State) (ctx : Nat) : Nat :=
  1 + s.rd CTX_WINGS_CFG_SEAT_SLOTS ctx * 2 + s.rd CTX_WINGS_CFG_CREW_SLOTS ctx * 9

/-- Why the enable of a context fails (R593): the lowest cause. `vf` says that the function is enabled under SR-IOV. -/
def State.enableCause (s : State) (ctx : Nat) (vf : Bool) : Option Nat :=
  let room := (s.pinned.map (fun p => p.2.length)).sum + s.rd CTX_WINGS_SIZE_SIZE ctx
  if (s.wingFrames ctx).isNone then some 1
  else if 8192 < room then some 2
  else if s.rd CTX_WINGS_SIZE_SIZE ctx < s.wingsNeeded ctx then some 3
  else if !inDram (s.rd CTX_PT_ROOT_ROOT ctx * 8192) then some 4
  else if s.front ∧ 1 ≤ ctx ∧ !vf then some 5
  else none

/-- ENABLE of a context (R474, R488, R593). -/
def State.enableCtx (s : State) (ctx : Nat) (vf : Bool) : State :=
  match s.enableCause ctx vf with
  | some k => (s.on CTX_STAT_ENABLE_ERR ctx).wr CTX_STAT_ERR_CAUSE k ctx
  | none =>
    let s : State := { s.dropContext ctx with pinned := Tab.put s.pinned ctx ((s.wingFrames ctx).getD []) }
    (s.wr (BLK_STAT_STATE .ctx) 1 ctx).setCtxState ctx 1

end Sys2Proof.Machine
end

