-- ==== Sys2Proof/Machine/Links.lean ====
section
/-!
DEFINITION. The link layer (R529 to R545, R565, R566, R572, R573): frames, retry, lanes, training, management messages, sending
and forwarding.
-/
namespace Sys2Proof.Machine

/-! ### Training (R540 to R545) -/

def portOk (q : Nat) : Bool := decide (q < 16)

/-- The port trains: TRAINING or RETRAIN. -/
def State.training (s : State) (q : Nat) : Bool := s.rd LNK_STAT_STATE q == 1 || s.rd LNK_STAT_STATE q == 4

/-- PHASE shows the phase minus 1, and 3 from phase 4 on (R575). -/
def State.setPhaseOf (s : State) (q n : Nat) : State :=
  (s.setPort q { s.port q with phase := n }).wr LNK_STAT_PHASE (min (n - 1) 3) q

/-- Lanes of a port that have retired on the receive side (kind 8). -/
def State.lostLanes (s : State) (q : Nat) : Nat :=
  (s.retired.filter (fun r => r.1.kind == 8 && r.1.block == q && !bitOf r.1.pos 8)).foldl
    (fun (m : Nat) r => m ||| 2 ^ (r.1.pos % 32)) 0

/-- Starts the phases of R542 from the first one. -/
def State.startPhases (s : State) (q : Nat) : State :=
  let x := s.port q
  let s := (s.setPort q { x with start := s.clock, failed := s.lostLanes q, rttSum := 0, rttRaw := 0, rttCount := 0, peerCr := false,
                                 tx := x.tx.filter (fun e => e.2.2.type != ptMgmt) }).setPhaseOf q 1
  s.off LNK_PEER_VALID q

/-- Training from DISABLED or FAILED (R542): sequence numbers and credits start afresh. -/
def State.startTraining (s : State) (q : Nat) : State :=
  let x := s.port q
  let s := s.setPort q { x with rx := [], tx := [], replay := [], nextSeq := 0, rxSeq := 0, nak := false, replays := 0, credits := [],
                                owed := [], grant := [] }
  let s : State := { s with retired := s.retired.filter (fun r => !(r.1.kind == 13 && r.1.block == q)) }
  (s.setPortState q 1).startPhases q

/-- RETRAIN from UP or DEGRADED (R538, R540, R542, R572): the replay buffer and the queued packets stay. -/
def State.startRetrain (s : State) (q : Nat) : State :=
  if s.portUp q then
    ((s.setPortState q 4).startPhases q).transient { kind := 13, block := q, pos := 0 } 0
  else s

/-- A port fails (R543, R619): it is permanent, discards what it held, and needs software. -/
def State.failPort (s : State) (q : Nat) : State :=
  let s := s.permanent { kind := 13, block := q, pos := 0 } 1
  if s.rd LNK_STAT_STATE q = 5 then s else s.portDown q

/-- The widest width that a number of healthy lanes allows, as WIDTH codes it (R540, R575). -/
def widthFor (n : Nat) : Option Nat := if 16 ≤ n then some 0 else if 8 ≤ n then some 1 else if 4 ≤ n then some 2 else none

/-- The lanes that carry symbols at a width: the lowest healthy ones (log 28). -/
def carrying (healthy : List Nat) (width : Nat) : List Nat := healthy.take (16 / 2 ^ width)

/-- Phase 3 has ended: the width that the healthy lanes allow, unless it lies below MIN_WIDTH (R540). -/
def State.settleWidth (s : State) (q : Nat) : State :=
  let healthy := (List.range 17).filter (fun l => !bitOf (s.port q).failed l)
  match widthFor healthy.length with
  | none => s.failPort q
  | some w =>
    if s.rd LNK_CTL_MIN_WIDTH q < w then s.failPort q
    else
      let lanes := carrying healthy w
      let spare := lanes.contains 16
      let out := (List.range 16).filter (fun l => !lanes.contains l)
      let s := ((s.wr LNK_STAT_WIDTH w q).wr LNK_LANES_ACTIVE_MASK ((lanes.map (fun l => 2 ^ l)).sum) q).wr LNK_STAT_SPARE_USED (b2n spare) q
      let s := s.wr LNK_LANE_MAP_SPARED (if spare ∧ w = 0 then out.headD 0x1F else 0x1F) q
      let me : Packet := { zeroPacket with
        type := ptMgmt, vc := 3, src := s.dev, mgmt := .identity s.dev q (s.rd DEV_FW_VERSION) (16 / 2 ^ w) }
      (s.enqueue q me).setPhaseOf q 4

/-- The measure messages of phase 5 (R544): each gets its transmit time as it leaves. -/
def State.startMeasuring (s : State) (q : Nat) : State :=
  let m : Packet := { zeroPacket with type := ptMgmt, vc := 3, src := s.dev, mgmt := .measure 0 }
  let x := s.port q
  (s.setPort q { x with tx := x.tx ++ List.replicate 1024 (0, s.clock, m) }).setPhaseOf q 5

/-- The grants of a port's receive buffer, one word for each VC (R565, R575). -/
def State.grants (s : State) (q : Nat) : List Nat :=
  [s.rd LNK_CREDIT_VC0_CLASS0 q + s.rd LNK_CREDIT_VC0_CLASS1 q * 65536, s.rd LNK_CREDIT_VC1_CLASS0 q + s.rd LNK_CREDIT_VC1_CLASS1 q * 65536,
   s.rd LNK_CREDIT_VC2_CLASS0 q + s.rd LNK_CREDIT_VC2_CLASS1 q * 65536, s.rd LNK_CREDIT_VC3_CLASS0 q + s.rd LNK_CREDIT_VC3_CLASS1 q * 65536]

/-- Phase 5 has ended (R544): the latency is the mean of the measured values, in 1/16 ns; the spec does not say how a fraction is
rounded, so its last bit is free then (log 28). A mean round trip above 1,000 ns fails the port. -/
def State.endMeasuring (s : State) (q : Nat) : State :=
  let x := s.port q
  if 16000 * x.rttCount < x.rttRaw then s.failPort q
  else
    let d := 2 * x.rttCount
    let (v, s) := if x.rttSum % d = 0 then (0, s) else s.free
    let s := s.wr LNK_LATENCY_LAT (x.rttSum / d + v % 2) q
    let g := s.grants q
    let me : Packet := { zeroPacket with
      type := ptMgmt, vc := 3, src := s.dev, mgmt := .credits (g.getD 0 0) (g.getD 1 0) (g.getD 2 0) (g.getD 3 0) }
    (s.enqueue q me).setPhaseOf q 6

/-- Training has ended (R540, R572): UP at width 16, else DEGRADED; a replay goes on from the last acknowledged frame. -/
def State.portComesUp (s : State) (q : Nat) : State :=
  let x := s.port q
  let s := (s.setPort q { x with phase := 0, replays := 0, ackAt := s.clock }).wr LNK_STAT_PHASE 0 q
  let s := s.bump LNK_PC_REPLAYS x.replay.length q
  s.setPortState q (if s.rd LNK_STAT_WIDTH q = 0 then 2 else 3)

/-- TRAINING_PHASE (R542): the phase under way completes. Phases 1 to 3 report the lanes on which they succeeded. -/
def trainingPhaseEffect (q lanes : Nat) (s : State) : State :=
  let x := s.port q
  let s' := s.setPort q { x with failed := x.failed ||| (2 ^ 17 - 1 - lanes % 2 ^ 17) }
  match x.phase with
  | 1 => s'.setPhaseOf q 2
  | 2 => s'.setPhaseOf q 3
  | 3 => s'.settleWidth q
  | 4 => s.startMeasuring q
  | 5 => s.endMeasuring q
  | 6 => s.portComesUp q
  | _ => s

/-- The phase under way may complete: phase 4 has the peer's identity, phase 5 its 1,024 replies, phase 6 the peer's grants. -/
def State.phaseDone (s : State) (q : Nat) : Bool :=
  let x := s.port q
  match x.phase with
  | 1 | 2 | 3 => true
  | 4 => s.is LNK_PEER_VALID q
  | 5 => decide (1024 ≤ x.rttCount)
  | 6 => x.peerCr
  | _ => false

def execTrainingPhase (port : Nat) (lanes : Nat) (s : State) : Host.Outcome State Fault Refusal :=
  s.rails (portOk port && s.training port && s.phaseDone port) (trainingPhaseEffect port lanes)

/-- TRAINING_TIMEOUT (R543). -/
def trainingTimeoutEffect (q : Nat) (s : State) : State :=
  (s.at ((s.port q).start + max 1 (s.rd LNK_RETRAIN_MAX_MS q) * 16000000)).failPort q

def execTrainingTimeout (port : Nat) (s : State) : Host.Outcome State Fault Refusal :=
  s.rails (portOk port && s.training port) (trainingTimeoutEffect port)

/-- RETRAIN (R542, R543): the port repeats every phase; a FAILED port trains again. The bit reads 1 until the training has ended (R783). -/
def retrainEffect (q : Nat) (s : State) : State :=
  if s.portUp q then (s.startRetrain q).on LNK_CTL_RETRAIN q
  else if s.rd LNK_STAT_STATE q = 5 ∧ s.blk .lnk q = 1 then (s.startTraining q).on LNK_CTL_RETRAIN q
  else s

def execRetrain (port : Nat) (s : State) : Host.Outcome State Fault Refusal :=
  s.rails (portOk port) (retrainEffect port)

/-! ### Lanes (R539, R540) -/

/-- An active lane has failed (R539, R540, R619): the spare carries it where LANE_AUTO allows and the spare is free; else the port
retrains at the width that is left. -/
def State.laneFails (s : State) (q lane : Nat) : State :=
  if !bitOf (s.rd LNK_LANES_ACTIVE_MASK q) lane then s
  else
    let i : Inst := { kind := 8, block := q, pos := lane }
    let s := s.permanent i 1
    if s.phase i = some 2 then (s.setPort q { s.port q with failed := (s.port q).failed ||| 2 ^ lane }).logEv .lnk q 0x302 2 0
        (s.portData q (s.rd LNK_STAT_STATE q))
    else s.startRetrain q

def execLaneSpare (port lane : Nat) (s : State) : Host.Outcome State Fault Refusal :=
  s.rails (portOk port && s.portUp port && decide (lane < 17)) (fun s => s.laneFails port lane)

/-- LANE_ERROR_WINDOW (R539): the symbol errors of each lane in the millisecond that has ended. -/
def laneWindowEffect (q : Nat) (errors : List Nat) (s : State) : State :=
  errors.zipIdx.foldl (fun (t : State) e =>
    if s.rd LNK_RETRAIN_ERR_LIMIT q < e.1 ∧ t.portUp q then t.laneFails q e.2 else t) s

def execLaneErrorWindow (port : Nat) (errors : List Nat) (s : State) : Host.Outcome State Fault Refusal :=
  s.rails (portOk port && s.portUp port) (laneWindowEffect port errors)

/-! ### Receiving frames (R531, R533, R535, R536, R565) -/

/-- Index of a buffer class: VC and CLASS. -/
def credIdx (vc cls : Nat) : Nat := vc * 2 + cls

/-- Adds credits of a class. -/
def addCredits (l : List Nat) (i n : Nat) : List Nat := (List.range 8).map (fun k => l.getD k 0 + (if k = i then n else 0))

/-- A packet that comes out of a good frame (R533): one of a reserved TYPE or of the wrong VC is discarded, counted and logged. -/
def State.receive (s : State) (q : Nat) (p : Packet) : State :=
  let s := s.bump LNK_PC_RX_CELLS (packetCells p) q
  let x := s.port q
  if vcOf p.type = some p.vc then s.setPort q { x with rx := x.rx ++ [(s.clock, p)] }
  else
    ((s.setPort q { x with owed := x.owed ++ [(p.vc % 4, p.cls % 2, packetCells p)] }).bump LNK_PC_DROPPED 1 q).logEv .lnk q 0x301 2 0
      (packetHead p)

/-- The frames after the one that an ACK names; the whole buffer when it names none of them. -/
def afterAck (ack : Nat) (fs : List Frame) : List Frame :=
  if fs.any (fun f => f.seq == ack) then (fs.dropWhile (fun f => f.seq != ack)).drop 1 else fs

/-- What a good frame acknowledges (R536): acknowledged frames leave the replay buffer; a NAK sends the rest again, the sixteenth
time in a row with the same first frame retrains the port (R538). -/
def State.takeAck (s : State) (q : Nat) (f : Frame) : State :=
  let x := s.port q
  let left := afterAck f.ack x.replay
  let moved := decide (left.length < x.replay.length)
  let again := f.nak && !left.isEmpty
  let n := (if moved then 0 else x.replays) + b2n again
  let s := s.setPort q { x with replay := left, replays := n, ackAt := if moved then s.clock else x.ackAt }
  let s := if again then s.bump LNK_PC_REPLAYS left.length q else s
  if 16 ≤ n then s.startRetrain q else s

/-- FRAME (R535): a frame that fails, or that does not follow the last good one, is discarded, and NAK goes out; the frame that
follows is taken. While the port trains, only management messages come in (log 28). -/
def frameEffect (q : Nat) (f : Frame) (s : State) : State :=
  let x := s.port q
  if !f.good then (s.bump LNK_PC_FEC_UNCORR 1 q).setPort q { x with nak := true }
  else
    let s := s.bump LNK_PC_FEC_SYMBOLS f.fixed q
    if s.training q then
      (f.packets.filter (fun p => p.type == ptMgmt)).foldl (fun (t : State) p => t.receive q p) s
    else if f.seq ≠ x.rxSeq then s.setPort q { x with nak := true }
    else
      let s := s.setPort q { x with
        rxSeq := (x.rxSeq + 1) % 4096, nak := false
        credits := addCredits x.credits (credIdx (f.crVc % 4) (f.crClass % 2)) (f.crCount % 4096) }
      let s := f.packets.foldl (fun (t : State) p => t.receive q p) s
      s.takeAck q f

/-- The port has frame lock. -/
def State.framing (s : State) (q : Nat) : Bool := s.portUp q || (s.training q && decide (4 ≤ (s.port q).phase))

def execFrame (port : Nat) (f : Frame) (s : State) : Host.Outcome State Fault Refusal :=
  s.rails (portOk port && s.framing port) (frameEffect port f)

/-- ACK_TIMEOUT (R538): no ACK has advanced for 10 µs. -/
def execAckTimeout (port : Nat) (s : State) : Host.Outcome State Fault Refusal :=
  s.rails (portOk port && s.portUp port && !(s.port port).replay.isEmpty) (fun s =>
    (s.at ((s.port port).ackAt + 160000)).startRetrain port)

/-- FRAME_LOCK_LOSS (R538). -/
def execFrameLockLoss (port : Nat) (s : State) : Host.Outcome State Fault Refusal :=
  s.rails (portOk port && s.portUp port) (fun s => s.startRetrain port)

/-! ### Management messages (R544, R545) -/

/-- The oldest VC3 packet of a port when it is a management message. -/
def State.mgmtAt (s : State) (q : Nat) : Option (Nat × Packet) :=
  match s.headVc q 3 with
  | some (t, p) => if p.type = ptMgmt then some (t, p) else none
  | none => none

/-- Takes a management message that arrived at instant `t`. -/
def State.takeMgmt (s : State) (q t : Nat) : MgmtMsg → State
  | .none => s
  | .identity dev port _ _ => ((s.wr LNK_PEER_DEV dev q).wr LNK_PEER_PORT port q).on LNK_PEER_VALID q
  | .measure t1 => s.enqueue q { zeroPacket with type := ptMgmt, vc := 3, src := s.dev, mgmt := .reply t1 t 0 }
  | .reply t1 t2 t3 =>
    let x := s.port q
    if x.phase = 5 ∧ x.rttCount < 1024 then
      s.setPort q { x with rttSum := x.rttSum + ((t - t1) - (t3 - t2)), rttRaw := x.rttRaw + (t - t1), rttCount := x.rttCount + 1 }
    else s
  | .credits a b c d =>
    let x := s.port q
    if s.training q then
      let g := [a, b, c, d].flatMap (fun w => [bits w 0 14, bits w 16 14])
      let cr := (List.range 8).map (fun k => x.credits.getD k 0 + g.getD k 0 - x.grant.getD k 0)
      s.setPort q { x with credits := cr, grant := g, peerCr := true }
    else s

def mgmtEffect (q : Nat) (s : State) : State :=
  match s.mgmtAt q with
  | some (t, p) => (s.dropHead q 3).takeMgmt q t p.mgmt
  | none => s

def execMgmt (port : Nat) (s : State) : Host.Outcome State Fault Refusal :=
  s.rails (portOk port && (s.mgmtAt port).isSome) (mgmtEffect port)

/-! ### Sending (R566) -/

/-- The oldest packet of each VC and class of a queue, with its place. -/
def queueHeads (tx : List (Nat × Nat × Packet)) : List (Nat × Nat × Nat × Packet) :=
  (tx.zipIdx.filter (fun e => !(tx.take e.2).any (fun d => d.2.2.vc == e.1.2.2.vc && d.2.2.cls == e.1.2.2.cls))).map
    (fun e => (e.2, e.1.1, e.1.2.1, e.1.2.2))

/-- A packet may leave now: its credits are there (R565), or, in training, it is a management message. -/
def State.mayLeave (s : State) (q : Nat) (p : Packet) : Bool :=
  if s.training q then p.type == ptMgmt
  else decide (packetCells p ≤ (s.port q).credits.getD (credIdx (p.vc % 4) (p.cls % 2)) 0)

/-- The packet that leaves next (R566): a VC1 or VC2 packet that has waited AGE frames, else by priority VC3, VC0, VC1, VC2. -/
def State.nextOut (s : State) (q : Nat) : Option (Nat × Nat × Nat × Packet) :=
  let ready := (queueHeads (s.port q).tx).filter (fun e => s.mayLeave q e.2.2.2)
  let aged := ready.filter (fun e => (e.2.2.2.vc == 1 || e.2.2.2.vc == 2) && decide (max 1 (s.rd LNK_ARB_AGE q) ≤ e.2.1))
  let byVc (v : Nat) := ready.filter (fun e => e.2.2.2.vc == v)
  (aged ++ byVc 3 ++ byVc 0 ++ byVc 1 ++ byVc 2).head?

/-- What a packet carries as it leaves: a CATCH its time in this device (R60), a measurement its transmit time (R544). -/
def State.stamp (s : State) (queued : Nat) (p : Packet) : Packet :=
  if p.type = ptStroke ∧ p.msg.code = 2 then
    { p with msg := { p.msg with a := min (p.msg.a + (s.clock - queued)) (2 ^ 32 - 1) } }
  else match p.mgmt with
    | .measure _ => { p with mgmt := .measure s.clock }
    | .reply t1 t2 _ => { p with mgmt := .reply t1 t2 s.clock }
    | _ => p

/-- The frame that leaves: its packets, the acknowledgement of the last good frame, NAK, and one credit return (R531, R535). -/
def Port.nextFrame (x : Port) (ps : List Packet) : Frame :=
  let cr := x.owed.headD (0, 0, 0)
  { seq := x.nextSeq, ack := (x.rxSeq + 4095) % 4096, nak := x.nak, crVc := cr.1, crClass := cr.2.1, crCount := cr.2.2, good := true
    fixed := 0, packets := ps }

/-- PACKET_SEND (R536, R565, R566): one frame leaves, with the packet chosen or with idle cells. A transaction's time runs from
here (R571). -/
def packetSendEffect (q : Nat) (s : State) : State :=
  let pick := s.nextOut q
  let ps := match pick with | some (_, _, t0, p) => [s.stamp t0 p] | none => []
  let s := match pick with | some (_, _, _, p) => (s.bump LNK_PC_TX_CELLS (packetCells p) q).bump CTX_ACC_PORT (packetCells p * 64) p.ctx q | none => s
  let x := s.port q
  let waiting := ((queueHeads x.tx).filter (fun e => s.mayLeave q e.2.2.2)).map (fun e => e.1)
  let tx := (x.tx.zipIdx.filter (fun e => some e.2 != pick.map (fun p => p.1))).map (fun e =>
    if waiting.contains e.2 then (e.1.1 + 1, e.1.2) else e.1)
  let slots := match pick with
    | some (_, _, _, p) => if p.src = s.dev ∧ isRequest p then
        (match Tab.find x.slots p.slot with
         | some t => Tab.put x.slots p.slot { t with due := s.clock + s.rmtTimeout }
         | none => x.slots) else x.slots
    | none => x.slots
  if s.training q then s.setPort q { x with tx := tx }
  else
    let f := x.nextFrame ps
    let cr := match pick with
      | some (_, _, _, p) => (List.range 8).map (fun k => x.credits.getD k 0 - (if k = credIdx (p.vc % 4) (p.cls % 2) then packetCells p else 0))
      | none => x.credits
    s.setPort q { x with
      tx := tx, slots := slots, credits := cr, replay := x.replay ++ [f], nextSeq := (x.nextSeq + 1) % 4096, owed := x.owed.drop 1
      ackAt := if x.replay.isEmpty then s.clock else x.ackAt, frames := x.frames + 1 }

def execPacketSend (port : Nat) (s : State) : Host.Outcome State Fault Refusal :=
  s.rails (portOk port && s.framing port && decide ((s.port port).replay.length < 256)) (packetSendEffect port)

/-! ### Forwarding (R547 to R549, R786) -/

/-- A packet is for another device. Broadcast stroke messages and management messages stop at every device. -/
def State.forOther (s : State) (p : Packet) : Bool :=
  p.dst != s.dev && p.type != ptMgmt &&
  (p.type != ptStroke || p.msg.code == 1 || p.msg.code == 3 || p.msg.code == 4 || p.msg.code == 5)

/-- The VC whose oldest packet at a port is to be forwarded, by priority. -/
def State.forwardVc (s : State) (q : Nat) : Option (Nat × Packet) :=
  [3, 0, 1, 2].findSome? (fun v => match s.headVc q v with
    | some (_, p) => if s.forOther p then some (v, p) else none
    | none => none)

/-- A packet that cannot be forwarded (R548, R573, R786): a request is answered with a NAK, a response vanishes (log 28), a stroke
message and a NAK are logged. -/
def State.dropForward (s : State) (p : Packet) : State :=
  if isRequest p then s.sendNak p stUnreachable
  else if p.type = ptStroke ∨ p.type = ptNak then s.logEv .dev 0 0x301 2 stUnreachable (packetHead p)
  else s

/-- A packet that no port can carry on: one for a former ID of this device is discarded as R533 has it (R742). -/
def State.lostOnWay (s : State) (q : Nat) (p : Packet) : State :=
  if s.formerIds.contains p.dst then (s.bump LNK_PC_DROPPED 1 q).logEv .lnk q 0x301 2 0 (packetHead p) else s.dropForward p

/-- PACKET_FORWARD (R547 to R549). A port that drains refuses a request (R717). -/
def packetForwardEffect (q : Nat) (s : State) : State :=
  match s.forwardVc q with
  | none => s
  | some (v, p) =>
    let s := s.dropHead q v
    if 15 ≤ p.hops then s.dropForward p
    else if isRequest p && (match s.portFor p.dst p with | some r => s.blk .lnk r == 2 | none => false) then s.sendNak p stRefused
    else match s.sendRouted { p with hops := p.hops + 1 } with
      | some t => t
      | none => s.lostOnWay q p

def execPacketForward (port : Nat) (s : State) : Host.Outcome State Fault Refusal :=
  s.rails (portOk port && (s.forwardVc port).isSome) (packetForwardEffect port)

end Sys2Proof.Machine
end

