-- ==== Sys2Proof/Machine/Power.lean ====
section
/-!
DEFINITION. Power states, the entry handshake, pad hold, wake, limits, reset and bring-up, the retention store (R649 to R678,
R752, R758 to R775, R787).
-/
namespace Sys2Proof.Machine

/-! ### Retained fields (R671 to R673) -/

/-- The register fields of a page, its header's SKIP first, that are kept through a reset. -/
def rwkFields (p : Page) : List Fld :=
  let fs := (pageFields p).filter (fun f => f.acc == .rwk)
  if fs.isEmpty then [] else BLK_RETAIN_CTL_SKIP p :: fs

/-- The offsets within a page of its registers that hold such a field, in ascending order. -/
def rwkOffsets (p : Page) : List Nat := ((rwkFields p).map (fun f => f.off)).dedup

/-- Every page item that holds such a field, in ascending BAR0 offset. -/
def rwkPages : List (Page × Nat) :=
  (Page.all.filter (fun p => !(rwkFields p).isEmpty)).flatMap (fun p => (List.range p.count).map (fun i => (p, i)))

/-- The entry of a register (R671): OFFSET, VALUE, MASK. -/
def State.retEntry (s : State) (p : Page) (i off : Nat) : Nat × Nat × Nat :=
  let fs := (rwkFields p).filter (fun f => f.off == off)
  (p.base i + off, (fs.map (fun f => s.rd f i * 2 ^ f.lo)).sum, (fs.map (fun f => (2 ^ f.w - 1) * 2 ^ f.lo)).sum)

/-- The entries of a snapshot of the present values. -/
def State.retEntries (s : State) : List (Nat × Nat × Nat) :=
  rwkPages.flatMap (fun q => (rwkOffsets q.1).map (fun off => s.retEntry q.1 q.2 off))

/-- The bits of a field that an entry gives; the others take the factory value (R673). -/
def restoredBits (f : Fld) (e : Nat × Nat × Nat) : Nat :=
  let m := bits e.2.2 f.lo f.w
  (bits e.2.1 f.lo f.w &&& m) ||| (f.rst &&& ((2 ^ f.w - 1) ^^^ m))

/-- The value that a field takes from a list of entries (R673). -/
def restoredValue (es : List (Nat × Nat × Nat)) (i : Nat) (f : Fld) : Nat :=
  match es.find? (fun e => e.1 == f.page.base i + f.off) with
  | some e => restoredBits f e
  | none => f.rst

/-- Format codes that R209 allows in a field of NARROW_CFG, by its low bit. -/
def narrowAllowed (lo code : Nat) : Bool :=
  match lo with
  | 0 => [1, 2, 4, 6, 8].contains code
  | 4 => [1, 3, 5, 8].contains code
  | _ => [0, 1, 4].contains code

/-- A field of NARROW_CFG takes its factory value where the restored code is not allowed (R741). -/
def checkedValue (f : Fld) (v : Nat) : Nat :=
  if f.page = .dev ∧ f.off = 0x120 then (if narrowAllowed f.lo v then v else f.rst) else v

/-- Restores the fields of a page item; under SKIP they take their factory values (R673). -/
def State.restorePage (s : State) (es : List (Nat × Nat × Nat)) (p : Page) (i : Nat) : State :=
  let skip := restoredValue es i (BLK_RETAIN_CTL_SKIP p)
  let s := (s.wr (BLK_RETAIN_CTL_SKIP p) skip i).wr (BLK_RETAIN_CTL_DIRTY p) 0 i
  ((pageFields p).filter (fun f => f.acc == .rwk)).foldl (fun (t : State) f =>
    t.wr f (if skip = 1 then f.rst else checkedValue f (restoredValue es i f)) i) s

/-- Restores every RWK field from a list of entries; an empty one gives the factory values. -/
def State.restoreAll (s : State) (es : List (Nat × Nat × Nat)) : State :=
  rwkPages.foldl (fun (t : State) q => t.restorePage es q.1 q.2) s

/-- The slot that R672 chooses: of the good ones the one of the higher SEQUENCE. -/
def State.chosenSlot (s : State) : Option Nat :=
  match s.ret0.good, s.ret1.good with
  | true, true => some (if s.ret0.seq < s.ret1.seq then 1 else 0)
  | true, false => some 0
  | false, true => some 1
  | false, false => none

def State.retSlot (s : State) (n : Nat) : RetSlot := if n = 0 then s.ret0 else s.ret1
def State.setRetSlot (s : State) (n : Nat) (r : RetSlot) : State := if n = 0 then { s with ret0 := r } else { s with ret1 := r }

/-- Changes the power unit. -/
def State.updPwr (s : State) (f : PowerUnit → PowerUnit) : State := { s with pwr := f s.pwr }

/-- Step 5 of R668 (R672): where the RWK values come from. -/
def State.restoreRetained (s : State) : State :=
  if bitOf s.pwr.straps 3 then (s.restoreAll []).wr PWR_RET_STAT_SOURCE 3
  else match s.chosenSlot with
    | some n =>
      let r := s.retSlot n
      (((s.restoreAll r.entries).wr PWR_RET_STAT_SOURCE n).wr PWR_RET_STAT_SEQUENCE r.seq).updPwr (fun p => { p with lastSlot := n })
    | none => ((s.restoreAll []).wr PWR_RET_STAT_SOURCE 2).logEv .pwr 0 0x705 2 0 1

/-! ### Firmware (R697, R698) -/

/-- A byte of an image that FW_DATA has not written: an erased slot holds no valid image, whatever it reads as. -/
def FwImage.field (f : FwImage) (o n : Nat) : Nat := leNat ((List.range n).map (fun k => Tab.look f.data (o + k) 0))

def FwImage.ver (f : FwImage) : Nat := if f.factory then f.version else f.field 8 4
def FwImage.secNum (f : FwImage) : Nat := if f.factory then f.svn else f.field 12 4

/-- A slot is valid (R698): MAGIC "HXN8", FORMAT, BODY_HASH and SIGNATURE check, and SVN is at or above the fused minimum. -/
def State.fwValid (s : State) (f : FwImage) : Bool :=
  (f.factory || (f.field 0 4 == 0x384E5848 && f.field 4 2 == 8 && decide (1 ≤ f.field 16 4) && decide (f.field 16 4 ≤ 16776704) &&
    Config.fwSigned (f.data.map (fun c => (c.1, c.2.toNat))))) && decide (s.fwMin ≤ f.secNum)

/-- The slot that the security block loads (R698): the valid one of the higher VERSION, slot A when they are equal. -/
def State.fwChosen (s : State) : Option Nat :=
  match s.fwValid s.fwA, s.fwValid s.fwB with
  | true, true => some (if s.fwA.ver < s.fwB.ver then 1 else 0)
  | true, false => some 0
  | false, true => some 1
  | false, false => none

def State.fwSlot (s : State) (n : Nat) : FwImage := if n = 0 then s.fwA else s.fwB

/-- The running image's registers, and FW_SELECTED in the logbook (R686, R739). -/
def State.runImage (s : State) (n : Nat) : State :=
  let f := s.fwSlot n
  let s := (((s.wr DEV_FW_VERSION f.ver).wr DEV_FW_SLOT_SLOT n).wr DEV_FW_SVN f.secNum).wr DEV_FW_MIN_SVN s.fwMin
  let s : State := { s with sfuVer := (f.ver, f.ver) }
  s.logFrom (0xFF00 + 0x0000) 0x706 1 0 (n + f.ver * 2 ^ 8 + f.secNum * 2 ^ 40)

/-! ### The wear ledger at bring-up (R626, R631, R755) -/

/-- The item of a record (R629). -/
def recInst (r : List Byte) : Inst := { kind := fieldLE r 12 1, block := fieldLE r 16 2, pos := fieldLE r 18 6 }

/-- A record passes its CHECK. -/
def recOk (r : List Byte) : Bool := fieldLE r 28 4 == crc32 (r.take 28)

/-- What a list of records says of each item, in record order: 0 retired, 2 with its spare in service, 3 a repair is due. -/
def replayRecord (rs : List (Inst × Nat)) (r : List Byte) : List (Inst × Nat) :=
  let i := recInst r
  let rest := rs.filter (fun q => q.1 != i)
  match fieldLE r 13 1 with
  | 1 => if rs.any (fun q => q.1 == i) then rs else rs ++ [(i, 0)]
  | 3 | 7 => rest ++ [(i, 2)]
  | 4 => rest ++ [(i, 3)]
  | 5 => rest ++ [(i, 2)]
  | 6 => rest ++ [(i, 0)]
  | 8 => rest
  | _ => rs

/-- The repair of a column or an HBM row that is due (R407, R626): applied while the bank has repair resources left, else failed. -/
def State.repair (s : State) (i : Inst) : State :=
  let used := (s.retired.filter (fun r => samePool r.1 i && r.2 == 2)).length
  let total := sparesBuilt i
  if used < total then (s.setPhase i 2).ledgerNote 5 i 0 else (s.setPhase i 3).ledgerNote 6 i 0

/-- The status of an item that the ledger leaves retired, with its spare where one is in service (R618, R631, R787). A port
waits for software anyway, disabled as every port is then. -/
def State.applyRetired (s : State) (i : Inst) (phase : Nat) : State :=
  if i.kind = 13 then { s with retired := s.retired.filter (fun r => r.1 != i) }
  else if phase = 3 then s.repair i
  else if phase = 2 then
    if i.kind = 0 then
      let s := s.wr (BLK_STAT_STATE .core) 4 i.block
      let c := i.block / 9
      match (List.range 9).find? (fun p => s.blk .core (9 * c + p) == 5) with
      | none => s
      | some p =>
        let m := (List.range 8).map (fun t => if s.phys c t = i.block % 9 then p else s.phys c t)
        { s with spareMap := Tab.put s.spareMap c m }.wr (BLK_STAT_STATE .core) 1 (9 * c + p)
    else if i.kind = 2 ∨ i.kind = 4 then
      let f0 := bankFld (i.kind == 2) 0
      let f := if s.rd f0.1 i.block = 0x7F then f0 else bankFld (i.kind == 2) 1
      s.wr f.1 (i.pos % 128) i.block
    else if i.kind = 9 then (if i.block = 16 then s.wr HDM_SPARE_SPARE_FOR i.pos else s.wr CDM_SPARE_SPARE_FOR i.pos i.block)
    else s
  else
    let s := s.markRetired i
    if s.spareLeft i = 0 then (s.setPhase i 3).pendKind i.kind
    else if s.autoSpare i then s.startEntry i
    else s.pendKind i.kind

/-- Step 6 of R668 (R631): every retirement, spare entry, repair and remap of the current region is applied in record order. Of the
row repairs of R626 those are applied that RETIRE recorded, and none frees a unit (DEDUCED, log 60). -/
def State.applyLedger (s : State) : State :=
  let recs := s.ledger false
  let good := recs.filter recOk
  let marks := good.foldl replayRecord []
  let seen := (good.filter (fun r => fieldLE r 13 1 == 2)).map recInst
  let s : State := { s with
    retired := marks
    suspects := seen.dedup.map (fun i => (i, (seen.filter (fun j => j == i)).length)) }
  let s := (s.wr SPR_LEDGER_STAT_USED recs.length).wr SPR_LEDGER_STAT_SKIPPED (min 4095 (recs.length - good.length))
  marks.foldl (fun (t : State) q => t.applyRetired q.1 q.2) s

/-! ### Losing power and coming up (R656, R666 to R669, R672, R787) -/

/-- Bit addresses of a page. -/
def inPage (p : Page) (k : Nat) : Bool := decide (p.base 0 * 8 ≤ k) && decide (k < (p.base 0 + 0x1000) * 8)

/-- Registers that outlive the main dies: the PWR and LOG pages of the always-on domain, what the power controller reads of the TMP
page, and the current ledger region (R33, R656). -/
def keptReg (c : Nat × Nat) : Bool := inPage .pwr c.1 || inPage .log c.1 || inPage .tmp c.1 || c.1 == SPR_LEDGER_STAT_REGION.key 0 0

/-- The contents of HBM and LPDDR are lost (R656, R666): what they read as is open. -/
def dramLost (seed : Nat) : List UndefRange :=
  [{ lo := 0, len := 0x7C00000000, seed := seed }, { lo := 0x8000000000, len := 0x1F000000000, seed := seed }]

/-- Everything outside the always-on domain, the retention store and the links' far ends is lost (R656). What PCIe has been given
stays given. -/
def State.loseMain (s : State) : State :=
  { State.reset with
    pending := s.pending, clock := s.clock, fresh := s.fresh + 1, hostOut := s.hostOut, nextOp := s.nextOp, nextTag := s.nextTag
    undef := dramLost s.fresh
    regs := Tab.canon (State.reset.regs ++ s.regs.filter keptReg)
    logQueue := s.logQueue, logRing := s.logRing, ibi := s.ibi
    ledger0 := s.ledger0, ledger1 := s.ledger1, powerCycles := s.powerCycles, snaps := s.snaps
    pwr := { s.pwr with req := none, selfRef := 0, ports := 0, ready := false }
    ret0 := s.ret0, ret1 := s.ret1, fwA := s.fwA, fwB := s.fwB, fwMin := s.fwMin, i3c := s.i3c, tap := s.tap }

/-- The performance counters of the PWR page (R677, R737). -/
def pwrCounters : List Fld := [PWR_PC_ENERGY, PWR_PC_THROTTLE_NS, PWR_PC_ENTRIES, PWR_PC_REFUSALS]

/-- Fields of the PWR page that a cold reset sets to their reset values; BUSY ends with the commit that power loss interrupts (R674). -/
def pwrColdFields : List Fld :=
  [PWR_STAT_TRIP, PWR_STAT_LAST_RESULT, PWR_STAT_REASON, PWR_STAT_STEP, PWR_STAT_BLOCK_TYPE, PWR_STAT_BLOCK_INSTANCE, PWR_CLOCK_POINT,
   PWR_CLOCK_CAUSE, PWR_INPUT_MV, PWR_INPUT_W, PWR_RET_STAT_BUSY]

/-- Registers of the TMP page. -/
def tmpClear (s : State) : State := { s with regs := s.regs.filter (fun c => !inPage .tmp c.1) }

/-- Bring-up stops at a step (R669). -/
def State.bringUpFault (s : State) (step : Nat) : State :=
  (((s.wr PWR_STAT_STATE 7).wr PWR_STAT_STEP step).logEv .pwr 0 0x704 4 0 step).ibiRaise 4

/-- Steps 3 to 9 of R668, from what is left of the state: the firmware, the retained values, the ledger, every block at its reset
value; then ROW and WAKE_DONE, every pad group released (R669, R787). -/
def State.bringUp (s : State) (kind trigger : Nat) : State :=
  let s := tmpClear s.loseMain
  let s := pwrCounters.foldl (fun (t : State) f => t.wr f 0) s
  let s := if kind = 1 then pwrColdFields.foldl (fun (t : State) f => t.wr f 0) s else s
  let s := ((((s.wr PWR_RESET_CAUSE_KIND kind).wr PWR_RESET_CAUSE_TRIGGER trigger).wr PWR_PAD_RELEASE_HELD 0).wr PWR_STAT_STEP 0).updPwr
    (fun p => { p with calm := 0, owed := none })
  match s.fwChosen with
  | none => s.bringUpFault 4
  | some n =>
    let s := ((s.runImage n).restoreRetained).applyLedger
    (s.wr PWR_STAT_STATE 0).ibiRaise 7

/-- A warm reset (R666, R667, R752): it waits for a commit in progress, and for a module that sleeps to wake. -/
def State.warmReset (s : State) (trigger : Nat) : State :=
  let st := s.rd PWR_STAT_STATE
  if s.is PWR_RET_STAT_BUSY ∨ st = 6 then s.updPwr (fun p => { p with owed := some trigger })
  else if st = 2 then ((s.wr PWR_STAT_STATE 6).updPwr (fun p => { p with owed := some trigger, ready := false }))
  else if st = 3 then
    if s.pwr.supply ∧ !(s.is PWR_STAT_TRIP ∧ 95 ≤ s.rd TMP_HOTTEST_TEMP) then
      (s.bringUp 1 (if s.is PWR_STAT_TRIP then 3 else 2)).bringUp 2 trigger
    else s
  else s.bringUp 2 trigger

/-! ### The PCIe link goes down (R591, Link present) -/

/-- A wait of an agent for bytes ends with a status. -/
def State.failAsked (s : State) (ag : Agent) (status : Nat) : State :=
  { s with asked := s.asked.map (fun x => if x.agent == ag then { x with data := leBytes status 1 } else x) }

/-- A device read of host memory ends with a status (R591). -/
def State.failHostRead (s : State) (r : HostRead) (status : Nat) : State :=
  match r.packet, r.agent with
  | some (_, p), _ => s.sendReply p ptGetData status 0 []
  | none, some ag => s.failAsked ag status
  | none, none => s

/-- Link down: LINK_DOWN is set, the device is no front device, every host-window access ends with 0x50, and the accesses of the
host that waited are gone. -/
def State.pcieDown (s : State) : State :=
  let reads := s.hostReads
  let s := ((((s.on HIF_ERR_LINK_DOWN).wr HIF_LINK_STAT_SPEED 0).wr HIF_LINK_STAT_WIDTH 0).wr HIF_LINK_STAT_FLIT 0).wr HIF_LINK_STAT_FRONT 0
  let s : State := { s with hostReads := [], barWaits := [], msixTab := [], msixPba := [] }
  reads.foldl (fun (t : State) r => t.failHostRead r.2 stUnreachable) s

/-! ### The entry handshake (R652 to R655) -/

/-- A block's answer in an ask round. -/
inductive Answer where
  | accept | defer | refuse (reason : Nat)
  deriving DecidableEq, Repr

/-- Some channel of an engine has a state. -/
def State.anyChan (s : State) (e : Nat) (f : Nat → Bool) : Bool := (List.range (if e = 16 then 16 else 8)).any (fun c => f (s.chState e c))

/-- The answer of a DMA engine. -/
def State.askEngine (s : State) (e : Nat) : Answer :=
  if s.anyChan e (fun st => st == 2) then .refuse 2
  else if s.anyChan e (fun st => st == 1 || st == 4) then .defer
  else .accept

/-- The answer of a block item for a target (R652). -/
def State.askBlock (s : State) (target : Nat) (p : Page) (i : Nat) : Answer :=
  let deep := decide (2 ≤ target)
  match p with
  | .stk => if s.stkState = 0 then .accept else .refuse 1
  | .cox => if (s.cox i).running.isEmpty then .accept else .defer
  | .core =>
    let x := s.core i
    if x.stalled then .refuse 2
    else if x.block.isNone ∧ x.saving = 0 ∧
        !(match s.seatOf i with | some t => s.saved.any (fun a => a.2.home == 8 * (i / 9) + t) | none => false) then .accept
    else .defer
  | .cdm => s.askEngine i
  | .hdm => s.askEngine 16
  | .mmu =>
    if !s.slots.isEmpty then .refuse 2
    else if s.rd MMU_CKPT_STAT_STATE ≠ 0 then .refuse 3
    else if s.is MMU_INVAL_CTL_BUSY then .defer else .accept
  | .tier =>
    if deep && ((List.range 8).any (fun w => s.rd TIER_LEND_CTL_STATE 0 w == 2) ||
        (List.range 16).any (fun j => s.is TIER_LEASE_CTL_ENABLE 0 j && decide (s.rd TIER_LEASE_CTL_STATE 0 j < 2))) then .refuse 4
    else if s.objs.any (fun o => o.2.move.isSome) then .defer else .accept
  | .lnk => if deep && !(s.port i).slots.isEmpty then .defer else .accept
  | .hif =>
    if deep && (List.range 63).any (fun c => s.blk .ctx (c + 1) == 1 || s.blk .ctx (c + 1) == 2) then .refuse 5
    else if deep && !s.hostReads.isEmpty then .defer else .accept
  | .ros => if s.rosWait.isSome then .defer else .accept
  | .spr => if !s.ledgerPend.isEmpty || s.retired.any (fun r => r.2 == 1) then .defer else .accept
  | .pwr =>
    let mv := s.rd PWR_INPUT_MV
    if s.pwr.supply && (mv == 0 || (decide (40000 ≤ mv) && decide (mv ≤ 60000))) &&
        (List.range 8).all (fun k => s.rd HBM_THROTTLE_LEVEL k == 0) then .accept
    else .refuse 6
  | _ => .accept

/-- The block items that are asked: every one with a page that is not off, retired or spare. -/
def State.asked' (s : State) : List (Page × Nat) :=
  Page.all.flatMap (fun p => ((List.range p.count).filter (fun i => s.blk p i == 1 || s.blk p i == 2 || s.blk p i == 3)).map (fun i => (p, i)))

/-- The block of the lowest BAR0 offset of a list. -/
def lowestBlock : List (Page × Nat) → Option (Page × Nat)
  | [] => none
  | b :: t => match lowestBlock t with
    | some c => if b.1.base b.2 ≤ c.1.base c.2 then some b else some c
    | none => some b

/-- The reason of a refusal. -/
def Answer.reason : Answer → Nat
  | .refuse r => r
  | _ => 0

/-- A request fails (R653): the block and the reason are recorded, and nothing changes. -/
def State.failEntry (s : State) (origin type inst reason : Nat) : State :=
  let s := ((((s.wr PWR_STAT_STATE origin).wr PWR_STAT_LAST_RESULT 2).wr PWR_STAT_REASON reason).wr PWR_STAT_BLOCK_TYPE type).wr
    PWR_STAT_BLOCK_INSTANCE inst
  (s.bump PWR_PC_REFUSALS).updPwr (fun p => { p with req := none })

/-- A request succeeds without a round, or after its COMMIT (R654, R655). -/
def State.entryDone (s : State) : State :=
  (((s.wr PWR_STAT_LAST_RESULT 1).wr PWR_STAT_REASON 0).wr PWR_STAT_BLOCK_TYPE 0).wr PWR_STAT_BLOCK_INSTANCE 0

/-- An ask round (R652, R653). -/
def State.askRound (s : State) (r : PowerReq) : State :=
  let all := s.asked'
  match lowestBlock (all.filter (fun b => (s.askBlock r.target b.1 b.2).reason != 0)) with
  | some b => s.failEntry r.origin b.1.typeCode (b.2 % 256) (s.askBlock r.target b.1 b.2).reason
  | none =>
    match lowestBlock (all.filter (fun b => s.askBlock r.target b.1 b.2 == .defer)) with
    | some b => s.updPwr (fun p => { p with req := some { r with block := (b.1.typeCode, b.2 % 256), agreed := false } })
    | none => s.updPwr (fun p => { p with req := some { r with agreed := true } })

/-- Memory controllers, as a mask of 40 bits. -/
def allMemories : Nat := 2 ^ 40 - 1

/-- Ports that are up or train. -/
def State.livePorts (s : State) : Nat := ((List.range 16).map (fun q => b2n (s.portUp q || s.training q) * 2 ^ q)).sum

/-- The main rails go off with all pad groups held (R657); PCIe is down. -/
def State.railsOff (s : State) : State := s.pcieDown.wr PWR_PAD_RELEASE_HELD 0x7F

/-- The module enters the state it was asked for (R654, R656). -/
def State.enterState (s : State) (r : PowerReq) : State :=
  let s := (s.entryDone.bump PWR_PC_ENTRIES).logPower r.origin r.target
  let s := s.updPwr (fun p => { p with req := none })
  match r.target with
  | 1 => s.wr PWR_STAT_STATE 1
  | 2 =>
    let live := s.livePorts
    (s.railsOff.wr PWR_STAT_STATE 2).updPwr (fun p => { p with selfRef := allMemories, ports := live, ready := false })
  | _ => (s.railsOff.loseMain.wr PWR_STAT_STATE 3).wr PWR_STAT_TRIP 0

/-- COMMIT (R654): each block checks its condition again; one that no longer meets it fails the request with reason 8. It follows
the round in which every block has accepted, as a step of its own (log 31). -/
def State.commitEntry (s : State) : State :=
  match s.pwr.req with
  | some r =>
    if r.agreed then
      match lowestBlock (s.asked'.filter (fun b => s.askBlock r.target b.1 b.2 != .accept)) with
      | some b => s.failEntry r.origin b.1.typeCode (b.2 % 256) 8
      | none => s.enterState r
    else s
  | none => s

/-- A PWR_CMD (R650 to R655). A request in progress ignores it; the current state succeeds at once; HOLD and DORMANT are left only by
a wake. -/
def State.powerCmd (s : State) (target : Nat) : State :=
  let st := s.rd PWR_STAT_STATE
  if s.pwr.req.isSome then s.cfgErr .pwr
  else if st = target then s.entryDone
  else if st ≠ 0 ∧ st ≠ 1 then s
  else if target = 0 then s.easyWake.entryDone
  else
    let r : PowerReq := { target := target, origin := st, start := s.clock, agreed := false, block := (0, 0) }
    ((s.wr PWR_STAT_STATE 5).updPwr (fun p => { p with req := some r })).askRound r

def execEnterRow (s : State) : Host.Outcome State Fault Refusal := s.rails true (fun s => s.powerCmd 0)
def execEnterEasy (s : State) : Host.Outcome State Fault Refusal := s.rails true (fun s => s.powerCmd 1)
def execEnterHold (s : State) : Host.Outcome State Fault Refusal := s.rails true (fun s => s.powerCmd 2)
def execEnterDormant (s : State) : Host.Outcome State Fault Refusal := s.rails true (fun s => s.powerCmd 3)

/-- ASK_ROUND (R653): the largest deferral of the last round has passed; beyond PWR_DEFER_MAX the request fails with reason 7. -/
def askRoundEffect (deferMs : Nat) (s : State) : State :=
  match s.pwr.req with
  | some r =>
    let t := s.clock + deferMs * 16000000
    if r.start + s.rd PWR_DEFER_MAX_MS * 16000000 < t then s.failEntry r.origin r.block.1 r.block.2 7
    else (s.at t).askRound r
  | none => s

def execAskRound (deferMs : Nat) (s : State) : Host.Outcome State Fault Refusal :=
  s.rails (match s.pwr.req with | some r => !r.agreed | none => false) (askRoundEffect deferMs)

/-! ### Pads and wake (R657 to R661) -/

/-- The pad group of a memory controller, and of a port. -/
def memGroup (lpd : Bool) (ctl : Nat) : Nat := if lpd then (if ctl < 16 then 4 else 5) else 3
def portGroup (q : Nat) : Nat := if q < 8 then 1 else 2
def memBit (lpd : Bool) (ctl : Nat) : Nat := if lpd then 8 + ctl else ctl

/-- The pad group of the block of a page is held (R658). -/
def State.groupHeld (s : State) (p : Page) (i : Nat) : Bool :=
  match p with
  | .hif => bitOf (s.rd PWR_PAD_RELEASE_HELD) 0
  | .lnk => bitOf (s.rd PWR_PAD_RELEASE_HELD) (portGroup i)
  | .hbm => bitOf (s.rd PWR_PAD_RELEASE_HELD) 3
  | .lpd => bitOf (s.rd PWR_PAD_RELEASE_HELD) (memGroup true i)
  | _ => false

/-- A wake from HOLD ends (R660): every held group is released, and each memory has left self-refresh. A warm reset that started the
wake follows (R667). -/
def State.reachRow (s : State) : State :=
  if s.rd PWR_STAT_STATE = 6 ∧ s.pwr.ready ∧ s.rd PWR_PAD_RELEASE_HELD = 0 ∧ s.pwr.selfRef = 0 then
    let s := ((s.wr PWR_STAT_STATE 0).logPower 2 0).ibiRaise 7
    match s.pwr.owed with
    | some t => s.warmReset t
    | none => s
  else s

/-- The ports of a group that were up train again after its release (R542, R660). -/
def State.retrainGroup (s : State) (g : Nat) : State :=
  (List.range 16).foldl (fun (t : State) q =>
    if portGroup q = g ∧ bitOf t.pwr.ports q then (t.setPortState q 4).startPhases q else t) s

/-- A write of 1s to PWR_PAD_RELEASE (R658): the groups that are held and named are released. -/
def State.releasePads (s : State) (mask : Nat) : State :=
  let held := s.rd PWR_PAD_RELEASE_HELD
  let go := held &&& mask
  let s := s.wr PWR_PAD_RELEASE_HELD (held - go)
  let s := if bitOf go 1 then s.retrainGroup 1 else s
  let s := if bitOf go 2 then s.retrainGroup 2 else s
  s.reachRow

/-- The wake of a module in HOLD or DORMANT (R659 to R661, R664). After a trip it is accepted only below 95 °C. -/
def State.wake (s : State) : State :=
  match s.rd PWR_STAT_STATE with
  | 2 => (s.wr PWR_STAT_STATE 6).updPwr (fun p => { p with ready := false })
  | 3 =>
    let trip := s.is PWR_STAT_TRIP
    if s.pwr.supply ∧ !(trip ∧ 95 ≤ s.rd TMP_HOTTEST_TEMP) then s.bringUp 1 (if trip then 3 else 2) else s
  | _ => s

/-- WAKE_READY (R660): every rail is good, and the blocks go on with the register values they kept. -/
def wakeReadyEffect (s : State) : State := ((s.updPwr (fun p => { p with ready := true })).ibiRaise 6).reachRow

/-- SELF_REFRESH_EXIT (R660): a memory whose pad group is released leaves self-refresh. -/
def selfRefreshExitEffect (lpd : Bool) (ctl : Nat) (s : State) : State :=
  (s.updPwr (fun p => { p with selfRef := p.selfRef - (p.selfRef &&& 2 ^ memBit lpd ctl) })).reachRow

def State.mayLeaveRefresh (s : State) (lpd : Bool) (ctl : Nat) : Bool :=
  s.rd PWR_STAT_STATE == 6 && s.pwr.ready && decide (ctl < if lpd then 32 else 8) && bitOf s.pwr.selfRef (memBit lpd ctl) &&
  !bitOf (s.rd PWR_PAD_RELEASE_HELD) (memGroup lpd ctl)

/-! ### Limits while running (R662 to R665) -/

/-- Sets the operating point, with the condition that set it. -/
def State.setPoint (s : State) (point cause : Nat) : State :=
  if s.rd PWR_CLOCK_POINT = point then s else (s.wr PWR_CLOCK_POINT point).wr PWR_CLOCK_CAUSE cause

/-- The point never rises above PWR_CLOCK_MAX (R663). -/
def State.capPoint (s : State) : State :=
  if s.rd PWR_CLOCK_POINT < s.rd PWR_CLOCK_MAX_POINT then s.setPoint (min 6 (s.rd PWR_CLOCK_MAX_POINT)) 5 else s

/-- The telemetry of a check (R757, R677). -/
def State.telemetry (s : State) (r : PowerReading) : State :=
  let ts := (r.temps.take 6).map (fun t => min t 255)
  let s := ts.zipIdx.foldl (fun (t : State) e =>
    ((t.wr TMP_DIE_TEMP e.1 0 e.2).wr TMP_DIE_PEAK (max e.1 (t.rd TMP_DIE_PEAK 0 e.2)) 0 e.2).on TMP_DIE_VALID 0 e.2) s
  let hot := ts.foldl max 0
  let s := ((s.wr TMP_HOTTEST_TEMP hot).wr TMP_HOTTEST_DIE (ts.findIdx (fun t => t == hot))).on TMP_HOTTEST_VALID
  ((s.wr PWR_INPUT_MV (min r.mv 65535)).wr PWR_INPUT_W (min r.w 4095)).bump PWR_PC_ENERGY r.w

/-- The action of a check (R663). -/
def State.throttle (s : State) (hot w : Nat) : State :=
  let p := s.rd PWR_CLOCK_POINT
  let reset (t : State) : State := t.updPwr (fun u => { u with calm := 0 })
  if 105 ≤ hot then reset (((s.setPoint 6 1).cause .tmp 8).ibiRaise 3)
  else if 95 ≤ hot then reset (s.setPoint (min 6 (p + 1)) 2)
  else if s.rd PWR_LIMIT_W < w then reset (s.setPoint (min 6 (p + 1)) 3)
  else if hot < 92 ∧ w + s.rd PWR_HYST_W < s.rd PWR_LIMIT_W then
    if 9 ≤ s.pwr.calm then reset (if s.rd PWR_CLOCK_MAX_POINT < p then s.setPoint (p - 1) 4 else s)
    else s.updPwr (fun u => { u with calm := u.calm + 1 })
  else reset s

/-- POWER_CHECK (R663): once per millisecond. Outside the running states it only updates the telemetry. -/
def powerCheckEffect (r : PowerReading) (s : State) : State :=
  let t := max s.clock (s.pwr.checkAt + 16000000)
  let past := (t - s.pwr.checkAt) / 16
  let s := (s.at t).updPwr (fun p => { p with checkAt := t })
  let s := if s.rd PWR_CLOCK_POINT = 0 ∨ !s.railsUp then s else s.bump PWR_PC_THROTTLE_NS past
  let s := s.telemetry r
  if s.railsUp then (s.throttle (s.rd TMP_HOTTEST_TEMP) r.w).capPoint else s

def execPowerCheck (r : PowerReading) (s : State) : Host.Outcome State Fault Refusal :=
  s.always (s.pwr.standby && decide (r.temps.length = 6)) (powerCheckEffect r)

/-- Every rail but the always-on domain goes off at once (R650, R664, R665): the module is in DORMANT. -/
def State.dropRails (s : State) : State :=
  if s.rd PWR_STAT_STATE = 3 then s
  else ((s.railsOff.loseMain.wr PWR_STAT_STATE 3).wr PWR_RET_STAT_BUSY 0).updPwr (fun p => { p with owed := none })

/-- TRIP (R664): a junction at 115 °C (cause 0), or an over-current of the conversion stage (cause 1). -/
def tripEffect (cause : Nat) (s : State) : State :=
  let s := (s.dropRails.on PWR_STAT_TRIP).ibiRaise 1
  s.logEv .pwr 0 0x702 4 0 (s.rd TMP_HOTTEST_TEMP + cause % 2 * 2 ^ 8)

def execTrip (cause : Nat) (s : State) : Host.Outcome State Fault Refusal :=
  s.always (s.pwr.standby && s.rd PWR_STAT_STATE != 3) (tripEffect cause)

/-- J2 is out of range (R665): the voltage that the entry names is what the stage measures, free here. -/
def State.loseSupply (s : State) : State :=
  let s := (s.dropRails.wr PWR_STAT_TRIP 0).updPwr (fun p => { p with supply := false })
  let (v, s) := s.free
  (s.logEv .pwr 0 0x703 4 0 (v % 2 ^ 16)).ibiRaise 2

/-- SUPPLY_LOSS (R665). -/
def supplyLossEffect (s : State) : State := s.loseSupply

def execSupplyLoss (s : State) : Host.Outcome State Fault Refusal := s.always (s.pwr.standby && s.pwr.supply) supplyLossEffect

/-- MATE_OPEN (R769): as if J2 had fallen below 38 V. -/
def mateOpenEffect (s : State) : State := s.loseSupply

def execMateOpen (s : State) : Host.Outcome State Fault Refusal := s.always (s.pwr.standby && s.pwr.supply) mateOpenEffect

/-- SUPPLY_RETURN (R665): J2 has stayed above 40 V for 10 ms; a cold bring-up. -/
def supplyReturnEffect (s : State) : State := (s.updPwr (fun p => { p with supply := true })).bringUp 1 1

def execSupplyReturn (s : State) : Host.Outcome State Fault Refusal := s.always (s.pwr.standby && !s.pwr.supply) supplyReturnEffect

/-- STANDBY_STOP (R771): the always-on domain and the logbook lose power. -/
def standbyStopEffect (s : State) : State :=
  let s := if s.rd PWR_STAT_STATE = 3 then s else s.dropRails
  let s : State := { s with
    logQueue := [], logRing := [], ibi := [], i3c := default, tap := State.reset.tap
    regs := s.regs.filter (fun c => c.1 == SPR_LEDGER_STAT_REGION.key 0 0 || c.1 == PWR_RET_COMMITS_SLOT0.key 0 0 ||
      c.1 == PWR_RET_COMMITS_SLOT1.key 0 0) }
  (s.wr PWR_STAT_STATE 3).updPwr (fun p => { p with standby := false, supply := false, calm := 0, owed := none })

def execStandbyStop (s : State) : Host.Outcome State Fault Refusal := s.always s.pwr.standby standbyStopEffect

/-- STANDBY_START (R771, R772): the cold reset from its first step; the straps are sampled, the power-ups counted, and the stroke clock
starts afresh (R629, TIME). -/
def standbyStartEffect (straps : Nat) (s : State) : State :=
  let s : State := { s with clock := 0, powerCycles := s.powerCycles + 1 }
  (s.updPwr (fun p => { p with standby := true, supply := true, straps := straps % 16, checkAt := 0 })).bringUp 1 0

def execStandbyStart (straps : Nat) (s : State) : Host.Outcome State Fault Refusal := s.always (!s.pwr.standby) (standbyStartEffect straps)

/-! ### Reset commands and PERST# (R666, R667, R774) -/

/-- PWR_WARM_RESET (R677): other values are ignored. -/
def pwrWarmResetEffect (key : Nat) (s : State) : State := if key = 0xA55A then s.warmReset 2 else s

/-- PERST_ASSERT (R667, R774): on a front device it takes the link down and starts a warm reset. -/
def perstAssertEffect (s : State) : State :=
  let front := s.front
  let s := s.updPwr (fun p => { p with perst := true })
  if front then s.pcieDown.warmReset 0 else s

/-- PERST_DEASSERT (R774): PCIe training may start. -/
def execPerstDeassert (s : State) : Host.Outcome State Fault Refusal :=
  s.always s.pwr.perst (fun s => s.updPwr (fun p => { p with perst := false }))

/-- PCIE_LINK_UP (R577, R578): the trained speed (5: 32 GT/s, 6: 64 GT/s), the width and FLIT mode; the device is a front device. -/
def pcieLinkUpEffect (speed width : Nat) (flit : Bool) (s : State) : State :=
  (((s.wr HIF_LINK_STAT_SPEED speed).wr HIF_LINK_STAT_WIDTH width).wr HIF_LINK_STAT_FLIT (b2n flit)).on HIF_LINK_STAT_FRONT

def execPcieLinkUp (speed width : Nat) (flit : Bool) (s : State) : Host.Outcome State Fault Refusal :=
  s.rails (!s.pwr.perst && !s.front && !s.groupHeld .hif 0 && (speed == 5 || speed == 6) && (width == 8 || width == 16) &&
      (flit == (speed == 6)))
    (pcieLinkUpEffect speed width flit)

/-! ### The retention store (R674 to R676) -/

/-- PWR_RET_CMD COMMIT (R674, R675): the slot that was not chosen or last written takes every RWK field; its CHECK comes last. -/
def retCommitEffect (s : State) : State :=
  if s.is PWR_RET_STAT_BUSY then s.cfgErr .pwr
  else
    let n := 1 - s.pwr.lastSlot % 2
    let r : RetSlot := { good := false, seq := max s.ret0.seq s.ret1.seq + 1, fw := s.rd DEV_FW_VERSION, entries := s.retEntries }
    let s := rwkPages.foldl (fun (t : State) q => t.wr (BLK_RETAIN_CTL_DIRTY q.1) 0 q.2) s
    ((s.setRetSlot n r).on PWR_RET_STAT_BUSY).updPwr (fun p => { p with lastSlot := n })

def execPwrRetCommit (s : State) : Host.Outcome State Fault Refusal := s.rails true retCommitEffect

/-- RET_COMMIT_DONE (R674, R752): CHECK is written, BUSY clears, and a warm reset that waited starts. -/
def retCommitDoneEffect (s : State) : State :=
  let n := s.pwr.lastSlot % 2
  let r := s.retSlot n
  let s := ((s.setRetSlot n { r with good := true }).wr PWR_RET_STAT_BUSY 0).wr PWR_RET_STAT_SEQUENCE r.seq
  let s := s.bump (if n = 0 then PWR_RET_COMMITS_SLOT0 else PWR_RET_COMMITS_SLOT1)
  match s.pwr.owed with
  | some t => (s.updPwr (fun p => { p with owed := none })).warmReset t
  | none => s

/-- PWR_RET_CMD INVALIDATE (R676): CHECK is cleared in both slots. -/
def invalidateEffect (s : State) : State :=
  { s with ret0 := { s.ret0 with good := false }, ret1 := { s.ret1 with good := false } }

def execInvalidate (s : State) : Host.Outcome State Fault Refusal := s.rails true invalidateEffect

/-! ### Output pins (R762, R763, R766) -/

/-- STAT_ON# is driven low in ROW and EASY; held, it reads high. -/
def State.statOnLow (s : State) : Bool :=
  !bitOf (s.rd PWR_PAD_RELEASE_HELD) 6 && decide (s.rd PWR_STAT_STATE ≤ 1)

/-- FAULT# is driven low in FAULT, after a trip, and while TRIP, SUPPLY or THERMAL is pending. -/
def State.faultLow (s : State) : Bool :=
  s.pwr.standby && (s.rd PWR_STAT_STATE == 7 || s.is PWR_STAT_TRIP || s.ibi.any (fun e => e.1 == 1 || e.1 == 2 || e.1 == 3))

/-- LINK# of a port is driven low while it is UP or DEGRADED, and released before its pads are held. -/
def State.linkLow (s : State) (q : Nat) : Bool := s.portUp q && !bitOf (s.rd PWR_PAD_RELEASE_HELD) (portGroup q)

end Sys2Proof.Machine
end

