-- ==== Sys2Proof/Machine/Test.lean ====
section
/-!
DEFINITION. Loopback tests, margining and JTAG (R699 to R708).
-/
namespace Sys2Proof.Machine

/-! ### Loopbacks (R699 to R701) -/

/-- The test registers of a page that has a test unit: MODE, TARGET, RUN, STATE, LOCK, ERRORS, BITS. -/
def testRegs (p : Page) : Option (Fld × Fld × Fld × Fld × Fld × Fld × Fld) :=
  match p with
  | .lnk => some (LNK_TEST_CTL_MODE, LNK_TEST_CTL_TARGET, LNK_TEST_CTL_RUN, LNK_TEST_STAT_STATE, LNK_TEST_STAT_LOCK, LNK_TEST_ERRORS, LNK_TEST_BITS)
  | .hbm => some (HBM_TEST_CTL_MODE, HBM_TEST_CTL_TARGET, HBM_TEST_CTL_RUN, HBM_TEST_STAT_STATE, HBM_TEST_STAT_LOCK, HBM_TEST_ERRORS, HBM_TEST_BITS)
  | .lpd => some (LPD_TEST_CTL_MODE, LPD_TEST_CTL_TARGET, LPD_TEST_CTL_RUN, LPD_TEST_STAT_STATE, LPD_TEST_STAT_LOCK, LPD_TEST_ERRORS, LPD_TEST_BITS)
  | .hif => some (HIF_TEST_CTL_MODE, HIF_TEST_CTL_TARGET, HIF_TEST_CTL_RUN, HIF_TEST_STAT_STATE, HIF_TEST_STAT_LOCK, HIF_TEST_ERRORS, HIF_TEST_BITS)
  | _ => none

/-- Modes of a page (R701). -/
def testModeOk (p : Page) (mode : Nat) : Bool :=
  match p with
  | .lnk => decide (1 ≤ mode) && decide (mode ≤ 5)
  | .hbm | .lpd => decide (1 ≤ mode) && decide (mode ≤ 3)
  | _ => mode == 1 || mode == 2 || mode == 4

/-- A memory may be tested: the stroke unit is STOPPED, and the controller holds no request (R700). -/
def State.memTestOk (s : State) (lpd : Bool) (i : Nat) : Bool :=
  s.stkState == 0 && s.rd (if lpd then LPD_SLOTS_USED_COUNT else HBM_SLOTS_USED_COUNT) i == 0

/-- RUN may be set (R700). -/
def State.testOk (s : State) (p : Page) (i mode : Nat) : Bool :=
  testModeOk p mode &&
  (match p with
   | .lnk => s.blk .lnk i != 1 || s.rd LNK_STAT_STATE i == 5
   | .hbm => s.memTestOk false i
   | .lpd => s.memTestOk true i
   | .hif => !(List.range 63).any (fun c => s.blk .ctx (c + 1) == 1 || s.blk .ctx (c + 1) == 2)
   | _ => false)

/-- TEST_RUN (R699 to R701): the counts restart, and the test runs, or STATE reads refused. Under modes 2 and 4 of the host interface
the PCIe link leaves L0. -/
def testRunEffect (p : Page) (i : Nat) (s : State) : State :=
  match testRegs p with
  | none => s
  | some (fm, _, fr, fs, fl, fe, fb) =>
    if s.testOk p i (s.rd fm i) then
      let s := ((((s.on fr i).wr fs 1 i).wr fl 0 i).wr fe 0 i).wr fb 0 i
      if p = .hif ∧ (s.rd fm i = 2 ∨ s.rd fm i = 4) ∧ s.front then s.pcieDown else s
    else (s.off fr i).wr fs 2 i

def execTestRun (page : Page) (inst : Nat) (s : State) : Host.Outcome State Fault Refusal :=
  s.rails (decide (inst < page.count) && (testRegs page).isSome) (testRunEffect page inst)

/-- Writing 0 to RUN stops the test. -/
def testStop (p : Page) (i : Nat) (s : State) : State :=
  match testRegs p with
  | none => s
  | some (_, _, fr, fs, _, _, _) => (s.off fr i).wr fs 0 i

/-- While a test runs its counts go on and its checker may find the pattern: at what rate and with how many errors is not said, so the
counts grow by free values (log 36). -/
def testTick (s : State) : State :=
  [Page.lnk, Page.hbm, Page.lpd, Page.hif].foldl (fun (t : State) p =>
    match testRegs p with
    | none => t
    | some (_, _, _, fs, fl, fe, fb) =>
      (List.range p.count).foldl (fun (u : State) i =>
        if u.rd fs i = 1 then
          let (n, u) := u.free
          let (e, u) := u.free
          let (l, u) := u.free
          ((u.bump fb n i).bump fe (e % (n + 1)) i).wr fl l i
        else u) t) s

/-- LOOPBACK_FOLLOWER (R701). -/
def loopbackFollowerEffect (s : State) : State := (s.wr HIF_TEST_STAT_STATE 3).pcieDown

def execLoopbackFollower (s : State) : Host.Outcome State Fault Refusal := s.rails s.front loopbackFollowerEffect

/-! ### Margining (R702 to R704) -/

/-- Margin registers: GO, TARGET, BUSY, PAUSED, LOW, HIGH, WORST_DQ, VALID, CLIPPED. -/
structure MarginRegs where
  go      : Fld
  target  : Fld
  busy    : Fld
  paused  : Fld
  low     : Fld
  high    : Fld
  worst   : Fld
  valid   : Fld
  clipped : Fld

def marginRegs (lpd : Bool) : MarginRegs :=
  if lpd then
    { go := LPD_MARGIN_CTL_GO, target := LPD_MARGIN_CTL_TARGET, busy := LPD_MARGIN_CTL_BUSY, paused := LPD_MARGIN_CTL_PAUSED, low := LPD_MARGIN_RESULT_LOW
      high := LPD_MARGIN_RESULT_HIGH, worst := LPD_MARGIN_RESULT_WORST_DQ, valid := LPD_MARGIN_RESULT_VALID
      clipped := LPD_MARGIN_RESULT_CLIPPED }
  else
    { go := HBM_MARGIN_CTL_GO, target := HBM_MARGIN_CTL_TARGET, busy := HBM_MARGIN_CTL_BUSY, paused := HBM_MARGIN_CTL_PAUSED, low := HBM_MARGIN_RESULT_LOW
      high := HBM_MARGIN_RESULT_HIGH, worst := HBM_MARGIN_RESULT_WORST_DQ, valid := HBM_MARGIN_RESULT_VALID
      clipped := HBM_MARGIN_RESULT_CLIPPED }

def sweepKey (lpd : Bool) (ctl : Nat) : Nat := memBit lpd ctl

/-- The stack is too hot for a sweep to go on (R704). -/
def State.sweepPaused (s : State) (lpd : Bool) (ctl : Nat) : Bool := !lpd && decide (2 ≤ s.rd HBM_THROTTLE_LEVEL ctl)

def memOk (lpd : Bool) (ctl : Nat) : Bool := decide (ctl < if lpd then 32 else 8)

/-- MARGIN_GO (R702, R703): a sweep starts, under the conditions of R700; where they do not hold, STATE of TEST_STAT reads refused. -/
def marginGoEffect (lpd : Bool) (ctl : Nat) (s : State) : State :=
  let m := marginRegs lpd
  if s.is m.busy ctl then s
  else if !s.memTestOk lpd ctl then s.wr (if lpd then LPD_TEST_STAT_STATE else HBM_TEST_STAT_STATE) 2 ctl
  else
    let s := [m.low, m.high, m.worst, m.valid, m.clipped].foldl (fun (t : State) f => t.wr f 0 ctl) s
    let s := ((s.on m.go ctl).on m.busy ctl).wr m.paused (b2n (s.sweepPaused lpd ctl)) ctl
    { s with sweeps := Tab.put s.sweeps (sweepKey lpd ctl) { upper := false, steps := 0, worst := none } }

def execMarginGo (lpd : Bool) (ctl : Nat) (s : State) : Host.Outcome State Fault Refusal := s.rails (memOk lpd ctl) (marginGoEffect lpd ctl)

/-- A side of a sweep has ended: upward follows downward, then the trained setting is restored and the result stands. -/
def State.endSide (s : State) (lpd : Bool) (ctl : Nat) (w : Sweep) (clipped : Bool) : State :=
  let m := marginRegs lpd
  let s := s.wr (if w.upper then m.high else m.low) w.steps ctl
  let s := if clipped then s.on m.clipped ctl else s
  if w.upper then
    let s := (((s.wr m.worst (w.worst.getD 0) ctl).on m.valid ctl).wr m.busy 0 ctl).wr m.go 0 ctl
    { s.wr m.paused 0 ctl with sweeps := Tab.del s.sweeps (sweepKey lpd ctl) }
  else { s with sweeps := Tab.put s.sweeps (sweepKey lpd ctl) { upper := true, steps := 0, worst := w.worst } }

/-- MARGIN_TRIAL (R703): the errors of each DQ lane in the trial. The first step at which a lane fails ends the side; so do 127 passing
steps. -/
def marginTrialEffect (lpd : Bool) (ctl : Nat) (errors : List Nat) (s : State) : State :=
  match Tab.find s.sweeps (sweepKey lpd ctl) with
  | none => s
  | some w =>
    match errors.findIdx? (fun e => e != 0) with
    | some dq => s.endSide lpd ctl { w with worst := some (w.worst.getD dq) } false
    | none =>
      let w' : Sweep := { w with steps := w.steps + 1 }
      if 127 ≤ w'.steps then s.endSide lpd ctl w' true
      else { s with sweeps := Tab.put s.sweeps (sweepKey lpd ctl) w' }

def execMarginTrial (lpd : Bool) (ctl : Nat) (errors : List Nat) (s : State) : Host.Outcome State Fault Refusal :=
  s.rails (memOk lpd ctl && (Tab.find s.sweeps (sweepKey lpd ctl)).isSome && !s.sweepPaused lpd ctl) (marginTrialEffect lpd ctl errors)

/-! ### JTAG (R705 to R708) -/

/-- Loads the instruction register. -/
def State.loadIr (s : State) (code : Nat) : State := { s with tap := { s.tap with ir := code } }

/-- Every link goes down (R708): each Azeaper port that is enabled enters FAILED, and the host interface behaves as at link down. -/
def State.linksDown (s : State) : State :=
  if s.railsUp && (s.front || (List.range 16).any s.portUp) then
    let s := (List.range 16).foldl (fun (t : State) q =>
      if t.rd LNK_STAT_STATE q = 0 ∨ t.rd LNK_STAT_STATE q = 5 then t else t.portDown q) s
    if s.front then s.pcieDown else s
  else s

/-- EXTEST (R706, R708): the boundary register drives the pins. -/
def execExtest (s : State) : Host.Outcome State Fault Refusal := s.always s.pwr.standby (fun s => (s.loadIr 0x00).linksDown)

/-- IDCODE (R705): the identification register is selected. -/
def execIdcode (s : State) : Host.Outcome State Fault Refusal := s.always s.pwr.standby (fun s => s.loadIr 0x01)

/-- The value of the identification register (R705). -/
def idcodeValue : Nat := 0x1A818937

/-- SAMPLE/PRELOAD (R706, R707): the 96 cells of the boundary register take what was sampled or shifted in. -/
def execSamplePreload (cells : List Bool) (s : State) : Host.Outcome State Fault Refusal :=
  s.always (s.pwr.standby && decide (cells.length = 96)) (fun s => { s with tap := { ir := 0x02, cells := cells } })

/-- CLAMP (R706, R708). -/
def execClamp (s : State) : Host.Outcome State Fault Refusal := s.always s.pwr.standby (fun s => (s.loadIr 0x04).linksDown)

/-- HIGHZ (R706, R708). -/
def execHighz (s : State) : Host.Outcome State Fault Refusal := s.always s.pwr.standby (fun s => (s.loadIr 0x05).linksDown)

/-- BYPASS (R706). -/
def execBypass (s : State) : Host.Outcome State Fault Refusal := s.always s.pwr.standby (fun s => s.loadIr 0xFF)

/-- TEST_LOGIC_RESET (R705): IDCODE; the ports stay as they are. -/
def testLogicResetEffect (s : State) : State := s.loadIr 0x01

def execTestLogicReset (s : State) : Host.Outcome State Fault Refusal := s.always s.pwr.standby testLogicResetEffect

end Sys2Proof.Machine
end

