-- ==== Sys2Proof/Machine/Blocks.lean ====
section
/-!
DEFINITION. The states of a block (R716 to R721): enable, drain, force-off, soft reset; interrupt causes and the summary message
(R731 to R735).
-/
namespace Sys2Proof.Machine

/-! ### Interrupt causes and the summary (R731 to R734) -/

/-- Causes that a page has (R731). -/
def causeMask (p : Page) : Nat :=
  match p with
  | .stk | .tmp | .hbm => 0x10F
  | .spr => 0x30F
  | _ => 0xF

/-- Sends the summary message (R734): a PUT of the vector word to DEV_INT_ADDR, which clears ARMED. -/
def State.sendSummary (s : State) : State :=
  (s.off DEV_INT_CTL_ARMED).putWord .summary 0 (s.rd DEV_INT_ADDR) (leBytes (s.rd DEV_INT_CTL_VECTOR) 4)

/-- While ENABLE and ARMED are set and a page is pending, one message leaves (R734). -/
def State.summaryCheck (s : State) : State :=
  if s.is DEV_INT_CTL_ENABLE && s.is DEV_INT_CTL_ARMED && !s.pendingPages.isEmpty then s.sendSummary else s

/-- REARM (R734). -/
def rearmEffect (s : State) : State := (s.on DEV_INT_CTL_ARMED).summaryCheck

def execRearm (s : State) : Host.Outcome State Fault Refusal := s.rails true rearmEffect

/-- SUMMARY_RETRY (R734): 1 ms after the failure ARMED is set again. -/
def summaryRetryEffect (s : State) : State :=
  match s.summaryAt with
  | none => s
  | some t => (({ s.at t with summaryAt := none } : State).on DEV_INT_CTL_ARMED).summaryCheck

def execSummaryRetry (s : State) : Host.Outcome State Fault Refusal := s.rails s.summaryAt.isSome summaryRetryEffect

/-- INT_FORCE (R713, R727, R731): sets the causes of the mask; a page that is off, retired or spare refuses the write. -/
def intForceEffect (p : Page) (i mask : Nat) (s : State) : State :=
  if s.blk p i = 0 ∨ s.blk p i = 4 ∨ s.blk p i = 5 then s.cfgErr p i
  else s.wr (BLK_INT_STAT p) (s.rd (BLK_INT_STAT p) i ||| (mask &&& causeMask p)) i

def execIntForce (page : Page) (inst mask : Nat) (s : State) : Host.Outcome State Fault Refusal :=
  s.rails (decide (inst < page.count)) (intForceEffect page inst mask)

/-! ### Enable (R716) -/

/-- A port's loopback test keeps it from being enabled (R700). -/
def State.testing (s : State) (p : Page) (i : Nat) : Bool := decide (p = .lnk) && s.is LNK_TEST_CTL_RUN i

/-- ENABLE (R542, R593, R658, R700, R716): a disabled block is enabled unless a rule refuses it. A write of 1 in state enabled changes
nothing. -/
def enableEffect (p : Page) (i : Nat) (s : State) : State :=
  match s.blk p i with
  | 1 => s
  | 3 =>
    if s.groupHeld p i ∨ s.testing p i then s.cfgErr p i
    else match p with
      | .ctx => s.enableCtx i (Config.vfEnabled i)
      | .lnk => (s.wr (BLK_STAT_STATE p) 1 i).startTraining i
      | _ => s.wr (BLK_STAT_STATE p) 1 i
  | _ => s.cfgErr p i

def execEnable (page : Page) (inst : Nat) (s : State) : Host.Outcome State Fault Refusal :=
  s.rails (decide (inst < page.count)) (enableEffect page inst)

/-! ### Drain and force-off (R717 to R719) -/

/-- The channels of an engine. -/
def engineChans (e : Nat) : List (Nat × Nat) := ((List.range 17).filter (chanExists e)).map (fun c => (e, c))

/-- The engine of a page. -/
def pageEngine (p : Page) (i : Nat) : Nat := if p = .hdm then 16 else i

/-- Cores of a crew that run a COPY or TRANSPOSE_COPY on the seat lanes of its engine (R524). -/
def State.laneSeats (s : State) (c : Nat) : List Nat :=
  ((List.range 9).map (fun k => 9 * c + k)).filter (fun i => match (s.core i).run with
    | some r => fieldLE r.raw 0 1 == 1 || fieldLE r.raw 0 1 == 2
    | none => false)

/-- The unissued cues of a crew's sheet fail with 0x41 (R717). -/
def State.dropCues (s : State) (c : Nat) : State :=
  match (s.cox c).cur with
  | none => s
  | some sh => (List.range sh.cues.length).foldl (fun (t : State) k =>
      if (t.cox c).issued.contains k then t else t.failCue c k stRefused) s

/-- A drain starts (R717): under DRAIN_MODE 0 work that is accepted and not started ends with 0x41; the counts of the doorbells are
kept. -/
def State.drainBlock (s : State) (p : Page) (i : Nat) : State :=
  match p with
  | .ctx => s.drainCtx i
  | .cdm | .hdm => (engineChans (pageEngine p i)).foldl (fun (t : State) q => chDisableEffect q.1 q.2 t) s
  | .cox => if s.is (BLK_CTL_DRAIN_MODE .cox) i then s else s.dropCues i
  | .core =>
    let s := if (s.core i).run.isNone && !s.is (BLK_CTL_DRAIN_MODE .core) i then
        (s.updCore i (fun x => { x with next := none })).fetchNext i else s
    s.retryTiles (i / 9)
  | .tier => { s with ctxBell := Tab.put s.ctxBell tierBellKey (s.tok (tokGlobal (s.rd TIER_RING_CTL_TOKEN))).toNat }
  | _ => s

/-- DISABLE_REQ (R716, R717, R719): an enabled block drains; elsewhere nothing happens. -/
def disableEffect (p : Page) (i : Nat) (s : State) : State :=
  if s.blk p i = 1 then ((s.wr (BLK_STAT_STATE p) 2 i).on (BLK_CTL_DISABLE_REQ p) i).drainBlock p i else s

def execDisableReq (page : Page) (inst : Nat) (s : State) : Host.Outcome State Fault Refusal :=
  s.rails (decide (inst < page.count)) (disableEffect page inst)

/-- The cues of a crew are abandoned (R718): those not issued fail with 0x41, those in progress are marked; what the batcher holds is
dropped. -/
def State.abandonCues (s : State) (c : Nat) : State :=
  let s := s.dropCues c
  let x := s.cox c
  let rows := x.batch.flatMap (fun b => b.rows) ++ x.tiles.flatMap (fun t => t.2)
  let s := (s.cox c).running.foldl (fun (t : State) r => t.cuePart c r.1 stRefused flAbandoned 0 [] 0) s
  let s := rows.foldl (fun (t : State) r => t.cuePart c r.cue stRefused flAbandoned 0 [] r.count) s
  s.setCox c { s.cox c with batch := [], tiles := [] }

/-- A port's work is abandoned (R718): the packets of this device end with 0x41, those of others are answered so. -/
def State.abandonPort (s : State) (q : Nat) : State :=
  let x := s.port q
  let gone := (x.replay.flatMap (fun f => f.packets) ++ x.tx.map (fun e => e.2.2)).filter (fun p => isRequest p && p.src != s.dev)
  let s := s.setPort q { x with replay := [], tx := [] }
  let s := (x.slots.map Prod.fst).foldl (fun (t : State) n => t.endSlot q n stRefused) s
  gone.foldl (fun (t : State) p => t.sendNak p stRefused) s

/-- The accesses of the host that wait are given up: a read ends with Completer Abort. -/
def State.dropBars (s : State) : State :=
  let ws := s.barWaits
  ws.foldl (fun (t : State) w => if w.2.kind = 0 then t.barAnswer w.2.func w.2.addr none else t) { s with barWaits := [] }

/-- The requests of a controller are dropped. -/
def State.dropBanks (s : State) (lpd : Bool) (ctl : Nat) : State :=
  let f := memFlds lpd
  ({ s with banks := s.banks.filter (fun b => b.1 / 2 ^ 12 != b2n lpd * 256 + ctl) }.wr f.1 0 ctl).wr f.2.1 0 ctl

/-- Work in flight is abandoned (R596, R718). -/
def State.forceBlock (s : State) (p : Page) (i : Nat) : State :=
  match p with
  | .ctx => s.abandonCtx i
  | .cdm | .hdm =>
    let e := pageEngine p i
    let s := (engineChans e).foldl (fun (t : State) q => chForceEffect q.1 q.2 t) s
    if e = 16 then s else (s.laneSeats e).foldl (fun (t : State) k => t.abandonSeat k) s
  | .cox => s.abandonCues i
  | .core => (s.abandonSeat i).retryTiles (i / 9)
  | .tier =>
    let s := match s.tierCmd with
      | some raw => s.tierDone raw stRefused flAbandoned 0 0 0
      | none => s
    s.objs.foldl (fun (t : State) o => t.dropMove o.1 o.2 stRefused) s
  | .mmu =>
    let cs := (s.slots.map (fun f => f.2.ctx) ++ s.slotless.map (fun f => f.ctx)).dedup
    let s := cs.foldl (fun (t : State) c => t.resumeContext c (some stRefused)) s
    let s := (s.off MMU_INVAL_CTL_GO).off MMU_INVAL_CTL_BUSY
    if s.rd MMU_CKPT_STAT_STATE = 2 then s.breakCkpt else s
  | .ros => { s with rosReqs := [] }
  | .hbm => s.dropBanks false i
  | .lpd => s.dropBanks true i
  | .lnk => s.abandonPort i
  | .hif =>
    let reads := s.hostReads
    reads.foldl (fun (t : State) r => t.failHostRead r.2 stRefused) { s.dropBars with hostReads := [] }
  | .stk => if 2 ≤ s.stkState then (s.wr STK_STAT_STATE 3).abandonStroke else s.becomeStopped
  | .log => { s.bump LOG_DROPPED s.logQueue.length with logQueue := [] }
  | .spr => if s.is SPR_CMD_STAT_BUSY then { s.sprStatus stRefused with sprOp := none } else s
  | .pwr => match s.pwr.req with
    | some r => s.failEntry r.origin 3 0 0
    | none => s
  | _ => s

/-- FORCE_OFF (R716, R718, R719): an enabled or draining block abandons its work and goes on draining; elsewhere nothing happens. -/
def forceEffect (p : Page) (i : Nat) (s : State) : State :=
  if s.blk p i = 1 then
    (((s.wr (BLK_STAT_STATE p) 2 i).on (BLK_CTL_FORCE_OFF p) i).drainBlock p i).forceBlock p i
  else if s.blk p i = 2 then (s.on (BLK_CTL_FORCE_OFF p) i).forceBlock p i
  else s

def execForceOff (page : Page) (inst : Nat) (s : State) : Host.Outcome State Fault Refusal :=
  s.rails (decide (inst < page.count)) (forceEffect page inst)

/-- Nothing of a block remains outstanding (R595, R716). -/
def State.quiet (s : State) (p : Page) (i : Nat) : Bool :=
  match p with
  | .ctx => s.ctxQuiet i
  | .cdm | .hdm =>
    let e := pageEngine p i
    (engineChans e).all (fun q => decide (5 ≤ s.chState q.1 q.2)) && (e == 16 || (s.laneSeats e).isEmpty)
  | .cox => (s.cox i).running.isEmpty && (match (s.cox i).cur with
      | some sh => decide (sh.cues.length ≤ (s.cox i).issued.length)
      | none => true)
  | .core => (s.core i).block.isNone && (s.core i).saving == 0
  | .tier => s.tierCmd.isNone && !s.objs.any (fun o => o.2.move.isSome) && !s.ringWaits
  | .mmu => s.slots.isEmpty && s.slotless.isEmpty && !s.is MMU_INVAL_CTL_BUSY && s.rd MMU_CKPT_STAT_STATE != 2
  | .ros => s.rosReqs.isEmpty
  | .hbm => s.rd HBM_SLOTS_USED_COUNT i == 0
  | .lpd => s.rd LPD_SLOTS_USED_COUNT i == 0
  | .lnk => (s.port i).slots.isEmpty && (s.port i).tx.isEmpty && (s.port i).replay.isEmpty && (s.port i).rx.isEmpty
  | .hif => s.hostReads.isEmpty && s.barWaits.isEmpty
  | .stk => s.stkState == 0
  | .log => s.logQueue.isEmpty
  | .spr => !s.is SPR_CMD_STAT_BUSY
  | .pwr => s.pwr.req.isNone
  | _ => true

/-- DRAIN_END (R542, R595, R716, R731): the block reports disabled, with cause STATE. -/
def drainEndEffect (p : Page) (i : Nat) (s : State) : State :=
  let s := (((s.wr (BLK_STAT_STATE p) 3 i).off (BLK_CTL_DISABLE_REQ p) i).off (BLK_CTL_FORCE_OFF p) i).cause p 3 i
  match p with
  | .ctx => s.endCtx i
  | .lnk => if s.rd LNK_STAT_STATE i = 0 then s else s.setPortState i 0
  | .core => s.retryTiles (i / 9)
  | _ => s

def execDrainEnd (page : Page) (inst : Nat) (s : State) : Host.Outcome State Fault Refusal :=
  s.rails (decide (inst < page.count) && s.blk page inst == 2 && s.quiet page inst) (drainEndEffect page inst)

/-! ### Soft reset (R667, R716, R720) -/

/-- Read-only fields that a soft reset keeps because they show what is outside the block's RW fields and internal state: what bring-up
has set and sensors show, and what the spares of R720 stand for. -/
def softKeptRo (p : Page) (f : Fld) : Bool :=
  match p with
  | .dev | .pwr | .log | .spr | .tmp => f.acc == .ro && f != DEV_INT_CTL_ARMED
  | .cdm | .hdm => f.off == 0x100
  | .cst => f == CST_RC_WAYS_RETIRED || f.off == 0x10C
  | .core => f.off == 0x140
  | .lnk => f == LNK_LANE_MAP_SPARED || f == LNK_STAT_SPARE_USED
  | .hbm | .lpd => f.off == 0x100 || f.off == 0x104
  | _ => false

/-- A field that a soft reset leaves as it is (R720). -/
def softKept (p : Page) (f : Fld) : Bool :=
  f.acc == .rwk || (decide (0x30 ≤ f.off) && decide (f.off < 0x100)) || f.off == 0x1C || f.off == 0x20 || f.off == 0x28 || softKeptRo p f

/-- A spare or retired channel keeps its state. -/
def State.chanKept (s : State) (p : Page) (i : Nat) (f : Fld) (j : Nat) : Bool :=
  (f == CDM_CH_STAT_STATE || f == HDM_CH_STAT_STATE) && decide (p = .cdm ∨ p = .hdm) && decide (6 ≤ s.rd f i j)

/-- The fields of a page take their reset values but for those kept (R720). -/
def State.resetFields (s : State) (p : Page) (i : Nat) : State :=
  (pageFields p ++ headerFields p).foldl (fun (t : State) f =>
    if softKept p f then t
    else (List.range f.n).foldl (fun (u : State) j => if u.chanKept p i f j then u else u.wr f (f.resetAt j) i j) t) s

/-- Memory of a range is cleared with valid check bits (R668 step 8). -/
def State.clearRange (s : State) (a n : Nat) : State :=
  { s with mem := s.mem.filter (fun c => decide (c.1 < a) || decide (a + n ≤ c.1))
           undef := s.undef.filter (fun u => !(decide (a ≤ u.lo) && decide (u.lo + u.len ≤ a + n)))
           poison := s.poison.filter (fun c => !overlaps c 16 a n) }

/-- The internal state of a block takes its reset value (R720). -/
def State.resetUnit (s : State) (p : Page) (i : Nat) : State :=
  match p with
  | .stk => { s with stk := default, touched := [], wideParams := [] }
  | .cox => { (s.detach (fun o => match o with | .cue c _ => c == i | _ => false)).setCox i default with tokens := s.tokens.filter (fun t => decide (t.1 < tokCrew i 0) || decide (tokCrew (i + 1) 0 ≤ t.1)) }
  | .core =>
    let s := (s.detach (fun o => o == .core i)).setCore i default
    match s.seatOf i with
    | some t => s.clearRange (scratchBase (i / 9) t) 0x300000
    | none => s
  | .cst => (s.clearRange (crewStoreBase i) 0x1000000).rcClear i
  | .cdm | .hdm => { s with chans := s.chans.filter (fun c => c.1 / 32 != pageEngine p i) }
  | .mmu => { s with tlb := [], slots := [], slotGen := [], slotless := [], ckptFrames := [] }
  | .tier => { s with objs := [], tierCmd := none, watches := [], lostObjs := [], leaseFails := [], loadPos := none }
  | .ros =>
    let s := s.clearRange (rosterAddr 0) 0x100000
    { s with rosReqs := [], rosPrev := [], rosAdvs := [], rosDemands := [], rosDrops := [], rosAdds := [], rosNoDir := [], lenFull := true }
  | .hbm => s.dropBanks false i
  | .lpd => s.dropBanks true i
  | .lnk => s.setPort i default
  | .hif => { s with hostReads := [], barWaits := [], barFailed := [] }
  | .dev => { s with tokens := s.tokens.filter (fun t => decide (tokCrew 0 0 ≤ t.1)), routesF := [], routesB := [] }
  | .log => { s with logQueue := [] }
  | .spr => { s with sprOp := none }
  | .pwr => s.updPwr (fun q => { q with req := none })
  | _ => s

/-- SOFT_RESET (R667, R720): a disabled block goes off; elsewhere the write is ignored and sets CFG_ERR. The bit reads 1 until the reset is
complete (R783). -/
def softResetEffect (p : Page) (i : Nat) (s : State) : State :=
  if s.blk p i = 3 then (((s.resetUnit p i).resetFields p i).wr (BLK_STAT_STATE p) 0 i).on (BLK_CTL_SOFT_RESET p) i else s.cfgErr p i

def execSoftReset (page : Page) (inst : Nat) (s : State) : Host.Outcome State Fault Refusal :=
  s.rails (decide (inst < page.count)) (softResetEffect page inst)

/-- RESET_COMPLETE (R716). -/
def execResetComplete (page : Page) (inst : Nat) (s : State) : Host.Outcome State Fault Refusal :=
  s.rails (decide (inst < page.count) && s.blk page inst == 0) (fun s => (s.wr (BLK_STAT_STATE page) 3 inst).off (BLK_CTL_SOFT_RESET page) inst)

/-! ### Reads (R715, R723, R726) -/

/-- What a function sees at an offset of BAR0 (R579, R712): the physical function every page, virtual function `n` its CTX page. -/
def funcOffset (f o : Nat) : Option Nat :=
  if f = 0 then some o else if o < 0x200 then some (Page.base .ctx f + o) else none

/-- READ_TO_CLEAR (R711, R722, R726): a 4-byte read. A read of the host is completed with the value; one of another size or alignment
with Unsupported Request. -/
def readToClearEffect (who : Requester) (o : Nat) (s : State) : State :=
  match who with
  | .func f =>
    if o % 4 ≠ 0 then { s with hostOut := s.hostOut ++ [HostOut.unsupported f o] }
    else match funcOffset f o with
      | none => s.barAnswer f o (some (leBytes 0 4))
      | some a => let r := s.regRead who a 4
        r.2.barAnswer f o (some r.1)
  | _ => if o % 4 = 0 then (s.regRead who o 4).2 else s

def execReadToClear (who : Requester) (offset : Nat) (s : State) : Host.Outcome State Fault Refusal :=
  s.rails (match who with | .func f => s.front && decide (f < 64) | .device d => decide (d < 512) | .i3c => true)
    (readToClearEffect who offset)

end Sys2Proof.Machine
end

