-- ==== Sys2Proof/Machine/Image.lean ====
section
/-!
DEFINITION. CROP_RESIZE, SPACE_TO_CHANNEL and CHANNEL_TO_SPACE (R253 to R265). A step is one row of output pixels, or a part of one that
would take the vector unit more than 512 cycles (R233, log 14).
-/
namespace Sys2Proof.Machine

/-! ### CROP_RESIZE -/

def cropFields : List (Nat × Nat) :=
  idFields ++ [(32, 4), (40, 4), byteSpan 6 2, (96, 24), byteSpan 20 2, byteSpan 24 8, byteSpan 32 8, byteSpan 48 8, byteSpan 64 12,
    (608, 2), byteSpan 80 32, byteSpan 120 8]

/-- Fields of CROP_RESIZE (R257). -/
def cropOk (raw : List Byte) : Bool :=
  let fa := fmtA raw
  let ow := fieldLE raw 72 2
  let oh := fieldLE raw 74 2
  onlyFields raw cropFields && ptrsOk raw [24, 32, 48, 96, 120] && (fa == 0 || fa == 1 || fa == 2 || fa == 3 || fa == 0xB) && fmtOk (fmtC raw) &&
    decide (scaleBase raw ≤ 65532) && decide (1 ≤ fieldLE raw 68 2) && decide (1 ≤ ow) && decide (ow ≤ 4096) &&
    decide (1 ≤ oh) && decide (oh ≤ 4096) && fieldBits raw 76 0 2 != 3 && fieldLE raw 84 4 % 64 == 0 &&
    fieldLE raw 104 4 % 64 == 0 && scalePtrOk (fmtC raw) (fieldLE raw 120 8)

/-- Output pixels that a step of CROP_RESIZE takes: an interpolation is three cycles of 128 channels (log 14). -/
def cropPixels (raw : List Byte) : Nat := max 1 (stepElems 3 / max 1 (fieldLE raw 68 2))

/-- Steps that a part of a row takes: more than one where the channels of a single pixel are more than a step interpolates; its last
step writes it (R233). -/
def cropReps (raw : List Byte) : Nat := max 1 (ceilDiv (fieldLE raw 68 2) (stepElems 3))

/-- Parts of a row of output pixels. -/
def cropParts (raw : List Byte) : Nat := ceilDiv (fieldLE raw 72 2) (cropPixels raw)

/-- Decode of CROP_RESIZE (R131, R255, R257): m, n and k hold the run-time IW, IH and image count. -/
def State.decodeCrop (s : State) (i : Nat) (b : Block) (raw : List Byte) : Except Decoded Run := do
  let ag := Agent.core i
  need (cropOk raw) stMalformed
  let dims ← access (s.shapeOf ag b.ctx raw [fieldLE raw 64 2, fieldLE raw 66 2, fieldLE raw 70 2, planB raw])
  let sc ← s.readScales ag b.ctx raw (fmtA raw) none 0 (fmtC raw)
  let iw := dims.getD 0 0
  let ih := dims.getD 1 0
  let im := dims.getD 2 0
  let bb := dims.getD 3 0
  need (decide (iw ≤ fieldLE raw 64 2) && decide (ih ≤ fieldLE raw 66 2) && decide (im ≤ fieldLE raw 70 2) &&
    decide (bb ≤ planB raw)) stShape
  if bb = 0 ∨ iw = 0 ∨ ih = 0 then throw (.done flZeroShape)
  return { emptyRun raw with m := iw, n := ih, k := im, b := bb, steps := bb * fieldLE raw 74 2 * cropParts raw * cropReps raw, sc := sc }

/-- A box record (R258). -/
structure CropBox where
  img : Nat
  y0  : Word
  x0  : Word
  y1  : Word
  x1  : Word

/-- Reads box `k`. Its reserved bytes 20 to 31 are ignored (DESIGN CHOICE, log 49: R258 does not say whether they are checked). -/
def State.readBox (s : State) (i : Nat) (b : Block) (raw : List Byte) (k : Nat) : Except Stop CropBox :=
  match s.readV (.core i) b.ctx (fieldLE raw 96 8 + 32 * k) 32 with
  | .error e => .error e
  | .ok d => .ok { img := fieldLE d 0 4, y0 := word32 d 4, x0 := word32 d 8, y1 := word32 d 12, x1 := word32 d 16 }

/-- A box that writes +0 (R260). -/
def CropBox.bad (x : CropBox) (images : Nat) : Bool :=
  let odd (w : Word) : Bool := fisNaN w || fisInf w
  odd x.y0 || odd x.x0 || odd x.y1 || odd x.x1 || decide (images ≤ x.img)

/-- The integer below or at an FP32 value; 0 for a value that is not finite. -/
def floorOf (w : Word) : Int :=
  match ofF32 w with
  | .fin s m e =>
    if 0 ≤ e then alignTo s m e 0
    else
      let q := m >>> (-e).toNat
      if s then (if m % 2 ^ (-e).toNat = 0 then -(q : Int) else -((q : Int) + 1)) else (q : Int)
  | _ => 0

/-- Sample position along a dimension and its weight (R259). -/
def samplePos (j o : Nat) (a b : Word) : Int × Word :=
  let h := fdiv (fsub b a) (f32OfNat o)
  let f := fsub (ffma (fadd (f32OfNat j) 0x3F000000) h a) 0x3F000000
  let t := floorOf f
  (t, fsub f (if fisNaN f || fisInf f then f else f32OfInt t))

/-- The channels of an input pixel, descaled, with the border mode applied (R253, R259). -/
def State.cropPixel (s : State) (i : Nat) (b : Block) (r : Run) (img : Nat) (y x : Int) : Except Stop (List Word) :=
  let raw := r.raw
  let c := fieldLE raw 68 2
  match borderAt (fieldBits raw 76 0 2) y r.n, borderAt (fieldBits raw 76 0 2) x r.m with
  | some yy, some xx =>
    s.rowF32 (.core i) b.ctx (aPtr raw + img * fieldLE raw 88 8 + yy * fieldLE raw 80 4 + xx * fieldLE raw 84 4) 0 (fmtA raw)
      r.sc.a 0 c
  | _, _ => .ok (List.replicate c 0)

/-- Bilinear interpolation of one channel (R259). -/
def bilinear (ay ax p00 p01 p10 p11 : Word) : Word :=
  let top := ffma ax (fsub p01 p00) p00
  let bot := ffma ax (fsub p11 p10) p10
  ffma ay (fsub bot top) top

/-- One output pixel of a box (R259, R260). -/
def State.cropOut (s : State) (i : Nat) (b : Block) (r : Run) (x : CropBox) (row col : Nat) : Except Stop (List Word) := do
  let raw := r.raw
  let c := fieldLE raw 68 2
  if x.bad r.k then return List.replicate c 0
  let (ty, ay) := samplePos row (fieldLE raw 74 2) x.y0 x.y1
  let (tx, ax) := samplePos col (fieldLE raw 72 2) x.x0 x.x1
  let p00 ← s.cropPixel i b r x.img ty tx
  let p01 ← s.cropPixel i b r x.img ty (tx + 1)
  let p10 ← s.cropPixel i b r x.img (ty + 1) tx
  let p11 ← s.cropPixel i b r x.img (ty + 1) (tx + 1)
  return (List.range c).map (fun k => bilinear ay ax (p00.getD k 0) (p01.getD k 0) (p10.getD k 0) (p11.getD k 0))

/-- A step of CROP_RESIZE: output pixels of a row of a box. Block scales of output pixel p lie at SC_PTR + p × LS, with LS from PLAN_N, as
R231 gives it for every tensor of the vector class (log 16). -/
def State.stepCrop (s : State) (i : Nat) (b : Block) (r : Run) : State :=
  let raw := r.raw
  let ow := fieldLE raw 72 2
  let oh := fieldLE raw 74 2
  s.stepDone i b (some (scaleBase raw + 3)) (0, 0) (fun t _ => t) (do
    if r.step % cropReps raw + 1 < cropReps raw then return { writes := [], locals := [], run := r }
    let part := r.step / cropReps raw
    let at' := part / cropParts raw
    let first := part % cropParts raw * cropPixels raw
    let k := at' / oh
    let row := at' % oh
    let x ← s.readBox i b raw k
    let outs ← (List.range (min (cropPixels raw) (ow - first))).mapM (fun d => do
      let col := first + d
      let v ← s.cropOut i b r x row col
      s.rowWrite (.core i) b.ctx (cPtr raw + k * fieldLE raw 108 4 + (row * ow + col) * fieldLE raw 104 4)
        (fieldLE raw 120 8 + ((k * oh + row) * ow + col) * mxStride (planN raw)) (fmtC raw) r.sc.sat r.sc.c 0 v)
    let o := joinRows outs
    return { writes := o.1, locals := []
             run := { r with cnt := r.cnt.add o.2, flags := r.flags ||| (if x.bad r.k then flBadBox else 0) } })

/-! ### Regrouping -/

def regroupFields : List (Nat × Nat) :=
  idFields ++ [(32, 4), (40, 4), byteSpan 6 2, (64, 24), (96, 24), byteSpan 20 2, byteSpan 24 8, byteSpan 32 8, byteSpan 48 8,
    byteSpan 64 8, (576, 2), byteSpan 73 4, byteSpan 80 24, byteSpan 112 16]

/-- Fields of a regrouping command (R261, R264, R784). `fold` says SPACE_TO_CHANNEL. -/
def regroupOk (raw : List Byte) (fold : Bool) : Bool :=
  let f := fmtA raw
  let c := fieldLE raw 68 2
  let fx := fieldLE raw 70 1
  let fy := fieldLE raw 71 1
  onlyFields raw regroupFields && ptrsOk raw [24, 32, 48, 112, 120] && fmtOk f && fmtC raw == f && decide (1 ≤ fx) && decide (fx ≤ 8) && decide (1 ≤ fy) &&
    decide (fy ≤ 8) && fieldBits raw 72 0 2 != 3 && (fold || fieldBits raw 72 0 2 == 0) &&
    (!fmtMx f || c % 32 == 0) && (fmtBits f != 6 || c % 4 == 0) && (fmtBits f != 4 || c % 2 == 0) &&
    fieldLE raw 80 4 % 64 == 0 && fieldLE raw 84 4 % 64 == 0 && fieldLE raw 88 4 % 64 == 0 && fieldLE raw 92 4 % 64 == 0 &&
    fieldLE raw 96 4 % 64 == 0 && fieldLE raw 100 4 % 64 == 0 &&
    scalePtrOk f (fieldLE raw 112 8) && scalePtrOk f (fieldLE raw 120 8)

/-- Output width and height for input extents (R255, R262, R263). -/
def regroupOut (raw : List Byte) (fold : Bool) (iw ih : Nat) : Nat × Nat :=
  let fx := fieldLE raw 70 1
  let fy := fieldLE raw 71 1
  let px := fieldLE raw 73 1 + fieldLE raw 74 1
  let py := fieldLE raw 75 1 + fieldLE raw 76 1
  if iw = 0 ∨ ih = 0 then (0, 0)
  else if fold then (ceilDiv (iw + px) fx, ceilDiv (ih + py) fy)
  else (iw * fx - px, ih * fy - py)

/-- Decode of a regrouping command (R131, R255, R261, R263): m and n hold the run-time IW and IH. -/
def State.decodeRegroup (s : State) (i : Nat) (b : Block) (raw : List Byte) (fold : Bool) : Except Decoded Run := do
  need (regroupOk raw fold) stMalformed
  let dims ← access (s.shapeOf (.core i) b.ctx raw [fieldLE raw 64 2, fieldLE raw 66 2, 0, planB raw])
  let iw := dims.getD 0 0
  let ih := dims.getD 1 0
  let bb := dims.getD 3 0
  need (decide (iw ≤ fieldLE raw 64 2) && decide (ih ≤ fieldLE raw 66 2) && decide (bb ≤ planB raw)) stShape
  let o := regroupOut raw fold iw ih
  if bb = 0 ∨ o.1 = 0 ∨ o.2 = 0 then throw (.done flZeroShape)
  return { emptyRun raw with m := iw, n := ih, b := bb, steps := bb * o.2 }

/-- A NaN code becomes the canonical one (R186, R265). -/
def canonCode (f c : Nat) : Nat :=
  match decodeElem f c with
  | .nan => if f = 0 then 0x7FC00000 else if f = 1 then 0x7FC0 else if f = 2 ∨ f = 4 then 0x7F else 0x7E
  | _ => c

/-- Codes and scale bytes of `n` channels from channel `c0` on of an input pixel (R231, R265). Pixels are the rows of R231,
counted over the planned extents (log 16). -/
def State.regroupIn (s : State) (i : Nat) (b : Block) (r : Run) (img y x c0 n : Nat) : Except Stop (List Nat × List Byte) := do
  let raw := r.raw
  let f := fmtA raw
  let ag := Agent.core i
  let cs ← s.codes ag b.ctx (aPtr raw + img * fieldLE raw 96 4 + y * fieldLE raw 80 4 + x * fieldLE raw 84 4) f c0 n
  let p := (img * fieldLE raw 66 2 + y) * fieldLE raw 64 2 + x
  let es ← if fmtMx f then s.readV ag b.ctx (fieldLE raw 112 8 + p * mxStride (planN raw) + c0 / 32) (n / 32) else pure []
  return (cs.map (canonCode f), es)

/-- The pieces of which output pixel (Y, X) of an image is made, in channel order (R253, R262, R263). -/
def State.regroupPixel (s : State) (i : Nat) (b : Block) (r : Run) (fold : Bool) (img oy ox : Nat) :
    Except Stop (List Nat × List Byte) := do
  let raw := r.raw
  let c := fieldLE raw 68 2
  let fx := fieldLE raw 70 1
  let fy := fieldLE raw 71 1
  if fold then
    let parts ← (List.range (fx * fy)).mapM (fun d =>
      let y := ((oy * fy + d / fx : Nat) : Int) - (fieldLE raw 75 1 : Nat)
      let x := ((ox * fx + d % fx : Nat) : Int) - (fieldLE raw 73 1 : Nat)
      match borderAt (fieldBits raw 72 0 2) y r.n, borderAt (fieldBits raw 72 0 2) x r.m with
      | some yy, some xx => s.regroupIn i b r img yy xx 0 c
      | _, _ => .ok (List.replicate c 0, if fmtMx (fmtA raw) then List.replicate (c / 32) 0x7F else []))
    return (parts.flatMap Prod.fst, parts.flatMap Prod.snd)
  else
    let y := oy + fieldLE raw 75 1
    let x := ox + fieldLE raw 73 1
    s.regroupIn i b r img (y / fy) (x / fx) ((y % fy * fx + x % fx) * c) c

/-- A step of a regrouping command: output row `step mod OH` of image `step / OH` (R262, R263, R265). -/
def State.stepRegroup (s : State) (i : Nat) (b : Block) (r : Run) (fold : Bool) : State :=
  let raw := r.raw
  let o := regroupOut raw fold r.m r.n
  let plan := regroupOut raw fold (fieldLE raw 64 2) (fieldLE raw 66 2)
  s.stepDone i b none (0, 0) (fun t _ => t) (do
    let img := r.step / o.2
    let row := r.step % o.2
    let outs ← (List.range o.1).mapM (fun col => do
      let p ← s.regroupPixel i b r fold img row col
      let ws ← s.codeWrite (.core i) b.ctx (cPtr raw + img * fieldLE raw 100 4 + row * fieldLE raw 88 4 + col * fieldLE raw 92 4)
        (fmtC raw) 0 p.1
      let sv := fieldLE raw 120 8 + ((img * plan.2 + row) * plan.1 + col) * mxStride (planN raw)
      pure (ws ++ (if p.2.isEmpty then [] else [{ va := sv, data := p.2 }])))
    return { writes := outs.flatten, locals := [], run := r })

/-! ### Meanings -/

def execCropResize (core : Nat) (s : State) : Host.Outcome State Fault Refusal :=
  s.rails (s.decodes core 0x28) (fun s => s.asSeat core (fun s => s.decodeWith core (fun b raw => asDecoded (s.decodeCrop core b raw))))

def execSpaceToChannel (core : Nat) (s : State) : Host.Outcome State Fault Refusal :=
  s.rails (s.decodes core 0x29) (fun s => s.asSeat core (fun s => s.decodeWith core (fun b raw => asDecoded (s.decodeRegroup core b raw true))))

def execChannelToSpace (core : Nat) (s : State) : Host.Outcome State Fault Refusal :=
  s.rails (s.decodes core 0x2A) (fun s => s.asSeat core (fun s => s.decodeWith core (fun b raw => asDecoded (s.decodeRegroup core b raw false))))

end Sys2Proof.Machine
end

