-- ==== Sys2Proof/Machine/Load.lean ====
section
/-!
DEFINITION. The restore of a checkpoint area (R641, R642).
-/
namespace Sys2Proof.Machine

/-- The area that LOAD restores: its global physical address. -/
def State.loadBase (s : State) : Nat := s.areaBase (s.rd TIER_CKPT_CTL_LOAD_AREA)

/-- The restore ends, with LOAD_ERR. -/
def State.loadEnd (s : State) (err : Nat) : State :=
  { ((s.off TIER_CKPT_STAT_LOAD_BUSY).wr TIER_CKPT_STAT_LOAD_ERR err).off TIER_CKPT_CTL_LOAD with loadPos := none }.clearArrived .tier

/-- Bytes of the area as far as they can be read now. -/
def State.loadRead (s : State) (off n : Nat) : Except Stop (List Byte) := s.readGpa .tier 0 (s.loadBase + off) n

/-- The frames that the index of the area names have undefined contents: a read error has stopped the copies (R642). -/
def State.loadSpoil (s : State) (n : Nat) : State :=
  (List.range n).foldl (fun (t : State) k => match s.loadRead (0x200000 + 8 * k) 8 with
    | .ok i => t.undefine (bits (leNat i) 16 27 * 65536) 65536
    | .error _ => t) s

/-- A read of the area that does not complete now: bytes of another device are asked for, a held memory is waited for, an error ends the
restore, and spoils the `n` frames of the index once copies have begun. -/
def State.loadStop (s : State) (n : Nat) : Stop → State
  | .need g k => s.ask .tier 0 false g k
  | .lookup _ _ => s
  | .wait => s
  | .frame _ => s
  | _ => (s.loadSpoil n).loadEnd 5

/-- What is wrong with a header (R642): LOAD_ERR 1 to 3. -/
def State.headerError (s : State) (h : List Byte) : Option Nat :=
  if fieldLE h 0 2 ≠ 8 ∨ fieldLE h 2 1 ≠ 2 then some 1
  else if fieldLE h 4 2 ≠ s.dev then some 2
  else if fieldLE h 24 4 ≠ s.rd DEV_FW_VERSION then some 3
  else none

/-- A field takes a free value. -/
def State.freeField (s : State) (f : Fld) (j : Nat) : State := let (v, s) := s.free; s.wr f v 0 j

/-- The fields of the ROS pools and the STK parameters that a snapshot holds (R635). -/
def snapFields : List (Fld × Nat) :=
  (((pageFields .ros).filter (fun f => decide (0x200 ≤ f.off))).flatMap (fun f => (List.range f.n).map (fun j => (f, j)))) ++
  [STK_PERIOD_NS, STK_DRIVE_NS, STK_LEAD_NS, STK_QUANTUM_NS, STK_STRETCH_MAX_PERMILLE, STK_CATCH_TIMEOUT_NS, STK_MEMBERS_COUNT,
    STK_FWD_MASK_MASK].map (fun f => (f, 0))

/-- The persistent tokens (R90). -/
def persistentTokens : List Nat :=
  (List.range 4096).map (fun k => tokGlobal (12288 + k)) ++
  (List.range 16).flatMap (fun c => (List.range 256).map (fun k => tokCrew c (3840 + k)))

/-- What a snapshot of unknown layout brings: free values. -/
def State.freeSnap (s : State) : State :=
  let s := { s.undefine (rosterAddr 0) 0x100000 with lenFull := true }
  let s := snapFields.foldl (fun (t : State) f => t.freeField f.1 f.2) s
  persistentTokens.foldl (fun (t : State) k => let (v, t) := t.free; t.setTok k (BitVec.ofNat 32 v)) s

/-- Step 3 of R641. The layout of a snapshot is not given (log 17): the bytes that this device wrote for a snapshot bring its values
back; any others that pass the checks bring free values. -/
def State.restoreSnap (s : State) (g : Nat) (bytes : List Byte) : State :=
  match Tab.find s.snaps g with
  | some c =>
    if bytes = snapBytes c.seed g then
      let s := s.clearRange (rosterAddr 0) 0x100000
      { s with
        mem := Tab.canon (s.mem ++ c.entries)
        rosReqs := c.reqs, rosPrev := c.prev, rosAdvs := c.advs, rosDemands := c.demands, rosDrops := c.drops, rosAdds := c.adds
        rosNoDir := c.noDir, lenFull := true
        regs := Tab.canon (s.regs.filter (fun r => !snapReg r) ++ c.regs)
        tokens := Tab.canon (s.tokens.filter (fun t => tokScoped t.1) ++ c.tokens)
        objs := c.objs }
    else s.freeSnap
  | none => s.freeSnap

/-- Steps 3 and 4 of R641. -/
def State.loadFinish (s : State) (stroke : Nat) (bytes : List Byte) : State :=
  let s := (s.restoreSnap s.loadBase bytes).wr STK_FIRST_STROKE stroke
  { s with tlb := [] }.loadEnd 0

/-- One step of a restore: the checks, one slot, or the end. `true` says that the next step may follow at once. -/
def State.loadStep (s : State) (pos : Nat) : Bool × State :=
  match s.loadRead 0 64 with
  | .error e => (false, s.loadStop (if pos = 0 then 0 else s.areaSlots (s.rd TIER_CKPT_CTL_LOAD_AREA)) e)
  | .ok h =>
    let n := fieldLE h 32 4
    let a := s.rd TIER_CKPT_CTL_LOAD_AREA
    if pos = 0 then
      match s.headerError h with
      | some e => (false, s.loadEnd e)
      | none => match s.loadRead 0x200000 (8 * n), s.loadRead 0x10000 0x1F0000 with
        | .error e, _ => (false, s.loadStop 0 e)
        | _, .error e => (false, s.loadStop 0 e)
        | .ok index, .ok snap =>
          if crc32 index ≠ fieldLE h 36 4 ∨ crc32 snap ≠ fieldLE h 40 4 then (false, s.loadEnd 4)
          else (true, { s with loadPos := some 1 })
    else if pos ≤ n then
      match s.loadRead (0x200000 + 8 * (pos - 1)) 8, s.loadRead (areaSlot0 (s.areaSlots a) + (pos - 1) * 65536) 65536 with
      | .error e, _ => (false, s.loadStop n e)
      | _, .error e => (false, s.loadStop n e)
      | .ok i, .ok d =>
        let s := (s.putOwn (gpaOf s.dev (bits (leNat i) 16 27 * 65536)) d).bump TIER_PC_CKPT_RESTORED
        (true, { s with loadPos := some (pos + 1) })
    else match s.loadRead 0x10000 0x1F0000 with
      | .error e => (false, s.loadStop n e)
      | .ok snap => (false, s.loadFinish (fieldLE h 8 8) snap)

/-- The restore goes on as far as its reads complete. -/
def State.loadRun (s : State) : Nat → State
  | 0 => s
  | n + 1 => match s.loadPos with
    | none => s
    | some pos =>
      let r := s.loadStep pos
      if r.1 then r.2.loadRun n else r.2

/-- LOAD (R641, R642, R648): with the stroke unit STOPPED, the checkpoint unit IDLE and no restore under way; else the write is ignored
and sets CFG_ERR. -/
def loadEffect (s : State) : State :=
  if s.stkState ≠ 0 ∨ s.rd MMU_CKPT_STAT_STATE ≠ 0 ∨ s.loadPos.isSome then s.cfgErr .tier
  else
    let s := ((s.on TIER_CKPT_CTL_LOAD).on TIER_CKPT_STAT_LOAD_BUSY).wr TIER_CKPT_STAT_LOAD_ERR 0
    { s with loadPos := some 0 }.loadRun (s.areaSlots (s.rd TIER_CKPT_CTL_LOAD_AREA) + 2)

def execLoad (s : State) : Host.Outcome State Fault Refusal := s.rails true loadEffect

end Sys2Proof.Machine
end

