-- ==== Sys2Proof/Machine/Writes.lean ====
section
/-!
DEFINITION. Register writes (R709 to R728): what a page accepts in each state, the access type of each field, the conditions that the
rules of a register give, and the action that a write starts.
-/
namespace Sys2Proof.Machine

/-- The fields of the register at an offset of a page, each with its element. -/
def fieldsAt (p : Page) (off : Nat) : List (Fld × Nat) :=
  (pageFields p).filterMap (fun f =>
    if f.n = 1 then (if f.off = off then some (f, 0) else none)
    else if f.off ≤ off ∧ (off - f.off) % f.stride = 0 ∧ (off - f.off) / f.stride < f.n then some (f, (off - f.off) / f.stride)
    else none)

/-- What becomes of a write: it is accepted, ignored without error, or ignored with CFG_ERR. -/
inductive Verdict where
  | ok | ignore | err
  deriving DecidableEq, Repr

/-- Accepted where a condition holds, else an error. -/
def okIf (b : Bool) : Verdict := if b then .ok else .err

/-- The field of a written value. -/
def Fld.part (f : Fld) (v : Nat) : Nat := bits v f.lo f.w

/-- A write leaves a field as it is. -/
def State.same (s : State) (f : Fld) (v : Nat) (i : Nat := 0) (j : Nat := 0) : Bool := f.part v == s.rd f i j

/-! ### Conditions of the pages -/

/-- A doorbell binding names a persistent device-global or crew token (R90, R615). -/
def bindingOk (v : Nat) : Bool :=
  let a := gpaLocal v / 4 * 4
  let k := tokOfAddr a
  !bitOf v 63 || ((regionOf a).1 == .tokens && !tokScoped k)

/-- Writes of a CTX page (R467, R615). -/
def State.ctxVerdict (s : State) (i off v : Nat) : Verdict :=
  let off' := s.blk .ctx i == 3
  let ringOff := !s.is CTX_TASK_RING_CTL_ENABLE i
  if off = 0x100 then okIf (!s.ctxOn i)
  else if off = 0x110 then
    okIf ((off' || (s.same CTX_CTL_TIER_POOL v i && s.same CTX_CTL_URGENT v i)) && (!bitOf v 6 || s.rd CTX_STAT_STATE i == 1) &&
      (!bitOf v 7 || s.rd CTX_STAT_STATE i == 3))
  else if off = 0x118 ∨ off = 0x120 ∨ off = 0x124 ∨ off = 0x130 ∨ off = 0x148 then okIf off'
  else if off = 0x138 ∨ off = 0x144 then okIf ringOff
  else if off = 0x140 then
    okIf ((ringOff || (s.same CTX_TASK_RING_CTL_SIZE_LOG2 v i && s.same CTX_TASK_RING_CTL_TOKEN v i)) &&
      (!bitOf v 31 || decide (12288 ≤ CTX_TASK_RING_CTL_TOKEN.part v)))
  else if 0x180 ≤ off then okIf (bindingOk v)
  else .ok

/-- Sum of the shares of an engine when channel `j` has share `v` (R503). -/
def State.shareSum (s : State) (e j v : Nat) : Nat :=
  ((engineChans e).map (fun q => if q.2 = j then v else s.dmaRd e q.2 CDM_CH_CTL_BUF_SHARE HDM_CH_CTL_BUF_SHARE)).sum

/-- Writes of a CDM or HDM page (R503, R528). -/
def State.dmaVerdict (s : State) (e off v : Nat) : Verdict :=
  let j := (off - 0x200) / 0x20
  let o := (off - 0x200) % 0x20
  let off' := s.chState e j == 5
  if off < 0x200 then .ok
  else if o = 0 then
    let share := bits v 10 7
    okIf ((off' || ((e == 16 || bitOf v 3 == bitOf (s.rd CDM_CH_CTL_MODE e j) 0) && bits v 4 6 == s.dmaRd e j CDM_CH_CTL_CONTEXT HDM_CH_CTL_CONTEXT)) &&
      (share == s.dmaRd e j CDM_CH_CTL_BUF_SHARE HDM_CH_CTL_BUF_SHARE ||
        (s.stkState == 0 && decide (1 ≤ share) && decide (share ≤ 64) && decide (s.shareSum e j share ≤ if e = 16 then 64 else 48))))
  else if o = 0x10 then
    let index := bits v 16 14
    okIf (off' && (if e = 16 ∨ bitOf v 30 then decide (12288 ≤ index) else decide (3840 ≤ index) && decide (index ≤ 4095)))
  else okIf off'

/-- Writes of the TIER page (R457, R648). -/
def State.tierVerdict (s : State) (off v : Nat) : Verdict :=
  let stopped := s.stkState == 0
  let ringOff := !s.is TIER_RING_CTL_ENABLE
  let idle := s.rd MMU_CKPT_STAT_STATE == 0
  if off = 0x108 ∨ off = 0x110 then okIf stopped
  else if off = 0x118 ∨ off = 0x124 then okIf ringOff
  else if off = 0x120 then okIf (ringOff || (s.same TIER_RING_CTL_SIZE_LOG2 v && s.same TIER_RING_CTL_TOKEN v))
  else if 0x200 ≤ off ∧ off < 0x300 then okIf (stopped || off % 0x20 == 0x18)
  else if 0x300 ≤ off ∧ off < 0x400 then okIf (off % 0x10 == 0 || !s.is TIER_LEASE_CTL_ENABLE 0 ((off - 0x300) / 0x10))
  else if 0x400 ≤ off ∧ off < 0x480 then okIf (off % 0x10 == 0 || !s.is TIER_LEND_CTL_ENABLE 0 ((off - 0x400) / 0x10))
  else if 0x500 ≤ off ∧ off < 0x520 then okIf (idle || s.rd TIER_CKPT_STAT_AREA != (off - 0x500) / 0x10)
  else if off = 0x520 then okIf (idle || s.same TIER_CKPT_CTL_SELECT v)
  else .ok

/-- Writes of the MMU page (R500). -/
def State.mmuVerdict (s : State) (off v : Nat) : Verdict :=
  if off = 0x100 then okIf (!s.is MMU_FAULT_RING_CTL_ENABLE)
  else if off = 0x108 then okIf (!s.is MMU_FAULT_RING_CTL_ENABLE || s.same MMU_FAULT_RING_CTL_SIZE_LOG2 v)
  else if off = 0x120 ∨ off = 0x128 ∨ off = 0x130 then okIf (!s.is MMU_INVAL_CTL_BUSY)
  else if off = 0x138 ∨ off = 0x140 then okIf (s.rd MMU_CKPT_STAT_STATE == 0)
  else .ok

/-- Writes of the ROS page (R269, R339). -/
def State.rosVerdict (s : State) (off : Nat) : Verdict :=
  let o := off % 0x40
  if off = 0x10C ∨ off = 0x180 ∨ (0x200 ≤ off ∧ (o < 0x28)) then okIf (s.stkState == 0) else .ok

/-- Writes of a LNK page (R576): the grants of the four registers with the one written. -/
def State.lnkVerdict (s : State) (i off v : Nat) : Verdict :=
  if 0x120 ≤ off ∧ off ≤ 0x12C then
    let k := (off - 0x120) / 4
    let now := [(LNK_CREDIT_VC0_CLASS0, LNK_CREDIT_VC0_CLASS1), (LNK_CREDIT_VC1_CLASS0, LNK_CREDIT_VC1_CLASS1),
      (LNK_CREDIT_VC2_CLASS0, LNK_CREDIT_VC2_CLASS1), (LNK_CREDIT_VC3_CLASS0, LNK_CREDIT_VC3_CLASS1)]
    let grants := now.zipIdx.flatMap (fun g => if g.2 = k then [bits v 0 14, bits v 16 14] else [s.rd g.1.1 i, s.rd g.1.2 i])
    okIf (s.stkState == 0 && grants.all (fun g => decide (33 ≤ g)) && decide (grants.sum ≤ 8192))
  else .ok

/-- A field's part of a written value lies in a range; reserved bits beside it are ignored (R16). -/
def inRange (f : Fld) (v lo hi : Nat) : Verdict := okIf (decide (lo ≤ f.part v) && decide (f.part v ≤ hi))

/-- Writes of the PWR page (R678, R752). -/
def pwrVerdict (off v : Nat) : Verdict :=
  if off = 0x108 then inRange PWR_DEFER_MAX_MS v 1 10000
  else if off = 0x10C then inRange PWR_LIMIT_W v 600 1600
  else if off = 0x110 then inRange PWR_HYST_W v 10 200
  else if off = 0x118 then inRange PWR_CLOCK_MAX_POINT v 0 6
  else if off = 0x130 then okIf (v % 4 == 1 || v % 4 == 2)
  else .ok

/-- Writes of the DEV page (R210, R402, R576, R742). -/
def State.devVerdict (s : State) (off v : Nat) : Verdict :=
  if off = 0x118 ∨ off = 0x204 then okIf (s.stkState == 0)
  else if off = 0x120 then okIf (s.stkState == 0 && narrowAllowed 0 (bits v 0 4) && narrowAllowed 4 (bits v 4 4) && narrowAllowed 8 (bits v 8 4))
  else .ok

/-- Does the page accept the write of a register? -/
def State.verdict (s : State) (p : Page) (i off v : Nat) : Verdict :=
  match p with
  | .dev => s.devVerdict off v
  | .pwr => pwrVerdict off v
  | .spr => if off = 0x104 then inRange SPR_WINDOW_MS v 10 60000
      else if off = 0x108 then okIf (!s.is SPR_CMD_STAT_BUSY) else .ok
  | .ctx => s.ctxVerdict i off v
  | .cdm => s.dmaVerdict i off v
  | .hdm => s.dmaVerdict 16 off v
  | .tier => s.tierVerdict off v
  | .mmu => s.mmuVerdict off v
  | .ros => s.rosVerdict off
  | .lnk => s.lnkVerdict i off v
  | .cox => okIf (s.stkState == 0)
  | _ => .ok

/-! ### Storing the fields -/

/-- Fields whose bit starts an action in place of being stored: the enables that R519, R340, R440, R442 and R699 describe, and the pads
of R658. -/
def actsOnly (f : Fld) : Bool :=
  [CDM_CH_CTL_ENABLE, HDM_CH_CTL_ENABLE, ROS_POOL_CTL_ENABLE, TIER_LEND_CTL_ENABLE, TIER_LEASE_CTL_ENABLE, LNK_TEST_CTL_RUN,
    HBM_TEST_CTL_RUN, LPD_TEST_CTL_RUN, HIF_TEST_CTL_RUN, PWR_PAD_RELEASE_HELD].contains f

/-- A field takes its part of a written value under its access type (R15, R674: a change of an RWK bit sets DIRTY). -/
def State.putField (s : State) (f : Fld) (i j v : Nat) : State :=
  let w := f.part v
  if actsOnly f then s
  else match f.acc with
  | .rw => s.wr f w i j
  | .rwk => if w = s.rd f i j then s else (s.wr f w i j).on (BLK_RETAIN_CTL_DIRTY f.page) i
  | .w1c => s.wr f (s.rd f i j - (s.rd f i j &&& w)) i j
  | _ => s

/-- The device takes an ID (R742); the one it had is a former ID. -/
def State.takeId (s : State) (id : Nat) : State :=
  let ids := if s.dev = id then s.formerIds else s.dev :: s.formerIds.filter (fun d => d != s.dev)
  { s.wr DEV_ID_ID id with formerIds := ids.filter (fun d => d != id) }

/-- Stores a written value in the fields of a register. -/
def State.putFields (s : State) (p : Page) (i off v : Nat) : State :=
  (fieldsAt p off).foldl (fun (t : State) q => t.putField q.1 i q.2 v) s

/-! ### Actions -/

/-- RT_CTL.SEAL (R401, R403): the swap follows at the next catch, or at once while the stroke unit is STOPPED. -/
def rtSealEffect (s : State) : State :=
  let s := (s.on RT_CTL_SEAL).on RT_CTL_PENDING
  if s.stkState = 0 then s.swapRoutes else s

/-- A loopback test starts when RUN changes from 0 to 1 and stops when it is written 0 (R699). -/
def testCtlWrite (p : Page) (i v : Nat) (s : State) : State :=
  match testRegs p with
  | none => s
  | some (_, _, fr, _, _, _, _) =>
    if bitOf v 16 then (if s.is fr i then s else testRunEffect p i s) else if s.is fr i then testStop p i s else s

/-- LOG_INJECT (R687): one software entry. -/
def logInjectEffect (v : Nat) (s : State) : State :=
  if 0x800 ≤ v % 0x10000 ∧ v % 0x10000 ≤ 0x8FF ∧ v / 0x10000 ≤ 4 then
    s.logFrom 0xFF02 (v % 0x10000) (v / 0x10000) 0 (s.rd LOG_INJECT_DATA)
  else s.cfgErr .log

/-- SPR_CMD (R628, R648): a reserved OP is no operation and completes as malformed. -/
def sprCmdWrite (v : Nat) (s : State) : State :=
  match v % 4 with
  | 1 => retireEffect (bits v 4 4) (bits v 16 16) s
  | 2 => enterSpareEffect (bits v 4 4) (bits v 16 16) s
  | 3 => annotateEffect (bits v 4 4) (bits v 16 16) s
  | _ => s.sprCmd (fun t => t.sprStatus stMalformed)

/-- STK_CMD (R747). -/
def stkCmdWrite (v : Nat) (s : State) : State :=
  match v % 16 with
  | 1 => goEffect s
  | 2 => stopCmdEffect s
  | 3 => resumeCmdEffect s
  | 4 => abandonCmdEffect s
  | _ => s.stkCfgErr

/-- STK_CTL (R52, R66, R651, R746): a write wakes the module from EASY; STARTER and EARLY_RECOVERY change only while the unit is STOPPED. -/
def stkCtlWrite (v : Nat) (s : State) : State :=
  let keep := s.same STK_CTL_STARTER v && s.same STK_CTL_EARLY_RECOVERY v
  if s.stkState ≠ 0 ∧ !keep then s.stkCfgErr
  else
    let s := (s.putFields .stk 0 0x100 v).easyWake
    if bitOf v 0 then (if s.stkState = 0 then runEffect s else s) else clearRunEffect s

/-- A parameter or SCHEDULE_ID of the STK page (R51, R52, R744, R746): a value that exceeds its field is kept as out of range. -/
def stkParamWrite (off v : Nat) (s : State) : State :=
  if s.stkState ≠ 0 then s.stkCfgErr
  else
    let wide := (fieldsAt .stk off).any (fun q => decide (2 ^ q.1.w ≤ v / 2 ^ q.1.lo))
    let ps := s.wideParams.filter (fun o => o != off)
    { s.putFields .stk 0 off v with wideParams := if wide then off :: ps else ps }

/-- MMU_RESUME (R484). -/
def resumeWrite (v : Nat) (s : State) : State :=
  match bits v 24 2 with
  | 0 => s.resumeSlot (v % 0x10000) none
  | 1 => s.resumeContext (bits v 16 6) none
  | 2 => s.resumeSlot (v % 0x10000) (some stPageFault)
  | _ => s.resumeContext (bits v 16 6) (some stPageFault)

/-- CH_CTL (R519, R522, R523, R527): FORCE_OFF before DISABLE_REQ, then ENABLE; a 0 in ENABLE of a channel that is not disabled is
ignored and sets CFG_ERR. -/
def chCtlWrite (e j v : Nat) (s : State) : State :=
  let st := s.chState e j
  let s := if bitOf v 0 = false ∧ st ≠ 5 then s.cfgErr (dmaPage e) (dmaInst e) else s
  let s := if bitOf v 2 then chForceEffect e j s else if bitOf v 1 then chDisableEffect e j s else s
  if bitOf v 0 then chEnableEffect e j s else s

/-- TIER_LEASE_CTL (R442, R443). ENABLE cleared while objects have frames in the lease reclaims it by force, and they are LOST (R424);
ENABLE set again makes it ACTIVE, with no reclaim (R783). -/
def leaseWrite (j v : Nat) (s : State) : State :=
  let was := s.is TIER_LEASE_CTL_ENABLE 0 j
  let s := if !bitOf v 10 && was && decide (s.rd TIER_LEASE_CTL_STATE 0 j < 2) && s.objs.any (fun o => o.2.inRange (s.leaseFrames j))
    then s.failLease j else s
  let s := s.wr TIER_LEASE_CTL_ENABLE (b2n (bitOf v 10)) 0 j
  let s := if bitOf v 10 && !was then (s.wr TIER_LEASE_CTL_STATE 0 0 j).off TIER_LEASE_CTL_RECLAIM 0 j else s
  if bitOf v 11 && s.is TIER_LEASE_CTL_ENABLE 0 j && s.rd TIER_LEASE_CTL_STATE 0 j == 0 then reclaimEffect j s else s

/-- TIER_LEND_CTL (R440). A window that closes fails the leases of this device that lie in it and are not RETURNED (R444); that of another
device closes out of sight. -/
def lendWrite (w v : Nat) (s : State) : State :=
  if bitOf v 10 then (if s.is TIER_LEND_CTL_ENABLE 0 w then s else lendEnableEffect w s)
  else
    let r := s.lendFrames w
    let s := (List.range 16).foldl (fun (t : State) j =>
      let l := t.leaseFrames j
      if t.is TIER_LEASE_CTL_ENABLE 0 j && decide (t.rd TIER_LEASE_CTL_STATE 0 j < 2) && overlaps r.1 r.2 l.1 l.2 then t.failLease j
      else t) s
    (s.off TIER_LEND_CTL_ENABLE 0 w).wr TIER_LEND_CTL_STATE 0 0 w

/-- ROS_POOL_CTL (R338 to R340). -/
def poolCtlWrite (p v : Nat) (s : State) : State :=
  if bitOf v 0 then poolEnableEffect p s else (s.off ROS_POOL_CTL_ENABLE 0 p).off ROS_POOL_CTL_FAULTED 0 p

/-- CTX_CTL (R597, R608). -/
def ctxCtlWrite (i v : Nat) (s : State) : State :=
  let s := if bitOf v 6 then preemptEffect i s else s
  let s := if bitOf v 7 then ctxResumeEffect i s else s
  if bitOf v 8 then accClearEffect i s else s

/-- The action that an accepted write of a register starts, after its fields have been stored. -/
def State.act (s : State) (p : Page) (i off v : Nat) : State :=
  match p with
  | .dev =>
    if off = 0x200 ∧ bitOf v 0 then rtSealEffect s
    else if off = 0x300 ∧ bitOf v 16 then rearmEffect s
    else s
  | .pwr =>
    if off = 0x100 then s.powerCmd (v % 4)
    else if off = 0x120 then s.releasePads (v % 128)
    else if off = 0x128 then pwrWarmResetEffect v s
    else if off = 0x130 then (if v % 4 = 1 then retCommitEffect s else invalidateEffect s)
    else s
  | .log => if off = 0x148 then logInjectEffect (v % 2 ^ 19) s else s
  | .spr => if off = 0x108 then sprCmdWrite v s else s
  | .ctx => if off = 0x110 then ctxCtlWrite i v s else s
  | .cst => if off = 0x104 ∧ bitOf v 0 then s.rcClear i else s
  | .cdm => if 0x200 ≤ off ∧ (off - 0x200) % 0x20 = 0 then chCtlWrite i ((off - 0x200) / 0x20) v s else s
  | .hdm => if 0x200 ≤ off ∧ (off - 0x200) % 0x20 = 0 then chCtlWrite 16 ((off - 0x200) / 0x20) v s else s
  | .hbm => if off = 0x1C0 then testCtlWrite .hbm i v s else if off = 0x1E0 ∧ bitOf v 16 then marginGoEffect false i s else s
  | .lpd => if off = 0x1C0 then testCtlWrite .lpd i v s else if off = 0x1E0 ∧ bitOf v 16 then marginGoEffect true i s else s
  | .lnk => if off = 0x100 ∧ bitOf v 3 then retrainEffect i s else if off = 0x1C0 then testCtlWrite .lnk i v s else s
  | .hif => if off = 0x1C0 then testCtlWrite .hif 0 v s else s
  | .mmu =>
    if off = 0x108 then s.off MMU_FAULT_OUT_RING_ERR
    else if off = 0x118 then resumeWrite v s
    else if off = 0x130 ∧ bitOf v 16 then invalidationEffect s
    else if off = 0x148 then
      let s := if bitOf v 0 then armEffect s else s
      if bitOf v 1 then cancelEffect s else s
    else s
  | .tier =>
    if 0x300 ≤ off ∧ off < 0x400 ∧ off % 0x10 = 0 then leaseWrite ((off - 0x300) / 0x10) v s
    else if 0x400 ≤ off ∧ off < 0x480 ∧ off % 0x10 = 0 then lendWrite ((off - 0x400) / 0x10) v s
    else if off = 0x110 then s.wr TIER_STAT_TABLE_FULL (b2n (s.freeRecords == 0))
    else if off = 0x520 ∧ bitOf v 1 then loadEffect s
    else s
  | .ros =>
    if off = 0x180 then { s with lenFull := true }
    else if 0x200 ≤ off ∧ (off - 0x200) % 0x40 = 0x20 then poolCtlWrite ((off - 0x200) / 0x40) v s
    else if 0x200 ≤ off ∧ (off - 0x200) % 0x40 = 0x2C then poolAddEffect ((off - 0x200) / 0x40) (v % 2 ^ 24) s
    else s
  | _ => s

/-- DEV_ID (R644, R727, R742): accepted while the stroke unit is STOPPED; no port trains again. -/
def devIdEffect (id : Nat) (s : State) : State :=
  if s.stkState = 0 then s.takeId id else s.cfgErr .dev

/-- A write of a register of its own rules (R51, R675, R687, R746 and the verdicts above): refused writes set CFG_ERR. -/
def State.specificWrite (s : State) (p : Page) (i off v : Nat) : State :=
  let fs := fieldsAt p off
  if fs.any (fun q => q.1.acc == .rwk) && s.is PWR_RET_STAT_BUSY then s.cfgErr p i
  else if p = .dev ∧ 0x800 ≤ off ∧ off < 0x1000 ∧ off % 4 = 0 then
    if s.is RT_CTL_PENDING then s.on RT_CTL_CFG_ERR
    else { s with routesB := Tab.set s.routesB ((off - 0x800) / 4) 0 (v &&& 0x8001FFFF) }
  else if p = .dev ∧ off = 0x118 then devIdEffect (v % 512) s
  else if p = .stk ∧ off = 0x100 then stkCtlWrite v s
  else if p = .stk ∧ off = 0x108 then stkCmdWrite v s
  else if p = .stk ∧ ((0x10C ≤ off ∧ off ≤ 0x130) ∨ off = 0x140) then stkParamWrite off v s
  else if fs.all (fun q => q.1.acc == .ro || q.1.acc == .rc) then s
  else match s.verdict p i off v with
    | .ok => (s.putFields p i off v).act p i off v
    | .ignore => s
    | .err => s.cfgErr p i

/-! ### The header and the block state -/

/-- BLK_CTL (R716 to R720): FORCE_OFF before DISABLE_REQ. -/
def State.ctlWrite (s : State) (p : Page) (i v : Nat) : State :=
  let was := s.blk p i
  let s := s.wr (BLK_CTL_DRAIN_MODE p) (b2n (bitOf v 4)) i
  let s := if bitOf v 3 then softResetEffect p i s else s
  let s := if bitOf v 2 then forceEffect p i s else if bitOf v 1 then disableEffect p i s else s
  if bitOf v 0 ∧ was ≠ 1 then enableEffect p i s else s

/-- A write of a header register of a page that accepts it (R713, R731, R674). -/
def State.headerWrite (s : State) (p : Page) (i off v : Nat) : State :=
  if off = 8 then s.ctlWrite p i v
  else if off = 0xC then (if bitOf v 3 then s.off (BLK_STAT_CFG_ERR p) i else s)
  else if off = 0x10 then s.wr (BLK_INT_STAT p) (s.rd (BLK_INT_STAT p) i - (s.rd (BLK_INT_STAT p) i &&& v)) i
  else if off = 0x14 then s.wr (BLK_INT_EN p) (v &&& causeMask p) i
  else if off = 0x18 then intForceEffect p i v s
  else if off = 0x28 ∧ blkCap p / 0x1000000 = 1 then
    if s.is PWR_RET_STAT_BUSY then s.cfgErr p i else s.putField (BLK_RETAIN_CTL_SKIP p) i 0 v
  else s

/-- BLK_CTL writes only DISABLE_REQ, FORCE_OFF or both (R719). -/
def onlyStops (v : Nat) : Bool := v % 32 == (v &&& 6)

/-- The page accepts a write at an offset in the state of its block (R719, R727): a header write, one of the rest, neither. -/
def pageAccepts (state off v : Nat) : Bool :=
  match state with
  | 0 => off == 8 && onlyStops v
  | 4 => off == 0xC || off == 0x10 || off == 0x14 || (off == 8 && onlyStops v)
  | 5 => off == 0x14 || (off == 8 && onlyStops v)
  | _ => true

/-- The offset holds a writable header register (R713). -/
def writableHeader (off : Nat) : Bool := off == 8 || off == 0xC || off == 0x10 || off == 0x14 || off == 0x18 || off == 0x28

/-- A whole register takes a written value (R711, R727). -/
def State.takeWrite (s : State) (p : Page) (i off v : Nat) : State :=
  if off < 0x100 then
    if !writableHeader off then s
    else if !pageAccepts (s.blk p i) off v then s.cfgErr p i
    else if s.blk p i = 0 ∨ ((s.blk p i = 4 ∨ s.blk p i = 5) ∧ off = 8) then s
    else s.headerWrite p i off v
  else if (fieldsAt p off).isEmpty ∧ !(p = .dev ∧ 0x800 ≤ off ∧ off < 0x1000) then s
  else if !pageAccepts (s.blk p i) off v then s.cfgErr p i
  else s.specificWrite p i off v

/-! ### Sizes and halves (R722, R723) -/

/-- A register write of a size that its page accepts, at a BAR0 offset (R723): a low half is held for the requester until it writes the
high half. -/
def State.regWrite (s : State) (who : Requester) (o n v : Nat) : State :=
  let mine := s.halves.find? (fun h => h.1 == who)
  let s : State := { s with halves := s.halves.filter (fun h => !(h.1 == who)) }
  match pageAt o with
  | none => s
  | some (p, i, off) =>
    if n = 8 then s.takeWrite p i off v
    else if regSize p off = 64 ∧ off % 8 = 0 then { s with halves := (who, o, v) :: s.halves }
    else if off % 8 = 4 ∧ regSize p (off - 4) = 64 then
      let low := match mine with
        | some h => if h.2.1 + 4 = o then h.2.2 else s.readReg (o - 4) % 2 ^ 32
        | none => s.readReg (o - 4) % 2 ^ 32
      s.takeWrite p i (off - 4) (low + v * 2 ^ 32)
    else s.takeWrite p i off v

/-- The writes that this device's agents have made through the register window take effect in their order (R724). -/
def State.settle (s : State) : State :=
  let ws := s.regWrites
  ws.foldl (fun (t : State) w => t.regWrite w.1 w.2.1 w.2.2.1 w.2.2.2) { s with regWrites := [] }

/-- The registers of the BAR0 view of a virtual function that accept writes (R616). -/
def viewWritable (o : Nat) : Bool :=
  (o / 8 == 0x108 / 8) || (o / 8 == 0x128 / 8) || (o / 8 == 0x138 / 8) || o == 0x140 || o == 0x144

/-- REGISTER_WRITE (R616, R711, R712, R722 to R728): a write of 4 or 8 bytes at an offset of BAR0 (of the register window of a device).
One of another size or alignment is discarded, and counted when it comes from PCIe. -/
def registerWriteEffect (who : Requester) (o n v : Nat) (s : State) : State :=
  match who with
  | .func f =>
    match funcOffset f o with
    | none => s
    | some a =>
      if !regAccessOk a n then s.bump HIF_PC_BAR_FAULTS
      else if f ≠ 0 ∧ !viewWritable o then s
      else s.regWrite who a n v
  | _ => if regAccessOk o n then s.regWrite who o n v else s

/-- A write of the host, of a device of the regatta, or of the I3C controller to a page that it reaches (R692). -/
def State.mayWrite (s : State) (who : Requester) (o : Nat) : Bool :=
  match who with
  | .func f => s.front && decide (f < 64)
  | .device d => decide (d < 512)
  | .i3c => match pageAt o with
    | some (.pwr, _, _) | some (.tmp, _, _) | some (.log, _, _) | some (.spr, _, _) => true
    | _ => false

def execRegisterWrite (who : Requester) (offset size value : Nat) (s : State) : Host.Outcome State Fault Refusal :=
  s.rails (s.mayWrite who offset && decide (value < 2 ^ (8 * size))) (registerWriteEffect who offset size value)

/-! ### Rows of single registers -/

/-- RT_SEAL (R401, R403). -/
def execRtSeal (s : State) : Host.Outcome State Fault Refusal := s.rails true rtSealEffect

/-- SFU_SEAL (R401, R403, R743): the firmware has loaded a version of the table into the back copies. -/
def sfuSealEffect (version : Nat) (s : State) : State :=
  if s.is SFU_CTL_PENDING then s.on SFU_CTL_CFG_ERR
  else
    let s := ({ s with sfuVer := (s.sfuVer.1, version) }.on SFU_CTL_SEAL).on SFU_CTL_PENDING
    if s.stkState = 0 then s.swapSfu else s

def execSfuSeal (version : Nat) (s : State) : Host.Outcome State Fault Refusal := s.rails true (sfuSealEffect version)

/-- DEV_ID (R644, R742). -/
def execDevId (id : Nat) (s : State) : Host.Outcome State Fault Refusal := s.rails (decide (id < 512)) (devIdEffect id)

/-- NARROW_CFG (R210, R741): all three fields in one act. -/
def narrowCfgEffect (value : Nat) (s : State) : State := s.specificWrite .dev 0 0x120 value

def execNarrowCfg (value : Nat) (s : State) : Host.Outcome State Fault Refusal := s.rails (decide (value < 2 ^ 32)) (narrowCfgEffect value)

end Sys2Proof.Machine
end

