-- ==== Sys2Proof/Machine/Mgmt.lean ====
section
/-!
DEFINITION. The logbook (R682 to R687), the I3C target and its commands (R688 to R694), attestation and firmware (R695 to R698), and
the commands of a wake and of the resets that a waiting I3C command follows (R658 to R667, R774).
-/
namespace Sys2Proof.Machine

/-! ### The logbook -/

/-- One entry moves from the queue to the ring (R683 to R685, R693). -/
def State.logMove (s : State) : State :=
  match s.logQueue with
  | [] => s
  | e :: t =>
    let s : State := { s with logQueue := t }
    if e.severity < s.rd LOG_CTL_MIN_SEVERITY then s
    else if s.is LOG_CTL_FREEZE then s.bump LOG_DROPPED
    else
      let n := s.rd LOG_WRITTEN
      let s := ({ s with logRing := Tab.put s.logRing (n % 8192) e } : State).bump LOG_WRITTEN
      if s.rd LOG_CTL_IBI_SEVERITY ≤ e.severity then s.ibiRaise 8 else s

/-- LOG_TRANSFER (R684): 16 ns later one entry has moved. -/
def logTransferEffect (s : State) : State := (s.at (s.clock + 256)).logMove

def execLogTransfer (s : State) : Host.Outcome State Fault Refusal :=
  s.always (s.pwr.standby && !s.logQueue.isEmpty) logTransferEffect

/-- LOG_INJECT (R687). -/
def execLogInject (value : Nat) (s : State) : Host.Outcome State Fault Refusal :=
  s.rails (decide (value < 2 ^ 32)) (logInjectEffect (value % 2 ^ 19))

/-! ### Responses (R689) -/

/-- The response of a command: STATUS, LEN and the payload. -/
def State.respond (s : State) (status : Nat) (payload : List Byte) : State :=
  { s with i3c := { s.i3c with resp := some (leBytes status 1 ++ leBytes payload.length 2 ++ payload) } }

/-- A malformed command (R689). -/
def State.malformed (s : State) : State := s.respond stMalformed []

/-- PRIVATE_READ (R689): collects the response; the target NACKs while there is none. -/
def privateReadEffect (s : State) : State := { s with i3c := { s.i3c with resp := none } }

def execPrivateRead (s : State) : Host.Outcome State Fault Refusal := s.always (s.pwr.standby && s.i3c.resp.isSome) privateReadEffect

/-- Mask of the pending in-band causes (R693). -/
def State.causeBits (s : State) : Nat := (s.ibi.map (fun e => 2 ^ e.1)).sum

/-- READ_STATUS (R691). -/
def State.statusPayload (s : State) : List Byte :=
  leBytes (s.readReg 0x2104) 4 ++ leBytes (s.readReg 0x211C) 4 ++ leBytes s.causeBits 2 ++ leBytes (s.rd TMP_HOTTEST_TEMP) 1 ++
    leBytes (s.readReg 0x2124) 1 ++ leBytes 0 4

/-- READ_LOG (R691): the entries from `n` on that the ring still holds, at most 7. -/
def State.logEntries (s : State) (n : Nat) : Nat → List Byte
  | 0 => []
  | k + 1 =>
    let w := s.rd LOG_WRITTEN
    if n < w ∧ w - n ≤ 8192 then
      match Tab.find s.logRing (n % 8192) with
      | some e => logBytes e ++ s.logEntries (n + 1) k
      | none => []
    else []

/-- A write of a PWR-page or other register by the I3C controller (R692). -/
def State.i3cWrite (s : State) (o v : Nat) : State :=
  if (s.rd PWR_STAT_STATE = 2 ∨ s.rd PWR_STAT_STATE = 3) ∧ o = 0x2100 then s.respond stPermission []
  else if s.mayWrite .i3c o then (s.regWrite .i3c o 4 v).respond stSuccess []
  else s.respond stPermission []

/-- A read of a register by the I3C controller. -/
def State.i3cRead (s : State) (o : Nat) : State := let r := s.regRead .i3c o 4; r.2.respond stSuccess r.1

/-- AO commands (R690, R691), by their code; those of wrong length or range are malformed. -/
def readStatusRun (s : State) : State := s.respond stSuccess s.statusPayload

def readLogRun (args : List Byte) (s : State) : State :=
  if args.length = 8 then s.respond stSuccess (leBytes (s.rd LOG_WRITTEN) 8 ++ s.logEntries (leNat args) 7) else s.malformed

def readIdentityRun (args : List Byte) (s : State) : State :=
  let o := fieldLE args 0 4
  let n := fieldLE args 4 2
  if args.length = 6 ∧ 1 ≤ n ∧ n ≤ 256 ∧ o + n ≤ 65536 then
    s.respond stSuccess ((List.range n).map (fun k => Config.identity (o + k))) else s.malformed

def readPwrRun (args : List Byte) (s : State) : State :=
  let o := leNat args
  if args.length = 2 ∧ o % 4 = 0 ∧ o < 0x1000 then s.i3cRead (0x2000 + o) else s.malformed

def writePwrRun (args : List Byte) (s : State) : State :=
  let o := fieldLE args 0 2
  if args.length = 6 ∧ o % 4 = 0 ∧ o < 0x1000 then s.i3cWrite (0x2000 + o) (fieldLE args 2 4) else s.malformed

def ackIbiRun (args : List Byte) (s : State) : State :=
  if args.length = 2 then
    ({ s with ibi := s.ibi.filter (fun e => !bitOf (leNat args) e.1) } : State).respond stSuccess [] else s.malformed

def echoRun (args : List Byte) (s : State) : State :=
  if 1 ≤ args.length ∧ args.length ≤ 250 then s.respond stSuccess args else s.malformed

/-! ### SPDM on I3C (R695, R696) -/

/-- Request codes of the seven messages (log 35). -/
def spdmCodes : List Nat := [0x81, 0x82, 0x83, 0x84, 0xE0, 0xE1, 0xE3]

/-- Bytes that stand for an image in a measurement. -/
def FwImage.bytes (f : FwImage) : List Byte :=
  if f.factory then leBytes f.version 4 ++ leBytes f.svn 4 else f.data.flatMap (fun c => leBytes c.1 4 ++ [c.2])

/-- What the measurements measure (R696), one list of bytes for each index. -/
def State.measured (s : State) : List (List Byte) :=
  let n := s.rd DEV_FW_SLOT_SLOT
  let other := s.fwSlot (1 - n)
  let kept := match s.rd PWR_RET_STAT_SOURCE with
    | 0 => s.ret0.entries
    | 1 => s.ret1.entries
    | _ => []
  [(s.fwSlot n).bytes, if s.fwValid other then other.bytes else leBytes 0 48, leBytes s.sfuVer.1 8,
   leBytes (s.rd PWR_RET_STAT_SOURCE) 1 ++ leBytes (s.rd PWR_RET_STAT_SEQUENCE) 4 ++
     kept.flatMap (fun e => leBytes e.1 4 ++ leBytes e.2.1 4 ++ leBytes e.2.2 4),
   (s.ledger false).flatten,
   leBytes s.dev 2 ++ leBytes (s.rd NARROW_CFG_KV + s.rd NARROW_CFG_GRAD * 16 + s.rd NARROW_CFG_OPT * 256) 4]

/-- A responder's answer to the request that it has gathered (R695): its bytes are SPDM's (log 35). -/
def State.spdmAnswered (s : State) (u : SpdmUnit) (conn : Nat) : SpdmUnit :=
  { msg := [], ready := false, resp := some (Config.spdmReply u.msg u.conn s.measured s.fresh), conn := conn }

/-- The responder on I3C answers. -/
def State.spdmAnswer (s : State) (conn : Nat) : State := { s with spdm := s.spdmAnswered s.spdm conn, fresh := s.fresh + 1 }

/-- SPDM_SEND: a chunk of the request. A request that R695 does not list is answered with an SPDM error at once. -/
def spdmSendRun (args : List Byte) (s : State) : State :=
  let f := fieldLE args 0 1
  if args.length < 2 ∨ 241 < args.length ∨ 1 < f then s.malformed
  else
    let old := if s.spdm.ready ∨ s.spdm.resp.isSome then [] else s.spdm.msg
    let msg := old ++ args.drop 1
    let u : SpdmUnit := { s.spdm with msg := msg, ready := f == 1, resp := none }
    let s : State := { s with spdm := u }
    let s := if f = 1 ∧ !spdmCodes.contains (fieldLE msg 1 1) then s.spdmAnswer s.spdm.conn else s
    s.respond stSuccess []

/-- SPDM_RECV: a chunk of the response. While a request is being answered the command waits (R689); with none it is malformed. -/
def spdmRecvRun (args : List Byte) (s : State) : State :=
  if !args.isEmpty then s.malformed
  else match s.spdm.resp with
    | some r =>
      let last := decide (r.length ≤ 240)
      ({ s with spdm := { s.spdm with resp := if last then none else some (r.drop 240) } } : State).respond stSuccess
        (leBytes (b2n last) 1 ++ r.take 240)
    | none => if s.spdm.ready then { s with i3c := { s.i3c with waiting := some (.spdmRecv args) } } else s.malformed

/-! ### Registers, the ledger, reset and firmware (R691, R692, R698) -/

def readRegRun (args : List Byte) (s : State) : State :=
  if args.length = 4 ∧ leNat args % 4 = 0 then s.i3cRead (leNat args) else s.malformed

def writeRegRun (args : List Byte) (s : State) : State :=
  let o := fieldLE args 0 4
  if args.length = 8 ∧ o % 4 = 0 then s.i3cWrite o (fieldLE args 4 4) else s.malformed

def readLedgerRun (args : List Byte) (s : State) : State :=
  if args.length = 4 ∧ leNat args < ledgerCap then s.respond stSuccess (((s.ledger false)[leNat args]?).getD (leBytes 0 32)) else s.malformed

def warmResetRun (args : List Byte) (s : State) : State :=
  if args.length = 2 ∧ leNat args = 0xA55A then (s.respond stSuccess []).warmReset 1 else s.malformed

/-- The slot that is not running. -/
def State.otherSlot (s : State) : FwImage := s.fwSlot (1 - s.rd DEV_FW_SLOT_SLOT)
def State.setOther (s : State) (f : FwImage) : State :=
  if s.rd DEV_FW_SLOT_SLOT = 0 then { s with fwB := f } else { s with fwA := f }

/-- FW_BEGIN: the slot that is not running is erased. -/
def fwBeginRun (args : List Byte) (s : State) : State :=
  let n := leNat args
  if args.length = 4 ∧ 1 ≤ n ∧ n ≤ 0x1000000 then
    let s := s.setOther default
    ({ s with i3c := { s.i3c with fwSize := some n } } : State).respond stSuccess []
  else s.malformed

/-- FW_DATA: a chunk inside the size given. -/
def fwDataRun (args : List Byte) (s : State) : State :=
  let o := fieldLE args 0 4
  let d := args.drop 4
  match s.i3c.fwSize with
  | some n =>
    if 5 ≤ args.length ∧ args.length ≤ 244 ∧ o + d.length ≤ n then
      let f := s.otherSlot
      (s.setOther { f with data := d.zipIdx.foldl (fun t b => Tab.put t (o + b.2) b.1) f.data }).respond stSuccess []
    else s.malformed
  | none => s.malformed

/-- FW_COMMIT: the slot is verified; with RAISE_SVN the fused minimum rises to its SVN. -/
def fwCommitRun (args : List Byte) (s : State) : State :=
  let f := s.otherSlot
  if args.length = 1 ∧ leNat args ≤ 1 ∧ s.fwValid f then
    let s : State := if leNat args = 1 then { s with fwMin := max s.fwMin f.secNum }.wr DEV_FW_MIN_SVN (max s.fwMin f.secNum) else s
    s.respond stSuccess (leBytes f.ver 4 ++ leBytes f.secNum 4)
  else s.malformed

/-! ### Taking a command (R689, R690) -/

/-- Runs an M command. -/
def State.runM (s : State) : Instr → State
  | .wake => s.respond stSuccess []
  | .readReg a => readRegRun a s
  | .writeReg a => writeRegRun a s
  | .readLedger a => readLedgerRun a s
  | .warmReset a => warmResetRun a s
  | .spdmSend a => spdmSendRun a s
  | .spdmRecv a => spdmRecvRun a s
  | .fwBegin a => fwBeginRun a s
  | .fwData a => fwDataRun a s
  | .fwCommit a => fwCommitRun a s
  | _ => s

/-- An M command runs now: the main dies are up. -/
def State.mRuns (s : State) : Bool := s.rd PWR_STAT_STATE == 0 || s.rd PWR_STAT_STATE == 1 || s.rd PWR_STAT_STATE == 5

/-- The command that waits runs once the module has reached ROW (R659, R690), or once the SPDM response is there. -/
def State.runWaiting (s : State) : State :=
  match s.i3c.waiting with
  | none => s
  | some c => if s.mRuns then ({ s with i3c := { s.i3c with waiting := none } } : State).runM c else s

/-- Takes an AO command: executed at once. While a command waits the write is NACKed (R689). -/
def State.ao (s : State) (f : State → State) : Host.Outcome State Fault Refusal :=
  s.always (s.pwr.standby && s.i3c.waiting.isNone) (fun s => f { s with i3c := { s.i3c with resp := none } })

/-- Takes an M command: at once, or in HOLD and DORMANT once it has woken the module (R659, R690). A write of PWR_CMD that R692 turns
away there does not wake it. -/
def State.takeM (c : Instr) (s : State) : State :=
  let s : State := { s with i3c := { s.i3c with resp := none } }
  let asleep := s.rd PWR_STAT_STATE == 2 || s.rd PWR_STAT_STATE == 3
  if s.mRuns then s.runM c
  else
    let t : State := { s with i3c := { s.i3c with waiting := some c } }
    if asleep then
      match c with
      | .writeReg a => if a.length = 8 ∧ fieldLE a 0 4 = 0x2100 then s.respond stPermission [] else t.wake.runWaiting
      | _ => t.wake.runWaiting
    else t

def State.m (s : State) (c : Instr) : Host.Outcome State Fault Refusal :=
  s.always (s.pwr.standby && s.i3c.waiting.isNone) (State.takeM c)

def execReadStatus (s : State) : Host.Outcome State Fault Refusal := s.ao readStatusRun
def execReadLog (args : List Byte) (s : State) : Host.Outcome State Fault Refusal := s.ao (readLogRun args)
def execReadIdentity (args : List Byte) (s : State) : Host.Outcome State Fault Refusal := s.ao (readIdentityRun args)
def execReadPwr (args : List Byte) (s : State) : Host.Outcome State Fault Refusal := s.ao (readPwrRun args)
def execWritePwr (args : List Byte) (s : State) : Host.Outcome State Fault Refusal := s.ao (fun s => (writePwrRun args s).runWaiting)
def execAckIbi (args : List Byte) (s : State) : Host.Outcome State Fault Refusal := s.ao (ackIbiRun args)
def execEcho (args : List Byte) (s : State) : Host.Outcome State Fault Refusal := s.ao (echoRun args)
def execWake (s : State) : Host.Outcome State Fault Refusal := s.m .wake
def execReadReg (args : List Byte) (s : State) : Host.Outcome State Fault Refusal := s.m (.readReg args)
def execWriteReg (args : List Byte) (s : State) : Host.Outcome State Fault Refusal := s.m (.writeReg args)
def execReadLedger (args : List Byte) (s : State) : Host.Outcome State Fault Refusal := s.m (.readLedger args)
def execWarmReset (args : List Byte) (s : State) : Host.Outcome State Fault Refusal := s.m (.warmReset args)
def execSpdmSend (args : List Byte) (s : State) : Host.Outcome State Fault Refusal := s.m (.spdmSend args)
def execSpdmRecv (args : List Byte) (s : State) : Host.Outcome State Fault Refusal := s.m (.spdmRecv args)
def execFwBegin (args : List Byte) (s : State) : Host.Outcome State Fault Refusal := s.m (.fwBegin args)
def execFwData (args : List Byte) (s : State) : Host.Outcome State Fault Refusal := s.m (.fwData args)
def execFwCommit (args : List Byte) (s : State) : Host.Outcome State Fault Refusal := s.m (.fwCommit args)

/-! ### The seven messages of R695

They are answered on I3C or, where no request of the code waits there, on the DOE transport of the physical function, on which the row is
the request's arrival too; each keeps its own connection (R4, R577, R695). -/

/-- The gathered request of a responder is a message of a code. -/
def SpdmUnit.asks (u : SpdmUnit) (code : Nat) : Bool := u.ready && fieldLE u.msg 1 1 == code

/-- A request of a code waits on I3C, or comes on DOE, which needs the PCIe link (log 35). -/
def State.spdmAsked (s : State) (code : Nat) : Bool := s.spdm.asks code || s.front

/-- A request of a code that comes on DOE: no row carries the mailbox's bytes, which are free values after the version and the code
(log 35). -/
def State.doeRequest (s : State) (code : Nat) : List Byte :=
  leBytes 0x12 1 ++ leBytes code 1 ++ (List.range (Config.freeValue s.fresh % 4096)).map (Config.freeByte s.fresh)

/-- Answers a message of a code; `next` gives the connection state that follows. -/
def State.spdmRun (code : Nat) (next : Nat → Nat) (s : State) : State :=
  if s.spdm.asks code then (s.spdmAnswer (next s.spdm.conn)).runWaiting
  else { s with doe := s.spdmAnswered { s.doe with msg := s.doeRequest code } (next s.doe.conn), fresh := s.fresh + 1 }

/-- GET_VERSION starts a connection. -/
def execGetVersion (s : State) : Host.Outcome State Fault Refusal :=
  s.rails (s.spdmAsked 0x84) (State.spdmRun 0x84 (fun _ => 1))

def execGetCapabilities (s : State) : Host.Outcome State Fault Refusal :=
  s.rails (s.spdmAsked 0xE1) (State.spdmRun 0xE1 (fun c => if c = 1 then 2 else c))

def execNegotiateAlgorithms (s : State) : Host.Outcome State Fault Refusal :=
  s.rails (s.spdmAsked 0xE3) (State.spdmRun 0xE3 (fun c => if c = 2 then 3 else c))

def execGetDigests (s : State) : Host.Outcome State Fault Refusal := s.rails (s.spdmAsked 0x81) (State.spdmRun 0x81 (fun c => c))

def execGetCertificate (s : State) : Host.Outcome State Fault Refusal := s.rails (s.spdmAsked 0x82) (State.spdmRun 0x82 (fun c => c))

def execChallenge (s : State) : Host.Outcome State Fault Refusal := s.rails (s.spdmAsked 0x83) (State.spdmRun 0x83 (fun c => c))

def execGetMeasurements (s : State) : Host.Outcome State Fault Refusal := s.rails (s.spdmAsked 0xE0) (State.spdmRun 0xE0 (fun c => c))

/-! ### In-band interrupts (R694) -/

/-- The instant of the next repetition: 100 ms after the last one, or after the first event. -/
def State.ibiNext (s : State) : Nat :=
  max s.i3c.ibiAt (((s.ibi.map (fun e => e.2.1)).foldl min (2 ^ 64) + 100000000) * 16)

/-- IBI_REPEAT (R694): the interrupt is raised again; a cause that is pending 1 s after it was first raised is logged once. -/
def ibiRepeatEffect (s : State) : State :=
  let s := s.at s.ibiNext
  let s := s.ibi.foldl (fun (t : State) e =>
    if !e.2.2 && decide (e.2.1 + 1000000000 ≤ t.ns) then t.logFrom 0xFF01 0x901 2 0 (2 ^ e.1) else t) s
  { s with ibi := s.ibi.map (fun e => (e.1, e.2.1, e.2.2 || decide (e.2.1 + 1000000000 ≤ s.ns)))
           i3c := { s.i3c with ibiAt := s.clock + 100000000 * 16 } }

def execIbiRepeat (s : State) : Host.Outcome State Fault Refusal := s.always (s.pwr.standby && !s.ibi.isEmpty) ibiRepeatEffect

/-! ### Wake and reset (R658 to R667, R674, R774) -/

/-- WAKE_READY (R660). -/
def execWakeReady (s : State) : Host.Outcome State Fault Refusal :=
  s.always (s.pwr.standby && s.rd PWR_STAT_STATE == 6 && !s.pwr.ready) (fun s => (wakeReadyEffect s).runWaiting)

/-- PAD_RELEASE (R658, R678). -/
def execPadRelease (mask : Nat) (s : State) : Host.Outcome State Fault Refusal :=
  s.always s.pwr.standby (fun s => (s.releasePads (mask % 128)).runWaiting)

/-- SELF_REFRESH_EXIT (R660). -/
def execSelfRefreshExit (lpd : Bool) (ctl : Nat) (s : State) : Host.Outcome State Fault Refusal :=
  s.always (s.mayLeaveRefresh lpd ctl) (fun s => (selfRefreshExitEffect lpd ctl s).runWaiting)

/-- PWR_WARM_RESET (R666, R677). -/
def execPwrWarmReset (key : Nat) (s : State) : Host.Outcome State Fault Refusal :=
  s.always s.pwr.standby (fun s => (pwrWarmResetEffect key s).runWaiting)

/-- PERST_ASSERT (R667, R774). -/
def execPerstAssert (s : State) : Host.Outcome State Fault Refusal :=
  s.always (s.pwr.standby && !s.pwr.perst) (fun s => (perstAssertEffect s).runWaiting)

/-- RET_COMMIT_DONE (R674, R752). -/
def execRetCommitDone (s : State) : Host.Outcome State Fault Refusal :=
  s.always (s.pwr.standby && s.is PWR_RET_STAT_BUSY) (fun s => (retCommitDoneEffect s).runWaiting)

end Sys2Proof.Machine
end

