-- ==== Sys2Proof/Machine/Serve.lean ====
section
/-!
DEFINITION. What a device does as the destination of remote operations (R551 to R558, R37): writes, reads and atomics at a local
address, for packets and for its own agents; the protect filter (R493, R494); and how the owner of an answered operation goes on.
-/
namespace Sys2Proof.Machine

/-! ### Serving -/

/-- The new value of an atomic operation (R557). -/
def atomicNew (aop : Nat) (wide : Bool) (old operand compare : Nat) : Nat :=
  let m := if wide then 2 ^ 64 else 2 ^ 32
  match aop with
  | 0 => (old + operand) % m
  | 1 => (fadd (BitVec.ofNat 32 old) (BitVec.ofNat 32 operand)).toNat
  | 2 => operand % m
  | _ => if old = compare % m then operand % m else old

/-- Bytes of an atomic location. -/
def atomicSize (wide : Bool) : Nat := if wide then 8 else 4

/-- What serving an access gives: its status, the value read, and the state. -/
structure Served where
  status : Nat
  old    : Nat
  data   : List Byte
  state  : State

/-- Refuses an access with a status. -/
def Served.no (st : Nat) (s : State) : Served := { status := st, old := 0, data := [], state := s }

/-- An atomic operation at a local address (R41 to R44, R113, R557, R558). A location that is not aligned to its width, a reserved AOP,
and ADD_FP of 8 bytes are malformed. -/
def State.serveAtomic (s : State) (src ctx a aop : Nat) (wide : Bool) (operand compare : Nat) (sched : Bool) : Served :=
  let n := atomicSize wide
  match s.checkLocal src ctx a n (if aop = 0 ∨ aop = 2 ∨ aop = 3 then .atomic else .atomicFp) with
  | .error st => .no st s
  | .ok () =>
    if 3 < aop ∨ a % n ≠ 0 ∨ (aop = 1 ∧ wide = true) then .no stMalformed s
    else if (regionOf a).1 = .tokens then
      let k := tokOfAddr a
      let old := (s.tok k).toNat
      { status := stSuccess, old := old, data := []
        state := s.changeTok k (BitVec.ofNat 32 (atomicNew aop wide old operand compare)) sched }
    else if s.poisoned a n then .no stBus (s.metPoison a n)
    else
      let old := s.rdLE a n
      let s := if aop = 1 then s.on STK_STAT_NONDET_SEEN else s
      { status := stSuccess, old := old, data := []
        state := ((s.spoilPools (gpaOf s.dev a) n).store a 0 sched (leBytes (atomicNew aop wide old operand compare) n)).account ctx a n }

/-- A write that arrives at a local address, already translated (R558): a token, a register, host memory or memory. -/
def State.serveWrite (s : State) (src ctx a wop : Nat) (sched : Bool) (data : List Byte) : Served :=
  match s.checkLocal src ctx a data.length .put with
  | .error st => .no st s
  | .ok () => match (regionOf a).1 with
    | .tokens =>
      let k := tokOfAddr a
      .no stSuccess (s.changeTok k (BitVec.ofNat 32 (leNat data)) sched)
    | .window => .no stSuccess (s.regWrite (.device src) (a - 0x40080000000) data.length (leNat data))
    | .host => let r := s.hostPut ctx a data; .no r.1 r.2
    | _ => .no stSuccess (((s.spoilPools (gpaOf s.dev a) data.length).store a wop sched data).account ctx a data.length)

/-- The increment of a PUT_SIGNAL or SIGNAL packet (R41, R92). -/
def State.serveSignal (s : State) (src ctx a inc : Nat) (sched : Bool) : Served :=
  match s.checkLocal src ctx a 4 .atomic with
  | .error st => .no st s
  | .ok () => if (regionOf a).1 = .tokens then .no stSuccess (s.addTok (tokOfAddr a) inc sched) else .no stMalformed s

/-- A read at a local address that is answered at once (R558): memory, a token, a register. -/
def State.serveRead (s : State) (src ctx a n : Nat) : Served :=
  match s.checkLocal src ctx a n .get with
  | .error st => .no st s
  | .ok () => match (regionOf a).1 with
    | .window =>
      let r := s.regRead (.device src) (a - 0x40080000000) n
      { status := stSuccess, old := 0, data := r.1, state := r.2 }
    | _ => if s.poisoned a n then .no stBus (s.metPoison a n) else { status := stSuccess, old := 0, data := s.rdLocal a n, state := s }

/-- A read of host memory through a window of this front device, when the window lets it through (R586, R588). -/
def State.hostWindowOpen (s : State) (a : Nat) : Except Nat Unit :=
  if 0x7FFFFFF0000 ≤ a then .error stMalformed
  else if s.is HIF_HWIN_ENABLE 0 ((a - 0x60000000000) / 0x2000000000) then .ok () else .error stUnreachable

/-! ### Packets of other devices -/

/-- The oldest packet of a VC at a port, when this device serves it. -/
def State.servable (s : State) (q vc : Nat) : Option Packet :=
  match s.headVc q vc with
  | some (_, p) => if p.dst = s.dev then some p else none
  | none => none

/-- The bytes and the increment of a PUT_SIGNAL of one packet, which are one access: where it breaks a rule nothing changes (R556, R781). -/
def State.servePutSignal (s : State) (src ctx a wop : Nat) (data : List Byte) (tok inc : Nat) (sched : Bool) : Served :=
  match firstBroken [(s.broken src ctx a data.length .put, ()), (s.broken src ctx tok 4 .atomic, ())] with
  | some (st, _) => .no st s
  | none =>
    if (regionOf tok).1 ≠ .tokens then .no stMalformed s
    else
      let r := s.serveWrite src ctx a wop sched data
      if statusOk r.status then r.state.serveSignal src ctx tok inc sched else r

/-- A PUT, PUT_SIGNAL or SIGNAL packet is served and answered (R555 to R558). -/
def State.serveVc1 (s : State) (p : Packet) : State :=
  let r := if p.type = ptSignal ∨ (p.type = ptPutSignal ∧ p.data.isEmpty) then s.serveSignal p.src p.ctx p.aux p.inc p.sched
    else if p.type = ptPutSignal then s.servePutSignal p.src p.ctx p.addr 0 p.data p.aux p.inc p.sched
    else if p.data.isEmpty then Served.no stSuccess s
    else s.serveWrite p.src p.ctx p.addr 0 p.sched p.data
  r.state.sendReply p ptAck r.status 0 []

/-- The frame at whose release a packet waits in the protect filter (R493, R494), when its access is otherwise allowed. -/
def State.filterFrame (s : State) (p : Packet) : Option Nat :=
  let n := if p.type = ptAtomic then atomicSize p.wide else p.data.length
  let k : Reach := if p.type = ptAtomic then (if p.aop = 1 then .atomicFp else .atomic) else .put
  if n = 0 then none
  else match s.checkLocal p.src p.ctx p.addr n k with
    | .ok () => s.protectedIn p.addr n
    | .error _ => none

/-- The controller of a packet's memory holds it (R622, R660, R700). -/
def State.packetWaits (s : State) (p : Packet) : Bool :=
  let n := if p.type = ptAtomic then atomicSize p.wide else if p.type = ptGet then p.aux else p.data.length
  s.unitWaits p.addr n

/-- Serves a write packet, or holds it at the protect filter. -/
def State.takeVc1 (s : State) (q : Nat) (p : Packet) : State :=
  let s := s.dropHead q 1
  match s.filterFrame p with
  | some f => { s with filtered := s.filtered ++ [(f, p)] }
  | none => s.serveVc1 p

/-- The oldest VC1 packet of a port has a type, is for this device, and can be served. -/
def State.vc1Ready (s : State) (q type : Nat) : Bool :=
  match s.servable q 1 with
  | some p => p.type == type && (p.data.isEmpty || !s.packetWaits p)
  | none => false

/-- A packet aims at the trigger page (R588). -/
def atTrigger (p : Packet) : Bool := decide (0x7FFFFFF0000 ≤ p.addr)

/-- Serves the oldest VC1 packet of a port. -/
def vc1Effect (q : Nat) (s : State) : State :=
  match s.servable q 1 with
  | some p => s.takeVc1 q p
  | none => s

/-- The oldest VC1 packet of a port is a PUT to the trigger page, or one elsewhere. -/
def State.putTo (s : State) (q : Nat) (trigger : Bool) : Bool :=
  match s.servable q 1 with
  | some p => atTrigger p == trigger
  | none => false

/-- PUT (R555): its ACK leaves once its writes are visible. -/
def execPutPacket (port : Nat) (s : State) : Host.Outcome State Fault Refusal :=
  s.rails (s.vc1Ready port ptPut && s.putTo port false) (vc1Effect port)

/-- PUT_SIGNAL (R556): the increment follows the visibility of the packet's bytes. -/
def execPutSignalPacket (port : Nat) (s : State) : Host.Outcome State Fault Refusal :=
  s.rails (s.vc1Ready port ptPutSignal) (vc1Effect port)

/-- SIGNAL (R556). -/
def execSignalPacket (port : Nat) (s : State) : Host.Outcome State Fault Refusal :=
  s.rails (s.vc1Ready port ptSignal) (vc1Effect port)

/-- TRIGGER (R588, R589): a PUT to the trigger page. -/
def execTrigger (port : Nat) (s : State) : Host.Outcome State Fault Refusal :=
  s.rails (s.vc1Ready port ptPut && s.putTo port true) (vc1Effect port)

/-- GET (R555, R558, R586): the data leaves, or host memory is asked for it. -/
def getPacketEffect (q : Nat) (s : State) : State :=
  match s.servable q 2 with
  | none => s
  | some p =>
    let s := s.dropHead q 2
    match s.checkLocal p.src p.ctx p.addr p.aux .get with
    | .error st => s.sendReply p ptGetData st 0 []
    | .ok () =>
      if (regionOf p.addr).1 = .host then
        match s.hostWindowOpen p.addr with
        | .error st => s.sendReply p ptGetData st 0 []
        | .ok () => s.hostGet p.ctx none (some (q, p)) p.addr p.aux
      else
        let r := s.serveRead p.src p.ctx p.addr p.aux
        r.state.sendReply p ptGetData r.status 0 r.data

def execGetPacket (port : Nat) (s : State) : Host.Outcome State Fault Refusal :=
  s.rails (match s.servable port 2 with | some p => p.type == ptGet && !s.packetWaits p | none => false) (getPacketEffect port)

/-- An ATOMIC packet is served and answered with the old value (R557, R558). -/
def State.serveVc2 (s : State) (p : Packet) : State :=
  let r := s.serveAtomic p.src p.ctx p.addr p.aop p.wide p.operand p.compare p.sched
  r.state.sendReply p ptAtomicResp r.status r.old []

/-- Serves the oldest ATOMIC packet of a port, or holds it at the protect filter. -/
def atomicPacketEffect (q : Nat) (s : State) : State :=
  match s.servable q 2 with
  | none => s
  | some p =>
    let s := s.dropHead q 2
    match s.filterFrame p with
    | some f => { s with filtered := s.filtered ++ [(f, p)] }
    | none => s.serveVc2 p

/-- The oldest VC2 packet of a port is an ATOMIC of some operation that can be served. -/
def State.atomicReady (s : State) (q : Nat) (ok : Nat → Bool) : Bool :=
  match s.servable q 2 with
  | some p => p.type == ptAtomic && ok p.aop && !s.packetWaits p
  | none => false

/-- ADD (R557). A reserved AOP is answered by this row. -/
def execAdd (port : Nat) (s : State) : Host.Outcome State Fault Refusal :=
  s.rails (s.atomicReady port (fun a => a == 0 || decide (3 < a))) (atomicPacketEffect port)

/-- ADD_FP (R113, R557). -/
def execAddFp (port : Nat) (s : State) : Host.Outcome State Fault Refusal :=
  s.rails (s.atomicReady port (fun a => a == 1)) (atomicPacketEffect port)

/-- SWAP (R557). -/
def execSwap (port : Nat) (s : State) : Host.Outcome State Fault Refusal :=
  s.rails (s.atomicReady port (fun a => a == 2)) (atomicPacketEffect port)

/-- CAS (R557). -/
def execCas (port : Nat) (s : State) : Host.Outcome State Fault Refusal :=
  s.rails (s.atomicReady port (fun a => a == 3)) (atomicPacketEffect port)

/-- The protect filter lets go the packets whose frames are free (R494), in the order in which they came. -/
def State.releaseFiltered (s : State) : State :=
  let ps := s.filtered
  ps.foldl (fun (t : State) (p : Nat × Packet) =>
    match t.filterFrame p.2 with
    | some f => { t with filtered := t.filtered ++ [(f, p.2)] }
    | none => if p.2.type = ptAtomic then t.serveVc2 p.2 else t.serveVc1 p.2) { s with filtered := [] }

/-! ### Owners go on -/

/-- A seat goes on when what it waited for has come: an ATOMIC command ends once it is answered (R137), a tensor command learns that its
writes are visible or that one has failed (R142, R285, R360), and a seat between commands fetches the next (R77). -/
def State.coreWake (s : State) (i : Nat) : State :=
  let x := s.core i
  match x.block with
  | none => s
  | some b =>
    if x.held || x.stalled then s
    else match x.run, x.next with
      | some r, _ =>
        if 0 < x.out then s
        else match x.error with
          | some st => (s.updCore i (fun y => { y with error := none })).failCommand i st (fieldLE r.raw 2 2)
          | none =>
            if fieldLE r.raw 0 1 = 0x52 then s.endCommand i 0
            else s.runVisible i b r
      | none, none => if b.kind = 2 && x.error.isSome && decide (b.count ≤ b.pos) then s else s.fetchNext i
      | none, some _ => s

/-- Every seat goes on that can. -/
def State.wakeCores (s : State) : State := (s.cores.map Prod.fst).foldl (fun (t : State) i => t.coreWake i) s

/-- Bytes that have come for an agent join those beside them (R99). -/
def addArrived (l : List Arrived) (x : Arrived) : List Arrived :=
  let before := l.find? (fun e => e.agent == x.agent && e.addr + e.data.length == x.addr)
  let after := l.find? (fun e => e.agent == x.agent && x.addr + x.data.length == e.addr)
  let y : Arrived := match before with
    | some b => { x with addr := b.addr, data := b.data ++ x.data }
    | none => x
  let z : Arrived := match after with
    | some a => { y with data := y.data ++ a.data }
    | none => y
  z :: l.filter (fun e => some e != before && some e != after)

/-- Bytes come for an agent, for the seats of its crew whose read of the same page goes with its own (R293), and for the read cache. -/
def State.bring (s : State) (x : Arrived) : State :=
  let twins := match x.agent with
    | .core k => (s.mcast.filter (fun (p : Nat × Nat) => p.2 == k && s.asked.any (fun a => a.agent == Agent.core p.1))).map (fun (p : Nat × Nat) => Agent.core p.1)
    | _ => []
  let t := s.rcKeep x
  { t with arrived := twins.foldl (fun (l : List Arrived) ag => addArrived l { x with agent := ag }) (addArrived t.arrived x) }

end Sys2Proof.Machine
end

