-- ==== Sys2Proof/Machine/Host.lean ====
section
/-!
DEFINITION. The host interface (R577 to R592): accesses of the host through BAR2, doorbells, the completions of device reads, the loss
of the PCIe link, Function Level Reset.
-/
namespace Sys2Proof.Machine

/-! ### Pieces of a span -/

/-- A part of a span that lies in one packet: its offset, global physical address, length and write operation. -/
structure RemPart where
  off : Nat
  gpa : Nat
  n   : Nat
  wop : Nat
  deriving DecidableEq, Repr

/-- Translates the pages of a span and cuts them into packets (R552). -/
def State.partsFrom (s : State) (ctx : Nat) (acc : Access) : List (Nat × Nat) → Nat → Except Stop (List RemPart)
  | [], _ => .ok []
  | (va, n) :: t, off => match s.translate ctx va acc with
    | .error e => .error e
    | .ok x => match s.partsFrom ctx acc t (off + n) with
      | .error e => .error e
      | .ok ps => .ok ((pieces2K (gpaLocal x.gpa) n).map (fun p =>
          ({ off := off + p.1, gpa := x.gpa + p.1, n := p.2, wop := x.wop } : RemPart)) ++ ps)

/-- The packets of a span of a context. -/
def State.partsOf (s : State) (ctx va n : Nat) (acc : Access) : Except Stop (List RemPart) := s.partsFrom ctx acc (spanPages va n) 0

/-- A part lies on this device (R37). -/
def State.isHere (s : State) (p : RemPart) : Bool := decide (gpaDev p.gpa = s.dev)

/-- A part whose memory is held by its controller. -/
def State.partWaits (s : State) (p : RemPart) : Bool := s.isHere p && s.unitWaits (gpaLocal p.gpa) p.n

/-- Replaces bytes of a list from an offset on. -/
def spliceAt (l : List Byte) (off : Nat) (d : List Byte) : List Byte := l.take off ++ d ++ l.drop (off + d.length)

/-! ### BAR2 (R579 to R583) -/

/-- Bytes of BAR2 of a function (R579). -/
def bar2Size (f : Nat) : Nat := if f = 0 then 0x1000000000 else 0x400000000

/-- A BAR2 access that fails in translation is counted and logged (R581): function and virtual address. -/
def State.barFault (s : State) (f va : Nat) : State :=
  (s.bump HIF_PC_BAR_FAULTS).logEv .hif 0 0x404 2 0 (f + va % 2 ^ 48 * 2 ^ 16)

/-- A posted write of a function has failed since its last doorbell (R585). -/
def State.noteFailed (s : State) (f : Nat) : State := { s with barFailed := (f :: s.barFailed).dedup }

/-- The limit of a BAR2 read in 1/16 ns (R583, R613). -/
def State.readLimit (s : State) : Nat := max 1000 (s.rd HIF_RD_LIMIT_NS) * 16

/-- An access of the host has ended. -/
def State.dropWait (s : State) (tag : Nat) : State := { s with barWaits := Tab.del s.barWaits tag }

/-- A context fault on the way loses the context (R487). -/
def State.noteStop' (s : State) (ctx : Nat) : Stop → State
  | .ctxFault va l w => s.loseContext ctx va l w .host 0
  | _ => s

/-- Address in the context at which a BAR2 access aims (R580). -/
def State.barVa (s : State) (w : BarWait) : Nat := s.rd CTX_APERTURE w.func + w.addr

/-- The access to a part on this device is allowed (R475, point 9). -/
def State.partOk (s : State) (ctx : Nat) (k : Reach) (p : RemPart) : Bool :=
  match s.checkLocal s.dev ctx (gpaLocal p.gpa) p.n k with
  | .ok () => if (regionOf (gpaLocal p.gpa)).1 = .host ∧ gpaLocal p.gpa < 0x7FFFFFF0000 then
      (match s.hostWindowOpen (gpaLocal p.gpa) with | .ok () => true | .error _ => false) else true
  | .error _ => false

/-- Sends the parts of a write that lie elsewhere, as PUTs (R552, R583). -/
def State.putParts (s : State) (op ctx : Nat) (sched : Bool) (data : List Byte) : List RemPart → State
  | [] => s
  | p :: t =>
    let q := { zeroPacket with
      type := ptPut, vc := 1, ctx := ctx, sched := sched, dst := gpaDev p.gpa, addr := gpaLocal p.gpa
      data := (data.drop p.off).take p.n }
    ((s.noteMoves p.gpa p.n).sendOrFail op q none).putParts op ctx sched data t

/-- The parts of a write of the host. It passes the protect filter, which reads the bit of each frame that it writes, whatever else the leaf
covers (R493). -/
def State.barParts (s : State) (w : BarWait) : Except Stop (List RemPart) :=
  match s.partsOf w.func (s.barVa w) w.len .write with
  | .error (.frame f) => match (s.wr MMU_CKPT_STAT_STATE 0).partsOf w.func (s.barVa w) w.len .write with
    | .ok ps => if ps.any (fun p => s.isHere p && (s.protectedIn (gpaLocal p.gpa) p.n).isSome) then .error (.frame f) else .ok ps
    | r => r
  | r => r

/-- A posted write is made when its translation lets it (R582): it fails, it waits, or it goes to its parts. -/
def State.tryWrite (s : State) (tag : Nat) (w : BarWait) : State :=
  let va := s.barVa w
  match s.barParts w with
  | .error .wait => s
  | .error (.frame _) => s
  | .error e => (((s.noteStop' w.func e).dropWait tag).noteFailed w.func).barFault w.func va
  | .ok ps =>
    let here := ps.filter (fun p => s.isHere p)
    let away := ps.filter (fun p => !s.isHere p)
    if here.any (fun p => !s.partOk w.func .put p) then ((s.dropWait tag).noteFailed w.func).barFault w.func va
    else if here.any (fun p => s.partWaits p) then s
    else
      let s := here.foldl (fun (t : State) p =>
        let r := t.serveWrite t.dev w.func (gpaLocal p.gpa) p.wop false ((w.data.drop p.off).take p.n)
        if statusOk r.status then r.state else r.state.noteFailed w.func) s
      if away.isEmpty then s.dropWait tag
      else
        let (op, s) := s.openOp (.bar w.func tag) w.func away.length false false none
        ({ s with barWaits := Tab.put s.barWaits tag { w with sent := true } } : State).putParts op w.func false w.data away

/-- Sends GETs for the parts of a read that lie elsewhere (R583); what comes goes to their offsets. -/
def State.getParts (s : State) (op ctx : Nat) (sched : Bool) (base : Nat) : List RemPart → State
  | [] => s
  | p :: t =>
    let q := { zeroPacket with
      type := ptGet, vc := 2, ctx := ctx, sched := sched, dst := gpaDev p.gpa, addr := gpaLocal p.gpa, aux := p.n }
    let s := if s.cannotSend q then s.undefGet op q (some (base + p.off)) else s
    (s.sendOrFail op q (some (base + p.off))).getParts op ctx sched base t

/-- The host interface has asked for bytes that cannot come: the status, if so. -/
def State.hostAskFailed (s : State) : Bool := s.asked.any (fun x => x.agent == .host && !x.data.isEmpty)

/-- Reads the parts on this device into the bytes gathered. -/
def State.readParts (s : State) (ag : Agent) (ctx : Nat) : List RemPart → List Byte → Except Stop (List Byte)
  | [], d => .ok d
  | p :: t, d => match s.readGpa ag ctx p.gpa p.n with
    | .error e => .error e
    | .ok b => s.readParts ag ctx t (spliceAt d p.off b)

/-- A BAR2 read ends with Unsupported Request (R581). -/
def State.readFault (s : State) (tag : Nat) (w : BarWait) : State :=
  let s := (s.dropWait tag).clearArrived .host
  ({ s with hostOut := s.hostOut ++ [HostOut.unsupported w.func w.addr] } : State).barFault w.func (s.barVa w)

/-- A BAR2 read, once every earlier posted write of its function is visible (R583). -/
def State.tryRead (s : State) (tag : Nat) (w : BarWait) : State :=
  match s.partsOf w.func (s.barVa w) w.len .read with
  | .error e => (s.noteStop' w.func e).readFault tag w
  | .ok ps =>
    let away := ps.filter (fun p => !s.isHere p)
    match s.readParts .host w.func (ps.filter (fun p => s.isHere p)) (leBytes 0 w.len) with
    | .error (.need g n) => if s.hostAskFailed then s.readFault tag w else s.ask .host w.func false g n
    | .error .wait => s
    | .error _ => s.readFault tag w
    | .ok d =>
      let s := s.clearArrived .host
      if away.isEmpty then (s.dropWait tag).barAnswer w.func w.addr (some d)
      else
        let (op, s) := s.openOp (.bar w.func tag) w.func away.length false false none
        ({ s with barWaits := Tab.put s.barWaits tag { w with sent := true, data := d } } : State).getParts op w.func false 0 away

/-! ### Doorbells (R584, R585) -/

/-- A doorbell write is discarded and counted. -/
def State.bellDrop (s : State) : State := s.bump HIF_PC_DOORBELL_DROPS

/-- A doorbell write, once every earlier posted BAR2 write of its function is visible: it adds to the bound token, or is
discarded. -/
def State.tryBell (s : State) (tag : Nat) (w : BarWait) : State :=
  let s := s.dropWait tag
  let v := leNat w.data
  if s.barFailed.contains w.func then
    let s : State := { s with barFailed := s.barFailed.filter (fun f => f != w.func) }
    ((s.bellDrop).on CTX_STAT_DOORBELL_DROP w.func).logEv .hif 0 0x404 2 0 w.func
  else if 16 ≤ w.addr ∨ v = 0 ∨ w.len ≠ 4 ∨ !s.is CTX_DOORBELL_VALID w.func w.addr then s.bellDrop
  else
    let g := s.rd CTX_DOORBELL_ADDR w.func w.addr * 4
    if gpaDev g = s.dev then (s.serveAtomic s.dev w.func (gpaLocal g) 0 false v 0 false).state
    else
      let (op, s) := s.openOp (.bar w.func tag) w.func 1 false false none
      s.sendOrFail op (addPkt w.func false (gpaDev g) (gpaLocal g) v) none

/-! ### The order of the host's accesses -/

/-- An access of the host waits for earlier posted writes of its function: a read or a doorbell until they are visible, a write until
they have left (R582 to R584). -/
def State.barBlocked (s : State) (tag : Nat) (w : BarWait) : Bool :=
  s.barWaits.any (fun x => decide (x.1 < tag) && x.2.func == w.func && x.2.kind == 1 && (w.kind != 1 || !x.2.sent))

/-- Every access of the host that can go on does, in order of arrival. -/
def State.pumpBars (s : State) : State :=
  (s.barWaits.map Prod.fst).foldl (fun (t : State) tag =>
    match Tab.find t.barWaits tag with
    | none => t
    | some w =>
      if w.sent || t.barBlocked tag w then t
      else match w.kind with
        | 0 => t.tryRead tag w
        | 1 => t.tryWrite tag w
        | _ => t.tryBell tag w) s

/-- An access of the host has arrived. -/
def State.newWait (s : State) (w : BarWait) : State :=
  ({ s with barWaits := Tab.put s.barWaits s.nextTag w, nextTag := s.nextTag + 1 } : State).pumpBars

/-- A new access of an interface that is not enabled is refused (R717, R727): a read with Completer Abort. -/
def State.hifRefuses (s : State) : Bool := s.blk .hif != 1

/-- BAR2_READ (R580, R581, R583). -/
def bar2ReadEffect (f o n : Nat) (s : State) : State :=
  if s.hifRefuses then s.barAnswer f o none
  else if !s.ctxOn f then
    ({ s with hostOut := s.hostOut ++ [HostOut.unsupported f o] } : State).bump HIF_PC_BAR_FAULTS
  else s.newWait { kind := 0, func := f, addr := o, len := n, data := [], due := s.clock + s.readLimit, sent := false }

def execBar2Read (func addr len : Nat) (s : State) : Host.Outcome State Fault Refusal :=
  s.rails (s.front && decide (func < 64) && decide (0 < len) && decide (len ≤ 4096) && decide (addr + len ≤ bar2Size func))
    (bar2ReadEffect func addr len)

/-- BAR2_WRITE (R580 to R582, R585, R591). -/
def bar2WriteEffect (f o : Nat) (data : List Byte) (poisoned : Bool) (s : State) : State :=
  let s := (s.bump HIF_PC_RX_BYTES data.length).bump CTX_ACC_HOST data.length f
  if poisoned then s.on HIF_ERR_POISON_RX
  else if s.hifRefuses then s.noteFailed f
  else if !s.ctxOn f then (s.noteFailed f).bump HIF_PC_BAR_FAULTS
  else s.newWait { kind := 1, func := f, addr := o, len := data.length, data := data, due := 0, sent := false }

def execBar2Write (func addr : Nat) (data : List Byte) (poisoned : Bool) (s : State) : Host.Outcome State Fault Refusal :=
  s.rails (s.front && decide (func < 64) && !data.isEmpty && decide (data.length ≤ 4096) &&
    decide (addr + data.length ≤ bar2Size func)) (bar2WriteEffect func addr data poisoned)

/-- RD_LIMIT_EXPIRY (R583): the read ends with Completer Abort, and what comes later is discarded. -/
def rdLimitEffect (tag : Nat) (s : State) : State :=
  match Tab.find s.barWaits tag with
  | none => s
  | some w =>
    let s := ((s.at w.due).dropWait tag).barAnswer w.func w.addr none
    (s.logEv .hif 0 0x404 2 0 (w.func + s.barVa w % 2 ^ 48 * 2 ^ 16)).pumpBars

def execRdLimitExpiry (tag : Nat) (s : State) : Host.Outcome State Fault Refusal :=
  s.rails (match Tab.find s.barWaits tag with | some w => w.kind == 0 | none => false) (rdLimitEffect tag)

/-- 4-byte words of BAR4 of a function: all of them, those of the doorbell area, and those of the MSI-X table after it (R579). -/
def bar4Words (f : Nat) : Nat := if f = 0 then 0x8000 else 0x1000
def bellWords (f : Nat) : Nat := if f = 0 then 0x4000 else 0x800
def tableWords (f : Nat) : Nat := 4 * msixVectors f

/-- A write of the host beyond the doorbell area of BAR4 (R579, R588): words of the MSI-X table; the rest of BAR4 takes no write. -/
def State.bar4Write (s : State) (f k v : Nat) : State :=
  let put (s : State) (k v : Nat) : State := if k - bellWords f < tableWords f then s.msixWrite f (k - bellWords f) v else s
  let s := put s k v
  if v < 2 ^ 32 then s else put s (k + 1) (v / 2 ^ 32)

/-- DOORBELL (R584, R585): a write of the host to word `k` of BAR4. A value of more than 32 bits stands for a write of another size. -/
def doorbellEffect (f k v : Nat) (s : State) : State :=
  let n := if v < 2 ^ 32 then 4 else 8
  let s := (s.bump HIF_PC_RX_BYTES n).bump CTX_ACC_HOST n f
  if s.hifRefuses then s.bellDrop
  else if bellWords f ≤ k then s.bar4Write f k v
  else s.newWait { kind := 2, func := f, addr := k, len := n, data := leBytes v n, due := 0, sent := false }

def execDoorbell (func index value : Nat) (s : State) : Host.Outcome State Fault Refusal :=
  s.rails (s.front && decide (func < 64) && decide (index < bar4Words func) && decide (value < 2 ^ 64)) (doorbellEffect func index value)

/-! ### Device reads of host memory (R577, R591) -/

/-- A device read of host memory has ended with a status or with its data: a packet is answered, an agent gets its bytes. -/
def State.endHostRead (s : State) (tag : Nat) (r : HostRead) (d : Except Nat (List Byte)) : State :=
  let s : State := { s with hostReads := Tab.del s.hostReads tag }
  match d with
  | .error st => s.failHostRead r st
  | .ok b => match r.packet, r.agent with
    | some (_, p), _ => s.sendReply p ptGetData stSuccess 0 b
    | none, some ag => s.bring { agent := ag, addr := gpaOf s.dev r.addr, data := b }
    | none, none => s

/-- Context on whose behalf host memory is read. -/
def State.hostReadCtx (s : State) (r : HostRead) : Nat :=
  match r.packet, r.agent with
  | some (_, p), _ => p.ctx
  | none, some (.core i) => (match (s.core i).block with | some b => b.ctx | none => 0)
  | none, some (.chan e c) => s.chanCtx e c
  | _, _ => 0

/-- HOST_COMPLETION (R591): data, or an error or a poisoned payload, which ends the read with 0x23. -/
def hostCompletionEffect (tag status : Nat) (data : List Byte) (s : State) : State :=
  match Tab.find s.hostReads tag with
  | none => s
  | some r =>
    let s := if status = stSuccess then (s.bump HIF_PC_RX_BYTES data.length).bump CTX_ACC_HOST data.length (s.hostReadCtx r) else s
    ((s.endHostRead tag r (if status = stSuccess then .ok data else .error stBus)).wakeCores).pumpBars

def execHostCompletion (tag status : Nat) (data : List Byte) (s : State) : Host.Outcome State Fault Refusal :=
  s.rails (match Tab.find s.hostReads tag with | some r => status != stSuccess || data.length == r.len | none => false)
    (hostCompletionEffect tag status data)

/-- COMPLETION_TIMEOUT (R577, R591): 40 ms after the request the read ends with 0x23; AER reports it. -/
def completionTimeoutEffect (tag : Nat) (s : State) : State :=
  match Tab.find s.hostReads tag with
  | none => s
  | some r =>
    let s := (s.at r.due).on HIF_ERR_CPL_TIMEOUT
    ((({ s with hostOut := s.hostOut ++ [HostOut.aer 0] } : State).endHostRead tag r (.error stBus)).wakeCores).pumpBars

def execCompletionTimeout (tag : Nat) (s : State) : Host.Outcome State Fault Refusal :=
  s.rails (Tab.find s.hostReads tag).isSome (completionTimeoutEffect tag)

/-- LINK_DOWN (R578, R591). -/
def execLinkDown (s : State) : Host.Outcome State Fault Refusal := s.rails s.front State.pcieDown

/-! ### Function Level Reset (R592) -/

/-- Function Level Reset: FORCE_OFF of the function's context, or of every context; the physical function's then stops a stroke that
runs. The function's MSI-X table is reset too (R4). -/
def flrEffect (f : Nat) (s : State) : State :=
  let s := s.msixReset f
  if f ≠ 0 then forceEffect .ctx f s
  else
    let s := (List.range 64).foldl (fun (t : State) c => forceEffect .ctx c t) s
    if 2 ≤ s.stkState then (s.wr STK_STAT_STATE 3).abandonStroke else s

def execFunctionLevelReset (func : Nat) (s : State) : Host.Outcome State Fault Refusal :=
  s.rails (s.front && decide (func < 64)) (flrEffect func)

end Sys2Proof.Machine
end

