-- ==== Sys2Proof/Machine/Remote.lean ====
section
/-!
DEFINITION. Remote operations at their issuer (R551 to R561): the REMOTE cues and the ATOMIC command, the responses that come back,
and the timeout of a transaction.
-/
namespace Sys2Proof.Machine

/-! ### The descriptor (R553, R554) -/

/-- The fields that an operation uses: OP, FENCE, OP_ID, DST and LOCAL, and its own. -/
def remoteFields (d : List Byte) : List (Nat × Nat) :=
  [(0, 3), byteSpan 2 2, byteSpan 8 8, byteSpan 16 8] ++
  (match rOp d with
   | 0 => [byteSpan 4 4]
   | 1 => [byteSpan 4 4, byteSpan 40 10]
   | 2 => [byteSpan 4 4]
   | _ => [(8, 3), (12, 1), byteSpan 24 8] ++ (if rAop d = 3 then [byteSpan 32 8] else []))

/-- Bytes that an operation moves. -/
def remoteBytes (d : List Byte) : Nat := if rOp d = 3 then atomicSize (rWide d) else rLength d

/-- The operation names a LOCAL span. -/
def usesLocal (d : List Byte) : Bool := rOp d != 3 || rLocal d != 0

/-- An operation ready to go: its packets, the token of a PUT_SIGNAL as a global physical address, the source bytes of a PUT. -/
structure RemPlan where
  parts : List RemPart
  sig   : Nat
  data  : List Byte
  deriving DecidableEq, Repr, Inhabited

/-- Two lists of parts share a byte. -/
def partsMeet (xs ys : List RemPart) : Bool := xs.any (fun x => ys.any (fun y => overlaps x.gpa x.n y.gpa y.n))

/-- What R34 and R554 forbid of a translated descriptor. -/
def State.remoteBad (s : State) (d : List Byte) (ps ls gs : List RemPart) : Bool :=
  let n := remoteBytes d
  !onlyFields d (remoteFields d) || !ptrsOk d [8, 16] || (rOp d == 1 && !ptrsOk d [40]) ||
  (rOp d != 3 && decide (16777216 < rLength d)) ||
  ls.any (fun p => !s.isHere p) ||
  (usesLocal d && decide (0 < n) && overlaps (rDst d) n (rLocal d) n) || partsMeet ps ls ||
  (rOp d == 3 && (rDst d % n != 0 || decide (3 < rAop d) || (rAop d == 1 && rWide d))) ||
  (rOp d == 1 && (rInc d == 0 || (match gs with
    | g :: _ => (regionOf (gpaLocal g.gpa)).1 != .tokens || ps.any (fun p => gpaDev p.gpa != gpaDev g.gpa)
    | [] => true)))

/-- The accesses that this device serves itself can be made now: none of them waits for its memory or for the host. -/
def State.hereReady (s : State) (ag : Agent) (ctx : Nat) (read : Bool) : List RemPart → Except Stop Unit
  | [] => .ok ()
  | p :: t =>
    if !s.isHere p then s.hereReady ag ctx read t
    else if s.partWaits p then .error .wait
    else if read then
      match s.readGpa ag ctx p.gpa p.n with
      | .error (.need g n) => .error (.need g n)
      | _ => s.hereReady ag ctx read t
    else s.hereReady ag ctx read t

/-- Prepares an operation (R554): the checks of R475 on DST, LOCAL and SIGNAL_PTR in this order, then those of R554, then the source
bytes of a PUT, or the place of what comes back. -/
def State.remotePlan (s : State) (ag : Agent) (ctx : Nat) (d : List Byte) : Except Stop RemPlan := do
  let n := remoteBytes d
  let ps ← s.partsOf ctx (rDst d) n (if rOp d = 2 then .read else if rOp d = 3 then .atomic else .write)
  let ls ← if usesLocal d then s.partsOf ctx (rLocal d) n (if rOp d < 2 then .read else .write) else .ok []
  let gs ← if rOp d = 1 then s.partsOf ctx (rSignal d) 4 .write else .ok []
  if s.remoteBad d ps ls gs then .error (.fail stMalformed 0 false)
  s.hereReady ag ctx (rOp d == 2) ps
  if rOp d < 2 then do
    let data ← s.readV ag ctx (rLocal d) n
    return { parts := ps, sig := (gs.head?.map (fun g => g.gpa)).getD 0, data := data }
  else do
    if usesLocal d then s.checkWrites ctx [{ va := rLocal d, data := leBytes 0 n }]
    return { parts := ps, sig := 0, data := [] }

/-! ### The operation leaves (R552, R555, R556, R560) -/

/-- A part of a PUT: written here, or sent. -/
def State.putPart (s : State) (op ctx : Nat) (sched : Bool) (data : List Byte) (p : RemPart) : State :=
  if s.isHere p then
    let r := s.serveWrite s.dev ctx (gpaLocal p.gpa) p.wop sched ((data.drop p.off).take p.n)
    r.state.answer op (gpaLocal p.gpa) s.dev r.status
  else s.putParts op ctx sched data [p]

/-- A part of a GET: read here and written at LOCAL, or asked for. -/
def State.getPart (s : State) (ag : Agent) (op ctx : Nat) (sched : Bool) (base : Nat) (p : RemPart) : State :=
  if s.isHere p then
    match s.readGpa ag ctx p.gpa p.n with
    | .ok b => ((s.noteRead p.gpa p.n).writeV (.agent ag) ctx (base + p.off) sched b).answer op (gpaLocal p.gpa) s.dev stSuccess
    | .error e => (s.undefineLocal ctx (base + p.off) p.n).answer op (gpaLocal p.gpa) s.dev
        (match e with | .fail st _ _ => st | _ => stBus)
  else s.getParts op ctx sched base [p]

/-- A crew that issues an operation which writes drops the sectors it writes from its read cache (R395). -/
def State.rcParts (s : State) (owner : Owner) (parts : List RemPart) : State :=
  parts.foldl (fun (t : State) p => t.rcWrite owner p.gpa p.n) s

/-- PUT. -/
def State.runPut (s : State) (owner : Owner) (ctx : Nat) (sched : Bool) (pl : RemPlan) : State :=
  let s := s.rcParts owner pl.parts
  let (op, s) := s.openOp owner ctx pl.parts.length sched false none
  pl.parts.foldl (fun (t : State) p => t.putPart op ctx sched pl.data p) s

/-- PUT_SIGNAL (R556): on this device the increment follows the bytes; elsewhere it rides in the one packet, or leaves after the
last ACK. With LENGTH 0 only the increment leaves (R560). -/
def State.runPutSignal (s : State) (owner : Owner) (ctx : Nat) (sched : Bool) (d : List Byte) (pl : RemPlan) : State :=
  let dev := gpaDev pl.sig
  let a := gpaLocal pl.sig
  let s := s.rcParts owner pl.parts
  if dev = s.dev then
    match pl.parts with
    | [p] =>
      let (op, s) := s.openOp owner ctx 1 sched false none
      let r := s.servePutSignal s.dev ctx (gpaLocal p.gpa) p.wop pl.data a (rInc d) sched
      r.state.answer op (gpaLocal p.gpa) dev r.status
    | ps =>
      let (op, s) := s.openOp owner ctx (ps.length + 1) sched (rLength d == 0) none
      let s := ps.foldl (fun (t : State) p => t.putPart op ctx sched pl.data p) s
      match Tab.find s.ops op with
      | some o => if o.worst.isNone then
          let r := s.serveSignal s.dev ctx a (rInc d) sched
          r.state.answer op a dev r.status
        else s.answer op a dev stSuccess
      | none => s
  else match pl.parts with
    | [] =>
      let (op, s) := s.openOp owner ctx 1 sched true none
      s.sendOrFail op (signalPkt ctx sched dev a (rInc d)) none
    | [p] =>
      let (op, s) := s.openOp owner ctx 1 sched false none
      s.sendOrFail op { zeroPacket with
        type := ptPutSignal, vc := 1, ctx := ctx, sched := sched, dst := dev, addr := gpaLocal p.gpa, aux := a, inc := rInc d
        data := pl.data } none
    | ps =>
      let (op, s) := s.openOp owner ctx ps.length sched false (some (dev, a, rInc d))
      s.putParts op ctx sched pl.data ps

/-- GET. -/
def State.runGet (s : State) (ag : Agent) (owner : Owner) (ctx : Nat) (sched : Bool) (d : List Byte) (pl : RemPlan) : State :=
  let (op, s) := s.openOp owner ctx pl.parts.length sched false none
  pl.parts.foldl (fun (t : State) p => t.getPart ag op ctx sched (rLocal d) p) s

/-- ATOMIC (R557): made here, or sent as one packet. -/
def State.runAtomic (s : State) (ag : Agent) (owner : Owner) (ctx : Nat) (sched : Bool) (d : List Byte) (pl : RemPlan) : State :=
  match pl.parts with
  | [] => s
  | p :: _ =>
    let s := s.rcParts owner [p]
    let (op, s) := s.openOp owner ctx 1 sched false none
    let a := gpaLocal p.gpa
    if s.isHere p then
      let r := s.serveAtomic s.dev ctx a (rAop d) (rWide d) (rOperand d) (rCompare d) sched
      let t := if statusOk r.status ∧ rLocal d ≠ 0 then
          r.state.writeV (.agent ag) ctx (rLocal d) sched (leBytes r.old (remoteBytes d))
        else r.state
      t.answer op a s.dev r.status
    else
      s.sendOrFail op { zeroPacket with
        type := ptAtomic, vc := 2, ctx := ctx, sched := sched, dst := gpaDev p.gpa, addr := a, aop := rAop d, wide := rWide d
        operand := rOperand d, compare := rCompare d } (if rLocal d = 0 then none else some (rLocal d))

/-! ### REMOTE cues -/

/-- OP_ID of the descriptor goes into the cue's record (R553, R679). -/
def State.noteOpId (s : State) (c idx : Nat) (d : List Byte) : State :=
  let x := s.cox c
  match Tab.find x.running idx with
  | some r => s.setCox c { x with running := Tab.put x.running idx { r with detail := (d.drop 2).take 2 } }
  | none => s

/-- How a REMOTE cue goes on when its operation cannot be prepared (R476, R554). -/
def State.remoteStop (s : State) (c ctx id idx : Nat) (d : List Byte) : Stop → State
  | .fail st va w => (((s.failedAt ctx st va w).issueCue c idx 1).cuePart c idx st 0 0 ((d.drop 2).take 2))
  | .ctxFault a l w => (((s.loseContext ctx a l w (.cox c) id).issueCue c idx 1).cuePart c idx stLost 0 0 ((d.drop 2).take 2))
  | e => s.cueStop c ctx id idx e

/-- A REMOTE cue issues its operation; `run` sends it. An operation of LENGTH 0 that only moves data is done (R560). -/
def State.remoteCue (s : State) (c : Nat) (run : Owner → Nat → List Byte → RemPlan → State → State) : State :=
  s.issueWith c (fun sh q idx s =>
    match s.readV (.cox c) sh.ctx q.ptr 64 with
    | .error e => s.cueStop c sh.ctx q.id idx e
    | .ok d => match s.remotePlan (.cox c) sh.ctx d with
      | .error e => s.remoteStop c sh.ctx q.id idx d e
      | .ok pl =>
        let s := ((s.noteReads sh.ctx [(rLocal d, pl.data.length)]).issueCue c idx 1).noteOpId c idx d
        if rLength d = 0 ∧ (rOp d = 0 ∨ rOp d = 2) then s.cuePart c idx stFlags flZeroShape 8 []
        else (run (.cue c idx) sh.ctx d pl s).clearArrived (.cox c))

/-- The cue that issues next is a REMOTE cue of an operation; one whose descriptor cannot be read, or whose context refuses it, is
taken by any of the four rows. -/
def State.remoteIs (s : State) (c op : Nat) : Bool :=
  s.issues c 3 && (match s.readyCue c with
    | some (sh, q, _) => (s.ctxRefuses sh.ctx).isSome ||
        (match s.readV (.cox c) sh.ctx q.ptr 64 with | .ok d => rOp d == op | .error _ => true)
    | none => false)

def remotePutEffect (c : Nat) (s : State) : State := s.remoteCue c (fun o ctx _ pl s => s.runPut o ctx true pl)

/-- REMOTE_PUT (R552, R554, R555, R560). -/
def execRemotePut (crew : Nat) (s : State) : Host.Outcome State Fault Refusal := s.rails (s.remoteIs crew 0) (remotePutEffect crew)

def remotePutSignalEffect (c : Nat) (s : State) : State := s.remoteCue c (fun o ctx d pl s => s.runPutSignal o ctx true d pl)

/-- REMOTE_PUT_SIGNAL (R554 to R556, R560). -/
def execRemotePutSignal (crew : Nat) (s : State) : Host.Outcome State Fault Refusal :=
  s.rails (s.remoteIs crew 1) (remotePutSignalEffect crew)

def remoteGetEffect (c : Nat) (s : State) : State := s.remoteCue c (fun o ctx d pl s => s.runGet (.cox c) o ctx true d pl)

/-- REMOTE_GET (R552, R554, R555, R560). -/
def execRemoteGet (crew : Nat) (s : State) : Host.Outcome State Fault Refusal := s.rails (s.remoteIs crew 2) (remoteGetEffect crew)

def remoteAtomicEffect (c : Nat) (s : State) : State := s.remoteCue c (fun o ctx d pl s => s.runAtomic (.cox c) o ctx true d pl)

/-- REMOTE_ATOMIC (R554, R555, R557). -/
def execRemoteAtomic (crew : Nat) (s : State) : Host.Outcome State Fault Refusal :=
  s.rails (s.remoteIs crew 3) (remoteAtomicEffect crew)

/-! ### The ATOMIC command (R128, R137) -/

def atomicFields : List (Nat × Nat) := idFields ++ [byteSpan 72 8]

/-- ATOMIC issues the operation of its descriptor, which is of kind ATOMIC and 64-byte aligned. -/
def atomicEffect (i : Nat) (s : State) : State :=
  s.asSeat i (fun s => match (s.core i).block, (s.core i).next with
    | some b, some raw =>
      let id := fieldLE raw 2 2
      let ptr := fieldLE raw 72 8
      if !onlyFields raw atomicFields || ptr % 64 != 0 then s.failCommand i stMalformed id
      else match s.readV (.core i) b.ctx ptr 64 with
        | .error e => s.coreStop i b.ctx id false e
        | .ok d =>
          if rOp d ≠ 3 then s.failCommand i stMalformed id
          else match s.remotePlan (.core i) b.ctx d with
            | .error e => s.coreStop i b.ctx id false e
            | .ok pl =>
              let s := (s.clearArrived (.core i)).updCore i (fun x => { x with run := some (emptyRun raw), out := x.out + 1 })
              s.runAtomic (.core i) (.core i) b.ctx b.sched d pl
    | _, _ => s)

def execAtomic (core : Nat) (s : State) : Host.Outcome State Fault Refusal :=
  s.rails (s.decodes core 0x52) (fun s => (atomicEffect core s).coreWake core)

/-! ### Responses (R555, R559, R568) -/

/-- The transaction slot that a response names by its TAG, when the generation agrees (R568). -/
def State.txnOf (s : State) (p : Packet) : Option Txn :=
  match Tab.find (s.port p.port).slots p.slot with
  | some t => if t.packet.gen = p.gen then some t else none
  | none => none

/-- The oldest VC0 packet of a port, when it is a response of a type for this device. -/
def State.responseAt (s : State) (q type : Nat) : Option Packet :=
  match s.servable q 0 with
  | some p => if p.type = type then some p else none
  | none => none

/-- The seat whose self window an operation's LOCAL may name (R603). -/
def State.selfOf (s : State) (o : Owner) : Option Nat :=
  match o with
  | .core i => (match (s.core i).block with | some b => if b.kind = 2 then some i else none | none => none)
  | _ => none

/-- The agent for which an operation works. -/
def Owner.faulter : Owner → Agent
  | .cue c _ => .cox c
  | .core i => .core i
  | .chan e ch => .chan e ch
  | .agent a => a
  | _ => .host

/-- What came back is written at LOCAL: the status with which the packet ends, and the state. Protected frames are copied then, so that it
holds no credit while it waits (R494). -/
def State.deliver (s : State) (o : RemOp) (va : Nat) (data : List Byte) : Nat × State :=
  if o.owner = .gone then (stSuccess, s) else
  let t : State := { s with self := s.selfOf o.owner }.copyFor o.ctx [{ va := va, data := data }] 64
  match t.checkWrites o.ctx [{ va := va, data := data }] with
  | .ok () =>
    let t := match t.partsOf o.ctx va data.length .write with
      | .ok ps => t.rcParts o.owner ps
      | .error _ => t
    (stSuccess, { t.writeV .message o.ctx va o.sched data with self := s.self })
  | .error (.fail st _ _) => (st, s)
  | .error (.pageFault _ _ _) => (stPageFault, s)
  | .error (.ctxFault a l w) => (stLost, s.loseContext o.ctx a l w o.owner.faulter 0)
  | .error _ => (stBus, s)

/-- Data that comes back waits while its place does (WSTALL, a memory that is held). -/
def State.deliverWaits (s : State) (p : Packet) : Bool :=
  match s.txnOf p with
  | some t => (match t.dest, Tab.find s.ops t.op with
    | some va, some o => (match o.owner with
      | .bar _ _ => false
      | _ =>
        let u : State := { s with self := s.selfOf o.owner }
        (match u.checkWrites o.ctx [{ va := va, data := leBytes 0 (if p.type = ptGetData then p.data.length else atomicSize t.packet.wide) }] with
         | .error .wait => true
         | _ => false))
    | _, _ => false)
  | none => false

/-- Takes a response: one that no slot expects is counted (R568); then everything that waited for it goes on. -/
def State.takeResponse (s : State) (q : Nat) (p : Packet) (f : Txn → State → State) : State :=
  let s := s.dropHead q 0
  let s := match s.txnOf p with
    | some t => f t s
    | none => s.bump LNK_PC_LATE_RESP 1 q
  s.wakeCores.pumpBars

/-- ACK (R555, R556). -/
def ackEffect (q : Nat) (s : State) : State :=
  match s.responseAt q ptAck with
  | some p => s.takeResponse q p (fun t s =>
      let s := match Tab.find s.ops t.op with
        | some o => s.rcWrite o.owner (gpaOf t.packet.dst t.packet.addr) t.packet.data.length
        | none => s
      s.endSlot p.port p.slot p.status)
  | none => s

def execAck (port : Nat) (s : State) : Host.Outcome State Fault Refusal :=
  s.rails (s.responseAt port ptAck).isSome (ackEffect port)

/-- NAK (R548). -/
def nakEffect (q : Nat) (s : State) : State :=
  match s.responseAt q ptNak with
  | some p => s.takeResponse q p (fun _ s => s.endSlot p.port p.slot p.status)
  | none => s

def execNak (port : Nat) (s : State) : Host.Outcome State Fault Refusal :=
  s.rails (s.responseAt port ptNak).isSome (nakEffect port)

/-- What a GET brought goes to its owner: LOCAL of a cue, the bytes of a BAR2 read, the response buffer of an agent. -/
def State.bringData (s : State) (t : Txn) (data : List Byte) : Nat × State :=
  match Tab.find s.ops t.op with
  | none => (stSuccess, s)
  | some o => match o.owner, t.dest with
    | .bar _ tag, some off => match Tab.find s.barWaits tag with
      | some w => (stSuccess, { s with barWaits := Tab.put s.barWaits tag { w with data := spliceAt w.data off data } })
      | none => (stSuccess, s)
    | .gone, _ => (stSuccess, s)
    | .agent ag, _ =>
      (stSuccess, s.bring { agent := ag, addr := gpaOf t.packet.dst t.packet.addr, data := data })
    | _, some va => s.deliver o va data
    | _, none => (stSuccess, s)

/-- GET_DATA (R555, R559). -/
def getDataEffect (q : Nat) (s : State) : State :=
  match s.responseAt q ptGetData with
  | some p => s.takeResponse q p (fun t s =>
      if statusOk p.status then
        let r := s.bringData t (p.data.take t.packet.aux)
        r.2.endSlot p.port p.slot r.1
      else s.endSlot p.port p.slot p.status)
  | none => s

def execGetData (port : Nat) (s : State) : Host.Outcome State Fault Refusal :=
  s.rails (match s.responseAt port ptGetData with | some p => !s.deliverWaits p | none => false) (getDataEffect port)

/-- ATOMIC_RESP (R555). -/
def atomicRespEffect (q : Nat) (s : State) : State :=
  match s.responseAt q ptAtomicResp with
  | some p => s.takeResponse q p (fun t s =>
      match t.dest, Tab.find s.ops t.op with
      | some va, some o =>
        if statusOk p.status then
          let r := s.deliver o va (leBytes p.operand (atomicSize t.packet.wide))
          r.2.endSlot p.port p.slot r.1
        else s.endSlot p.port p.slot p.status
      | _, _ => s.endSlot p.port p.slot p.status)
  | none => s

def execAtomicResp (port : Nat) (s : State) : Host.Outcome State Fault Refusal :=
  s.rails (match s.responseAt port ptAtomicResp with | some p => !s.deliverWaits p | none => false) (atomicRespEffect port)

/-! ### The timeout (R571) -/

/-- The packet of a slot has left its port. -/
def State.slotLeft (s : State) (q n : Nat) : Bool :=
  match Tab.find (s.port q).slots n with
  | some t => !(s.port q).tx.any (fun e => e.2.2 == t.packet)
  | none => false

/-- RMT_TIMEOUT (R571): the slot ends with 0x51. -/
def rmtTimeoutEffect (q n : Nat) (s : State) : State :=
  match Tab.find (s.port q).slots n with
  | none => s
  | some t => ((((s.at t.due).bump LNK_PC_TIMEOUTS 1 q).endSlot q n stTimeout).wakeCores).pumpBars

def execRmtTimeout (port slot : Nat) (s : State) : Host.Outcome State Fault Refusal :=
  s.rails (s.slotLeft port slot) (rmtTimeoutEffect port slot)

end Sys2Proof.Machine
end

