-- ==== Sys2Proof/Machine/Catch.lean ====
section
/-!
DEFINITION. The catch and the end of the drive (R53 to R55, R100), and the steps of running tensor commands (R115, R138 to R143).
-/
namespace Sys2Proof.Machine

/-! ### The catch -/

/-- The watch slots that still have uses are released and counted (R453). -/
def State.releaseWatches (s : State) : State := { s.bump TIER_PC_WATCH_UNUSED s.watches.length with watches := [] }

/-- Roster rows that are being replaced take their spare row (R617, kind 10). -/
def State.enterRows (s : State) : State :=
  (s.retired.filter (fun r => r.1.kind == 10 && r.2 == 1)).foldl (fun (t : State) r => t.entered r.1) s

/-- An armed checkpoint unit enters ACTIVE at the catch of its stroke (R491). -/
def State.catchCkpt (s : State) (num : Nat) : State :=
  if s.rd MMU_CKPT_STAT_STATE = 1 ∧ s.rd MMU_CKPT_AT = num then s.enterActive num else s

/-- The cox takes what it has accepted: its page is enabled, or drains and completes accepted work (R717). -/
def State.coxTakes (s : State) (c : Nat) : Bool :=
  s.blk .cox c == 1 || (s.blk .cox c == 2 && s.is (BLK_CTL_DRAIN_MODE .cox) c)

/-- A cox starts the sheet of the new stroke (R71, R72, R113); without it the crew starts late. One that takes no work refuses its
sheet (R80, R717). -/
def State.startSheet (s : State) (c num : Nat) : State :=
  let x := s.cox c
  let cur := match x.next with | some sh => if sh.stroke = num ∧ s.coxTakes c then some sh else none | none => none
  let s := s.setCox c { (default : Cox) with cur := cur, bad := x.bad.filter (· == num) }
  match cur with
  | some sh => if sh.nondet then s.on STK_STAT_NONDET_SEEN else s
  | none => if s.coxTakes c then s else s.refuseSheet c num stRefused

/-- The catch (R53, R54, R66, R91, R317, R396, R401, R453, R491): the stroke number, the tokens, the tables and the read caches, then the
roster, then the sheets. -/
def State.doCatch (s : State) (t num : Nat) : State :=
  let first := s.stkState == 1
  let s := ((s.at t).wr STK_STROKE num).wr STK_STAT_STATE 2
  let s : State := { s with
    stk := { s.stk with catchAt := t, ended := false, due := none, k := 0, lates := [], resumed := none, curtain := false, relayed := [] }
    touched := [], amaxDone := [] }
  let s := (((s.clearScoped.swapTables.releaseWatches).rcCatch).catchCkpt num).enterRows
  let s := s.rosterCatch (first || s.lenFull)
  (List.range 16).foldl (fun (u : State) c => u.startSheet c num) s

/-- CATCH (R53): the catch that is scheduled falls. -/
def catchEffect (s : State) : State :=
  match s.stk.due with
  | some (t, num) => s.doCatch t num
  | none => s

def execCatchStroke (s : State) : Host.Outcome State Fault Refusal :=
  s.work (s.stk.due.isSome && (s.stkState == 1 || s.stkState == 2)) catchEffect

/-! ### The end of the drive -/

/-- The crews that have not posted their done token are late (R100): LATE, STK_LATE_MASK, and one message to the starter. -/
def State.raiseLate (s : State) : State :=
  let crews := (List.range 16).filter (fun c => !(s.cox c).ended)
  if crews.isEmpty then s
  else
    let mask := (crews.map (fun c => 2 ^ c)).sum
    let s := crews.foldl (fun (t : State) c => t.setCox c { t.cox c with late := true }) s
    ((s.on STK_STAT_LATE).wr STK_LATE_MASK_MASK mask).toStarter { noMsg with code := 3, dev := s.dev, num := s.stroke, mask := mask }

/-- END_OF_DRIVE (R55, R100, R334, R411, R436): at T + D the drive ends and the recovery starts; in hold water too, T + D falls and the
late crews are reported. -/
def endOfDriveEffect (s : State) : State :=
  let s := s.at (s.stk.catchAt + s.rd STK_DRIVE_NS * 16)
  let s : State := { s with stk := { s.stk with ended := true }, testRows := [] }
  s.raiseLate.agePoolPages.rebalance

def execEndOfDrive (s : State) : Host.Outcome State Fault Refusal :=
  s.rails ((s.stkState == 2 || s.stkState == 3) && !s.stk.ended) endOfDriveEffect

/-! ### Steps -/

/-- The step of a running command, by its opcode (R128). -/
def State.stepOf (s : State) (i : Nat) (b : Block) (r : Run) : State :=
  match fieldLE r.raw 0 1 with
  | 0x01 => s.stepSeatCopy i b r
  | 0x02 => s.stepSeatCopy i b r
  | 0x10 => s.stepGemm i b r
  | 0x11 => s.stepGemm i b r
  | 0x12 => s.stepConv i b r
  | 0x13 => s.stepConv i b r
  | 0x18 => s.stepAttn i b r
  | 0x19 => if bitOf (fieldLE r.raw 65 1) 5 then s.stepAccept i b r else s.stepAttn i b r
  | 0x20 => s.stepEpilogue i b r
  | 0x21 => s.stepNorm i b r
  | 0x22 => s.stepSoftmax i b r
  | 0x23 => s.stepSfu i b r
  | 0x28 => s.stepCrop i b r
  | 0x29 => s.stepRegroup i b r true
  | 0x2A => s.stepRegroup i b r false
  | 0x30 => s.stepScan i b r
  | 0x31 => s.stepState i b r
  | 0x38 => s.stepSample i b r
  | 0x48 => s.stepAmax i b r
  | _ => s

/-- A seat has a step to run. -/
def State.hasStep (s : State) (i : Nat) : Bool :=
  decide (i < 144) && s.canRun i &&
  (match (s.core i).run with
  | some r => fieldLE r.raw 0 1 != 0x52 && !r.closing && (s.core i).error.isNone
  | none => false)

/-- STEP (R115, R138 to R143, R620): the next step of the command completes, or its self-check fails and it restarts. A step that
completes ends the row of failures. -/
def stepEffect (i : Nat) (ok : Bool) (s : State) : State :=
  if !ok then s.selfCheckFailed i
  else match (s.core i).block, (s.core i).run with
    | some b, some r =>
      let t := s.asSeat i (fun u => u.stepOf i b r)
      let t := if stepped s t i then t.updCore i (fun x => { x with failing := 0 }) else t
      t.settle
    | _, _ => s

def execStep (core : Nat) (checkOk : Bool) (s : State) : Host.Outcome State Fault Refusal :=
  s.rails (s.hasStep core) (stepEffect core checkOk)

end Sys2Proof.Machine
end

