-- ==== Sys2Proof/Machine/Dispatch.lean ====
section
/-!
DEFINITION. One arm per command: each is a direct call of that command's meaning.
-/
namespace Sys2Proof.Machine

/-- The effect of a command on everything but the queue. -/
def exec (i : Instr) (s : State) : Host.Outcome State Fault Refusal :=
  match i with
  | .run => Sys2Proof.Machine.execRun s
  | .clearRun => Sys2Proof.Machine.execClearRun s
  | .ready port => Sys2Proof.Machine.execReady port s
  | .stkCmdGo => Sys2Proof.Machine.execStkCmdGo s
  | .stkCmdStop => Sys2Proof.Machine.execStkCmdStop s
  | .stkCmdResume => Sys2Proof.Machine.execStkCmdResume s
  | .stkCmdAbandon => Sys2Proof.Machine.execStkCmdAbandon s
  | .curtain port => Sys2Proof.Machine.execCurtain port s
  | .catchStroke => Sys2Proof.Machine.execCatchStroke s
  | .catchTimeout => Sys2Proof.Machine.execCatchTimeout s
  | .endOfDrive => Sys2Proof.Machine.execEndOfDrive s
  | .decisionPoint => Sys2Proof.Machine.execDecisionPoint s
  | .late port => Sys2Proof.Machine.execLate port s
  | .doneMsg port => Sys2Proof.Machine.execDoneMsg port s
  | .holdReq port => Sys2Proof.Machine.execHoldReq port s
  | .hold port => Sys2Proof.Machine.execHold port s
  | .resume port => Sys2Proof.Machine.execResume port s
  | .abandon port => Sys2Proof.Machine.execAbandon port s
  | .stop port => Sys2Proof.Machine.execStop port s
  | .enterStopped => Sys2Proof.Machine.execEnterStopped s
  | .sheetFetch crew => Sys2Proof.Machine.execSheetFetch crew s
  | .nop crew => Sys2Proof.Machine.execNop crew s
  | .launch crew => Sys2Proof.Machine.execLaunch crew s
  | .dmaCue crew => Sys2Proof.Machine.execDmaCue crew s
  | .endCue crew => Sys2Proof.Machine.execEndCue crew s
  | .cueComplete crew cue => Sys2Proof.Machine.execCueComplete crew cue s
  | .batchFlush crew => Sys2Proof.Machine.execBatchFlush crew s
  | .copy core => Sys2Proof.Machine.execCopy core s
  | .transposeCopy core => Sys2Proof.Machine.execTransposeCopy core s
  | .gemm core => Sys2Proof.Machine.execGemm core s
  | .gemmList core => Sys2Proof.Machine.execGemmList core s
  | .conv2d core => Sys2Proof.Machine.execConv2d core s
  | .conv3d core => Sys2Proof.Machine.execConv3d core s
  | .attn core => Sys2Proof.Machine.execAttn core s
  | .attnVerify core => Sys2Proof.Machine.execAttnVerify core s
  | .acceptMode core => Sys2Proof.Machine.execAcceptMode core s
  | .epilogue core => Sys2Proof.Machine.execEpilogue core s
  | .norm core => Sys2Proof.Machine.execNorm core s
  | .softmax core => Sys2Proof.Machine.execSoftmax core s
  | .sfu core => Sys2Proof.Machine.execSfu core s
  | .cropResize core => Sys2Proof.Machine.execCropResize core s
  | .spaceToChannel core => Sys2Proof.Machine.execSpaceToChannel core s
  | .channelToSpace core => Sys2Proof.Machine.execChannelToSpace core s
  | .scan core => Sys2Proof.Machine.execScan core s
  | .stateStep core => Sys2Proof.Machine.execStateStep core s
  | .sample core => Sys2Proof.Machine.execSample core s
  | .fork crew => Sys2Proof.Machine.execFork crew s
  | .admission crew => Sys2Proof.Machine.execAdmit crew s
  | .release crew => Sys2Proof.Machine.execRelease crew s
  | .amaxUpdate core => Sys2Proof.Machine.execAmaxUpdate core s
  | .signal core => Sys2Proof.Machine.execSignal core s
  | .wait core => Sys2Proof.Machine.execWait core s
  | .waitSatisfied core => Sys2Proof.Machine.execWaitSatisfied core s
  | .atomic core => Sys2Proof.Machine.execAtomic core s
  | .step core checkOk => Sys2Proof.Machine.execStep core checkOk s
  | .cowCopy core => Sys2Proof.Machine.execCowCopy core s
  | .poolEnable pool => Sys2Proof.Machine.execPoolEnable pool s
  | .rosPoolAdd pool count => Sys2Proof.Machine.execRosPoolAdd pool count s
  | .frame port f => Sys2Proof.Machine.execFrame port f s
  | .ackTimeout port => Sys2Proof.Machine.execAckTimeout port s
  | .frameLockLoss port => Sys2Proof.Machine.execFrameLockLoss port s
  | .laneSpare port lane => Sys2Proof.Machine.execLaneSpare port lane s
  | .laneErrorWindow port errors => Sys2Proof.Machine.execLaneErrorWindow port errors s
  | .retrain port => Sys2Proof.Machine.execRetrain port s
  | .trainingPhase port lanes => Sys2Proof.Machine.execTrainingPhase port lanes s
  | .trainingTimeout port => Sys2Proof.Machine.execTrainingTimeout port s
  | .mgmt port => Sys2Proof.Machine.execMgmt port s
  | .packetSend port => Sys2Proof.Machine.execPacketSend port s
  | .packetForward port => Sys2Proof.Machine.execPacketForward port s
  | .remotePut crew => Sys2Proof.Machine.execRemotePut crew s
  | .remotePutSignal crew => Sys2Proof.Machine.execRemotePutSignal crew s
  | .remoteGet crew => Sys2Proof.Machine.execRemoteGet crew s
  | .remoteAtomic crew => Sys2Proof.Machine.execRemoteAtomic crew s
  | .putPacket port => Sys2Proof.Machine.execPutPacket port s
  | .putSignalPacket port => Sys2Proof.Machine.execPutSignalPacket port s
  | .signalPacket port => Sys2Proof.Machine.execSignalPacket port s
  | .getPacket port => Sys2Proof.Machine.execGetPacket port s
  | .add port => Sys2Proof.Machine.execAdd port s
  | .addFp port => Sys2Proof.Machine.execAddFp port s
  | .swap port => Sys2Proof.Machine.execSwap port s
  | .cas port => Sys2Proof.Machine.execCas port s
  | .ack port => Sys2Proof.Machine.execAck port s
  | .getData port => Sys2Proof.Machine.execGetData port s
  | .atomicResp port => Sys2Proof.Machine.execAtomicResp port s
  | .nak port => Sys2Proof.Machine.execNak port s
  | .rmtTimeout port slot => Sys2Proof.Machine.execRmtTimeout port slot s
  | .memoryRequest addr requester lpdRank lpdBank => Sys2Proof.Machine.execMemoryRequest addr requester lpdRank lpdBank s
  | .memoryServe lpd ctl bank unit outcome => Sys2Proof.Machine.execMemoryServe lpd ctl bank unit outcome s
  | .bounceReissue lpd ctl bank requester => Sys2Proof.Machine.execBounceReissue lpd ctl bank requester s
  | .memoryTimeout lpd ctl bank requester => Sys2Proof.Machine.execMemoryTimeout lpd ctl bank requester s
  | .hbmTemperatureReadout stack temp => Sys2Proof.Machine.execHbmTemperatureReadout stack temp s
  | .register => Sys2Proof.Machine.execRegister s
  | .free => Sys2Proof.Machine.execFree s
  | .setHint => Sys2Proof.Machine.execSetHint s
  | .move => Sys2Proof.Machine.execMove s
  | .touch => Sys2Proof.Machine.execTouch s
  | .query => Sys2Proof.Machine.execQuery s
  | .objectCopy object => Sys2Proof.Machine.execObjectCopy object s
  | .objectSwitch object => Sys2Proof.Machine.execObjectSwitch object s
  | .lendEnable window => Sys2Proof.Machine.execLendEnable window s
  | .windowOpen window => Sys2Proof.Machine.execWindowOpen window s
  | .leaseEnable lease => Sys2Proof.Machine.execLeaseEnable lease s
  | .reclaim lease => Sys2Proof.Machine.execReclaim lease s
  | .leaseReturned lease => Sys2Proof.Machine.execLeaseReturned lease s
  | .watchRecopy slot => Sys2Proof.Machine.execWatchRecopy slot s
  | .walk agent ctx va access => Sys2Proof.Machine.execWalk agent ctx va access s
  | .retry faultId => Sys2Proof.Machine.execRetry faultId s
  | .retryContext ctx => Sys2Proof.Machine.execRetryContext ctx s
  | .abort faultId => Sys2Proof.Machine.execAbort faultId s
  | .abortContext ctx => Sys2Proof.Machine.execAbortContext ctx s
  | .faultRingFlush => Sys2Proof.Machine.execFaultRingFlush s
  | .invalidation => Sys2Proof.Machine.execInvalidation s
  | .invalidationComplete => Sys2Proof.Machine.execInvalidationComplete s
  | .arm => Sys2Proof.Machine.execArm s
  | .cancel => Sys2Proof.Machine.execCancel s
  | .frameCopy frame => Sys2Proof.Machine.execFrameCopy frame s
  | .checkpointScan => Sys2Proof.Machine.execCheckpointScan s
  | .dmaCopy engine ch => Sys2Proof.Machine.execDmaCopy engine ch s
  | .dmaTranspose engine ch => Sys2Proof.Machine.execDmaTranspose engine ch s
  | .dmaFill engine ch => Sys2Proof.Machine.execDmaFill engine ch s
  | .descriptorComplete engine ch => Sys2Proof.Machine.execDescriptorComplete engine ch s
  | .ownerWait engine ch => Sys2Proof.Machine.execOwnerWait engine ch s
  | .chEnable engine ch => Sys2Proof.Machine.execChEnable engine ch s
  | .chDisableReq engine ch => Sys2Proof.Machine.execChDisableReq engine ch s
  | .chForceOff engine ch => Sys2Proof.Machine.execChForceOff engine ch s
  | .channelDisabled engine ch => Sys2Proof.Machine.execChannelDisabled engine ch s
  | .bar2Read func addr len => Sys2Proof.Machine.execBar2Read func addr len s
  | .bar2Write func addr data poisoned => Sys2Proof.Machine.execBar2Write func addr data poisoned s
  | .rdLimitExpiry tag => Sys2Proof.Machine.execRdLimitExpiry tag s
  | .doorbell func index value => Sys2Proof.Machine.execDoorbell func index value s
  | .trigger port => Sys2Proof.Machine.execTrigger port s
  | .hostCompletion tag status data => Sys2Proof.Machine.execHostCompletion tag status data s
  | .completionTimeout tag => Sys2Proof.Machine.execCompletionTimeout tag s
  | .linkDown => Sys2Proof.Machine.execLinkDown s
  | .functionLevelReset func => Sys2Proof.Machine.execFunctionLevelReset func s
  | .perstAssert => Sys2Proof.Machine.execPerstAssert s
  | .perstDeassert => Sys2Proof.Machine.execPerstDeassert s
  | .taskPlacement => Sys2Proof.Machine.execTaskPlacement s
  | .saveComplete core => Sys2Proof.Machine.execSaveComplete core s
  | .restoreComplete core => Sys2Proof.Machine.execRestoreComplete core s
  | .taskComplete core => Sys2Proof.Machine.execTaskComplete core s
  | .preempt ctx => Sys2Proof.Machine.execPreempt ctx s
  | .ctxResume ctx => Sys2Proof.Machine.execCtxResume ctx s
  | .accClear ctx => Sys2Proof.Machine.execAccClear ctx s
  | .rearm => Sys2Proof.Machine.execRearm s
  | .summaryRetry => Sys2Proof.Machine.execSummaryRetry s
  | .enable page inst => Sys2Proof.Machine.execEnable page inst s
  | .disableReq page inst => Sys2Proof.Machine.execDisableReq page inst s
  | .forceOff page inst => Sys2Proof.Machine.execForceOff page inst s
  | .drainEnd page inst => Sys2Proof.Machine.execDrainEnd page inst s
  | .softReset page inst => Sys2Proof.Machine.execSoftReset page inst s
  | .resetComplete page inst => Sys2Proof.Machine.execResetComplete page inst s
  | .intForce page inst mask => Sys2Proof.Machine.execIntForce page inst mask s
  | .readToClear who offset => Sys2Proof.Machine.execReadToClear who offset s
  | .registerWrite who offset size value => Sys2Proof.Machine.execRegisterWrite who offset size value s
  | .rtSeal => Sys2Proof.Machine.execRtSeal s
  | .sfuSeal version => Sys2Proof.Machine.execSfuSeal version s
  | .devId id => Sys2Proof.Machine.execDevId id s
  | .narrowCfg value => Sys2Proof.Machine.execNarrowCfg value s
  | .rcInvalidate crew => Sys2Proof.Machine.execRcInvalidate crew s
  | .backgroundTest scratch index outcome => Sys2Proof.Machine.execBackgroundTest scratch index outcome s
  | .spareBankCopy scratch index spare => Sys2Proof.Machine.execSpareBankCopy scratch index spare s
  | .enterRow => Sys2Proof.Machine.execEnterRow s
  | .enterEasy => Sys2Proof.Machine.execEnterEasy s
  | .enterHold => Sys2Proof.Machine.execEnterHold s
  | .enterDormant => Sys2Proof.Machine.execEnterDormant s
  | .askRound deferMs => Sys2Proof.Machine.execAskRound deferMs s
  | .wake => Sys2Proof.Machine.execWake s
  | .wakeReady => Sys2Proof.Machine.execWakeReady s
  | .padRelease mask => Sys2Proof.Machine.execPadRelease mask s
  | .powerCheck r => Sys2Proof.Machine.execPowerCheck r s
  | .trip cause => Sys2Proof.Machine.execTrip cause s
  | .supplyLoss => Sys2Proof.Machine.execSupplyLoss s
  | .supplyReturn => Sys2Proof.Machine.execSupplyReturn s
  | .mateOpen => Sys2Proof.Machine.execMateOpen s
  | .standbyStart straps => Sys2Proof.Machine.execStandbyStart straps s
  | .pwrWarmReset key => Sys2Proof.Machine.execPwrWarmReset key s
  | .pwrRetCommit => Sys2Proof.Machine.execPwrRetCommit s
  | .retCommitDone => Sys2Proof.Machine.execRetCommitDone s
  | .invalidate => Sys2Proof.Machine.execInvalidate s
  | .retire kind block => Sys2Proof.Machine.execRetire kind block s
  | .enter kind block => Sys2Proof.Machine.execEnter kind block s
  | .annotate kind block => Sys2Proof.Machine.execAnnotate kind block s
  | .faultWindow => Sys2Proof.Machine.execFaultWindow s
  | .seatEntry crew => Sys2Proof.Machine.execSeatEntry crew s
  | .unitRemap lpd ctl => Sys2Proof.Machine.execUnitRemap lpd ctl s
  | .ledgerWrite => Sys2Proof.Machine.execLedgerWrite s
  | .load => Sys2Proof.Machine.execLoad s
  | .logTransfer => Sys2Proof.Machine.execLogTransfer s
  | .logInject value => Sys2Proof.Machine.execLogInject value s
  | .privateRead => Sys2Proof.Machine.execPrivateRead s
  | .readStatus => Sys2Proof.Machine.execReadStatus s
  | .readLog args => Sys2Proof.Machine.execReadLog args s
  | .readIdentity args => Sys2Proof.Machine.execReadIdentity args s
  | .readPwr args => Sys2Proof.Machine.execReadPwr args s
  | .writePwr args => Sys2Proof.Machine.execWritePwr args s
  | .ackIbi args => Sys2Proof.Machine.execAckIbi args s
  | .echo args => Sys2Proof.Machine.execEcho args s
  | .readReg args => Sys2Proof.Machine.execReadReg args s
  | .writeReg args => Sys2Proof.Machine.execWriteReg args s
  | .readLedger args => Sys2Proof.Machine.execReadLedger args s
  | .warmReset args => Sys2Proof.Machine.execWarmReset args s
  | .spdmSend args => Sys2Proof.Machine.execSpdmSend args s
  | .spdmRecv args => Sys2Proof.Machine.execSpdmRecv args s
  | .fwBegin args => Sys2Proof.Machine.execFwBegin args s
  | .fwData args => Sys2Proof.Machine.execFwData args s
  | .fwCommit args => Sys2Proof.Machine.execFwCommit args s
  | .ibiRepeat => Sys2Proof.Machine.execIbiRepeat s
  | .getVersion => Sys2Proof.Machine.execGetVersion s
  | .getCapabilities => Sys2Proof.Machine.execGetCapabilities s
  | .negotiateAlgorithms => Sys2Proof.Machine.execNegotiateAlgorithms s
  | .getDigests => Sys2Proof.Machine.execGetDigests s
  | .getCertificate => Sys2Proof.Machine.execGetCertificate s
  | .challenge => Sys2Proof.Machine.execChallenge s
  | .getMeasurements => Sys2Proof.Machine.execGetMeasurements s
  | .testRun page inst => Sys2Proof.Machine.execTestRun page inst s
  | .marginGo lpd ctl => Sys2Proof.Machine.execMarginGo lpd ctl s
  | .marginTrial lpd ctl errors => Sys2Proof.Machine.execMarginTrial lpd ctl errors s
  | .extest => Sys2Proof.Machine.execExtest s
  | .idcode => Sys2Proof.Machine.execIdcode s
  | .samplePreload cells => Sys2Proof.Machine.execSamplePreload cells s
  | .clamp => Sys2Proof.Machine.execClamp s
  | .highz => Sys2Proof.Machine.execHighz s
  | .bypass => Sys2Proof.Machine.execBypass s
  | .testLogicReset => Sys2Proof.Machine.execTestLogicReset s
  | .pcieLinkUp speed width flit => Sys2Proof.Machine.execPcieLinkUp speed width flit s
  | .standbyStop => Sys2Proof.Machine.execStandbyStop s
  | .selfRefreshExit lpd ctl => Sys2Proof.Machine.execSelfRefreshExit lpd ctl s
  | .loopbackFollower => Sys2Proof.Machine.execLoopbackFollower s

end Sys2Proof.Machine
end

