-- ==== Sys2Proof/Machine/Tick.lean ====
section
/-!
DEFINITION. What one tick of the stroke clock does while no command waits (log 1): everything that the rules say happens without a
command of its own.
-/
namespace Sys2Proof.Machine

/-- A read that a cox has asked of another device has failed: its sheet is refused, or its cue fails (R476). -/
def State.coxReadFailed (s : State) (c gpa st : Nat) : State :=
  let sheet := match s.fetchTarget c with
    | some n => (spanPages (s.sheetAddr c n) 4194368).any (fun p => match s.translate 0 p.1 .read with
        | .ok x => decide (x.gpa ≤ gpa) && decide (gpa < x.gpa + p.2)
        | .error _ => false)
    | none => false
  if sheet then
    let n := (s.fetchTarget c).getD s.stroke
    (s.logEv .cox c 0x106 3 st (c + s.sheetAddr c n % 2 ^ 48 * 2 ^ 16)).refuseSheet c n st
  else match s.readyCue c with
    | some (_, _, idx) => s.failCue c idx st
    | none => s

/-- A read that the roster has asked of another device for a FORK has failed (R315, R476); one of a directory block keeps its status until
the phases of the catch take it (R479). -/
def State.rosterReadFailed (s : State) (gpa st : Nat) : State :=
  match (List.range 16).find? (fun c => s.forkReads c gpa) with
  | some c => match s.readyCue c with
    | some (sh, q, idx) => (s.clearArrived .roster).refuseReq c idx st (match s.readV (.cox c) sh.ctx q.ptr 128 with | .ok b => b | .error _ => leBytes 0 128)
    | none => s
  | none => if s.rosWait.isSome then s else s.clearArrived .roster

/-- A read that the task unit has asked of another device has failed: the descriptor of a ring is passed over (R484). -/
def State.taskReadFailed (s : State) (gpa : Nat) : State :=
  match (List.range 64).find? (fun c => match s.ringTask c with | some (.error (.need g _)) => g == gpa | _ => false) with
  | some c => s.bump CTX_TASK_HEAD 1 c
  | none => s

/-- A read that the tier manager has asked of another device has failed: a restore ends, or the descriptor of its ring is passed
over. -/
def State.tierReadFailed (s : State) (gpa : Nat) : State :=
  if s.loadPos.isSome then s.loadEnd 5
  else match s.tierHead with
    | .error (.need g _) => if g = gpa then s.bump TIER_RING_HEAD else s
    | _ => s

/-- A read of an agent has ended with a status (R476, R559, R591). -/
def State.readFailed (s : State) (a : Arrived) : State :=
  let st := leNat a.data
  let s := if a.agent == .roster then s else s.clearArrived a.agent
  match a.agent with
  | .core i => s.failCommand i st (s.core i).cmdId
  | .chan e c => s.setChan e c { s.chan e c with error := some st }
  | .cox c => s.coxReadFailed c a.addr st
  | .roster => s.rosterReadFailed a.addr st
  | .tasks => s.taskReadFailed a.addr
  | .tier => s.tierReadFailed a.addr
  | .host => s

/-- Every read that has failed is taken, one for each agent. A BAR2 read takes its own. -/
def State.takeReadFailures (s : State) : State :=
  (s.asked.filter (fun a => !a.data.isEmpty && a.agent != .host)).foldl (fun (t : State) a =>
    if t.asked.contains a then t.readFailed a else t) s

/-- Remote accesses that have ended with 0x50 or 0x51 fail their lease (R444). -/
def State.takeLeaseFailures (s : State) : State :=
  s.leaseFails.foldl (fun (t : State) f => t.leaseOutcome f.1 f.2.1 f.2.2) { s with leaseFails := [] }

/-- A restore under way goes on as far as its reads complete (R641). -/
def State.goOnLoading (s : State) : State :=
  if s.loadPos.isSome then s.loadRun (s.areaSlots (s.rd TIER_CKPT_CTL_LOAD_AREA) + 2) else s

/-- A catch whose processing waits for page copies or for bytes of other devices goes on (R317, log 24), but not in hold water (R106). -/
def State.goOnCatch (s : State) : State :=
  if s.stkState = 3 then s else
  match s.rosWait with
  | some full => s.rosterCatch full
  | none => s

/-- The area of a checkpoint whose bitmap another agent has written is undefined (R491). -/
def State.settleSpoiled (s : State) : State :=
  let local' (g n : Nat) (t : State) : State := if gpaDev g = t.dev then t.undefine (gpaLocal g) n else t
  let ckpt := s.rd MMU_CKPT_STAT_STATE
  let kept := s.wildPools.filterMap (fun k => if k < 16 then some k
    else if k = 16 ∨ k = 17 then (if ckpt = 0 then none else if ckpt = 1 then some 16 else some 17) else none)
  s.wildPools.foldl (fun (t : State) k =>
    if k < 16 ∨ k = 17 then t
    else if ckpt = 1 then t
    else
      let a := t.rd TIER_CKPT_STAT_AREA
      local' (t.areaBase a) (areaSlot0 (t.areaSlots a) + t.areaSlots a * 65536) t) { s with wildPools := kept.dedup }

/-! ### Soft errors (R95, R398, R405, R619, R627; log 50) -/

/-- A roster row or a token counter has met an error (R619, R627): corrected, or uncorrectable, when the value held is lost and the device
requests hold water. -/
def State.rowError (s : State) (i : Inst) (lost : Bool) : State :=
  let page := if i.kind = 10 then Page.ros else if i.block = 0xFFFF then Page.dev else Page.cox
  let inst := if page = .cox then i.block else 0
  if !lost then (s.errCorr page inst).transient i (faultLimit i.kind)
  else
    let s := (s.errUncorr page inst).permanent i 1
    let s :=
      if i.kind = 10 then s.undefine (rosterAddr i.pos) 64
      else
        let (v, t) := s.free
        t.setTok (if i.block = 0xFFFF then tokGlobal i.pos else tokCrew i.block i.pos) (BitVec.ofNat 32 v)
    s.sendHoldReq stInternal

/-- A soft error strikes. In a scratchpad (kind 1) or a crew store (kind 3) a read corrects a bit and counts it; of kind 2 or 4, a codeword
is poison until it is written (R405, R406). A line of a read cache fails its next lookup (R398). A channel's descriptor ends with
CAUSE 0x7F (R619). Rows and counters go by R627. What other rows of the table report, they report. -/
def State.softError (s : State) (i : Inst) (n : Nat) : State :=
  let scratch := i.kind == 1 || i.kind == 2
  let size := if scratch then 0x300000 else 0x1000000
  let o := n % size
  if !i.exists' then s
  else if i.kind = 1 ∨ i.kind = 3 then
    ((s.errCorr (if scratch then .core else .cst) i.block).noteErr scratch i.block o 1 (bits i.pos 20 10) (o / 16 % 4) false).transient
      { i with pos := bankPos (bankOf scratch o) (rowOf scratch o) (bits i.pos 20 10) } 0
  else if i.kind = 2 ∨ i.kind = 4 then
    match s.memBase scratch i.block with
    | some m => { s with poison := (m + o / 16 * 16) :: s.poison.filter (fun p => p != m + o / 16 * 16) }
    | none => s
  else if i.kind = 5 then
    { s with rcache := s.rcache.map (fun e => if e.1 / 32768 = i.block ∧ e.1 % 16 = i.pos ∧ e.1 / 16 % 2048 = n % 2048
        then (e.1, { e.2 with bad := true }) else e) }
  else if i.kind = 9 then
    let x := s.chan i.block i.pos
    let s := if x.desc.isSome ∧ x.error.isNone then s.setChan i.block i.pos { x with error := some stInternal } else s
    s.transient i (faultLimit 9)
  else if i.kind = 10 ∨ i.kind = 11 then s.rowError i (bitOf n 0)
  else s

/-- What strikes at this instant (log 50). -/
def State.upset (s : State) : State :=
  match Config.upset s.clock with
  | some (k, b, p, n) => s.softError { kind := k, block := b, pos := p } n
  | none => s

/-- The counters of R597 whose amounts hang on the clock, on the estimates of the firmware, or on how often an operand is read again:
cycles, energy, and the bytes read in each tier. They grow by free values, for every context that is enabled, and so do the idle share of
the energy, and the time that writers wait for a checkpoint that is ACTIVE (R492, R499; log 54). Bytes written, passed to the host and
sent on ports count where they move. -/
def State.useGrows (s : State) : State :=
  let grow (f : Fld) (c : Nat) (t : State) : State :=
    let (v, u) := t.free
    u.bump f (v % 2 ^ 32) c
  ((List.range 64).filter s.ctxOn).foldl (fun (t : State) c =>
    [CTX_ACC_CYCLES, CTX_ACC_ENERGY, CTX_ACC_HBM, CTX_ACC_LPD, CTX_ACC_NBR].foldl (fun (u : State) f => grow f c u) t)
    (grow DEV_ACC_IDLE_ENERGY 0 (if s.rd MMU_CKPT_STAT_STATE = 2 then grow MMU_PC_CKPT_STALL_NS 0 s else s))

/-- Once a millisecond each LPDDR controller reads the temperature of its package, a free value (R455, R458; DESIGN CHOICE, log 60: the period
is that of the HBM readout). -/
def State.readPackages (s : State) : State :=
  if s.clock % 16000000 ≠ 0 then s
  else (List.range 32).foldl (fun (t : State) k =>
    let (v, u) := t.free
    (u.wr LPD_TEMP_TEMP (v % 256) k).on LPD_TEMP_VALID k) s

/-- What the main dies do. -/
def State.mainTick (s : State) : State :=
  let s := s.upset.useGrows.settleSpoiled.classFaults.settle.settleLost.settleRefs
  let s := s.takeLeaseFailures.takeReadFailures.goOnCatch.startWaiting.restChans
  let s := (s.releaseFiltered.goOnLoading).wakeCores.pumpBars
  (testTick s.readPackages).summaryCheck

/-- One tick: 1 ns of the stroke clock (log 1). -/
def State.tick (s : State) : State :=
  let s : State := { s with clock := s.clock + 16 }
  let s := if s.railsUp then s.mainTick else s
  (s.commitEntry).runWaiting

/-- What a tick leaves: tables in order, and the queue as it was. -/
def idle (s : State) : State := s.commit s.tick

end Sys2Proof.Machine
end

