-- ==== Sys2Proof/Machine/Step.lean ====
section
/-!
DEFINITION. One step of the block: the command at the front of the queue, or, on an empty queue, one tick of the stroke
clock (Tick.lean).
-/
namespace Sys2Proof.Machine

/-- One step: the command at the front of the queue runs with the rest of the queue; on an empty queue the stroke clock
advances by one ns (log 1). -/
def step (s : State) : Host.Outcome State Fault Refusal :=
  match s.pending with
  | c :: rest => exec c { s with pending := rest }
  | [] => .next (idle s)

/-- The state with the command that a word spells in front of its queue: no row of the opcode table gives bits, so no word
spells a command and the state stays. -/
def State.withFetchWord (s : State) (_nbits _w : Nat) : State := s

end Sys2Proof.Machine
end

