-- ==== Sys2Proof/Safety.lean ====
section
/-!
DEFINITION. What a safe run is, in the terms claims use: a step that answers a next state, and the representation that
every reachable state keeps.
-/
namespace Sys2Proof.Machine

/-- An outcome is a next state. -/
def completes (o : Host.Outcome State Fault Refusal) : Bool :=
  match o with
  | .next _ => true
  | .fault _ => false
  | .refused _ => false

/-- Memory is in its canonical form, and register keys and token numbers rise strictly. -/
def State.ordered (s : State) : Bool := s.memWf && Tab.sorted s.regs && Tab.sorted s.tokens

/-- Memory and tokens read the same in two states. -/
def State.sameStore (s t : State) : Prop := (∀ a, t.rdByte a = s.rdByte a) ∧ (∀ k, t.tok k = s.tok k)

/-- Every register field reads the same in two states, but those with the keys listed. -/
def State.sameRegsBut (s t : State) (ks : List Nat) : Prop := ∀ (f : Fld) (i j : Nat), f.key i j ∉ ks → t.rd f i j = s.rd f i j

/-- The keys of the tables' controls, and of the firmware version that a swap of the tables changes (R217). -/
def swapKeys : List Nat := [RT_CTL_FRONT.key 0 0, RT_CTL_SEAL.key 0 0, RT_CTL_PENDING.key 0 0, SFU_CTL_FRONT.key 0 0, SFU_CTL_SEAL.key 0 0,
  SFU_CTL_PENDING.key 0 0, DEV_FW_VERSION.key 0 0]

/-- The bytes `d` stand at local address `a`, and every other byte reads as before. -/
def State.stored (s t : State) (a : Nat) (d : List Byte) : Prop :=
  ∀ x, t.rdByte x = if a ≤ x ∧ x < a + d.length then d.getD (x - a) 0 else s.rdByte x

/-- Every token reads the same in two states, but those listed. -/
def State.sameToksBut (s t : State) (ks : List Nat) : Prop := ∀ k, k ∉ ks → t.tok k = s.tok k

/-- The packets queued at a port. -/
def State.queued (s : State) (q : Nat) : List Packet := (s.port q).tx.map (fun e => e.2.2)

/-- A span lies outside the length table, whose contents another agent's write makes undefined (R266). -/
def State.offLengths (s : State) (a n : Nat) : Bool :=
  !(s.is ROS_LEN_BASE_ENABLE && overlaps (s.rd ROS_LEN_BASE_BASE * 0x80000) 0x80000 a n)

/-- The commands of the always-on domain, which runs in every power state (R33, R650): its own logbook, management, power, reset and
boundary-scan commands. -/
def alwaysOn : Instr → Bool
  | .logTransfer | .privateRead | .readStatus | .readLog _ | .readIdentity _ | .readPwr _ | .writePwr _ | .ackIbi _ | .echo _ | .readReg _
  | .writeReg _ | .readLedger _ | .warmReset _ | .spdmSend _ | .spdmRecv _ | .fwBegin _ | .fwData _ | .fwCommit _ | .ibiRepeat
  | .wakeReady | .wake
  | .padRelease _ | .selfRefreshExit _ _ | .pwrWarmReset _ | .perstAssert | .perstDeassert | .retCommitDone | .powerCheck _ | .trip _
  | .supplyLoss | .supplyReturn | .mateOpen | .standbyStop | .standbyStart _ | .ledgerWrite | .extest | .idcode | .samplePreload _ | .clamp
  | .highz | .bypass | .testLogicReset => true
  | _ => false

end Sys2Proof.Machine
end

