-- ==== Sys2Proof/Certificates/Slice0/Obligations.lean ====
section
/-!
DEFINITION. The statements about this model, for the provers.
-/
open Sys2Proof Sys2Proof.Machine

/-- R52, R66, R748. RUN in STOPPED, with the stroke unit enabled and the parameters in range: the unit is ARMED, the counters of R748
and STK_GO_FAULT are clear, and nothing else that software reads changes but the power state when the module was in EASY. CLEAR_RUN
in ARMED: the unit is STOPPED and every READY record is clear. ENTER_STOPPED, in the stroke that STOP named, with recovery work at a
boundary (R70): the unit is STOPPED. Both change no other register but those of a table swap that was pending. -/
def Obligations.StrokeUnitArmsAndStops : Prop :=
  (∀ s : State, s.railsUp = true → s.stkState = 0 → s.blk .stk = 1 → s.stkParamsOk = true → (∀ c, c < 16 → s.coxParamsOk c = true) →
    ∃ t, exec .run s = .next t ∧ t.stkState = 1 ∧ t.rd STK_STRETCH_TOTAL = 0 ∧ t.rd STK_STRETCH_COUNT = 0 ∧
      t.rd STK_STRAY_COUNT = 0 ∧ t.rd STK_LATE_MASK_MASK = 0 ∧ t.rd STK_GO_FAULT_VALID = 0 ∧ s.sameStore t ∧
      s.sameRegsBut t [STK_STAT_STATE.key 0 0, STK_STRETCH_TOTAL.key 0 0, STK_STRETCH_COUNT.key 0 0, STK_STRAY_COUNT.key 0 0,
        STK_LATE_MASK_MASK.key 0 0, STK_GO_FAULT_DEV.key 0 0, STK_GO_FAULT_CAUSE.key 0 0, STK_GO_FAULT_READY_COUNT.key 0 0,
        STK_GO_FAULT_VALID.key 0 0, PWR_STAT_STATE.key 0 0, LOG_DROPPED.key 0 0]) ∧
  (∀ s : State, s.railsUp = true → s.stkState = 1 →
    ∃ t, exec .clearRun s = .next t ∧ t.stkState = 0 ∧ (∀ w, w < 16 → t.rd STK_READY_MAP 0 w = 0) ∧ s.sameStore t ∧
      s.sameRegsBut t (STK_STAT_STATE.key 0 0 :: PWR_STAT_STATE.key 0 0 :: LOG_DROPPED.key 0 0 ::
        ((List.range 16).map (fun w => STK_READY_MAP.key 0 w) ++ swapKeys))) ∧
  (∀ s : State, s.railsUp = true → s.stkState = 2 → s.stk.ended = true → s.stk.stopping = some s.stroke →
    (∀ c, c < 16 → (s.cox c).late = false) → s.atBoundary = true →
    ∃ t, exec .enterStopped s = .next t ∧ t.stkState = 0 ∧ (∀ w, w < 16 → t.rd STK_READY_MAP 0 w = 0) ∧ s.sameStore t ∧
      s.sameRegsBut t (STK_STAT_STATE.key 0 0 :: ((List.range 16).map (fun w => STK_READY_MAP.key 0 w) ++ swapKeys)))

/-- R67, R69. GO on a starter in ARMED that has no catch scheduled, with READY from enough devices, each matching: the starter schedules
its own catch of STK_FIRST_STROKE STK_LEAD later. R59, R103: at its decision point, with every LATE matched, the starter schedules the
next stroke STK_LEAD after that instant; with one unmatched and room for a quantum, it waits one quantum more, and without room it holds
water. R60 to R62: a CATCH that a device expects is caught STK_LEAD after the instant the starter emitted it, by the elapsed time in the
message and the port's latency. -/
def Obligations.CatchIsScheduledByLead : Prop :=
  (∀ s : State, s.railsUp = true → s.stkState = 1 → s.starter = true → s.stk.due = none → s.rd STK_MEMBERS_COUNT ≤ s.stk.readys.length + 1 →
    (∀ r, r ∈ s.stk.readys → s.readyCause r.2 = 0) →
    ∃ t, exec .stkCmdGo s = .next t ∧ t.stk.due = some (s.clock + s.rd STK_LEAD_NS * 16, s.rd STK_FIRST_STROKE)) ∧
  (∀ s : State, s.railsUp = true → s.starter = true → s.stkState = 2 → s.stk.ended = true → s.stk.due = none →
    s.stk.stopping = none → s.stk.resumed = none →
    let at' := max s.clock (s.stk.catchAt + (s.rd STK_PERIOD_NS - s.rd STK_LEAD_NS + s.stk.k * s.rd STK_QUANTUM_NS) * 16)
    ∃ t, exec .decisionPoint s = .next t ∧
      (s.latesMatched = true → t.stk.due = some (at' + s.rd STK_LEAD_NS * 16, (s.stroke + 1) % 2 ^ 64)) ∧
      (s.latesMatched = false → (s.stk.k + 1) * s.rd STK_QUANTUM_NS ≤ s.stretchLimit → t.stk.due = none ∧ t.stk.k = s.stk.k + 1) ∧
      (s.latesMatched = false → s.stretchLimit < (s.stk.k + 1) * s.rd STK_QUANTUM_NS →
        t.stkState = 3 ∧ t.rd STK_STAT_HOLD_STATUS = 0x60)) ∧
  (∀ (s : State) (q a : Nat) (p : Packet), s.railsUp = true → s.strokeAt q 2 = some (a, p) →
    (s.stkState = 1 ∧ p.msg.num = s.rd STK_FIRST_STROKE ∨ s.stkState = 2 ∧ p.msg.num = (s.stroke + 1) % 2 ^ 64) →
    s.catchSeen p.msg.num = false → p.msg.tag = s.rd STK_SCHEDULE_ID % 2 ^ 32 → s.is STK_STAT_LATE = false →
    ∃ t, exec (.curtain q) s = .next t ∧
      t.stk.due = some (a + (s.rd STK_LEAD_NS * 16 - (p.msg.a + s.rd LNK_LATENCY_LAT q)), p.msg.num) ∧ t.stk.curtain = true)

/-- R58, R66, R102, R103, R745. What the starter learns of its regatta: READY lists the device with its schedule, firmware and
period; LATE lists the device and its stroke; DONE takes them off. -/
def Obligations.StarterRecordsMessages : Prop :=
  (∀ (s : State) (q a : Nat) (p : Packet), s.railsUp = true → s.starter = true → s.strokeAt q 1 = some (a, p) →
    ∃ t, exec (.ready q) s = .next t ∧ Tab.find t.stk.readys p.msg.dev = some (p.msg.num, p.msg.a, p.msg.b) ∧
      s.sameStore t ∧ s.sameRegsBut t [STK_READY_MAP.key 0 (p.msg.dev / 32)]) ∧
  (∀ (s : State) (q a : Nat) (p : Packet), s.railsUp = true → s.starter = true → s.strokeAt q 3 = some (a, p) →
    s.emittedAfter p.msg.num = false →
    ∃ t, exec (.late q) s = .next t ∧ t.stk.lates = s.stk.lates ++ [(p.msg.dev, p.msg.num)] ∧ s.sameStore t ∧ s.sameRegsBut t []) ∧
  (∀ (s : State) (q a : Nat) (p : Packet), s.railsUp = true → s.starter = true → s.strokeAt q 4 = some (a, p) →
    ∃ t, exec (.doneMsg q) s = .next t ∧ t.stk.lates = s.stk.lates.filter (fun l => l != (p.msg.dev, p.msg.num)))

/-- R58, R65, R70, R104, R106 to R109. Hold water from RUNNING: the unit is HOLDING and HOLD_STATUS shows the status.
HOLD_REQ does so at the starter, HOLD at every device that it reaches, and a CATCH that does not come with status
0x51. STOP in RUNNING names the stroke in which the run ends, at the starter its own and at a device the one of the message; a catch
scheduled for a later one does not take place. RESUME in HOLDING returns the unit to RUNNING. ABANDON in HOLDING returns it to STOPPED
with every stroke-scoped token 0. -/
def Obligations.HoldWaterAndTheEndOfARun : Prop :=
  (∀ (s : State) (q a : Nat) (p : Packet), s.railsUp = true → s.starter = true → s.stkState = 2 → s.strokeAt q 5 = some (a, p) →
    ∃ t, exec (.holdReq q) s = .next t ∧ t.stkState = 3 ∧ t.rd STK_STAT_HOLD_STATUS = p.msg.status % 256 ∧
      t.stroke = s.stroke ∧ t.stk.due = none) ∧
  (∀ (s : State) (q a : Nat) (p : Packet), s.railsUp = true → s.stkState = 2 → s.strokeAt q 6 = some (a, p) →
    ∃ t, exec (.hold q) s = .next t ∧ t.stkState = 3 ∧ t.rd STK_STAT_HOLD_STATUS = p.msg.status % 256 ∧
      t.stroke = s.stroke ∧ t.stk.due = none) ∧
  (∀ s : State, s.railsUp = true → s.stkState = 2 → s.stk.due = none → s.stk.stopping ≠ some s.stroke →
    ∃ t, exec .catchTimeout s = .next t ∧ t.stkState = 3 ∧ t.rd STK_STAT_HOLD_STATUS = 0x51 ∧
      t.stroke = s.stroke ∧ t.stk.due = none) ∧
  (∀ s : State, s.railsUp = true → s.starter = true → s.stkState = 2 →
    ∃ t, exec .stkCmdStop s = .next t ∧ t.stk.stopping = some s.stroke ∧
      t.stk.due = s.stk.due.filter (fun d => d.2 == s.stroke) ∧ s.sameStore t ∧ s.sameRegsBut t []) ∧
  (∀ (s : State) (q a : Nat) (p : Packet), s.railsUp = true → s.stkState = 2 → s.stk.stopping = none → s.strokeAt q 9 = some (a, p) →
    ∃ t, exec (.stop q) s = .next t ∧ t.stk.stopping = some p.msg.num ∧
      t.stk.due = s.stk.due.filter (fun d => d.2 == p.msg.num) ∧ s.sameStore t ∧ s.sameRegsBut t []) ∧
  (∀ s : State, s.railsUp = true → s.starter = true → s.stkState = 3 →
    ∃ t, exec .stkCmdResume s = .next t ∧ t.stkState = 2 ∧ t.stk.resumed = some s.clock) ∧
  (∀ (s : State) (q a : Nat) (p : Packet), s.railsUp = true → s.stkState = 3 → s.strokeAt q 7 = some (a, p) →
    ∃ t, exec (.resume q) s = .next t ∧ t.stkState = 2 ∧ t.stk.resumed = some s.clock) ∧
  (∀ s : State, s.railsUp = true → s.starter = true → s.stkState = 3 →
    ∃ t, exec .stkCmdAbandon s = .next t ∧ t.stkState = 0 ∧ ∀ k, tokScoped k = true → t.tok k = 0) ∧
  (∀ (s : State) (q a : Nat) (p : Packet), s.railsUp = true → s.stkState = 3 → s.strokeAt q 8 = some (a, p) →
    ∃ t, exec (.abandon q) s = .next t ∧ t.stkState = 0 ∧ ∀ k, tokScoped k = true → t.tok k = 0)

/-- R53, R55, R66, R71, R72, R100. The catch that is scheduled falls: STK_STROKE shows its number, the unit is RUNNING, every watch slot
is free, and each cox starts the sheet of the stroke, with no cue issued. At T + D the drive ends, in RUNNING and in HOLDING, whatever the state of the crews. A crew
that has not posted its done token is late then, and LATE shows it. -/
def Obligations.TheDriveRunsFromCatchToItsEnd : Prop :=
  (∀ (s : State) (at' num : Nat), s.railsUp = true → s.stk.due = some (at', num) → (s.stkState = 1 ∨ s.stkState = 2) →
     (∀ c, c < 16 → s.coxTakes c = true ∧ ∃ sh, (s.cox c).next = some sh ∧ sh.stroke = num) →
     ∃ t, exec .catchStroke s = .next t ∧ t.stkState = 2 ∧ t.stroke = num % 2 ^ STK_STROKE.w ∧ t.clock = max s.clock at' ∧
       t.stk.catchAt = at' ∧ t.stk.ended = false ∧ t.stk.due = none ∧ t.stk.curtain = false ∧ t.watches = [] ∧
       (∀ c, c < 16 → (t.cox c).cur = (s.cox c).next ∧ (t.cox c).next = none ∧ (t.cox c).issued = [] ∧ (t.cox c).done = [] ∧
         (t.cox c).ended = false)) ∧
  (∀ s : State, s.railsUp = true → (s.stkState = 2 ∨ s.stkState = 3) → s.stk.ended = false →
     ∃ t, exec .endOfDrive s = .next t ∧ t.stk.ended = true ∧ t.stk.catchAt = s.stk.catchAt ∧
       t.clock = max s.clock (s.stk.catchAt + s.rd STK_DRIVE_NS * 16) ∧
       (∀ c, c < 16 → (t.cox c).ended = (s.cox c).ended ∧ ((s.cox c).ended = false → (t.cox c).late = true ∧ t.is STK_STAT_LATE = true)))

/-- R126, R131, R139. A tensor command that a seat has fetched and whose checks pass starts: the seat runs it from its first step as a
run of its own, CORE_STEPS_LEFT shows its steps, and a seat that waited for a state block to move (R371) shows that it runs. Memory, tokens and every other register stay, but for the entries of the roster that its slots name, which are
touched (R307, R350) and, for streams, held (R369). -/
def Obligations.TensorCommandsStartTheirSteps : Prop :=
  ∀ (s : State) (c : Instr) (i op : Nat) (b : Block) (raw : List Byte) (d : Except Decoded Run) (r : Run),
    s.railsUp = true → s.decodes i op = true → (s.core i).block = some b → b.kind ≠ 2 → s.self = none → (s.core i).next = some raw →
    s.watches = [] → d = .ok r →
    ((c = .copy i ∧ op = 0x01 ∧ d = s.decodeSeatCopy i b raw 0 ∨ c = .transposeCopy i ∧ op = 0x02 ∧ d = s.decodeSeatCopy i b raw 1 ∨
      c = .gemm i ∧ op = 0x10 ∧ d = s.decodeGemm i b raw ∨ c = .gemmList i ∧ op = 0x11 ∧ d = s.decodeGemmList i b raw ∨
      c = .conv2d i ∧ op = 0x12 ∧ d = s.decodeConv i b raw false ∨ c = .conv3d i ∧ op = 0x13 ∧ d = s.decodeConv i b raw true ∨
      c = .epilogue i ∧ op = 0x20 ∧ d = s.decodeEpilogue i b raw ∨ c = .norm i ∧ op = 0x21 ∧ d = s.decodeNorm i b raw ∨
      c = .softmax i ∧ op = 0x22 ∧ d = s.decodeSoftmax i b raw ∨ c = .sfu i ∧ op = 0x23 ∧ d = s.decodeSfu i b raw ∨
      c = .cropResize i ∧ op = 0x28 ∧ d = s.decodeCrop i b raw ∨ c = .spaceToChannel i ∧ op = 0x29 ∧ d = s.decodeRegroup i b raw true ∨
      c = .channelToSpace i ∧ op = 0x2A ∧ d = s.decodeRegroup i b raw false ∨ c = .sample i ∧ op = 0x38 ∧ d = s.decodeSample i b raw ∨
      c = .amaxUpdate i ∧ op = 0x48 ∧ d = s.decodeAmax i b raw) →
      ∃ t, exec c s = .next t ∧ (t.core i).run = some { r with num := s.nextRun } ∧ (t.core i).block = some b ∧ t.nextRun = s.nextRun + 1 ∧
        t.rd CORE_STEPS_LEFT i = r.steps % 2 ^ CORE_STEPS_LEFT.w ∧
        t.rd CORE_STATE_STATE i = (if s.rd CORE_STATE_STATE i = 3 then 1 else s.rd CORE_STATE_STATE i) ∧
        (∀ j, j ≠ i → t.core j = s.core j) ∧ s.sameStore t ∧ s.sameRegsBut t [CORE_STEPS_LEFT.key i 0, CORE_STATE_STATE.key i 0]) ∧
    ((c = .attn i ∧ op = 0x18 ∧ d = s.decodeAttn i b raw false ∨
      c = .attnVerify i ∧ op = 0x19 ∧ s.verifyMode i = false ∧ d = s.decodeAttn i b raw true ∨
      c = .acceptMode i ∧ op = 0x19 ∧ s.verifyMode i = true ∧ d = s.decodeAccept i b raw ∨
      c = .scan i ∧ op = 0x30 ∧ d = s.decodeScan i b raw ∨ c = .stateStep i ∧ op = 0x31 ∧ d = s.decodeState i b raw) →
      ∃ t, exec c s = .next t ∧ (t.core i).run = some { r with num := s.nextRun } ∧ (t.core i).block = some b ∧ t.nextRun = s.nextRun + 1 ∧
        t.rd CORE_STEPS_LEFT i = r.steps % 2 ^ CORE_STEPS_LEFT.w ∧
        t.rd CORE_STATE_STATE i = (if s.rd CORE_STATE_STATE i = 3 then 1 else s.rd CORE_STATE_STATE i) ∧
        (∀ j, j ≠ i → t.core j = s.core j) ∧ s.sameToksBut t [] ∧ s.sameRegsBut t [CORE_STEPS_LEFT.key i 0, CORE_STATE_STATE.key i 0] ∧
        (∀ a, (∀ x, x ∈ r.slots → a < rosterAddr x.id ∨ rosterAddr x.id + 64 ≤ a) → t.rdByte a = s.rdByte a))

/-- R135 to R137, R174, R555, R557. SIGNAL adds its increment to its token and ends. WAIT ends at once where its token satisfies the threshold, and
holds its seat otherwise, until WAIT_SATISFIED ends it. A command that has ended leaves the next one of its block to the seat. An ATOMIC command whose operation goes to another device queues its packet there, and its seat waits for the
answer. -/
def Obligations.SeatsSignalWaitAndAskOtherDevices : Prop :=
  (∀ (s : State) (i : Nat) (b : Block) (raw : List Byte), s.railsUp = true → (s.core i).block = some b → (s.core i).next = some raw →
     (∀ k : Nat, s.decodes i 0x50 = true → onlyFields raw signalFields = true → selOk (fieldLE raw 64 2) = true → fieldLE raw 66 2 ≠ 0 →
       (bitOf (fieldLE raw 64 2) 15 && bits (fieldLE raw 64 2) 0 14 == 0) = false →
       selToken (i / 9) (fieldLE raw 64 2) = some k →
       ∃ u : State, exec (.signal i) s = .next (s.commit (u.fetchNext i)) ∧ u.tok k = s.tok k + BitVec.ofNat 32 (fieldLE raw 66 2) ∧
         s.sameToksBut u [k] ∧ (u.core i).block = some { b with pos := b.pos + 1 } ∧ (u.core i).next = none ∧ (u.core i).run = none ∧
         u.rd CORE_STEPS_LEFT i = 0) ∧
     (∀ k : Nat, s.decodes i 0x51 = true → (s.core i).wait = none → onlyFields raw waitFields = true → selOk (fieldLE raw 64 2) = true →
       selToken (i / 9) (fieldLE raw 64 2) = some k →
       (satisfied (s.tok k) (BitVec.ofNat 32 (fieldLE raw 68 4)) = true →
         ∃ u : State, exec (.wait i) s = .next (s.commit (u.fetchNext i)) ∧ (u.core i).block = some { b with pos := b.pos + 1 } ∧
           (u.core i).next = none ∧ s.sameStore u ∧ s.sameRegsBut u [CORE_STEPS_LEFT.key i 0]) ∧
       (satisfied (s.tok k) (BitVec.ofNat 32 (fieldLE raw 68 4)) = false →
         ∃ t, exec (.wait i) s = .next t ∧ (t.core i).wait = some (k, fieldLE raw 68 4) ∧ t.rd CORE_STATE_STATE i = 2 ∧ s.sameStore t ∧
           s.sameRegsBut t [CORE_STATE_STATE.key i 0])) ∧
     (∀ k v : Nat, s.decodes i 0x51 = true → (s.core i).wait = some (k, v) → satisfied (s.tok k) (BitVec.ofNat 32 v) = true →
       ∃ u : State, exec (.waitSatisfied i) s = .next (s.commit (u.fetchNext i)) ∧ (u.core i).block = some { b with pos := b.pos + 1 } ∧
         (u.core i).wait = none ∧ s.sameStore u ∧ s.sameRegsBut u [CORE_STATE_STATE.key i 0, CORE_STEPS_LEFT.key i 0])) ∧
  (∀ (s : State) (i r n : Nat) (b : Block) (raw d : List Byte) (pl : RemPlan) (p : RemPart) (x : Packet), s.railsUp = true →
     s.decodes i 0x52 = true → (s.core i).block = some b → b.kind ≠ 2 → s.self = none → (s.core i).next = some raw →
     onlyFields raw atomicFields = true → fieldLE raw 72 8 % 64 = 0 → s.readV (.core i) b.ctx (fieldLE raw 72 8) 64 = .ok d → rOp d = 3 →
     s.remotePlan (.core i) b.ctx d = .ok pl → pl.parts = [p] → s.isHere p = false →
     x = { zeroPacket with
           type := ptAtomic, vc := 2, ctx := b.ctx, sched := b.sched, dst := gpaDev p.gpa, addr := gpaLocal p.gpa, aop := rAop d,
           wide := rWide d, operand := rOperand d, compare := rCompare d } →
     s.portFor x.dst x = some r → s.blk .lnk r ≠ 2 → (s.port r).freeSlot = some n →
     ∃ t, exec (.atomic i) s = .next t ∧ (t.core i).run = some (emptyRun raw) ∧ (t.core i).out = (s.core i).out + 1 ∧
       t.queued r = s.queued r ++ [{ x with slot := n, port := r, gen := Tab.look (s.port r).gens n 0, src := s.dev, cls := s.classFor x.dst x }] ∧
       (Tab.find (t.port r).slots n).isSome = true ∧ s.sameStore t ∧ s.sameRegsBut t [LNK_SLOTS_USED_COUNT.key r 0])

/-- R284, R331. Copy-on-write. A page that only one entry references is made its own where it stands; a page that others share is copied to the
page of the copy list, with its scale slot, in the pool's context, and the entry's page list names the copy. Either way the step that aborted restarts. -/
def Obligations.SharedPagesAreCopiedOnWrite : Prop :=
  ∀ (s : State) (i e l k refs : Nat) (b : Block) (h w c : List Byte), s.railsUp = true → i < 144 → (s.core i).cow = some (e, l, k) →
    (s.core i).stalled = false → (s.core i).block = some b → s.readV (.core i) (s.entry e).ctx (s.entry e).dir 64 = .ok h →
    let x := s.entry e
    let d := parseDir x.ctx x.dir h
    s.readV (.core i) x.ctx (d.list l + 16 * k) 16 = .ok w → s.readV (.core i) x.ctx (d.copyList + 4 * l) 4 = .ok c →
    bitOf (fieldLE w 0 1) 1 = true → s.refsOf x.pool (s.pageIndex x.pool (entryPage (fieldLE w 0 8))) = .ok refs →
    (∀ u : State, refs = 1 → s.rosWrite x.ctx [{ va := d.list l + 16 * k, data := leBytes (fieldLE w 0 8 - 2) 8 }] = .ok u →
      ∃ t, exec (.cowCopy i) s = .next t ∧ (t.core i).cow = none ∧ u.sameStore t ∧ t.rosDrops = u.rosDrops ∧
        t.rd ROS_PC_COW_AVOIDED = (u.rd ROS_PC_COW_AVOIDED + 1) % 2 ^ ROS_PC_COW_AVOIDED.w) ∧
    (∀ (page scale : List Byte) (u : State), refs ≠ 1 → leNat c ≠ noPage →
      s.readV (.core i) (s.poolCtx x.pool) (s.poolPage x.pool (s.pageIndex x.pool (entryPage (fieldLE w 0 8)))) 65536 = .ok page →
      (if fmtMx d.fmt = true then
          s.readV (.core i) (s.poolCtx x.pool) (s.poolScale x.pool (s.pageIndex x.pool (entryPage (fieldLE w 0 8)))) 4096 = .ok scale else scale = []) →
      s.rosWrite2 (s.poolCtx x.pool)
        ([{ va := s.poolPage x.pool (leNat c), data := page }] ++
          (if scale.isEmpty = true then [] else [{ va := s.poolScale x.pool (leNat c), data := scale }])) x.ctx
        [{ va := d.list l + 16 * k, data := s.listBytes d x.pool (leNat c) }, { va := d.copyList + 4 * l, data := leBytes noPage 4 }] = .ok u →
      ∃ t, exec (.cowCopy i) s = .next t ∧ (t.core i).cow = none ∧
        t.rosDrops = u.rosDrops ++ [{ entry := e, layer := l, pool := x.pool, page := s.pageIndex x.pool (entryPage (fieldLE w 0 8)) }] ∧
        (∀ a, a < rosterAddr e ∨ rosterAddr e + 64 ≤ a → t.rdByte a = u.rdByte a) ∧
        t.rd ROS_PC_COW_COPIES = (u.rd ROS_PC_COW_COPIES + 1) % 2 ^ ROS_PC_COW_COPIES.w)

/-- R138 to R140, R526. A step of a COPY command that arms no watch slot and is not the command's last writes the bytes of its piece at the
destination, as the page's write operation says (R384), every other byte stays, and CORE_STEPS_LEFT counts down. -/
def Obligations.AStepCopiesItsPiece : Prop :=
  ∀ (s : State) (i row off n : Nat) (b : Block) (r : Run) (data : List Byte) (x : Xlat), s.railsUp = true → s.hasStep i = true →
    (s.core i).block = some b → b.kind ≠ 2 → s.self = none → (s.core i).run = some r → s.regWrites = [] →
    let d := seatDesc r.raw r.m r.n
    let va := rowVa (dDst d) (dDstStride d) row + off
    fieldLE r.raw 0 1 = 0x01 → dKind d = 0 → dMcast d = false → dWatch d = false → (seatPieces d)[r.step]? = some (row, off, n) →
    r.step + 1 < r.steps → 
    (s.uncached b.ctx [(rowVa (dSrc d) (dSrcStride d) row + off, n)]).readV (.core i) b.ctx (rowVa (dSrc d) (dSrcStride d) row + off) n = .ok data →
    s.checkWrites b.ctx [{ va := va, data := data }] = .ok () → spanPages va data.length = [(va, data.length)] →
    s.translate b.ctx va .write = .ok x → gpaDev x.gpa = s.dev →
    (regionOf (gpaLocal x.gpa)).1 = .hbm ∨ (regionOf (gpaLocal x.gpa)).1 = .lpd → s.offLengths (gpaLocal x.gpa) data.length = true →
    let old := s.rdMem (gpaLocal x.gpa) data.length
    ∃ t, exec (.step i true) s = .next t ∧
      s.stored t (gpaLocal x.gpa) (if x.wop = 1 then List.zipWith (fun p q => p ||| q) old data
        else if x.wop = 2 then List.zipWith (fun p q => p &&& ~~~q) old data else data) ∧ s.sameToksBut t [] ∧
      (t.core i).run = some { r with step := r.step + 1 } ∧ (t.core i).block = some b ∧
      t.rd CORE_STEPS_LEFT i = (r.steps - (r.step + 1)) % 2 ^ CORE_STEPS_LEFT.w ∧
      s.sameRegsBut t [CORE_STEPS_LEFT.key i 0, CORE_PC_STEPS.key i 0, CDM_PC_BYTES_READ.key (i / 9) 0, CDM_PC_BYTES_WRITTEN.key (i / 9) 0,
        CTX_ACC_HBM.key b.ctx 0, CTX_ACC_LPD.key b.ctx 0]

/-- R71 to R73, R79, R113. SHEET_FETCH of a sheet that can be read and breaks no rule: the cox holds the sheet of the stroke that R72
names, with the cues that its bytes spell, for the stroke under way or for the next catch. -/
def Obligations.SheetFetchTakesAWellFormedSheet : Prop :=
  ∀ (s : State) (c n : Nat) (h body : List Byte), s.railsUp = true → c < 16 → s.blk .cox c = 1 → s.fetchTarget c = some n →
    s.readV (.cox c) 0 (s.sheetAddr c n) 64 = .ok h → fieldLE h 0 2 = 8 → s.ctxOn (fieldBits h 4 0 6) = true →
    fieldLE h 8 8 = s.rd STK_SCHEDULE_ID → fieldLE h 2 2 ≠ 0 → s.slots = [] → s.slotless = [] →
    s.readV (.cox c) 0 (s.sheetAddr c n + 64) (fieldLE h 2 2 * 64) = .ok body → badCue (parseCues (fieldLE h 2 2) body) = none →
    ∃ t sh, exec (.sheetFetch c) s = .next t ∧ sh.stroke = n ∧ sh.ctx = fieldBits h 4 0 6 ∧ sh.cues = parseCues (fieldLE h 2 2) body ∧
      (s.stkState = 2 → n = s.stroke → (t.cox c).cur = some sh) ∧
      (s.stkState ≠ 2 ∨ n ≠ s.stroke → (t.cox c).next = some sh ∧ (t.cox c).cur = (s.cox c).cur) ∧
      (∀ d, d ≠ c → t.cox d = s.cox d) ∧ s.sameStore t ∧ s.sameRegsBut t [STK_STAT_NONDET_SEEN.key 0 0]

/-- R76, R77, R81, R82, R511. The lowest ready cue of a crew issues: a DMA cue hands its descriptors to its channel, which shows
active; a LAUNCH marks the cue issued and leaves every other cue of the crew. -/
def Obligations.CueIssueStartsItsAction : Prop :=
  (∀ (s : State) (c : Nat) (sh : Sheet) (q : Cue) (idx : Nat), s.railsUp = true → c < 16 → s.readyCue c = some (sh, q, idx) → q.kind = 2 →
    s.ctxRefuses sh.ctx = none → s.recordStop sh.ctx q = none → s.is CDM_CH_CTL_MODE c q.channel = false →
    s.rd CDM_CH_STAT_STATE c q.channel ≤ 3 → s.blk .cdm c = 1 →
    ∃ t, exec (.dmaCue c) s = .next t ∧ idx ∈ (t.cox c).issued ∧ (t.chan c q.channel).cue = some idx ∧ (t.chan c q.channel).ctx = sh.ctx ∧
      (t.chan c q.channel).addr = q.ptr ∧ (t.chan c q.channel).count = bits q.arg 16 16 ∧ (t.chan c q.channel).pos = 0 ∧
      t.rd CDM_CH_STAT_STATE c q.channel = 1 ∧ s.sameStore t ∧ s.sameRegsBut t [CDM_CH_STAT_STATE.key c q.channel]) ∧
  (∀ (s : State) (c : Nat) (sh : Sheet) (q : Cue) (idx : Nat), s.railsUp = true → c < 16 → s.readyCue c = some (sh, q, idx) → q.kind = 1 →
    q.batch = false → s.ctxRefuses sh.ctx = none → s.recordStop sh.ctx q = none →
    ∃ t, exec (.launch c) s = .next t ∧ (t.cox c).issued = idx :: (s.cox c).issued ∧ (t.cox c).done = (s.cox c).done ∧ t.stk = s.stk) ∧
  (∀ (s : State) (c : Nat) (sh : Sheet) (q : Cue) (idx : Nat) (cs : List Contribution), s.railsUp = true → c < 16 →
    s.readyCue c = some (sh, q, idx) → q.kind = 1 → q.batch = true → s.ctxRefuses sh.ctx = none → s.recordStop sh.ctx q = none →
    s.contribs c sh.ctx q.ptr q.arg = .ok cs →
    ∃ t, exec (.launch c) s = .next t ∧ (t.cox c).issued = idx :: (s.cox c).issued ∧
      (t.cox c).batch = ((s.cox c).takeAll idx q.seatMask cs).batch)

/-- Parts of R76, R84, R86, R89, R90, R157. CUE_COMPLETE of a cue of which nothing runs, while no register write waits and no record of
the cue stands in the way: the cue is among the completed ones, the issued cues and the stroke unit's state stay, and where the cue has no
status record, does not hold on an error, and its two post selectors do not name one token, its increments are added to the tokens they
name. NOP, the ready cue of a crew, without a status record and with posts to two tokens at most: it is issued and completed, and its
increments are added. END, the ready cue of a crew, without a status record and with posts to other tokens than the crew's done token: the
crew has ended and is not late, and its done token has grown by 1. BATCH_FLUSH of a crew that may issue and has an open class: the issued
cues stay, and no class is open where no contribution waits for one. -/
def Obligations.CueCompletesAndPosts : Prop :=
  (∀ (s : State) (c idx : Nat) (sh : Sheet) (q : Cue) (r : CueRun), s.railsUp = true → c < 16 → (s.cox c).cur = some sh →
    Tab.find (s.cox c).running idx = some r → sh.cues[idx]? = some q → r.left = 0 → s.regWrites = [] → s.recordStop sh.ctx q = none →
    ∃ t, exec (.cueComplete c idx) s = .next t ∧ idx ∈ (t.cox c).done ∧ (t.cox c).issued = (s.cox c).issued ∧ t.stk = s.stk ∧
      (q.statusPtr = 0 → q.holdOnErr = false → (∀ k, selToken c q.postA = some k → selToken c q.postB ≠ some k) →
        (∀ k, selToken c q.postA = some k → t.tok k = s.tok k + BitVec.ofNat 32 q.incA) ∧
        (∀ k, selToken c q.postB = some k → t.tok k = s.tok k + BitVec.ofNat 32 q.incB))) ∧
  (∀ (s : State) (c idx : Nat) (sh : Sheet) (q : Cue), s.railsUp = true → c < 16 → s.readyCue c = some (sh, q, idx) → q.kind = 0 →
    s.ctxRefuses sh.ctx = none → sh.cues[idx]? = some q → q.statusPtr = 0 →
    (∀ k, selToken c q.postA = some k → selToken c q.postB ≠ some k) →
    ∃ t, exec (.nop c) s = .next t ∧ idx ∈ (t.cox c).issued ∧ idx ∈ (t.cox c).done ∧
      (∀ k, selToken c q.postA = some k → t.tok k = s.tok k + BitVec.ofNat 32 q.incA) ∧
      (∀ k, selToken c q.postB = some k → t.tok k = s.tok k + BitVec.ofNat 32 q.incB)) ∧
  (∀ (s : State) (c idx : Nat) (sh : Sheet) (q : Cue), s.railsUp = true → c < 16 → s.readyCue c = some (sh, q, idx) → q.kind = 15 →
    sh.cues[idx]? = some q → q.statusPtr = 0 → selToken c q.postA ≠ some (tokCrew c 0) → selToken c q.postB ≠ some (tokCrew c 0) →
    ∃ t, exec (.endCue c) s = .next t ∧ (t.cox c).ended = true ∧ (t.cox c).late = false ∧ t.tok (tokCrew c 0) = s.tok (tokCrew c 0) + 1) ∧
  (∀ (s : State) (c : Nat), s.railsUp = true → c < 16 → s.coxOn c = true → (s.cox c).batch ≠ [] →
    ∃ t, exec (.batchFlush c) s = .next t ∧ ((s.cox c).backlog = [] → (t.cox c).batch = []) ∧
      (t.cox c).issued = (s.cox c).issued)

/-- R305, R313 to R316, R344. A ROSTER cue whose command keeps its rules records its request for the next catch and counts it: ADMIT
one, FORK one for each child, with its child records, RELEASE one, and its entry moves to leaving at once. Memory but that entry, tokens and
every other register stay. The last catch's processing has ended (log 24). -/
def Obligations.RosterCuesRecordTheirRequests : Prop :=
  ∀ (s : State) (c idx : Nat) (sh : Sheet) (q : Cue) (raw : List Byte), s.railsUp = true → c < 16 → s.readyCue c = some (sh, q, idx) →
    q.kind = 4 → s.ctxRefuses sh.ctx = none → s.recordStop sh.ctx q = none → s.blk .ros = 1 → s.rosWait = none → s.readV (.cox c) sh.ctx q.ptr 128 = .ok raw →
    (fieldLE raw 0 1 = 0x41 → s.admitOk sh.ctx raw = true → s.rd ROS_REQ_COUNT + 1 ≤ 4096 →
      ∃ t, exec (.admission c) s = .next t ∧ t.rosReqs = s.rosReqs ++ [{ ctx := sh.ctx, raw := raw, kids := [] }] ∧
        t.rd ROS_REQ_COUNT = s.rd ROS_REQ_COUNT + 1 ∧ (t.cox c).issued = idx :: (s.cox c).issued ∧ s.sameStore t ∧
        s.sameRegsBut t [ROS_REQ_COUNT.key 0 0]) ∧
    (∀ b : List Byte, fieldLE raw 0 1 = 0x40 → forkOk raw = true → s.forkAborted = [] →
      s.readV .roster sh.ctx (fieldLE raw 72 8) (16 * fieldLE raw 66 1) = .ok b → kidsOk (fieldLE raw 66 1) b = true →
      s.rd ROS_REQ_COUNT + fieldLE raw 66 1 ≤ 4096 →
      ∃ t, exec (.fork c) s = .next t ∧ t.rosReqs = s.rosReqs ++ [{ ctx := sh.ctx, raw := raw, kids := forkKids (fieldLE raw 66 1) b }] ∧
        t.rd ROS_REQ_COUNT = s.rd ROS_REQ_COUNT + fieldLE raw 66 1 ∧ (t.cox c).issued = idx :: (s.cox c).issued ∧ s.sameStore t ∧
        s.sameRegsBut t [ROS_REQ_COUNT.key 0 0]) ∧
    (fieldLE raw 0 1 = 0x42 → releaseOk raw = true → s.rd ROS_REQ_COUNT + 1 ≤ 4096 →
      (s.entry (fieldBits raw 64 0 14)).state ≠ 0 → (s.entry (fieldBits raw 64 0 14)).state ≠ 4 →
      ∃ t, exec (.release c) s = .next t ∧ t.rosReqs = s.rosReqs ++ [{ ctx := sh.ctx, raw := raw, kids := [] }] ∧
        t.rd ROS_REQ_COUNT = s.rd ROS_REQ_COUNT + 1 ∧ (t.cox c).issued = idx :: (s.cox c).issued ∧
        s.stored t (rosterAddr (fieldBits raw 64 0 14)) ({ s.entry (fieldBits raw 64 0 14) with state := 4 }).bytes ∧
        t.rosPrev = Tab.put s.rosPrev (fieldBits raw 64 0 14) (s.entry (fieldBits raw 64 0 14)).state ∧ s.sameToksBut t [] ∧
        s.sameRegsBut t [ROS_REQ_COUNT.key 0 0])

/-- Parts of R308, R339, R340, R341. POOL_ENABLE, with the stroke unit STOPPED, of a pool that is disabled, with RESTORE clear and a
reference array and free stack that can be written: the pool is enabled, not FAULTED, and its FREE is its SIZE; where the tier manager has
no objects, memory is as the zeros of the reference array and the indices SIZE - 1 down to 0 of the free stack leave it. POOL_ENABLE, with
the unit STOPPED, of an enabled pool whose objects all have its hint: FAULTED is clear, and memory, tokens and every other register stay.
POOL_ENABLE outside STOPPED: CFG_ERR of the roster's page is set, and memory, tokens and every register but that one and the page's
interrupt status stay. ROS_POOL_ADD for a pool without a recorded addition, with a catch in ROS_POOL_ADD_AT that is still to come: its
count and that stroke are recorded, and memory, tokens and registers stay. -/
def Obligations.CachePoolsAreEnabledAndGrow : Prop :=
  (∀ (s u : State) (p : Nat), s.railsUp = true → p < 16 → s.stkState = 0 → s.is ROS_POOL_CTL_ENABLE 0 p = false →
    s.is ROS_POOL_CTL_RESTORE 0 p = false →
    (({ s with wildPools := s.wildPools.filter (· != p) } : State).off ROS_POOL_CTL_FAULTED 0 p).rosWrite (s.poolCtx p)
      [{ va := s.refAddr p 0, data := leBytes 0 (2 * s.poolSize p) },
       { va := s.stackAddr p 0, data := (List.range (s.poolSize p)).flatMap (fun k => leBytes (s.poolSize p - 1 - k) 4) }] = .ok u →
    ∃ t, exec (.poolEnable p) s = .next t ∧ t.is ROS_POOL_CTL_ENABLE 0 p = true ∧ t.is ROS_POOL_CTL_FAULTED 0 p = false ∧
      t.poolFreeCount p = s.poolSize p % 2 ^ ROS_POOL_FREE_FREE.w ∧ (s.objs = [] → u.sameStore t)) ∧
  (∀ (s : State) (p : Nat), s.railsUp = true → p < 16 → s.stkState = 0 → s.is ROS_POOL_CTL_ENABLE 0 p = true → s.offHint p = [] →
    ∃ t, exec (.poolEnable p) s = .next t ∧ t.is ROS_POOL_CTL_FAULTED 0 p = false ∧ s.sameStore t ∧
      s.sameRegsBut t [ROS_POOL_CTL_FAULTED.key 0 p]) ∧
  (∀ (s : State) (p : Nat), s.railsUp = true → p < 16 → s.stkState ≠ 0 →
    ∃ t, exec (.poolEnable p) s = .next t ∧ t.is (BLK_STAT_CFG_ERR .ros) = true ∧ s.sameStore t ∧
      s.sameRegsBut t [(BLK_STAT_CFG_ERR .ros).key 0 0, (BLK_INT_STAT .ros).key 0 0]) ∧
  (∀ (s : State) (p n : Nat), s.railsUp = true → p < 16 → Tab.find s.rosAdds p = none →
    s.catchPassed (s.rd ROS_POOL_ADD_AT 0 p) = false →
    ∃ t, exec (.rosPoolAdd p n) s = .next t ∧
      t.rosAdds = Tab.put s.rosAdds p { count := n % 2 ^ 24, due := s.rd ROS_POOL_ADD_AT 0 p, late := false } ∧ s.sameStore t ∧
      s.sameRegsBut t [])

/-- R505 to R507, R509, R514, R516. A DMA channel that may go takes its next descriptor, or goes on with the one it has, and moves its bytes:
COPY the row of the source, TRANSPOSE the elements of its column, FILL the pattern. Stated for a descriptor of one destination row
on this device: the row's bytes stand at its destination, as the page's write operation says (R384), every other byte stays, and the descriptor waits for its completion with
status 0x01. -/
def Obligations.DescriptorsMoveTheirBytes : Prop :=
  ∀ (s : State) (i : Instr) (e ch k va n : Nat) (raw data : List Byte) (src : List (List Byte)) (x : Xlat), s.rd PWR_STAT_STATE = 0 →
    (i = .dmaCopy e ch ∧ k = 0 ∨ i = .dmaTranspose e ch ∧ k = 1 ∨ i = .dmaFill e ch ∧ k = 2) →
    s.chanGoes e ch = true → s.chanDesc e ch = some (.ok raw) → s.owned e ch raw = true → dKind raw = k → (s.chan e ch).error = none →
    (∀ d, (s.chan e ch).desc = some d → d.part = 0) → descOk raw (e == 16) = true → dMcast raw = false → dWatch raw = false → dTotal raw ≠ 0 → s.watches = [] → s.objs = [] →
    let u := s.takeDesc e ch raw
    let ctx := (u.chan e ch).ctx
    u.prepare e ctx raw = .ok () → u.readRows (.chan e ch) ctx (srcRows raw) = .ok src → dstRows raw = [(va, n)] → moveRows raw src = [data] →
    data.length = n → u.noteReads ctx (srcRows raw) = u → spanPages va n = [(va, n)] → u.translate ctx va .write = .ok x →
    gpaDev x.gpa = s.dev → (regionOf (gpaLocal x.gpa)).1 = .hbm ∨ (regionOf (gpaLocal x.gpa)).1 = .lpd → s.offLengths (gpaLocal x.gpa) n = true →
    let old := s.rdMem (gpaLocal x.gpa) n
    ∃ t d, exec i s = .next t ∧
      s.stored t (gpaLocal x.gpa) (if x.wop = 1 then List.zipWith (fun p q => p ||| q) old data
        else if x.wop = 2 then List.zipWith (fun p q => p &&& ~~~q) old data else data) ∧ s.sameToksBut t [] ∧ (t.chan e ch).desc = some d ∧ d.raw =
        (((u.chan e ch).desc.map (fun d => d.raw)).getD []) ∧ d.moved = true ∧ d.status = stSuccess ∧ d.cause = 0 ∧ d.flags = 0 ∧ d.done = dTotal raw ∧
      ((s.chan e ch).desc = none → d.raw = raw ∧ d.addr = s.chanNext e ch ∧
        t.dmaRd e ch CDM_CH_STAT_DESC_ID HDM_CH_STAT_DESC_ID = fieldLE raw 4 2 % 2 ^ CDM_CH_STAT_DESC_ID.w)

/-- R511, R514, R515, R517, R527. The completion of the last descriptor of a cue's list adds its increment to its token where it names one, shows
its status and frees the channel, and the cue learns that the list has ended. -/
def Obligations.DescriptorsCompleteWithTheirList : Prop :=
  ∀ (s u : State) (e ch idx : Nat) (d : DescRun) (w : CueRun), s.railsUp = true → e < 16 → ch < 8 → s.ringMode e ch = false → s.chState e ch ≤ 3 →
    (s.chan e ch).desc = some d → d.moved = true → d.sent = false → d.stage = 0 → s.regWrites = [] → s.rd CTX_STAT_STATE (s.chan e ch).ctx ≠ 2 →
    s.readBackNeeds (.chan e ch) (s.chan e ch).ctx d.raw = none → d.status = stSuccess → d.flags = 0 → (s.chan e ch).error = none →
    (s.chan e ch).out = 0 → (s.chan e ch).paused = false → dMsi d.raw = false → s.readBackBad (s.chan e ch).ctx d.raw = false →
    (s.chan e ch).cue = some idx → (s.chan e ch).count ≤ (s.chan e ch).pos → (s.chan e ch).fail = none → Tab.find (s.cox e).running idx = some w →
    (fieldLE d.raw 40 8 = 0 ∧ u = s ∨
      fieldLE d.raw 40 8 ≠ 0 ∧ s.signalAt (.chan e ch) (s.chan e ch).ctx (fieldLE d.raw 40 8) (fieldLE d.raw 48 2) true = .made u) →
    ∃ t v, exec (.descriptorComplete e ch) s = .next t ∧ (t.chan e ch).desc = none ∧ (t.chan e ch).cue = none ∧ t.chState e ch = 0 ∧
      t.rd CDM_CH_STAT_STATUS e ch = stSuccess ∧ t.rd CDM_PC_DESCRIPTORS e = (s.rd CDM_PC_DESCRIPTORS e + 1) % 2 ^ CDM_PC_DESCRIPTORS.w ∧
      Tab.find (t.cox e).running idx = some v ∧ v.left = w.left - 1 ∧ u.sameStore t ∧
      u.sameRegsBut t [CDM_CH_STAT_STATUS.key e ch, CDM_CH_STAT_STATE.key e ch, CDM_PC_DESCRIPTORS.key e 0]

/-- R513, R522 to R524, R527. A descriptor at HEAD that is not posted is read again 1 us later. ENABLE opens a channel that is disabled.
DISABLE_REQ and FORCE_OFF make it drain, FORCE_OFF with status 0x41 and ABANDONED for its descriptor. Once nothing of it is
outstanding it is disabled. -/
def Obligations.ChannelsAreEnabledAndDisabled : Prop :=
  ∀ (s : State) (e ch : Nat), s.railsUp = true → chanExists e ch = true →
    (∀ raw : List Byte, s.chanGoes e ch = true → (s.chan e ch).desc = none → s.chanDesc e ch = some (.ok raw) → s.owned e ch raw = false →
      ∃ t, exec (.ownerWait e ch) s = .next t ∧ t.clock = s.clock + 16000 ∧ s.sameStore t ∧ t.chan e ch = s.chan e ch ∧
        s.sameRegsBut t [CDM_CH_OWNER_WAITS.key e 0, HDM_CH_OWNER_WAITS.key 0 0]) ∧
    (s.chState e ch = 5 →
      ∃ t, exec (.chEnable e ch) s = .next t ∧ t.chState e ch = 0 ∧ t.dmaRd e ch CDM_CH_CTL_ENABLE HDM_CH_CTL_ENABLE = 1 ∧
        (t.chan e ch).force = false ∧ (t.chan e ch).stopped = false ∧ s.sameStore t) ∧
    (s.chState e ch ≤ 3 → s.draining e ch = false →
      ∃ t, exec (.chDisableReq e ch) s = .next t ∧ t.chState e ch = 4 ∧ (t.chan e ch).bell = s.chanBell e ch ∧
        (t.chan e ch).desc = (s.chan e ch).desc ∧ s.sameStore t) ∧
    (∀ d : DescRun, s.chState e ch ≤ 4 → (s.chan e ch).desc = some d →
      ∃ t d', exec (.chForceOff e ch) s = .next t ∧ t.chState e ch = 4 ∧ (t.chan e ch).force = true ∧ (t.chan e ch).desc = some d' ∧
        d'.raw = d.raw ∧ d'.moved = true ∧ d'.status = stRefused ∧ d'.flags = d.flags ||| flAbandoned ∧ s.sameStore t) ∧
    (∀ idx : Nat, s.chState e ch = 4 → (s.chan e ch).desc = none → (s.chan e ch).out = 0 → (s.chan e ch).paused = false →
      s.readsFly (.chan e ch) = false → s.ringMode e ch = false → (s.chan e ch).cue = some idx → (s.drainRuns e ch = false ∨ s.chanLeft e ch = 0) →
      ∃ t, exec (.channelDisabled e ch) s = .next t ∧ t.chState e ch = 5 ∧ (t.chan e ch).cue = none ∧
        t.dmaRd e ch CDM_CH_CTL_ENABLE HDM_CH_CTL_ENABLE = 0 ∧ s.sameStore t)

/-- R535, R536. A good frame with the expected sequence number is taken: its packets join the receive buffer in their order, the frames
that its ACK names leave the replay buffer, and the next number is expected. A frame that fails, or that does not follow the last good
one, is discarded, and NAK goes out; a failed one counts in LNK_PC_FEC_UNCORR. -/
def Obligations.FramesAreTakenInOrder : Prop :=
  (∀ (s : State) (q : Nat) (f : Frame), s.railsUp = true → q < 16 → s.portUp q = true → f.good = true → f.seq = (s.port q).rxSeq →
    f.nak = false → (s.port q).replays < 16 → (∀ p, p ∈ f.packets → vcOf p.type = some p.vc) →
    ∃ t, exec (.frame q f) s = .next t ∧ (t.port q).rx = (s.port q).rx ++ f.packets.map (fun p => (s.clock, p)) ∧
      (t.port q).rxSeq = ((s.port q).rxSeq + 1) % 4096 ∧ (t.port q).nak = false ∧ (t.port q).replay = afterAck f.ack (s.port q).replay ∧
      (t.port q).tx = (s.port q).tx ∧ (∀ r, r ≠ q → t.port r = s.port r) ∧ s.sameStore t ∧
      s.sameRegsBut t [LNK_PC_FEC_SYMBOLS.key q 0, LNK_PC_RX_CELLS.key q 0]) ∧
  (∀ (s : State) (q : Nat) (f : Frame), s.railsUp = true → q < 16 → s.portUp q = true → f.good = false →
    ∃ t, exec (.frame q f) s = .next t ∧ t.port q = { s.port q with nak := true } ∧ (∀ r, r ≠ q → t.port r = s.port r) ∧
      t.rd LNK_PC_FEC_UNCORR q = (s.rd LNK_PC_FEC_UNCORR q + 1) % 2 ^ LNK_PC_FEC_UNCORR.w ∧ s.sameStore t ∧
      s.sameRegsBut t [LNK_PC_FEC_UNCORR.key q 0]) ∧
  (∀ (s : State) (q : Nat) (f : Frame), s.railsUp = true → q < 16 → s.portUp q = true → f.good = true → f.seq ≠ (s.port q).rxSeq →
    ∃ t, exec (.frame q f) s = .next t ∧ t.port q = { s.port q with nak := true } ∧ (∀ r, r ≠ q → t.port r = s.port r) ∧ s.sameStore t ∧
      s.sameRegsBut t [LNK_PC_FEC_SYMBOLS.key q 0])

/-- Parts of R538, R539, R540, R542, R572, R575, R783. ACK_TIMEOUT of a port that is up with frames in its replay buffer, FRAME_LOCK_LOSS
and RETRAIN of a port that is up: the port's STATE is RETRAIN, its first phase of training is under way with PHASE 0, and its peer is not
VALID; its replay buffer, its receive buffer, its transaction slots and its queued packets but for the management messages stay, and so do
the other ports, memory and tokens. ACK_TIMEOUT leaves the stroke clock no earlier than 10 us after the instant kept for the last
acknowledgement, and RETRAIN leaves the RETRAIN bit at 1. LANE_SPARE of a lane below 16, and LANE_ERROR_WINDOW in which that lane alone
has errors, more than RETRAIN_ERR_LIMIT, on a port that is up on exactly the lanes 0 to 15, with LANE_AUTO set, the lane not retired and
its spare free: LANE_MAP names the lane, SPARE_USED is 1, every lane of the 17 but that one is active, the lane's replacement has reached
its last phase, and the port's STATE, its queued packets, memory and tokens stay. -/
def Obligations.PortsRetrainAndSpareTheirLanes : Prop :=
  (∀ (s : State) (q : Nat) (c : Instr), s.railsUp = true → q < 16 → s.portUp q = true →
     (c = .ackTimeout q ∧ (s.port q).replay ≠ [] ∨ c = .frameLockLoss q ∨ c = .retrain q) →
     ∃ t, exec c s = .next t ∧ t.rd LNK_STAT_STATE q = 4 ∧ t.rd LNK_STAT_PHASE q = 0 ∧ t.is LNK_PEER_VALID q = false ∧
       (t.port q).phase = 1 ∧ (t.port q).replay = (s.port q).replay ∧ (t.port q).rx = (s.port q).rx ∧
       (t.port q).tx = (s.port q).tx.filter (fun e => e.2.2.type != ptMgmt) ∧ (t.port q).slots = (s.port q).slots ∧
       (∀ r, r ≠ q → t.port r = s.port r) ∧ s.sameStore t ∧
       (c = .ackTimeout q → t.clock = max s.clock ((s.port q).ackAt + 160000)) ∧ (c = .retrain q → t.is LNK_CTL_RETRAIN q = true)) ∧
  (∀ (s : State) (q lane n : Nat) (c : Instr), s.railsUp = true → q < 16 → s.portUp q = true → lane < 16 →
     s.rd LNK_LANES_ACTIVE_MASK q = 0xFFFF → s.is LNK_CTL_LANE_AUTO q = true → s.phase { kind := 8, block := q, pos := lane } = none →
     0 < s.spareLeft { kind := 8, block := q, pos := lane } →
     (c = .laneSpare q lane ∨ c = .laneErrorWindow q (List.replicate lane 0 ++ [n]) ∧ s.rd LNK_RETRAIN_ERR_LIMIT q < n) →
     ∃ t, exec c s = .next t ∧ t.rd LNK_LANE_MAP_SPARED q = lane ∧ t.is LNK_STAT_SPARE_USED q = true ∧
       t.rd LNK_LANES_ACTIVE_MASK q = 0x1FFFF - 2 ^ lane ∧ t.rd LNK_STAT_STATE q = s.rd LNK_STAT_STATE q ∧
       t.phase { kind := 8, block := q, pos := lane } = some 2 ∧ (t.port q).tx = (s.port q).tx ∧ s.sameStore t)

/-- Parts of R540, R542, R543, R544, R572, R575. TRAINING_PHASE of a port that trains. In phase 1 or 2: the next phase is under way, PHASE
shows the number of the one that ended, the lanes on which it did not succeed count as failed, and the port's queue and replay buffer,
memory, tokens and the other registers stay. In phase 3, where the lanes that have not failed allow a width that is not below MIN_WIDTH:
WIDTH shows it, phase 4 is under way, and STATE, the replay buffer, memory and tokens stay. In phase 4, with the peer VALID: phase 5 is
under way, and 1,024 measure messages are queued. In phase 5, with at least 1,024 replies, a mean round trip of at most 1,000 ns, and a
sum that divides evenly: LATENCY is half the mean, phase 6 is under way, and a message with the port's grants is queued. In phase 6, with
the peer's grants: STATE is UP at WIDTH 0 and DEGRADED at another, no phase is under way, PHASE is 0, and the replay buffer, the queue,
memory, tokens and the registers but those named in the Lean text stay. TRAINING_TIMEOUT of a port that trains, is not retired, and has an
empty replay buffer and queue: STATE is FAILED, no phase is under way, the port is among the retired items, and the stroke clock stands no
earlier than RETRAIN_MAX ms after the training began. -/
def Obligations.TrainingBringsAPortUp : Prop :=
  (∀ (s : State) (q lanes : Nat), s.railsUp = true → q < 16 → s.training q = true → (s.port q).phase = 1 ∨ (s.port q).phase = 2 →
    ∃ t, exec (.trainingPhase q lanes) s = .next t ∧ (t.port q).phase = (s.port q).phase + 1 ∧ t.rd LNK_STAT_PHASE q = (s.port q).phase ∧
      (t.port q).failed = (s.port q).failed ||| (2 ^ 17 - 1 - lanes % 2 ^ 17) ∧ (t.port q).tx = (s.port q).tx ∧
      (t.port q).replay = (s.port q).replay ∧ s.sameStore t ∧ s.sameRegsBut t [LNK_STAT_PHASE.key q 0]) ∧
  (∀ (s : State) (q lanes w : Nat), s.railsUp = true → q < 16 → s.training q = true → (s.port q).phase = 3 →
    widthFor ((List.range 17).filter (fun l => !bitOf ((s.port q).failed ||| (2 ^ 17 - 1 - lanes % 2 ^ 17)) l)).length = some w →
    w ≤ s.rd LNK_CTL_MIN_WIDTH q →
    ∃ t, exec (.trainingPhase q lanes) s = .next t ∧ t.rd LNK_STAT_WIDTH q = w ∧ (t.port q).phase = 4 ∧
      t.rd LNK_STAT_STATE q = s.rd LNK_STAT_STATE q ∧ (t.port q).replay = (s.port q).replay ∧ s.sameStore t) ∧
  (∀ (s : State) (q lanes : Nat), s.railsUp = true → q < 16 → s.training q = true → (s.port q).phase = 4 → s.is LNK_PEER_VALID q = true →
    ∃ t m, exec (.trainingPhase q lanes) s = .next t ∧ (t.port q).phase = 5 ∧ t.rd LNK_STAT_PHASE q = 3 ∧
      (t.port q).tx = (s.port q).tx ++ List.replicate 1024 (0, s.clock, m) ∧ m.type = ptMgmt ∧ m.mgmt = .measure 0 ∧
      (t.port q).replay = (s.port q).replay ∧ s.sameStore t ∧ s.sameRegsBut t [LNK_STAT_PHASE.key q 0]) ∧
  (∀ (s : State) (q lanes : Nat), s.railsUp = true → q < 16 → s.training q = true → (s.port q).phase = 5 → 1024 ≤ (s.port q).rttCount →
    (s.port q).rttRaw ≤ 16000 * (s.port q).rttCount → (s.port q).rttSum % (2 * (s.port q).rttCount) = 0 →
    ∃ t m, exec (.trainingPhase q lanes) s = .next t ∧ (t.port q).phase = 6 ∧ t.rd LNK_STAT_PHASE q = 3 ∧
      t.rd LNK_LATENCY_LAT q = (s.port q).rttSum / (2 * (s.port q).rttCount) % 2 ^ LNK_LATENCY_LAT.w ∧
      (t.port q).tx = (s.port q).tx ++ [(0, s.clock, m)] ∧
      m.mgmt = .credits ((s.grants q).getD 0 0) ((s.grants q).getD 1 0) ((s.grants q).getD 2 0) ((s.grants q).getD 3 0) ∧
      (t.port q).replay = (s.port q).replay ∧ s.sameStore t ∧ s.sameRegsBut t [LNK_STAT_PHASE.key q 0, LNK_LATENCY_LAT.key q 0]) ∧
  (∀ (s : State) (q lanes : Nat), s.railsUp = true → q < 16 → s.training q = true → (s.port q).phase = 6 → (s.port q).peerCr = true →
    ∃ t, exec (.trainingPhase q lanes) s = .next t ∧ t.rd LNK_STAT_STATE q = (if s.rd LNK_STAT_WIDTH q = 0 then 2 else 3) ∧
      (t.port q).phase = 0 ∧ t.rd LNK_STAT_PHASE q = 0 ∧ (t.port q).replay = (s.port q).replay ∧ (t.port q).tx = (s.port q).tx ∧
      s.sameStore t ∧ s.sameRegsBut t [LNK_STAT_STATE.key q 0, LNK_STAT_PHASE.key q 0, LNK_PC_REPLAYS.key q 0, LNK_CTL_RETRAIN.key q 0, LOG_DROPPED.key 0 0]) ∧
  (∀ (s : State) (q : Nat), s.railsUp = true → q < 16 → s.training q = true → s.phase { kind := 13, block := q, pos := 0 } = none →
    (s.port q).replay = [] → (s.port q).tx = [] →
    ∃ t, exec (.trainingTimeout q) s = .next t ∧ t.rd LNK_STAT_STATE q = 5 ∧ (t.port q).phase = 0 ∧
      t.clock = max s.clock ((s.port q).start + max 1 (s.rd LNK_RETRAIN_MAX_MS q) * 16000000) ∧
      (∃ n, (({ kind := 13, block := q, pos := 0 } : Inst), n) ∈ t.retired))

/-- Parts of R544, R545, R565, R575. MGMT of a port whose oldest VC3 packet is a management message takes that packet out of its receive
buffer and leaves the other ports, memory and tokens. An identity: LNK_PEER shows the device and the port it names and VALID, and the
other registers stay. A measurement: a reply with the instant in it and the instant of its arrival is queued at the port, and the
registers stay. A reply, in phase 5 with fewer than 1,024 replies taken: it counts, and its round trip, the time since the measurement
less the time the peer held it, is added to the sum; the registers stay. A message of grants, while the port trains and has neither
credits nor grants: the port has the peer's grants, its credits are the eight halves of the message's words, 14 bits each, and the
registers stay. -/
def Obligations.ManagementMessagesAreTaken : Prop :=
  (∀ (s : State) (q a : Nat) (p : Packet) (dev port fw width : Nat), s.railsUp = true → q < 16 → s.mgmtAt q = some (a, p) →
    p.mgmt = .identity dev port fw width →
    ∃ t, exec (.mgmt q) s = .next t ∧ (t.port q).rx = (s.port q).rx.eraseP (fun e => e.2.vc == 3) ∧ (∀ r, r ≠ q → t.port r = s.port r) ∧
      t.rd LNK_PEER_DEV q = dev % 2 ^ LNK_PEER_DEV.w ∧ t.rd LNK_PEER_PORT q = port % 2 ^ LNK_PEER_PORT.w ∧
      t.is LNK_PEER_VALID q = true ∧ s.sameStore t ∧
      s.sameRegsBut t [LNK_PEER_DEV.key q 0, LNK_PEER_PORT.key q 0, LNK_PEER_VALID.key q 0]) ∧
  (∀ (s : State) (q a t1 : Nat) (p : Packet), s.railsUp = true → q < 16 → s.mgmtAt q = some (a, p) → p.mgmt = .measure t1 →
    ∃ t r, exec (.mgmt q) s = .next t ∧ (t.port q).rx = (s.port q).rx.eraseP (fun e => e.2.vc == 3) ∧ (∀ k, k ≠ q → t.port k = s.port k) ∧
      (t.port q).tx = (s.port q).tx ++ [(0, s.clock, r)] ∧ r.type = ptMgmt ∧ r.vc = 3 ∧
      r.mgmt = .reply t1 a 0 ∧ s.sameStore t ∧ s.sameRegsBut t []) ∧
  (∀ (s : State) (q a t1 t2 t3 : Nat) (p : Packet), s.railsUp = true → q < 16 → s.mgmtAt q = some (a, p) → p.mgmt = .reply t1 t2 t3 →
    (s.port q).phase = 5 → (s.port q).rttCount < 1024 →
    ∃ t, exec (.mgmt q) s = .next t ∧ (t.port q).rx = (s.port q).rx.eraseP (fun e => e.2.vc == 3) ∧ (∀ r, r ≠ q → t.port r = s.port r) ∧
      (t.port q).rttCount = (s.port q).rttCount + 1 ∧
      (t.port q).rttSum = (s.port q).rttSum + ((a - t1) - (t3 - t2)) ∧ s.sameStore t ∧ s.sameRegsBut t []) ∧
  (∀ (s : State) (q a v0 v1 v2 v3 : Nat) (p : Packet), s.railsUp = true → q < 16 → s.mgmtAt q = some (a, p) → p.mgmt = .credits v0 v1 v2 v3 →
    s.training q = true → (s.port q).grant = [] → (s.port q).credits = [] →
    ∃ t, exec (.mgmt q) s = .next t ∧ (t.port q).rx = (s.port q).rx.eraseP (fun e => e.2.vc == 3) ∧ (∀ r, r ≠ q → t.port r = s.port r) ∧
      (t.port q).peerCr = true ∧
      (t.port q).credits = [bits v0 0 14, bits v0 16 14, bits v1 0 14, bits v1 16 14, bits v2 0 14, bits v2 16 14, bits v3 0 14, bits v3 16 14] ∧
      s.sameStore t ∧ s.sameRegsBut t [])

/-- Parts of R536, R547, R549, R565, R566. PACKET_SEND of a port that is up with fewer than 256 frames in its replay buffer. Where no
packet may leave: a frame without packets joins the replay buffer, with the port's next number, the number of the last good frame received
as its ACK and the port's NAK, the next number has advanced, and memory, tokens and registers stay. Where the arbitration picks a packet:
a frame with that packet as it is stamped on leaving joins the replay buffer under the next number, the next number has advanced, and the
other ports, memory, tokens and the registers but LNK_PC_TX_CELLS and CTX_ACC_PORT stay. PACKET_FORWARD of a port with a packet to pass on
that has made fewer than 15 hops and whose port by the route table is not draining: the packet is queued at that port with one hop more
and the class of its route entry, and memory, tokens and registers stay. -/
def Obligations.PacketsLeaveByTheirPorts : Prop :=
  (∀ (s : State) (q : Nat), s.railsUp = true → q < 16 → s.portUp q = true → (s.port q).replay.length < 256 → s.nextOut q = none →
    ∃ t f, exec (.packetSend q) s = .next t ∧ (t.port q).replay = (s.port q).replay ++ [f] ∧ f.packets = [] ∧ f.seq = (s.port q).nextSeq ∧
      f.ack = ((s.port q).rxSeq + 4095) % 4096 ∧ f.nak = (s.port q).nak ∧ (t.port q).nextSeq = ((s.port q).nextSeq + 1) % 4096 ∧
      s.sameStore t ∧ s.sameRegsBut t []) ∧
  (∀ (s : State) (q pos age t0 : Nat) (p : Packet), s.railsUp = true → q < 16 → s.portUp q = true → (s.port q).replay.length < 256 →
    s.nextOut q = some (pos, age, t0, p) →
    ∃ t f, exec (.packetSend q) s = .next t ∧ (t.port q).replay = (s.port q).replay ++ [f] ∧ f.packets = [s.stamp t0 p] ∧
      f.seq = (s.port q).nextSeq ∧ (t.port q).nextSeq = ((s.port q).nextSeq + 1) % 4096 ∧ (∀ r, r ≠ q → t.port r = s.port r) ∧
      s.sameStore t ∧ s.sameRegsBut t [LNK_PC_TX_CELLS.key q 0, CTX_ACC_PORT.key p.ctx q]) ∧
  (∀ (s : State) (q v r : Nat) (p : Packet), s.railsUp = true → q < 16 → s.forwardVc q = some (v, p) → p.hops < 15 →
    s.portFor p.dst p = some r → s.blk .lnk r ≠ 2 →
    ∃ t, exec (.packetForward q) s = .next t ∧
      (t.port r).tx = (s.port r).tx ++ [(0, s.clock, { p with hops := p.hops + 1, cls := s.classFor p.dst p })] ∧ s.sameStore t ∧
      s.sameRegsBut t [])

/-- Parts of R551, R552, R553, R554, R555, R556, R557, R567. REMOTE_PUT, REMOTE_PUT_SIGNAL, REMOTE_GET or REMOTE_ATOMIC for a REMOTE cue
that is the ready cue of its crew, with a context that lets it run and no record in its way, whose descriptor can be read, names the
operation of the command, moves at least one byte, and makes one access, on another device, by a port that is not draining and has a free
transaction slot: the cue is issued, and the packet of its kind is queued at that port with the lowest free slot and that slot's
generation as its TAG. PUT carries the bytes of LOCAL, PUT_SIGNAL, where its token is on the same device, the bytes, the token's address
and the increment, GET the length, ATOMIC the operation and its operands. The slot is taken, and memory, tokens and the registers but that
port's count of used slots stay. -/
def Obligations.RemoteCuesSendTheirPackets : Prop :=
  ∀ (s : State) (c idx r n op : Nat) (sh : Sheet) (q : Cue) (d : List Byte) (pl : RemPlan) (p : RemPart) (x : Packet) (i : Instr),
    s.railsUp = true → c < 16 → s.readyCue c = some (sh, q, idx) → q.kind = 3 → s.ctxRefuses sh.ctx = none → s.recordStop sh.ctx q = none →
    s.readV (.cox c) sh.ctx q.ptr 64 = .ok d → rOp d = op → remoteBytes d ≠ 0 → s.remotePlan (.cox c) sh.ctx d = .ok pl → pl.parts = [p] →
    s.isHere p = false → s.noteReads sh.ctx [(rLocal d, pl.data.length)] = s →
    (i = .remotePut c ∧ op = 0 ∧ x = { zeroPacket with
          type := ptPut, vc := 1, ctx := sh.ctx, sched := true, dst := gpaDev p.gpa, addr := gpaLocal p.gpa,
          data := (pl.data.drop p.off).take p.n } ∨
     i = .remotePutSignal c ∧ op = 1 ∧ gpaDev pl.sig = gpaDev p.gpa ∧
       x = { zeroPacket with
          type := ptPutSignal, vc := 1, ctx := sh.ctx, sched := true, dst := gpaDev p.gpa, addr := gpaLocal p.gpa,
          aux := gpaLocal pl.sig, inc := rInc d, data := pl.data } ∨
     i = .remoteGet c ∧ op = 2 ∧ x = { zeroPacket with
          type := ptGet, vc := 2, ctx := sh.ctx, sched := true, dst := gpaDev p.gpa, addr := gpaLocal p.gpa, aux := p.n } ∨
     i = .remoteAtomic c ∧ op = 3 ∧ x = { zeroPacket with
          type := ptAtomic, vc := 2, ctx := sh.ctx, sched := true, dst := gpaDev p.gpa, addr := gpaLocal p.gpa, aop := rAop d,
          wide := rWide d, operand := rOperand d, compare := rCompare d }) →
    s.portFor x.dst x = some r → s.blk .lnk r ≠ 2 → (s.port r).freeSlot = some n →
    ∃ t, exec i s = .next t ∧ (t.cox c).issued = idx :: (s.cox c).issued ∧
      t.queued r = s.queued r ++ [{ x with slot := n, port := r, gen := Tab.look (s.port r).gens n 0, src := s.dev, cls := s.classFor x.dst x }] ∧
      (Tab.find (t.port r).slots n).isSome = true ∧ s.sameStore t ∧ s.sameRegsBut t [LNK_SLOTS_USED_COUNT.key r 0]

/-- Parts of R41, R92, R555, R556, R588. The write packet at the head of VC1 of a port, which is for this device, is not held by its
memory or the protect filter, and whose ACK can be routed, is served, and its ACK with status 0x01 and the packet's TAG is queued.
PUT_PACKET, to HBM or LPDDR outside the length table, where the access is allowed: the bytes stand at its address and every other byte and
every token stay. PUT_SIGNAL_PACKET, likewise, with a token that may be incremented: the bytes stand there, the token has grown by the
increment, and other bytes and tokens stay. SIGNAL_PACKET: the token has grown by the increment, and memory and other tokens stay.
TRIGGER, with an aligned vector word for a vector that exists and is not masked, from the vector's own context or context 0: the MSI-X
message of the vector is passed to the host, and memory, tokens and registers stay. In the first three cases the registers but those named
in the Lean text stay. -/
def Obligations.WritePacketsAreServed : Prop :=
  ∀ (s : State) (q r : Nat) (p ack : Packet), s.railsUp = true → s.servable q 1 = some p → p.src < 512 → p.ctx < 64 →
    s.packetWaits p = false → s.filterFrame p = none →
    ack = { zeroPacket with
          type := ptAck, src := s.dev, ctx := p.ctx, sched := p.sched, dst := p.src, slot := p.slot, port := p.port, gen := p.gen,
          status := stSuccess } →
    s.portFor p.src ack = some r →
    (p.type = ptPut → p.data ≠ [] → (regionOf p.addr).1 = .hbm ∨ (regionOf p.addr).1 = .lpd → s.offLengths p.addr p.data.length = true →
      s.checkLocal p.src p.ctx p.addr p.data.length .put = .ok () →
      ∃ t, exec (.putPacket q) s = .next t ∧ s.stored t p.addr p.data ∧ s.sameToksBut t [] ∧
        t.queued r = s.queued r ++ [{ ack with cls := s.classFor p.src ack }] ∧
        s.sameRegsBut t [CTX_ACC_HBM.key p.ctx 0, CTX_ACC_LPD.key p.ctx 0]) ∧
    (p.type = ptPutSignal → p.data ≠ [] → (regionOf p.addr).1 = .hbm ∨ (regionOf p.addr).1 = .lpd →
      s.offLengths p.addr p.data.length = true → s.checkLocal p.src p.ctx p.addr p.data.length .put = .ok () →
      (regionOf p.aux).1 = .tokens → s.checkLocal p.src p.ctx p.aux 4 .atomic = .ok () →
      ∃ t, exec (.putSignalPacket q) s = .next t ∧ s.stored t p.addr p.data ∧
        t.tok (tokOfAddr p.aux) = s.tok (tokOfAddr p.aux) + BitVec.ofNat 32 p.inc ∧ s.sameToksBut t [tokOfAddr p.aux] ∧
        t.queued r = s.queued r ++ [{ ack with cls := s.classFor p.src ack }] ∧
        s.sameRegsBut t [CTX_ACC_HBM.key p.ctx 0, CTX_ACC_LPD.key p.ctx 0, STK_STRAY_COUNT.key 0 0, LOG_DROPPED.key 0 0]) ∧
    (p.type = ptSignal → p.data = [] → (regionOf p.aux).1 = .tokens → s.checkLocal p.src p.ctx p.aux 4 .atomic = .ok () →
      ∃ t, exec (.signalPacket q) s = .next t ∧ t.tok (tokOfAddr p.aux) = s.tok (tokOfAddr p.aux) + BitVec.ofNat 32 p.inc ∧
        s.sameToksBut t [tokOfAddr p.aux] ∧ s.stored t 0 [] ∧ t.queued r = s.queued r ++ [{ ack with cls := s.classFor p.src ack }] ∧
        s.sameRegsBut t [STK_STRAY_COUNT.key 0 0, LOG_DROPPED.key 0 0]) ∧
    (p.type = ptPut → 0x7FFFFFF0000 ≤ p.addr → (regionOf p.addr).1 = .host → p.addr % 4 = 0 → p.data.length = 4 →
      s.checkLocal p.src p.ctx p.addr 4 .put = .ok () → vectorWordOk (leNat p.data) = true →
      bits (leNat p.data) 0 11 < msixVectors (bits (leNat p.data) 16 6) → (p.ctx = 0 ∨ p.ctx = bits (leNat p.data) 16 6) →
      s.msixMasked (bits (leNat p.data) 16 6) (bits (leNat p.data) 0 11) = false →
      ∃ t, exec (.trigger q) s = .next t ∧
        t.hostOut = s.hostOut ++ [HostOut.msix (bits (leNat p.data) 16 6) (bits (leNat p.data) 0 11)] ∧
        t.queued r = s.queued r ++ [{ ack with cls := s.classFor p.src ack }] ∧ s.sameStore t ∧ s.sameRegsBut t [])

/-- Parts of R41, R113, R555, R557, R558. The packet at the head of VC2 of a port, which is for this device, is not held by its memory or
the protect filter, and whose access is allowed, is answered with status 0x01 and the packet's TAG, where its response can be routed.
GET_PACKET of HBM or LPDDR without poison: the response brings the bytes that stand there, and memory, tokens and registers stay. ADD,
SWAP and CAS of 4 bytes, aligned, on a token: the response brings the old value, and the token is the sum, the operand, or the operand
where the value equals COMPARE and the old value where it does not; memory and other tokens stay. The same of memory in HBM or LPDDR
without poison outside the length table: the new value stands there, and every other byte and every token stay. ADD_FP of 4 bytes,
aligned, on such memory: the FP32 sum stands there, STK_STAT.NONDET_SEEN is 1, and every other byte and every token stay. The registers
but those named in the Lean text stay. -/
def Obligations.ReadAndAtomicPacketsAreServed : Prop :=
  ∀ (s : State) (q r : Nat) (p a : Packet), s.railsUp = true → s.servable q 2 = some p → s.packetWaits p = false →
    (p.type = ptGet → (regionOf p.addr).1 = .hbm ∨ (regionOf p.addr).1 = .lpd → s.checkLocal p.src p.ctx p.addr p.aux .get = .ok () →
      s.poisoned p.addr p.aux = false →
      a = { zeroPacket with
          type := ptGetData, src := s.dev, ctx := p.ctx, sched := p.sched, dst := p.src, slot := p.slot, port := p.port, gen := p.gen,
          status := stSuccess, data := s.rdMem p.addr p.aux } → s.portFor p.src a = some r →
      ∃ t, exec (.getPacket q) s = .next t ∧ t.queued r = s.queued r ++ [{ a with cls := s.classFor p.src a }] ∧ s.sameStore t ∧
        s.sameRegsBut t []) ∧
    (∀ i : Instr, p.type = ptAtomic → s.filterFrame p = none → p.wide = false → p.addr % 4 = 0 →
      (i = .add q ∧ p.aop = 0 ∨ i = .swap q ∧ p.aop = 2 ∨ i = .cas q ∧ p.aop = 3) →
      s.checkLocal p.src p.ctx p.addr 4 .atomic = .ok () →
      ((regionOf p.addr).1 = .tokens →
        a = { zeroPacket with
          type := ptAtomicResp, src := s.dev, ctx := p.ctx, sched := p.sched, dst := p.src, slot := p.slot, port := p.port, gen := p.gen,
          status := stSuccess, operand := (s.tok (tokOfAddr p.addr)).toNat } → s.portFor p.src a = some r →
        ∃ t, exec i s = .next t ∧ t.queued r = s.queued r ++ [{ a with cls := s.classFor p.src a }] ∧
          t.tok (tokOfAddr p.addr) = (if p.aop = 0 then s.tok (tokOfAddr p.addr) + BitVec.ofNat 32 p.operand
            else if p.aop = 2 ∨ s.tok (tokOfAddr p.addr) = BitVec.ofNat 32 p.compare then BitVec.ofNat 32 p.operand
            else s.tok (tokOfAddr p.addr)) ∧
          s.sameToksBut t [tokOfAddr p.addr] ∧ s.stored t 0 [] ∧ s.sameRegsBut t [STK_STRAY_COUNT.key 0 0, LOG_DROPPED.key 0 0]) ∧
      ((regionOf p.addr).1 = .hbm ∨ (regionOf p.addr).1 = .lpd → s.poisoned p.addr 4 = false → s.offLengths p.addr 4 = true →
        a = { zeroPacket with
          type := ptAtomicResp, src := s.dev, ctx := p.ctx, sched := p.sched, dst := p.src, slot := p.slot, port := p.port, gen := p.gen,
          status := stSuccess, operand := s.rdLE p.addr 4 } → s.portFor p.src a = some r →
        ∃ t, exec i s = .next t ∧ t.queued r = s.queued r ++ [{ a with cls := s.classFor p.src a }] ∧
          s.stored t p.addr (leBytes (if p.aop = 0 then (s.rdLE p.addr 4 + p.operand) % 2 ^ 32
            else if p.aop = 2 ∨ s.rdLE p.addr 4 = p.compare % 2 ^ 32 then p.operand % 2 ^ 32 else s.rdLE p.addr 4) 4) ∧
          s.sameToksBut t [] ∧ s.sameRegsBut t [CTX_ACC_HBM.key p.ctx 0, CTX_ACC_LPD.key p.ctx 0])) ∧
    (p.type = ptAtomic → s.filterFrame p = none → p.wide = false → p.addr % 4 = 0 → p.aop = 1 →
      s.checkLocal p.src p.ctx p.addr 4 .atomicFp = .ok () → (regionOf p.addr).1 = .hbm ∨ (regionOf p.addr).1 = .lpd →
      s.poisoned p.addr 4 = false → s.offLengths p.addr 4 = true →
      a = { zeroPacket with
          type := ptAtomicResp, src := s.dev, ctx := p.ctx, sched := p.sched, dst := p.src, slot := p.slot, port := p.port, gen := p.gen,
          status := stSuccess, operand := s.rdLE p.addr 4 } → s.portFor p.src a = some r →
      ∃ t, exec (.addFp q) s = .next t ∧ t.queued r = s.queued r ++ [{ a with cls := s.classFor p.src a }] ∧
        s.stored t p.addr (leBytes (fadd (BitVec.ofNat 32 (s.rdLE p.addr 4)) (BitVec.ofNat 32 p.operand)).toNat 4) ∧
        t.is STK_STAT_NONDET_SEEN = true ∧ s.sameToksBut t [] ∧
        s.sameRegsBut t [CTX_ACC_HBM.key p.ctx 0, CTX_ACC_LPD.key p.ctx 0, STK_STAT_NONDET_SEEN.key 0 0])

/-- Parts of R555, R559, R567, R568, R571. A response at the head of VC0 that names a slot of this device with the slot's generation,
while no packet waits for a slot, leaves the state u that is described here; then the seats and the accesses of the host that waited go on
from u, and where there are none the next state is u. ACK with status 0x01 and NAK with an error, for the last packet of a cue's PUT that
has seen no error: the slot is free, with the next generation, the operation is over, the cue has one part less to wait for, for NAK it
has the status of the NAK, and memory, tokens and the registers but the count of used slots stay. GET_DATA with status 0x01, for a BAR2
read with further packets outstanding: the slot is free, the bytes stand at their place in the answer, one packet less is outstanding, and
memory, tokens and the registers but the count of used slots stay. ATOMIC_RESP with status 0x01, for a seat's ATOMIC without LOCAL: the
slot is free, the operation is over, the seat waits for one answer less and has met no error, and memory, tokens and the registers but the
count of used slots stay. RMT_TIMEOUT of a slot whose packet has left its port, for a seat's last packet: the stroke clock stands no
earlier than the slot's due time, the slot is free, the operation is over, the seat has met status 0x51, and LNK_PC_TIMEOUTS has grown by
1. -/
def Obligations.ResponsesEndTheirTransactions : Prop :=
  (∀ (s : State) (q c idx : Nat) (p : Packet) (x : Txn) (o : RemOp) (w : CueRun) (i : Instr), s.railsUp = true →
    s.responseAt q p.type = some p → s.txnOf p = some x → s.waitPkts = [] → Tab.find s.ops x.op = some o → o.left = 1 → o.owner = .cue c idx →
    o.signal = none → o.worst = none → o.zero = false → x.packet.type = ptPut → Tab.find (s.cox c).running idx = some w → statusOk w.status = true →
    (i = .ack q ∧ p.type = ptAck ∧ p.status = 1 ∨
     i = .nak q ∧ p.type = ptNak ∧ statusOk p.status = false) →
    ∃ (t u : State) (v : CueRun), exec i s = .next t ∧ t = s.commit (u.wakeCores.pumpBars) ∧ (s.cores = [] → s.barWaits = [] → t = s.commit u) ∧
      Tab.find (u.port p.port).slots p.slot = none ∧
      Tab.look (u.port p.port).gens p.slot 0 = (Tab.look (s.port p.port).gens p.slot 0 + 1) % 128 ∧ Tab.find u.ops x.op = none ∧
      Tab.find (u.cox c).running idx = some v ∧ v.left = w.left - 1 ∧ (p.type = ptNak → v.status = p.status) ∧
      s.sameStore u ∧ s.sameRegsBut u [LNK_SLOTS_USED_COUNT.key p.port 0]) ∧
  (∀ (s : State) (q f tag off : Nat) (p : Packet) (x : Txn) (o : RemOp) (w : BarWait), s.railsUp = true →
    s.responseAt q ptGetData = some p → s.txnOf p = some x → s.waitPkts = [] → Tab.find s.ops x.op = some o → o.owner = .bar f tag →
    1 < o.left → x.dest = some off → Tab.find s.barWaits tag = some w → p.status = 1 →
    ∃ t u : State, exec (.getData q) s = .next t ∧ t = s.commit (u.wakeCores.pumpBars) ∧ Tab.find (u.port p.port).slots p.slot = none ∧
      Tab.find u.barWaits tag = some { w with data := spliceAt w.data off (p.data.take x.packet.aux) } ∧
      Tab.find u.ops x.op = some { o with left := o.left - 1 } ∧ s.sameStore u ∧ s.sameRegsBut u [LNK_SLOTS_USED_COUNT.key p.port 0]) ∧
  (∀ (s : State) (q i : Nat) (p : Packet) (x : Txn) (o : RemOp), s.railsUp = true → s.responseAt q ptAtomicResp = some p →
    s.txnOf p = some x → s.waitPkts = [] → Tab.find s.ops x.op = some o → o.left = 1 → o.signal = none → o.worst = none → o.zero = false →
    o.owner = .core i → x.dest = none → p.status = 1 →
    ∃ t u : State, exec (.atomicResp q) s = .next t ∧ t = s.commit (u.wakeCores.pumpBars) ∧ Tab.find (u.port p.port).slots p.slot = none ∧
      Tab.find u.ops x.op = none ∧ (u.core i).out = (s.core i).out - 1 ∧ (u.core i).error = (s.core i).error ∧ s.sameStore u ∧
      s.sameRegsBut u [LNK_SLOTS_USED_COUNT.key p.port 0]) ∧
  (∀ (s : State) (q n i : Nat) (x : Txn) (o : RemOp), s.railsUp = true → s.slotLeft q n = true → Tab.find (s.port q).slots n = some x →
    s.waitPkts = [] → Tab.find s.ops x.op = some o → o.left = 1 → o.worst = none → o.owner = .core i → (s.core i).error = none →
    ∃ t u : State, exec (.rmtTimeout q n) s = .next t ∧ t = s.commit (u.wakeCores.pumpBars) ∧ u.clock = max s.clock x.due ∧
      Tab.find (u.port q).slots n = none ∧ Tab.find u.ops x.op = none ∧ (u.core i).error = some 0x51 ∧
      u.rd LNK_PC_TIMEOUTS q = (s.rd LNK_PC_TIMEOUTS q + 1) % 2 ^ LNK_PC_TIMEOUTS.w)

/-- Parts of R98, R417, R418, R445, R446, R447, R448, R454, R455. MEMORY_REQUEST of an address in HBM or LPDDR by a requester with a
credit of the controller that holds the address and no bounced request to its bank: below the bank's quota the request takes a slot of the
bank with the current time, and only the count of used slots may change among the registers; at the quota it is among the bounced ones and
the bank is held, and only the counts of held banks and of bounces may change. MEMORY_SERVE, with a clean read, of a bank that no test
holds: the oldest request has left the bank's queue, the bounced ones stay, and only the counts of used slots and held banks may change.
BOUNCE_REISSUE of a requester with one bounced request to a bank that is not held, is below its quota, and with a credit: the request is
in the queue with its age, and only the count of used slots may change. MEMORY_TIMEOUT, where the requester has a request in the queue of
a bank that no test holds and whose channel is already retired: its oldest one has left the queue, the timeout and the page's
uncorrectable errors have been counted, and the stroke clock stands no earlier than the request's age plus the controller's timeout.
HBM_TEMPERATURE_READOUT: TEMP shows the temperature and VALID is 1; the throttle level is that of the temperature where that is not lower;
a level at most 1 degree below whose entry the temperature lies is not left, and one at least 2 degrees below is; from below level 3 to 3
or 4 BLK_INT_STAT.THERMAL is set. In every case memory and tokens stay. -/
def Obligations.MemoriesServeTheOldestAndThrottle : Prop :=
  (∀ (s : State) (addr rank k r : Nat) (lpd : Bool) (ctl bank : Nat), s.railsUp = true → memPlace addr rank k = some (lpd, ctl, bank) →
    s.memCredit lpd ctl r = true →
    let b := s.bank (bankKey lpd ctl bank)
    (∀ x, x ∈ b.bounced → x.1 ≠ r) →
    ∃ t, exec (.memoryRequest addr r rank k) s = .next t ∧ s.sameStore t ∧
      (b.queue.length < bankQuota lpd → t.bank (bankKey lpd ctl bank) = { b with queue := b.queue ++ [(r, s.clock)] } ∧
        s.sameRegsBut t [(memFlds lpd).1.key ctl 0]) ∧
      (bankQuota lpd ≤ b.queue.length → t.bank (bankKey lpd ctl bank) = { b with bounced := b.bounced ++ [(r, s.clock)], held := true } ∧
        s.sameRegsBut t [(memFlds lpd).2.1.key ctl 0, (memFlds lpd).2.2.1.key ctl 0])) ∧
  (∀ (s : State) (lpd : Bool) (ctl bank unit : Nat) (x : Nat × Nat), s.railsUp = true → bankOk lpd ctl bank = true →
    s.testHolds (bankChannel lpd ctl bank) = false → oldest (s.bank (bankKey lpd ctl bank)).queue = some x →
    ∃ t, exec (.memoryServe lpd ctl bank unit .clean) s = .next t ∧ s.sameStore t ∧
      (t.bank (bankKey lpd ctl bank)).queue = (s.bank (bankKey lpd ctl bank)).queue.erase x ∧
      (t.bank (bankKey lpd ctl bank)).bounced = (s.bank (bankKey lpd ctl bank)).bounced ∧
      s.sameRegsBut t [(memFlds lpd).1.key ctl 0, (memFlds lpd).2.1.key ctl 0]) ∧
  (∀ (s : State) (lpd : Bool) (ctl bank r age : Nat), s.railsUp = true → bankOk lpd ctl bank = true →
    let b := s.bank (bankKey lpd ctl bank)
    b.held = false → b.bounced.filter (fun x => x.1 == r) = [(r, age)] → b.queue.length < bankQuota lpd →
    (s.setBank (bankKey lpd ctl bank) { b with bounced := b.bounced.filter (fun x => x.1 != r) }).memCredit lpd ctl r = true →
    ∃ t, exec (.bounceReissue lpd ctl bank r) s = .next t ∧ s.sameStore t ∧
      t.bank (bankKey lpd ctl bank) = { b with queue := b.queue ++ [(r, age)], bounced := b.bounced.filter (fun x => x.1 != r) } ∧
      s.sameRegsBut t [(memFlds lpd).1.key ctl 0]) ∧
  (∀ (s : State) (lpd : Bool) (ctl bank r : Nat) (x : Nat × Nat), s.railsUp = true → bankOk lpd ctl bank = true →
    s.testHolds (bankChannel lpd ctl bank) = false → (s.phase (bankChannel lpd ctl bank)).isSome = true →
    oldest ((s.bank (bankKey lpd ctl bank)).queue.filter (fun y => y.1 == r)) = some x →
    ∃ t, exec (.memoryTimeout lpd ctl bank r) s = .next t ∧ s.sameStore t ∧
      t.clock = max s.clock (x.2 + s.rd (memFlds lpd).2.2.2.2 ctl * 16) ∧
      (t.bank (bankKey lpd ctl bank)).queue = (s.bank (bankKey lpd ctl bank)).queue.erase x ∧
      t.rd (memFlds lpd).2.2.2.1 ctl = (s.rd (memFlds lpd).2.2.2.1 ctl + 1) % 2 ^ (memFlds lpd).2.2.2.1.w ∧
      t.rd (BLK_ERR_UNCORR (memPage lpd)) ctl = min (s.rd (BLK_ERR_UNCORR (memPage lpd)) ctl + 1) (2 ^ (BLK_ERR_UNCORR (memPage lpd)).w - 1)) ∧
  (∀ (s : State) (k temp : Nat), s.railsUp = true → k < 8 → temp < 256 → s.rd HBM_THROTTLE_LEVEL k ≤ 4 →
     ∃ t, exec (.hbmTemperatureReadout k temp) s = .next t ∧ t.rd HBM_TEMP_TEMP k = temp ∧ t.is HBM_TEMP_VALID k = true ∧
       (s.rd HBM_THROTTLE_LEVEL k ≤ levelOf temp → t.rd HBM_THROTTLE_LEVEL k = levelOf temp) ∧
       (∀ l, s.rd HBM_THROTTLE_LEVEL k = l + 1 → levelOf temp ≤ l → levelEntry (l + 1) < temp + 2 → t.rd HBM_THROTTLE_LEVEL k = l + 1) ∧
       (∀ l, s.rd HBM_THROTTLE_LEVEL k = l + 1 → temp + 2 ≤ levelEntry (l + 1) → t.rd HBM_THROTTLE_LEVEL k ≤ l) ∧
       (s.rd HBM_THROTTLE_LEVEL k < 3 → 3 ≤ levelOf temp → bitOf (t.rd (BLK_INT_STAT .hbm) k) 8 = true) ∧ s.sameStore t ∧
       s.sameRegsBut t [HBM_TEMP_TEMP.key k 0, HBM_TEMP_VALID.key k 0, HBM_THROTTLE_LEVEL.key k 0, HBM_MARGIN_CTL_PAUSED.key k 0,
         (BLK_INT_STAT .hbm).key k 0, LOG_DROPPED.key 0 0])

/-- Parts of R421, R425, R427, R428, R429, R430, R431, R432. REGISTER, FREE, SET_HINT, MOVE, TOUCH or QUERY, with the module in ROW, while
the command at HEAD of the tier ring can be read, is the one named, is well formed without a status record, is not refused by the page's
state, and no fault of the tier manager is outstanding or aborted. REGISTER of an aligned range that is not empty, in an enabled context
that is not lost, with a free record, page-table places for its pages that are not VALID, and frames of the first tier of the hint's order
that has them: one host object of the context holds the pages with those frames, in that tier, with the hint. Of the object that the
command names: FREE of a host object of the context that is not moving removes it; SET_HINT to a hint other than PIN, of an object whose
hint is not PIN, sets its hint and changes no other object; MOVE to another tier of an object that is neither PINNED, LOST nor moving and
that no page copy touches, where the tier has frames for it, leaves it in progress with those frames and nothing copied; TOUCH raises its
last-touched stroke to the current one, changes no other object, and leaves every byte but those of the object's record; QUERY leaves the
objects, memory, tokens and every register but HEAD. In each case but MOVE, HEAD has advanced by 1 and no command is in progress; MOVE
leaves HEAD and is the command in progress. -/
def Obligations.TierCommandsActOnObjects : Prop :=
  ∀ (s : State) (k : Nat) (raw : List Byte), s.rd PWR_STAT_STATE = 0 → s.tierOp k = true → s.tierHead = .ok raw → fieldLE raw 0 1 = k →
    fieldLE raw 32 8 = 0 → s.tierRefuses = false → tierOk raw = true → s.faultHeld (fun _ a => a.1 == .tier) = false → s.rosAborted = [] →
    let id := fieldLE raw 24 4
    let head := (s.rd TIER_RING_HEAD + 1) % 2 ^ TIER_RING_HEAD.w
    (∀ (leaves : List (Nat × Nat)) (tt : Nat) (fs : List Nat) (u : State), k = 1 →
      let big := bitOf (fieldLE raw 6 1) 0
      let page := if big then 0x200000 else 0x10000
      fieldLE raw 8 8 % page = 0 → fieldLE raw 16 8 % page = 0 → fieldLE raw 16 8 ≠ 0 → fieldLE raw 8 8 + fieldLE raw 16 8 ≤ 2 ^ 49 →
      s.ctxOn (fieldLE raw 4 1) = true → s.lost.contains (fieldLE raw 4 1) = false → 0 < s.freeRecords →
      s.leafAddrs (fieldLE raw 4 1) big ((List.range (fieldLE raw 16 8 / page)).map (fun k => fieldLE raw 8 8 + k * page)) = .ok leaves →
      s.takeFirst (fieldLE raw 4 1) (if big then 32 else 1) leaves.length (hintOrder (fieldBits raw 1 0 2) (fieldBits raw 1 2 1)) = some (tt, fs, u) →
      ∃ t n o, exec .register s = .next t ∧ Tab.find t.objs n = some o ∧ o.ctx = fieldLE raw 4 1 ∧ o.tier = tt ∧ o.kind = 0 ∧
        o.pages = List.zipWith (fun l f => (l.1, f)) leaves fs ∧ o.hint = fieldBits raw 1 0 2 ∧ t.rd TIER_RING_HEAD = head ∧ t.tierCmd = none) ∧
    (∀ o : Obj, Tab.find s.objs id = some o →
      (k = 2 → o.kind = 0 → o.ctx = fieldLE raw 4 1 → o.move = none →
        ∃ t, exec .free s = .next t ∧ Tab.find t.objs id = none ∧ t.rd TIER_RING_HEAD = head ∧ t.tierCmd = none) ∧
      (k = 3 → fieldBits raw 1 0 2 ≠ 3 → o.hint ≠ 3 →
        ∃ t, exec .setHint s = .next t ∧ t.objs = Tab.put s.objs id { o with hint := fieldBits raw 1 0 2 } ∧
          t.rd TIER_RING_HEAD = head ∧ t.tierCmd = none) ∧
      (k = 4 → 1 ≤ fieldLE raw 5 1 → fieldLE raw 5 1 ≤ 3 → o.state ≠ 3 → o.state ≠ 4 → o.move = none → s.copyBusy o = false →
        fieldLE raw 5 1 ≠ o.tier →
        ∀ (fs : List Nat) (u : State), s.take o.ctx (fieldLE raw 5 1) o.pageFrames o.pages.length = some (fs, u) →
        ∃ t m, exec .move s = .next t ∧ (Tab.find t.objs id).bind (fun x => x.move) = some m ∧ m.tier = fieldLE raw 5 1 ∧ m.frames = fs ∧
          m.next = 0 ∧ t.rd TIER_RING_HEAD = s.rd TIER_RING_HEAD ∧ t.tierCmd = some raw) ∧
      (k = 5 → ∃ t, exec .touch s = .next t ∧ t.objs = Tab.put s.objs id { o with touched := max o.touched s.stroke } ∧
          t.rd TIER_RING_HEAD = head ∧ t.tierCmd = none ∧
          (∀ a, a < s.rd TIER_TABLE_BASE + id * 64 ∨ s.rd TIER_TABLE_BASE + id * 64 + 64 ≤ a → t.rdByte a = s.rdByte a)) ∧
      (k = 6 → ∃ t, exec .query s = .next t ∧ t.objs = s.objs ∧ t.rd TIER_RING_HEAD = head ∧ t.tierCmd = none ∧ s.sameStore t ∧
          s.sameRegsBut t [TIER_RING_HEAD.key 0 0]))

/-- Parts of R433, R435, R452. OBJECT_COPY, while moves run, of a moving object with a chunk of 64 KiB left to copy, where the old and the
new frame of the next chunk lie on this device outside an open lend window, and no checkpoint is ACTIVE: the new frame holds the bytes of
the old one, every other byte, every token and every register stays, one chunk more is copied, and the object's pages are as before.
OBJECT_SWITCH, while moves run, of a moving object whose chunks are all copied, whose frames lie on this device, to which no references
are held, of which no line was recorded since, which is neither a scale page nor a roster object, and for which no command and no further
move waits, with no checkpoint ACTIVE: the object has the new frames and the new tier, is in the state that its hint gives it there, and
moves no more, and no cached translation of its pages is left. WATCH_RECOPY of a stale slot with one source and one destination on this
device, for a COPY to one seat, outside the length table, with no checkpoint ACTIVE: the destination holds the bytes of the source, every
other byte and every token stays, the slot is no longer stale and has one retry more, and only TIER_PC_WATCH_REREAD may change among the
registers. -/
def Obligations.ObjectsAndStaleSlotsAreCopied : Prop :=
  (∀ (s : State) (id f g : Nat) (o : Obj) (m : ObjMove), s.railsUp = true → s.movesRun = true → Tab.find s.objs id = some o → o.move = some m →
    m.next < o.size → o.frames[m.next]? = some f → (o.newFrames m)[m.next]? = some g → f / 2 ^ 27 = s.dev → g / 2 ^ 27 = s.dev →
    s.rd MMU_CKPT_STAT_STATE ≠ 2 → s.lentAway s.dev (gpaLocal (g * 65536)) 65536 = false →
    ∃ t, exec (.objectCopy id) s = .next t ∧ s.stored t (gpaLocal (g * 65536)) (s.rdMem (gpaLocal (f * 65536)) 65536) ∧
      (∃ x y, Tab.find t.objs id = some x ∧ x.move = some y ∧ y.next = m.next + 1 ∧ x.pages = o.pages) ∧ s.sameToksBut t [] ∧
      s.sameRegsBut t []) ∧
  (∀ (s : State) (id : Nat) (o : Obj) (m : ObjMove), s.railsUp = true → s.movesRun = true → Tab.find s.objs id = some o → o.move = some m →
    o.size ≤ m.next → (∀ f, f ∈ o.frames → f / 2 ^ 27 = s.dev) → s.objRefs o = 0 → m.dirty = [] → s.tierCmd = none → m.after = none →
    s.rd MMU_CKPT_STAT_STATE ≠ 2 → o.kind ≠ 3 → o.members = [] →
    ∃ t, exec (.objectSwitch id) s = .next t ∧
      Tab.find t.objs id = some { o with pages := List.zipWith (fun p f => (p.1, f)) o.pages m.frames, tier := m.tier, state := restState o.hint m.tier, move := none } ∧
      (∀ e, e ∈ t.tlb → e.ctx = o.ctx → ∀ p, p ∈ o.pages → overlaps p.1 (o.pageFrames * 65536) e.va e.size = false)) ∧
  (∀ (s : State) (k a b n : Nat) (w : Watch), s.railsUp = true → Tab.find s.watches k = some w → w.stale = true → w.src = [(a, n)] →
     w.dst = [(gpaOf s.dev b, n)] → b < 2 ^ 43 → dKind w.raw ≠ 1 → dMcast w.raw = false → s.rd MMU_CKPT_STAT_STATE ≠ 2 → s.offLengths b n = true →
     ∃ t x, exec (.watchRecopy k) s = .next t ∧ s.stored t b (s.rdMem a n) ∧ Tab.find t.watches k = some x ∧ x.stale = false ∧
       x.retries = w.retries + 1 ∧ s.sameToksBut t [] ∧ s.sameRegsBut t [TIER_PC_WATCH_REREAD.key 0 0])

/-- Parts of R440, R442, R443, R783. LEND_ENABLE of a window that is not enabled: it is enabled and PREPARING (1). WINDOW_OPEN of a
PREPARING window in which no object has a frame: it is OPEN (2), and memory, tokens and every other register stay. LEASE_ENABLE of a lease
that is not enabled: it is enabled and ACTIVE (0), RECLAIM reads 0, and memory, tokens and every other register stay. RECLAIM of an
enabled lease that is ACTIVE: it is RECLAIMING (1), still enabled, and RECLAIM reads 1. LEASE_RETURNED of a RECLAIMING lease in which no
object has a frame: it is RETURNED (2), RECLAIM reads 0, and memory, tokens and every other register stay. -/
def Obligations.LeasesAndLendWindowsChangeState : Prop :=
  (∀ (s : State) (w : Nat), s.railsUp = true → w < 8 → s.is TIER_LEND_CTL_ENABLE 0 w = false →
    ∃ t, exec (.lendEnable w) s = .next t ∧ t.is TIER_LEND_CTL_ENABLE 0 w = true ∧ t.rd TIER_LEND_CTL_STATE 0 w = 1) ∧
  (∀ (s : State) (w : Nat), s.railsUp = true → w < 8 → s.rd TIER_LEND_CTL_STATE 0 w = 1 →
    (∀ o, o ∈ s.objs → o.2.inRange (s.lendFrames w) = false) →
    ∃ t, exec (.windowOpen w) s = .next t ∧ t.rd TIER_LEND_CTL_STATE 0 w = 2 ∧ s.sameStore t ∧
      s.sameRegsBut t [TIER_LEND_CTL_STATE.key 0 w]) ∧
  (∀ (s : State) (j : Nat), s.railsUp = true → j < 16 → s.is TIER_LEASE_CTL_ENABLE 0 j = false →
    ∃ t, exec (.leaseEnable j) s = .next t ∧ t.is TIER_LEASE_CTL_ENABLE 0 j = true ∧ t.rd TIER_LEASE_CTL_STATE 0 j = 0 ∧ s.sameStore t ∧
      t.is TIER_LEASE_CTL_RECLAIM 0 j = false ∧
      s.sameRegsBut t [TIER_LEASE_CTL_ENABLE.key 0 j, TIER_LEASE_CTL_STATE.key 0 j, TIER_LEASE_CTL_RECLAIM.key 0 j]) ∧
  (∀ (s : State) (j : Nat), s.railsUp = true → j < 16 → s.is TIER_LEASE_CTL_ENABLE 0 j = true → s.rd TIER_LEASE_CTL_STATE 0 j = 0 →
    ∃ t, exec (.reclaim j) s = .next t ∧ t.rd TIER_LEASE_CTL_STATE 0 j = 1 ∧ t.is TIER_LEASE_CTL_ENABLE 0 j = true ∧
      t.is TIER_LEASE_CTL_RECLAIM 0 j = true) ∧
  (∀ (s : State) (j : Nat), s.railsUp = true → j < 16 → s.rd TIER_LEASE_CTL_STATE 0 j = 1 →
    (∀ o, o ∈ s.objs → o.2.inRange (s.leaseFrames j) = false) →
    ∃ t, exec (.leaseReturned j) s = .next t ∧ t.rd TIER_LEASE_CTL_STATE 0 j = 2 ∧ t.is TIER_LEASE_CTL_RECLAIM 0 j = false ∧ s.sameStore t ∧
      s.sameRegsBut t [TIER_LEASE_CTL_STATE.key 0 j, TIER_LEASE_CTL_RECLAIM.key 0 j])

/-- Parts of R461, R468, R469, R470, R480, R481. WALK for an agent that may ask for a translation in an enabled context that is not lost,
with the main rails on. Where no cached translation covers the address and the walk ends at a leaf: a translation of the context with that
leaf and covering the address is in the device TLB, MMU_PC_WALKS has counted one, memory and tokens stay, and only DTLB_MISSES, WALK_READS
and WALKS may change among the registers. Where a cached translation covers the address: the TLB, memory, tokens and every register stay.
Where none covers it, the agent is a seat, the walk meets a page fault, and the fault ring is disabled: the seat is stalled, shows STATE 3
and the address, the TLB, memory and tokens stay, and the seat with its CMD_ID has joined the fault slot of the page, context and class if
there is one; if there is none and a slot is free, the lowest free slot holds the fault with that seat alone. -/
def Obligations.WalksFillTheTlb : Prop :=
  (∀ (s : State) (ag : Agent) (ctx va : Nat) (acc : Access) (e : Nat × Nat), s.railsUp = true → ctx < 64 → va < 2 ^ 49 → s.ctxOn ctx = true →
    s.lost.contains ctx = false → s.asks ag ctx = true →
    s.tlb.any (fun t => t.ctx == ctx && decide (t.va ≤ va) && decide (va < t.va + t.size)) = false → s.leafOf ctx va (acc != .read) = .ok e →
    ∃ t x, exec (.walk ag ctx va acc) s = .next t ∧ x ∈ t.tlb ∧ x.ctx = ctx ∧ x.va ≤ va ∧ va < x.va + x.size ∧ x.leaf = e.1 ∧
      t.rd MMU_PC_WALKS = (s.rd MMU_PC_WALKS + 1) % 2 ^ MMU_PC_WALKS.w ∧ s.sameStore t ∧
      s.sameRegsBut t [MMU_PC_DTLB_MISSES.key 0 0, MMU_PC_WALK_READS.key 0 0, MMU_PC_WALKS.key 0 0]) ∧
  (∀ (s : State) (ag : Agent) (ctx va : Nat) (acc : Access), s.railsUp = true → ctx < 64 → va < 2 ^ 49 → s.ctxOn ctx = true →
    s.lost.contains ctx = false → s.asks ag ctx = true →
    s.tlb.any (fun t => t.ctx == ctx && decide (t.va ≤ va) && decide (va < t.va + t.size)) = true →
    ∃ t, exec (.walk ag ctx va acc) s = .next t ∧ t.tlb = s.tlb ∧ s.sameStore t ∧ s.sameRegsBut t []) ∧
  (∀ (s : State) (i ctx va level : Nat) (acc : Access), s.railsUp = true → ctx < 64 → va < 2 ^ 49 → s.ctxOn ctx = true →
    s.lost.contains ctx = false → s.asks (.core i) ctx = true →
    s.tlb.any (fun t => t.ctx == ctx && decide (t.va ≤ va) && decide (va < t.va + t.size)) = false →
    s.leafOf ctx va (acc != .read) = .error (.pageFault va level (acc != .read)) → s.is MMU_FAULT_RING_CTL_ENABLE = false →
    ∃ t, exec (.walk (.core i) ctx va acc) s = .next t ∧ (t.core i).stalled = true ∧ t.rd CORE_STATE_STATE i = 3 ∧
      t.rd CORE_FAULT_ADDR i = va % 2 ^ CORE_FAULT_ADDR.w ∧ t.tlb = s.tlb ∧ s.sameStore t ∧
      (∀ n f, s.slots.find? (fun f => f.2.ctx == ctx && f.2.page == va / 65536 && f.2.write == (acc != .read)) = some (n, f) →
        ∃ g, Tab.find t.slots n = some g ∧ (Agent.core i, ((s.core i)).cmdId) ∈ g.agents ∧ g.ctx = f.ctx ∧ g.page = f.page) ∧
      (∀ n, s.slots.find? (fun f => f.2.ctx == ctx && f.2.page == va / 65536 && f.2.write == (acc != .read)) = none →
        (List.range 256).find? (fun n => (Tab.find s.slots n).isNone) = some n →
        ∃ g, Tab.find t.slots n = some g ∧ g.ctx = ctx ∧ g.page = va / 65536 ∧ g.agents = [(Agent.core i, (s.core i).cmdId)]))

/-- Parts of R480, R484, R485. RETRY or ABORT, with the main rails on, of a fault ID whose generation is the slot's and whose slot holds a
page fault: the state left is one in which the slot is free, every other slot stays, OUT_COUNT is one lower and nothing else among
registers, memory and tokens differs, after which each agent of the slot goes on (RETRY) or has its access ended with status 0x20 (ABORT),
and then the agents without a slot try again. RETRY or ABORT of another generation: the slots, memory and tokens stay, and
MMU_PC_STALE_RESUME has counted one and is the only register that changes. RETRY_CONTEXT or ABORT_CONTEXT where the one slot in use holds
a page fault of the context whose only agent is a DMA channel, and no agent is without a slot: no slot is in use, the channel is not
paused, after ABORT_CONTEXT it holds error 0x20, and memory and tokens stay. -/
def Obligations.FaultSlotsAreResumed : Prop :=
  (∀ (s : State) (id : Nat) (f : FaultSlot) (c : Instr) (g : State → Agent × Nat → State), s.railsUp = true →
    Tab.look s.slotGen (id % 256) 0 = id / 256 % 256 → Tab.find s.slots (id % 256) = some f → f.status ≠ stLost →
    (c = .retry id ∧ g = (fun t a => t.wakeAgent a.1) ∨ c = .abort id ∧ g = (fun t a => t.abortAgent f.ctx f.va 0x20 a)) →
    ∃ u, exec c s = .next (s.commit (f.agents.foldl g u).retrySlotless) ∧ Tab.find u.slots (id % 256) = none ∧
      (∀ n, n ≠ id % 256 → Tab.find u.slots n = Tab.find s.slots n) ∧
      u.rd MMU_FAULT_OUT_COUNT = (s.rd MMU_FAULT_OUT_COUNT - 1) % 2 ^ MMU_FAULT_OUT_COUNT.w ∧ s.sameStore u ∧
      s.sameRegsBut u [MMU_FAULT_OUT_COUNT.key 0 0]) ∧
  (∀ (s : State) (id : Nat) (c : Instr), s.railsUp = true → Tab.look s.slotGen (id % 256) 0 ≠ id / 256 % 256 → (c = .retry id ∨ c = .abort id) →
    ∃ t, exec c s = .next t ∧ t.slots = s.slots ∧ t.rd MMU_PC_STALE_RESUME = (s.rd MMU_PC_STALE_RESUME + 1) % 2 ^ MMU_PC_STALE_RESUME.w ∧
      s.sameStore t ∧ s.sameRegsBut t [MMU_PC_STALE_RESUME.key 0 0]) ∧
  (∀ (s : State) (ctx n e ch id : Nat) (f : FaultSlot) (c : Instr), s.railsUp = true → ctx < 64 → s.slotless = [] → s.slots = [(n, f)] → f.ctx = ctx → f.status ≠ stLost →
    f.agents = [(.chan e ch, id)] → (c = .retryContext ctx ∨ c = .abortContext ctx) →
    ∃ t, exec c s = .next t ∧ t.slots = [] ∧ (t.chan e ch).paused = false ∧ (c = .abortContext ctx → (t.chan e ch).error = some 0x20) ∧
      s.sameStore t)

/-- Parts of R471, R483, R783. INVALIDATION while none is in progress: exactly the cached translations outside its scope are left, GO and
BUSY read 1, and memory, tokens and every other register stay. INVALIDATION_COMPLETE while BUSY is set and no operation that may have used
a dropped translation is outstanding: BUSY and GO read 0, and the cached translations, memory, tokens and every other register stay.
FAULT_RING_FLUSH in ROW, with the ring ready (enabled, without error, not full), OVERFLOW set and every slot in use reported and holding a
page fault: OVERFLOW reads 0, and the slots, memory, tokens and every other register stay. -/
def Obligations.InvalidationsAndTheFaultRing : Prop :=
  (∀ s : State, s.railsUp = true → s.is MMU_INVAL_CTL_BUSY = false →
    ∃ t, exec .invalidation s = .next t ∧ (∀ e, e ∈ t.tlb ↔ e ∈ s.tlb ∧ s.inScope e = false) ∧ t.is MMU_INVAL_CTL_BUSY = true ∧
      t.is MMU_INVAL_CTL_GO = true ∧ s.sameStore t ∧
      s.sameRegsBut t [MMU_INVAL_CTL_BUSY.key 0 0, MMU_INVAL_CTL_GO.key 0 0]) ∧
  (∀ s : State, s.railsUp = true → s.is MMU_INVAL_CTL_BUSY = true → s.invalWaits = false →
    ∃ t, exec .invalidationComplete s = .next t ∧ t.is MMU_INVAL_CTL_BUSY = false ∧ t.is MMU_INVAL_CTL_GO = false ∧ t.tlb = s.tlb ∧ s.sameStore t ∧
      s.sameRegsBut t [MMU_INVAL_CTL_BUSY.key 0 0, MMU_INVAL_CTL_GO.key 0 0]) ∧
  (∀ (s : State), s.rd PWR_STAT_STATE = 0 → s.ringReady = true → s.is MMU_FAULT_OUT_OVERFLOW = true → (∀ f, f ∈ s.slots → f.2.reported = true ∧ f.2.status ≠ stLost) →
    ∃ t, exec .faultRingFlush s = .next t ∧ t.is MMU_FAULT_OUT_OVERFLOW = false ∧ t.slots = s.slots ∧ s.sameStore t ∧
      s.sameRegsBut t [MMU_FAULT_OUT_OVERFLOW.key 0 0])

/-- Parts of R490, R491, R494, R495, R496, R636. ARM in IDLE, with the main rails on. In a stroke before that of MMU_CKPT_AT and not in
STOPPED: STATE is ARMED (1), ARM reads 1 (the model's choice, log 19), and memory, tokens and every other register stay. In STOPPED: STATE
is ACTIVE (2), ARM reads 0, no frame is held, and the area is the one selected. CANCEL: ARM reads 0; from ARMED or BROKEN the unit is IDLE
(0) and memory and tokens stay; from ACTIVE it is BROKEN (3). FRAME_COPY in ACTIVE of a protected frame, while the area has a free slot:
the frame is the last of those held, FRAMES counts them, and the unit is still ACTIVE. CHECKPOINT_SCAN in ACTIVE while recovery work may
run: where a frame is still protected and the area has a free slot, the lowest such frame is the last of those held and the unit is still
ACTIVE; where none is protected, the unit is IDLE with DONE and the frames held stay. -/
def Obligations.CheckpointUnitStates : Prop :=
  (∀ s : State, s.railsUp = true → s.rd MMU_CKPT_STAT_STATE = 0 → s.stkState ≠ 0 → s.stroke < s.rd MMU_CKPT_AT →
    ∃ t, exec .arm s = .next t ∧ t.rd MMU_CKPT_STAT_STATE = 1 ∧ t.is MMU_CKPT_CTL_ARM = true ∧ s.sameStore t ∧
      s.sameRegsBut t [MMU_CKPT_STAT_STATE.key 0 0, MMU_CKPT_CTL_ARM.key 0 0]) ∧
  (∀ s : State, s.railsUp = true → s.rd MMU_CKPT_STAT_STATE = 0 → s.stkState = 0 →
    ∃ t, exec .arm s = .next t ∧ t.rd MMU_CKPT_STAT_STATE = 2 ∧ t.is MMU_CKPT_CTL_ARM = false ∧ t.ckptFrames = [] ∧
      t.rd TIER_CKPT_STAT_AREA = s.rd TIER_CKPT_CTL_SELECT % 2 ^ TIER_CKPT_STAT_AREA.w) ∧
  (∀ s : State, s.railsUp = true →
    ∃ t, exec .cancel s = .next t ∧ t.is MMU_CKPT_CTL_ARM = false ∧
      (s.rd MMU_CKPT_STAT_STATE = 1 ∨ s.rd MMU_CKPT_STAT_STATE = 3 → t.rd MMU_CKPT_STAT_STATE = 0 ∧ s.sameStore t) ∧
      (s.rd MMU_CKPT_STAT_STATE = 2 → t.rd MMU_CKPT_STAT_STATE = 3)) ∧
  (∀ (s : State) (f : Nat), s.railsUp = true → s.rd MMU_CKPT_STAT_STATE = 2 → s.frameSet f = true →
    s.ckptFrames.length < s.areaSlots (s.rd TIER_CKPT_STAT_AREA) →
    ∃ t, exec (.frameCopy f) s = .next t ∧ t.ckptFrames = s.ckptFrames ++ [f] ∧ t.rd MMU_CKPT_STAT_STATE = 2 ∧
      t.rd TIER_CKPT_FRAMES_COUNT = (s.ckptFrames.length + 1) % 2 ^ TIER_CKPT_FRAMES_COUNT.w) ∧
  (∀ (s : State) (f : Nat) (rest : List Nat), s.railsUp = true → s.rd MMU_CKPT_STAT_STATE = 2 → s.inRecovery = true →
    s.setFrames = f :: rest → s.ckptFrames.length < s.areaSlots (s.rd TIER_CKPT_STAT_AREA) →
    ∃ t, exec .checkpointScan s = .next t ∧ t.ckptFrames = s.ckptFrames ++ [f] ∧ t.rd MMU_CKPT_STAT_STATE = 2) ∧
  (∀ s : State, s.railsUp = true → s.rd MMU_CKPT_STAT_STATE = 2 → s.inRecovery = true → s.setFrames = [] →
    ∃ t, exec .checkpointScan s = .next t ∧ t.rd MMU_CKPT_STAT_STATE = 0 ∧ t.is MMU_CKPT_STAT_DONE = true ∧ t.ckptFrames = s.ckptFrames)

/-- Parts of R579, R580, R581, R582, R583, R584, R585. On a front device with the main rails on and the interface enabled, for a function
below 64, with no other access of the host waiting. BAR2_READ of 1 to 4096 bytes within BAR2, of an enabled context, whose bytes at its
aperture lie in one packet on this device and can be read: the host gets exactly those bytes, nothing waits, memory and tokens stay, and
only the two byte counts change. BAR2_WRITE of 1 to 4096 bytes, neither poisoned nor empty, whose bytes lie in one packet of plain
writable HBM or LPD on this device, outside the length table, that does not wait for its controller: the bytes are stored and every other
byte and token stays, nothing waits, no failure is noted, and only the byte counts change. DOORBELL to a valid doorbell k below 16 bound
to a token of this device, of a nonzero 32-bit value, for a function none of whose posted writes has failed since: the token has grown by
the value, every other token and memory stay, nothing waits. DOORBELL of a function one of whose posted writes has failed since: the
failure is taken, DOORBELL_DROP is set, the discarded write is counted, memory and tokens stay. RD_LIMIT_EXPIRY of the one access that
waits, a read: the host gets Completer Abort, nothing waits, the clock has reached the limit, and memory, tokens and every register but
LOG_DROPPED stay. -/
def Obligations.HostAccessesReachTheirContext : Prop :=
  ∀ (s : State) (f o : Nat), s.railsUp = true → s.front = true → f < 64 → s.blk .hif = 1 → s.barWaits = [] →
    (∀ (n : Nat) (p : RemPart) (d : List Byte), 0 < n → n ≤ 4096 → o + n ≤ bar2Size f → s.ctxOn f = true →
      s.partsOf f (s.rd CTX_APERTURE f + o) n .read = .ok [p] → p.off = 0 → p.n = n → s.isHere p = true →
      s.readGpa .host f p.gpa n = .ok d → d.length = n →
      ∃ t, exec (.bar2Read f o n) s = .next t ∧ t.hostOut = s.hostOut ++ [HostOut.completion f o d] ∧ t.barWaits = [] ∧ s.sameStore t ∧
        s.sameRegsBut t [HIF_PC_TX_BYTES.key 0 0, CTX_ACC_HOST.key f 0]) ∧
    (∀ (data : List Byte) (p : RemPart), data ≠ [] → data.length ≤ 4096 → o + data.length ≤ bar2Size f →
      let u := (s.bump HIF_PC_RX_BYTES data.length).bump CTX_ACC_HOST data.length f
      u.ctxOn f = true → u.partsOf f (u.rd CTX_APERTURE f + o) data.length .write = .ok [p] → p.off = 0 → p.n = data.length → p.wop = 0 →
      u.isHere p = true → u.partOk f .put p = true → u.partWaits p = false →
      (regionOf (gpaLocal p.gpa)).1 = .hbm ∨ (regionOf (gpaLocal p.gpa)).1 = .lpd → s.offLengths (gpaLocal p.gpa) data.length = true →
      ∃ t, exec (.bar2Write f o data false) s = .next t ∧ s.stored t (gpaLocal p.gpa) data ∧ t.barWaits = [] ∧ t.barFailed = s.barFailed ∧
        s.sameToksBut t [] ∧
        s.sameRegsBut t [HIF_PC_RX_BYTES.key 0 0, CTX_ACC_HOST.key f 0, CTX_ACC_HBM.key f 0, CTX_ACC_LPD.key f 0]) ∧
    (∀ (k v g : Nat), k < 16 → v ≠ 0 → v < 2 ^ 32 → s.is CTX_DOORBELL_VALID f k = true → s.rd CTX_DOORBELL_ADDR f k * 4 = g →
      s.barFailed.contains f = false → gpaDev g = s.dev → (regionOf (gpaLocal g)).1 = .tokens →
      ((s.bump HIF_PC_RX_BYTES 4).bump CTX_ACC_HOST 4 f).checkLocal s.dev f (gpaLocal g) 4 .atomic = .ok () →
      ∃ t, exec (.doorbell f k v) s = .next t ∧ t.tok (tokOfAddr (gpaLocal g)) = s.tok (tokOfAddr (gpaLocal g)) + BitVec.ofNat 32 v ∧
        s.sameToksBut t [tokOfAddr (gpaLocal g)] ∧ s.stored t 0 [] ∧ t.barWaits = []) ∧
    (∀ (k v : Nat), k < bellWords f → v < 2 ^ 64 → s.barFailed.contains f = true →
      ∃ t, exec (.doorbell f k v) s = .next t ∧ t.barFailed.contains f = false ∧ t.is CTX_STAT_DOORBELL_DROP f = true ∧
        t.rd HIF_PC_DOORBELL_DROPS = (s.rd HIF_PC_DOORBELL_DROPS + 1) % 2 ^ HIF_PC_DOORBELL_DROPS.w ∧ s.sameStore t) ∧
    (∀ (tag : Nat) (w : BarWait) (v : State), v = { s with barWaits := [(tag, w)] } → w.kind = 0 →
      ∃ t, exec (.rdLimitExpiry tag) v = .next t ∧ t.hostOut = s.hostOut ++ [HostOut.abort w.func w.addr] ∧ t.barWaits = [] ∧
        t.clock = max s.clock w.due ∧ s.sameStore t ∧ s.sameRegsBut t [LOG_DROPPED.key 0 0])

/-- Parts of R577, R591. For a read of host memory that an agent of this device has outstanding and no other seat shares, with the main
rails on. HOST_COMPLETION with as many bytes as were asked for, without error: the read is gone, its bytes have arrived for the agent at
their address, the received bytes are counted, memory and tokens stay; then the seats that can go on do, and the waiting accesses of the
host. COMPLETION_TIMEOUT: the read is gone, nothing has arrived, CPL_TIMEOUT is set and no other register changes, AER reports it, the
clock has reached the read's limit, memory and tokens stay; then the seats and the waiting accesses of the host go on. -/
def Obligations.DeviceReadsOfHostMemoryEnd : Prop :=
  ∀ (s : State) (tag : Nat) (r : HostRead) (ag : Agent), s.railsUp = true → Tab.find s.hostReads tag = some r → r.packet = none →
    r.agent = some ag → (∀ m, m ∈ s.mcast → Agent.core m.2 ≠ ag) →
    (∀ data : List Byte, data.length = r.len →
      ∃ u : State, exec (.hostCompletion tag stSuccess data) s = .next (s.commit (u.wakeCores.pumpBars)) ∧
        u.hostReads = Tab.del s.hostReads tag ∧
        u.arrived = addArrived s.arrived { agent := ag, addr := gpaOf s.dev r.addr, data := data } ∧
        u.rd HIF_PC_RX_BYTES = (s.rd HIF_PC_RX_BYTES + data.length) % 2 ^ HIF_PC_RX_BYTES.w ∧ s.sameStore u) ∧
    (∃ u : State, exec (.completionTimeout tag) s = .next (s.commit (u.wakeCores.pumpBars)) ∧ u.hostReads = Tab.del s.hostReads tag ∧
      u.arrived = s.arrived ∧ u.is HIF_ERR_CPL_TIMEOUT = true ∧ u.hostOut = s.hostOut ++ [HostOut.aer 0] ∧ u.clock = max s.clock r.due ∧
      s.sameStore u ∧ s.sameRegsBut u [HIF_ERR_CPL_TIMEOUT.key 0 0])

/-- Parts of R577, R578, R591, R592, R667. PCIE_LINK_UP, outside PERST#, of a device that is no front device and whose host interface is
no retired item, at speed 5 without flits or 6 with them and width 8 or 16: it is a front device that shows speed and width, and memory,
tokens and every register but those of the link stay. LINK_DOWN of a front device with no packet waiting for host memory: it is none any
more, LINK_DOWN is set, no read of host memory and no access of the host is left, memory and tokens stay. FUNCTION_LEVEL_RESET of a
virtual function of a front device whose context is enabled or draining: the context is draining with FORCE_OFF set. PERST_ASSERT with the
standby supply, while no transfer of the management controller waits: PERST# is asserted; off a front device nothing else changes; on one,
in ROW or EASY with no commit in progress, the stroke unit and the coxes are at their reset, no access of the host waits, and the reset
cause shows a warm reset. PERST_DEASSERT: PERST# is not asserted, and memory, tokens and every register stay. -/
def Obligations.ThePcieLinkComesAndGoes : Prop :=
  (∀ (s : State) (width : Nat) (speed : Nat) (flit : Bool), s.railsUp = true → s.pwr.perst = false → s.front = false →
    s.groupHeld .hif 0 = false → (speed = 5 ∧ flit = false ∨ speed = 6 ∧ flit = true) → (width = 8 ∨ width = 16) →
    ∃ t, exec (.pcieLinkUp speed width flit) s = .next t ∧ t.front = true ∧ t.rd HIF_LINK_STAT_SPEED = speed % 2 ^ HIF_LINK_STAT_SPEED.w ∧
      t.rd HIF_LINK_STAT_WIDTH = width % 2 ^ HIF_LINK_STAT_WIDTH.w ∧ s.sameStore t ∧
      s.sameRegsBut t [HIF_LINK_STAT_FRONT.key 0 0, HIF_LINK_STAT_SPEED.key 0 0, HIF_LINK_STAT_WIDTH.key 0 0, HIF_LINK_STAT_FLIT.key 0 0]) ∧
  (∀ s : State, s.railsUp = true → s.front = true → (∀ r, r ∈ s.hostReads → r.2.packet = none) →
    ∃ t, exec .linkDown s = .next t ∧ t.front = false ∧ t.is HIF_ERR_LINK_DOWN = true ∧ t.hostReads = [] ∧ t.barWaits = [] ∧ s.sameStore t) ∧
  (∀ (s : State) (f : Nat), s.railsUp = true → s.front = true → f < 64 → f ≠ 0 → (s.blk .ctx f = 1 ∨ s.blk .ctx f = 2) →
    ∃ t, exec (.functionLevelReset f) s = .next t ∧ t.blk .ctx f = 2 ∧ t.is (BLK_CTL_FORCE_OFF .ctx) f = true) ∧
  (∀ s : State, s.pwr.standby = true → s.pwr.perst = false → s.i3c.waiting = none →
    ∃ t, exec .perstAssert s = .next t ∧ t.pwr.perst = true ∧ (s.front = false → s.sameStore t ∧ s.sameRegsBut t [] ∧ t.stk = s.stk) ∧
      (s.front = true → s.is PWR_RET_STAT_BUSY = false → s.rd PWR_STAT_STATE ≤ 1 → t.stk = default ∧ t.coxes = [] ∧ t.barWaits = [] ∧
        t.rd PWR_RESET_CAUSE_KIND = 2)) ∧
  (∀ s : State, s.pwr.perst = true → ∃ t, exec .perstDeassert s = .next t ∧ t.pwr = { s.pwr with perst := false } ∧ s.sameStore t ∧
    s.sameRegsBut t [])

/-- Parts of R598, R599, R600, R601, R602, R603. TASK_PLACEMENT in ROW, while no context drains and no ring's head meets a stop, where the
one work that waits is a well-formed task at the head of a ring and a seat can take it, whose first command can be read and has a seat
opcode: the seat holds the task's block, of its context, first command, count, place 0 and descriptor, and has that command fetched, not
started; HEAD has moved on by 1, the seat shows it as running, memory and tokens stay, and only HEAD and the seat's shown command may
change among the registers. TASK_COMPLETE of a task that has ended successfully without flags, asks for no message, record or increment,
whose write-back may be written, with no fault of the task unit outstanding or aborted, and whose context is not being pre-empted and has
nothing saved: the state is that after the write-back (OWNER 0, the status, 0 for the failing command), but that the seat is free and
shows STATE 0; memory, tokens and every register but the seat's shown command are as after the write-back. -/
def Obligations.TasksRunOnFreeSeats : Prop :=
  (∀ (s : State) (ctx i : Nat) (d raw : List Byte), s.rd PWR_STAT_STATE = 0 → (∀ c e, c < 64 → s.blk .ctx c ≠ 2 ∧ s.ringTask c ≠ some (.error e)) →
     s.waiting = [.ring ctx d] → taskOk d = true → s.seatFor (.ring ctx d) = some i → (s.core i).out = 0 → (s.core i).error = none →
     ({ s.bump CTX_TASK_HEAD 1 ctx with self := some i } : State).readV (.core i) ctx (fieldLE d 16 8) 128 = .ok raw →
     seatOpcode (fieldLE raw 0 1) = true →
     ∃ t b, exec .taskPlacement s = .next t ∧ (t.core i).block = some b ∧ b.kind = 2 ∧ b.ctx = ctx ∧ b.addr = fieldLE d 16 8 ∧
       b.count = fieldLE d 8 4 ∧ b.pos = 0 ∧ b.task = (d, s.taskNext ctx) ∧ (t.core i).next = some raw ∧ (t.core i).run = none ∧
       t.rd CTX_TASK_HEAD ctx = (s.rd CTX_TASK_HEAD ctx + 1) % 2 ^ CTX_TASK_HEAD.w ∧ t.rd CORE_STATE_STATE i = (if s.stkState = 3 then 4 else 1) ∧ s.sameStore t ∧
       s.sameRegsBut t [CTX_TASK_HEAD.key ctx 0, CORE_STATE_STATE.key i 0, CORE_STATE_OPCODE.key i 0, CORE_STATE_CMD_INDEX.key i 0,
         CORE_CMD_ADDR.key i 0]) ∧
  (∀ (s u : State) (i st : Nat) (b : Block), s.railsUp = true → i < 144 → s.taskEnded i = true → (s.core i).block = some b → b.cue ≠ 1 →
     (s.core i).error = some st → statusOk st = true → b.flags = 0 → bitOf (fieldLE b.task.1 0 1) 1 = false → fieldLE b.task.1 24 8 = 0 →
     fieldLE b.task.1 32 8 = 0 → s.rosAborted = [] → s.faultHeld (fun _ a => a.1 == .tasks) = false →
     s.checkWrites b.ctx (taskBack b.task.2 b.task.1 st 0 false) = .ok () →
     u = s.writeAll .message b.ctx false (taskBack b.task.2 b.task.1 st 0 false) → u.saved = [] → u.rd CTX_STAT_STATE b.ctx ≠ 2 →
     ∃ t, exec (.taskComplete i) s = .next t ∧ t.core i = default ∧ u.sameStore t ∧ t.rd CORE_STATE_STATE i = 0 ∧
       u.sameRegsBut t [CORE_STATE_STATE.key i 0, CORE_STATE_OPCODE.key i 0, CORE_STATE_CMD_INDEX.key i 0, CORE_STEPS_LEFT.key i 0])

/-- Parts of R143, R174, R597, R605, R606, R607, R608, R609, R614, R615. SAVE_COMPLETE of a step save of a seat with nothing outstanding
and a command in progress, whose live-map entry need not come from another device, while nothing is poisoned, the context is not being
pre-empted and has a free seat slot: one save more is held, with the context, the lowest free slot, the seat's logical index, the block
and the command as they were; the seat is free, and shows STATE 5 where it then holds saved scheduled work, else 0. RESTORE_COMPLETE of a
seat that restores a save with a command in progress, none of whose granules is still to come from another device, while nothing is
poisoned: the seat holds what was saved, held while in HOLDING; the save is gone; STATE and STEPS_LEFT show where the command stopped.
PREEMPT of a running context (STATE 1), while nothing is saved, no seat holds a block and no channel has work: STATE is 3, PREEMPT reads
0, memory and tokens stay. PREEMPT of a context in another state: CFG_ERR, and the state, the seats, memory, tokens and every other
register but BLK_INT_STAT stay. CTX_RESUME of a pre-empted context (3) while nothing is saved: STATE is 1, RESUME reads 0, memory and
tokens stay. ACC_CLEAR: every accounting register of the context reads 0; memory, tokens and every other register stay. -/
def Obligations.WorkIsSavedAndContextsResume : Prop :=
  (∀ (s : State) (i k : Nat) (b : Block) (r : Run), s.railsUp = true → i < 144 → (s.core i).block = some b → (s.core i).saving = 1 → (s.core i).out = 0 →
    (s.core i).run = some r → s.liveNeed b.ctx r.raw = none → s.poison = [] → s.rd CTX_STAT_STATE b.ctx ≠ 2 →
    freeSlotIn ((s.saved.filter (fun a => a.2.ctx == b.ctx)).map (fun a => a.2.slot)) (s.rd CTX_WINGS_CFG_SEAT_SLOTS b.ctx) = some k →
    ∃ t v, exec (.saveComplete i) s = .next t ∧ t.saved = s.saved ++ [(s.nextSave, v)] ∧ v.ctx = b.ctx ∧ v.slot = k ∧ v.home = s.homeOf i ∧
      v.boundary = false ∧ v.what.block = some b ∧ v.what.run = some r ∧ v.what.saving = 0 ∧ t.core i = default ∧
      t.rd CORE_STATE_STATE i = (if t.holdsSaved i then 5 else 0)) ∧
  (∀ (s : State) (i key : Nat) (a : Saved) (b : Block) (r : Run), s.railsUp = true → i < 144 → (s.core i).saving = 3 → (s.core i).wait = some (key, 0) →
    Tab.find s.saved key = some a → a.what.block = some b → a.what.run = some r → s.poison = [] →
    s.granulesWanted a.ctx (seatSlotOff a.slot + 4096) 32768 (s.savedMask a) 96 = [] →
    ∃ t, exec (.restoreComplete i) s = .next t ∧ t.core i = { a.what with held := s.stkState == 3 } ∧
      t.saved = s.saved.filter (fun e => e.1 != key) ∧
      t.rd CORE_STATE_STATE i = (if s.stkState = 3 then 4 else if a.what.stalled then 3 else if a.what.wait.isSome then 2 else 1) ∧
      t.rd CORE_STEPS_LEFT i = (r.steps - r.step) % 2 ^ CORE_STEPS_LEFT.w) ∧
  (∀ (s : State) (ctx : Nat), s.railsUp = true → ctx < 64 →
     (s.rd CTX_STAT_STATE ctx = 1 → s.saved = [] → (∀ p, p ∈ s.cores → p.2.block = none) → s.chans = [] →
       ∃ t, exec (.preempt ctx) s = .next t ∧ t.rd CTX_STAT_STATE ctx = 3 ∧ t.is CTX_CTL_PREEMPT ctx = false ∧ s.sameStore t ∧
         s.sameRegsBut t [CTX_STAT_STATE.key ctx 0, CTX_CTL_PREEMPT.key ctx 0, CTX_CTL_RESUME.key ctx 0, CTX_STAT_SEAT_SLOTS_USED.key ctx 0,
           CTX_STAT_CREW_SLOTS_USED.key ctx 0]) ∧
     (s.rd CTX_STAT_STATE ctx ≠ 1 →
       ∃ t, exec (.preempt ctx) s = .next t ∧ t.is (BLK_STAT_CFG_ERR .ctx) ctx = true ∧ t.rd CTX_STAT_STATE ctx = s.rd CTX_STAT_STATE ctx ∧
         t.cores = s.cores ∧ s.sameStore t ∧ s.sameRegsBut t [(BLK_STAT_CFG_ERR .ctx).key ctx 0, (BLK_INT_STAT .ctx).key ctx 0]) ∧
     (s.rd CTX_STAT_STATE ctx = 3 → s.saved = [] → s.crewSaves = [] →
       ∃ t, exec (.ctxResume ctx) s = .next t ∧ t.rd CTX_STAT_STATE ctx = 1 ∧ t.is CTX_CTL_RESUME ctx = false ∧ s.sameStore t ∧
         s.sameRegsBut t [CTX_STAT_STATE.key ctx 0, CTX_CTL_PREEMPT.key ctx 0, CTX_CTL_RESUME.key ctx 0, CTX_STAT_SEAT_SLOTS_USED.key ctx 0,
           CTX_STAT_CREW_SLOTS_USED.key ctx 0]) ∧
     (∃ t, exec (.accClear ctx) s = .next t ∧ t.rd CTX_ACC_HBM ctx = 0 ∧ t.rd CTX_ACC_LPD ctx = 0 ∧ t.rd CTX_ACC_HOST ctx = 0 ∧
       t.rd CTX_ACC_CYCLES ctx = 0 ∧ t.rd CTX_ACC_ENERGY ctx = 0 ∧ t.rd CTX_ACC_NBR ctx = 0 ∧ (∀ p, p < 16 → t.rd CTX_ACC_PORT ctx p = 0) ∧
       s.sameStore t ∧
       s.sameRegsBut t ([CTX_ACC_CYCLES.key ctx 0, CTX_ACC_ENERGY.key ctx 0, CTX_ACC_HBM.key ctx 0, CTX_ACC_LPD.key ctx 0,
         CTX_ACC_NBR.key ctx 0, CTX_ACC_HOST.key ctx 0] ++ (List.range 16).map (fun p => CTX_ACC_PORT.key ctx p))))

/-- Parts of R542, R593, R700, R716, R717, R718, R720, R731, R783. For every page and number of a block, with the main rails on. ENABLE of
a disabled block that is no retired item and not under test: a block other than a context is enabled and memory and tokens stay, a port
trains, any other changes no other register; a context without a cause of refusal is enabled and runs; one with a cause shows ENABLE_ERR
and the cause and changes no other register. DISABLE_REQ of an enabled block: it drains and DISABLE_REQ reads 1, memory and tokens stay (a
cox with DRAIN_MODE or without a sheet, a core that runs a command while no tile waits, a context with DRAIN_MODE while no cox has a
sheet; else any block but these). FORCE_OFF of an enabled or draining block of which nothing is outstanding, but a context, cox or core:
it drains, FORCE_OFF reads 1, memory and tokens stay. DISABLE_REQ of a block not enabled and FORCE_OFF of one neither enabled nor draining
change neither memory, tokens nor a register. DRAIN_END of a draining block of which nothing is outstanding (for a context, no fault; for
a core, no waiting tile): it is disabled with the cause STATE, both requests read 0, memory and tokens stay. SOFT_RESET of a disabled
block: it is off, SOFT_RESET is set, and the stroke unit, cox, core, port, roster requests, translations, fault slots, objects or tier
command of its page are as after reset; of any other block: CFG_ERR, and nothing else but BLK_INT_STAT changes. RESET_COMPLETE of a block
that is off: it is disabled, SOFT_RESET is clear, memory, tokens and every other register stay. -/
def Obligations.BlocksGoThroughTheirStates : Prop :=
  ∀ (s : State) (p : Page) (i : Nat), s.railsUp = true → i < p.count →
    (s.blk p i = 3 → s.groupHeld p i = false → s.testing p i = false →
      (p ≠ .ctx → ∃ t, exec (.enable p i) s = .next t ∧ t.blk p i = 1 ∧ s.sameStore t ∧ (p = .lnk → t.rd LNK_STAT_STATE i = 1) ∧
        (p ≠ .lnk → s.sameRegsBut t [(BLK_STAT_STATE p).key i 0])) ∧
      (p = .ctx → s.enableCause i (Config.vfEnabled i) = none →
        ∃ t, exec (.enable p i) s = .next t ∧ t.blk p i = 1 ∧ t.rd CTX_STAT_STATE i = 1 ∧ s.sameStore t) ∧
      (∀ k, p = .ctx → s.enableCause i (Config.vfEnabled i) = some k →
        ∃ t, exec (.enable p i) s = .next t ∧ t.is CTX_STAT_ENABLE_ERR i = true ∧
          t.rd CTX_STAT_ERR_CAUSE i = k % 2 ^ CTX_STAT_ERR_CAUSE.w ∧ s.sameStore t ∧
          s.sameRegsBut t [CTX_STAT_ENABLE_ERR.key i 0, CTX_STAT_ERR_CAUSE.key i 0])) ∧
    (s.blk p i = 1 →
      (p ≠ .ctx → p ≠ .cdm → p ≠ .hdm → p ≠ .cox → p ≠ .core →
        ∃ t, exec (.disableReq p i) s = .next t ∧ t.blk p i = 2 ∧ t.is (BLK_CTL_DISABLE_REQ p) i = true ∧ s.sameStore t ∧
          s.sameRegsBut t [(BLK_STAT_STATE p).key i 0, (BLK_CTL_DISABLE_REQ p).key i 0]) ∧
      (p = .cdm ∨ p = .hdm ∨ p = .cox ∧ (s.is (BLK_CTL_DRAIN_MODE .cox) i = true ∨ (s.cox i).cur = none) ∨
          p = .core ∧ (s.core i).run.isSome = true ∧ (s.cox (i / 9)).tiles = [] ∨
          p = .ctx ∧ s.is (BLK_CTL_DRAIN_MODE .ctx) i = true ∧ ∀ c, c < 16 → (s.cox c).cur = none →
        ∃ t, exec (.disableReq p i) s = .next t ∧ t.blk p i = 2 ∧ t.is (BLK_CTL_DISABLE_REQ p) i = true ∧ s.sameStore t)) ∧
    (s.blk p i = 1 ∨ s.blk p i = 2 → s.quiet p i = true → p ≠ .ctx → p ≠ .cox → p ≠ .core →
      ∃ t, exec (.forceOff p i) s = .next t ∧ t.blk p i = 2 ∧ t.is (BLK_CTL_FORCE_OFF p) i = true ∧ s.sameStore t) ∧
    (s.blk p i ≠ 1 →
      (∃ t, exec (.disableReq p i) s = .next t ∧ s.sameStore t ∧ s.sameRegsBut t []) ∧
      (s.blk p i ≠ 2 → ∃ t, exec (.forceOff p i) s = .next t ∧ s.sameStore t ∧ s.sameRegsBut t [])) ∧
    (s.blk p i = 2 → s.quiet p i = true → (p = .ctx → s.slots = [] ∧ s.slotless = []) → (p = .core → (s.cox (i / 9)).tiles = []) →
      ∃ t, exec (.drainEnd p i) s = .next t ∧ t.blk p i = 3 ∧ bitOf (t.rd (BLK_INT_STAT p) i) 3 = true ∧
        t.is (BLK_CTL_DISABLE_REQ p) i = false ∧ t.is (BLK_CTL_FORCE_OFF p) i = false ∧ s.sameStore t) ∧
    (s.blk p i = 3 →
      ∃ t, exec (.softReset p i) s = .next t ∧ t.blk p i = 0 ∧ t.is (BLK_CTL_SOFT_RESET p) i = true ∧ (p = .stk → t.stk = default) ∧ (p = .cox → t.cox i = default) ∧
        (p = .core → t.core i = default) ∧ (p = .lnk → t.port i = default) ∧ (p = .ros → t.rosReqs = []) ∧
        (p = .mmu → t.tlb = [] ∧ t.slots = []) ∧ (p = .tier → t.objs = [] ∧ t.tierCmd = none)) ∧
    (s.blk p i ≠ 3 →
      ∃ t, exec (.softReset p i) s = .next t ∧ t.is (BLK_STAT_CFG_ERR p) i = true ∧ t.blk p i = s.blk p i ∧ s.sameStore t ∧
        s.sameRegsBut t [(BLK_STAT_CFG_ERR p).key i 0, (BLK_INT_STAT p).key i 0]) ∧
    (s.blk p i = 0 →
      ∃ t, exec (.resetComplete p i) s = .next t ∧ t.blk p i = 3 ∧ t.is (BLK_CTL_SOFT_RESET p) i = false ∧ s.sameStore t ∧
        s.sameRegsBut t [(BLK_STAT_STATE p).key i 0, (BLK_CTL_SOFT_RESET p).key i 0])

/-- Parts of R711, R713, R722, R726, R727, R731. For every page and number of a block, with the main rails on and no half of a register
waiting. INT_FORCE: in states enabled, draining and disabled, the causes of the mask that the page has are set, and memory, tokens and
every other register stay; in off, retired and spare, CFG_ERR is set and nothing else but BLK_INT_STAT changes. REGISTER_WRITE by a
device, of 4 bytes, to an enabled block: to a 32-bit register from 0x100 on, of one RW field that only stores, whose conditions hold and
whose value starts nothing, the field reads its part of the value; to BLK_INT_STAT, the causes written with 1 are cleared; to BLK_ID,
nothing changes; each time memory, tokens and every other register stay. READ_TO_CLEAR by the physical function of a front device, of
BLK_ERR_CORR of a block that is not off: the host gets its value, it reads 0, memory and tokens stay, and only it and the byte counts
change. -/
def Obligations.RegistersFollowTheirAccessTypes : Prop :=
  ∀ (s : State) (p : Page) (i : Nat), s.railsUp = true → i < p.count → s.halves = [] →
    (∀ mask : Nat,
      (s.blk p i = 1 ∨ s.blk p i = 2 ∨ s.blk p i = 3 →
        ∃ t, exec (.intForce p i mask) s = .next t ∧
          t.rd (BLK_INT_STAT p) i = (s.rd (BLK_INT_STAT p) i ||| (mask &&& causeMask p)) % 2 ^ 32 ∧ s.sameStore t ∧
          s.sameRegsBut t [(BLK_INT_STAT p).key i 0]) ∧
      (s.blk p i = 0 ∨ s.blk p i = 4 ∨ s.blk p i = 5 →
        ∃ t, exec (.intForce p i mask) s = .next t ∧ t.is (BLK_STAT_CFG_ERR p) i = true ∧ s.sameStore t ∧
          s.sameRegsBut t [(BLK_STAT_CFG_ERR p).key i 0, (BLK_INT_STAT p).key i 0])) ∧
    (∀ (d o off v : Nat) (f : Fld), d < 512 → pageAt o = some (p, i, off) → 0x100 ≤ off → o % 4 = 0 → v < 2 ^ 32 → p ≠ .stk →
      (p = .dev → off < 0x800) → regSize p off = 32 → (off % 8 = 4 → regSize p (off - 4) = 32) → s.blk p i = 1 →
      fieldsAt p off = [(f, 0)] → f.page = p → f.acc = .rw → actsOnly f = false → s.verdict p i off v = .ok →
      (∀ u : State, u.act p i off v = u) →
      ∃ t, exec (.registerWrite (.device d) o 4 v) s = .next t ∧ t.rd f i = f.part v % 2 ^ f.w ∧ s.sameStore t ∧
        s.sameRegsBut t [f.key i 0]) ∧
    (∀ (d v : Nat), d < 512 → v < 2 ^ 32 → s.blk p i = 1 →
      ∃ t, exec (.registerWrite (.device d) (p.base i + 0x10) 4 v) s = .next t ∧
        t.rd (BLK_INT_STAT p) i = (s.rd (BLK_INT_STAT p) i - (s.rd (BLK_INT_STAT p) i &&& v)) % 2 ^ 32 ∧ s.sameStore t ∧
        s.sameRegsBut t [(BLK_INT_STAT p).key i 0]) ∧
    (∀ (d v : Nat), d < 512 → v < 2 ^ 32 → s.blk p i = 1 →
      ∃ t, exec (.registerWrite (.device d) (p.base i) 4 v) s = .next t ∧ s.sameStore t ∧ s.sameRegsBut t []) ∧
    (s.front = true → s.blk p i ≠ 0 →
      ∃ t, exec (.readToClear (.func 0) (p.base i + 0x1C)) s = .next t ∧
        t.hostOut = s.hostOut ++ [HostOut.completion 0 (p.base i + 0x1C) (leBytes (s.readReg (p.base i + 0x1C)) 4)] ∧
        t.rd (BLK_ERR_CORR p) i = 0 ∧ s.sameStore t ∧
        s.sameRegsBut t [(BLK_ERR_CORR p).key i 0, HIF_PC_TX_BYTES.key 0 0, CTX_ACC_HOST.key 0 0])

/-- Parts of R38, R210, R217, R396, R401, R403, R408, R409, R741, R742, R743. With the main rails on. RT_SEAL in STOPPED: the two copies
of the routing table are exchanged and none is pending; in another state: the table in front stays and PENDING is set. SFU_SEAL while none
is pending: in STOPPED the new version is in front and none pends; in another state it waits behind with PENDING. DEV_ID below 512: in
STOPPED the device has the ID; in another state CFG_ERR is set. NARROW_CFG of allowed values in STOPPED, with no commit in progress: its
three fields read those of the value. RC_INVALIDATE of a crew: exactly that crew's read-cache sectors are gone. BACKGROUND_TEST of a
memory whose test may run, without an outcome to report: the position has moved on by one row. In all of these memory and tokens stay, and
among the registers only those of the command may change. SPARE_BANK_COPY of a bank being copied, outside the drive: COPYING is clear, the
spare is in service, one ledger record more is pending, memory and tokens stay. -/
def Obligations.SealsAndMemoryTestsTakeEffect : Prop :=
  ∀ s : State, s.railsUp = true →
    (s.stkState = 0 →
      ∃ t, exec .rtSeal s = .next t ∧ t.routesF = s.routesB ∧ t.routesB = s.routesF ∧ t.is RT_CTL_PENDING = false ∧ s.sameStore t ∧
        s.sameRegsBut t [RT_CTL_SEAL.key 0 0, RT_CTL_PENDING.key 0 0, RT_CTL_FRONT.key 0 0]) ∧
    (s.stkState ≠ 0 →
      ∃ t, exec .rtSeal s = .next t ∧ t.routesF = s.routesF ∧ t.is RT_CTL_PENDING = true ∧ s.sameStore t ∧
        s.sameRegsBut t [RT_CTL_SEAL.key 0 0, RT_CTL_PENDING.key 0 0]) ∧
    (∀ v : Nat, s.is SFU_CTL_PENDING = false →
      ∃ t, exec (.sfuSeal v) s = .next t ∧ s.sameStore t ∧ (s.stkState = 0 → t.sfuVer = (v, s.sfuVer.1) ∧ t.is SFU_CTL_PENDING = false) ∧
        (s.stkState ≠ 0 → t.sfuVer = (s.sfuVer.1, v) ∧ t.is SFU_CTL_PENDING = true) ∧
        s.sameRegsBut t [SFU_CTL_SEAL.key 0 0, SFU_CTL_PENDING.key 0 0, SFU_CTL_FRONT.key 0 0, DEV_FW_VERSION.key 0 0]) ∧
    (∀ id : Nat, id < 512 →
      ∃ t, exec (.devId id) s = .next t ∧ s.sameStore t ∧ (s.stkState = 0 → t.dev = id ∧ s.sameRegsBut t [DEV_ID_ID.key 0 0]) ∧
        (s.stkState ≠ 0 → t.is (BLK_STAT_CFG_ERR .dev) = true ∧
          s.sameRegsBut t [(BLK_STAT_CFG_ERR .dev).key 0 0, (BLK_INT_STAT .dev).key 0 0])) ∧
    (∀ v : Nat, v < 2 ^ 32 → s.stkState = 0 → s.is PWR_RET_STAT_BUSY = false → narrowAllowed 0 (bits v 0 4) = true →
      narrowAllowed 4 (bits v 4 4) = true → narrowAllowed 8 (bits v 8 4) = true →
      ∃ t, exec (.narrowCfg v) s = .next t ∧ t.rd NARROW_CFG_KV = bits v 0 4 ∧ t.rd NARROW_CFG_GRAD = bits v 4 4 ∧
        t.rd NARROW_CFG_OPT = bits v 8 4 ∧ s.sameStore t ∧
        s.sameRegsBut t [NARROW_CFG_KV.key 0 0, NARROW_CFG_GRAD.key 0 0, NARROW_CFG_OPT.key 0 0, (BLK_RETAIN_CTL_DIRTY .dev).key 0 0]) ∧
    (∀ c : Nat, c < 16 →
      ∃ t, exec (.rcInvalidate c) s = .next t ∧ t.rcache = s.rcache.filter (fun e => e.1 / 32768 != c) ∧ s.sameStore t ∧ s.sameRegsBut t []) ∧
    (∀ (scratch : Bool) (x : Nat), x < (if scratch then 144 else 16) → s.testReady scratch x = true →
      ∃ t, exec (.backgroundTest scratch x []) s = .next t ∧ s.sameStore t ∧
        t.rd (testFlds scratch).2.2.1 x = (s.rd (testFlds scratch).2.2.1 x + 1) % testRows scratch ∧
        s.sameRegsBut t [(testFlds scratch).2.2.1.key x 0, (testFlds scratch).2.2.2.key x 0]) ∧
    (∀ (scratch : Bool) (x k : Nat), s.inDrive = false → s.copyingBank scratch x k = true →
      let n : Inst := { kind := if scratch then 2 else 4, block := x, pos := s.rd (bankFld scratch k).1 x }
      ∃ t, exec (.spareBankCopy scratch x k) s = .next t ∧ t.is (bankFld scratch k).2 x = false ∧ t.phase n = some 2 ∧
        t.ledgerPend.length = s.ledgerPend.length + 1 ∧ s.sameStore t)

/-- Parts of R650, R651, R652, R653, R654, R655, R658, R659, R660, R690. ENTER_EASY, ENTER_HOLD or ENTER_DORMANT in ROW without a request:
where every block asked accepts, the request is agreed, STATE is 5, and memory, tokens and every other register stay; where one refuses,
no request is left, STATE is 0, LAST_RESULT is failed (2), and the reason and the block are those of the lowest block that refuses.
ENTER_ROW in ROW or EASY without a request: STATE is 0, LAST_RESULT is success (1), memory and tokens stay. ASK_ROUND of a request not
agreed: past PWR_DEFER_MAX, the state before the request is back, REASON is 7, no request is left; in time, where every block asked
accepts, the request is agreed and the clock has moved on. WAKE while no command of the controller waits: in HOLD, STATE is 6 with the
rails not ready and WAKE waits; in ROW it is answered with success. PAD_RELEASE: the named groups are released; in a wake whose rails are
ready, with no group left held, no memory in self-refresh and no reset owed, STATE is 0, else it stays. WAKE_READY in a wake with a group
held: the rails are ready, STATE is still 6, and the in-band cause 6 pends. SELF_REFRESH_EXIT of a memory that may leave, with no reset
owed: its bit is clear, and with no bit and no group left STATE is 0. In each of these but a late ASK_ROUND memory and tokens stay. -/
def Obligations.PowerStatesAreEnteredAndLeft : Prop :=
  (∀ (s : State) (k : Nat) (c : Instr), s.rd PWR_STAT_STATE = 0 → s.pwr.req = none →
    (k = 1 ∧ c = .enterEasy ∨ k = 2 ∧ c = .enterHold ∨ k = 3 ∧ c = .enterDormant) →
    let r : PowerReq := { target := k, origin := 0, start := s.clock, agreed := false, block := (0, 0) }
    let u := (s.wr PWR_STAT_STATE 5).updPwr (fun p => { p with req := some r })
    ((∀ b, b ∈ u.asked' → u.askBlock k b.1 b.2 = .accept) →
      ∃ t, exec c s = .next t ∧ t.rd PWR_STAT_STATE = 5 ∧ t.pwr.req = some { r with agreed := true } ∧ s.sameStore t ∧
        s.sameRegsBut t [PWR_STAT_STATE.key 0 0]) ∧
    (∀ b, lowestBlock (u.asked'.filter (fun x => (u.askBlock k x.1 x.2).reason != 0)) = some b →
      ∃ t, exec c s = .next t ∧ t.rd PWR_STAT_STATE = 0 ∧ t.pwr.req = none ∧ t.rd PWR_STAT_LAST_RESULT = 2 ∧
        t.rd PWR_STAT_REASON = (u.askBlock k b.1 b.2).reason % 16 ∧ t.rd PWR_STAT_BLOCK_TYPE = b.1.typeCode % 128 ∧
        t.rd PWR_STAT_BLOCK_INSTANCE = b.2 % 256 ∧ s.sameStore t)) ∧
  (∀ s : State, s.pwr.req = none → (s.rd PWR_STAT_STATE = 0 ∨ s.rd PWR_STAT_STATE = 1) →
    ∃ t, exec .enterRow s = .next t ∧ t.rd PWR_STAT_STATE = 0 ∧ t.rd PWR_STAT_LAST_RESULT = 1 ∧ s.sameStore t ∧
      s.sameRegsBut t [PWR_STAT_STATE.key 0 0, PWR_STAT_LAST_RESULT.key 0 0, PWR_STAT_REASON.key 0 0, PWR_STAT_BLOCK_TYPE.key 0 0,
        PWR_STAT_BLOCK_INSTANCE.key 0 0, LOG_DROPPED.key 0 0]) ∧
  (∀ (s : State) (r : PowerReq) (ms : Nat), s.railsUp = true → s.pwr.req = some r → r.agreed = false →
    (r.start + s.rd PWR_DEFER_MAX_MS * 16000000 < s.clock + ms * 16000000 →
      ∃ t, exec (.askRound ms) s = .next t ∧ t.rd PWR_STAT_STATE = r.origin % 8 ∧ t.rd PWR_STAT_REASON = 7 ∧ t.pwr.req = none) ∧
    (s.clock + ms * 16000000 ≤ r.start + s.rd PWR_DEFER_MAX_MS * 16000000 →
      let u := s.at (s.clock + ms * 16000000)
      (∀ b, b ∈ u.asked' → u.askBlock r.target b.1 b.2 = .accept) →
      ∃ t, exec (.askRound ms) s = .next t ∧ t.pwr.req = some { r with agreed := true } ∧ t.clock = s.clock + ms * 16000000 ∧
        s.sameStore t ∧ s.sameRegsBut t [])) ∧
  (∀ s : State, s.pwr.standby = true → s.i3c.waiting = none →
    (s.rd PWR_STAT_STATE = 2 → ∃ t, exec .wake s = .next t ∧ t.rd PWR_STAT_STATE = 6 ∧ t.pwr.ready = false ∧
      t.i3c.waiting = some .wake ∧ s.sameStore t ∧ s.sameRegsBut t [PWR_STAT_STATE.key 0 0]) ∧
    (s.rd PWR_STAT_STATE = 0 → ∃ t, exec .wake s = .next t ∧ t.i3c.resp = some (leBytes stSuccess 1 ++ leBytes 0 2) ∧ s.sameStore t ∧
      s.sameRegsBut t []) ∧
    (∀ m : Nat, let h := s.rd PWR_PAD_RELEASE_HELD - (s.rd PWR_PAD_RELEASE_HELD &&& (m % 128))
      (s.rd PWR_STAT_STATE ≠ 6 ∨ h % 128 ≠ 0 →
        ∃ t, exec (.padRelease m) s = .next t ∧ t.rd PWR_PAD_RELEASE_HELD = h % 128 ∧ t.rd PWR_STAT_STATE = s.rd PWR_STAT_STATE ∧
          s.sameStore t) ∧
      (s.rd PWR_STAT_STATE = 6 → h % 128 = 0 → s.pwr.ready = true → s.pwr.selfRef = 0 → s.pwr.owed = none →
        ∃ t, exec (.padRelease m) s = .next t ∧ t.rd PWR_PAD_RELEASE_HELD = 0 ∧ t.rd PWR_STAT_STATE = 0 ∧ s.sameStore t))) ∧
  (∀ s : State, s.pwr.standby = true → s.rd PWR_STAT_STATE = 6 → s.pwr.ready = false → s.rd PWR_PAD_RELEASE_HELD ≠ 0 →
    ∃ t, exec .wakeReady s = .next t ∧ t.pwr.ready = true ∧ t.rd PWR_STAT_STATE = 6 ∧ t.ibi.any (fun e => e.1 == 6) = true ∧
      t.clock = s.clock ∧ s.sameStore t) ∧
  (∀ (s : State) (lpd : Bool) (c : Nat), s.mayLeaveRefresh lpd c = true → s.pwr.owed = none → s.i3c.waiting = none →
    ∃ t, exec (.selfRefreshExit lpd c) s = .next t ∧ t.pwr.selfRef = s.pwr.selfRef - (s.pwr.selfRef &&& 2 ^ memBit lpd c) ∧
      (t.pwr.selfRef = 0 → s.rd PWR_PAD_RELEASE_HELD = 0 → t.rd PWR_STAT_STATE = 0) ∧ s.sameStore t ∧
      s.sameRegsBut t [PWR_STAT_STATE.key 0 0, LOG_DROPPED.key 0 0])

/-- Parts of R651, R663, R757. POWER_CHECK with the standby supply and six temperatures: the clock has reached the next check, the die
temperatures, the hottest, the input voltage and power read the values (saturated), memory and tokens stay. With the rails off the
operating point stays; on, at 105 degrees or more it is 6, cause 8 of the TMP page is set and the in-band cause 3 pends; from 95 degrees
on, or above PWR_LIMIT, it is one point lower in speed than before, at most 6, and never faster than PWR_CLOCK_MAX. In EASY, RUN,
CLEAR_RUN, a CATCH that arrives in another state than STOPPED, and TOUCH or QUERY at HEAD of the tier ring leave the module in ROW. -/
def Obligations.LimitsAndWorkMoveTheOperatingPoint : Prop :=
  (∀ (s : State) (r : PowerReading), s.pwr.standby = true → r.temps.length = 6 →
    let ts := r.temps.map (fun x => min x 255)
    let hot := ts.foldl max 0
    ∃ t, exec (.powerCheck r) s = .next t ∧ t.clock = max s.clock (s.pwr.checkAt + 16000000) ∧
      (∀ j, j < 6 → t.rd TMP_DIE_TEMP 0 j = ts.getD j 0) ∧ t.rd TMP_HOTTEST_TEMP = hot ∧ t.rd PWR_INPUT_MV = min r.mv 65535 ∧
      t.rd PWR_INPUT_W = min r.w 4095 ∧ s.sameStore t ∧
      (s.railsUp = false → t.rd PWR_CLOCK_POINT = s.rd PWR_CLOCK_POINT) ∧
      (s.railsUp = true → 105 ≤ hot → t.rd PWR_CLOCK_POINT = 6 ∧ bitOf (t.rd (BLK_INT_STAT .tmp)) 8 = true ∧
        t.ibi.any (fun e => e.1 == 3) = true) ∧
      (s.railsUp = true → hot < 105 → (95 ≤ hot ∨ s.rd PWR_LIMIT_W < r.w) →
        t.rd PWR_CLOCK_POINT = max (min 6 (s.rd PWR_CLOCK_POINT + 1)) (min 6 (s.rd PWR_CLOCK_MAX_POINT)))) ∧
  (∀ (i : Instr) (s : State), s.rd PWR_STAT_STATE = 1 →
    (i = .run ∨ i = .clearRun ∨ (∃ q, i = .curtain q ∧ s.stkState ≠ 0 ∧ (s.strokeAt q 2).isSome = true) ∨
      i = .touch ∧ s.tierOp 5 = true ∨ i = .query ∧ s.tierOp 6 = true) →
    ∃ t, exec i s = .next t ∧ t.rd PWR_STAT_STATE = 0)

/-- Parts of R656, R664, R665, R666, R667, R668, R669, R691, R769, R771, R772. With the standby supply. TRIP outside DORMANT: STATE is
DORMANT (3), TRIP is set, the in-band cause 1 pends, and stroke unit, coxes, seats and listed memory are as after reset. SUPPLY_LOSS or
MATE_OPEN with the supply present: STATE is 3, TRIP is clear, the supply is absent, cause 2 pends. STANDBY_STOP: STATE is 3, both supplies
are absent, logbook and in-band causes are empty. SUPPLY_RETURN with the supply absent: where a firmware slot is valid, STATE is ROW (0)
with the stroke unit as after reset and a cold reset as cause; where none is, STATE is FAULT (7) at step 4 and cause 4 pends.
STANDBY_START without the standby supply, where a slot is valid: STATE is 0, the clock is 0, the power-ups have counted one, the straps
are sampled. In ROW or EASY, with no commit in progress, no command of the controller waiting and a valid slot: PWR_WARM_RESET and
WARM_RESET with their key bring STATE 0, a warm reset as cause with their trigger, and the stroke unit as after reset, the latter answered
with success. With another key PWR_WARM_RESET changes neither memory, tokens nor a register, and WARM_RESET is answered as malformed and
changes none of them. -/
def Obligations.ResetsAndPowerLossStartAfresh : Prop :=
  ∀ s : State,
    (∀ cause : Nat, s.pwr.standby = true → s.rd PWR_STAT_STATE ≠ 3 →
      ∃ t, exec (.trip cause) s = .next t ∧ t.rd PWR_STAT_STATE = 3 ∧ t.is PWR_STAT_TRIP = true ∧ t.ibi.any (fun e => e.1 == 1) = true ∧
        t.stk = default ∧ t.coxes = [] ∧ t.cores = [] ∧ t.mem = []) ∧
    (∀ c : Instr, (c = .supplyLoss ∨ c = .mateOpen) → s.pwr.standby = true → s.pwr.supply = true →
      ∃ t, exec c s = .next t ∧ t.rd PWR_STAT_STATE = 3 ∧ t.is PWR_STAT_TRIP = false ∧ t.pwr.supply = false ∧
        t.ibi.any (fun e => e.1 == 2) = true) ∧
    (s.pwr.standby = true →
      ∃ t, exec .standbyStop s = .next t ∧ t.rd PWR_STAT_STATE = 3 ∧ t.pwr.standby = false ∧ t.pwr.supply = false ∧ t.logRing = [] ∧
        t.ibi = []) ∧
    (s.pwr.standby = true → s.pwr.supply = false →
      (s.fwChosen ≠ none → ∃ t, exec .supplyReturn s = .next t ∧ t.rd PWR_STAT_STATE = 0 ∧ t.pwr.supply = true ∧ t.stk = default ∧
        t.rd PWR_RESET_CAUSE_KIND = 1) ∧
      (s.fwChosen = none → ∃ t, exec .supplyReturn s = .next t ∧ t.rd PWR_STAT_STATE = 7 ∧ t.rd PWR_STAT_STEP = 4 ∧
        t.ibi.any (fun e => e.1 == 4) = true)) ∧
    (∀ straps : Nat, s.pwr.standby = false → s.fwChosen ≠ none →
      ∃ t, exec (.standbyStart straps) s = .next t ∧ t.rd PWR_STAT_STATE = 0 ∧ t.clock = 0 ∧ t.powerCycles = s.powerCycles + 1 ∧
        t.pwr.standby = true ∧ t.pwr.straps = straps % 16 ∧ t.stk = default) ∧
    (s.pwr.standby = true → s.i3c.waiting = none → s.rd PWR_STAT_STATE ≤ 1 → s.is PWR_RET_STAT_BUSY = false → s.fwChosen ≠ none →
      (∃ t, exec (.pwrWarmReset 0xA55A) s = .next t ∧ t.rd PWR_STAT_STATE = 0 ∧ t.rd PWR_RESET_CAUSE_KIND = 2 ∧
        t.rd PWR_RESET_CAUSE_TRIGGER = 2 ∧ t.stk = default ∧ t.coxes = []) ∧
      (∃ t, exec (.warmReset [0x5A, 0xA5]) s = .next t ∧ t.rd PWR_STAT_STATE = 0 ∧ t.rd PWR_RESET_CAUSE_KIND = 2 ∧
        t.rd PWR_RESET_CAUSE_TRIGGER = 1 ∧ t.stk = default ∧ t.i3c.resp = some (leBytes stSuccess 1 ++ leBytes 0 2))) ∧
    (∀ k : Nat, k ≠ 0xA55A → s.pwr.standby = true → s.i3c.waiting = none →
      ∃ t, exec (.pwrWarmReset k) s = .next t ∧ s.sameStore t ∧ s.sameRegsBut t []) ∧
    (∀ args : List Byte, args ≠ [0x5A, 0xA5] → s.pwr.standby = true → s.i3c.waiting = none → s.rd PWR_STAT_STATE ≤ 1 →
      ∃ t, exec (.warmReset args) s = .next t ∧ t.i3c.resp = some (leBytes stMalformed 1 ++ leBytes 0 2) ∧ s.sameStore t ∧
        s.sameRegsBut t [])

/-- Parts of R671, R674, R675, R676. PWR_RET_COMMIT with the main rails on: while no commit is in progress, BUSY is set, the slot not used
last holds the RWK fields with the next sequence number and is not good yet, the other slot stays, DIRTY of PWR and DEV reads 0, memory
and tokens stay; while one is, CFG_ERR is set, both slots stay and nothing else but BLK_INT_STAT changes. RET_COMMIT_DONE of a commit in
progress, with no reset owed and no command of the controller waiting: BUSY is clear, the slot is good, the other stays, SEQUENCE shows
its number, memory and tokens stay. INVALIDATE with the main rails on: neither slot is good, and memory, tokens and every register stay.
-/
def Obligations.SettingsAreCommittedToASlot : Prop :=
  ∀ s : State,
    (s.railsUp = true → s.is PWR_RET_STAT_BUSY = false →
      let n := 1 - s.pwr.lastSlot % 2
      ∃ t, exec .pwrRetCommit s = .next t ∧ t.is PWR_RET_STAT_BUSY = true ∧ t.pwr.lastSlot = n ∧
        t.retSlot n = { good := false, seq := max s.ret0.seq s.ret1.seq + 1, fw := s.rd DEV_FW_VERSION, entries := s.retEntries } ∧
        t.retSlot (1 - n) = s.retSlot (1 - n) ∧ t.rd (BLK_RETAIN_CTL_DIRTY .pwr) = 0 ∧ t.rd (BLK_RETAIN_CTL_DIRTY .dev) = 0 ∧
        s.sameStore t) ∧
    (s.railsUp = true → s.is PWR_RET_STAT_BUSY = true →
      ∃ t, exec .pwrRetCommit s = .next t ∧ t.is (BLK_STAT_CFG_ERR .pwr) = true ∧ t.ret0 = s.ret0 ∧ t.ret1 = s.ret1 ∧ s.sameStore t ∧
        s.sameRegsBut t [(BLK_STAT_CFG_ERR .pwr).key 0 0, (BLK_INT_STAT .pwr).key 0 0]) ∧
    (s.pwr.standby = true → s.is PWR_RET_STAT_BUSY = true → s.pwr.owed = none → s.i3c.waiting = none →
      let n := s.pwr.lastSlot % 2
      ∃ t, exec .retCommitDone s = .next t ∧ t.is PWR_RET_STAT_BUSY = false ∧ t.retSlot n = { s.retSlot n with good := true } ∧
        t.retSlot (1 - n) = s.retSlot (1 - n) ∧ t.rd PWR_RET_STAT_SEQUENCE = (s.retSlot n).seq % 2 ^ PWR_RET_STAT_SEQUENCE.w ∧
        s.sameStore t ∧ s.sameRegsBut t [PWR_RET_STAT_BUSY.key 0 0, PWR_RET_STAT_SEQUENCE.key 0 0, PWR_RET_COMMITS_SLOT0.key 0 0,
          PWR_RET_COMMITS_SLOT1.key 0 0]) ∧
    (s.railsUp = true →
      ∃ t, exec .invalidate s = .next t ∧ t.ret0 = { s.ret0 with good := false } ∧ t.ret1 = { s.ret1 with good := false } ∧
        s.sameStore t ∧ s.sameRegsBut t [])

/-- R655. While a request for another power state is in progress, a further write to PWR_CMD is ignored and sets CFG_ERR in the PWR page's
BLK_STAT. A PWR_CMD whose target is the current state succeeds at once without an ask round: LAST_RESULT is success, and neither the state nor a request
comes of it. -/
def Obligations.PwrCmdDuringARequestIsIgnored : Prop :=
  ∀ (s : State) (k : Nat) (c : Instr), s.railsUp = true →
    (k = 0 ∧ c = .enterRow ∨ k = 1 ∧ c = .enterEasy ∨ k = 2 ∧ c = .enterHold ∨ k = 3 ∧ c = .enterDormant) →
    (s.pwr.req.isSome = true →
      ∃ t, exec c s = .next t ∧ t.is (BLK_STAT_CFG_ERR .pwr) = true ∧ t.pwr = s.pwr ∧ t.clock = s.clock ∧ s.sameStore t ∧
        s.sameRegsBut t [(BLK_STAT_CFG_ERR .pwr).key 0 0, (BLK_INT_STAT .pwr).key 0 0]) ∧
    (s.pwr.req = none → s.rd PWR_STAT_STATE = k →
      ∃ t, exec c s = .next t ∧ t.rd PWR_STAT_LAST_RESULT = 1 ∧ t.rd PWR_STAT_REASON = 0 ∧ t.pwr = s.pwr ∧ s.sameStore t ∧
        s.sameRegsBut t [PWR_STAT_LAST_RESULT.key 0 0, PWR_STAT_REASON.key 0 0, PWR_STAT_BLOCK_TYPE.key 0 0,
          PWR_STAT_BLOCK_INSTANCE.key 0 0])

/-- Parts of R618, R621, R622, R623, R625, R628, R753, R754. With the main rails on and no SPR_CMD in progress; every SPR_CMD leaves
memory and tokens. RETIRE: of kind 15 or an item that does not exist, MALFORMED; of a column or a row that exists, success with one ledger
record more; of another item that is retired, BUSY; each leaves the retired items; of one that is not (a port must have failed), the item
is retired, the permanent faults count one and the in-band cause 5 pends. ENTER: of kind 1, 3, 12 or 15, MALFORMED; of kind 5, 13 or 14,
DEFERRED; of another existing item not retired, BUSY; of one that waits for its spare, DEFERRED where none is left, each with the retired
items as they were; else the spare is being entered with BUSY set, or in service with success. ANNOTATE: with room in the ledger, success
and one host record more, else DEFERRED and none. FAULT_WINDOW: no fault is counted, and memory, tokens and every register stay.
SEAT_ENTRY of a crew whose spare core is being entered: that core is enabled, holds the retired core's work and serves its logical seat,
the retired core holds none, the spare is in service, memory and tokens stay, and the seat goes on. UNIT_REMAP of a unit that is being
copied, outside the drive: its spare is in service, one ledger record more is pending, the entries count one, memory and tokens stay. -/
def Obligations.SparesEnterForRetiredItems : Prop :=
  (∀ (s : State) (kind block : Nat), s.railsUp = true → s.is SPR_CMD_STAT_BUSY = false →
    let i := s.sprInst kind block
    let st := fun (t : State) => t.rd SPR_CMD_STAT_STATUS
    ((i.kind = 15 ∨ i.exists' = false) →
      ∃ t, exec (.retire kind block) s = .next t ∧ st t = stMalformed ∧ t.retired = s.retired ∧ s.sameStore t) ∧
    (i.exists' = true → i.kind = 1 ∨ i.kind = 3 ∨ i.kind = 12 →
      ∃ t, exec (.retire kind block) s = .next t ∧ st t = stSuccess ∧ t.ledgerPend.length = s.ledgerPend.length + 1 ∧
        t.retired = s.retired ∧ s.sameStore t) ∧
    (i.exists' = true → i.kind ≠ 15 → i.kind ≠ 1 → i.kind ≠ 3 → i.kind ≠ 12 → (s.phase i).isSome = true →
      ∃ t, exec (.retire kind block) s = .next t ∧ st t = stBusy ∧ t.retired = s.retired ∧ s.sameStore t) ∧
    (i.exists' = true → i.kind ≠ 15 → i.kind ≠ 1 → i.kind ≠ 3 → i.kind ≠ 12 → s.phase i = none →
      (i.kind = 13 → s.rd LNK_STAT_STATE i.block = 5) →
      ∃ t, exec (.retire kind block) s = .next t ∧ (t.phase i).isSome = true ∧
        t.rd SPR_PC_PERMANENT = (s.rd SPR_PC_PERMANENT + 1) % 2 ^ SPR_PC_PERMANENT.w ∧ t.ibi.any (fun e => e.1 == 5) = true ∧
        s.sameStore t) ∧
    ((i.kind = 15 ∨ i.kind = 1 ∨ i.kind = 3 ∨ i.kind = 12) →
      ∃ t, exec (.enter kind block) s = .next t ∧ st t = stMalformed ∧ t.retired = s.retired ∧ s.sameStore t) ∧
    ((i.kind = 5 ∨ i.kind = 13 ∨ i.kind = 14) →
      ∃ t, exec (.enter kind block) s = .next t ∧ st t = stDeferred ∧ t.retired = s.retired ∧ s.sameStore t) ∧
    (i.exists' = true → i.kind ≠ 15 → i.kind ≠ 1 → i.kind ≠ 3 → i.kind ≠ 12 → i.kind ≠ 5 → i.kind ≠ 13 → i.kind ≠ 14 →
      (s.phase i = none → ∃ t, exec (.enter kind block) s = .next t ∧ st t = stBusy ∧ t.retired = s.retired ∧ s.sameStore t) ∧
      (s.phase i = some 0 → s.spareLeft i = 0 →
        ∃ t, exec (.enter kind block) s = .next t ∧ st t = stDeferred ∧ t.retired = s.retired ∧ s.sameStore t) ∧
      (s.phase i = some 0 → s.spareLeft i ≠ 0 →
        ∃ t, exec (.enter kind block) s = .next t ∧ (t.phase i = some 1 ∧ t.is SPR_CMD_STAT_BUSY = true ∨
          t.phase i = some 2 ∧ st t = stSuccess) ∧ s.sameStore t)) ∧
    ((s.ledger false).length + s.ledgerPend.length < ledgerCap →
      ∃ t, exec (.annotate kind block) s = .next t ∧ st t = stSuccess ∧ s.sameStore t ∧
        t.ledgerPend = s.ledgerPend ++ [{ time := s.ns, event := 9, inst := i, data := s.rd SPR_CMD_POS }] ∧
        s.sameRegsBut t [SPR_CMD_STAT_BUSY.key 0 0, SPR_CMD_STAT_STATUS.key 0 0]) ∧
    (ledgerCap ≤ (s.ledger false).length + s.ledgerPend.length →
      ∃ t, exec (.annotate kind block) s = .next t ∧ st t = stDeferred ∧ t.ledgerPend = s.ledgerPend ∧ s.sameStore t)) ∧
  (∀ s : State, s.railsUp = true → ∃ t, exec .faultWindow s = .next t ∧ t.faults = [] ∧ s.sameStore t ∧ s.sameRegsBut t []) ∧
  (∀ (s : State) (c p : Nat) (i : Inst), s.railsUp = true → c < 16 → s.enteringSeat c = some (i, p) → i.block ≠ 9 * c + p →
    ∃ u : State, exec (.seatEntry c) s = .next (s.commit (u.fetchNext (9 * c + p))) ∧ u.phase i = some 2 ∧
      u.blk .core (9 * c + p) = 1 ∧ u.core (9 * c + p) = { s.core i.block with failing := 0 } ∧ u.core i.block = default ∧
      (∀ k, k < 8 → u.phys c k = if s.phys c k = i.block % 9 then p else s.phys c k) ∧ s.sameStore u) ∧
  (∀ (s : State) (lpd : Bool) (ctl : Nat) (i : Inst), s.railsUp = true → s.inDrive = false → s.remapping lpd ctl = some i →
    ∃ t, exec (.unitRemap lpd ctl) s = .next t ∧ t.phase i = some 2 ∧ t.ledgerPend.length = s.ledgerPend.length + 1 ∧
      t.rd SPR_PC_ENTERED = (s.rd SPR_PC_ENTERED + 1) % 2 ^ SPR_PC_ENTERED.w ∧ s.sameStore t)

/-- Parts of R629, R630, R641, R642. LEDGER_WRITE while a record waits and the current region stays below seven eighths: the oldest record
is the last of the region, the other region stays, USED counts the records, memory, tokens and every register but USED and SPR_PC_LEDGER
stay. LOAD with the main rails on: outside STOPPED, while the checkpoint unit is not IDLE, or during another LOAD, CFG_ERR of the TIER
page is set and nothing else but BLK_INT_STAT changes. Else, where the header can be read and does not fit, LOAD_ERR shows its error,
nothing is in progress, memory and tokens stay; where it fits, the area holds no frame and the checks of index and snapshot are right,
LOAD_ERR is 0, nothing is in progress, STK_FIRST_STROKE is that of the header, and no translation is cached. -/
def Obligations.LedgerAndCheckpointAreKept : Prop :=
  (∀ (s : State) (r : LedgerRec) (rest : List LedgerRec), s.ledgerPend = r :: rest → (s.ledger false).length + 1 < ledgerCap * 7 / 8 →
    ∃ t, exec .ledgerWrite s = .next t ∧ t.ledger false = s.ledger false ++ [ledgerBytes s.powerCycles r] ∧
      t.ledger true = s.ledger true ∧ t.ledgerPend = rest ∧ t.rd SPR_LEDGER_STAT_USED = (s.ledger false).length + 1 ∧ s.sameStore t ∧
      s.sameRegsBut t [SPR_LEDGER_STAT_USED.key 0 0, SPR_PC_LEDGER.key 0 0]) ∧
  (∀ s : State, s.railsUp = true → (s.stkState ≠ 0 ∨ s.rd MMU_CKPT_STAT_STATE ≠ 0 ∨ s.loadPos.isSome = true) →
    ∃ t, exec .load s = .next t ∧ t.is (BLK_STAT_CFG_ERR .tier) = true ∧ t.loadPos = s.loadPos ∧ s.sameStore t ∧
      s.sameRegsBut t [(BLK_STAT_CFG_ERR .tier).key 0 0, (BLK_INT_STAT .tier).key 0 0]) ∧
  (∀ (s : State) (h : List Byte), s.railsUp = true → s.stkState = 0 → s.rd MMU_CKPT_STAT_STATE = 0 → s.loadPos = none →
    let u := { ((s.on TIER_CKPT_CTL_LOAD).on TIER_CKPT_STAT_LOAD_BUSY).wr TIER_CKPT_STAT_LOAD_ERR 0 with loadPos := some 0 }
    u.loadRead 0 64 = .ok h →
    (∀ e : Nat, u.headerError h = some e →
      ∃ t, exec .load s = .next t ∧ t.rd TIER_CKPT_STAT_LOAD_ERR = e ∧ t.is TIER_CKPT_STAT_LOAD_BUSY = false ∧ t.loadPos = none ∧
        s.sameStore t) ∧
    (∀ snap : List Byte, u.headerError h = none → fieldLE h 32 4 = 0 → u.loadRead 0x200000 0 = .ok [] →
      u.loadRead 0x10000 0x1F0000 = .ok snap → crc32 [] = fieldLE h 36 4 → crc32 snap = fieldLE h 40 4 →
      ∃ t, exec .load s = .next t ∧ t.rd TIER_CKPT_STAT_LOAD_ERR = 0 ∧ t.is TIER_CKPT_STAT_LOAD_BUSY = false ∧ t.loadPos = none ∧
        t.rd STK_FIRST_STROKE = fieldLE h 8 8 ∧ t.tlb = []))

/-- Parts of R683, R684, R685, R687, R693, R734. LOG_TRANSFER with the standby supply and an entry queued: the entry has left the queue,
the clock has moved on by 16 ns, memory and tokens stay; one below MIN_SEVERITY is gone and no register changes; else under FREEZE only
DROPPED has counted one; else it stands in the ring at WRITTEN modulo 8192, WRITTEN has counted one, and from IBI_SEVERITY on the in-band
cause 8 pends. LOG_INJECT of an event of 0x800 to 0x8FF with severity 0 to 4 and room in the queue: the queue's last entry has the time,
the stroke, source 0xFF02, the event, the severity and LOG_INJECT_DATA, and memory, tokens and every register stay. IBI_REPEAT while a
cause pends: the clock has reached the repeat, the next is 100 ms later, the same causes pend. REARM, or SUMMARY_RETRY while one is due,
with ENABLE clear or no page pending: ARMED is set and no other register changes. REARM with ENABLE set and a page pending, where
DEV_INT_ADDR is an aligned word of the trigger page of this front device that may be written and the vector is not masked: the host gets
that MSI-X vector, and ARMED is clear. Memory and tokens stay. -/
def Obligations.LogbookAndInterruptsReport : Prop :=
  (∀ (s : State) (e : LogEntry) (rest : List LogEntry), s.pwr.standby = true → s.logQueue = e :: rest →
    ∃ t, exec .logTransfer s = .next t ∧ t.logQueue = rest ∧ t.clock = s.clock + 256 ∧ s.sameStore t ∧
      (e.severity < s.rd LOG_CTL_MIN_SEVERITY → t.logRing = s.logRing ∧ s.sameRegsBut t []) ∧
      (s.rd LOG_CTL_MIN_SEVERITY ≤ e.severity → s.is LOG_CTL_FREEZE = true → t.logRing = s.logRing ∧
        t.rd LOG_DROPPED = (s.rd LOG_DROPPED + 1) % 2 ^ LOG_DROPPED.w ∧ s.sameRegsBut t [LOG_DROPPED.key 0 0]) ∧
      (s.rd LOG_CTL_MIN_SEVERITY ≤ e.severity → s.is LOG_CTL_FREEZE = false → Tab.find t.logRing (s.rd LOG_WRITTEN % 8192) = some e ∧
        t.rd LOG_WRITTEN = (s.rd LOG_WRITTEN + 1) % 2 ^ LOG_WRITTEN.w ∧ s.sameRegsBut t [LOG_WRITTEN.key 0 0] ∧
        (s.rd LOG_CTL_IBI_SEVERITY ≤ e.severity → t.ibi.any (fun x => x.1 == 8) = true))) ∧
  (∀ (s : State) (code sev : Nat), s.railsUp = true → 0x800 ≤ code → code ≤ 0x8FF → sev ≤ 4 → s.logQueue.length < 64 →
    ∃ t e, exec (.logInject (code + sev * 0x10000)) s = .next t ∧ t.logQueue = s.logQueue ++ [e] ∧ e.time = s.ns ∧ e.stroke = s.stroke ∧
      e.source = 0xFF02 ∧ e.event = code ∧ e.severity = sev ∧ e.status = 0 ∧ e.data = s.rd LOG_INJECT_DATA % 2 ^ 64 ∧ s.sameStore t ∧
      s.sameRegsBut t []) ∧
  (∀ s : State, s.pwr.standby = true → s.ibi ≠ [] →
    ∃ t, exec .ibiRepeat s = .next t ∧ t.clock = max s.clock s.ibiNext ∧ t.i3c.ibiAt = t.clock + 1600000000 ∧
      t.ibi.map (fun e => e.1) = s.ibi.map (fun e => e.1) ∧ s.sameStore t ∧ s.sameRegsBut t [LOG_DROPPED.key 0 0]) ∧
  (∀ s : State, s.railsUp = true → (s.is DEV_INT_CTL_ENABLE = false ∨ s.pendingPages = []) →
    ∃ t, exec .rearm s = .next t ∧ t.is DEV_INT_CTL_ARMED = true ∧ t.hostOut = s.hostOut ∧ s.sameStore t ∧
      s.sameRegsBut t [DEV_INT_CTL_ARMED.key 0 0]) ∧
  (∀ (s : State) (a : Nat), s.railsUp = true → s.summaryAt = some a → (s.is DEV_INT_CTL_ENABLE = false ∨ s.pendingPages = []) →
    ∃ t, exec .summaryRetry s = .next t ∧ t.is DEV_INT_CTL_ARMED = true ∧ t.summaryAt = none ∧ t.clock = max s.clock a ∧ s.sameStore t ∧
      s.sameRegsBut t [DEV_INT_CTL_ARMED.key 0 0]) ∧
  (∀ (s : State) (w : Nat), s.railsUp = true → s.is DEV_INT_CTL_ENABLE = true → s.pendingPages ≠ [] → s.front = true → s.blk .hif = 1 →
    s.rd DEV_INT_CTL_VECTOR = w → gpaDev (s.rd DEV_INT_ADDR) = s.dev → (regionOf (gpaLocal (s.rd DEV_INT_ADDR))).1 = .host →
    0x7FFFFFF0000 ≤ gpaLocal (s.rd DEV_INT_ADDR) → gpaLocal (s.rd DEV_INT_ADDR) % 4 = 0 → w < 2048 → s.msixMasked 0 w = false →
    ((s.on DEV_INT_CTL_ARMED).off DEV_INT_CTL_ARMED).checkLocal s.dev 0 (gpaLocal (s.rd DEV_INT_ADDR)) 4 .put = .ok () →
    ∃ t, exec .rearm s = .next t ∧ t.is DEV_INT_CTL_ARMED = false ∧ t.hostOut = s.hostOut ++ [HostOut.msix 0 w] ∧ s.sameStore t)

/-- Parts of R689, R690, R691, R692, R693. With the standby supply, while no command waits. PRIVATE_READ collects the response.
READ_STATUS, READ_LOG (8 bytes), READ_IDENTITY (1 to 256 bytes within 64 KiB), READ_PWR (an aligned offset of the page), ACK_IBI (2 bytes)
and ECHO (1 to 250 bytes) are answered with success and with the status, the entries from the index on, the identity bytes, the register,
nothing, and the bytes given; ACK_IBI has cleared the causes of its mask. WRITE_PWR of PWR_LIMIT with 600 to 1600 W, with PWR enabled, no
half register waiting and no commit in progress: success, and PWR_LIMIT reads it; of PWR_CMD in HOLD or DORMANT: PERMISSION. READ_LOG,
READ_IDENTITY, READ_PWR, WRITE_PWR, ACK_IBI and ECHO of a wrong length: MALFORMED. In ROW or EASY: READ_REG of an aligned offset is
answered with the register; WRITE_REG of PWR_LIMIT as above sets it; WRITE_REG of a register that I3C may not write, PERMISSION;
READ_LEDGER of an index of the region, the record there or 32 zero bytes. But for READ_PWR and READ_REG, of which only the answer is
stated, memory, tokens and every register not named stay. -/
def Obligations.ManagementCommandsAreAnswered : Prop :=
  ∀ s : State, s.pwr.standby = true → s.i3c.waiting = none →
    let u : State := { s with i3c := { s.i3c with resp := none } }
    let answer := fun (st : Nat) (d : List Byte) => some (leBytes st 1 ++ leBytes d.length 2 ++ d)
    (s.i3c.resp.isSome = true → ∃ t, exec .privateRead s = .next t ∧ t.i3c = { s.i3c with resp := none } ∧ s.sameStore t ∧ s.sameRegsBut t []) ∧
    (∃ t, exec .readStatus s = .next t ∧ t.i3c.resp = answer stSuccess u.statusPayload ∧ s.sameStore t ∧ s.sameRegsBut t []) ∧
    (∀ a : List Byte, a.length = 8 →
      ∃ t, exec (.readLog a) s = .next t ∧ t.i3c.resp = answer stSuccess (leBytes (s.rd LOG_WRITTEN) 8 ++ u.logEntries (leNat a) 7) ∧
        s.sameStore t ∧ s.sameRegsBut t []) ∧
    (∀ a : List Byte, a.length = 6 → 1 ≤ fieldLE a 4 2 → fieldLE a 4 2 ≤ 256 → fieldLE a 0 4 + fieldLE a 4 2 ≤ 65536 →
      ∃ t, exec (.readIdentity a) s = .next t ∧ s.sameStore t ∧ s.sameRegsBut t [] ∧
        t.i3c.resp = answer stSuccess ((List.range (fieldLE a 4 2)).map (fun k => Config.identity (fieldLE a 0 4 + k)))) ∧
    (∀ a : List Byte, a.length = 2 → leNat a % 4 = 0 → leNat a < 0x1000 →
      ∃ t, exec (.readPwr a) s = .next t ∧ t.i3c.resp = answer stSuccess (u.regRead .i3c (0x2000 + leNat a) 4).1) ∧
    (∀ a : List Byte, a.length = 6 → fieldLE a 0 2 = 0x10C → 600 ≤ fieldLE a 2 4 → fieldLE a 2 4 ≤ 1600 → s.is PWR_RET_STAT_BUSY = false →
      s.blk .pwr = 1 → s.halves = [] →
      ∃ t, exec (.writePwr a) s = .next t ∧ t.i3c.resp = answer stSuccess [] ∧ t.rd PWR_LIMIT_W = fieldLE a 2 4 ∧ s.sameStore t ∧
        s.sameRegsBut t [PWR_LIMIT_W.key 0 0, (BLK_RETAIN_CTL_DIRTY .pwr).key 0 0]) ∧
    (∀ a : List Byte, a.length = 6 → fieldLE a 0 2 = 0x100 → s.rd PWR_STAT_STATE = 2 ∨ s.rd PWR_STAT_STATE = 3 →
      ∃ t, exec (.writePwr a) s = .next t ∧ t.i3c.resp = answer stPermission [] ∧ s.sameStore t ∧ s.sameRegsBut t []) ∧
    (∀ a : List Byte, a.length = 2 →
      ∃ t, exec (.ackIbi a) s = .next t ∧ t.i3c.resp = answer stSuccess [] ∧ t.ibi = s.ibi.filter (fun e => !bitOf (leNat a) e.1) ∧
        s.sameStore t ∧ s.sameRegsBut t []) ∧
    (∀ a : List Byte, 1 ≤ a.length → a.length ≤ 250 →
      ∃ t, exec (.echo a) s = .next t ∧ t.i3c.resp = answer stSuccess a ∧ s.sameStore t ∧ s.sameRegsBut t []) ∧
    (∀ (a : List Byte) (c : Instr), (c = .readLog a ∧ a.length ≠ 8 ∨ c = .readIdentity a ∧ a.length ≠ 6 ∨ c = .readPwr a ∧ a.length ≠ 2 ∨
        c = .writePwr a ∧ a.length ≠ 6 ∨ c = .ackIbi a ∧ a.length ≠ 2 ∨ c = .echo a ∧ (a.length = 0 ∨ 250 < a.length)) →
      ∃ t, exec c s = .next t ∧ t.i3c.resp = answer stMalformed [] ∧ s.sameStore t ∧ s.sameRegsBut t []) ∧
    (s.rd PWR_STAT_STATE ≤ 1 →
      (∀ a : List Byte, a.length = 4 → leNat a % 4 = 0 →
        ∃ t, exec (.readReg a) s = .next t ∧ t.i3c.resp = answer stSuccess (u.regRead .i3c (leNat a) 4).1) ∧
      (∀ a : List Byte, a.length = 8 → fieldLE a 0 4 = 0x210C → 600 ≤ fieldLE a 4 4 → fieldLE a 4 4 ≤ 1600 →
        s.is PWR_RET_STAT_BUSY = false → s.blk .pwr = 1 → s.halves = [] →
        ∃ t, exec (.writeReg a) s = .next t ∧ t.i3c.resp = answer stSuccess [] ∧ t.rd PWR_LIMIT_W = fieldLE a 4 4 ∧ s.sameStore t ∧
          s.sameRegsBut t [PWR_LIMIT_W.key 0 0, (BLK_RETAIN_CTL_DIRTY .pwr).key 0 0]) ∧
      (∀ a : List Byte, a.length = 8 → fieldLE a 0 4 % 4 = 0 → s.mayWrite .i3c (fieldLE a 0 4) = false →
        ∃ t, exec (.writeReg a) s = .next t ∧ t.i3c.resp = answer stPermission [] ∧ s.sameStore t ∧ s.sameRegsBut t []) ∧
      (∀ a : List Byte, a.length = 4 → leNat a < ledgerCap →
        ∃ t, exec (.readLedger a) s = .next t ∧ s.sameStore t ∧ s.sameRegsBut t [] ∧
          t.i3c.resp = answer stSuccess (((s.ledger false)[leNat a]?).getD (leBytes 0 32))))

/-- Parts of R4, R689, R690, R695, R697, R698. In ROW or EASY with the standby supply, while no command waits. SPDM_SEND of a chunk: more
to come, success and the bytes join the request; the last one, with a request code of R695, the request is ready as well. SPDM_RECV:
success with up to 240 bytes of the response and a flag for the last, the rest is kept; while a request is being answered it waits.
FW_BEGIN of 1 byte to 16 MiB: success, the slot that does not run is erased, its size is noted, the running one stays. FW_DATA of 1 to 240
bytes inside the size: success, those bytes of the slot are written, no others. FW_COMMIT with flag 0 or 1: of a valid slot, success with
VERSION and SVN, and flag 1 raises the fused minimum to its SVN; of another, MALFORMED. Memory, tokens and every register but
DEV_FW_MIN_SVN stay. GET_VERSION, GET_CAPABILITIES, NEGOTIATE_ALGORITHMS, GET_DIGESTS, GET_CERTIFICATE, CHALLENGE and GET_MEASUREMENTS,
with the main rails on: where the responder on I3C has gathered the request of that code, its response is there (bytes of Config: the
model's free values, log 35) and its connection has moved on; else on a front device the responder on DOE does so with the message of the
row (log 35). The other responder, memory, tokens and every register stay. -/
def Obligations.AttestationAndFirmware : Prop :=
  (∀ s : State, s.pwr.standby = true → s.i3c.waiting = none → s.rd PWR_STAT_STATE ≤ 1 →
    let answer := fun (st : Nat) (d : List Byte) => some (leBytes st 1 ++ leBytes d.length 2 ++ d)
    (∀ a : List Byte, 2 ≤ a.length → a.length ≤ 241 → s.spdm.ready = false → s.spdm.resp = none →
      (fieldLE a 0 1 = 0 → ∃ t, exec (.spdmSend a) s = .next t ∧ t.i3c.resp = answer stSuccess [] ∧ t.spdm.msg = s.spdm.msg ++ a.drop 1 ∧
        t.spdm.ready = false ∧ s.sameStore t ∧ s.sameRegsBut t []) ∧
      (fieldLE a 0 1 = 1 → spdmCodes.contains (fieldLE (s.spdm.msg ++ a.drop 1) 1 1) = true →
        ∃ t, exec (.spdmSend a) s = .next t ∧ t.i3c.resp = answer stSuccess [] ∧ t.spdm.msg = s.spdm.msg ++ a.drop 1 ∧
          t.spdm.ready = true ∧ s.sameStore t ∧ s.sameRegsBut t [])) ∧
    (∀ r : List Byte, s.spdm.resp = some r →
      ∃ t, exec (.spdmRecv []) s = .next t ∧ t.i3c.resp = answer stSuccess (leBytes (b2n (decide (r.length ≤ 240))) 1 ++ r.take 240) ∧
        t.spdm.resp = (if r.length ≤ 240 then none else some (r.drop 240)) ∧ s.sameStore t ∧ s.sameRegsBut t []) ∧
    (s.spdm.resp = none → s.spdm.ready = true →
      ∃ t, exec (.spdmRecv []) s = .next t ∧ t.i3c.waiting = some (.spdmRecv []) ∧ t.i3c.resp = none ∧ s.sameStore t ∧ s.sameRegsBut t []) ∧
    (∀ a : List Byte, a.length = 4 → 1 ≤ leNat a → leNat a ≤ 0x1000000 →
      ∃ t, exec (.fwBegin a) s = .next t ∧ t.i3c.resp = answer stSuccess [] ∧ t.otherSlot = default ∧ t.i3c.fwSize = some (leNat a) ∧
        t.fwSlot (s.rd DEV_FW_SLOT_SLOT) = s.fwSlot (s.rd DEV_FW_SLOT_SLOT) ∧ s.sameStore t ∧ s.sameRegsBut t []) ∧
    (∀ (a : List Byte) (n : Nat), s.i3c.fwSize = some n → 5 ≤ a.length → a.length ≤ 244 → fieldLE a 0 4 + (a.length - 4) ≤ n →
      ∃ t, exec (.fwData a) s = .next t ∧ t.i3c.resp = answer stSuccess [] ∧ s.sameStore t ∧ s.sameRegsBut t [] ∧
        (∀ k, k < a.length - 4 → Tab.find t.otherSlot.data (fieldLE a 0 4 + k) = some (a.getD (4 + k) 0)) ∧
        (∀ k, k < fieldLE a 0 4 ∨ fieldLE a 0 4 + (a.length - 4) ≤ k → Tab.find t.otherSlot.data k = Tab.find s.otherSlot.data k)) ∧
    (∀ a : List Byte, a.length = 1 → leNat a ≤ 1 →
      (s.fwValid s.otherSlot = true →
        ∃ t, exec (.fwCommit a) s = .next t ∧ t.i3c.resp = answer stSuccess (leBytes s.otherSlot.ver 4 ++ leBytes s.otherSlot.secNum 4) ∧
          t.fwMin = (if leNat a = 1 then max s.fwMin s.otherSlot.secNum else s.fwMin) ∧ s.sameStore t ∧
          s.sameRegsBut t [DEV_FW_MIN_SVN.key 0 0]) ∧
      (s.fwValid s.otherSlot = false →
        ∃ t, exec (.fwCommit a) s = .next t ∧ t.i3c.resp = answer stMalformed [] ∧ t.fwMin = s.fwMin ∧ s.sameStore t ∧
          s.sameRegsBut t []))) ∧
  (∀ (s : State) (code : Nat) (f : Nat → Nat) (c : Instr), s.railsUp = true → s.i3c.waiting = none →
    (c = .getVersion ∧ code = 0x84 ∧ f = (fun _ => 1) ∨ c = .getCapabilities ∧ code = 0xE1 ∧ f = (fun n => if n = 1 then 2 else n) ∨
      c = .negotiateAlgorithms ∧ code = 0xE3 ∧ f = (fun n => if n = 2 then 3 else n) ∨
      (c = .getDigests ∧ code = 0x81 ∨ c = .getCertificate ∧ code = 0x82 ∨ c = .challenge ∧ code = 0x83 ∨
        c = .getMeasurements ∧ code = 0xE0) ∧ f = (fun n => n)) →
    let reply := fun (u : SpdmUnit) => ({ msg := [], ready := false, conn := f u.conn,
                                          resp := some (Config.spdmReply u.msg u.conn s.measured s.fresh) } : SpdmUnit)
    (s.spdm.asks code = true →
      ∃ t, exec c s = .next t ∧ t.spdm = reply s.spdm ∧ t.doe = s.doe ∧ s.sameStore t ∧ s.sameRegsBut t []) ∧
    (s.spdm.asks code = false → s.front = true →
      ∃ t, exec c s = .next t ∧ t.doe = reply { s.doe with msg := s.doeRequest code } ∧ t.spdm = s.spdm ∧ s.sameStore t ∧ s.sameRegsBut t []))

/-- Parts of R699, R700, R701, R702, R703, R704, R705, R706, R707, R708. With the main rails on. TEST_RUN of a page with a test unit:
where its conditions hold, RUN is set, STATE is 1, lock and counts are 0, and memory, tokens and every other register stay (for the host
link in mode 1 or off a front device); the host link of a front device in another mode goes down; where they do not hold, RUN is clear and
STATE is 2. LOOPBACK_FOLLOWER on a front device: STATE is 3 and the PCIe link is down. MARGIN_GO of a controller without a sweep: where it
may be tested, BUSY and GO are set, a sweep stands at step 0 of its lower side, VALID is clear; else STATE reads refused (2) and no sweep
starts. MARGIN_TRIAL of a sweep that is not paused: without an error it is one step further; the 127th passing step of the lower side sets
LOW to 127 and CLIPPED and turns to the upper side; the first failing lane of the upper side sets HIGH to the steps passed, VALID,
WORST_DQ (the lane noted earlier, else this one), and ends the sweep. With the standby supply: IDCODE, BYPASS and TEST_LOGIC_RESET load
their code and change nothing else; SAMPLE_PRELOAD of 96 cells sets code and cells; EXTEST, CLAMP and HIGHZ off a front device, with no
frame to replay or send, load their code, and ports that were up are FAILED, memory and tokens stay. -/
def Obligations.TestsAndBoundaryScanRun : Prop :=
  (∀ (s : State) (p : Page) (i : Nat) (m : Fld × Fld × Fld × Fld × Fld × Fld × Fld), s.railsUp = true → i < p.count → testRegs p = some m →
    let mode := s.rd m.1 i
    (s.testOk p i mode = true → (p = .hif → mode = 1 ∨ s.front = false) →
      ∃ t, exec (.testRun p i) s = .next t ∧ t.is m.2.2.1 i = true ∧ t.rd m.2.2.2.1 i = 1 ∧ t.rd m.2.2.2.2.1 i = 0 ∧
        t.rd m.2.2.2.2.2.1 i = 0 ∧ t.rd m.2.2.2.2.2.2 i = 0 ∧ s.sameStore t ∧
        s.sameRegsBut t [m.2.2.1.key i 0, m.2.2.2.1.key i 0, m.2.2.2.2.1.key i 0, m.2.2.2.2.2.1.key i 0, m.2.2.2.2.2.2.key i 0]) ∧
    (s.testOk p i mode = true → p = .hif → mode ≠ 1 → s.front = true →
      ∃ t, exec (.testRun p i) s = .next t ∧ t.rd m.2.2.2.1 i = 1 ∧ t.front = false ∧ t.hostReads = []) ∧
    (s.testOk p i mode = false →
      ∃ t, exec (.testRun p i) s = .next t ∧ t.is m.2.2.1 i = false ∧ t.rd m.2.2.2.1 i = 2 ∧ s.sameStore t ∧
        s.sameRegsBut t [m.2.2.1.key i 0, m.2.2.2.1.key i 0])) ∧
  (∀ s : State, s.railsUp = true → s.front = true →
    ∃ t, exec .loopbackFollower s = .next t ∧ t.rd HIF_TEST_STAT_STATE = 3 ∧ t.front = false ∧ t.hostReads = []) ∧
  (∀ (s : State) (lpd : Bool) (c : Nat), s.railsUp = true → memOk lpd c = true → s.is (marginRegs lpd).busy c = false →
    (s.memTestOk lpd c = true →
      ∃ t, exec (.marginGo lpd c) s = .next t ∧ t.is (marginRegs lpd).busy c = true ∧ t.is (marginRegs lpd).go c = true ∧
        Tab.find t.sweeps (sweepKey lpd c) = some { upper := false, steps := 0, worst := none } ∧
        t.is (marginRegs lpd).valid c = false ∧ s.sameStore t) ∧
    (s.memTestOk lpd c = false →
      ∃ t, exec (.marginGo lpd c) s = .next t ∧ t.rd (if lpd then LPD_TEST_STAT_STATE else HBM_TEST_STAT_STATE) c = 2 ∧
        t.sweeps = s.sweeps ∧ s.sameStore t ∧
        s.sameRegsBut t [(if lpd then LPD_TEST_STAT_STATE else HBM_TEST_STAT_STATE).key c 0])) ∧
  (∀ (s : State) (lpd : Bool) (c : Nat) (w : Sweep) (errors : List Nat), s.railsUp = true → memOk lpd c = true →
    Tab.find s.sweeps (sweepKey lpd c) = some w → s.sweepPaused lpd c = false → w.steps < 127 →
    ((∀ e, e ∈ errors → e = 0) → w.steps + 1 < 127 →
      ∃ t, exec (.marginTrial lpd c errors) s = .next t ∧ s.sameStore t ∧ s.sameRegsBut t [] ∧
        Tab.find t.sweeps (sweepKey lpd c) = some { w with steps := w.steps + 1 }) ∧
    ((∀ e, e ∈ errors → e = 0) → w.steps + 1 = 127 → w.upper = false →
      ∃ t, exec (.marginTrial lpd c errors) s = .next t ∧ t.rd (marginRegs lpd).low c = 127 ∧ t.is (marginRegs lpd).clipped c = true ∧
        Tab.find t.sweeps (sweepKey lpd c) = some { upper := true, steps := 0, worst := w.worst } ∧ s.sameStore t) ∧
    (∀ dq : Nat, errors.findIdx? (fun e => e != 0) = some dq → w.upper = true →
      ∃ t, exec (.marginTrial lpd c errors) s = .next t ∧ t.rd (marginRegs lpd).high c = w.steps ∧ t.is (marginRegs lpd).valid c = true ∧
        t.is (marginRegs lpd).busy c = false ∧ t.is (marginRegs lpd).go c = false ∧ t.rd (marginRegs lpd).worst c = (w.worst.getD dq) % 2 ^ (marginRegs lpd).worst.w ∧
        s.sameStore t)) ∧
  (∀ s : State, s.pwr.standby = true →
     (∀ (c : Instr) (ir : Nat), (c = .idcode ∧ ir = 0x01 ∨ c = .bypass ∧ ir = 0xFF ∨ c = .testLogicReset ∧ ir = 0x01) →
       ∃ t, exec c s = .next t ∧ t.tap = { s.tap with ir := ir } ∧ s.sameStore t ∧ s.sameRegsBut t []) ∧
     (∀ cells : List Bool, cells.length = 96 →
       ∃ t, exec (.samplePreload cells) s = .next t ∧ t.tap = { ir := 0x02, cells := cells } ∧ s.sameStore t ∧ s.sameRegsBut t []) ∧
     (∀ (c : Instr) (ir : Nat), (c = .extest ∧ ir = 0x00 ∨ c = .clamp ∧ ir = 0x04 ∨ c = .highz ∧ ir = 0x05) → s.front = false →
       (∀ q, q < 16 → (s.port q).replay = [] ∧ (s.port q).tx = []) →
       ∃ t, exec c s = .next t ∧ t.tap = { s.tap with ir := ir } ∧ s.sameStore t ∧
         (∀ q, q < 16 → s.railsUp = true → s.portUp q = true → t.rd LNK_STAT_STATE q = 5) ∧
         (s.railsUp = false → s.sameRegsBut t [])))

/-- Parts of R26. The block takes the commands of its queue first in, first out: a step of a state whose queue has a command in front
runs exec on that command, with the rest of the queue. On an empty queue a step is a tick of the stroke clock (the model's choice, log 1):
it answers a next state, whose queue is empty. -/
def Obligations.StepRunsTheFrontCommand : Prop :=
  (∀ (c : Instr) (s : State) (rest : List Instr), step { s with pending := c :: rest } = exec c { s with pending := rest }) ∧
  (∀ s : State, s.pending = [] → ∃ t, step s = .next t ∧ t.pending = [] ∧ t.ordered = true)

/-- Parts of R66, R304, R305, R650. The representation of the state after reset is in order: memory lists nothing that an unlisted address reads as,
register fields and tokens are listed once each. The queue is empty, the stroke unit is STOPPED, no memory is listed, every token reads 0
(log 5), and the module is in ROW. -/
def Obligations.ResetLeavesAStoppedOrderedMachine : Prop :=
  State.reset.ordered = true ∧ State.reset.pending = [] ∧ State.reset.stkState = 0 ∧ State.reset.rd PWR_STAT_STATE = 0 ∧
  State.reset.railsUp = true ∧ State.reset.mem = [] ∧ (∀ k, State.reset.tok k = 0) ∧ (∀ a, State.reset.rdByte a = initByte a)

/-- Parts of R39, R304. Every step keeps the representation in order: memory in its canonical form (addresses strictly rising, no entry
equal to what an unlisted address reads as), and register fields and tokens listed once each in rising order. -/
def Obligations.EveryStepKeepsTheStateOrdered : Prop :=
  ∀ s t : State, s.ordered = true → step s = .next t → t.ordered = true

/-- Parts of R716, R727. Every command runs: from every state exec answers a next state, and no command changes the queue. -/
def Obligations.EveryCommandRunsAndLeavesTheQueue : Prop :=
  ∀ (i : Instr) (s : State), ∃ t, exec i s = .next t ∧ t.pending = s.pending

/-- Parts of R650, R660. While the rails of the main dies are off, a command of the main dies changes nothing. -/
def Obligations.NoMainDieCommandRunsWithoutItsRails : Prop :=
  ∀ (i : Instr) (s : State), s.railsUp = false → alwaysOn i = false → exec i s = .next s

/-- Parts of R746, R747. STK_CMD takes effect only on the starter and only in the state of its command. In any other case it is ignored and sets
STK_STAT.CFG_ERR and the CFG_ERR of the page: the unit, the tokens, memory, and every other register but those that record a refused GO
(log 51) stay. -/
def Obligations.StkCmdOutsideItsStateIsIgnored : Prop :=
  ∀ (i : Instr) (s : State), s.railsUp = true →
    (i = .stkCmdGo ∧ ¬ (s.stkState = 1 ∧ s.starter = true ∧ s.stk.due = none ∧ s.rd STK_MEMBERS_COUNT ≤ s.stk.readys.length + 1 ∧
        ∀ r, r ∈ s.stk.readys → s.readyCause r.2 = 0) ∨
      i = .stkCmdStop ∧ ¬ (s.stkState = 2 ∧ s.starter = true) ∨
      (i = .stkCmdResume ∨ i = .stkCmdAbandon) ∧ ¬ (s.stkState = 3 ∧ s.starter = true)) →
    ∃ t, exec i s = .next t ∧ t.is STK_STAT_CFG_ERR = true ∧ t.is (BLK_STAT_CFG_ERR .stk) = true ∧ t.stk = s.stk ∧ t.stkState = s.stkState ∧
      t.stroke = s.stroke ∧ s.sameStore t ∧
      s.sameRegsBut t [STK_STAT_CFG_ERR.key 0 0, (BLK_STAT_CFG_ERR .stk).key 0 0, (BLK_INT_STAT .stk).key 0 0, STK_STAT_GO_ERR.key 0 0,
        STK_GO_FAULT_CAUSE.key 0 0, STK_GO_FAULT_DEV.key 0 0, STK_GO_FAULT_READY_COUNT.key 0 0, STK_GO_FAULT_VALID.key 0 0]

/-- R68. A device in state STOPPED discards every CATCH it receives: the message leaves the receive buffer, the unit stays as it is, and
nothing changes but STK_LAST_ELAPSED. -/
def Obligations.AStoppedDeviceDiscardsEveryCatch : Prop :=
  ∀ (s : State) (q a : Nat) (p : Packet), s.railsUp = true → s.stkState = 0 → s.strokeAt q 2 = some (a, p) →
    ∃ t, exec (.curtain q) s = .next t ∧ t.stk = s.stk ∧ t.stkState = 0 ∧
      (t.port q).rx = (s.port q).rx.eraseP (fun e => e.2.vc == 3) ∧ (∀ r, r ≠ q → t.port r = s.port r) ∧
      s.sameStore t ∧ s.sameRegsBut t [STK_LAST_ELAPSED.key 0 0]
end

