-- ==== Sys2Proof/Decode.lean ====
section
/-!
DEFINITION. Decoding: the opcode table gives no bits for any of its rows (a command is an access or an event, and no word
of the device spells one), so no word decodes.
-/
namespace Sys2Proof

/-- The command that a word of the opcode table's bits spells: none, since no row gives bits. -/
def decodeTableWord (_nbits _w : Nat) : Option Instr := none

end Sys2Proof
end

