-- ==== Sys2Proof/Laws/Tab.lean ====
section
/-!
SUPPORT. The laws of tables: what a lookup finds after each operation, and that each operation keeps the keys in order.
-/
namespace Sys2Proof.Machine.Tab

variable {α : Type}

/-! ### Lookups -/

@[simp] theorem find_nil (k : Nat) : find ([] : List (Nat × α)) k = none := rfl

theorem find_cons (p : Nat × α) (t : List (Nat × α)) (k : Nat) : find (p :: t) k = if p.1 = k then some p.2 else find t k := rfl

/-- A lookup after `put` finds the new value under its key, and the old value under every other. -/
theorem find_put (t : List (Nat × α)) (k : Nat) (v : α) (j : Nat) : find (put t k v) j = if j = k then some v else find t j := by
  induction t with
  | nil =>
    by_cases h : k = j
    · simp [put, find_cons, h]
    · simp [put, find_cons, h, Ne.symm h]
  | cons p t ih =>
    obtain ⟨a, b⟩ := p
    by_cases h1 : k < a
    · by_cases h : k = j
      · subst h; simp [put, find_cons, h1]
      · simp [put, find_cons, h1, h, Ne.symm h]
    · by_cases h2 : k = a
      · subst h2
        by_cases h : k = j
        · simp [put, find_cons, h]
        · simp [put, find_cons, h, Ne.symm h]
      · by_cases h3 : a = j
        · subst h3; simp [put, find_cons, h1, h2, Ne.symm h2]
        · simp [put, find_cons, h1, h2, h3, ih]

/-- A lookup after `del` finds nothing under the key removed. -/
theorem find_del (t : List (Nat × α)) (k j : Nat) : find (del t k) j = if j = k then none else find t j := by
  induction t with
  | nil => simp [del]
  | cons p t ih =>
    by_cases h : p.1 = k
    · have e : del (p :: t) k = del t k := by simp [del, h]
      rw [e, ih]; by_cases hj : j = k
      · simp [hj]
      · have : p.1 ≠ j := fun e => hj (by rw [← e, h])
        simp [hj, find_cons, this]
    · have e : del (p :: t) k = p :: del t k := by simp [del, h]
      rw [e, find_cons, ih]
      by_cases hj : j = k
      · subst hj; simp [h]
      · simp [hj, find_cons]

@[simp] theorem look_put_same (t : List (Nat × α)) (k : Nat) (v d : α) : look (put t k v) k d = v := by simp [look, find_put]

theorem look_put_ne (t : List (Nat × α)) {k j : Nat} (h : j ≠ k) (v d : α) : look (put t k v) j d = look t j d := by
  simp [look, find_put, h]

@[simp] theorem look_set_same [DecidableEq α] (t : List (Nat × α)) (k : Nat) (d v : α) : look (set t k d v) k d = v := by
  by_cases h : v = d <;> simp [set, look, h, find_put, find_del]

theorem look_set_ne [DecidableEq α] (t : List (Nat × α)) {k j : Nat} (h : j ≠ k) (d v e : α) : look (set t k d v) j e = look t j e := by
  by_cases hv : v = d <;> simp [set, look, hv, find_put, find_del, h]

/-- Bringing the keys in order changes no lookup. -/
@[simp] theorem find_canon (t : List (Nat × α)) (k : Nat) : find (canon t) k = find t k := by
  induction t with
  | nil => rfl
  | cons p t ih =>
    have e : canon (p :: t) = put (canon t) p.1 p.2 := rfl
    rw [e, find_put, ih, find_cons]
    by_cases h : k = p.1 <;> simp [h, eq_comm]

@[simp] theorem look_canon (t : List (Nat × α)) (k : Nat) (d : α) : look (canon t) k d = look t k d := by simp [look]

/-! ### Order -/

/-- The keys of a table rise strictly. -/
theorem sorted_iff (t : List (Nat × α)) : sorted t = true ↔ t.Pairwise (fun p q => p.1 < q.1) := by
  simp [sorted, List.pairwise_map]

@[simp] theorem sorted_nil : sorted ([] : List (Nat × α)) = true := by simp [sorted]

theorem mem_put {t : List (Nat × α)} {k : Nat} {v : α} {q : Nat × α} (h : q ∈ put t k v) : q = (k, v) ∨ q ∈ t := by
  induction t with
  | nil => simpa [put] using h
  | cons p t ih =>
    obtain ⟨a, b⟩ := p
    by_cases h1 : k < a
    · simpa [put, h1] using h
    · by_cases h2 : k = a
      · simp [put, h2] at h
        rcases h with h | h
        · left; simpa [h2] using h
        · right; simp [h]
      · simp [put, h1, h2] at h
        rcases h with h | h
        · right; simp [h]
        · rcases ih h with h | h
          · exact .inl h
          · right; simp [h]

/-- `put` keeps the keys in order. -/
theorem sorted_put {t : List (Nat × α)} (h : sorted t = true) (k : Nat) (v : α) : sorted (put t k v) = true := by
  rw [sorted_iff] at *
  induction t with
  | nil => simp [put]
  | cons p t ih =>
    obtain ⟨a, b⟩ := p
    rw [List.pairwise_cons] at h
    by_cases h1 : k < a
    · simp only [put, h1, if_true]
      refine List.pairwise_cons.2 ⟨?_, List.pairwise_cons.2 h⟩
      intro q hq
      rcases List.mem_cons.1 hq with hq | hq
      · simpa [hq] using h1
      · exact lt_trans h1 (h.1 q hq)
    · by_cases h2 : k = a
      · subst h2
        simp only [put, lt_irrefl, if_false, if_true]
        exact List.pairwise_cons.2 h
      · simp only [put, h1, h2, if_false]
        refine List.pairwise_cons.2 ⟨?_, ih h.2⟩
        intro q hq
        rcases mem_put hq with e | hq
        · rw [e]; show a < k; omega
        · exact h.1 q hq

/-- Filtering keeps the keys in order. -/
theorem sorted_filter {t : List (Nat × α)} (h : sorted t = true) (f : Nat × α → Bool) : sorted (t.filter f) = true := by
  rw [sorted_iff] at *
  exact h.filter f

theorem sorted_del {t : List (Nat × α)} (h : sorted t = true) (k : Nat) : sorted (del t k) = true := sorted_filter h _

theorem sorted_set [DecidableEq α] {t : List (Nat × α)} (h : sorted t = true) (k : Nat) (d v : α) : sorted (set t k d v) = true := by
  by_cases hv : v = d
  · simp [set, hv, sorted_del h]
  · simp [set, hv, sorted_put h]

/-- `canon` brings the keys of any table in order. -/
@[simp] theorem sorted_canon (t : List (Nat × α)) : sorted (canon t) = true := by
  induction t with
  | nil => simp [canon]
  | cons p t ih => exact sorted_put ih p.1 p.2

/-- Where every pair under a key satisfies the filter or is the default, filtering changes no lookup. -/
theorem find_filter_none {t : List (Nat × α)} {f : Nat × α → Bool} {k : Nat} (hf : ∀ v, f (k, v) = true) :
    find (t.filter f) k = find t k := by
  induction t with
  | nil => rfl
  | cons p t ih =>
    obtain ⟨a, b⟩ := p
    by_cases ha : a = k
    · subst ha; simp [hf, find_cons]
    · by_cases hp : f (a, b) = true
      · simp [hp, find_cons, ha, ih]
      · simp [hp, find_cons, ha, ih]

/-- A pair that a lookup in a sorted table finds is its only one: filtering keeps it or leaves nothing. -/
theorem find_filter {t : List (Nat × α)} (h : sorted t = true) (f : Nat × α → Bool) (k : Nat) :
    find (t.filter f) k = (find t k).filter (fun v => f (k, v)) := by
  rw [sorted_iff] at h
  induction t with
  | nil => rfl
  | cons p t ih =>
    obtain ⟨a, b⟩ := p
    rw [List.pairwise_cons] at h
    by_cases ha : a = k
    · subst ha
      have none_after : find t a = none := by
        have hlt := h.1
        clear ih h
        induction t with
        | nil => rfl
        | cons q t ih =>
          have hq := hlt q (by simp)
          have : q.1 ≠ a := by have : a < q.1 := hq; omega
          rw [find_cons, if_neg this]
          exact ih (fun r hr => hlt r (by simp [hr]))
      by_cases hp : f (a, b) = true
      · simp [hp, find_cons, Option.filter]
      · simp [hp, find_cons, ih h.2, none_after, Option.filter]
    · by_cases hp : f (a, b) = true
      · simp [hp, find_cons, ha, ih h.2]
      · simp [hp, find_cons, ha, ih h.2]

end Sys2Proof.Machine.Tab
end

