-- ==== Sys2Proof/Laws/State.lean ====
section
/-!
SUPPORT. What each named update of the state leaves: one lemma per field and update, true by definition. What an update
changes is said in Laws/Ops.lean.
-/
namespace Sys2Proof.Machine

variable (s : State)

/-! ### `State.wr` -/

@[simp] theorem State.wr_pending (f : Fld) (v i j : Nat) : (s.wr f v i j).pending = s.pending := rfl
@[simp] theorem State.wr_clock (f : Fld) (v i j : Nat) : (s.wr f v i j).clock = s.clock := rfl
@[simp] theorem State.wr_fresh (f : Fld) (v i j : Nat) : (s.wr f v i j).fresh = s.fresh := rfl
@[simp] theorem State.wr_mem (f : Fld) (v i j : Nat) : (s.wr f v i j).mem = s.mem := rfl
@[simp] theorem State.wr_undef (f : Fld) (v i j : Nat) : (s.wr f v i j).undef = s.undef := rfl
@[simp] theorem State.wr_poison (f : Fld) (v i j : Nat) : (s.wr f v i j).poison = s.poison := rfl
@[simp] theorem State.wr_tokens (f : Fld) (v i j : Nat) : (s.wr f v i j).tokens = s.tokens := rfl
@[simp] theorem State.wr_spareMap (f : Fld) (v i j : Nat) : (s.wr f v i j).spareMap = s.spareMap := rfl
@[simp] theorem State.wr_halves (f : Fld) (v i j : Nat) : (s.wr f v i j).halves = s.halves := rfl
@[simp] theorem State.wr_latched (f : Fld) (v i j : Nat) : (s.wr f v i j).latched = s.latched := rfl
@[simp] theorem State.wr_routesF (f : Fld) (v i j : Nat) : (s.wr f v i j).routesF = s.routesF := rfl
@[simp] theorem State.wr_routesB (f : Fld) (v i j : Nat) : (s.wr f v i j).routesB = s.routesB := rfl
@[simp] theorem State.wr_sfuVer (f : Fld) (v i j : Nat) : (s.wr f v i j).sfuVer = s.sfuVer := rfl
@[simp] theorem State.wr_stk (f : Fld) (v i j : Nat) : (s.wr f v i j).stk = s.stk := rfl
@[simp] theorem State.wr_coxes (f : Fld) (v i j : Nat) : (s.wr f v i j).coxes = s.coxes := rfl
@[simp] theorem State.wr_cores (f : Fld) (v i j : Nat) : (s.wr f v i j).cores = s.cores := rfl
@[simp] theorem State.wr_ports (f : Fld) (v i j : Nat) : (s.wr f v i j).ports = s.ports := rfl
@[simp] theorem State.wr_ops (f : Fld) (v i j : Nat) : (s.wr f v i j).ops = s.ops := rfl
@[simp] theorem State.wr_nextOp (f : Fld) (v i j : Nat) : (s.wr f v i j).nextOp = s.nextOp := rfl
@[simp] theorem State.wr_arrived (f : Fld) (v i j : Nat) : (s.wr f v i j).arrived = s.arrived := rfl
@[simp] theorem State.wr_asked (f : Fld) (v i j : Nat) : (s.wr f v i j).asked = s.asked := rfl
@[simp] theorem State.wr_hostOut (f : Fld) (v i j : Nat) : (s.wr f v i j).hostOut = s.hostOut := rfl
@[simp] theorem State.wr_hostReads (f : Fld) (v i j : Nat) : (s.wr f v i j).hostReads = s.hostReads := rfl
@[simp] theorem State.wr_nextTag (f : Fld) (v i j : Nat) : (s.wr f v i j).nextTag = s.nextTag := rfl
@[simp] theorem State.wr_barWaits (f : Fld) (v i j : Nat) : (s.wr f v i j).barWaits = s.barWaits := rfl
@[simp] theorem State.wr_barFailed (f : Fld) (v i j : Nat) : (s.wr f v i j).barFailed = s.barFailed := rfl
@[simp] theorem State.wr_slots (f : Fld) (v i j : Nat) : (s.wr f v i j).slots = s.slots := rfl
@[simp] theorem State.wr_slotGen (f : Fld) (v i j : Nat) : (s.wr f v i j).slotGen = s.slotGen := rfl
@[simp] theorem State.wr_slotless (f : Fld) (v i j : Nat) : (s.wr f v i j).slotless = s.slotless := rfl
@[simp] theorem State.wr_lost (f : Fld) (v i j : Nat) : (s.wr f v i j).lost = s.lost := rfl
@[simp] theorem State.wr_tlb (f : Fld) (v i j : Nat) : (s.wr f v i j).tlb = s.tlb := rfl
@[simp] theorem State.wr_logQueue (f : Fld) (v i j : Nat) : (s.wr f v i j).logQueue = s.logQueue := rfl
@[simp] theorem State.wr_logRing (f : Fld) (v i j : Nat) : (s.wr f v i j).logRing = s.logRing := rfl
@[simp] theorem State.wr_ibi (f : Fld) (v i j : Nat) : (s.wr f v i j).ibi = s.ibi := rfl
@[simp] theorem State.wr_chans (f : Fld) (v i j : Nat) : (s.wr f v i j).chans = s.chans := rfl
@[simp] theorem State.wr_watches (f : Fld) (v i j : Nat) : (s.wr f v i j).watches = s.watches := rfl
@[simp] theorem State.wr_lostObjs (f : Fld) (v i j : Nat) : (s.wr f v i j).lostObjs = s.lostObjs := rfl
@[simp] theorem State.wr_waitPkts (f : Fld) (v i j : Nat) : (s.wr f v i j).waitPkts = s.waitPkts := rfl
@[simp] theorem State.wr_regWrites (f : Fld) (v i j : Nat) : (s.wr f v i j).regWrites = s.regWrites := rfl
@[simp] theorem State.wr_ctxFaults (f : Fld) (v i j : Nat) : (s.wr f v i j).ctxFaults = s.ctxFaults := rfl
@[simp] theorem State.wr_touched (f : Fld) (v i j : Nat) : (s.wr f v i j).touched = s.touched := rfl
@[simp] theorem State.wr_amaxDone (f : Fld) (v i j : Nat) : (s.wr f v i j).amaxDone = s.amaxDone := rfl
@[simp] theorem State.wr_objs (f : Fld) (v i j : Nat) : (s.wr f v i j).objs = s.objs := rfl
@[simp] theorem State.wr_tierCmd (f : Fld) (v i j : Nat) : (s.wr f v i j).tierCmd = s.tierCmd := rfl
@[simp] theorem State.wr_rosReqs (f : Fld) (v i j : Nat) : (s.wr f v i j).rosReqs = s.rosReqs := rfl
@[simp] theorem State.wr_rosPrev (f : Fld) (v i j : Nat) : (s.wr f v i j).rosPrev = s.rosPrev := rfl
@[simp] theorem State.wr_rosAdvs (f : Fld) (v i j : Nat) : (s.wr f v i j).rosAdvs = s.rosAdvs := rfl
@[simp] theorem State.wr_rosDemands (f : Fld) (v i j : Nat) : (s.wr f v i j).rosDemands = s.rosDemands := rfl
@[simp] theorem State.wr_rosDrops (f : Fld) (v i j : Nat) : (s.wr f v i j).rosDrops = s.rosDrops := rfl
@[simp] theorem State.wr_rosAdds (f : Fld) (v i j : Nat) : (s.wr f v i j).rosAdds = s.rosAdds := rfl
@[simp] theorem State.wr_rosNoDir (f : Fld) (v i j : Nat) : (s.wr f v i j).rosNoDir = s.rosNoDir := rfl
@[simp] theorem State.wr_rosAborted (f : Fld) (v i j : Nat) : (s.wr f v i j).rosAborted = s.rosAborted := rfl
@[simp] theorem State.wr_lenFull (f : Fld) (v i j : Nat) : (s.wr f v i j).lenFull = s.lenFull := rfl
@[simp] theorem State.wr_lenDirty (f : Fld) (v i j : Nat) : (s.wr f v i j).lenDirty = s.lenDirty := rfl
@[simp] theorem State.wr_snaps (f : Fld) (v i j : Nat) : (s.wr f v i j).snaps = s.snaps := rfl
@[simp] theorem State.wr_ckptFrames (f : Fld) (v i j : Nat) : (s.wr f v i j).ckptFrames = s.ckptFrames := rfl
@[simp] theorem State.wr_faults (f : Fld) (v i j : Nat) : (s.wr f v i j).faults = s.faults := rfl
@[simp] theorem State.wr_suspects (f : Fld) (v i j : Nat) : (s.wr f v i j).suspects = s.suspects := rfl
@[simp] theorem State.wr_retired (f : Fld) (v i j : Nat) : (s.wr f v i j).retired = s.retired := rfl
@[simp] theorem State.wr_ledger0 (f : Fld) (v i j : Nat) : (s.wr f v i j).ledger0 = s.ledger0 := rfl
@[simp] theorem State.wr_ledger1 (f : Fld) (v i j : Nat) : (s.wr f v i j).ledger1 = s.ledger1 := rfl
@[simp] theorem State.wr_ledgerPend (f : Fld) (v i j : Nat) : (s.wr f v i j).ledgerPend = s.ledgerPend := rfl
@[simp] theorem State.wr_powerCycles (f : Fld) (v i j : Nat) : (s.wr f v i j).powerCycles = s.powerCycles := rfl
@[simp] theorem State.wr_sprOp (f : Fld) (v i j : Nat) : (s.wr f v i j).sprOp = s.sprOp := rfl
@[simp] theorem State.wr_testRows (f : Fld) (v i j : Nat) : (s.wr f v i j).testRows = s.testRows := rfl
@[simp] theorem State.wr_banks (f : Fld) (v i j : Nat) : (s.wr f v i j).banks = s.banks := rfl
@[simp] theorem State.wr_self (f : Fld) (v i j : Nat) : (s.wr f v i j).self = s.self := rfl
@[simp] theorem State.wr_saved (f : Fld) (v i j : Nat) : (s.wr f v i j).saved = s.saved := rfl
@[simp] theorem State.wr_nextSave (f : Fld) (v i j : Nat) : (s.wr f v i j).nextSave = s.nextSave := rfl
@[simp] theorem State.wr_crewSaves (f : Fld) (v i j : Nat) : (s.wr f v i j).crewSaves = s.crewSaves := rfl
@[simp] theorem State.wr_filtered (f : Fld) (v i j : Nat) : (s.wr f v i j).filtered = s.filtered := rfl
@[simp] theorem State.wr_leaseFails (f : Fld) (v i j : Nat) : (s.wr f v i j).leaseFails = s.leaseFails := rfl
@[simp] theorem State.wr_pinned (f : Fld) (v i j : Nat) : (s.wr f v i j).pinned = s.pinned := rfl
@[simp] theorem State.wr_ctxBell (f : Fld) (v i j : Nat) : (s.wr f v i j).ctxBell = s.ctxBell := rfl
@[simp] theorem State.wr_pwr (f : Fld) (v i j : Nat) : (s.wr f v i j).pwr = s.pwr := rfl
@[simp] theorem State.wr_ret0 (f : Fld) (v i j : Nat) : (s.wr f v i j).ret0 = s.ret0 := rfl
@[simp] theorem State.wr_ret1 (f : Fld) (v i j : Nat) : (s.wr f v i j).ret1 = s.ret1 := rfl
@[simp] theorem State.wr_fwA (f : Fld) (v i j : Nat) : (s.wr f v i j).fwA = s.fwA := rfl
@[simp] theorem State.wr_fwB (f : Fld) (v i j : Nat) : (s.wr f v i j).fwB = s.fwB := rfl
@[simp] theorem State.wr_fwMin (f : Fld) (v i j : Nat) : (s.wr f v i j).fwMin = s.fwMin := rfl
@[simp] theorem State.wr_i3c (f : Fld) (v i j : Nat) : (s.wr f v i j).i3c = s.i3c := rfl
@[simp] theorem State.wr_spdm (f : Fld) (v i j : Nat) : (s.wr f v i j).spdm = s.spdm := rfl
@[simp] theorem State.wr_tap (f : Fld) (v i j : Nat) : (s.wr f v i j).tap = s.tap := rfl
@[simp] theorem State.wr_sweeps (f : Fld) (v i j : Nat) : (s.wr f v i j).sweeps = s.sweeps := rfl
@[simp] theorem State.wr_loadPos (f : Fld) (v i j : Nat) : (s.wr f v i j).loadPos = s.loadPos := rfl
@[simp] theorem State.wr_summaryAt (f : Fld) (v i j : Nat) : (s.wr f v i j).summaryAt = s.summaryAt := rfl
@[simp] theorem State.wr_wideParams (f : Fld) (v i j : Nat) : (s.wr f v i j).wideParams = s.wideParams := rfl
@[simp] theorem State.wr_zeroHist (f : Fld) (v i j : Nat) : (s.wr f v i j).zeroHist = s.zeroHist := rfl
@[simp] theorem State.wr_nextRun (f : Fld) (v i j : Nat) : (s.wr f v i j).nextRun = s.nextRun := rfl
@[simp] theorem State.wr_mcast (f : Fld) (v i j : Nat) : (s.wr f v i j).mcast = s.mcast := rfl
@[simp] theorem State.wr_pageReads (f : Fld) (v i j : Nat) : (s.wr f v i j).pageReads = s.pageReads := rfl
@[simp] theorem State.wr_rcache (f : Fld) (v i j : Nat) : (s.wr f v i j).rcache = s.rcache := rfl
@[simp] theorem State.wr_faultsMet (f : Fld) (v i j : Nat) : (s.wr f v i j).faultsMet = s.faultsMet := rfl
@[simp] theorem State.wr_wildPools (f : Fld) (v i j : Nat) : (s.wr f v i j).wildPools = s.wildPools := rfl
@[simp] theorem State.wr_forkAborted (f : Fld) (v i j : Nat) : (s.wr f v i j).forkAborted = s.forkAborted := rfl
@[simp] theorem State.wr_waitMoves (f : Fld) (v i j : Nat) : (s.wr f v i j).waitMoves = s.waitMoves := rfl
@[simp] theorem State.wr_rosWait (f : Fld) (v i j : Nat) : (s.wr f v i j).rosWait = s.rosWait := rfl
@[simp] theorem State.wr_doe (f : Fld) (v i j : Nat) : (s.wr f v i j).doe = s.doe := rfl
@[simp] theorem State.wr_msixTab (f : Fld) (v i j : Nat) : (s.wr f v i j).msixTab = s.msixTab := rfl
@[simp] theorem State.wr_msixPba (f : Fld) (v i j : Nat) : (s.wr f v i j).msixPba = s.msixPba := rfl
@[simp] theorem State.wr_formerIds (f : Fld) (v i j : Nat) : (s.wr f v i j).formerIds = s.formerIds := rfl

/-! ### `State.wrByte` -/

@[simp] theorem State.wrByte_pending (a : Nat) (b : Byte) : (s.wrByte a b).pending = s.pending := rfl
@[simp] theorem State.wrByte_clock (a : Nat) (b : Byte) : (s.wrByte a b).clock = s.clock := rfl
@[simp] theorem State.wrByte_fresh (a : Nat) (b : Byte) : (s.wrByte a b).fresh = s.fresh := rfl
@[simp] theorem State.wrByte_regs (a : Nat) (b : Byte) : (s.wrByte a b).regs = s.regs := rfl
@[simp] theorem State.wrByte_undef (a : Nat) (b : Byte) : (s.wrByte a b).undef = s.undef := rfl
@[simp] theorem State.wrByte_poison (a : Nat) (b : Byte) : (s.wrByte a b).poison = s.poison := rfl
@[simp] theorem State.wrByte_tokens (a : Nat) (b : Byte) : (s.wrByte a b).tokens = s.tokens := rfl
@[simp] theorem State.wrByte_spareMap (a : Nat) (b : Byte) : (s.wrByte a b).spareMap = s.spareMap := rfl
@[simp] theorem State.wrByte_halves (a : Nat) (b : Byte) : (s.wrByte a b).halves = s.halves := rfl
@[simp] theorem State.wrByte_latched (a : Nat) (b : Byte) : (s.wrByte a b).latched = s.latched := rfl
@[simp] theorem State.wrByte_routesF (a : Nat) (b : Byte) : (s.wrByte a b).routesF = s.routesF := rfl
@[simp] theorem State.wrByte_routesB (a : Nat) (b : Byte) : (s.wrByte a b).routesB = s.routesB := rfl
@[simp] theorem State.wrByte_sfuVer (a : Nat) (b : Byte) : (s.wrByte a b).sfuVer = s.sfuVer := rfl
@[simp] theorem State.wrByte_stk (a : Nat) (b : Byte) : (s.wrByte a b).stk = s.stk := rfl
@[simp] theorem State.wrByte_coxes (a : Nat) (b : Byte) : (s.wrByte a b).coxes = s.coxes := rfl
@[simp] theorem State.wrByte_cores (a : Nat) (b : Byte) : (s.wrByte a b).cores = s.cores := rfl
@[simp] theorem State.wrByte_ports (a : Nat) (b : Byte) : (s.wrByte a b).ports = s.ports := rfl
@[simp] theorem State.wrByte_ops (a : Nat) (b : Byte) : (s.wrByte a b).ops = s.ops := rfl
@[simp] theorem State.wrByte_nextOp (a : Nat) (b : Byte) : (s.wrByte a b).nextOp = s.nextOp := rfl
@[simp] theorem State.wrByte_arrived (a : Nat) (b : Byte) : (s.wrByte a b).arrived = s.arrived := rfl
@[simp] theorem State.wrByte_asked (a : Nat) (b : Byte) : (s.wrByte a b).asked = s.asked := rfl
@[simp] theorem State.wrByte_hostOut (a : Nat) (b : Byte) : (s.wrByte a b).hostOut = s.hostOut := rfl
@[simp] theorem State.wrByte_hostReads (a : Nat) (b : Byte) : (s.wrByte a b).hostReads = s.hostReads := rfl
@[simp] theorem State.wrByte_nextTag (a : Nat) (b : Byte) : (s.wrByte a b).nextTag = s.nextTag := rfl
@[simp] theorem State.wrByte_barWaits (a : Nat) (b : Byte) : (s.wrByte a b).barWaits = s.barWaits := rfl
@[simp] theorem State.wrByte_barFailed (a : Nat) (b : Byte) : (s.wrByte a b).barFailed = s.barFailed := rfl
@[simp] theorem State.wrByte_slots (a : Nat) (b : Byte) : (s.wrByte a b).slots = s.slots := rfl
@[simp] theorem State.wrByte_slotGen (a : Nat) (b : Byte) : (s.wrByte a b).slotGen = s.slotGen := rfl
@[simp] theorem State.wrByte_slotless (a : Nat) (b : Byte) : (s.wrByte a b).slotless = s.slotless := rfl
@[simp] theorem State.wrByte_lost (a : Nat) (b : Byte) : (s.wrByte a b).lost = s.lost := rfl
@[simp] theorem State.wrByte_tlb (a : Nat) (b : Byte) : (s.wrByte a b).tlb = s.tlb := rfl
@[simp] theorem State.wrByte_logQueue (a : Nat) (b : Byte) : (s.wrByte a b).logQueue = s.logQueue := rfl
@[simp] theorem State.wrByte_logRing (a : Nat) (b : Byte) : (s.wrByte a b).logRing = s.logRing := rfl
@[simp] theorem State.wrByte_ibi (a : Nat) (b : Byte) : (s.wrByte a b).ibi = s.ibi := rfl
@[simp] theorem State.wrByte_chans (a : Nat) (b : Byte) : (s.wrByte a b).chans = s.chans := rfl
@[simp] theorem State.wrByte_watches (a : Nat) (b : Byte) : (s.wrByte a b).watches = s.watches := rfl
@[simp] theorem State.wrByte_lostObjs (a : Nat) (b : Byte) : (s.wrByte a b).lostObjs = s.lostObjs := rfl
@[simp] theorem State.wrByte_waitPkts (a : Nat) (b : Byte) : (s.wrByte a b).waitPkts = s.waitPkts := rfl
@[simp] theorem State.wrByte_regWrites (a : Nat) (b : Byte) : (s.wrByte a b).regWrites = s.regWrites := rfl
@[simp] theorem State.wrByte_ctxFaults (a : Nat) (b : Byte) : (s.wrByte a b).ctxFaults = s.ctxFaults := rfl
@[simp] theorem State.wrByte_touched (a : Nat) (b : Byte) : (s.wrByte a b).touched = s.touched := rfl
@[simp] theorem State.wrByte_amaxDone (a : Nat) (b : Byte) : (s.wrByte a b).amaxDone = s.amaxDone := rfl
@[simp] theorem State.wrByte_objs (a : Nat) (b : Byte) : (s.wrByte a b).objs = s.objs := rfl
@[simp] theorem State.wrByte_tierCmd (a : Nat) (b : Byte) : (s.wrByte a b).tierCmd = s.tierCmd := rfl
@[simp] theorem State.wrByte_rosReqs (a : Nat) (b : Byte) : (s.wrByte a b).rosReqs = s.rosReqs := rfl
@[simp] theorem State.wrByte_rosPrev (a : Nat) (b : Byte) : (s.wrByte a b).rosPrev = s.rosPrev := rfl
@[simp] theorem State.wrByte_rosAdvs (a : Nat) (b : Byte) : (s.wrByte a b).rosAdvs = s.rosAdvs := rfl
@[simp] theorem State.wrByte_rosDemands (a : Nat) (b : Byte) : (s.wrByte a b).rosDemands = s.rosDemands := rfl
@[simp] theorem State.wrByte_rosDrops (a : Nat) (b : Byte) : (s.wrByte a b).rosDrops = s.rosDrops := rfl
@[simp] theorem State.wrByte_rosAdds (a : Nat) (b : Byte) : (s.wrByte a b).rosAdds = s.rosAdds := rfl
@[simp] theorem State.wrByte_rosNoDir (a : Nat) (b : Byte) : (s.wrByte a b).rosNoDir = s.rosNoDir := rfl
@[simp] theorem State.wrByte_rosAborted (a : Nat) (b : Byte) : (s.wrByte a b).rosAborted = s.rosAborted := rfl
@[simp] theorem State.wrByte_lenFull (a : Nat) (b : Byte) : (s.wrByte a b).lenFull = s.lenFull := rfl
@[simp] theorem State.wrByte_lenDirty (a : Nat) (b : Byte) : (s.wrByte a b).lenDirty = s.lenDirty := rfl
@[simp] theorem State.wrByte_snaps (a : Nat) (b : Byte) : (s.wrByte a b).snaps = s.snaps := rfl
@[simp] theorem State.wrByte_ckptFrames (a : Nat) (b : Byte) : (s.wrByte a b).ckptFrames = s.ckptFrames := rfl
@[simp] theorem State.wrByte_faults (a : Nat) (b : Byte) : (s.wrByte a b).faults = s.faults := rfl
@[simp] theorem State.wrByte_suspects (a : Nat) (b : Byte) : (s.wrByte a b).suspects = s.suspects := rfl
@[simp] theorem State.wrByte_retired (a : Nat) (b : Byte) : (s.wrByte a b).retired = s.retired := rfl
@[simp] theorem State.wrByte_ledger0 (a : Nat) (b : Byte) : (s.wrByte a b).ledger0 = s.ledger0 := rfl
@[simp] theorem State.wrByte_ledger1 (a : Nat) (b : Byte) : (s.wrByte a b).ledger1 = s.ledger1 := rfl
@[simp] theorem State.wrByte_ledgerPend (a : Nat) (b : Byte) : (s.wrByte a b).ledgerPend = s.ledgerPend := rfl
@[simp] theorem State.wrByte_powerCycles (a : Nat) (b : Byte) : (s.wrByte a b).powerCycles = s.powerCycles := rfl
@[simp] theorem State.wrByte_sprOp (a : Nat) (b : Byte) : (s.wrByte a b).sprOp = s.sprOp := rfl
@[simp] theorem State.wrByte_testRows (a : Nat) (b : Byte) : (s.wrByte a b).testRows = s.testRows := rfl
@[simp] theorem State.wrByte_banks (a : Nat) (b : Byte) : (s.wrByte a b).banks = s.banks := rfl
@[simp] theorem State.wrByte_self (a : Nat) (b : Byte) : (s.wrByte a b).self = s.self := rfl
@[simp] theorem State.wrByte_saved (a : Nat) (b : Byte) : (s.wrByte a b).saved = s.saved := rfl
@[simp] theorem State.wrByte_nextSave (a : Nat) (b : Byte) : (s.wrByte a b).nextSave = s.nextSave := rfl
@[simp] theorem State.wrByte_crewSaves (a : Nat) (b : Byte) : (s.wrByte a b).crewSaves = s.crewSaves := rfl
@[simp] theorem State.wrByte_filtered (a : Nat) (b : Byte) : (s.wrByte a b).filtered = s.filtered := rfl
@[simp] theorem State.wrByte_leaseFails (a : Nat) (b : Byte) : (s.wrByte a b).leaseFails = s.leaseFails := rfl
@[simp] theorem State.wrByte_pinned (a : Nat) (b : Byte) : (s.wrByte a b).pinned = s.pinned := rfl
@[simp] theorem State.wrByte_ctxBell (a : Nat) (b : Byte) : (s.wrByte a b).ctxBell = s.ctxBell := rfl
@[simp] theorem State.wrByte_pwr (a : Nat) (b : Byte) : (s.wrByte a b).pwr = s.pwr := rfl
@[simp] theorem State.wrByte_ret0 (a : Nat) (b : Byte) : (s.wrByte a b).ret0 = s.ret0 := rfl
@[simp] theorem State.wrByte_ret1 (a : Nat) (b : Byte) : (s.wrByte a b).ret1 = s.ret1 := rfl
@[simp] theorem State.wrByte_fwA (a : Nat) (b : Byte) : (s.wrByte a b).fwA = s.fwA := rfl
@[simp] theorem State.wrByte_fwB (a : Nat) (b : Byte) : (s.wrByte a b).fwB = s.fwB := rfl
@[simp] theorem State.wrByte_fwMin (a : Nat) (b : Byte) : (s.wrByte a b).fwMin = s.fwMin := rfl
@[simp] theorem State.wrByte_i3c (a : Nat) (b : Byte) : (s.wrByte a b).i3c = s.i3c := rfl
@[simp] theorem State.wrByte_spdm (a : Nat) (b : Byte) : (s.wrByte a b).spdm = s.spdm := rfl
@[simp] theorem State.wrByte_tap (a : Nat) (b : Byte) : (s.wrByte a b).tap = s.tap := rfl
@[simp] theorem State.wrByte_sweeps (a : Nat) (b : Byte) : (s.wrByte a b).sweeps = s.sweeps := rfl
@[simp] theorem State.wrByte_loadPos (a : Nat) (b : Byte) : (s.wrByte a b).loadPos = s.loadPos := rfl
@[simp] theorem State.wrByte_summaryAt (a : Nat) (b : Byte) : (s.wrByte a b).summaryAt = s.summaryAt := rfl
@[simp] theorem State.wrByte_wideParams (a : Nat) (b : Byte) : (s.wrByte a b).wideParams = s.wideParams := rfl
@[simp] theorem State.wrByte_zeroHist (a : Nat) (b : Byte) : (s.wrByte a b).zeroHist = s.zeroHist := rfl
@[simp] theorem State.wrByte_nextRun (a : Nat) (b : Byte) : (s.wrByte a b).nextRun = s.nextRun := rfl
@[simp] theorem State.wrByte_mcast (a : Nat) (b : Byte) : (s.wrByte a b).mcast = s.mcast := rfl
@[simp] theorem State.wrByte_pageReads (a : Nat) (b : Byte) : (s.wrByte a b).pageReads = s.pageReads := rfl
@[simp] theorem State.wrByte_rcache (a : Nat) (b : Byte) : (s.wrByte a b).rcache = s.rcache := rfl
@[simp] theorem State.wrByte_faultsMet (a : Nat) (b : Byte) : (s.wrByte a b).faultsMet = s.faultsMet := rfl
@[simp] theorem State.wrByte_wildPools (a : Nat) (b : Byte) : (s.wrByte a b).wildPools = s.wildPools := rfl
@[simp] theorem State.wrByte_forkAborted (a : Nat) (b : Byte) : (s.wrByte a b).forkAborted = s.forkAborted := rfl
@[simp] theorem State.wrByte_waitMoves (a : Nat) (b : Byte) : (s.wrByte a b).waitMoves = s.waitMoves := rfl
@[simp] theorem State.wrByte_rosWait (a : Nat) (b : Byte) : (s.wrByte a b).rosWait = s.rosWait := rfl
@[simp] theorem State.wrByte_doe (a : Nat) (b : Byte) : (s.wrByte a b).doe = s.doe := rfl
@[simp] theorem State.wrByte_msixTab (a : Nat) (b : Byte) : (s.wrByte a b).msixTab = s.msixTab := rfl
@[simp] theorem State.wrByte_msixPba (a : Nat) (b : Byte) : (s.wrByte a b).msixPba = s.msixPba := rfl
@[simp] theorem State.wrByte_formerIds (a : Nat) (b : Byte) : (s.wrByte a b).formerIds = s.formerIds := rfl

/-! ### `State.setTok` -/

@[simp] theorem State.setTok_pending (k : Nat) (v : Word) : (s.setTok k v).pending = s.pending := rfl
@[simp] theorem State.setTok_clock (k : Nat) (v : Word) : (s.setTok k v).clock = s.clock := rfl
@[simp] theorem State.setTok_fresh (k : Nat) (v : Word) : (s.setTok k v).fresh = s.fresh := rfl
@[simp] theorem State.setTok_regs (k : Nat) (v : Word) : (s.setTok k v).regs = s.regs := rfl
@[simp] theorem State.setTok_mem (k : Nat) (v : Word) : (s.setTok k v).mem = s.mem := rfl
@[simp] theorem State.setTok_undef (k : Nat) (v : Word) : (s.setTok k v).undef = s.undef := rfl
@[simp] theorem State.setTok_poison (k : Nat) (v : Word) : (s.setTok k v).poison = s.poison := rfl
@[simp] theorem State.setTok_spareMap (k : Nat) (v : Word) : (s.setTok k v).spareMap = s.spareMap := rfl
@[simp] theorem State.setTok_halves (k : Nat) (v : Word) : (s.setTok k v).halves = s.halves := rfl
@[simp] theorem State.setTok_latched (k : Nat) (v : Word) : (s.setTok k v).latched = s.latched := rfl
@[simp] theorem State.setTok_routesF (k : Nat) (v : Word) : (s.setTok k v).routesF = s.routesF := rfl
@[simp] theorem State.setTok_routesB (k : Nat) (v : Word) : (s.setTok k v).routesB = s.routesB := rfl
@[simp] theorem State.setTok_sfuVer (k : Nat) (v : Word) : (s.setTok k v).sfuVer = s.sfuVer := rfl
@[simp] theorem State.setTok_stk (k : Nat) (v : Word) : (s.setTok k v).stk = s.stk := rfl
@[simp] theorem State.setTok_coxes (k : Nat) (v : Word) : (s.setTok k v).coxes = s.coxes := rfl
@[simp] theorem State.setTok_cores (k : Nat) (v : Word) : (s.setTok k v).cores = s.cores := rfl
@[simp] theorem State.setTok_ports (k : Nat) (v : Word) : (s.setTok k v).ports = s.ports := rfl
@[simp] theorem State.setTok_ops (k : Nat) (v : Word) : (s.setTok k v).ops = s.ops := rfl
@[simp] theorem State.setTok_nextOp (k : Nat) (v : Word) : (s.setTok k v).nextOp = s.nextOp := rfl
@[simp] theorem State.setTok_arrived (k : Nat) (v : Word) : (s.setTok k v).arrived = s.arrived := rfl
@[simp] theorem State.setTok_asked (k : Nat) (v : Word) : (s.setTok k v).asked = s.asked := rfl
@[simp] theorem State.setTok_hostOut (k : Nat) (v : Word) : (s.setTok k v).hostOut = s.hostOut := rfl
@[simp] theorem State.setTok_hostReads (k : Nat) (v : Word) : (s.setTok k v).hostReads = s.hostReads := rfl
@[simp] theorem State.setTok_nextTag (k : Nat) (v : Word) : (s.setTok k v).nextTag = s.nextTag := rfl
@[simp] theorem State.setTok_barWaits (k : Nat) (v : Word) : (s.setTok k v).barWaits = s.barWaits := rfl
@[simp] theorem State.setTok_barFailed (k : Nat) (v : Word) : (s.setTok k v).barFailed = s.barFailed := rfl
@[simp] theorem State.setTok_slots (k : Nat) (v : Word) : (s.setTok k v).slots = s.slots := rfl
@[simp] theorem State.setTok_slotGen (k : Nat) (v : Word) : (s.setTok k v).slotGen = s.slotGen := rfl
@[simp] theorem State.setTok_slotless (k : Nat) (v : Word) : (s.setTok k v).slotless = s.slotless := rfl
@[simp] theorem State.setTok_lost (k : Nat) (v : Word) : (s.setTok k v).lost = s.lost := rfl
@[simp] theorem State.setTok_tlb (k : Nat) (v : Word) : (s.setTok k v).tlb = s.tlb := rfl
@[simp] theorem State.setTok_logQueue (k : Nat) (v : Word) : (s.setTok k v).logQueue = s.logQueue := rfl
@[simp] theorem State.setTok_logRing (k : Nat) (v : Word) : (s.setTok k v).logRing = s.logRing := rfl
@[simp] theorem State.setTok_ibi (k : Nat) (v : Word) : (s.setTok k v).ibi = s.ibi := rfl
@[simp] theorem State.setTok_chans (k : Nat) (v : Word) : (s.setTok k v).chans = s.chans := rfl
@[simp] theorem State.setTok_watches (k : Nat) (v : Word) : (s.setTok k v).watches = s.watches := rfl
@[simp] theorem State.setTok_lostObjs (k : Nat) (v : Word) : (s.setTok k v).lostObjs = s.lostObjs := rfl
@[simp] theorem State.setTok_waitPkts (k : Nat) (v : Word) : (s.setTok k v).waitPkts = s.waitPkts := rfl
@[simp] theorem State.setTok_regWrites (k : Nat) (v : Word) : (s.setTok k v).regWrites = s.regWrites := rfl
@[simp] theorem State.setTok_ctxFaults (k : Nat) (v : Word) : (s.setTok k v).ctxFaults = s.ctxFaults := rfl
@[simp] theorem State.setTok_touched (k : Nat) (v : Word) : (s.setTok k v).touched = s.touched := rfl
@[simp] theorem State.setTok_amaxDone (k : Nat) (v : Word) : (s.setTok k v).amaxDone = s.amaxDone := rfl
@[simp] theorem State.setTok_objs (k : Nat) (v : Word) : (s.setTok k v).objs = s.objs := rfl
@[simp] theorem State.setTok_tierCmd (k : Nat) (v : Word) : (s.setTok k v).tierCmd = s.tierCmd := rfl
@[simp] theorem State.setTok_rosReqs (k : Nat) (v : Word) : (s.setTok k v).rosReqs = s.rosReqs := rfl
@[simp] theorem State.setTok_rosPrev (k : Nat) (v : Word) : (s.setTok k v).rosPrev = s.rosPrev := rfl
@[simp] theorem State.setTok_rosAdvs (k : Nat) (v : Word) : (s.setTok k v).rosAdvs = s.rosAdvs := rfl
@[simp] theorem State.setTok_rosDemands (k : Nat) (v : Word) : (s.setTok k v).rosDemands = s.rosDemands := rfl
@[simp] theorem State.setTok_rosDrops (k : Nat) (v : Word) : (s.setTok k v).rosDrops = s.rosDrops := rfl
@[simp] theorem State.setTok_rosAdds (k : Nat) (v : Word) : (s.setTok k v).rosAdds = s.rosAdds := rfl
@[simp] theorem State.setTok_rosNoDir (k : Nat) (v : Word) : (s.setTok k v).rosNoDir = s.rosNoDir := rfl
@[simp] theorem State.setTok_rosAborted (k : Nat) (v : Word) : (s.setTok k v).rosAborted = s.rosAborted := rfl
@[simp] theorem State.setTok_lenFull (k : Nat) (v : Word) : (s.setTok k v).lenFull = s.lenFull := rfl
@[simp] theorem State.setTok_lenDirty (k : Nat) (v : Word) : (s.setTok k v).lenDirty = s.lenDirty := rfl
@[simp] theorem State.setTok_snaps (k : Nat) (v : Word) : (s.setTok k v).snaps = s.snaps := rfl
@[simp] theorem State.setTok_ckptFrames (k : Nat) (v : Word) : (s.setTok k v).ckptFrames = s.ckptFrames := rfl
@[simp] theorem State.setTok_faults (k : Nat) (v : Word) : (s.setTok k v).faults = s.faults := rfl
@[simp] theorem State.setTok_suspects (k : Nat) (v : Word) : (s.setTok k v).suspects = s.suspects := rfl
@[simp] theorem State.setTok_retired (k : Nat) (v : Word) : (s.setTok k v).retired = s.retired := rfl
@[simp] theorem State.setTok_ledger0 (k : Nat) (v : Word) : (s.setTok k v).ledger0 = s.ledger0 := rfl
@[simp] theorem State.setTok_ledger1 (k : Nat) (v : Word) : (s.setTok k v).ledger1 = s.ledger1 := rfl
@[simp] theorem State.setTok_ledgerPend (k : Nat) (v : Word) : (s.setTok k v).ledgerPend = s.ledgerPend := rfl
@[simp] theorem State.setTok_powerCycles (k : Nat) (v : Word) : (s.setTok k v).powerCycles = s.powerCycles := rfl
@[simp] theorem State.setTok_sprOp (k : Nat) (v : Word) : (s.setTok k v).sprOp = s.sprOp := rfl
@[simp] theorem State.setTok_testRows (k : Nat) (v : Word) : (s.setTok k v).testRows = s.testRows := rfl
@[simp] theorem State.setTok_banks (k : Nat) (v : Word) : (s.setTok k v).banks = s.banks := rfl
@[simp] theorem State.setTok_self (k : Nat) (v : Word) : (s.setTok k v).self = s.self := rfl
@[simp] theorem State.setTok_saved (k : Nat) (v : Word) : (s.setTok k v).saved = s.saved := rfl
@[simp] theorem State.setTok_nextSave (k : Nat) (v : Word) : (s.setTok k v).nextSave = s.nextSave := rfl
@[simp] theorem State.setTok_crewSaves (k : Nat) (v : Word) : (s.setTok k v).crewSaves = s.crewSaves := rfl
@[simp] theorem State.setTok_filtered (k : Nat) (v : Word) : (s.setTok k v).filtered = s.filtered := rfl
@[simp] theorem State.setTok_leaseFails (k : Nat) (v : Word) : (s.setTok k v).leaseFails = s.leaseFails := rfl
@[simp] theorem State.setTok_pinned (k : Nat) (v : Word) : (s.setTok k v).pinned = s.pinned := rfl
@[simp] theorem State.setTok_ctxBell (k : Nat) (v : Word) : (s.setTok k v).ctxBell = s.ctxBell := rfl
@[simp] theorem State.setTok_pwr (k : Nat) (v : Word) : (s.setTok k v).pwr = s.pwr := rfl
@[simp] theorem State.setTok_ret0 (k : Nat) (v : Word) : (s.setTok k v).ret0 = s.ret0 := rfl
@[simp] theorem State.setTok_ret1 (k : Nat) (v : Word) : (s.setTok k v).ret1 = s.ret1 := rfl
@[simp] theorem State.setTok_fwA (k : Nat) (v : Word) : (s.setTok k v).fwA = s.fwA := rfl
@[simp] theorem State.setTok_fwB (k : Nat) (v : Word) : (s.setTok k v).fwB = s.fwB := rfl
@[simp] theorem State.setTok_fwMin (k : Nat) (v : Word) : (s.setTok k v).fwMin = s.fwMin := rfl
@[simp] theorem State.setTok_i3c (k : Nat) (v : Word) : (s.setTok k v).i3c = s.i3c := rfl
@[simp] theorem State.setTok_spdm (k : Nat) (v : Word) : (s.setTok k v).spdm = s.spdm := rfl
@[simp] theorem State.setTok_tap (k : Nat) (v : Word) : (s.setTok k v).tap = s.tap := rfl
@[simp] theorem State.setTok_sweeps (k : Nat) (v : Word) : (s.setTok k v).sweeps = s.sweeps := rfl
@[simp] theorem State.setTok_loadPos (k : Nat) (v : Word) : (s.setTok k v).loadPos = s.loadPos := rfl
@[simp] theorem State.setTok_summaryAt (k : Nat) (v : Word) : (s.setTok k v).summaryAt = s.summaryAt := rfl
@[simp] theorem State.setTok_wideParams (k : Nat) (v : Word) : (s.setTok k v).wideParams = s.wideParams := rfl
@[simp] theorem State.setTok_zeroHist (k : Nat) (v : Word) : (s.setTok k v).zeroHist = s.zeroHist := rfl
@[simp] theorem State.setTok_nextRun (k : Nat) (v : Word) : (s.setTok k v).nextRun = s.nextRun := rfl
@[simp] theorem State.setTok_mcast (k : Nat) (v : Word) : (s.setTok k v).mcast = s.mcast := rfl
@[simp] theorem State.setTok_pageReads (k : Nat) (v : Word) : (s.setTok k v).pageReads = s.pageReads := rfl
@[simp] theorem State.setTok_rcache (k : Nat) (v : Word) : (s.setTok k v).rcache = s.rcache := rfl
@[simp] theorem State.setTok_faultsMet (k : Nat) (v : Word) : (s.setTok k v).faultsMet = s.faultsMet := rfl
@[simp] theorem State.setTok_wildPools (k : Nat) (v : Word) : (s.setTok k v).wildPools = s.wildPools := rfl
@[simp] theorem State.setTok_forkAborted (k : Nat) (v : Word) : (s.setTok k v).forkAborted = s.forkAborted := rfl
@[simp] theorem State.setTok_waitMoves (k : Nat) (v : Word) : (s.setTok k v).waitMoves = s.waitMoves := rfl
@[simp] theorem State.setTok_rosWait (k : Nat) (v : Word) : (s.setTok k v).rosWait = s.rosWait := rfl
@[simp] theorem State.setTok_doe (k : Nat) (v : Word) : (s.setTok k v).doe = s.doe := rfl
@[simp] theorem State.setTok_msixTab (k : Nat) (v : Word) : (s.setTok k v).msixTab = s.msixTab := rfl
@[simp] theorem State.setTok_msixPba (k : Nat) (v : Word) : (s.setTok k v).msixPba = s.msixPba := rfl
@[simp] theorem State.setTok_formerIds (k : Nat) (v : Word) : (s.setTok k v).formerIds = s.formerIds := rfl

/-! ### `State.setCox` -/

@[simp] theorem State.setCox_pending (c : Nat) (x : Cox) : (s.setCox c x).pending = s.pending := rfl
@[simp] theorem State.setCox_clock (c : Nat) (x : Cox) : (s.setCox c x).clock = s.clock := rfl
@[simp] theorem State.setCox_fresh (c : Nat) (x : Cox) : (s.setCox c x).fresh = s.fresh := rfl
@[simp] theorem State.setCox_regs (c : Nat) (x : Cox) : (s.setCox c x).regs = s.regs := rfl
@[simp] theorem State.setCox_mem (c : Nat) (x : Cox) : (s.setCox c x).mem = s.mem := rfl
@[simp] theorem State.setCox_undef (c : Nat) (x : Cox) : (s.setCox c x).undef = s.undef := rfl
@[simp] theorem State.setCox_poison (c : Nat) (x : Cox) : (s.setCox c x).poison = s.poison := rfl
@[simp] theorem State.setCox_tokens (c : Nat) (x : Cox) : (s.setCox c x).tokens = s.tokens := rfl
@[simp] theorem State.setCox_spareMap (c : Nat) (x : Cox) : (s.setCox c x).spareMap = s.spareMap := rfl
@[simp] theorem State.setCox_halves (c : Nat) (x : Cox) : (s.setCox c x).halves = s.halves := rfl
@[simp] theorem State.setCox_latched (c : Nat) (x : Cox) : (s.setCox c x).latched = s.latched := rfl
@[simp] theorem State.setCox_routesF (c : Nat) (x : Cox) : (s.setCox c x).routesF = s.routesF := rfl
@[simp] theorem State.setCox_routesB (c : Nat) (x : Cox) : (s.setCox c x).routesB = s.routesB := rfl
@[simp] theorem State.setCox_sfuVer (c : Nat) (x : Cox) : (s.setCox c x).sfuVer = s.sfuVer := rfl
@[simp] theorem State.setCox_stk (c : Nat) (x : Cox) : (s.setCox c x).stk = s.stk := rfl
@[simp] theorem State.setCox_cores (c : Nat) (x : Cox) : (s.setCox c x).cores = s.cores := rfl
@[simp] theorem State.setCox_ports (c : Nat) (x : Cox) : (s.setCox c x).ports = s.ports := rfl
@[simp] theorem State.setCox_ops (c : Nat) (x : Cox) : (s.setCox c x).ops = s.ops := rfl
@[simp] theorem State.setCox_nextOp (c : Nat) (x : Cox) : (s.setCox c x).nextOp = s.nextOp := rfl
@[simp] theorem State.setCox_arrived (c : Nat) (x : Cox) : (s.setCox c x).arrived = s.arrived := rfl
@[simp] theorem State.setCox_asked (c : Nat) (x : Cox) : (s.setCox c x).asked = s.asked := rfl
@[simp] theorem State.setCox_hostOut (c : Nat) (x : Cox) : (s.setCox c x).hostOut = s.hostOut := rfl
@[simp] theorem State.setCox_hostReads (c : Nat) (x : Cox) : (s.setCox c x).hostReads = s.hostReads := rfl
@[simp] theorem State.setCox_nextTag (c : Nat) (x : Cox) : (s.setCox c x).nextTag = s.nextTag := rfl
@[simp] theorem State.setCox_barWaits (c : Nat) (x : Cox) : (s.setCox c x).barWaits = s.barWaits := rfl
@[simp] theorem State.setCox_barFailed (c : Nat) (x : Cox) : (s.setCox c x).barFailed = s.barFailed := rfl
@[simp] theorem State.setCox_slots (c : Nat) (x : Cox) : (s.setCox c x).slots = s.slots := rfl
@[simp] theorem State.setCox_slotGen (c : Nat) (x : Cox) : (s.setCox c x).slotGen = s.slotGen := rfl
@[simp] theorem State.setCox_slotless (c : Nat) (x : Cox) : (s.setCox c x).slotless = s.slotless := rfl
@[simp] theorem State.setCox_lost (c : Nat) (x : Cox) : (s.setCox c x).lost = s.lost := rfl
@[simp] theorem State.setCox_tlb (c : Nat) (x : Cox) : (s.setCox c x).tlb = s.tlb := rfl
@[simp] theorem State.setCox_logQueue (c : Nat) (x : Cox) : (s.setCox c x).logQueue = s.logQueue := rfl
@[simp] theorem State.setCox_logRing (c : Nat) (x : Cox) : (s.setCox c x).logRing = s.logRing := rfl
@[simp] theorem State.setCox_ibi (c : Nat) (x : Cox) : (s.setCox c x).ibi = s.ibi := rfl
@[simp] theorem State.setCox_chans (c : Nat) (x : Cox) : (s.setCox c x).chans = s.chans := rfl
@[simp] theorem State.setCox_watches (c : Nat) (x : Cox) : (s.setCox c x).watches = s.watches := rfl
@[simp] theorem State.setCox_lostObjs (c : Nat) (x : Cox) : (s.setCox c x).lostObjs = s.lostObjs := rfl
@[simp] theorem State.setCox_waitPkts (c : Nat) (x : Cox) : (s.setCox c x).waitPkts = s.waitPkts := rfl
@[simp] theorem State.setCox_regWrites (c : Nat) (x : Cox) : (s.setCox c x).regWrites = s.regWrites := rfl
@[simp] theorem State.setCox_ctxFaults (c : Nat) (x : Cox) : (s.setCox c x).ctxFaults = s.ctxFaults := rfl
@[simp] theorem State.setCox_touched (c : Nat) (x : Cox) : (s.setCox c x).touched = s.touched := rfl
@[simp] theorem State.setCox_amaxDone (c : Nat) (x : Cox) : (s.setCox c x).amaxDone = s.amaxDone := rfl
@[simp] theorem State.setCox_objs (c : Nat) (x : Cox) : (s.setCox c x).objs = s.objs := rfl
@[simp] theorem State.setCox_tierCmd (c : Nat) (x : Cox) : (s.setCox c x).tierCmd = s.tierCmd := rfl
@[simp] theorem State.setCox_rosReqs (c : Nat) (x : Cox) : (s.setCox c x).rosReqs = s.rosReqs := rfl
@[simp] theorem State.setCox_rosPrev (c : Nat) (x : Cox) : (s.setCox c x).rosPrev = s.rosPrev := rfl
@[simp] theorem State.setCox_rosAdvs (c : Nat) (x : Cox) : (s.setCox c x).rosAdvs = s.rosAdvs := rfl
@[simp] theorem State.setCox_rosDemands (c : Nat) (x : Cox) : (s.setCox c x).rosDemands = s.rosDemands := rfl
@[simp] theorem State.setCox_rosDrops (c : Nat) (x : Cox) : (s.setCox c x).rosDrops = s.rosDrops := rfl
@[simp] theorem State.setCox_rosAdds (c : Nat) (x : Cox) : (s.setCox c x).rosAdds = s.rosAdds := rfl
@[simp] theorem State.setCox_rosNoDir (c : Nat) (x : Cox) : (s.setCox c x).rosNoDir = s.rosNoDir := rfl
@[simp] theorem State.setCox_rosAborted (c : Nat) (x : Cox) : (s.setCox c x).rosAborted = s.rosAborted := rfl
@[simp] theorem State.setCox_lenFull (c : Nat) (x : Cox) : (s.setCox c x).lenFull = s.lenFull := rfl
@[simp] theorem State.setCox_lenDirty (c : Nat) (x : Cox) : (s.setCox c x).lenDirty = s.lenDirty := rfl
@[simp] theorem State.setCox_snaps (c : Nat) (x : Cox) : (s.setCox c x).snaps = s.snaps := rfl
@[simp] theorem State.setCox_ckptFrames (c : Nat) (x : Cox) : (s.setCox c x).ckptFrames = s.ckptFrames := rfl
@[simp] theorem State.setCox_faults (c : Nat) (x : Cox) : (s.setCox c x).faults = s.faults := rfl
@[simp] theorem State.setCox_suspects (c : Nat) (x : Cox) : (s.setCox c x).suspects = s.suspects := rfl
@[simp] theorem State.setCox_retired (c : Nat) (x : Cox) : (s.setCox c x).retired = s.retired := rfl
@[simp] theorem State.setCox_ledger0 (c : Nat) (x : Cox) : (s.setCox c x).ledger0 = s.ledger0 := rfl
@[simp] theorem State.setCox_ledger1 (c : Nat) (x : Cox) : (s.setCox c x).ledger1 = s.ledger1 := rfl
@[simp] theorem State.setCox_ledgerPend (c : Nat) (x : Cox) : (s.setCox c x).ledgerPend = s.ledgerPend := rfl
@[simp] theorem State.setCox_powerCycles (c : Nat) (x : Cox) : (s.setCox c x).powerCycles = s.powerCycles := rfl
@[simp] theorem State.setCox_sprOp (c : Nat) (x : Cox) : (s.setCox c x).sprOp = s.sprOp := rfl
@[simp] theorem State.setCox_testRows (c : Nat) (x : Cox) : (s.setCox c x).testRows = s.testRows := rfl
@[simp] theorem State.setCox_banks (c : Nat) (x : Cox) : (s.setCox c x).banks = s.banks := rfl
@[simp] theorem State.setCox_self (c : Nat) (x : Cox) : (s.setCox c x).self = s.self := rfl
@[simp] theorem State.setCox_saved (c : Nat) (x : Cox) : (s.setCox c x).saved = s.saved := rfl
@[simp] theorem State.setCox_nextSave (c : Nat) (x : Cox) : (s.setCox c x).nextSave = s.nextSave := rfl
@[simp] theorem State.setCox_crewSaves (c : Nat) (x : Cox) : (s.setCox c x).crewSaves = s.crewSaves := rfl
@[simp] theorem State.setCox_filtered (c : Nat) (x : Cox) : (s.setCox c x).filtered = s.filtered := rfl
@[simp] theorem State.setCox_leaseFails (c : Nat) (x : Cox) : (s.setCox c x).leaseFails = s.leaseFails := rfl
@[simp] theorem State.setCox_pinned (c : Nat) (x : Cox) : (s.setCox c x).pinned = s.pinned := rfl
@[simp] theorem State.setCox_ctxBell (c : Nat) (x : Cox) : (s.setCox c x).ctxBell = s.ctxBell := rfl
@[simp] theorem State.setCox_pwr (c : Nat) (x : Cox) : (s.setCox c x).pwr = s.pwr := rfl
@[simp] theorem State.setCox_ret0 (c : Nat) (x : Cox) : (s.setCox c x).ret0 = s.ret0 := rfl
@[simp] theorem State.setCox_ret1 (c : Nat) (x : Cox) : (s.setCox c x).ret1 = s.ret1 := rfl
@[simp] theorem State.setCox_fwA (c : Nat) (x : Cox) : (s.setCox c x).fwA = s.fwA := rfl
@[simp] theorem State.setCox_fwB (c : Nat) (x : Cox) : (s.setCox c x).fwB = s.fwB := rfl
@[simp] theorem State.setCox_fwMin (c : Nat) (x : Cox) : (s.setCox c x).fwMin = s.fwMin := rfl
@[simp] theorem State.setCox_i3c (c : Nat) (x : Cox) : (s.setCox c x).i3c = s.i3c := rfl
@[simp] theorem State.setCox_spdm (c : Nat) (x : Cox) : (s.setCox c x).spdm = s.spdm := rfl
@[simp] theorem State.setCox_tap (c : Nat) (x : Cox) : (s.setCox c x).tap = s.tap := rfl
@[simp] theorem State.setCox_sweeps (c : Nat) (x : Cox) : (s.setCox c x).sweeps = s.sweeps := rfl
@[simp] theorem State.setCox_loadPos (c : Nat) (x : Cox) : (s.setCox c x).loadPos = s.loadPos := rfl
@[simp] theorem State.setCox_summaryAt (c : Nat) (x : Cox) : (s.setCox c x).summaryAt = s.summaryAt := rfl
@[simp] theorem State.setCox_wideParams (c : Nat) (x : Cox) : (s.setCox c x).wideParams = s.wideParams := rfl
@[simp] theorem State.setCox_zeroHist (c : Nat) (x : Cox) : (s.setCox c x).zeroHist = s.zeroHist := rfl
@[simp] theorem State.setCox_nextRun (c : Nat) (x : Cox) : (s.setCox c x).nextRun = s.nextRun := rfl
@[simp] theorem State.setCox_mcast (c : Nat) (x : Cox) : (s.setCox c x).mcast = s.mcast := rfl
@[simp] theorem State.setCox_pageReads (c : Nat) (x : Cox) : (s.setCox c x).pageReads = s.pageReads := rfl
@[simp] theorem State.setCox_rcache (c : Nat) (x : Cox) : (s.setCox c x).rcache = s.rcache := rfl
@[simp] theorem State.setCox_faultsMet (c : Nat) (x : Cox) : (s.setCox c x).faultsMet = s.faultsMet := rfl
@[simp] theorem State.setCox_wildPools (c : Nat) (x : Cox) : (s.setCox c x).wildPools = s.wildPools := rfl
@[simp] theorem State.setCox_forkAborted (c : Nat) (x : Cox) : (s.setCox c x).forkAborted = s.forkAborted := rfl
@[simp] theorem State.setCox_waitMoves (c : Nat) (x : Cox) : (s.setCox c x).waitMoves = s.waitMoves := rfl
@[simp] theorem State.setCox_rosWait (c : Nat) (x : Cox) : (s.setCox c x).rosWait = s.rosWait := rfl
@[simp] theorem State.setCox_doe (c : Nat) (x : Cox) : (s.setCox c x).doe = s.doe := rfl
@[simp] theorem State.setCox_msixTab (c : Nat) (x : Cox) : (s.setCox c x).msixTab = s.msixTab := rfl
@[simp] theorem State.setCox_msixPba (c : Nat) (x : Cox) : (s.setCox c x).msixPba = s.msixPba := rfl
@[simp] theorem State.setCox_formerIds (c : Nat) (x : Cox) : (s.setCox c x).formerIds = s.formerIds := rfl

/-! ### `State.setCore` -/

@[simp] theorem State.setCore_pending (i : Nat) (x : Core) : (s.setCore i x).pending = s.pending := rfl
@[simp] theorem State.setCore_clock (i : Nat) (x : Core) : (s.setCore i x).clock = s.clock := rfl
@[simp] theorem State.setCore_fresh (i : Nat) (x : Core) : (s.setCore i x).fresh = s.fresh := rfl
@[simp] theorem State.setCore_regs (i : Nat) (x : Core) : (s.setCore i x).regs = s.regs := rfl
@[simp] theorem State.setCore_mem (i : Nat) (x : Core) : (s.setCore i x).mem = s.mem := rfl
@[simp] theorem State.setCore_undef (i : Nat) (x : Core) : (s.setCore i x).undef = s.undef := rfl
@[simp] theorem State.setCore_poison (i : Nat) (x : Core) : (s.setCore i x).poison = s.poison := rfl
@[simp] theorem State.setCore_tokens (i : Nat) (x : Core) : (s.setCore i x).tokens = s.tokens := rfl
@[simp] theorem State.setCore_spareMap (i : Nat) (x : Core) : (s.setCore i x).spareMap = s.spareMap := rfl
@[simp] theorem State.setCore_halves (i : Nat) (x : Core) : (s.setCore i x).halves = s.halves := rfl
@[simp] theorem State.setCore_latched (i : Nat) (x : Core) : (s.setCore i x).latched = s.latched := rfl
@[simp] theorem State.setCore_routesF (i : Nat) (x : Core) : (s.setCore i x).routesF = s.routesF := rfl
@[simp] theorem State.setCore_routesB (i : Nat) (x : Core) : (s.setCore i x).routesB = s.routesB := rfl
@[simp] theorem State.setCore_sfuVer (i : Nat) (x : Core) : (s.setCore i x).sfuVer = s.sfuVer := rfl
@[simp] theorem State.setCore_stk (i : Nat) (x : Core) : (s.setCore i x).stk = s.stk := rfl
@[simp] theorem State.setCore_coxes (i : Nat) (x : Core) : (s.setCore i x).coxes = s.coxes := rfl
@[simp] theorem State.setCore_ports (i : Nat) (x : Core) : (s.setCore i x).ports = s.ports := rfl
@[simp] theorem State.setCore_ops (i : Nat) (x : Core) : (s.setCore i x).ops = s.ops := rfl
@[simp] theorem State.setCore_nextOp (i : Nat) (x : Core) : (s.setCore i x).nextOp = s.nextOp := rfl
@[simp] theorem State.setCore_arrived (i : Nat) (x : Core) : (s.setCore i x).arrived = s.arrived := rfl
@[simp] theorem State.setCore_asked (i : Nat) (x : Core) : (s.setCore i x).asked = s.asked := rfl
@[simp] theorem State.setCore_hostOut (i : Nat) (x : Core) : (s.setCore i x).hostOut = s.hostOut := rfl
@[simp] theorem State.setCore_hostReads (i : Nat) (x : Core) : (s.setCore i x).hostReads = s.hostReads := rfl
@[simp] theorem State.setCore_nextTag (i : Nat) (x : Core) : (s.setCore i x).nextTag = s.nextTag := rfl
@[simp] theorem State.setCore_barWaits (i : Nat) (x : Core) : (s.setCore i x).barWaits = s.barWaits := rfl
@[simp] theorem State.setCore_barFailed (i : Nat) (x : Core) : (s.setCore i x).barFailed = s.barFailed := rfl
@[simp] theorem State.setCore_slots (i : Nat) (x : Core) : (s.setCore i x).slots = s.slots := rfl
@[simp] theorem State.setCore_slotGen (i : Nat) (x : Core) : (s.setCore i x).slotGen = s.slotGen := rfl
@[simp] theorem State.setCore_slotless (i : Nat) (x : Core) : (s.setCore i x).slotless = s.slotless := rfl
@[simp] theorem State.setCore_lost (i : Nat) (x : Core) : (s.setCore i x).lost = s.lost := rfl
@[simp] theorem State.setCore_tlb (i : Nat) (x : Core) : (s.setCore i x).tlb = s.tlb := rfl
@[simp] theorem State.setCore_logQueue (i : Nat) (x : Core) : (s.setCore i x).logQueue = s.logQueue := rfl
@[simp] theorem State.setCore_logRing (i : Nat) (x : Core) : (s.setCore i x).logRing = s.logRing := rfl
@[simp] theorem State.setCore_ibi (i : Nat) (x : Core) : (s.setCore i x).ibi = s.ibi := rfl
@[simp] theorem State.setCore_chans (i : Nat) (x : Core) : (s.setCore i x).chans = s.chans := rfl
@[simp] theorem State.setCore_watches (i : Nat) (x : Core) : (s.setCore i x).watches = s.watches := rfl
@[simp] theorem State.setCore_lostObjs (i : Nat) (x : Core) : (s.setCore i x).lostObjs = s.lostObjs := rfl
@[simp] theorem State.setCore_waitPkts (i : Nat) (x : Core) : (s.setCore i x).waitPkts = s.waitPkts := rfl
@[simp] theorem State.setCore_regWrites (i : Nat) (x : Core) : (s.setCore i x).regWrites = s.regWrites := rfl
@[simp] theorem State.setCore_ctxFaults (i : Nat) (x : Core) : (s.setCore i x).ctxFaults = s.ctxFaults := rfl
@[simp] theorem State.setCore_touched (i : Nat) (x : Core) : (s.setCore i x).touched = s.touched := rfl
@[simp] theorem State.setCore_amaxDone (i : Nat) (x : Core) : (s.setCore i x).amaxDone = s.amaxDone := rfl
@[simp] theorem State.setCore_objs (i : Nat) (x : Core) : (s.setCore i x).objs = s.objs := rfl
@[simp] theorem State.setCore_tierCmd (i : Nat) (x : Core) : (s.setCore i x).tierCmd = s.tierCmd := rfl
@[simp] theorem State.setCore_rosReqs (i : Nat) (x : Core) : (s.setCore i x).rosReqs = s.rosReqs := rfl
@[simp] theorem State.setCore_rosPrev (i : Nat) (x : Core) : (s.setCore i x).rosPrev = s.rosPrev := rfl
@[simp] theorem State.setCore_rosAdvs (i : Nat) (x : Core) : (s.setCore i x).rosAdvs = s.rosAdvs := rfl
@[simp] theorem State.setCore_rosDemands (i : Nat) (x : Core) : (s.setCore i x).rosDemands = s.rosDemands := rfl
@[simp] theorem State.setCore_rosDrops (i : Nat) (x : Core) : (s.setCore i x).rosDrops = s.rosDrops := rfl
@[simp] theorem State.setCore_rosAdds (i : Nat) (x : Core) : (s.setCore i x).rosAdds = s.rosAdds := rfl
@[simp] theorem State.setCore_rosNoDir (i : Nat) (x : Core) : (s.setCore i x).rosNoDir = s.rosNoDir := rfl
@[simp] theorem State.setCore_rosAborted (i : Nat) (x : Core) : (s.setCore i x).rosAborted = s.rosAborted := rfl
@[simp] theorem State.setCore_lenFull (i : Nat) (x : Core) : (s.setCore i x).lenFull = s.lenFull := rfl
@[simp] theorem State.setCore_lenDirty (i : Nat) (x : Core) : (s.setCore i x).lenDirty = s.lenDirty := rfl
@[simp] theorem State.setCore_snaps (i : Nat) (x : Core) : (s.setCore i x).snaps = s.snaps := rfl
@[simp] theorem State.setCore_ckptFrames (i : Nat) (x : Core) : (s.setCore i x).ckptFrames = s.ckptFrames := rfl
@[simp] theorem State.setCore_faults (i : Nat) (x : Core) : (s.setCore i x).faults = s.faults := rfl
@[simp] theorem State.setCore_suspects (i : Nat) (x : Core) : (s.setCore i x).suspects = s.suspects := rfl
@[simp] theorem State.setCore_retired (i : Nat) (x : Core) : (s.setCore i x).retired = s.retired := rfl
@[simp] theorem State.setCore_ledger0 (i : Nat) (x : Core) : (s.setCore i x).ledger0 = s.ledger0 := rfl
@[simp] theorem State.setCore_ledger1 (i : Nat) (x : Core) : (s.setCore i x).ledger1 = s.ledger1 := rfl
@[simp] theorem State.setCore_ledgerPend (i : Nat) (x : Core) : (s.setCore i x).ledgerPend = s.ledgerPend := rfl
@[simp] theorem State.setCore_powerCycles (i : Nat) (x : Core) : (s.setCore i x).powerCycles = s.powerCycles := rfl
@[simp] theorem State.setCore_sprOp (i : Nat) (x : Core) : (s.setCore i x).sprOp = s.sprOp := rfl
@[simp] theorem State.setCore_testRows (i : Nat) (x : Core) : (s.setCore i x).testRows = s.testRows := rfl
@[simp] theorem State.setCore_banks (i : Nat) (x : Core) : (s.setCore i x).banks = s.banks := rfl
@[simp] theorem State.setCore_self (i : Nat) (x : Core) : (s.setCore i x).self = s.self := rfl
@[simp] theorem State.setCore_saved (i : Nat) (x : Core) : (s.setCore i x).saved = s.saved := rfl
@[simp] theorem State.setCore_nextSave (i : Nat) (x : Core) : (s.setCore i x).nextSave = s.nextSave := rfl
@[simp] theorem State.setCore_crewSaves (i : Nat) (x : Core) : (s.setCore i x).crewSaves = s.crewSaves := rfl
@[simp] theorem State.setCore_filtered (i : Nat) (x : Core) : (s.setCore i x).filtered = s.filtered := rfl
@[simp] theorem State.setCore_leaseFails (i : Nat) (x : Core) : (s.setCore i x).leaseFails = s.leaseFails := rfl
@[simp] theorem State.setCore_pinned (i : Nat) (x : Core) : (s.setCore i x).pinned = s.pinned := rfl
@[simp] theorem State.setCore_ctxBell (i : Nat) (x : Core) : (s.setCore i x).ctxBell = s.ctxBell := rfl
@[simp] theorem State.setCore_pwr (i : Nat) (x : Core) : (s.setCore i x).pwr = s.pwr := rfl
@[simp] theorem State.setCore_ret0 (i : Nat) (x : Core) : (s.setCore i x).ret0 = s.ret0 := rfl
@[simp] theorem State.setCore_ret1 (i : Nat) (x : Core) : (s.setCore i x).ret1 = s.ret1 := rfl
@[simp] theorem State.setCore_fwA (i : Nat) (x : Core) : (s.setCore i x).fwA = s.fwA := rfl
@[simp] theorem State.setCore_fwB (i : Nat) (x : Core) : (s.setCore i x).fwB = s.fwB := rfl
@[simp] theorem State.setCore_fwMin (i : Nat) (x : Core) : (s.setCore i x).fwMin = s.fwMin := rfl
@[simp] theorem State.setCore_i3c (i : Nat) (x : Core) : (s.setCore i x).i3c = s.i3c := rfl
@[simp] theorem State.setCore_spdm (i : Nat) (x : Core) : (s.setCore i x).spdm = s.spdm := rfl
@[simp] theorem State.setCore_tap (i : Nat) (x : Core) : (s.setCore i x).tap = s.tap := rfl
@[simp] theorem State.setCore_sweeps (i : Nat) (x : Core) : (s.setCore i x).sweeps = s.sweeps := rfl
@[simp] theorem State.setCore_loadPos (i : Nat) (x : Core) : (s.setCore i x).loadPos = s.loadPos := rfl
@[simp] theorem State.setCore_summaryAt (i : Nat) (x : Core) : (s.setCore i x).summaryAt = s.summaryAt := rfl
@[simp] theorem State.setCore_wideParams (i : Nat) (x : Core) : (s.setCore i x).wideParams = s.wideParams := rfl
@[simp] theorem State.setCore_zeroHist (i : Nat) (x : Core) : (s.setCore i x).zeroHist = s.zeroHist := rfl
@[simp] theorem State.setCore_nextRun (i : Nat) (x : Core) : (s.setCore i x).nextRun = s.nextRun := rfl
@[simp] theorem State.setCore_mcast (i : Nat) (x : Core) : (s.setCore i x).mcast = s.mcast := rfl
@[simp] theorem State.setCore_pageReads (i : Nat) (x : Core) : (s.setCore i x).pageReads = s.pageReads := rfl
@[simp] theorem State.setCore_rcache (i : Nat) (x : Core) : (s.setCore i x).rcache = s.rcache := rfl
@[simp] theorem State.setCore_faultsMet (i : Nat) (x : Core) : (s.setCore i x).faultsMet = s.faultsMet := rfl
@[simp] theorem State.setCore_wildPools (i : Nat) (x : Core) : (s.setCore i x).wildPools = s.wildPools := rfl
@[simp] theorem State.setCore_forkAborted (i : Nat) (x : Core) : (s.setCore i x).forkAborted = s.forkAborted := rfl
@[simp] theorem State.setCore_waitMoves (i : Nat) (x : Core) : (s.setCore i x).waitMoves = s.waitMoves := rfl
@[simp] theorem State.setCore_rosWait (i : Nat) (x : Core) : (s.setCore i x).rosWait = s.rosWait := rfl
@[simp] theorem State.setCore_doe (i : Nat) (x : Core) : (s.setCore i x).doe = s.doe := rfl
@[simp] theorem State.setCore_msixTab (i : Nat) (x : Core) : (s.setCore i x).msixTab = s.msixTab := rfl
@[simp] theorem State.setCore_msixPba (i : Nat) (x : Core) : (s.setCore i x).msixPba = s.msixPba := rfl
@[simp] theorem State.setCore_formerIds (i : Nat) (x : Core) : (s.setCore i x).formerIds = s.formerIds := rfl

/-! ### `State.setPort` -/

@[simp] theorem State.setPort_pending (p : Nat) (x : Port) : (s.setPort p x).pending = s.pending := rfl
@[simp] theorem State.setPort_clock (p : Nat) (x : Port) : (s.setPort p x).clock = s.clock := rfl
@[simp] theorem State.setPort_fresh (p : Nat) (x : Port) : (s.setPort p x).fresh = s.fresh := rfl
@[simp] theorem State.setPort_regs (p : Nat) (x : Port) : (s.setPort p x).regs = s.regs := rfl
@[simp] theorem State.setPort_mem (p : Nat) (x : Port) : (s.setPort p x).mem = s.mem := rfl
@[simp] theorem State.setPort_undef (p : Nat) (x : Port) : (s.setPort p x).undef = s.undef := rfl
@[simp] theorem State.setPort_poison (p : Nat) (x : Port) : (s.setPort p x).poison = s.poison := rfl
@[simp] theorem State.setPort_tokens (p : Nat) (x : Port) : (s.setPort p x).tokens = s.tokens := rfl
@[simp] theorem State.setPort_spareMap (p : Nat) (x : Port) : (s.setPort p x).spareMap = s.spareMap := rfl
@[simp] theorem State.setPort_halves (p : Nat) (x : Port) : (s.setPort p x).halves = s.halves := rfl
@[simp] theorem State.setPort_latched (p : Nat) (x : Port) : (s.setPort p x).latched = s.latched := rfl
@[simp] theorem State.setPort_routesF (p : Nat) (x : Port) : (s.setPort p x).routesF = s.routesF := rfl
@[simp] theorem State.setPort_routesB (p : Nat) (x : Port) : (s.setPort p x).routesB = s.routesB := rfl
@[simp] theorem State.setPort_sfuVer (p : Nat) (x : Port) : (s.setPort p x).sfuVer = s.sfuVer := rfl
@[simp] theorem State.setPort_stk (p : Nat) (x : Port) : (s.setPort p x).stk = s.stk := rfl
@[simp] theorem State.setPort_coxes (p : Nat) (x : Port) : (s.setPort p x).coxes = s.coxes := rfl
@[simp] theorem State.setPort_cores (p : Nat) (x : Port) : (s.setPort p x).cores = s.cores := rfl
@[simp] theorem State.setPort_ops (p : Nat) (x : Port) : (s.setPort p x).ops = s.ops := rfl
@[simp] theorem State.setPort_nextOp (p : Nat) (x : Port) : (s.setPort p x).nextOp = s.nextOp := rfl
@[simp] theorem State.setPort_arrived (p : Nat) (x : Port) : (s.setPort p x).arrived = s.arrived := rfl
@[simp] theorem State.setPort_asked (p : Nat) (x : Port) : (s.setPort p x).asked = s.asked := rfl
@[simp] theorem State.setPort_hostOut (p : Nat) (x : Port) : (s.setPort p x).hostOut = s.hostOut := rfl
@[simp] theorem State.setPort_hostReads (p : Nat) (x : Port) : (s.setPort p x).hostReads = s.hostReads := rfl
@[simp] theorem State.setPort_nextTag (p : Nat) (x : Port) : (s.setPort p x).nextTag = s.nextTag := rfl
@[simp] theorem State.setPort_barWaits (p : Nat) (x : Port) : (s.setPort p x).barWaits = s.barWaits := rfl
@[simp] theorem State.setPort_barFailed (p : Nat) (x : Port) : (s.setPort p x).barFailed = s.barFailed := rfl
@[simp] theorem State.setPort_slots (p : Nat) (x : Port) : (s.setPort p x).slots = s.slots := rfl
@[simp] theorem State.setPort_slotGen (p : Nat) (x : Port) : (s.setPort p x).slotGen = s.slotGen := rfl
@[simp] theorem State.setPort_slotless (p : Nat) (x : Port) : (s.setPort p x).slotless = s.slotless := rfl
@[simp] theorem State.setPort_lost (p : Nat) (x : Port) : (s.setPort p x).lost = s.lost := rfl
@[simp] theorem State.setPort_tlb (p : Nat) (x : Port) : (s.setPort p x).tlb = s.tlb := rfl
@[simp] theorem State.setPort_logQueue (p : Nat) (x : Port) : (s.setPort p x).logQueue = s.logQueue := rfl
@[simp] theorem State.setPort_logRing (p : Nat) (x : Port) : (s.setPort p x).logRing = s.logRing := rfl
@[simp] theorem State.setPort_ibi (p : Nat) (x : Port) : (s.setPort p x).ibi = s.ibi := rfl
@[simp] theorem State.setPort_chans (p : Nat) (x : Port) : (s.setPort p x).chans = s.chans := rfl
@[simp] theorem State.setPort_watches (p : Nat) (x : Port) : (s.setPort p x).watches = s.watches := rfl
@[simp] theorem State.setPort_lostObjs (p : Nat) (x : Port) : (s.setPort p x).lostObjs = s.lostObjs := rfl
@[simp] theorem State.setPort_waitPkts (p : Nat) (x : Port) : (s.setPort p x).waitPkts = s.waitPkts := rfl
@[simp] theorem State.setPort_regWrites (p : Nat) (x : Port) : (s.setPort p x).regWrites = s.regWrites := rfl
@[simp] theorem State.setPort_ctxFaults (p : Nat) (x : Port) : (s.setPort p x).ctxFaults = s.ctxFaults := rfl
@[simp] theorem State.setPort_touched (p : Nat) (x : Port) : (s.setPort p x).touched = s.touched := rfl
@[simp] theorem State.setPort_amaxDone (p : Nat) (x : Port) : (s.setPort p x).amaxDone = s.amaxDone := rfl
@[simp] theorem State.setPort_objs (p : Nat) (x : Port) : (s.setPort p x).objs = s.objs := rfl
@[simp] theorem State.setPort_tierCmd (p : Nat) (x : Port) : (s.setPort p x).tierCmd = s.tierCmd := rfl
@[simp] theorem State.setPort_rosReqs (p : Nat) (x : Port) : (s.setPort p x).rosReqs = s.rosReqs := rfl
@[simp] theorem State.setPort_rosPrev (p : Nat) (x : Port) : (s.setPort p x).rosPrev = s.rosPrev := rfl
@[simp] theorem State.setPort_rosAdvs (p : Nat) (x : Port) : (s.setPort p x).rosAdvs = s.rosAdvs := rfl
@[simp] theorem State.setPort_rosDemands (p : Nat) (x : Port) : (s.setPort p x).rosDemands = s.rosDemands := rfl
@[simp] theorem State.setPort_rosDrops (p : Nat) (x : Port) : (s.setPort p x).rosDrops = s.rosDrops := rfl
@[simp] theorem State.setPort_rosAdds (p : Nat) (x : Port) : (s.setPort p x).rosAdds = s.rosAdds := rfl
@[simp] theorem State.setPort_rosNoDir (p : Nat) (x : Port) : (s.setPort p x).rosNoDir = s.rosNoDir := rfl
@[simp] theorem State.setPort_rosAborted (p : Nat) (x : Port) : (s.setPort p x).rosAborted = s.rosAborted := rfl
@[simp] theorem State.setPort_lenFull (p : Nat) (x : Port) : (s.setPort p x).lenFull = s.lenFull := rfl
@[simp] theorem State.setPort_lenDirty (p : Nat) (x : Port) : (s.setPort p x).lenDirty = s.lenDirty := rfl
@[simp] theorem State.setPort_snaps (p : Nat) (x : Port) : (s.setPort p x).snaps = s.snaps := rfl
@[simp] theorem State.setPort_ckptFrames (p : Nat) (x : Port) : (s.setPort p x).ckptFrames = s.ckptFrames := rfl
@[simp] theorem State.setPort_faults (p : Nat) (x : Port) : (s.setPort p x).faults = s.faults := rfl
@[simp] theorem State.setPort_suspects (p : Nat) (x : Port) : (s.setPort p x).suspects = s.suspects := rfl
@[simp] theorem State.setPort_retired (p : Nat) (x : Port) : (s.setPort p x).retired = s.retired := rfl
@[simp] theorem State.setPort_ledger0 (p : Nat) (x : Port) : (s.setPort p x).ledger0 = s.ledger0 := rfl
@[simp] theorem State.setPort_ledger1 (p : Nat) (x : Port) : (s.setPort p x).ledger1 = s.ledger1 := rfl
@[simp] theorem State.setPort_ledgerPend (p : Nat) (x : Port) : (s.setPort p x).ledgerPend = s.ledgerPend := rfl
@[simp] theorem State.setPort_powerCycles (p : Nat) (x : Port) : (s.setPort p x).powerCycles = s.powerCycles := rfl
@[simp] theorem State.setPort_sprOp (p : Nat) (x : Port) : (s.setPort p x).sprOp = s.sprOp := rfl
@[simp] theorem State.setPort_testRows (p : Nat) (x : Port) : (s.setPort p x).testRows = s.testRows := rfl
@[simp] theorem State.setPort_banks (p : Nat) (x : Port) : (s.setPort p x).banks = s.banks := rfl
@[simp] theorem State.setPort_self (p : Nat) (x : Port) : (s.setPort p x).self = s.self := rfl
@[simp] theorem State.setPort_saved (p : Nat) (x : Port) : (s.setPort p x).saved = s.saved := rfl
@[simp] theorem State.setPort_nextSave (p : Nat) (x : Port) : (s.setPort p x).nextSave = s.nextSave := rfl
@[simp] theorem State.setPort_crewSaves (p : Nat) (x : Port) : (s.setPort p x).crewSaves = s.crewSaves := rfl
@[simp] theorem State.setPort_filtered (p : Nat) (x : Port) : (s.setPort p x).filtered = s.filtered := rfl
@[simp] theorem State.setPort_leaseFails (p : Nat) (x : Port) : (s.setPort p x).leaseFails = s.leaseFails := rfl
@[simp] theorem State.setPort_pinned (p : Nat) (x : Port) : (s.setPort p x).pinned = s.pinned := rfl
@[simp] theorem State.setPort_ctxBell (p : Nat) (x : Port) : (s.setPort p x).ctxBell = s.ctxBell := rfl
@[simp] theorem State.setPort_pwr (p : Nat) (x : Port) : (s.setPort p x).pwr = s.pwr := rfl
@[simp] theorem State.setPort_ret0 (p : Nat) (x : Port) : (s.setPort p x).ret0 = s.ret0 := rfl
@[simp] theorem State.setPort_ret1 (p : Nat) (x : Port) : (s.setPort p x).ret1 = s.ret1 := rfl
@[simp] theorem State.setPort_fwA (p : Nat) (x : Port) : (s.setPort p x).fwA = s.fwA := rfl
@[simp] theorem State.setPort_fwB (p : Nat) (x : Port) : (s.setPort p x).fwB = s.fwB := rfl
@[simp] theorem State.setPort_fwMin (p : Nat) (x : Port) : (s.setPort p x).fwMin = s.fwMin := rfl
@[simp] theorem State.setPort_i3c (p : Nat) (x : Port) : (s.setPort p x).i3c = s.i3c := rfl
@[simp] theorem State.setPort_spdm (p : Nat) (x : Port) : (s.setPort p x).spdm = s.spdm := rfl
@[simp] theorem State.setPort_tap (p : Nat) (x : Port) : (s.setPort p x).tap = s.tap := rfl
@[simp] theorem State.setPort_sweeps (p : Nat) (x : Port) : (s.setPort p x).sweeps = s.sweeps := rfl
@[simp] theorem State.setPort_loadPos (p : Nat) (x : Port) : (s.setPort p x).loadPos = s.loadPos := rfl
@[simp] theorem State.setPort_summaryAt (p : Nat) (x : Port) : (s.setPort p x).summaryAt = s.summaryAt := rfl
@[simp] theorem State.setPort_wideParams (p : Nat) (x : Port) : (s.setPort p x).wideParams = s.wideParams := rfl
@[simp] theorem State.setPort_zeroHist (p : Nat) (x : Port) : (s.setPort p x).zeroHist = s.zeroHist := rfl
@[simp] theorem State.setPort_nextRun (p : Nat) (x : Port) : (s.setPort p x).nextRun = s.nextRun := rfl
@[simp] theorem State.setPort_mcast (p : Nat) (x : Port) : (s.setPort p x).mcast = s.mcast := rfl
@[simp] theorem State.setPort_pageReads (p : Nat) (x : Port) : (s.setPort p x).pageReads = s.pageReads := rfl
@[simp] theorem State.setPort_rcache (p : Nat) (x : Port) : (s.setPort p x).rcache = s.rcache := rfl
@[simp] theorem State.setPort_faultsMet (p : Nat) (x : Port) : (s.setPort p x).faultsMet = s.faultsMet := rfl
@[simp] theorem State.setPort_wildPools (p : Nat) (x : Port) : (s.setPort p x).wildPools = s.wildPools := rfl
@[simp] theorem State.setPort_forkAborted (p : Nat) (x : Port) : (s.setPort p x).forkAborted = s.forkAborted := rfl
@[simp] theorem State.setPort_waitMoves (p : Nat) (x : Port) : (s.setPort p x).waitMoves = s.waitMoves := rfl
@[simp] theorem State.setPort_rosWait (p : Nat) (x : Port) : (s.setPort p x).rosWait = s.rosWait := rfl
@[simp] theorem State.setPort_doe (p : Nat) (x : Port) : (s.setPort p x).doe = s.doe := rfl
@[simp] theorem State.setPort_msixTab (p : Nat) (x : Port) : (s.setPort p x).msixTab = s.msixTab := rfl
@[simp] theorem State.setPort_msixPba (p : Nat) (x : Port) : (s.setPort p x).msixPba = s.msixPba := rfl
@[simp] theorem State.setPort_formerIds (p : Nat) (x : Port) : (s.setPort p x).formerIds = s.formerIds := rfl

/-! ### `State.setChan` -/

@[simp] theorem State.setChan_pending (e c : Nat) (x : Chan) : (s.setChan e c x).pending = s.pending := rfl
@[simp] theorem State.setChan_clock (e c : Nat) (x : Chan) : (s.setChan e c x).clock = s.clock := rfl
@[simp] theorem State.setChan_fresh (e c : Nat) (x : Chan) : (s.setChan e c x).fresh = s.fresh := rfl
@[simp] theorem State.setChan_regs (e c : Nat) (x : Chan) : (s.setChan e c x).regs = s.regs := rfl
@[simp] theorem State.setChan_mem (e c : Nat) (x : Chan) : (s.setChan e c x).mem = s.mem := rfl
@[simp] theorem State.setChan_undef (e c : Nat) (x : Chan) : (s.setChan e c x).undef = s.undef := rfl
@[simp] theorem State.setChan_poison (e c : Nat) (x : Chan) : (s.setChan e c x).poison = s.poison := rfl
@[simp] theorem State.setChan_tokens (e c : Nat) (x : Chan) : (s.setChan e c x).tokens = s.tokens := rfl
@[simp] theorem State.setChan_spareMap (e c : Nat) (x : Chan) : (s.setChan e c x).spareMap = s.spareMap := rfl
@[simp] theorem State.setChan_halves (e c : Nat) (x : Chan) : (s.setChan e c x).halves = s.halves := rfl
@[simp] theorem State.setChan_latched (e c : Nat) (x : Chan) : (s.setChan e c x).latched = s.latched := rfl
@[simp] theorem State.setChan_routesF (e c : Nat) (x : Chan) : (s.setChan e c x).routesF = s.routesF := rfl
@[simp] theorem State.setChan_routesB (e c : Nat) (x : Chan) : (s.setChan e c x).routesB = s.routesB := rfl
@[simp] theorem State.setChan_sfuVer (e c : Nat) (x : Chan) : (s.setChan e c x).sfuVer = s.sfuVer := rfl
@[simp] theorem State.setChan_stk (e c : Nat) (x : Chan) : (s.setChan e c x).stk = s.stk := rfl
@[simp] theorem State.setChan_coxes (e c : Nat) (x : Chan) : (s.setChan e c x).coxes = s.coxes := rfl
@[simp] theorem State.setChan_cores (e c : Nat) (x : Chan) : (s.setChan e c x).cores = s.cores := rfl
@[simp] theorem State.setChan_ports (e c : Nat) (x : Chan) : (s.setChan e c x).ports = s.ports := rfl
@[simp] theorem State.setChan_ops (e c : Nat) (x : Chan) : (s.setChan e c x).ops = s.ops := rfl
@[simp] theorem State.setChan_nextOp (e c : Nat) (x : Chan) : (s.setChan e c x).nextOp = s.nextOp := rfl
@[simp] theorem State.setChan_arrived (e c : Nat) (x : Chan) : (s.setChan e c x).arrived = s.arrived := rfl
@[simp] theorem State.setChan_asked (e c : Nat) (x : Chan) : (s.setChan e c x).asked = s.asked := rfl
@[simp] theorem State.setChan_hostOut (e c : Nat) (x : Chan) : (s.setChan e c x).hostOut = s.hostOut := rfl
@[simp] theorem State.setChan_hostReads (e c : Nat) (x : Chan) : (s.setChan e c x).hostReads = s.hostReads := rfl
@[simp] theorem State.setChan_nextTag (e c : Nat) (x : Chan) : (s.setChan e c x).nextTag = s.nextTag := rfl
@[simp] theorem State.setChan_barWaits (e c : Nat) (x : Chan) : (s.setChan e c x).barWaits = s.barWaits := rfl
@[simp] theorem State.setChan_barFailed (e c : Nat) (x : Chan) : (s.setChan e c x).barFailed = s.barFailed := rfl
@[simp] theorem State.setChan_slots (e c : Nat) (x : Chan) : (s.setChan e c x).slots = s.slots := rfl
@[simp] theorem State.setChan_slotGen (e c : Nat) (x : Chan) : (s.setChan e c x).slotGen = s.slotGen := rfl
@[simp] theorem State.setChan_slotless (e c : Nat) (x : Chan) : (s.setChan e c x).slotless = s.slotless := rfl
@[simp] theorem State.setChan_lost (e c : Nat) (x : Chan) : (s.setChan e c x).lost = s.lost := rfl
@[simp] theorem State.setChan_tlb (e c : Nat) (x : Chan) : (s.setChan e c x).tlb = s.tlb := rfl
@[simp] theorem State.setChan_logQueue (e c : Nat) (x : Chan) : (s.setChan e c x).logQueue = s.logQueue := rfl
@[simp] theorem State.setChan_logRing (e c : Nat) (x : Chan) : (s.setChan e c x).logRing = s.logRing := rfl
@[simp] theorem State.setChan_ibi (e c : Nat) (x : Chan) : (s.setChan e c x).ibi = s.ibi := rfl
@[simp] theorem State.setChan_watches (e c : Nat) (x : Chan) : (s.setChan e c x).watches = s.watches := rfl
@[simp] theorem State.setChan_lostObjs (e c : Nat) (x : Chan) : (s.setChan e c x).lostObjs = s.lostObjs := rfl
@[simp] theorem State.setChan_waitPkts (e c : Nat) (x : Chan) : (s.setChan e c x).waitPkts = s.waitPkts := rfl
@[simp] theorem State.setChan_regWrites (e c : Nat) (x : Chan) : (s.setChan e c x).regWrites = s.regWrites := rfl
@[simp] theorem State.setChan_ctxFaults (e c : Nat) (x : Chan) : (s.setChan e c x).ctxFaults = s.ctxFaults := rfl
@[simp] theorem State.setChan_touched (e c : Nat) (x : Chan) : (s.setChan e c x).touched = s.touched := rfl
@[simp] theorem State.setChan_amaxDone (e c : Nat) (x : Chan) : (s.setChan e c x).amaxDone = s.amaxDone := rfl
@[simp] theorem State.setChan_objs (e c : Nat) (x : Chan) : (s.setChan e c x).objs = s.objs := rfl
@[simp] theorem State.setChan_tierCmd (e c : Nat) (x : Chan) : (s.setChan e c x).tierCmd = s.tierCmd := rfl
@[simp] theorem State.setChan_rosReqs (e c : Nat) (x : Chan) : (s.setChan e c x).rosReqs = s.rosReqs := rfl
@[simp] theorem State.setChan_rosPrev (e c : Nat) (x : Chan) : (s.setChan e c x).rosPrev = s.rosPrev := rfl
@[simp] theorem State.setChan_rosAdvs (e c : Nat) (x : Chan) : (s.setChan e c x).rosAdvs = s.rosAdvs := rfl
@[simp] theorem State.setChan_rosDemands (e c : Nat) (x : Chan) : (s.setChan e c x).rosDemands = s.rosDemands := rfl
@[simp] theorem State.setChan_rosDrops (e c : Nat) (x : Chan) : (s.setChan e c x).rosDrops = s.rosDrops := rfl
@[simp] theorem State.setChan_rosAdds (e c : Nat) (x : Chan) : (s.setChan e c x).rosAdds = s.rosAdds := rfl
@[simp] theorem State.setChan_rosNoDir (e c : Nat) (x : Chan) : (s.setChan e c x).rosNoDir = s.rosNoDir := rfl
@[simp] theorem State.setChan_rosAborted (e c : Nat) (x : Chan) : (s.setChan e c x).rosAborted = s.rosAborted := rfl
@[simp] theorem State.setChan_lenFull (e c : Nat) (x : Chan) : (s.setChan e c x).lenFull = s.lenFull := rfl
@[simp] theorem State.setChan_lenDirty (e c : Nat) (x : Chan) : (s.setChan e c x).lenDirty = s.lenDirty := rfl
@[simp] theorem State.setChan_snaps (e c : Nat) (x : Chan) : (s.setChan e c x).snaps = s.snaps := rfl
@[simp] theorem State.setChan_ckptFrames (e c : Nat) (x : Chan) : (s.setChan e c x).ckptFrames = s.ckptFrames := rfl
@[simp] theorem State.setChan_faults (e c : Nat) (x : Chan) : (s.setChan e c x).faults = s.faults := rfl
@[simp] theorem State.setChan_suspects (e c : Nat) (x : Chan) : (s.setChan e c x).suspects = s.suspects := rfl
@[simp] theorem State.setChan_retired (e c : Nat) (x : Chan) : (s.setChan e c x).retired = s.retired := rfl
@[simp] theorem State.setChan_ledger0 (e c : Nat) (x : Chan) : (s.setChan e c x).ledger0 = s.ledger0 := rfl
@[simp] theorem State.setChan_ledger1 (e c : Nat) (x : Chan) : (s.setChan e c x).ledger1 = s.ledger1 := rfl
@[simp] theorem State.setChan_ledgerPend (e c : Nat) (x : Chan) : (s.setChan e c x).ledgerPend = s.ledgerPend := rfl
@[simp] theorem State.setChan_powerCycles (e c : Nat) (x : Chan) : (s.setChan e c x).powerCycles = s.powerCycles := rfl
@[simp] theorem State.setChan_sprOp (e c : Nat) (x : Chan) : (s.setChan e c x).sprOp = s.sprOp := rfl
@[simp] theorem State.setChan_testRows (e c : Nat) (x : Chan) : (s.setChan e c x).testRows = s.testRows := rfl
@[simp] theorem State.setChan_banks (e c : Nat) (x : Chan) : (s.setChan e c x).banks = s.banks := rfl
@[simp] theorem State.setChan_self (e c : Nat) (x : Chan) : (s.setChan e c x).self = s.self := rfl
@[simp] theorem State.setChan_saved (e c : Nat) (x : Chan) : (s.setChan e c x).saved = s.saved := rfl
@[simp] theorem State.setChan_nextSave (e c : Nat) (x : Chan) : (s.setChan e c x).nextSave = s.nextSave := rfl
@[simp] theorem State.setChan_crewSaves (e c : Nat) (x : Chan) : (s.setChan e c x).crewSaves = s.crewSaves := rfl
@[simp] theorem State.setChan_filtered (e c : Nat) (x : Chan) : (s.setChan e c x).filtered = s.filtered := rfl
@[simp] theorem State.setChan_leaseFails (e c : Nat) (x : Chan) : (s.setChan e c x).leaseFails = s.leaseFails := rfl
@[simp] theorem State.setChan_pinned (e c : Nat) (x : Chan) : (s.setChan e c x).pinned = s.pinned := rfl
@[simp] theorem State.setChan_ctxBell (e c : Nat) (x : Chan) : (s.setChan e c x).ctxBell = s.ctxBell := rfl
@[simp] theorem State.setChan_pwr (e c : Nat) (x : Chan) : (s.setChan e c x).pwr = s.pwr := rfl
@[simp] theorem State.setChan_ret0 (e c : Nat) (x : Chan) : (s.setChan e c x).ret0 = s.ret0 := rfl
@[simp] theorem State.setChan_ret1 (e c : Nat) (x : Chan) : (s.setChan e c x).ret1 = s.ret1 := rfl
@[simp] theorem State.setChan_fwA (e c : Nat) (x : Chan) : (s.setChan e c x).fwA = s.fwA := rfl
@[simp] theorem State.setChan_fwB (e c : Nat) (x : Chan) : (s.setChan e c x).fwB = s.fwB := rfl
@[simp] theorem State.setChan_fwMin (e c : Nat) (x : Chan) : (s.setChan e c x).fwMin = s.fwMin := rfl
@[simp] theorem State.setChan_i3c (e c : Nat) (x : Chan) : (s.setChan e c x).i3c = s.i3c := rfl
@[simp] theorem State.setChan_spdm (e c : Nat) (x : Chan) : (s.setChan e c x).spdm = s.spdm := rfl
@[simp] theorem State.setChan_tap (e c : Nat) (x : Chan) : (s.setChan e c x).tap = s.tap := rfl
@[simp] theorem State.setChan_sweeps (e c : Nat) (x : Chan) : (s.setChan e c x).sweeps = s.sweeps := rfl
@[simp] theorem State.setChan_loadPos (e c : Nat) (x : Chan) : (s.setChan e c x).loadPos = s.loadPos := rfl
@[simp] theorem State.setChan_summaryAt (e c : Nat) (x : Chan) : (s.setChan e c x).summaryAt = s.summaryAt := rfl
@[simp] theorem State.setChan_wideParams (e c : Nat) (x : Chan) : (s.setChan e c x).wideParams = s.wideParams := rfl
@[simp] theorem State.setChan_zeroHist (e c : Nat) (x : Chan) : (s.setChan e c x).zeroHist = s.zeroHist := rfl
@[simp] theorem State.setChan_nextRun (e c : Nat) (x : Chan) : (s.setChan e c x).nextRun = s.nextRun := rfl
@[simp] theorem State.setChan_mcast (e c : Nat) (x : Chan) : (s.setChan e c x).mcast = s.mcast := rfl
@[simp] theorem State.setChan_pageReads (e c : Nat) (x : Chan) : (s.setChan e c x).pageReads = s.pageReads := rfl
@[simp] theorem State.setChan_rcache (e c : Nat) (x : Chan) : (s.setChan e c x).rcache = s.rcache := rfl
@[simp] theorem State.setChan_faultsMet (e c : Nat) (x : Chan) : (s.setChan e c x).faultsMet = s.faultsMet := rfl
@[simp] theorem State.setChan_wildPools (e c : Nat) (x : Chan) : (s.setChan e c x).wildPools = s.wildPools := rfl
@[simp] theorem State.setChan_forkAborted (e c : Nat) (x : Chan) : (s.setChan e c x).forkAborted = s.forkAborted := rfl
@[simp] theorem State.setChan_waitMoves (e c : Nat) (x : Chan) : (s.setChan e c x).waitMoves = s.waitMoves := rfl
@[simp] theorem State.setChan_rosWait (e c : Nat) (x : Chan) : (s.setChan e c x).rosWait = s.rosWait := rfl
@[simp] theorem State.setChan_doe (e c : Nat) (x : Chan) : (s.setChan e c x).doe = s.doe := rfl
@[simp] theorem State.setChan_msixTab (e c : Nat) (x : Chan) : (s.setChan e c x).msixTab = s.msixTab := rfl
@[simp] theorem State.setChan_msixPba (e c : Nat) (x : Chan) : (s.setChan e c x).msixPba = s.msixPba := rfl
@[simp] theorem State.setChan_formerIds (e c : Nat) (x : Chan) : (s.setChan e c x).formerIds = s.formerIds := rfl

/-! ### `State.at` -/

@[simp] theorem State.at_pending (t : Nat) : (s.at t).pending = s.pending := rfl
@[simp] theorem State.at_fresh (t : Nat) : (s.at t).fresh = s.fresh := rfl
@[simp] theorem State.at_regs (t : Nat) : (s.at t).regs = s.regs := rfl
@[simp] theorem State.at_mem (t : Nat) : (s.at t).mem = s.mem := rfl
@[simp] theorem State.at_undef (t : Nat) : (s.at t).undef = s.undef := rfl
@[simp] theorem State.at_poison (t : Nat) : (s.at t).poison = s.poison := rfl
@[simp] theorem State.at_tokens (t : Nat) : (s.at t).tokens = s.tokens := rfl
@[simp] theorem State.at_spareMap (t : Nat) : (s.at t).spareMap = s.spareMap := rfl
@[simp] theorem State.at_halves (t : Nat) : (s.at t).halves = s.halves := rfl
@[simp] theorem State.at_latched (t : Nat) : (s.at t).latched = s.latched := rfl
@[simp] theorem State.at_routesF (t : Nat) : (s.at t).routesF = s.routesF := rfl
@[simp] theorem State.at_routesB (t : Nat) : (s.at t).routesB = s.routesB := rfl
@[simp] theorem State.at_sfuVer (t : Nat) : (s.at t).sfuVer = s.sfuVer := rfl
@[simp] theorem State.at_stk (t : Nat) : (s.at t).stk = s.stk := rfl
@[simp] theorem State.at_coxes (t : Nat) : (s.at t).coxes = s.coxes := rfl
@[simp] theorem State.at_cores (t : Nat) : (s.at t).cores = s.cores := rfl
@[simp] theorem State.at_ports (t : Nat) : (s.at t).ports = s.ports := rfl
@[simp] theorem State.at_ops (t : Nat) : (s.at t).ops = s.ops := rfl
@[simp] theorem State.at_nextOp (t : Nat) : (s.at t).nextOp = s.nextOp := rfl
@[simp] theorem State.at_arrived (t : Nat) : (s.at t).arrived = s.arrived := rfl
@[simp] theorem State.at_asked (t : Nat) : (s.at t).asked = s.asked := rfl
@[simp] theorem State.at_hostOut (t : Nat) : (s.at t).hostOut = s.hostOut := rfl
@[simp] theorem State.at_hostReads (t : Nat) : (s.at t).hostReads = s.hostReads := rfl
@[simp] theorem State.at_nextTag (t : Nat) : (s.at t).nextTag = s.nextTag := rfl
@[simp] theorem State.at_barWaits (t : Nat) : (s.at t).barWaits = s.barWaits := rfl
@[simp] theorem State.at_barFailed (t : Nat) : (s.at t).barFailed = s.barFailed := rfl
@[simp] theorem State.at_slots (t : Nat) : (s.at t).slots = s.slots := rfl
@[simp] theorem State.at_slotGen (t : Nat) : (s.at t).slotGen = s.slotGen := rfl
@[simp] theorem State.at_slotless (t : Nat) : (s.at t).slotless = s.slotless := rfl
@[simp] theorem State.at_lost (t : Nat) : (s.at t).lost = s.lost := rfl
@[simp] theorem State.at_tlb (t : Nat) : (s.at t).tlb = s.tlb := rfl
@[simp] theorem State.at_logQueue (t : Nat) : (s.at t).logQueue = s.logQueue := rfl
@[simp] theorem State.at_logRing (t : Nat) : (s.at t).logRing = s.logRing := rfl
@[simp] theorem State.at_ibi (t : Nat) : (s.at t).ibi = s.ibi := rfl
@[simp] theorem State.at_chans (t : Nat) : (s.at t).chans = s.chans := rfl
@[simp] theorem State.at_watches (t : Nat) : (s.at t).watches = s.watches := rfl
@[simp] theorem State.at_lostObjs (t : Nat) : (s.at t).lostObjs = s.lostObjs := rfl
@[simp] theorem State.at_waitPkts (t : Nat) : (s.at t).waitPkts = s.waitPkts := rfl
@[simp] theorem State.at_regWrites (t : Nat) : (s.at t).regWrites = s.regWrites := rfl
@[simp] theorem State.at_ctxFaults (t : Nat) : (s.at t).ctxFaults = s.ctxFaults := rfl
@[simp] theorem State.at_touched (t : Nat) : (s.at t).touched = s.touched := rfl
@[simp] theorem State.at_amaxDone (t : Nat) : (s.at t).amaxDone = s.amaxDone := rfl
@[simp] theorem State.at_objs (t : Nat) : (s.at t).objs = s.objs := rfl
@[simp] theorem State.at_tierCmd (t : Nat) : (s.at t).tierCmd = s.tierCmd := rfl
@[simp] theorem State.at_rosReqs (t : Nat) : (s.at t).rosReqs = s.rosReqs := rfl
@[simp] theorem State.at_rosPrev (t : Nat) : (s.at t).rosPrev = s.rosPrev := rfl
@[simp] theorem State.at_rosAdvs (t : Nat) : (s.at t).rosAdvs = s.rosAdvs := rfl
@[simp] theorem State.at_rosDemands (t : Nat) : (s.at t).rosDemands = s.rosDemands := rfl
@[simp] theorem State.at_rosDrops (t : Nat) : (s.at t).rosDrops = s.rosDrops := rfl
@[simp] theorem State.at_rosAdds (t : Nat) : (s.at t).rosAdds = s.rosAdds := rfl
@[simp] theorem State.at_rosNoDir (t : Nat) : (s.at t).rosNoDir = s.rosNoDir := rfl
@[simp] theorem State.at_rosAborted (t : Nat) : (s.at t).rosAborted = s.rosAborted := rfl
@[simp] theorem State.at_lenFull (t : Nat) : (s.at t).lenFull = s.lenFull := rfl
@[simp] theorem State.at_lenDirty (t : Nat) : (s.at t).lenDirty = s.lenDirty := rfl
@[simp] theorem State.at_snaps (t : Nat) : (s.at t).snaps = s.snaps := rfl
@[simp] theorem State.at_ckptFrames (t : Nat) : (s.at t).ckptFrames = s.ckptFrames := rfl
@[simp] theorem State.at_faults (t : Nat) : (s.at t).faults = s.faults := rfl
@[simp] theorem State.at_suspects (t : Nat) : (s.at t).suspects = s.suspects := rfl
@[simp] theorem State.at_retired (t : Nat) : (s.at t).retired = s.retired := rfl
@[simp] theorem State.at_ledger0 (t : Nat) : (s.at t).ledger0 = s.ledger0 := rfl
@[simp] theorem State.at_ledger1 (t : Nat) : (s.at t).ledger1 = s.ledger1 := rfl
@[simp] theorem State.at_ledgerPend (t : Nat) : (s.at t).ledgerPend = s.ledgerPend := rfl
@[simp] theorem State.at_powerCycles (t : Nat) : (s.at t).powerCycles = s.powerCycles := rfl
@[simp] theorem State.at_sprOp (t : Nat) : (s.at t).sprOp = s.sprOp := rfl
@[simp] theorem State.at_testRows (t : Nat) : (s.at t).testRows = s.testRows := rfl
@[simp] theorem State.at_banks (t : Nat) : (s.at t).banks = s.banks := rfl
@[simp] theorem State.at_self (t : Nat) : (s.at t).self = s.self := rfl
@[simp] theorem State.at_saved (t : Nat) : (s.at t).saved = s.saved := rfl
@[simp] theorem State.at_nextSave (t : Nat) : (s.at t).nextSave = s.nextSave := rfl
@[simp] theorem State.at_crewSaves (t : Nat) : (s.at t).crewSaves = s.crewSaves := rfl
@[simp] theorem State.at_filtered (t : Nat) : (s.at t).filtered = s.filtered := rfl
@[simp] theorem State.at_leaseFails (t : Nat) : (s.at t).leaseFails = s.leaseFails := rfl
@[simp] theorem State.at_pinned (t : Nat) : (s.at t).pinned = s.pinned := rfl
@[simp] theorem State.at_ctxBell (t : Nat) : (s.at t).ctxBell = s.ctxBell := rfl
@[simp] theorem State.at_pwr (t : Nat) : (s.at t).pwr = s.pwr := rfl
@[simp] theorem State.at_ret0 (t : Nat) : (s.at t).ret0 = s.ret0 := rfl
@[simp] theorem State.at_ret1 (t : Nat) : (s.at t).ret1 = s.ret1 := rfl
@[simp] theorem State.at_fwA (t : Nat) : (s.at t).fwA = s.fwA := rfl
@[simp] theorem State.at_fwB (t : Nat) : (s.at t).fwB = s.fwB := rfl
@[simp] theorem State.at_fwMin (t : Nat) : (s.at t).fwMin = s.fwMin := rfl
@[simp] theorem State.at_i3c (t : Nat) : (s.at t).i3c = s.i3c := rfl
@[simp] theorem State.at_spdm (t : Nat) : (s.at t).spdm = s.spdm := rfl
@[simp] theorem State.at_tap (t : Nat) : (s.at t).tap = s.tap := rfl
@[simp] theorem State.at_sweeps (t : Nat) : (s.at t).sweeps = s.sweeps := rfl
@[simp] theorem State.at_loadPos (t : Nat) : (s.at t).loadPos = s.loadPos := rfl
@[simp] theorem State.at_summaryAt (t : Nat) : (s.at t).summaryAt = s.summaryAt := rfl
@[simp] theorem State.at_wideParams (t : Nat) : (s.at t).wideParams = s.wideParams := rfl
@[simp] theorem State.at_zeroHist (t : Nat) : (s.at t).zeroHist = s.zeroHist := rfl
@[simp] theorem State.at_nextRun (t : Nat) : (s.at t).nextRun = s.nextRun := rfl
@[simp] theorem State.at_mcast (t : Nat) : (s.at t).mcast = s.mcast := rfl
@[simp] theorem State.at_pageReads (t : Nat) : (s.at t).pageReads = s.pageReads := rfl
@[simp] theorem State.at_rcache (t : Nat) : (s.at t).rcache = s.rcache := rfl
@[simp] theorem State.at_faultsMet (t : Nat) : (s.at t).faultsMet = s.faultsMet := rfl
@[simp] theorem State.at_wildPools (t : Nat) : (s.at t).wildPools = s.wildPools := rfl
@[simp] theorem State.at_forkAborted (t : Nat) : (s.at t).forkAborted = s.forkAborted := rfl
@[simp] theorem State.at_waitMoves (t : Nat) : (s.at t).waitMoves = s.waitMoves := rfl
@[simp] theorem State.at_rosWait (t : Nat) : (s.at t).rosWait = s.rosWait := rfl
@[simp] theorem State.at_doe (t : Nat) : (s.at t).doe = s.doe := rfl
@[simp] theorem State.at_msixTab (t : Nat) : (s.at t).msixTab = s.msixTab := rfl
@[simp] theorem State.at_msixPba (t : Nat) : (s.at t).msixPba = s.msixPba := rfl
@[simp] theorem State.at_formerIds (t : Nat) : (s.at t).formerIds = s.formerIds := rfl

/-! ### `State.logFrom` -/

@[simp] theorem State.logFrom_pending (a b c d e : Nat) : (s.logFrom a b c d e).pending = s.pending := by unfold State.logFrom; split <;> rfl
@[simp] theorem State.logFrom_clock (a b c d e : Nat) : (s.logFrom a b c d e).clock = s.clock := by unfold State.logFrom; split <;> rfl
@[simp] theorem State.logFrom_fresh (a b c d e : Nat) : (s.logFrom a b c d e).fresh = s.fresh := by unfold State.logFrom; split <;> rfl
@[simp] theorem State.logFrom_mem (a b c d e : Nat) : (s.logFrom a b c d e).mem = s.mem := by unfold State.logFrom; split <;> rfl
@[simp] theorem State.logFrom_undef (a b c d e : Nat) : (s.logFrom a b c d e).undef = s.undef := by unfold State.logFrom; split <;> rfl
@[simp] theorem State.logFrom_poison (a b c d e : Nat) : (s.logFrom a b c d e).poison = s.poison := by unfold State.logFrom; split <;> rfl
@[simp] theorem State.logFrom_tokens (a b c d e : Nat) : (s.logFrom a b c d e).tokens = s.tokens := by unfold State.logFrom; split <;> rfl
@[simp] theorem State.logFrom_spareMap (a b c d e : Nat) : (s.logFrom a b c d e).spareMap = s.spareMap := by unfold State.logFrom; split <;> rfl
@[simp] theorem State.logFrom_halves (a b c d e : Nat) : (s.logFrom a b c d e).halves = s.halves := by unfold State.logFrom; split <;> rfl
@[simp] theorem State.logFrom_latched (a b c d e : Nat) : (s.logFrom a b c d e).latched = s.latched := by unfold State.logFrom; split <;> rfl
@[simp] theorem State.logFrom_routesF (a b c d e : Nat) : (s.logFrom a b c d e).routesF = s.routesF := by unfold State.logFrom; split <;> rfl
@[simp] theorem State.logFrom_routesB (a b c d e : Nat) : (s.logFrom a b c d e).routesB = s.routesB := by unfold State.logFrom; split <;> rfl
@[simp] theorem State.logFrom_sfuVer (a b c d e : Nat) : (s.logFrom a b c d e).sfuVer = s.sfuVer := by unfold State.logFrom; split <;> rfl
@[simp] theorem State.logFrom_stk (a b c d e : Nat) : (s.logFrom a b c d e).stk = s.stk := by unfold State.logFrom; split <;> rfl
@[simp] theorem State.logFrom_coxes (a b c d e : Nat) : (s.logFrom a b c d e).coxes = s.coxes := by unfold State.logFrom; split <;> rfl
@[simp] theorem State.logFrom_cores (a b c d e : Nat) : (s.logFrom a b c d e).cores = s.cores := by unfold State.logFrom; split <;> rfl
@[simp] theorem State.logFrom_ports (a b c d e : Nat) : (s.logFrom a b c d e).ports = s.ports := by unfold State.logFrom; split <;> rfl
@[simp] theorem State.logFrom_ops (a b c d e : Nat) : (s.logFrom a b c d e).ops = s.ops := by unfold State.logFrom; split <;> rfl
@[simp] theorem State.logFrom_nextOp (a b c d e : Nat) : (s.logFrom a b c d e).nextOp = s.nextOp := by unfold State.logFrom; split <;> rfl
@[simp] theorem State.logFrom_arrived (a b c d e : Nat) : (s.logFrom a b c d e).arrived = s.arrived := by unfold State.logFrom; split <;> rfl
@[simp] theorem State.logFrom_asked (a b c d e : Nat) : (s.logFrom a b c d e).asked = s.asked := by unfold State.logFrom; split <;> rfl
@[simp] theorem State.logFrom_hostOut (a b c d e : Nat) : (s.logFrom a b c d e).hostOut = s.hostOut := by unfold State.logFrom; split <;> rfl
@[simp] theorem State.logFrom_hostReads (a b c d e : Nat) : (s.logFrom a b c d e).hostReads = s.hostReads := by unfold State.logFrom; split <;> rfl
@[simp] theorem State.logFrom_nextTag (a b c d e : Nat) : (s.logFrom a b c d e).nextTag = s.nextTag := by unfold State.logFrom; split <;> rfl
@[simp] theorem State.logFrom_barWaits (a b c d e : Nat) : (s.logFrom a b c d e).barWaits = s.barWaits := by unfold State.logFrom; split <;> rfl
@[simp] theorem State.logFrom_barFailed (a b c d e : Nat) : (s.logFrom a b c d e).barFailed = s.barFailed := by unfold State.logFrom; split <;> rfl
@[simp] theorem State.logFrom_slots (a b c d e : Nat) : (s.logFrom a b c d e).slots = s.slots := by unfold State.logFrom; split <;> rfl
@[simp] theorem State.logFrom_slotGen (a b c d e : Nat) : (s.logFrom a b c d e).slotGen = s.slotGen := by unfold State.logFrom; split <;> rfl
@[simp] theorem State.logFrom_slotless (a b c d e : Nat) : (s.logFrom a b c d e).slotless = s.slotless := by unfold State.logFrom; split <;> rfl
@[simp] theorem State.logFrom_lost (a b c d e : Nat) : (s.logFrom a b c d e).lost = s.lost := by unfold State.logFrom; split <;> rfl
@[simp] theorem State.logFrom_tlb (a b c d e : Nat) : (s.logFrom a b c d e).tlb = s.tlb := by unfold State.logFrom; split <;> rfl
@[simp] theorem State.logFrom_logRing (a b c d e : Nat) : (s.logFrom a b c d e).logRing = s.logRing := by unfold State.logFrom; split <;> rfl
@[simp] theorem State.logFrom_ibi (a b c d e : Nat) : (s.logFrom a b c d e).ibi = s.ibi := by unfold State.logFrom; split <;> rfl
@[simp] theorem State.logFrom_chans (a b c d e : Nat) : (s.logFrom a b c d e).chans = s.chans := by unfold State.logFrom; split <;> rfl
@[simp] theorem State.logFrom_watches (a b c d e : Nat) : (s.logFrom a b c d e).watches = s.watches := by unfold State.logFrom; split <;> rfl
@[simp] theorem State.logFrom_lostObjs (a b c d e : Nat) : (s.logFrom a b c d e).lostObjs = s.lostObjs := by unfold State.logFrom; split <;> rfl
@[simp] theorem State.logFrom_waitPkts (a b c d e : Nat) : (s.logFrom a b c d e).waitPkts = s.waitPkts := by unfold State.logFrom; split <;> rfl
@[simp] theorem State.logFrom_regWrites (a b c d e : Nat) : (s.logFrom a b c d e).regWrites = s.regWrites := by unfold State.logFrom; split <;> rfl
@[simp] theorem State.logFrom_ctxFaults (a b c d e : Nat) : (s.logFrom a b c d e).ctxFaults = s.ctxFaults := by unfold State.logFrom; split <;> rfl
@[simp] theorem State.logFrom_touched (a b c d e : Nat) : (s.logFrom a b c d e).touched = s.touched := by unfold State.logFrom; split <;> rfl
@[simp] theorem State.logFrom_amaxDone (a b c d e : Nat) : (s.logFrom a b c d e).amaxDone = s.amaxDone := by unfold State.logFrom; split <;> rfl
@[simp] theorem State.logFrom_objs (a b c d e : Nat) : (s.logFrom a b c d e).objs = s.objs := by unfold State.logFrom; split <;> rfl
@[simp] theorem State.logFrom_tierCmd (a b c d e : Nat) : (s.logFrom a b c d e).tierCmd = s.tierCmd := by unfold State.logFrom; split <;> rfl
@[simp] theorem State.logFrom_rosReqs (a b c d e : Nat) : (s.logFrom a b c d e).rosReqs = s.rosReqs := by unfold State.logFrom; split <;> rfl
@[simp] theorem State.logFrom_rosPrev (a b c d e : Nat) : (s.logFrom a b c d e).rosPrev = s.rosPrev := by unfold State.logFrom; split <;> rfl
@[simp] theorem State.logFrom_rosAdvs (a b c d e : Nat) : (s.logFrom a b c d e).rosAdvs = s.rosAdvs := by unfold State.logFrom; split <;> rfl
@[simp] theorem State.logFrom_rosDemands (a b c d e : Nat) : (s.logFrom a b c d e).rosDemands = s.rosDemands := by unfold State.logFrom; split <;> rfl
@[simp] theorem State.logFrom_rosDrops (a b c d e : Nat) : (s.logFrom a b c d e).rosDrops = s.rosDrops := by unfold State.logFrom; split <;> rfl
@[simp] theorem State.logFrom_rosAdds (a b c d e : Nat) : (s.logFrom a b c d e).rosAdds = s.rosAdds := by unfold State.logFrom; split <;> rfl
@[simp] theorem State.logFrom_rosNoDir (a b c d e : Nat) : (s.logFrom a b c d e).rosNoDir = s.rosNoDir := by unfold State.logFrom; split <;> rfl
@[simp] theorem State.logFrom_rosAborted (a b c d e : Nat) : (s.logFrom a b c d e).rosAborted = s.rosAborted := by unfold State.logFrom; split <;> rfl
@[simp] theorem State.logFrom_lenFull (a b c d e : Nat) : (s.logFrom a b c d e).lenFull = s.lenFull := by unfold State.logFrom; split <;> rfl
@[simp] theorem State.logFrom_lenDirty (a b c d e : Nat) : (s.logFrom a b c d e).lenDirty = s.lenDirty := by unfold State.logFrom; split <;> rfl
@[simp] theorem State.logFrom_snaps (a b c d e : Nat) : (s.logFrom a b c d e).snaps = s.snaps := by unfold State.logFrom; split <;> rfl
@[simp] theorem State.logFrom_ckptFrames (a b c d e : Nat) : (s.logFrom a b c d e).ckptFrames = s.ckptFrames := by unfold State.logFrom; split <;> rfl
@[simp] theorem State.logFrom_faults (a b c d e : Nat) : (s.logFrom a b c d e).faults = s.faults := by unfold State.logFrom; split <;> rfl
@[simp] theorem State.logFrom_suspects (a b c d e : Nat) : (s.logFrom a b c d e).suspects = s.suspects := by unfold State.logFrom; split <;> rfl
@[simp] theorem State.logFrom_retired (a b c d e : Nat) : (s.logFrom a b c d e).retired = s.retired := by unfold State.logFrom; split <;> rfl
@[simp] theorem State.logFrom_ledger0 (a b c d e : Nat) : (s.logFrom a b c d e).ledger0 = s.ledger0 := by unfold State.logFrom; split <;> rfl
@[simp] theorem State.logFrom_ledger1 (a b c d e : Nat) : (s.logFrom a b c d e).ledger1 = s.ledger1 := by unfold State.logFrom; split <;> rfl
@[simp] theorem State.logFrom_ledgerPend (a b c d e : Nat) : (s.logFrom a b c d e).ledgerPend = s.ledgerPend := by unfold State.logFrom; split <;> rfl
@[simp] theorem State.logFrom_powerCycles (a b c d e : Nat) : (s.logFrom a b c d e).powerCycles = s.powerCycles := by unfold State.logFrom; split <;> rfl
@[simp] theorem State.logFrom_sprOp (a b c d e : Nat) : (s.logFrom a b c d e).sprOp = s.sprOp := by unfold State.logFrom; split <;> rfl
@[simp] theorem State.logFrom_testRows (a b c d e : Nat) : (s.logFrom a b c d e).testRows = s.testRows := by unfold State.logFrom; split <;> rfl
@[simp] theorem State.logFrom_banks (a b c d e : Nat) : (s.logFrom a b c d e).banks = s.banks := by unfold State.logFrom; split <;> rfl
@[simp] theorem State.logFrom_self (a b c d e : Nat) : (s.logFrom a b c d e).self = s.self := by unfold State.logFrom; split <;> rfl
@[simp] theorem State.logFrom_saved (a b c d e : Nat) : (s.logFrom a b c d e).saved = s.saved := by unfold State.logFrom; split <;> rfl
@[simp] theorem State.logFrom_nextSave (a b c d e : Nat) : (s.logFrom a b c d e).nextSave = s.nextSave := by unfold State.logFrom; split <;> rfl
@[simp] theorem State.logFrom_crewSaves (a b c d e : Nat) : (s.logFrom a b c d e).crewSaves = s.crewSaves := by unfold State.logFrom; split <;> rfl
@[simp] theorem State.logFrom_filtered (a b c d e : Nat) : (s.logFrom a b c d e).filtered = s.filtered := by unfold State.logFrom; split <;> rfl
@[simp] theorem State.logFrom_leaseFails (a b c d e : Nat) : (s.logFrom a b c d e).leaseFails = s.leaseFails := by unfold State.logFrom; split <;> rfl
@[simp] theorem State.logFrom_pinned (a b c d e : Nat) : (s.logFrom a b c d e).pinned = s.pinned := by unfold State.logFrom; split <;> rfl
@[simp] theorem State.logFrom_ctxBell (a b c d e : Nat) : (s.logFrom a b c d e).ctxBell = s.ctxBell := by unfold State.logFrom; split <;> rfl
@[simp] theorem State.logFrom_pwr (a b c d e : Nat) : (s.logFrom a b c d e).pwr = s.pwr := by unfold State.logFrom; split <;> rfl
@[simp] theorem State.logFrom_ret0 (a b c d e : Nat) : (s.logFrom a b c d e).ret0 = s.ret0 := by unfold State.logFrom; split <;> rfl
@[simp] theorem State.logFrom_ret1 (a b c d e : Nat) : (s.logFrom a b c d e).ret1 = s.ret1 := by unfold State.logFrom; split <;> rfl
@[simp] theorem State.logFrom_fwA (a b c d e : Nat) : (s.logFrom a b c d e).fwA = s.fwA := by unfold State.logFrom; split <;> rfl
@[simp] theorem State.logFrom_fwB (a b c d e : Nat) : (s.logFrom a b c d e).fwB = s.fwB := by unfold State.logFrom; split <;> rfl
@[simp] theorem State.logFrom_fwMin (a b c d e : Nat) : (s.logFrom a b c d e).fwMin = s.fwMin := by unfold State.logFrom; split <;> rfl
@[simp] theorem State.logFrom_i3c (a b c d e : Nat) : (s.logFrom a b c d e).i3c = s.i3c := by unfold State.logFrom; split <;> rfl
@[simp] theorem State.logFrom_spdm (a b c d e : Nat) : (s.logFrom a b c d e).spdm = s.spdm := by unfold State.logFrom; split <;> rfl
@[simp] theorem State.logFrom_tap (a b c d e : Nat) : (s.logFrom a b c d e).tap = s.tap := by unfold State.logFrom; split <;> rfl
@[simp] theorem State.logFrom_sweeps (a b c d e : Nat) : (s.logFrom a b c d e).sweeps = s.sweeps := by unfold State.logFrom; split <;> rfl
@[simp] theorem State.logFrom_loadPos (a b c d e : Nat) : (s.logFrom a b c d e).loadPos = s.loadPos := by unfold State.logFrom; split <;> rfl
@[simp] theorem State.logFrom_summaryAt (a b c d e : Nat) : (s.logFrom a b c d e).summaryAt = s.summaryAt := by unfold State.logFrom; split <;> rfl
@[simp] theorem State.logFrom_wideParams (a b c d e : Nat) : (s.logFrom a b c d e).wideParams = s.wideParams := by unfold State.logFrom; split <;> rfl
@[simp] theorem State.logFrom_zeroHist (a b c d e : Nat) : (s.logFrom a b c d e).zeroHist = s.zeroHist := by unfold State.logFrom; split <;> rfl
@[simp] theorem State.logFrom_nextRun (a b c d e : Nat) : (s.logFrom a b c d e).nextRun = s.nextRun := by unfold State.logFrom; split <;> rfl
@[simp] theorem State.logFrom_mcast (a b c d e : Nat) : (s.logFrom a b c d e).mcast = s.mcast := by unfold State.logFrom; split <;> rfl
@[simp] theorem State.logFrom_pageReads (a b c d e : Nat) : (s.logFrom a b c d e).pageReads = s.pageReads := by unfold State.logFrom; split <;> rfl
@[simp] theorem State.logFrom_rcache (a b c d e : Nat) : (s.logFrom a b c d e).rcache = s.rcache := by unfold State.logFrom; split <;> rfl
@[simp] theorem State.logFrom_faultsMet (a b c d e : Nat) : (s.logFrom a b c d e).faultsMet = s.faultsMet := by unfold State.logFrom; split <;> rfl
@[simp] theorem State.logFrom_wildPools (a b c d e : Nat) : (s.logFrom a b c d e).wildPools = s.wildPools := by unfold State.logFrom; split <;> rfl
@[simp] theorem State.logFrom_forkAborted (a b c d e : Nat) : (s.logFrom a b c d e).forkAborted = s.forkAborted := by unfold State.logFrom; split <;> rfl
@[simp] theorem State.logFrom_waitMoves (a b c d e : Nat) : (s.logFrom a b c d e).waitMoves = s.waitMoves := by unfold State.logFrom; split <;> rfl
@[simp] theorem State.logFrom_rosWait (a b c d e : Nat) : (s.logFrom a b c d e).rosWait = s.rosWait := by unfold State.logFrom; split <;> rfl
@[simp] theorem State.logFrom_doe (a b c d e : Nat) : (s.logFrom a b c d e).doe = s.doe := by unfold State.logFrom; split <;> rfl
@[simp] theorem State.logFrom_msixTab (a b c d e : Nat) : (s.logFrom a b c d e).msixTab = s.msixTab := by unfold State.logFrom; split <;> rfl
@[simp] theorem State.logFrom_msixPba (a b c d e : Nat) : (s.logFrom a b c d e).msixPba = s.msixPba := by unfold State.logFrom; split <;> rfl
@[simp] theorem State.logFrom_formerIds (a b c d e : Nat) : (s.logFrom a b c d e).formerIds = s.formerIds := by unfold State.logFrom; split <;> rfl

/-! ### `State.commit` -/

@[simp] theorem State.commit_clock (t : State) : (s.commit t).clock = t.clock := rfl
@[simp] theorem State.commit_fresh (t : State) : (s.commit t).fresh = t.fresh := rfl
@[simp] theorem State.commit_undef (t : State) : (s.commit t).undef = t.undef := rfl
@[simp] theorem State.commit_poison (t : State) : (s.commit t).poison = t.poison := rfl
@[simp] theorem State.commit_spareMap (t : State) : (s.commit t).spareMap = t.spareMap := rfl
@[simp] theorem State.commit_halves (t : State) : (s.commit t).halves = t.halves := rfl
@[simp] theorem State.commit_latched (t : State) : (s.commit t).latched = t.latched := rfl
@[simp] theorem State.commit_routesF (t : State) : (s.commit t).routesF = t.routesF := rfl
@[simp] theorem State.commit_routesB (t : State) : (s.commit t).routesB = t.routesB := rfl
@[simp] theorem State.commit_sfuVer (t : State) : (s.commit t).sfuVer = t.sfuVer := rfl
@[simp] theorem State.commit_stk (t : State) : (s.commit t).stk = t.stk := rfl
@[simp] theorem State.commit_coxes (t : State) : (s.commit t).coxes = t.coxes := rfl
@[simp] theorem State.commit_cores (t : State) : (s.commit t).cores = t.cores := rfl
@[simp] theorem State.commit_ports (t : State) : (s.commit t).ports = t.ports := rfl
@[simp] theorem State.commit_ops (t : State) : (s.commit t).ops = t.ops := rfl
@[simp] theorem State.commit_nextOp (t : State) : (s.commit t).nextOp = t.nextOp := rfl
@[simp] theorem State.commit_arrived (t : State) : (s.commit t).arrived = t.arrived := rfl
@[simp] theorem State.commit_asked (t : State) : (s.commit t).asked = t.asked := rfl
@[simp] theorem State.commit_hostOut (t : State) : (s.commit t).hostOut = t.hostOut := rfl
@[simp] theorem State.commit_hostReads (t : State) : (s.commit t).hostReads = t.hostReads := rfl
@[simp] theorem State.commit_nextTag (t : State) : (s.commit t).nextTag = t.nextTag := rfl
@[simp] theorem State.commit_barWaits (t : State) : (s.commit t).barWaits = t.barWaits := rfl
@[simp] theorem State.commit_barFailed (t : State) : (s.commit t).barFailed = t.barFailed := rfl
@[simp] theorem State.commit_slots (t : State) : (s.commit t).slots = t.slots := rfl
@[simp] theorem State.commit_slotGen (t : State) : (s.commit t).slotGen = t.slotGen := rfl
@[simp] theorem State.commit_slotless (t : State) : (s.commit t).slotless = t.slotless := rfl
@[simp] theorem State.commit_lost (t : State) : (s.commit t).lost = t.lost := rfl
@[simp] theorem State.commit_tlb (t : State) : (s.commit t).tlb = t.tlb := rfl
@[simp] theorem State.commit_logQueue (t : State) : (s.commit t).logQueue = t.logQueue := rfl
@[simp] theorem State.commit_logRing (t : State) : (s.commit t).logRing = t.logRing := rfl
@[simp] theorem State.commit_ibi (t : State) : (s.commit t).ibi = t.ibi := rfl
@[simp] theorem State.commit_chans (t : State) : (s.commit t).chans = t.chans := rfl
@[simp] theorem State.commit_watches (t : State) : (s.commit t).watches = t.watches := rfl
@[simp] theorem State.commit_lostObjs (t : State) : (s.commit t).lostObjs = t.lostObjs := rfl
@[simp] theorem State.commit_waitPkts (t : State) : (s.commit t).waitPkts = t.waitPkts := rfl
@[simp] theorem State.commit_regWrites (t : State) : (s.commit t).regWrites = t.regWrites := rfl
@[simp] theorem State.commit_ctxFaults (t : State) : (s.commit t).ctxFaults = t.ctxFaults := rfl
@[simp] theorem State.commit_touched (t : State) : (s.commit t).touched = t.touched := rfl
@[simp] theorem State.commit_amaxDone (t : State) : (s.commit t).amaxDone = t.amaxDone := rfl
@[simp] theorem State.commit_objs (t : State) : (s.commit t).objs = t.objs := rfl
@[simp] theorem State.commit_tierCmd (t : State) : (s.commit t).tierCmd = t.tierCmd := rfl
@[simp] theorem State.commit_rosReqs (t : State) : (s.commit t).rosReqs = t.rosReqs := rfl
@[simp] theorem State.commit_rosPrev (t : State) : (s.commit t).rosPrev = t.rosPrev := rfl
@[simp] theorem State.commit_rosAdvs (t : State) : (s.commit t).rosAdvs = t.rosAdvs := rfl
@[simp] theorem State.commit_rosDemands (t : State) : (s.commit t).rosDemands = t.rosDemands := rfl
@[simp] theorem State.commit_rosDrops (t : State) : (s.commit t).rosDrops = t.rosDrops := rfl
@[simp] theorem State.commit_rosAdds (t : State) : (s.commit t).rosAdds = t.rosAdds := rfl
@[simp] theorem State.commit_rosNoDir (t : State) : (s.commit t).rosNoDir = t.rosNoDir := rfl
@[simp] theorem State.commit_rosAborted (t : State) : (s.commit t).rosAborted = t.rosAborted := rfl
@[simp] theorem State.commit_lenFull (t : State) : (s.commit t).lenFull = t.lenFull := rfl
@[simp] theorem State.commit_lenDirty (t : State) : (s.commit t).lenDirty = t.lenDirty := rfl
@[simp] theorem State.commit_snaps (t : State) : (s.commit t).snaps = t.snaps := rfl
@[simp] theorem State.commit_ckptFrames (t : State) : (s.commit t).ckptFrames = t.ckptFrames := rfl
@[simp] theorem State.commit_faults (t : State) : (s.commit t).faults = t.faults := rfl
@[simp] theorem State.commit_suspects (t : State) : (s.commit t).suspects = t.suspects := rfl
@[simp] theorem State.commit_retired (t : State) : (s.commit t).retired = t.retired := rfl
@[simp] theorem State.commit_ledger0 (t : State) : (s.commit t).ledger0 = t.ledger0 := rfl
@[simp] theorem State.commit_ledger1 (t : State) : (s.commit t).ledger1 = t.ledger1 := rfl
@[simp] theorem State.commit_ledgerPend (t : State) : (s.commit t).ledgerPend = t.ledgerPend := rfl
@[simp] theorem State.commit_powerCycles (t : State) : (s.commit t).powerCycles = t.powerCycles := rfl
@[simp] theorem State.commit_sprOp (t : State) : (s.commit t).sprOp = t.sprOp := rfl
@[simp] theorem State.commit_testRows (t : State) : (s.commit t).testRows = t.testRows := rfl
@[simp] theorem State.commit_banks (t : State) : (s.commit t).banks = t.banks := rfl
@[simp] theorem State.commit_self (t : State) : (s.commit t).self = t.self := rfl
@[simp] theorem State.commit_saved (t : State) : (s.commit t).saved = t.saved := rfl
@[simp] theorem State.commit_nextSave (t : State) : (s.commit t).nextSave = t.nextSave := rfl
@[simp] theorem State.commit_crewSaves (t : State) : (s.commit t).crewSaves = t.crewSaves := rfl
@[simp] theorem State.commit_filtered (t : State) : (s.commit t).filtered = t.filtered := rfl
@[simp] theorem State.commit_leaseFails (t : State) : (s.commit t).leaseFails = t.leaseFails := rfl
@[simp] theorem State.commit_pinned (t : State) : (s.commit t).pinned = t.pinned := rfl
@[simp] theorem State.commit_ctxBell (t : State) : (s.commit t).ctxBell = t.ctxBell := rfl
@[simp] theorem State.commit_pwr (t : State) : (s.commit t).pwr = t.pwr := rfl
@[simp] theorem State.commit_ret0 (t : State) : (s.commit t).ret0 = t.ret0 := rfl
@[simp] theorem State.commit_ret1 (t : State) : (s.commit t).ret1 = t.ret1 := rfl
@[simp] theorem State.commit_fwA (t : State) : (s.commit t).fwA = t.fwA := rfl
@[simp] theorem State.commit_fwB (t : State) : (s.commit t).fwB = t.fwB := rfl
@[simp] theorem State.commit_fwMin (t : State) : (s.commit t).fwMin = t.fwMin := rfl
@[simp] theorem State.commit_i3c (t : State) : (s.commit t).i3c = t.i3c := rfl
@[simp] theorem State.commit_spdm (t : State) : (s.commit t).spdm = t.spdm := rfl
@[simp] theorem State.commit_tap (t : State) : (s.commit t).tap = t.tap := rfl
@[simp] theorem State.commit_sweeps (t : State) : (s.commit t).sweeps = t.sweeps := rfl
@[simp] theorem State.commit_loadPos (t : State) : (s.commit t).loadPos = t.loadPos := rfl
@[simp] theorem State.commit_summaryAt (t : State) : (s.commit t).summaryAt = t.summaryAt := rfl
@[simp] theorem State.commit_wideParams (t : State) : (s.commit t).wideParams = t.wideParams := rfl
@[simp] theorem State.commit_zeroHist (t : State) : (s.commit t).zeroHist = t.zeroHist := rfl
@[simp] theorem State.commit_nextRun (t : State) : (s.commit t).nextRun = t.nextRun := rfl
@[simp] theorem State.commit_mcast (t : State) : (s.commit t).mcast = t.mcast := rfl
@[simp] theorem State.commit_pageReads (t : State) : (s.commit t).pageReads = t.pageReads := rfl
@[simp] theorem State.commit_rcache (t : State) : (s.commit t).rcache = t.rcache := rfl
@[simp] theorem State.commit_faultsMet (t : State) : (s.commit t).faultsMet = t.faultsMet := rfl
@[simp] theorem State.commit_wildPools (t : State) : (s.commit t).wildPools = t.wildPools := rfl
@[simp] theorem State.commit_forkAborted (t : State) : (s.commit t).forkAborted = t.forkAborted := rfl
@[simp] theorem State.commit_waitMoves (t : State) : (s.commit t).waitMoves = t.waitMoves := rfl
@[simp] theorem State.commit_rosWait (t : State) : (s.commit t).rosWait = t.rosWait := rfl
@[simp] theorem State.commit_doe (t : State) : (s.commit t).doe = t.doe := rfl
@[simp] theorem State.commit_msixTab (t : State) : (s.commit t).msixTab = t.msixTab := rfl
@[simp] theorem State.commit_msixPba (t : State) : (s.commit t).msixPba = t.msixPba := rfl
@[simp] theorem State.commit_formerIds (t : State) : (s.commit t).formerIds = t.formerIds := rfl
@[simp] theorem State.commit_pending (t : State) : (s.commit t).pending = s.pending := rfl

end Sys2Proof.Machine
end

