-- ==== Sys2Proof/Laws/Ops.lean ====
section
/-!
SUPPORT. What the named operations of Machine/Ops.lean change: register fields, bytes, tokens, units, and the frame of a
command.
-/
namespace Sys2Proof.Machine

variable (s t : State)

/-! ### Register fields -/

/-- A read of a field depends on the register table only. -/
theorem State.rd_congr {s t : State} (h : s.regs = t.regs) (f : Fld) (i j : Nat) : s.rd f i j = t.rd f i j := by simp [State.rd, h]

/-- A write of a field is read back within the field's width. -/
@[simp] theorem State.rd_wr_same (f : Fld) (v i j : Nat) : (s.wr f v i j).rd f i j = v % 2 ^ f.w := by
  simp [State.rd, State.wr]

/-- A write of a field leaves every field with another key. -/
theorem State.rd_wr_ne {f g : Fld} {i j k l : Nat} (h : g.key k l ≠ f.key i j) (v : Nat) : (s.wr f v i j).rd g k l = s.rd g k l := by
  simp [State.rd, State.wr, Tab.look_set_ne _ h]

@[simp] theorem State.on_eq (f : Fld) (i j : Nat) : s.on f i j = s.wr f 1 i j := rfl
@[simp] theorem State.off_eq (f : Fld) (i j : Nat) : s.off f i j = s.wr f 0 i j := rfl
theorem State.bump_eq (f : Fld) (n i j : Nat) : s.bump f n i j = s.wr f (s.rd f i j + n) i j := rfl
theorem State.cause_eq (p : Page) (b i : Nat) :
    s.cause p b i = s.wr (BLK_INT_STAT p) (s.rd (BLK_INT_STAT p) i ||| 2 ^ b) i := rfl
theorem State.cfgErr_eq (p : Page) (i : Nat) : s.cfgErr p i = (s.wr (BLK_STAT_CFG_ERR p) 1 i).cause p 0 i := rfl

/-- A one-bit write and its test. -/
@[simp] theorem State.is_wr_one (f : Fld) (i j : Nat) (h : f.w = 1) : (s.wr f 1 i j).is f i j = true := by simp [State.is, h]
@[simp] theorem State.is_wr_zero (f : Fld) (i j : Nat) : (s.wr f 0 i j).is f i j = false := by simp [State.is]

/-- The logbook queue takes an entry, or the entry is counted: no other register changes. -/
theorem State.rd_logFrom {f : Fld} {i j : Nat} (h : f.key i j ≠ LOG_DROPPED.key 0 0) (a b c d e : Nat) :
    (s.logFrom a b c d e).rd f i j = s.rd f i j := by
  unfold State.logFrom
  split
  · rfl
  · rw [State.bump_eq, State.rd_wr_ne _ h]

/-! ### Bytes and tokens -/

/-- A read of a byte depends on memory and on the undefined ranges only. -/
theorem State.rdByte_congr {s t : State} (h : s.mem = t.mem) (hu : s.undef = t.undef) (a : Nat) : s.rdByte a = t.rdByte a := by
  simp [State.rdByte, State.blank, h, hu]

theorem State.tok_congr {s t : State} (h : s.tokens = t.tokens) (k : Nat) : s.tok k = t.tok k := by simp [State.tok, h]

/-- A byte that is stored is read back, and every other byte is left. -/
theorem State.rdByte_wrByte (a : Nat) (b : Byte) (x : Nat) : (s.wrByte a b).rdByte x = if x = a then b else s.rdByte x := by
  have hb : (s.wrByte a b).blank x = s.blank x := rfl
  unfold State.rdByte
  rw [hb]
  by_cases hc : b = initByte a ∧ undefSeed s.undef a = none
  · have hm : (s.wrByte a b).mem = Tab.del s.mem a := by simp [State.wrByte, hc]
    rw [hm]
    by_cases hx : x = a
    · subst hx; simp [Tab.look, Tab.find_del, State.blank, hc]
    · simp [Tab.look, Tab.find_del, hx]
  · have hm : (s.wrByte a b).mem = Tab.put s.mem a b := by simp [State.wrByte, hc]
    rw [hm]
    by_cases hx : x = a
    · subst hx; simp
    · simp [Tab.look_put_ne _ hx, hx]

/-- A token that is set is read back, and every other token is left. -/
theorem State.tok_setTok (k : Nat) (v : Word) (n : Nat) : (s.setTok k v).tok n = if n = k then v else s.tok n := by
  by_cases h : n = k
  · subst h; simp [State.tok, State.setTok]
  · simp [State.tok, State.setTok, Tab.look_set_ne _ h, h]

/-! ### Units -/

theorem State.cox_setCox (c : Nat) (x : Cox) (d : Nat) : (s.setCox c x).cox d = if d = c then x else s.cox d := by
  by_cases h : d = c
  · subst h; simp [State.cox, State.setCox]
  · simp [State.cox, State.setCox, Tab.look_set_ne _ h, h]

theorem State.core_setCore (c : Nat) (x : Core) (d : Nat) : (s.setCore c x).core d = if d = c then x else s.core d := by
  by_cases h : d = c
  · subst h; simp [State.core, State.setCore]
  · simp [State.core, State.setCore, Tab.look_set_ne _ h, h]

theorem State.port_setPort (c : Nat) (x : Port) (d : Nat) : (s.setPort c x).port d = if d = c then x else s.port d := by
  by_cases h : d = c
  · subst h; simp [State.port, State.setPort]
  · simp [State.port, State.setPort, Tab.look_set_ne _ h, h]

theorem State.chan_setChan (e c : Nat) (x : Chan) (e' c' : Nat) :
    (s.setChan e c x).chan e' c' = if chanKey e' c' = chanKey e c then x else s.chan e' c' := by
  by_cases h : chanKey e' c' = chanKey e c
  · simp [State.chan, State.setChan, h]
  · simp [State.chan, State.setChan, Tab.look_set_ne _ h, h]

@[simp] theorem State.cox_setCox_same (c : Nat) (x : Cox) : (s.setCox c x).cox c = x := by simp [State.cox_setCox]
@[simp] theorem State.core_setCore_same (c : Nat) (x : Core) : (s.setCore c x).core c = x := by simp [State.core_setCore]
@[simp] theorem State.port_setPort_same (c : Nat) (x : Port) : (s.setPort c x).port c = x := by simp [State.port_setPort]
@[simp] theorem State.chan_setChan_same (e c : Nat) (x : Chan) : (s.setChan e c x).chan e c = x := by simp [State.chan_setChan]

/-! ### The frame of a command -/

/-- What a command leaves reads as its effect: registers, tokens, bytes. -/
@[simp] theorem State.rd_commit (f : Fld) (i j : Nat) : (s.commit t).rd f i j = t.rd f i j := by
  simp [State.rd, State.commit, State.tidy]

@[simp] theorem State.tok_commit (k : Nat) : (s.commit t).tok k = t.tok k := by
  simp [State.tok, State.commit, State.tidy]

@[simp] theorem State.rdByte_commit (a : Nat) : (s.commit t).rdByte a = t.rdByte a := by
  have hb : (s.commit t).blank a = t.blank a := rfl
  unfold State.rdByte
  rw [hb]
  show Tab.look ((Tab.canon t.mem).filter t.mustList) a (t.blank a) = _
  unfold Tab.look
  rw [Tab.find_filter (Tab.sorted_canon _), Tab.find_canon]
  cases hf : Tab.find t.mem a with
  | none => rfl
  | some b =>
    by_cases hk : t.mustList (a, b) = true
    · simp [Option.filter, hk]
    · have hk' : b = initByte a ∧ undefSeed t.undef a = none := by simpa [State.mustList] using hk
      have hb' : t.blank a = b := by simp [State.blank, hk']
      rw [hb']
      simp [Option.filter, hk]

@[simp] theorem State.cox_commit (c : Nat) : (s.commit t).cox c = t.cox c := rfl
@[simp] theorem State.core_commit (c : Nat) : (s.commit t).core c = t.core c := rfl
@[simp] theorem State.port_commit (c : Nat) : (s.commit t).port c = t.port c := rfl
@[simp] theorem State.chan_commit (e c : Nat) : (s.commit t).chan e c = t.chan e c := rfl
@[simp] theorem State.stkState_commit : (s.commit t).stkState = t.stkState := by simp [State.stkState]
@[simp] theorem State.stroke_commit : (s.commit t).stroke = t.stroke := by simp [State.stroke]
@[simp] theorem State.is_commit (f : Fld) (i j : Nat) : (s.commit t).is f i j = t.is f i j := by simp [State.is]

/-- A command whose condition holds answers its effect. -/
theorem State.always_next {s : State} {ok : Bool} (h : ok = true) (f : State → State) : s.always ok f = .next (s.commit (f s)) := by
  simp [State.always, h]

theorem State.rails_next {s : State} {ok : Bool} (hr : s.railsUp = true) (h : ok = true) (f : State → State) :
    s.rails ok f = .next (s.commit (f s)) := by
  simp [State.rails, State.always, h, hr]

theorem State.work_next {s : State} {ok : Bool} (hr : s.railsUp = true) (h : ok = true) (f : State → State) :
    s.work ok f = .next (s.commit (f s.easyWake)) := by
  simp [State.work, State.rails, State.always, h, hr]

/-- In ROW, work finds the state as it is. -/
theorem State.easyWake_row {s : State} (h : s.rd PWR_STAT_STATE = 0) : s.easyWake = s := by simp [State.easyWake, h]

theorem State.railsUp_row {s : State} (h : s.rd PWR_STAT_STATE = 0) : s.railsUp = true := by simp [State.railsUp, h]

theorem State.work_row {s : State} {ok : Bool} (hr : s.rd PWR_STAT_STATE = 0) (h : ok = true) (f : State → State) :
    s.work ok f = .next (s.commit (f s)) := by
  rw [State.work_next (State.railsUp_row hr) h, State.easyWake_row hr]

/-- Every command leaves the tables in canonical order. -/
theorem State.ordered_commit : (s.commit t).ordered = true := by
  have hm : (s.commit t).memWf = true := by
    unfold State.memWf
    rw [Bool.and_eq_true]
    exact ⟨Tab.sorted_filter (Tab.sorted_canon t.mem) _, List.all_eq_true.2 fun p hp => (List.mem_filter.1 hp).2⟩
  simp [State.ordered, hm]
  exact ⟨Tab.sorted_canon t.regs, Tab.sorted_canon t.tokens⟩

/-- A command answers a next state: the same one, or one that it has brought in order. -/
theorem State.always_cases {s t : State} {ok : Bool} {f : State → State} (h : s.always ok f = .next t) :
    t = s ∨ t = s.commit (f s) := by
  unfold State.always at h
  injection h with h
  split at h
  · exact .inr h.symm
  · exact .inl h.symm

end Sys2Proof.Machine
end

