-- ==== Sys2Proof/Laws/Route.lean ====
section
/-!
SUPPORT. What sending can do: a packet that leaves changes the ports only, and a message that no port carries adds an entry to
the logbook queue.
-/
namespace Sys2Proof.Machine

variable (s : State)

/-- A fold whose every step changes the ports only changes the ports only. -/
theorem State.foldl_ports {α : Type} (g : State → α → State) (hg : ∀ (t : State) x, ∃ ps, g t x = { t with ports := ps }) (l : List α) :
    ∀ s : State, ∃ ps, l.foldl g s = { s with ports := ps } := by
  induction l with
  | nil => exact fun s => ⟨s.ports, rfl⟩
  | cons x l ih =>
    intro s
    obtain ⟨ps, h⟩ := hg s x
    obtain ⟨qs, h'⟩ := ih (g s x)
    exact ⟨qs, by rw [List.foldl_cons, h', h]⟩

/-- Queuing a packet changes the ports only. -/
theorem State.enqueue_ports (q : Nat) (p : Packet) : ∃ ps, s.enqueue q p = { s with ports := ps } := ⟨_, rfl⟩

/-- A broadcast changes the ports only. -/
theorem State.broadcast_ports (m : StrokeMsg) (e : Option Nat) : ∃ ps, s.broadcast m e = { s with ports := ps } :=
  State.foldl_ports _ (fun t x => t.enqueue_ports x _) _ s

/-- A packet that can be routed changes the ports only. -/
theorem State.sendRouted_ports {s t : State} {p : Packet} (h : s.sendRouted p = some t) : ∃ ps, t = { s with ports := ps } := by
  unfold State.sendRouted at h
  split at h
  · rename_i q _
    obtain ⟨ps, hp⟩ := s.enqueue_ports q { p with cls := s.classFor p.dst p }
    exact ⟨ps, by rw [← Option.some.inj h, hp]⟩
  · cases h

/-- A message of a device that is not the starter: it leaves by a port, or the logbook notes that it could not; a lost HOLD_REQ
puts the device into hold water. -/
theorem State.toStarter_cases {s : State} (h : s.starter = false) (m : StrokeMsg) :
    (∃ ps, s.toStarter m = { s with ports := ps }) ∨
    (∃ d, s.toStarter m = (let u := s.logEv .dev 0 0x301 2 stUnreachable d; if m.code = 5 then u.holdWater m.status u.dev else u)) := by
  unfold State.toStarter
  rw [h]
  simp only [Bool.false_eq_true, if_false]
  split
  · rename_i t ht
    obtain ⟨ps, hp⟩ := State.sendRouted_ports ht
    exact .inl ⟨ps, hp⟩
  · exact .inr ⟨_, rfl⟩

end Sys2Proof.Machine
end

