-- ==== Sys2Proof/Laws/Frame.lean ====
section
/-!
SUPPORT. The footprint of the shared operations: which register fields a state and its successor may differ in, and that memory
and tokens read the same.
-/
namespace Sys2Proof.Machine

/-- Memory and tokens read the same, and every register field but those of the keys listed. -/
def State.foot (s t : State) (ks : List Nat) : Prop := s.sameStore t ∧ s.sameRegsBut t ks

variable {s t u : State} {ks ls : List Nat}

theorem State.foot_refl (s : State) : s.foot s ks := ⟨⟨fun _ => rfl, fun _ => rfl⟩, fun _ _ _ _ => rfl⟩

theorem State.foot_trans (h : s.foot t ks) (h' : t.foot u ls) : s.foot u (ks ++ ls) :=
  ⟨⟨fun a => (h'.1.1 a).trans (h.1.1 a), fun k => (h'.1.2 k).trans (h.1.2 k)⟩,
   fun f i j hk => (h'.2 f i j (fun c => hk (List.mem_append_right _ c))).trans (h.2 f i j (fun c => hk (List.mem_append_left _ c)))⟩

theorem State.foot_mono (h : s.foot t ks) (hs : ks ⊆ ls) : s.foot t ls := ⟨h.1, fun f i j hk => h.2 f i j (fun c => hk (hs c))⟩

/-- Two footprints within the same keys compose. -/
theorem State.foot_then (h : s.foot t ks) (h' : t.foot u ks) : s.foot u ks :=
  State.foot_mono (State.foot_trans h h') (by simp)

/-- A record update of other fields has no footprint. -/
theorem State.foot_of_eq (hr : t.regs = s.regs) (hm : t.mem = s.mem) (hu : t.undef = s.undef) (hk : t.tokens = s.tokens) : s.foot t ks :=
  ⟨⟨fun a => State.rdByte_congr hm hu a, fun k => State.tok_congr hk k⟩, fun f i j _ => State.rd_congr hr f i j⟩

theorem State.foot_ports (ps : List (Nat × Port)) : s.foot { s with ports := ps } ks := State.foot_of_eq rfl rfl rfl rfl

theorem State.foot_wr {f : Fld} {v i j : Nat} (hk : f.key i j ∈ ks) : s.foot (s.wr f v i j) ks :=
  ⟨⟨fun _ => rfl, fun _ => rfl⟩, fun g k l h => State.rd_wr_ne s (f := f) (g := g) (i := i) (j := j) (k := k) (l := l) (fun e => h (e ▸ hk)) v⟩

theorem State.foot_logFrom {a b c d e : Nat} (hk : LOG_DROPPED.key 0 0 ∈ ks) : s.foot (s.logFrom a b c d e) ks := by
  refine ⟨⟨fun x => ?_, fun x => ?_⟩, fun g k l h => State.rd_logFrom s (fun e => h (e ▸ hk)) ..⟩
  · exact State.rdByte_congr (by simp) (by simp) x
  · exact State.tok_congr (by simp) x

theorem State.foot_logEv {p : Page} {i a b c d : Nat} (hk : LOG_DROPPED.key 0 0 ∈ ks) : s.foot (s.logEv p i a b c d) ks := State.foot_logFrom hk

theorem State.foot_easyWake (hk : LOG_DROPPED.key 0 0 ∈ ks) (hp : PWR_STAT_STATE.key 0 0 ∈ ks) : s.foot s.easyWake ks := by
  unfold State.easyWake
  split
  · exact State.foot_then (State.foot_wr hp) (State.foot_logEv hk)
  · exact s.foot_refl

/-- A fold each of whose steps stays within some keys does. -/
theorem State.foot_foldl {α : Type} {g : State → α → State} (hg : ∀ (t : State) x, t.foot (g t x) ks) (l : List α) :
    ∀ s : State, s.foot (l.foldl g s) ks := by
  induction l with
  | nil => exact fun s => s.foot_refl
  | cons x l ih => exact fun s => State.foot_then (hg s x) (ih _)

/-! The same, after other changes. -/

theorem State.foot_wr_of {f : Fld} {v i j : Nat} (h : s.foot t ks) (hk : f.key i j ∈ ks) : s.foot (t.wr f v i j) ks :=
  State.foot_then h (State.foot_wr hk)

theorem State.foot_logEv_of {p : Page} {i a b c d : Nat} (h : s.foot t ks) (hk : LOG_DROPPED.key 0 0 ∈ ks) :
    s.foot (t.logEv p i a b c d) ks := State.foot_then h (State.foot_logEv hk)

theorem State.foot_cause_of {p : Page} {b i : Nat} (h : s.foot t ks) (hk : (BLK_INT_STAT p).key i 0 ∈ ks) : s.foot (t.cause p b i) ks :=
  State.foot_then h (State.foot_wr hk)

theorem State.foot_upd_of (h : s.foot t ks) (hr : u.regs = t.regs) (hm : u.mem = t.mem) (hu : u.undef = t.undef)
    (hk : u.tokens = t.tokens) : s.foot u ks := State.foot_then h (State.foot_of_eq hr hm hu hk)

/-- Broadcasts and routed messages have no footprint. -/
theorem State.foot_broadcast (m : StrokeMsg) (e : Option Nat) : s.foot (s.broadcast m e) ks := by
  obtain ⟨ps, h⟩ := s.broadcast_ports m e
  exact h ▸ State.foot_ports ps

/-- What a command leaves has the footprint of its effect. -/
theorem State.foot_commit (h : s.foot t ks) : s.foot (u.commit t) ks :=
  ⟨⟨fun a => by rw [State.rdByte_commit]; exact h.1.1 a, fun k => by rw [State.tok_commit]; exact h.1.2 k⟩,
   fun f i j hk => by rw [State.rd_commit]; exact h.2 f i j hk⟩

/-- A field outside the footprint reads the same. -/
theorem State.foot_rd (h : s.foot t ks) (f : Fld) (i j : Nat) (hk : f.key i j ∉ ks) : t.rd f i j = s.rd f i j := h.2 f i j hk

end Sys2Proof.Machine
end

