-- ==== Sys2Proof/Laws/Stroke.lean ====
section
/-!
SUPPORT. What the shared operations of the stroke unit leave and change (Machine/Stroke.lean).
-/
namespace Sys2Proof.Machine

variable (s : State)

/-- The saves at the curtain leave the stroke unit. -/
theorem State.noteSave_stk (i ctx : Nat) (b : Bool) : (s.noteSave i ctx b).stk = s.stk := by
  unfold State.noteSave
  cases b <;> simp [State.bump_eq, State.logEv]

theorem State.requestSave_stk (i : Nat) (b : Bool) : (s.requestSave i b).stk = s.stk := by
  unfold State.requestSave
  dsimp only
  repeat' split
  all_goals simp [State.noteSave_stk]

/-- A fold whose every step keeps a part of the state keeps it. -/
theorem State.foldl_keep {α β : Type} (v : State → β) (g : State → α → State) (hg : ∀ (t : State) x, v (g t x) = v t) (l : List α) :
    ∀ s : State, v (l.foldl g s) = v s := by
  induction l with
  | nil => exact fun _ => rfl
  | cons x l ih => exact fun s => (ih (g s x)).trans (hg s x)

@[simp] theorem State.curtainSaves_stk : s.curtainSaves.stk = s.stk := by
  unfold State.curtainSaves
  refine State.foldl_keep (fun s => s.stk) _ (fun t x => ?_) _ s
  repeat' split
  all_goals simp [State.requestSave_stk]

/-- A catch is scheduled: the stroke unit knows its instant and its number. -/
theorem State.scheduleCatch_stk (a n k : Nat) :
    (s.scheduleCatch a n k).stk = { s.stk with due := some (a, n), curtain := true } := by
  unfold State.scheduleCatch
  split <;> simp [State.bump_eq]

/-- The starter emits a CATCH: its own catch falls STK_LEAD later. -/
theorem State.emitCatch_stk (n k : Nat) : (s.emitCatch n k).stk =
    { s.stk with emitted := some n, k := 0, due := some (s.clock + s.rd STK_LEAD_NS * 16, n), curtain := true } := by
  unfold State.emitCatch
  obtain ⟨ps, h⟩ := s.broadcast_ports { noMsg with code := 2, num := n, b := k, tag := s.rd STK_SCHEDULE_ID % 2 ^ 32 } none
  simp only [h]
  rw [State.scheduleCatch_stk]
  rfl

/-- Taking a packet out of a receive buffer changes the ports only. -/
theorem State.dropHead_ports (q v : Nat) : ∃ ps, s.dropHead q v = { s with ports := ps } := by
  unfold State.dropHead
  dsimp only
  split
  · exact ⟨s.ports, rfl⟩
  · exact ⟨_, rfl⟩

/-- A stroke message that a port holds is taken: its effect on a state whose ports alone have changed. -/
theorem State.onStroke_eq {q code a : Nat} {p : Packet} (h : s.strokeAt q code = some (a, p)) (f : Nat → StrokeMsg → State → State) :
    ∃ ps, s.onStroke q code f = f a p.msg { s with ports := ps } := by
  obtain ⟨ps, hp⟩ := s.dropHead_ports q 3
  exact ⟨ps, by simp [State.onStroke, h, hp]⟩

/-! ### Work in EASY -/

/-- The return to ROW changes the power state, and counts its logbook entry where the queue is full. -/
theorem State.rd_easyWake {f : Fld} {i j : Nat} (h : f.key i j ≠ PWR_STAT_STATE.key 0 0) (h' : f.key i j ≠ LOG_DROPPED.key 0 0) :
    s.easyWake.rd f i j = s.rd f i j :=
  (State.foot_easyWake (s := s) (ks := [PWR_STAT_STATE.key 0 0, LOG_DROPPED.key 0 0]) (by simp) (by simp)).2 f i j (by simp [h, h'])

@[simp] theorem State.easyWake_stk : s.easyWake.stk = s.stk := by
  unfold State.easyWake
  split
  · simp [State.logPower, State.logEv]
  · rfl

/-! ### Hold water -/

theorem State.showHeld_stk : s.showHeld.stk = s.stk := by
  unfold State.showHeld
  dsimp only
  rw [State.foldl_keep (fun s => s.stk) _ (fun t x => ?_), State.foldl_keep (fun s => s.stk) _ (fun t x => ?_)]
  · split <;> rfl
  · split
    · unfold State.setChState State.dmaWr; split <;> rfl
    · rfl

/-- Keys of the pages below the logbook's: DEV, STK, PWR. -/
abbrev lowKey (k : Nat) : Prop := k < 0x3000 * 8

theorem State.rd_setChState_low {e c v : Nat} (f : Fld) (i j : Nat) (h : lowKey (f.key i j)) :
    (s.setChState e c v).rd f i j = s.rd f i j := by
  unfold lowKey at h
  unfold State.setChState State.dmaWr
  split <;> refine State.rd_wr_ne _ (fun e => ?_) _ <;> rw [e] at h
  · simp [Fld.key, Page.base, HDM_CH_STAT_STATE] at h; omega
  · simp [Fld.key, Page.base, CDM_CH_STAT_STATE] at h; omega

theorem State.rd_coreState_low {v n : Nat} (f : Fld) (i j : Nat) (h : lowKey (f.key i j)) :
    (s.wr CORE_STATE_STATE v n).rd f i j = s.rd f i j := by
  unfold lowKey at h
  refine State.rd_wr_ne _ (fun e => ?_) _
  rw [e] at h
  simp [Fld.key, Page.base, CORE_STATE_STATE] at h; omega

theorem State.rd_showHeld_low (f : Fld) (i j : Nat) (h : lowKey (f.key i j)) : s.showHeld.rd f i j = s.rd f i j := by
  unfold State.showHeld
  dsimp only
  rw [State.foldl_keep (fun s => s.rd f i j) _ (fun t x => ?_), State.foldl_keep (fun s => s.rd f i j) _ (fun t x => ?_)]
  · split
    · exact t.rd_coreState_low f i j h
    · rfl
  · split
    · exact t.rd_setChState_low f i j h
    · rfl

/-- Hold water from RUNNING (R106). -/
theorem State.holdWater_running (h : s.stkState = 2) (st r : Nat) :
    (s.holdWater st r).stkState = 3 ∧ (s.holdWater st r).rd STK_STAT_HOLD_STATUS = st % 256 ∧ (s.holdWater st r).stroke = s.stroke ∧
    (s.holdWater st r).stk = { s.stk with due := none, seen := [], emitted := none, curtain := true } := by
  unfold State.holdWater
  rw [if_pos h]
  have hs : s.stopUnits.showHeld.stk = s.stk := by rw [State.showHeld_stk]; rfl
  have hr : s.stopUnits.showHeld.rd STK_STROKE = s.rd STK_STROKE := by
    rw [State.rd_showHeld_low _ _ _ _ (by simp [lowKey, Fld.key, Page.base, STK_STROKE])]; rfl
  refine ⟨?_, ?_, ?_, ?_⟩
  · simp only [State.stkState, State.cause_eq, State.logEv]
    rw [State.rd_wr_ne _ (by decide), State.rd_logFrom _ (by decide), State.rd_wr_ne _ (by decide), State.rd_wr_same]
    rfl
  · simp only [State.cause_eq, State.logEv]
    rw [State.rd_wr_ne _ (by decide), State.rd_logFrom _ (by decide), State.rd_wr_same]
    rfl
  · simp only [State.stroke, State.cause_eq, State.logEv]
    rw [State.rd_wr_ne _ (by decide), State.rd_logFrom _ (by decide), State.rd_wr_ne _ (by decide), State.rd_wr_ne _ (by decide)]
    exact hr
  · simp only [State.cause_eq, State.logEv, State.wr_stk, State.logFrom_stk, hs]

/-- Hold water from another state than RUNNING is nothing. -/
theorem State.holdWater_else (h : s.stkState ≠ 2) (st r : Nat) : s.holdWater st r = s := by simp [State.holdWater, h]

/-- The starter orders hold water: the same, after a broadcast. -/
theorem State.orderHold_running (h : s.stkState = 2) (st r : Nat) :
    (s.orderHold st r).stkState = 3 ∧ (s.orderHold st r).rd STK_STAT_HOLD_STATUS = st % 256 ∧ (s.orderHold st r).stroke = s.stroke ∧
    (s.orderHold st r).stk = { s.stk with due := none, seen := [], emitted := none, curtain := true } := by
  unfold State.orderHold
  obtain ⟨ps, hp⟩ := s.broadcast_ports { noMsg with code := 6, status := st, num := s.stroke, dev := r } none
  rw [hp]
  exact State.holdWater_running { s with ports := ps } h st r

/-! ### Low registers under the saves at the curtain and a scheduled catch -/

theorem State.rd_wr_low {g : Fld} {v k l : Nat} (hg : ¬ lowKey (g.key k l)) (f : Fld) (i j : Nat) (h : lowKey (f.key i j)) :
    (s.wr g v k l).rd f i j = s.rd f i j := State.rd_wr_ne _ (fun e => hg (e ▸ h)) _

theorem State.rd_logEv_low {p : Page} {n a b c d : Nat} (f : Fld) (i j : Nat) (h : lowKey (f.key i j)) :
    (s.logEv p n a b c d).rd f i j = s.rd f i j := by
  refine State.rd_logFrom _ (fun e => ?_) _ _ _ _ _
  rw [e] at h
  exact absurd h (by simp [lowKey, Fld.key, Page.base, LOG_DROPPED])

theorem State.rd_noteSave_low (n c : Nat) (b : Bool) (f : Fld) (i j : Nat) (h : lowKey (f.key i j)) :
    (s.noteSave n c b).rd f i j = s.rd f i j := by
  have hc : ¬ lowKey (CTX_PC_PREEMPTS.key c 0) := by simp [lowKey, Fld.key, Page.base, CTX_PC_PREEMPTS]; omega
  unfold State.noteSave
  cases b <;> simp only [State.bump_eq, if_true, Bool.false_eq_true, if_false] <;>
    rw [State.rd_wr_low _ (by simp [lowKey, Fld.key, Page.base, HIF_PC_STEP_SAVES, HIF_PC_BOUNDARY_SAVES]) _ _ _ h,
      State.rd_wr_low _ hc _ _ _ h, State.rd_logEv_low _ _ _ _ h]

theorem State.rd_requestSave_low (n : Nat) (b : Bool) (f : Fld) (i j : Nat) (h : lowKey (f.key i j)) :
    (s.requestSave n b).rd f i j = s.rd f i j := by
  unfold State.requestSave
  dsimp only
  repeat' split
  all_goals first | rfl | (rw [State.rd_noteSave_low _ _ _ _ _ _ _ h]; rfl)

theorem State.rd_curtainSaves_low (f : Fld) (i j : Nat) (h : lowKey (f.key i j)) : s.curtainSaves.rd f i j = s.rd f i j := by
  unfold State.curtainSaves
  refine State.foldl_keep (fun s => s.rd f i j) _ (fun t x => ?_) _ s
  repeat' split
  all_goals first | rfl | exact State.rd_requestSave_low _ _ _ _ _ _ h

/-- A scheduled catch leaves the state of the unit. -/
theorem State.scheduleCatch_state (a n k : Nat) : (s.scheduleCatch a n k).stkState = s.stkState := by
  unfold State.scheduleCatch State.stkState
  split <;> simp only [State.bump_eq]
  · rw [State.rd_wr_ne _ (by decide), State.rd_wr_ne _ (by decide), State.rd_curtainSaves_low _ _ _ _ (by decide)]; rfl
  · rw [State.rd_wr_ne _ (by decide), State.rd_curtainSaves_low _ _ _ _ (by decide)]; rfl

theorem State.emitCatch_state (n k : Nat) : (s.emitCatch n k).stkState = s.stkState := by
  unfold State.emitCatch
  obtain ⟨ps, h⟩ := s.broadcast_ports { noMsg with code := 2, num := n, b := k, tag := s.rd STK_SCHEDULE_ID % 2 ^ 32 } none
  simp only [h]
  rw [State.scheduleCatch_state]
  rfl

/-- After a RESUME a CATCH may leave at once: the unit's state, and the LATEs that it knows, stay. -/
theorem State.emitResumed_keeps : s.emitResumed.stkState = s.stkState ∧ s.emitResumed.stk.lates = s.stk.lates ∧
    s.emitResumed.stk.resumed = s.stk.resumed := by
  unfold State.emitResumed
  dsimp only
  split
  · exact ⟨s.emitCatch_state _ _, by rw [State.emitCatch_stk], by rw [State.emitCatch_stk]⟩
  · exact ⟨rfl, rfl, rfl⟩

/-- RESUME in HOLDING (R108). -/
theorem State.resumeStroke_holding (h : s.stkState = 3) : s.resumeStroke.stkState = 2 ∧ s.resumeStroke.stk.resumed = some s.clock := by
  unfold State.resumeStroke
  rw [if_pos h]
  refine ⟨?_, ?_⟩
  · rw [(State.emitResumed_keeps _).1]; simp [State.stkState]; rfl
  · rw [(State.emitResumed_keeps _).2.2]; rfl

/-! ### STOPPED -/

theorem State.clearReady_tokens : s.clearReady.tokens = s.tokens := by
  unfold State.clearReady
  refine State.foldl_keep (fun s => s.tokens) _ (fun t x => ?_) _ s
  rfl
theorem State.clearReady_mem : s.clearReady.mem = s.mem := by
  unfold State.clearReady
  refine State.foldl_keep (fun s => s.mem) _ (fun t x => ?_) _ s
  rfl
theorem State.clearReady_undef : s.clearReady.undef = s.undef := by
  unfold State.clearReady
  refine State.foldl_keep (fun s => s.undef) _ (fun t x => ?_) _ s
  rfl

/-- The keys of the READY records. -/
def readyKeys : List Nat := (List.range 16).map (fun w => STK_READY_MAP.key 0 w)

theorem State.foot_clearReady : s.foot s.clearReady readyKeys := by
  unfold State.clearReady
  simp only [List.range, List.range.loop, List.foldl]
  iterate 16 refine State.foot_wr_of ?_ (by decide)
  exact s.foot_refl

theorem State.rd_clearReady (w : Nat) (hw : w < 16) : s.clearReady.rd STK_READY_MAP 0 w = 0 := by
  unfold State.clearReady
  simp only [List.range, List.range.loop, List.foldl]
  interval_cases w <;> simp (disch := decide) [State.rd_wr_ne]

theorem State.foot_swapRoutes : s.foot s.swapRoutes swapKeys := by
  unfold State.swapRoutes State.off
  refine State.foot_upd_of (t := ((s.wr RT_CTL_FRONT (1 - s.rd RT_CTL_FRONT)).wr RT_CTL_SEAL 0).wr RT_CTL_PENDING 0) ?_ rfl rfl rfl rfl
  exact State.foot_wr_of (State.foot_wr_of (State.foot_wr (by simp [swapKeys])) (by simp [swapKeys])) (by simp [swapKeys])

theorem State.foot_swapSfu : s.foot s.swapSfu swapKeys := by
  unfold State.swapSfu State.off
  refine State.foot_upd_of (t := (((s.wr SFU_CTL_FRONT (1 - s.rd SFU_CTL_FRONT)).wr SFU_CTL_SEAL 0).wr SFU_CTL_PENDING 0).wr
    DEV_FW_VERSION s.sfuVer.2) ?_ rfl rfl rfl rfl
  exact State.foot_wr_of (State.foot_wr_of (State.foot_wr_of (State.foot_wr (by simp [swapKeys])) (by simp [swapKeys]))
    (by simp [swapKeys])) (by simp [swapKeys])

/-- A swap of the tables changes their controls and the firmware version, and no other register. -/
theorem State.foot_swapTables : s.foot s.swapTables swapKeys := by
  unfold State.swapTables
  dsimp only
  split <;> split
  · exact State.foot_then s.foot_swapRoutes s.swapRoutes.foot_swapSfu
  · exact s.foot_swapRoutes
  · exact s.foot_swapSfu
  · exact s.foot_refl

theorem State.swapRoutes_tokens : s.swapRoutes.tokens = s.tokens := rfl
theorem State.swapRoutes_mem : s.swapRoutes.mem = s.mem := rfl
theorem State.swapRoutes_undef : s.swapRoutes.undef = s.undef := rfl
theorem State.swapSfu_tokens : s.swapSfu.tokens = s.tokens := rfl
theorem State.swapSfu_mem : s.swapSfu.mem = s.mem := rfl
theorem State.swapSfu_undef : s.swapSfu.undef = s.undef := rfl

theorem State.swapTables_tokens : s.swapTables.tokens = s.tokens := by
  unfold State.swapTables
  dsimp only
  split <;> split <;> simp only [State.swapRoutes_tokens, State.swapSfu_tokens]
theorem State.swapTables_mem : s.swapTables.mem = s.mem := by
  unfold State.swapTables
  dsimp only
  split <;> split <;> simp only [State.swapRoutes_mem, State.swapSfu_mem]
theorem State.swapTables_undef : s.swapTables.undef = s.undef := by
  unfold State.swapTables
  dsimp only
  split <;> split <;> simp only [State.swapRoutes_undef, State.swapSfu_undef]

theorem State.becomeStopped_regs : s.becomeStopped.regs = (s.clearReady.swapTables.wr STK_STAT_STATE 0).regs := by
  unfold State.becomeStopped
  dsimp only

theorem State.becomeStopped_tokens : s.becomeStopped.tokens = s.tokens := by
  unfold State.becomeStopped
  dsimp only
  simp only [State.wr_tokens, State.swapTables_tokens, State.clearReady_tokens]

theorem State.becomeStopped_mem : s.becomeStopped.mem = s.mem := by
  unfold State.becomeStopped
  dsimp only
  simp only [State.wr_mem, State.swapTables_mem, State.clearReady_mem]

theorem State.becomeStopped_undef : s.becomeStopped.undef = s.undef := by
  unfold State.becomeStopped
  dsimp only
  simp only [State.wr_undef, State.swapTables_undef, State.clearReady_undef]

/-- Entering STOPPED changes the state of the unit, the READY records and, where a swap was pending, the tables' controls and the firmware
version, and no other register. -/
theorem State.foot_becomeStopped : s.foot s.becomeStopped (STK_STAT_STATE.key 0 0 :: (readyKeys ++ swapKeys)) := by
  have h : s.foot (s.clearReady.swapTables.wr STK_STAT_STATE 0) (STK_STAT_STATE.key 0 0 :: (readyKeys ++ swapKeys)) :=
    State.foot_wr_of (State.foot_mono (State.foot_trans s.foot_clearReady s.clearReady.foot_swapTables) (List.subset_cons_self _ _)) (by simp)
  refine State.foot_upd_of h s.becomeStopped_regs ?_ ?_ ?_
  · simp only [State.becomeStopped_mem, State.wr_mem, State.swapTables_mem, State.clearReady_mem]
  · simp only [State.becomeStopped_undef, State.wr_undef, State.swapTables_undef, State.clearReady_undef]
  · simp only [State.becomeStopped_tokens, State.wr_tokens, State.swapTables_tokens, State.clearReady_tokens]

theorem State.becomeStopped_state : s.becomeStopped.stkState = 0 := by
  unfold State.stkState
  rw [State.rd_congr s.becomeStopped_regs]; simp

theorem State.becomeStopped_ready (w : Nat) (hw : w < 16) : s.becomeStopped.rd STK_READY_MAP 0 w = 0 := by
  have hk : STK_READY_MAP.key 0 w ≠ STK_STAT_STATE.key 0 0 := by interval_cases w <;> decide
  have hn : STK_READY_MAP.key 0 w ∉ swapKeys := by interval_cases w <;> decide
  rw [State.rd_congr s.becomeStopped_regs, State.rd_wr_ne _ hk, s.clearReady.foot_swapTables.2 _ _ _ hn, s.rd_clearReady w hw]

theorem State.tok_clearScoped (k : Nat) (h : tokScoped k = true) : s.clearScoped.tok k = 0 := by
  have hn : ∀ t : List (Nat × Word), Tab.find (t.filter (fun p => !tokScoped p.1)) k = none := by
    intro t
    induction t with
    | nil => rfl
    | cons p t ih =>
      by_cases hp : tokScoped p.1 = true
      · simp [hp, ih]
      · have : p.1 ≠ k := fun e => hp (e ▸ h)
        simp [hp, Tab.find_cons, this, ih]
  simp [State.tok, Tab.look, State.clearScoped, hn]

/-- What a stroke touched is forgotten: nothing that is read changes. -/
theorem State.touched_state (l : List (Nat × Nat)) : ({ s with touched := l } : State).stkState = s.stkState := rfl
theorem State.touched_tok (l : List (Nat × Nat)) (k : Nat) : ({ s with touched := l } : State).tok k = s.tok k := rfl

/-- ABANDON in HOLDING (R109, R91). -/
theorem State.abandonStroke_holding (h : s.stkState = 3) :
    s.abandonStroke.stkState = 0 ∧ ∀ k, tokScoped k = true → s.abandonStroke.tok k = 0 := by
  unfold State.abandonStroke
  rw [if_pos h]
  refine ⟨(State.touched_state _ _).trans (State.becomeStopped_state _), fun k hk => ?_⟩
  exact (State.touched_tok _ _ k).trans ((State.tok_congr (State.becomeStopped_tokens _) k).trans (State.tok_clearScoped _ k hk))

end Sys2Proof.Machine
end

