-- ==== Sys2Proof/Laws/Calm.lean ====
section
/-!
SUPPORT. What an access, a message, a page fault, or a core that goes on never changes: the stroke unit, the power controller, the
clock, the sheets and the marks of the coxes, and the registers of the STK and PWR pages. One lemma for each shared operation.
-/
namespace Sys2Proof.Machine

/-- What of a cox an access leaves: all but its running cues, waiting contributions and waiting tiles. -/
structure CoxMarks where
  cur     : Option Sheet
  next    : Option Sheet
  bad     : List Nat
  issued  : List Nat
  done    : List Nat
  batch   : List BatchClass
  ended   : Bool
  late    : Bool
  stopped : Bool

def Cox.marks (x : Cox) : CoxMarks := ⟨x.cur, x.next, x.bad, x.issued, x.done, x.batch, x.ended, x.late, x.stopped⟩

@[simp] theorem Cox.marks_mk {a b c d e f g h i j k l} : (Cox.mk a b c d e f g h i j k l).marks = ⟨a, b, c, d, e, g, j, k, l⟩ := rfl

@[simp] theorem Cox.marks_eta (x : Cox) : (⟨x.cur, x.next, x.bad, x.issued, x.done, x.batch, x.ended, x.late, x.stopped⟩ : CoxMarks) = x.marks := rfl

/-- The keys of the STK and PWR registers beyond the page headers, but STK_STRAY_COUNT. -/
abbrev calmKey (k : Nat) : Prop :=
  (0x1100 * 8 ≤ k ∧ k < 0x2000 * 8 ∨ 0x2100 * 8 ≤ k ∧ k < 0x3000 * 8) ∧ k ≠ STK_STRAY_COUNT.key 0 0

/-- The part of the state that an access leaves. -/
structure CalmView where
  stk   : StrokeUnit
  pwr   : PowerUnit
  clock : Nat
  queue : List Instr
  marks : Nat → CoxMarks
  regs  : Nat → Option Nat

def calmMarks (t : List (Nat × Cox)) (c : Nat) : CoxMarks := (Tab.look t c default).marks
def calmRegs (t : List (Nat × Nat)) (k : Nat) : Option Nat := if calmKey k then Tab.find t k else none

def State.calm (s : State) : CalmView := ⟨s.stk, s.pwr, s.clock, s.pending, calmMarks s.coxes, calmRegs s.regs⟩

/-- The view of a state given by its fields. -/
@[simp] theorem calm_mk {x0 x1 x2 x3 x4 x5 x6 x7 x8 x9 x10 x11 x12 x13 x14 x15 x16 x17 x18 x19 x20 x21 x22 x23 x24 x25 x26 x27 x28 x29 x30 x31 x32 x33 x34 x35 x36 x37 x38 x39 x40 x41 x42 x43 x44 x45 x46 x47 x48 x49 x50 x51 x52 x53 x54 x55 x56 x57 x58 x59 x60 x61 x62 x63 x64 x65 x66 x67 x68 x69 x70 x71 x72 x73 x74 x75 x76 x77 x78 x79 x80 x81 x82 x83 x84 x85 x86 x87 x88 x89 x90 x91 x92 x93 x94 x95 x96 x97 x98 x99 x100 x101} : (State.mk x0 x1 x2 x3 x4 x5 x6 x7 x8 x9 x10 x11 x12 x13 x14 x15 x16 x17 x18 x19 x20 x21 x22 x23 x24 x25 x26 x27 x28 x29 x30 x31 x32 x33 x34 x35 x36 x37 x38 x39 x40 x41 x42 x43 x44 x45 x46 x47 x48 x49 x50 x51 x52 x53 x54 x55 x56 x57 x58 x59 x60 x61 x62 x63 x64 x65 x66 x67 x68 x69 x70 x71 x72 x73 x74 x75 x76 x77 x78 x79 x80 x81 x82 x83 x84 x85 x86 x87 x88 x89 x90 x91 x92 x93 x94 x95 x96 x97 x98 x99 x100 x101).calm =
    ⟨x14, x75, x1, x0, calmMarks x15, calmRegs x3⟩ := rfl

@[simp] theorem calm_eta (s : State) : (⟨s.stk, s.pwr, s.clock, s.pending, calmMarks s.coxes, calmRegs s.regs⟩ : CalmView) = s.calm := rfl

/-- A write of a register outside the view. -/
theorem calmRegs_set {t : List (Nat × Nat)} {k d v : Nat} (h : ¬ calmKey k) : calmRegs (Tab.set t k d v) = calmRegs t := by
  funext j
  unfold calmRegs
  by_cases hj : calmKey j
  · have : j ≠ k := fun e => h (e ▸ hj)
    rw [if_pos hj, if_pos hj]
    unfold Tab.set
    split
    · rw [Tab.find_del, if_neg this]
    · rw [Tab.find_put, if_neg this]
  · rw [if_neg hj, if_neg hj]

@[simp] theorem State.calm_wr {s : State} {f : Fld} {v i j : Nat} (h : ¬ calmKey (f.key i j)) : (s.wr f v i j).calm = s.calm := by
  unfold State.wr
  simp only [calm_mk, calmRegs_set h, calm_eta]

/-- A cox whose marks stay. -/
@[simp] theorem State.calm_setCox {s : State} {c : Nat} {x : Cox} (h : x.marks = (s.cox c).marks) : (s.setCox c x).calm = s.calm := by
  have hm : calmMarks (s.setCox c x).coxes = calmMarks s.coxes := by
    funext d
    have := s.cox_setCox c x d
    unfold State.cox at this
    unfold calmMarks
    rw [this]
    by_cases hd : d = c
    · rw [if_pos hd, h, hd]; rfl
    · rw [if_neg hd]
  unfold State.calm
  rw [hm]
  rfl

@[simp] theorem State.calm_setCore (s : State) (i : Nat) (x : Core) : (s.setCore i x).calm = s.calm := rfl
@[simp] theorem State.calm_setPort (s : State) (i : Nat) (x : Port) : (s.setPort i x).calm = s.calm := rfl
@[simp] theorem State.calm_setChan (s : State) (i j : Nat) (x : Chan) : (s.setChan i j x).calm = s.calm := rfl
@[simp] theorem State.calm_setTok (s : State) (k : Nat) (v : Word) : (s.setTok k v).calm = s.calm := rfl
@[simp] theorem State.calm_wrByte (s : State) (k : Nat) (v : Byte) : (s.wrByte k v).calm = s.calm := rfl
@[simp] theorem State.calm_detach (s : State) (f : Owner → Bool) : (s.detach f).calm = s.calm := rfl
@[simp] theorem State.calm_clearArrived (s : State) (a : Agent) : (s.clearArrived a).calm = s.calm := rfl
@[simp] theorem State.calm_cleanse (s : State) (a n : Nat) : (s.cleanse a n).calm = s.calm := rfl
@[simp] theorem State.calm_enqueue (s : State) (q : Nat) (p : Packet) : (s.enqueue q p).calm = s.calm := rfl

@[simp] theorem State.calm_undefine (s : State) (a n : Nat) : (s.undefine a n).calm = s.calm := by
  unfold State.undefine
  split <;> rfl

theorem State.calm_wrMem (l : List Byte) : ∀ (s : State) (a : Nat), (s.wrMem a l).calm = s.calm := by
  induction l with
  | nil => exact fun _ _ => rfl
  | cons b t ih => exact fun s a => (ih (s.wrByte a b) (a + 1)).trans (s.calm_wrByte a b)

/-! ### Register keys outside the view -/


@[simp] theorem calmKey_CTX_ACC_HBM (i j : Nat) : ¬ calmKey (CTX_ACC_HBM.key i j) := by
  simp [calmKey, Fld.key, Page.base, CTX_ACC_HBM]; omega

@[simp] theorem calmKey_CTX_ACC_LPD (i j : Nat) : ¬ calmKey (CTX_ACC_LPD.key i j) := by
  simp [calmKey, Fld.key, Page.base, CTX_ACC_LPD]; omega

@[simp] theorem calmKey_CTX_ACC_HOST (i j : Nat) : ¬ calmKey (CTX_ACC_HOST.key i j) := by
  simp [calmKey, Fld.key, Page.base, CTX_ACC_HOST]; omega

@[simp] theorem calmKey_CTX_ACC_PORT (i j : Nat) : ¬ calmKey (CTX_ACC_PORT.key i j) := by
  simp [calmKey, Fld.key, Page.base, CTX_ACC_PORT]; omega

@[simp] theorem calmKey_CTX_STAT_STATE (i j : Nat) : ¬ calmKey (CTX_STAT_STATE.key i j) := by
  simp [calmKey, Fld.key, Page.base, CTX_STAT_STATE]; omega

@[simp] theorem calmKey_HIF_PC_TX_BYTES (i j : Nat) : ¬ calmKey (HIF_PC_TX_BYTES.key i j) := by
  simp [calmKey, Fld.key, Page.base, HIF_PC_TX_BYTES]

@[simp] theorem calmKey_HIF_PC_TRIGGER_DROPS (i j : Nat) : ¬ calmKey (HIF_PC_TRIGGER_DROPS.key i j) := by
  simp [calmKey, Fld.key, Page.base, HIF_PC_TRIGGER_DROPS]

@[simp] theorem calmKey_HIF_PC_STEP_SAVES (i j : Nat) : ¬ calmKey (HIF_PC_STEP_SAVES.key i j) := by
  simp [calmKey, Fld.key, Page.base, HIF_PC_STEP_SAVES]

@[simp] theorem calmKey_HIF_PC_BOUNDARY_SAVES (i j : Nat) : ¬ calmKey (HIF_PC_BOUNDARY_SAVES.key i j) := by
  simp [calmKey, Fld.key, Page.base, HIF_PC_BOUNDARY_SAVES]

@[simp] theorem calmKey_CTX_PC_PREEMPTS (i j : Nat) : ¬ calmKey (CTX_PC_PREEMPTS.key i j) := by
  simp [calmKey, Fld.key, Page.base, CTX_PC_PREEMPTS]; omega

@[simp] theorem calmKey_LNK_SLOTS_USED_COUNT (i j : Nat) : ¬ calmKey (LNK_SLOTS_USED_COUNT.key i j) := by
  simp [calmKey, Fld.key, Page.base, LNK_SLOTS_USED_COUNT]; omega

@[simp] theorem calmKey_MMU_PC_JOINED (i j : Nat) : ¬ calmKey (MMU_PC_JOINED.key i j) := by
  simp [calmKey, Fld.key, Page.base, MMU_PC_JOINED]

@[simp] theorem calmKey_MMU_PC_FAULTS (i j : Nat) : ¬ calmKey (MMU_PC_FAULTS.key i j) := by
  simp [calmKey, Fld.key, Page.base, MMU_PC_FAULTS]

@[simp] theorem calmKey_MMU_FAULT_OUT_COUNT (i j : Nat) : ¬ calmKey (MMU_FAULT_OUT_COUNT.key i j) := by
  simp [calmKey, Fld.key, Page.base, MMU_FAULT_OUT_COUNT]

@[simp] theorem calmKey_MMU_FAULT_OUT_OVERFLOW (i j : Nat) : ¬ calmKey (MMU_FAULT_OUT_OVERFLOW.key i j) := by
  simp [calmKey, Fld.key, Page.base, MMU_FAULT_OUT_OVERFLOW]

@[simp] theorem calmKey_MMU_FAULT_OUT_RING_ERR (i j : Nat) : ¬ calmKey (MMU_FAULT_OUT_RING_ERR.key i j) := by
  simp [calmKey, Fld.key, Page.base, MMU_FAULT_OUT_RING_ERR]

@[simp] theorem calmKey_MMU_FAULT_TAIL (i j : Nat) : ¬ calmKey (MMU_FAULT_TAIL.key i j) := by
  simp [calmKey, Fld.key, Page.base, MMU_FAULT_TAIL]

@[simp] theorem calmKey_CORE_STATE_STATE (i j : Nat) : ¬ calmKey (CORE_STATE_STATE.key i j) := by
  simp [calmKey, Fld.key, Page.base, CORE_STATE_STATE]; omega

@[simp] theorem calmKey_CORE_STATE_OPCODE (i j : Nat) : ¬ calmKey (CORE_STATE_OPCODE.key i j) := by
  simp [calmKey, Fld.key, Page.base, CORE_STATE_OPCODE]; omega

@[simp] theorem calmKey_CORE_STATE_CMD_INDEX (i j : Nat) : ¬ calmKey (CORE_STATE_CMD_INDEX.key i j) := by
  simp [calmKey, Fld.key, Page.base, CORE_STATE_CMD_INDEX]; omega

@[simp] theorem calmKey_CORE_STEPS_LEFT (i j : Nat) : ¬ calmKey (CORE_STEPS_LEFT.key i j) := by
  simp [calmKey, Fld.key, Page.base, CORE_STEPS_LEFT]; omega

@[simp] theorem calmKey_CORE_FAULT_ADDR (i j : Nat) : ¬ calmKey (CORE_FAULT_ADDR.key i j) := by
  simp [calmKey, Fld.key, Page.base, CORE_FAULT_ADDR]; omega

@[simp] theorem calmKey_CORE_FAULT_INFO_STATUS (i j : Nat) : ¬ calmKey (CORE_FAULT_INFO_STATUS.key i j) := by
  simp [calmKey, Fld.key, Page.base, CORE_FAULT_INFO_STATUS]; omega

@[simp] theorem calmKey_CORE_FAULT_INFO_CONTEXT (i j : Nat) : ¬ calmKey (CORE_FAULT_INFO_CONTEXT.key i j) := by
  simp [calmKey, Fld.key, Page.base, CORE_FAULT_INFO_CONTEXT]; omega

@[simp] theorem calmKey_CORE_FAULT_INFO_WRITE (i j : Nat) : ¬ calmKey (CORE_FAULT_INFO_WRITE.key i j) := by
  simp [calmKey, Fld.key, Page.base, CORE_FAULT_INFO_WRITE]; omega

@[simp] theorem calmKey_CORE_FAULT_INFO_PSUM (i j : Nat) : ¬ calmKey (CORE_FAULT_INFO_PSUM.key i j) := by
  simp [calmKey, Fld.key, Page.base, CORE_FAULT_INFO_PSUM]; omega

@[simp] theorem calmKey_CORE_FAULT_INFO_CMD_ID (i j : Nat) : ¬ calmKey (CORE_FAULT_INFO_CMD_ID.key i j) := by
  simp [calmKey, Fld.key, Page.base, CORE_FAULT_INFO_CMD_ID]; omega

@[simp] theorem calmKey_CORE_CMD_ADDR (i j : Nat) : ¬ calmKey (CORE_CMD_ADDR.key i j) := by
  simp [calmKey, Fld.key, Page.base, CORE_CMD_ADDR]; omega

@[simp] theorem calmKey_CORE_ABORT_COUNT (i j : Nat) : ¬ calmKey (CORE_ABORT_COUNT.key i j) := by
  simp [calmKey, Fld.key, Page.base, CORE_ABORT_COUNT]; omega

@[simp] theorem calmKey_COX_FAIL_COUNT (i j : Nat) : ¬ calmKey (COX_FAIL_COUNT.key i j) := by
  simp [calmKey, Fld.key, Page.base, COX_FAIL_COUNT]; omega

@[simp] theorem calmKey_CDM_CH_STAT_STATE (i j : Nat) : ¬ calmKey (CDM_CH_STAT_STATE.key i j) := by
  simp [calmKey, Fld.key, Page.base, CDM_CH_STAT_STATE]; omega

@[simp] theorem calmKey_HDM_CH_STAT_STATE (i j : Nat) : ¬ calmKey (HDM_CH_STAT_STATE.key i j) := by
  simp [calmKey, Fld.key, Page.base, HDM_CH_STAT_STATE]; omega

@[simp] theorem calmKey_CTX_CTL_PREEMPT (i j : Nat) : ¬ calmKey (CTX_CTL_PREEMPT.key i j) := by
  simp [calmKey, Fld.key, Page.base, CTX_CTL_PREEMPT]; omega

@[simp] theorem calmKey_CTX_CTL_RESUME (i j : Nat) : ¬ calmKey (CTX_CTL_RESUME.key i j) := by
  simp [calmKey, Fld.key, Page.base, CTX_CTL_RESUME]; omega

@[simp] theorem calmKey_CST_PC_RC_MISSES (i j : Nat) : ¬ calmKey (CST_PC_RC_MISSES.key i j) := by
  simp [calmKey, Fld.key, Page.base, CST_PC_RC_MISSES]; omega

@[simp] theorem calmKey_CST_PC_RC_HITS (i j : Nat) : ¬ calmKey (CST_PC_RC_HITS.key i j) := by
  simp [calmKey, Fld.key, Page.base, CST_PC_RC_HITS]; omega

@[simp] theorem calmKey_CORE_SP_ERR_ADDR_OFFSET (i j : Nat) : ¬ calmKey (CORE_SP_ERR_ADDR_OFFSET.key i j) := by
  simp [calmKey, Fld.key, Page.base, CORE_SP_ERR_ADDR_OFFSET]; omega

@[simp] theorem calmKey_CORE_SP_ERR_INFO_KIND (i j : Nat) : ¬ calmKey (CORE_SP_ERR_INFO_KIND.key i j) := by
  simp [calmKey, Fld.key, Page.base, CORE_SP_ERR_INFO_KIND]; omega

@[simp] theorem calmKey_CORE_SP_ERR_INFO_COLUMN (i j : Nat) : ¬ calmKey (CORE_SP_ERR_INFO_COLUMN.key i j) := by
  simp [calmKey, Fld.key, Page.base, CORE_SP_ERR_INFO_COLUMN]; omega

@[simp] theorem calmKey_CORE_SP_ERR_INFO_CODEWORD (i j : Nat) : ¬ calmKey (CORE_SP_ERR_INFO_CODEWORD.key i j) := by
  simp [calmKey, Fld.key, Page.base, CORE_SP_ERR_INFO_CODEWORD]; omega

@[simp] theorem calmKey_CORE_SP_ERR_INFO_TEST (i j : Nat) : ¬ calmKey (CORE_SP_ERR_INFO_TEST.key i j) := by
  simp [calmKey, Fld.key, Page.base, CORE_SP_ERR_INFO_TEST]; omega

@[simp] theorem calmKey_CST_ERR_ADDR_OFFSET (i j : Nat) : ¬ calmKey (CST_ERR_ADDR_OFFSET.key i j) := by
  simp [calmKey, Fld.key, Page.base, CST_ERR_ADDR_OFFSET]; omega

@[simp] theorem calmKey_CST_ERR_INFO_KIND (i j : Nat) : ¬ calmKey (CST_ERR_INFO_KIND.key i j) := by
  simp [calmKey, Fld.key, Page.base, CST_ERR_INFO_KIND]; omega

@[simp] theorem calmKey_CST_ERR_INFO_COLUMN (i j : Nat) : ¬ calmKey (CST_ERR_INFO_COLUMN.key i j) := by
  simp [calmKey, Fld.key, Page.base, CST_ERR_INFO_COLUMN]; omega

@[simp] theorem calmKey_CST_ERR_INFO_CODEWORD (i j : Nat) : ¬ calmKey (CST_ERR_INFO_CODEWORD.key i j) := by
  simp [calmKey, Fld.key, Page.base, CST_ERR_INFO_CODEWORD]; omega

@[simp] theorem calmKey_CST_ERR_INFO_TEST (i j : Nat) : ¬ calmKey (CST_ERR_INFO_TEST.key i j) := by
  simp [calmKey, Fld.key, Page.base, CST_ERR_INFO_TEST]; omega

@[simp] theorem calmKey_LOG_DROPPED : ¬ calmKey (LOG_DROPPED.key 0 0) := by decide

@[simp] theorem calmKey_STK_STRAY_COUNT : ¬ calmKey (STK_STRAY_COUNT.key 0 0) := by decide

@[simp] theorem calmKey_BLK_INT_STAT (p : Page) (i j : Nat) : ¬ calmKey ((BLK_INT_STAT p).key i j) := by
  cases p <;> simp [calmKey, Fld.key, Page.base, BLK_INT_STAT] <;> omega

@[simp] theorem calmKey_BLK_ERR_UNCORR (p : Page) (i j : Nat) : ¬ calmKey ((BLK_ERR_UNCORR p).key i j) := by
  cases p <;> simp [calmKey, Fld.key, Page.base, BLK_ERR_UNCORR] <;> omega

@[simp] theorem calmKey_BLK_ERR_CORR (p : Page) (i j : Nat) : ¬ calmKey ((BLK_ERR_CORR p).key i j) := by
  cases p <;> simp [calmKey, Fld.key, Page.base, BLK_ERR_CORR] <;> omega

@[simp] theorem calmKey_BLK_STAT_CFG_ERR (p : Page) (i j : Nat) : ¬ calmKey ((BLK_STAT_CFG_ERR p).key i j) := by
  cases p <;> simp [calmKey, Fld.key, Page.base, BLK_STAT_CFG_ERR] <;> omega

/-! ### The shared operations -/

variable (s : State)

@[simp] theorem State.calm_bump (f : Fld) (n i j : Nat) (h : ¬ calmKey (f.key i j)) : (s.bump f n i j).calm = s.calm := State.calm_wr h
@[simp] theorem State.calm_bumpSat (f : Fld) (n i j : Nat) (h : ¬ calmKey (f.key i j)) : (s.bumpSat f n i j).calm = s.calm := State.calm_wr h
@[simp] theorem State.calm_cause (p : Page) (b i : Nat) : (s.cause p b i).calm = s.calm := State.calm_wr (by simp)
@[simp] theorem State.calm_errUncorr (p : Page) (i : Nat) : (s.errUncorr p i).calm = s.calm :=
  (State.calm_cause _ _ _ _).trans (State.calm_bumpSat _ _ _ _ _ (by simp))
@[simp] theorem State.calm_errCorr (p : Page) (i : Nat) : (s.errCorr p i).calm = s.calm :=
  (State.calm_cause _ _ _ _).trans (State.calm_bumpSat _ _ _ _ _ (by simp))
@[simp] theorem State.calm_cfgErr (p : Page) (i : Nat) : (s.cfgErr p i).calm = s.calm :=
  (State.calm_cause _ _ _ _).trans (State.calm_wr (by simp))

@[simp] theorem State.calm_logFrom (a b c d e : Nat) : (s.logFrom a b c d e).calm = s.calm := by
  unfold State.logFrom
  split
  · rfl
  · simp

@[simp] theorem State.calm_logEv (p : Page) (i a b c d : Nat) : (s.logEv p i a b c d).calm = s.calm := State.calm_logFrom ..

theorem State.calm_waitPkts (l : List (Nat × Packet × Option Nat)) : ({ s with waitPkts := l } : State).calm = s.calm := rfl
theorem State.calm_ctxFaults (l : List Nat) : ({ s with ctxFaults := l } : State).calm = s.calm := rfl
theorem State.calm_slots (l : List (Nat × FaultSlot)) : ({ s with slots := l } : State).calm = s.calm := rfl

@[simp] theorem State.calm_stray (k : Nat) (b : Bool) : (s.stray k b).calm = s.calm := by
  unfold State.stray
  repeat' split
  all_goals simp

@[simp] theorem State.calm_changeTok (k : Nat) (v : Word) (b : Bool) : (s.changeTok k v b).calm = s.calm := by
  unfold State.changeTok
  simp

@[simp] theorem State.calm_addTok (k n : Nat) (b : Bool) : (s.addTok k n b).calm = s.calm := by
  unfold State.addTok
  simp

@[simp] theorem State.calm_post (c e n : Nat) (b : Bool) : (s.post c e n b).calm = s.calm := by
  unfold State.post
  repeat' split
  all_goals simp

@[simp] theorem State.calm_cuePart (c i a b d : Nat) (l : List Byte) (n : Nat) : (s.cuePart c i a b d l n).calm = s.calm := by
  unfold State.cuePart
  dsimp only
  split
  · rfl
  · exact State.calm_setCox (by simp)

@[simp] theorem State.calm_barAnswer (f a : Nat) (d : Option (List Byte)) : (s.barAnswer f a d).calm = s.calm := by
  unfold State.barAnswer
  cases d <;> simp

@[simp] theorem State.calm_summaryFailed  : (s.summaryFailed).calm = s.calm := by
  unfold State.summaryFailed
  dsimp only
  simp

@[simp] theorem State.calm_finishOp (o : RemOp) : (s.finishOp o).calm = s.calm := by
  unfold State.finishOp
  dsimp only
  repeat' split
  all_goals first | rfl | simp

@[simp] theorem State.calm_leaveSlots (a : Agent) : (s.leaveSlots a).calm = s.calm := by
  unfold State.leaveSlots
  dsimp only
  simp

@[simp] theorem State.calm_sendRequest (q op : Nat) (p : Packet) (d : Option Nat) : (s.sendRequest q op p d).calm = s.calm := by
  unfold State.sendRequest
  dsimp only
  repeat' split
  all_goals simp

@[simp] theorem State.calm_answer (a b c d : Nat) : (s.answer a b c d).calm = s.calm := by
  unfold State.answer
  dsimp only
  repeat' split
  all_goals simp

@[simp] theorem State.calm_sendOrFail (a : Nat) (p : Packet) (d : Option Nat) : (s.sendOrFail a p d).calm = s.calm := by
  unfold State.sendOrFail
  repeat' split
  all_goals simp

theorem State.calm_putPieces (op ctx : Nat) (b : Bool) (g : Nat) (d : List Byte) (l : List (Nat × Nat)) :
    ∀ s : State, (s.putPieces op ctx b g d l).calm = s.calm := by
  induction l with
  | nil => exact fun _ => rfl
  | cons x l ih => exact fun s => (ih _).trans (State.calm_sendOrFail _ _ _ _)

theorem State.calm_getPieces (op ctx : Nat) (b : Bool) (g : Nat) (d : Option Nat) (l : List (Nat × Nat)) :
    ∀ s : State, (s.getPieces op ctx b g d l).calm = s.calm := by
  induction l with
  | nil => exact fun _ => rfl
  | cons x l ih => exact fun s => (ih _).trans (State.calm_sendOrFail _ _ _ _)

@[simp] theorem State.calm_countOut (o : Owner) : (s.countOut o).calm = s.calm := by cases o <;> rfl

@[simp] theorem State.calm_remotePut (o : Owner) (c : Nat) (b : Bool) (g : Nat) (d : List Byte) : (s.remotePut o c b g d).calm = s.calm := by
  unfold State.remotePut
  dsimp only
  repeat' split
  all_goals simp [State.calm_putPieces, State.openOp]

@[simp] theorem State.calm_slotGone (q n : Nat) : (s.slotGone q n).calm = s.calm := by
  unfold State.slotGone
  simp

@[simp] theorem State.calm_sendWaiting : s.sendWaiting.calm = s.calm := by
  unfold State.sendWaiting
  split
  · rfl
  · rw [State.calm_sendOrFail, State.calm_waitPkts]

@[simp] theorem State.calm_noteMoves (g n : Nat) : (s.noteMoves g n).calm = s.calm := by
  unfold State.noteMoves
  repeat' split
  all_goals simp

@[simp] theorem State.calm_noteLengths (g n : Nat) : (s.noteLengths g n).calm = s.calm := by
  unfold State.noteLengths
  repeat' split
  all_goals simp

@[simp] theorem State.calm_noteWrite (g n : Nat) : (s.noteWrite g n).calm = s.calm := by
  unfold State.noteWrite
  dsimp only
  repeat' split
  all_goals simp

@[simp] theorem State.calm_store (a w : Nat) (b : Bool) (d : List Byte) : (s.store a w b d).calm = s.calm := by
  unfold State.store
  dsimp only
  repeat' split
  all_goals simp [State.calm_wrMem]

@[simp] theorem State.calm_hostOutBytes (a w : Nat) : (s.hostOutBytes a w).calm = s.calm := by
  unfold State.hostOutBytes
  simp

@[simp] theorem State.calm_account (a b w : Nat) : (s.account a b w).calm = s.calm := by
  unfold State.account
  repeat' split
  all_goals simp

@[simp] theorem State.calm_queueRegWrite (a : Requester) (w : Nat) (d : List Byte) : (s.queueRegWrite a w d).calm = s.calm := by
  unfold State.queueRegWrite
  simp

@[simp] theorem State.calm_msixSend (a b : Nat) : (s.msixSend a b).calm = s.calm := by
  unfold State.msixSend
  split <;> rfl

@[simp] theorem State.calm_triggerPut (c a : Nat) (d : List Byte) : (s.triggerPut c a d).2.calm = s.calm := by
  unfold State.triggerPut
  dsimp only
  repeat' split
  all_goals simp

@[simp] theorem State.calm_hostPut (c a : Nat) (d : List Byte) : (s.hostPut c a d).2.calm = s.calm := by
  unfold State.hostPut
  dsimp only
  repeat' split
  all_goals simp

@[simp] theorem State.calm_rcWrite (o : Owner) (a n : Nat) : (s.rcWrite o a n).calm = s.calm := by
  unfold State.rcWrite State.rcDrop
  repeat' split
  all_goals rfl

theorem State.calm_foldl {α : Type} (g : State → α → State) (hg : ∀ (t : State) x, (g t x).calm = t.calm) (l : List α) :
    ∀ s : State, (l.foldl g s).calm = s.calm := State.foldl_keep State.calm g hg l

@[simp] theorem State.calm_undefineObj (o : Obj) : (s.undefineObj o).calm = s.calm := by
  unfold State.undefineObj
  refine State.calm_foldl _ (fun t x => ?_) _ s
  split <;> simp

@[simp] theorem State.calm_spoilPools (a n : Nat) : (s.spoilPools a n).calm = s.calm := by
  unfold State.spoilPools
  dsimp only
  split
  · rfl
  · refine Eq.trans rfl (State.calm_foldl _ (fun t x => ?_) _ s)
    split
    · rfl
    · split <;> simp

@[simp] theorem State.calm_failedHere (o : Owner) (a b : Nat) (c : Bool) (d : Nat) : (s.failedHere o a b c d).calm = s.calm := by
  unfold State.failedHere
  simp

@[simp] theorem State.calm_writeGpa (o : Owner) (a b c : Nat) (e : Bool) (d : List Byte) : (s.writeGpa o a b c e d).calm = s.calm := by
  unfold State.writeGpa
  dsimp only
  repeat' split
  all_goals simp

theorem State.calm_writePieces (o : Owner) (c : Nat) (b : Bool) (l : List (Nat × Nat)) :
    ∀ (s : State) (d : List Byte), (s.writePieces o c b d l).calm = s.calm := by
  induction l with
  | nil => exact fun _ _ => rfl
  | cons x l ih =>
    intro s d
    unfold State.writePieces
    split
    · exact ih s _
    · exact (ih _ _).trans (by simp)

@[simp] theorem State.calm_writeV (o : Owner) (c v : Nat) (b : Bool) (d : List Byte) : (s.writeV o c v b d).calm = s.calm :=
  State.calm_writePieces ..

theorem State.calm_writeAll (o : Owner) (c : Nat) (b : Bool) (l : List Write) : ∀ s : State, (s.writeAll o c b l).calm = s.calm := by
  induction l with
  | nil => exact fun _ => rfl
  | cons x l ih => exact fun s => (ih _).trans (State.calm_writeV ..)

@[simp] theorem State.calm_hostGet (c : Nat) (a : Option Agent) (p : Option (Nat × Packet)) (x n : Nat) : (s.hostGet c a p x n).calm = s.calm := by
  unfold State.hostGet
  dsimp only
  simp

theorem State.calm_askSpan (a : Agent) (c : Nat) (b : Bool) (g n : Nat) : (s.askSpan a c b g n).calm = s.calm := by
  unfold State.askSpan
  dsimp only
  repeat' split
  all_goals simp [State.calm_getPieces, State.openOp]

@[simp] theorem State.calm_ask (a : Agent) (c : Nat) (b : Bool) (g n : Nat) : (s.ask a c b g n).calm = s.calm := by
  unfold State.ask
  repeat' split
  all_goals exact State.calm_askSpan ..

@[simp] theorem State.calm_putWord (o : Owner) (a b : Nat) (l : List Byte) : (s.putWord o a b l).calm = s.calm := by
  unfold State.putWord
  repeat' split
  all_goals simp

@[simp] theorem State.calm_msix (c v : Nat) : (s.msix c v).calm = s.calm := by
  unfold State.msix
  simp

@[simp] theorem State.calm_reportFault (n : Nat) : (s.reportFault n).calm = s.calm := by
  unfold State.reportFault
  dsimp only
  repeat' split
  all_goals simp

@[simp] theorem State.calm_takeFault (a : Agent) (c v l : Nat) (w : Bool) (n : Nat) : (s.takeFault a c v l w n).calm = s.calm := by
  unfold State.takeFault
  dsimp only
  repeat' split
  all_goals simp

@[simp] theorem State.calm_setCtxState (c v : Nat) : (s.setCtxState c v).calm = s.calm := by
  unfold State.setCtxState
  simp

@[simp] theorem State.calm_markLost (c : Nat) : (s.markLost c).calm = s.calm :=
  State.calm_setCtxState { s with lost := c :: s.lost, ctxFaults := c :: s.ctxFaults } c 5

@[simp] theorem State.calm_reportLost (f : FaultSlot) : (s.reportLost f).calm = s.calm := by
  unfold State.reportLost
  dsimp only
  repeat' split
  all_goals simp

@[simp] theorem State.calm_loseContext (c v l : Nat) (w : Bool) (a : Agent) (n : Nat) : (s.loseContext c v l w a n).calm = s.calm := by
  unfold State.loseContext
  split <;> simp

@[simp] theorem State.calm_updCore (i : Nat) (f : Core → Core) : (s.updCore i f).calm = s.calm := by
  unfold State.updCore
  simp

@[simp] theorem State.calm_showIdle (i : Nat) : (s.showIdle i).calm = s.calm := by
  unfold State.showIdle
  simp

@[simp] theorem State.calm_endBlock (i st n : Nat) : (s.endBlock i st n).calm = s.calm := by
  unfold State.endBlock
  dsimp only
  repeat' split
  all_goals first
    | simp
    | (rw [State.calm_foldl _ (fun t x => t.calm_cuePart ..)]; simp)

theorem State.calm_issueTiles (c : Nat) (l : List (Nat × List RowSpan)) : ∀ s : State, (s.issueTiles c l).calm = s.calm := by
  induction l with
  | nil => exact fun _ => rfl
  | cons x l ih =>
    intro s
    obtain ⟨m, rows⟩ := x
    unfold State.issueTiles
    dsimp only
    repeat' split
    all_goals first
      | (rw [State.calm_foldl _ (fun t x => t.calm_cuePart ..)]; exact ih s)
      | (rw [State.calm_setCox (by simp)]; exact ih s)
      | (rw [ih]; simp)

@[simp] theorem State.calm_retryTiles (c : Nat) : (s.retryTiles c).calm = s.calm := by
  unfold State.retryTiles
  dsimp only
  repeat' split
  all_goals first
    | rfl
    | (rw [State.calm_issueTiles]; exact State.calm_setCox (by simp))

@[simp] theorem State.calm_undefineAreas (c : Nat) (r : Run) : (s.undefineAreas c r).calm = s.calm := by
  unfold State.undefineAreas
  refine State.calm_foldl _ (fun t x => ?_) _ s
  unfold State.undefineV
  refine State.calm_foldl _ (fun t x => ?_) _ t
  repeat' split
  all_goals simp

@[simp] theorem State.calm_undefineRun (i : Nat) : (s.undefineRun i).calm = s.calm := by
  unfold State.undefineRun
  dsimp only
  repeat' split
  all_goals simp

theorem State.calm_faultsMet (l : List Inst) : ({ s with faultsMet := l } : State).calm = s.calm := rfl

@[simp] theorem State.calm_noteErr (b : Bool) (i o k c w : Nat) (t : Bool) : (s.noteErr b i o k c w t).calm = s.calm := by
  unfold State.noteErr
  split <;> simp

@[simp] theorem State.calm_metPoison (a n : Nat) : (s.metPoison a n).calm = s.calm := by
  unfold State.metPoison
  dsimp only
  split
  · rfl
  · rw [State.calm_faultsMet]; simp

@[simp] theorem State.calm_readPoison (c v : Nat) : (s.readPoison c v).calm = s.calm := by
  unfold State.readPoison
  repeat' split
  all_goals simp

@[simp] theorem State.calm_failedAt (c st v : Nat) (w : Bool) : (s.failedAt c st v w).calm = s.calm := by
  unfold State.failedAt
  split <;> simp

@[simp] theorem State.calm_rcFill (c n : Nat) (d : List Byte) : (s.rcFill c n d).calm = s.calm := by
  unfold State.rcFill
  dsimp only
  repeat' split
  all_goals rfl

theorem State.calm_rcLookup (c n : Nat) : (s.rcLookup c n).1.calm = s.calm := by
  unfold State.rcLookup
  dsimp only
  repeat' split
  all_goals simp

@[simp] theorem State.calm_lookups (a : Agent) (c x : Nat) (b : Bool) (g n : Nat) : (s.lookups a c x b g n).calm = s.calm := by
  have h (l : List Nat) (k : Nat) : ∀ (t : State) (o : List (Option (List Byte))),
      (l.foldl (fun (p : State × List (Option (List Byte))) j =>
        let q := p.1.rcLookup c (k + j)
        (q.1, p.2 ++ [q.2])) (t, o)).1.calm = t.calm := by
    induction l with
    | nil => exact fun _ _ => rfl
    | cons y l ih => exact fun t o => (ih _ _).trans (State.calm_rcLookup ..)
  unfold State.lookups
  dsimp only
  repeat' split
  · rfl
  · exact h _ _ _ _
  · exact (State.calm_ask ..).trans (h _ _ _ _)

@[simp] theorem State.calm_failCommand (i a b : Nat) : (s.failCommand i a b).calm = s.calm := by
  unfold State.failCommand
  dsimp only
  split <;> simp

@[simp] theorem State.calm_stallCore (i c v l : Nat) (w p : Bool) (n : Nat) : (s.stallCore i c v l w p n).calm = s.calm := by
  unfold State.stallCore
  dsimp only
  simp

@[simp] theorem State.calm_coreStop (i c n : Nat) (b : Bool) (e : Stop) : (s.coreStop i c n b e).calm = s.calm := by
  unfold State.coreStop
  dsimp only
  repeat' split
  all_goals simp

theorem State.calm_asSeat (i : Nat) (f : State → State) (hf : ∀ t : State, (f t).calm = t.calm) : (s.asSeat i f).calm = s.calm := by
  unfold State.asSeat
  exact (hf _)

@[simp] theorem State.calm_fetchNext (i : Nat) : (s.fetchNext i).calm = s.calm := by
  unfold State.fetchNext
  refine State.calm_asSeat _ _ _ (fun t => ?_)
  dsimp only
  repeat' split
  all_goals simp

@[simp] theorem State.calm_endCommand (i n : Nat) : (s.endCommand i n).calm = s.calm := by
  unfold State.endCommand
  dsimp only
  simp

@[simp] theorem State.calm_handBlock (i : Nat) (b : Block) : (s.handBlock i b).calm = s.calm := by
  unfold State.handBlock
  simp

/-! ### What the view says -/

theorem State.calm_stk {s t : State} (h : t.calm = s.calm) : t.stk = s.stk := congrArg CalmView.stk h
theorem State.calm_pwr {s t : State} (h : t.calm = s.calm) : t.pwr = s.pwr := congrArg CalmView.pwr h
theorem State.calm_clock {s t : State} (h : t.calm = s.calm) : t.clock = s.clock := congrArg CalmView.clock h
theorem State.calm_marks {s t : State} (h : t.calm = s.calm) (c : Nat) : (t.cox c).marks = (s.cox c).marks :=
  congrFun (congrArg CalmView.marks h) c
theorem State.calm_rd {s t : State} (h : t.calm = s.calm) (f : Fld) (i j : Nat) (hk : calmKey (f.key i j)) : t.rd f i j = s.rd f i j := by
  have := congrFun (congrArg CalmView.regs h) (f.key i j)
  unfold State.calm calmRegs at this
  simp only [if_pos hk] at this
  unfold State.rd Tab.look
  rw [this]

end Sys2Proof.Machine
end

