-- ==== Sys2Proof/Laws/Spans.lean ====
section
/-!
SUPPORT. What the spans of Machine/Spans.lean mean: `Rows.hit` says exactly that one of the rows shares a byte with a span, and a command that
uses its objects (R425) changes nothing but their last-touched strokes.
-/
namespace Sys2Proof.Machine

/-- A count of parts exceeds r exactly where r parts do not hold the whole. -/
theorem lt_ceilDiv (r n d : Nat) (h : 0 < d) : r < ceilDiv n d ↔ r * d < n := by
  unfold ceilDiv
  rw [if_neg (by omega), Nat.lt_div_iff_mul_lt h]
  constructor <;> intro <;> omega

/-- `Rows.hit` holds exactly where a row overlaps the span. -/
theorem Rows.hit_iff (x : Rows) (a n : Nat) :
    x.hit a n = true ↔ ∃ r, r < x.rows ∧ overlaps (x.base + r * x.stride) x.bytes a n = true := by
  obtain ⟨b, d, m, w⟩ := x
  simp only [Rows.hit, overlaps]
  split
  · rename_i h
    simp only [Bool.and_eq_true, decide_eq_true_eq, Bool.false_eq_true, false_iff, not_exists]
    omega
  · rename_i h
    split
    · rename_i hd
      subst hd
      simp only [Bool.and_eq_true, decide_eq_true_eq, Nat.mul_zero, Nat.add_zero]
      exact ⟨fun k => ⟨0, by omega, k⟩, fun ⟨_, _, k⟩ => k⟩
    · rename_i hd
      have hp : 0 < d := Nat.pos_of_ne_zero hd
      simp only [Bool.and_eq_true, decide_eq_true_eq, lt_min_iff, lt_ceilDiv _ _ _ hp]
      split
      · rename_i ha
        constructor
        · intro k; exact ⟨0, by omega⟩
        · rintro ⟨r, hr, k⟩; omega
      · rename_i ha
        have e := Nat.div_add_mod (a - b - w) d
        have l := Nat.mod_lt (a - b - w) hp
        have c : (a - b - w) / d * d = d * ((a - b - w) / d) := Nat.mul_comm _ _
        constructor
        · rintro ⟨k1, k2⟩
          refine ⟨(a - b - w) / d + 1, k1, ?_⟩
          rw [Nat.add_mul] at k2 ⊢
          omega
        · rintro ⟨r, hr, k⟩
          have q : (a - b - w) / d < r := by
            rw [Nat.div_lt_iff_lt_mul hp]; omega
          have q2 : ((a - b - w) / d + 1) * d ≤ r * d := Nat.mul_le_mul_right _ q
          omega

/-- A command uses its objects: only their strokes move. -/
theorem State.touchSpans_eq (s : State) (ctx : Nat) (rows : List Rows) :
    s.touchSpans ctx rows = { s with objs := (s.touchSpans ctx rows).objs } := by
  unfold State.touchSpans
  split <;> rfl

@[simp] theorem State.touchSpans_mem (s : State) (ctx : Nat) (rows : List Rows) : (s.touchSpans ctx rows).mem = s.mem := by
  rw [State.touchSpans_eq]
@[simp] theorem State.touchSpans_regs (s : State) (ctx : Nat) (rows : List Rows) : (s.touchSpans ctx rows).regs = s.regs := by
  rw [State.touchSpans_eq]
@[simp] theorem State.touchSpans_tokens (s : State) (ctx : Nat) (rows : List Rows) : (s.touchSpans ctx rows).tokens = s.tokens := by
  rw [State.touchSpans_eq]
@[simp] theorem State.touchSpans_pending (s : State) (ctx : Nat) (rows : List Rows) : (s.touchSpans ctx rows).pending = s.pending := by
  rw [State.touchSpans_eq]

end Sys2Proof.Machine
end

