-- ==== Sys2Proof/Laws/View.lean ====
section
/-!
SUPPORT. What each reader of the state sees after an update of something else: a register field, a token, a byte, a cox, a core, a
port, a channel.
-/
namespace Sys2Proof.Machine

/-! ### Readers as functions of the part that they read -/

/-- `State.rd` as a function of what it reads. -/
def rdOf (t : List (Nat × Nat)) (f : Fld) (i j : Nat) : Nat := Tab.look t (f.key i j) (f.resetAt j)
/-- `State.tok` as a function of what it reads. -/
def tokOf (t : List (Nat × Word)) (k : Nat) : Word := Tab.look t k 0
/-- `State.rdByte` as a function of what it reads. -/
def rdByteOf (m : List Host.Cell) (u : List UndefRange) (a : Nat) : Byte :=
  Tab.look m a (match undefSeed u a with | some r => Config.freeByte r a | none => initByte a)
/-- `State.cox` as a function of what it reads. -/
def coxOf (t : List (Nat × Cox)) (c : Nat) : Cox := Tab.look t c default
/-- `State.core` as a function of what it reads. -/
def coreOf (t : List (Nat × Core)) (i : Nat) : Core := Tab.look t i default
/-- `State.port` as a function of what it reads. -/
def portOf (t : List (Nat × Port)) (p : Nat) : Port := Tab.look t p default
/-- `State.chan` as a function of what it reads. -/
def chanOf (t : List (Nat × Chan)) (e c : Nat) : Chan := Tab.look t (chanKey e c) default

/-! ### A state given by its fields -/

@[simp] theorem rd_mk {x0 x1 x2 x3 x4 x5 x6 x7 x8 x9 x10 x11 x12 x13 x14 x15 x16 x17 x18 x19 x20 x21 x22 x23 x24 x25 x26 x27 x28 x29 x30 x31 x32 x33 x34 x35 x36 x37 x38 x39 x40 x41 x42 x43 x44 x45 x46 x47 x48 x49 x50 x51 x52 x53 x54 x55 x56 x57 x58 x59 x60 x61 x62 x63 x64 x65 x66 x67 x68 x69 x70 x71 x72 x73 x74 x75 x76 x77 x78 x79 x80 x81 x82 x83 x84 x85 x86 x87 x88 x89 x90 x91 x92 x93 x94 x95 x96 x97 x98 x99 x100 x101} (f : Fld) (i j : Nat) : State.rd (State.mk x0 x1 x2 x3 x4 x5 x6 x7 x8 x9 x10 x11 x12 x13 x14 x15 x16 x17 x18 x19 x20 x21 x22 x23 x24 x25 x26 x27 x28 x29 x30 x31 x32 x33 x34 x35 x36 x37 x38 x39 x40 x41 x42 x43 x44 x45 x46 x47 x48 x49 x50 x51 x52 x53 x54 x55 x56 x57 x58 x59 x60 x61 x62 x63 x64 x65 x66 x67 x68 x69 x70 x71 x72 x73 x74 x75 x76 x77 x78 x79 x80 x81 x82 x83 x84 x85 x86 x87 x88 x89 x90 x91 x92 x93 x94 x95 x96 x97 x98 x99 x100 x101) f i j = rdOf x3 f i j := rfl
@[simp] theorem rd_eta (s : State) (f : Fld) (i j : Nat) : rdOf s.regs f i j = s.rd f i j := rfl
@[simp] theorem tok_mk {x0 x1 x2 x3 x4 x5 x6 x7 x8 x9 x10 x11 x12 x13 x14 x15 x16 x17 x18 x19 x20 x21 x22 x23 x24 x25 x26 x27 x28 x29 x30 x31 x32 x33 x34 x35 x36 x37 x38 x39 x40 x41 x42 x43 x44 x45 x46 x47 x48 x49 x50 x51 x52 x53 x54 x55 x56 x57 x58 x59 x60 x61 x62 x63 x64 x65 x66 x67 x68 x69 x70 x71 x72 x73 x74 x75 x76 x77 x78 x79 x80 x81 x82 x83 x84 x85 x86 x87 x88 x89 x90 x91 x92 x93 x94 x95 x96 x97 x98 x99 x100 x101} (k : Nat) : State.tok (State.mk x0 x1 x2 x3 x4 x5 x6 x7 x8 x9 x10 x11 x12 x13 x14 x15 x16 x17 x18 x19 x20 x21 x22 x23 x24 x25 x26 x27 x28 x29 x30 x31 x32 x33 x34 x35 x36 x37 x38 x39 x40 x41 x42 x43 x44 x45 x46 x47 x48 x49 x50 x51 x52 x53 x54 x55 x56 x57 x58 x59 x60 x61 x62 x63 x64 x65 x66 x67 x68 x69 x70 x71 x72 x73 x74 x75 x76 x77 x78 x79 x80 x81 x82 x83 x84 x85 x86 x87 x88 x89 x90 x91 x92 x93 x94 x95 x96 x97 x98 x99 x100 x101) k = tokOf x7 k := rfl
@[simp] theorem tok_eta (s : State) (k : Nat) : tokOf s.tokens k = s.tok k := rfl
@[simp] theorem rdByte_mk {x0 x1 x2 x3 x4 x5 x6 x7 x8 x9 x10 x11 x12 x13 x14 x15 x16 x17 x18 x19 x20 x21 x22 x23 x24 x25 x26 x27 x28 x29 x30 x31 x32 x33 x34 x35 x36 x37 x38 x39 x40 x41 x42 x43 x44 x45 x46 x47 x48 x49 x50 x51 x52 x53 x54 x55 x56 x57 x58 x59 x60 x61 x62 x63 x64 x65 x66 x67 x68 x69 x70 x71 x72 x73 x74 x75 x76 x77 x78 x79 x80 x81 x82 x83 x84 x85 x86 x87 x88 x89 x90 x91 x92 x93 x94 x95 x96 x97 x98 x99 x100 x101} (a : Nat) : State.rdByte (State.mk x0 x1 x2 x3 x4 x5 x6 x7 x8 x9 x10 x11 x12 x13 x14 x15 x16 x17 x18 x19 x20 x21 x22 x23 x24 x25 x26 x27 x28 x29 x30 x31 x32 x33 x34 x35 x36 x37 x38 x39 x40 x41 x42 x43 x44 x45 x46 x47 x48 x49 x50 x51 x52 x53 x54 x55 x56 x57 x58 x59 x60 x61 x62 x63 x64 x65 x66 x67 x68 x69 x70 x71 x72 x73 x74 x75 x76 x77 x78 x79 x80 x81 x82 x83 x84 x85 x86 x87 x88 x89 x90 x91 x92 x93 x94 x95 x96 x97 x98 x99 x100 x101) a = rdByteOf x4 x5 a := rfl
@[simp] theorem rdByte_eta (s : State) (a : Nat) : rdByteOf s.mem s.undef a = s.rdByte a := rfl
@[simp] theorem cox_mk {x0 x1 x2 x3 x4 x5 x6 x7 x8 x9 x10 x11 x12 x13 x14 x15 x16 x17 x18 x19 x20 x21 x22 x23 x24 x25 x26 x27 x28 x29 x30 x31 x32 x33 x34 x35 x36 x37 x38 x39 x40 x41 x42 x43 x44 x45 x46 x47 x48 x49 x50 x51 x52 x53 x54 x55 x56 x57 x58 x59 x60 x61 x62 x63 x64 x65 x66 x67 x68 x69 x70 x71 x72 x73 x74 x75 x76 x77 x78 x79 x80 x81 x82 x83 x84 x85 x86 x87 x88 x89 x90 x91 x92 x93 x94 x95 x96 x97 x98 x99 x100 x101} (c : Nat) : State.cox (State.mk x0 x1 x2 x3 x4 x5 x6 x7 x8 x9 x10 x11 x12 x13 x14 x15 x16 x17 x18 x19 x20 x21 x22 x23 x24 x25 x26 x27 x28 x29 x30 x31 x32 x33 x34 x35 x36 x37 x38 x39 x40 x41 x42 x43 x44 x45 x46 x47 x48 x49 x50 x51 x52 x53 x54 x55 x56 x57 x58 x59 x60 x61 x62 x63 x64 x65 x66 x67 x68 x69 x70 x71 x72 x73 x74 x75 x76 x77 x78 x79 x80 x81 x82 x83 x84 x85 x86 x87 x88 x89 x90 x91 x92 x93 x94 x95 x96 x97 x98 x99 x100 x101) c = coxOf x15 c := rfl
@[simp] theorem cox_eta (s : State) (c : Nat) : coxOf s.coxes c = s.cox c := rfl
@[simp] theorem core_mk {x0 x1 x2 x3 x4 x5 x6 x7 x8 x9 x10 x11 x12 x13 x14 x15 x16 x17 x18 x19 x20 x21 x22 x23 x24 x25 x26 x27 x28 x29 x30 x31 x32 x33 x34 x35 x36 x37 x38 x39 x40 x41 x42 x43 x44 x45 x46 x47 x48 x49 x50 x51 x52 x53 x54 x55 x56 x57 x58 x59 x60 x61 x62 x63 x64 x65 x66 x67 x68 x69 x70 x71 x72 x73 x74 x75 x76 x77 x78 x79 x80 x81 x82 x83 x84 x85 x86 x87 x88 x89 x90 x91 x92 x93 x94 x95 x96 x97 x98 x99 x100 x101} (i : Nat) : State.core (State.mk x0 x1 x2 x3 x4 x5 x6 x7 x8 x9 x10 x11 x12 x13 x14 x15 x16 x17 x18 x19 x20 x21 x22 x23 x24 x25 x26 x27 x28 x29 x30 x31 x32 x33 x34 x35 x36 x37 x38 x39 x40 x41 x42 x43 x44 x45 x46 x47 x48 x49 x50 x51 x52 x53 x54 x55 x56 x57 x58 x59 x60 x61 x62 x63 x64 x65 x66 x67 x68 x69 x70 x71 x72 x73 x74 x75 x76 x77 x78 x79 x80 x81 x82 x83 x84 x85 x86 x87 x88 x89 x90 x91 x92 x93 x94 x95 x96 x97 x98 x99 x100 x101) i = coreOf x16 i := rfl
@[simp] theorem core_eta (s : State) (i : Nat) : coreOf s.cores i = s.core i := rfl
@[simp] theorem port_mk {x0 x1 x2 x3 x4 x5 x6 x7 x8 x9 x10 x11 x12 x13 x14 x15 x16 x17 x18 x19 x20 x21 x22 x23 x24 x25 x26 x27 x28 x29 x30 x31 x32 x33 x34 x35 x36 x37 x38 x39 x40 x41 x42 x43 x44 x45 x46 x47 x48 x49 x50 x51 x52 x53 x54 x55 x56 x57 x58 x59 x60 x61 x62 x63 x64 x65 x66 x67 x68 x69 x70 x71 x72 x73 x74 x75 x76 x77 x78 x79 x80 x81 x82 x83 x84 x85 x86 x87 x88 x89 x90 x91 x92 x93 x94 x95 x96 x97 x98 x99 x100 x101} (p : Nat) : State.port (State.mk x0 x1 x2 x3 x4 x5 x6 x7 x8 x9 x10 x11 x12 x13 x14 x15 x16 x17 x18 x19 x20 x21 x22 x23 x24 x25 x26 x27 x28 x29 x30 x31 x32 x33 x34 x35 x36 x37 x38 x39 x40 x41 x42 x43 x44 x45 x46 x47 x48 x49 x50 x51 x52 x53 x54 x55 x56 x57 x58 x59 x60 x61 x62 x63 x64 x65 x66 x67 x68 x69 x70 x71 x72 x73 x74 x75 x76 x77 x78 x79 x80 x81 x82 x83 x84 x85 x86 x87 x88 x89 x90 x91 x92 x93 x94 x95 x96 x97 x98 x99 x100 x101) p = portOf x17 p := rfl
@[simp] theorem port_eta (s : State) (p : Nat) : portOf s.ports p = s.port p := rfl
@[simp] theorem chan_mk {x0 x1 x2 x3 x4 x5 x6 x7 x8 x9 x10 x11 x12 x13 x14 x15 x16 x17 x18 x19 x20 x21 x22 x23 x24 x25 x26 x27 x28 x29 x30 x31 x32 x33 x34 x35 x36 x37 x38 x39 x40 x41 x42 x43 x44 x45 x46 x47 x48 x49 x50 x51 x52 x53 x54 x55 x56 x57 x58 x59 x60 x61 x62 x63 x64 x65 x66 x67 x68 x69 x70 x71 x72 x73 x74 x75 x76 x77 x78 x79 x80 x81 x82 x83 x84 x85 x86 x87 x88 x89 x90 x91 x92 x93 x94 x95 x96 x97 x98 x99 x100 x101} (e c : Nat) : State.chan (State.mk x0 x1 x2 x3 x4 x5 x6 x7 x8 x9 x10 x11 x12 x13 x14 x15 x16 x17 x18 x19 x20 x21 x22 x23 x24 x25 x26 x27 x28 x29 x30 x31 x32 x33 x34 x35 x36 x37 x38 x39 x40 x41 x42 x43 x44 x45 x46 x47 x48 x49 x50 x51 x52 x53 x54 x55 x56 x57 x58 x59 x60 x61 x62 x63 x64 x65 x66 x67 x68 x69 x70 x71 x72 x73 x74 x75 x76 x77 x78 x79 x80 x81 x82 x83 x84 x85 x86 x87 x88 x89 x90 x91 x92 x93 x94 x95 x96 x97 x98 x99 x100 x101) e c = chanOf x35 e c := rfl
@[simp] theorem chan_eta (s : State) (e c : Nat) : chanOf s.chans e c = s.chan e c := rfl

/-! ### Updates of something else -/

variable (s : State)

@[simp] theorem State.rd_wrByte (b : Nat) (y : Byte) (f : Fld) (i j : Nat) : (s.wrByte b y).rd f i j = s.rd f i j := rfl
@[simp] theorem State.rd_setTok (n : Nat) (v : Word) (f : Fld) (i j : Nat) : (s.setTok n v).rd f i j = s.rd f i j := rfl
@[simp] theorem State.rd_setCox (d : Nat) (y : Cox) (f : Fld) (i j : Nat) : (s.setCox d y).rd f i j = s.rd f i j := rfl
@[simp] theorem State.rd_setCore (d : Nat) (y : Core) (f : Fld) (i j : Nat) : (s.setCore d y).rd f i j = s.rd f i j := rfl
@[simp] theorem State.rd_setPort (d : Nat) (y : Port) (f : Fld) (i j : Nat) : (s.setPort d y).rd f i j = s.rd f i j := rfl
@[simp] theorem State.rd_setChan (d g : Nat) (y : Chan) (f : Fld) (i j : Nat) : (s.setChan d g y).rd f i j = s.rd f i j := rfl
@[simp] theorem State.rd_at (n : Nat) (f : Fld) (i j : Nat) : (s.at n).rd f i j = s.rd f i j := rfl

@[simp] theorem State.tok_wr (g : Fld) (v m n : Nat) (k : Nat) : (s.wr g v m n).tok k = s.tok k := rfl
@[simp] theorem State.tok_wrByte (b : Nat) (y : Byte) (k : Nat) : (s.wrByte b y).tok k = s.tok k := rfl
@[simp] theorem State.tok_setCox (d : Nat) (y : Cox) (k : Nat) : (s.setCox d y).tok k = s.tok k := rfl
@[simp] theorem State.tok_setCore (d : Nat) (y : Core) (k : Nat) : (s.setCore d y).tok k = s.tok k := rfl
@[simp] theorem State.tok_setPort (d : Nat) (y : Port) (k : Nat) : (s.setPort d y).tok k = s.tok k := rfl
@[simp] theorem State.tok_setChan (d g : Nat) (y : Chan) (k : Nat) : (s.setChan d g y).tok k = s.tok k := rfl
@[simp] theorem State.tok_at (n : Nat) (k : Nat) : (s.at n).tok k = s.tok k := rfl
@[simp] theorem State.tok_logFrom (l m n o r : Nat) (k : Nat) : (s.logFrom l m n o r).tok k = s.tok k := by unfold State.logFrom; split <;> rfl

@[simp] theorem State.rdByte_wr (g : Fld) (v m n : Nat) (a : Nat) : (s.wr g v m n).rdByte a = s.rdByte a := rfl
@[simp] theorem State.rdByte_setTok (n : Nat) (v : Word) (a : Nat) : (s.setTok n v).rdByte a = s.rdByte a := rfl
@[simp] theorem State.rdByte_setCox (d : Nat) (y : Cox) (a : Nat) : (s.setCox d y).rdByte a = s.rdByte a := rfl
@[simp] theorem State.rdByte_setCore (d : Nat) (y : Core) (a : Nat) : (s.setCore d y).rdByte a = s.rdByte a := rfl
@[simp] theorem State.rdByte_setPort (d : Nat) (y : Port) (a : Nat) : (s.setPort d y).rdByte a = s.rdByte a := rfl
@[simp] theorem State.rdByte_setChan (d g : Nat) (y : Chan) (a : Nat) : (s.setChan d g y).rdByte a = s.rdByte a := rfl
@[simp] theorem State.rdByte_at (n : Nat) (a : Nat) : (s.at n).rdByte a = s.rdByte a := rfl
@[simp] theorem State.rdByte_logFrom (l m n o r : Nat) (a : Nat) : (s.logFrom l m n o r).rdByte a = s.rdByte a := by unfold State.logFrom; split <;> rfl

@[simp] theorem State.cox_wr (g : Fld) (v m n : Nat) (c : Nat) : (s.wr g v m n).cox c = s.cox c := rfl
@[simp] theorem State.cox_wrByte (b : Nat) (y : Byte) (c : Nat) : (s.wrByte b y).cox c = s.cox c := rfl
@[simp] theorem State.cox_setTok (n : Nat) (v : Word) (c : Nat) : (s.setTok n v).cox c = s.cox c := rfl
@[simp] theorem State.cox_setCore (d : Nat) (y : Core) (c : Nat) : (s.setCore d y).cox c = s.cox c := rfl
@[simp] theorem State.cox_setPort (d : Nat) (y : Port) (c : Nat) : (s.setPort d y).cox c = s.cox c := rfl
@[simp] theorem State.cox_setChan (d g : Nat) (y : Chan) (c : Nat) : (s.setChan d g y).cox c = s.cox c := rfl
@[simp] theorem State.cox_at (n : Nat) (c : Nat) : (s.at n).cox c = s.cox c := rfl
@[simp] theorem State.cox_logFrom (l m n o r : Nat) (c : Nat) : (s.logFrom l m n o r).cox c = s.cox c := by unfold State.logFrom; split <;> rfl

@[simp] theorem State.core_wr (g : Fld) (v m n : Nat) (i : Nat) : (s.wr g v m n).core i = s.core i := rfl
@[simp] theorem State.core_wrByte (b : Nat) (y : Byte) (i : Nat) : (s.wrByte b y).core i = s.core i := rfl
@[simp] theorem State.core_setTok (n : Nat) (v : Word) (i : Nat) : (s.setTok n v).core i = s.core i := rfl
@[simp] theorem State.core_setCox (d : Nat) (y : Cox) (i : Nat) : (s.setCox d y).core i = s.core i := rfl
@[simp] theorem State.core_setPort (d : Nat) (y : Port) (i : Nat) : (s.setPort d y).core i = s.core i := rfl
@[simp] theorem State.core_setChan (d g : Nat) (y : Chan) (i : Nat) : (s.setChan d g y).core i = s.core i := rfl
@[simp] theorem State.core_at (n : Nat) (i : Nat) : (s.at n).core i = s.core i := rfl
@[simp] theorem State.core_logFrom (l m n o r : Nat) (i : Nat) : (s.logFrom l m n o r).core i = s.core i := by unfold State.logFrom; split <;> rfl

@[simp] theorem State.port_wr (g : Fld) (v m n : Nat) (p : Nat) : (s.wr g v m n).port p = s.port p := rfl
@[simp] theorem State.port_wrByte (b : Nat) (y : Byte) (p : Nat) : (s.wrByte b y).port p = s.port p := rfl
@[simp] theorem State.port_setTok (n : Nat) (v : Word) (p : Nat) : (s.setTok n v).port p = s.port p := rfl
@[simp] theorem State.port_setCox (d : Nat) (y : Cox) (p : Nat) : (s.setCox d y).port p = s.port p := rfl
@[simp] theorem State.port_setCore (d : Nat) (y : Core) (p : Nat) : (s.setCore d y).port p = s.port p := rfl
@[simp] theorem State.port_setChan (d g : Nat) (y : Chan) (p : Nat) : (s.setChan d g y).port p = s.port p := rfl
@[simp] theorem State.port_at (n : Nat) (p : Nat) : (s.at n).port p = s.port p := rfl
@[simp] theorem State.port_logFrom (l m n o r : Nat) (p : Nat) : (s.logFrom l m n o r).port p = s.port p := by unfold State.logFrom; split <;> rfl

@[simp] theorem State.chan_wr (g : Fld) (v m n : Nat) (e c : Nat) : (s.wr g v m n).chan e c = s.chan e c := rfl
@[simp] theorem State.chan_wrByte (b : Nat) (y : Byte) (e c : Nat) : (s.wrByte b y).chan e c = s.chan e c := rfl
@[simp] theorem State.chan_setTok (n : Nat) (v : Word) (e c : Nat) : (s.setTok n v).chan e c = s.chan e c := rfl
@[simp] theorem State.chan_setCox (d : Nat) (y : Cox) (e c : Nat) : (s.setCox d y).chan e c = s.chan e c := rfl
@[simp] theorem State.chan_setCore (d : Nat) (y : Core) (e c : Nat) : (s.setCore d y).chan e c = s.chan e c := rfl
@[simp] theorem State.chan_setPort (d : Nat) (y : Port) (e c : Nat) : (s.setPort d y).chan e c = s.chan e c := rfl
@[simp] theorem State.chan_at (n : Nat) (e c : Nat) : (s.at n).chan e c = s.chan e c := rfl
@[simp] theorem State.chan_logFrom (l m n o r : Nat) (e c : Nat) : (s.logFrom l m n o r).chan e c = s.chan e c := by unfold State.logFrom; split <;> rfl

@[simp] theorem State.stkState_setPort (d : Nat) (y : Port) : (s.setPort d y).stkState = s.stkState := rfl

end Sys2Proof.Machine
end

