-- ==== Sys2Proof/WellFormed.lean ====
section
/-!
DEFINITION. What a well-formed command is: every number that names a unit is one the device has, and every value fits the field or the
frame that carries it. A command that is not well formed names nothing of the device. The machine does not rest on this check: it
answers every command.
-/
namespace Sys2Proof

/-- A crew, a physical core, a port, a context, a PCIe function (R13, R579). -/
def crewOk (c : Nat) : Bool := decide (c < 16)
def coreOk (i : Nat) : Bool := decide (i < 144)
def portOk (q : Nat) : Bool := decide (q < 16)
def ctxOk (c : Nat) : Bool := decide (c < 64)
def funcOk (f : Nat) : Bool := decide (f < 64)

/-- A channel of a DMA engine: 8 of each crew's, 16 of the host engine (R501). -/
def channelOk (e ch : Nat) : Bool := decide (ch < if e = 16 then 16 else 8) && decide (e ≤ 16)

/-- A memory controller: 8 HBM stacks, 32 LPDDR packages; a bank of one (R446). -/
def controllerOk (lpd : Bool) (ctl : Nat) : Bool := decide (ctl < if lpd then 32 else 8)
def memBankOk (lpd : Bool) (ctl bank : Nat) : Bool := controllerOk lpd ctl && decide (bank < if lpd then 128 else 1024)

/-- An item of a page (R709, R710). -/
def pageItemOk (p : Page) (i : Nat) : Bool := decide (i < p.count)

/-- A requester of register accesses (R723). -/
def requesterOk : Requester → Bool
  | .func f => funcOk f
  | .device d => decide (d < 512)
  | .i3c => true

/-- A memory of the background test: a scratchpad or a crew store (R409). -/
def testItemOk (scratch : Bool) (index : Nat) : Bool := decide (index < if scratch then 144 else 16)

/-- An agent of the device. -/
def agentOk : Agent → Bool
  | .core i => coreOk i
  | .chan e ch => channelOk e ch
  | .cox c => crewOk c
  | _ => true

/-- The command names units that exist, and its values fit their fields. -/
def Instr.wellFormed : Instr → Bool
  | .ready q | .curtain q | .late q | .doneMsg q | .holdReq q | .hold q | .resume q | .abandon q | .stop q => portOk q
  | .sheetFetch c | .nop c | .launch c | .dmaCue c | .endCue c | .batchFlush c => crewOk c
  | .cueComplete c k => crewOk c && decide (k < 65536)
  | .copy i | .transposeCopy i | .gemm i | .gemmList i | .conv2d i | .conv3d i | .attn i | .attnVerify i | .acceptMode i | .epilogue i
  | .norm i | .softmax i | .sfu i | .cropResize i | .spaceToChannel i | .channelToSpace i | .scan i | .stateStep i | .sample i
  | .amaxUpdate i | .signal i | .wait i | .waitSatisfied i | .atomic i | .step i _ | .cowCopy i => coreOk i
  | .fork c | .admission c | .release c => crewOk c
  | .poolEnable p => decide (p < 16)
  | .rosPoolAdd p n => decide (p < 16) && decide (n < 2 ^ 24)
  | .frame q _ | .ackTimeout q | .frameLockLoss q | .retrain q | .trainingTimeout q | .mgmt q | .packetSend q | .packetForward q => portOk q
  | .laneSpare q l => portOk q && decide (l < 17)
  | .laneErrorWindow q es => portOk q && decide (es.length = 17)
  | .trainingPhase q lanes => portOk q && decide (lanes < 2 ^ 17)
  | .remotePut c | .remotePutSignal c | .remoteGet c | .remoteAtomic c => crewOk c
  | .putPacket q | .putSignalPacket q | .signalPacket q | .getPacket q | .add q | .addFp q | .swap q | .cas q | .ack q | .getData q
  | .atomicResp q | .nak q => portOk q
  | .rmtTimeout q n => portOk q && decide (n < 8192)
  | .memoryRequest a _ k b => (decide (a < 0x7C00000000) || decide (0x8000000000 ≤ a) && decide (a < 0x27000000000)) && decide (k < 2) && decide (b < 16)
  | .memoryServe l c b _ _ | .bounceReissue l c b _ | .memoryTimeout l c b _ => memBankOk l c b
  | .hbmTemperatureReadout k t => decide (k < 8) && decide (t < 256)
  | .lendEnable w | .windowOpen w => decide (w < 8)
  | .leaseEnable j | .reclaim j | .leaseReturned j => decide (j < 16)
  | .watchRecopy w => decide (w < 256)
  | .walk a c va _ => agentOk a && ctxOk c && decide (va < 2 ^ 49)
  | .retry f | .abort f => decide (f < 65536)
  | .retryContext c | .abortContext c => ctxOk c
  | .dmaCopy e ch | .dmaTranspose e ch | .dmaFill e ch | .descriptorComplete e ch | .ownerWait e ch | .chEnable e ch | .chDisableReq e ch
  | .chForceOff e ch | .channelDisabled e ch => channelOk e ch
  | .bar2Read f _ n => funcOk f && decide (1 ≤ n) && decide (n ≤ 4096)
  | .bar2Write f _ d _ => funcOk f && decide (1 ≤ d.length) && decide (d.length ≤ 4096)
  | .doorbell f k v => funcOk f && decide (k < (if f = 0 then 0x8000 else 0x1000)) && decide (v < 2 ^ 64)
  | .trigger q => portOk q
  | .hostCompletion _ st _ => decide (st < 256)
  | .functionLevelReset f => funcOk f
  | .saveComplete i | .restoreComplete i | .taskComplete i => coreOk i
  | .preempt c | .ctxResume c | .accClear c => ctxOk c
  | .enable p i | .disableReq p i | .forceOff p i | .drainEnd p i | .softReset p i | .resetComplete p i => pageItemOk p i
  | .intForce p i m => pageItemOk p i && decide (m < 2 ^ 32)
  | .readToClear w o => requesterOk w && decide (o < 2 ^ 26)
  | .registerWrite w o n v => requesterOk w && decide (o < 2 ^ 26) && decide (v < 2 ^ (8 * n))
  | .sfuSeal v => decide (v < 2 ^ 32)
  | .devId d => decide (d < 512)
  | .narrowCfg v => decide (v < 2 ^ 32)
  | .rcInvalidate c | .seatEntry c => crewOk c
  | .backgroundTest l x _ => testItemOk l x
  | .spareBankCopy l x k => testItemOk l x && decide (k < 2)
  | .askRound ms => decide (ms < 2 ^ 14)
  | .padRelease m => decide (m < 128)
  | .powerCheck r => decide (r.temps.length = 6)
  | .trip k => decide (k < 2)
  | .standbyStart k => decide (k < 16)
  | .pwrWarmReset k => decide (k < 2 ^ 32)
  | .retire k b | .enter k b | .annotate k b => decide (k < 16) && decide (b < 65536)
  | .unitRemap l c | .marginGo l c | .selfRefreshExit l c => controllerOk l c
  | .marginTrial l c _ => controllerOk l c
  | .logInject v => decide (v < 2 ^ 32)
  | .readLog a | .readIdentity a | .readPwr a | .writePwr a | .ackIbi a | .echo a | .readReg a | .writeReg a | .readLedger a | .warmReset a
  | .spdmSend a | .spdmRecv a | .fwBegin a | .fwData a | .fwCommit a => decide (a.length < 65536)
  | .testRun p i => pageItemOk p i
  | .samplePreload cs => decide (cs.length = 96)
  | .pcieLinkUp sp w _ => (sp == 5 || sp == 6) && (w == 8 || w == 16)
  | .run | .clearRun | .stkCmdGo | .stkCmdStop | .stkCmdResume | .stkCmdAbandon | .catchStroke | .catchTimeout | .endOfDrive | .decisionPoint
  | .enterStopped | .register | .free | .setHint | .move | .touch | .query | .objectCopy _ | .objectSwitch _ | .faultRingFlush
  | .invalidation | .invalidationComplete | .arm | .cancel | .frameCopy _ | .checkpointScan | .rdLimitExpiry _ | .completionTimeout _
  | .linkDown | .perstAssert | .perstDeassert | .taskPlacement | .rearm | .summaryRetry | .rtSeal | .enterRow | .enterEasy | .enterHold
  | .enterDormant | .wake | .wakeReady | .supplyLoss | .supplyReturn | .mateOpen | .pwrRetCommit | .retCommitDone | .invalidate
  | .faultWindow | .ledgerWrite | .load | .logTransfer | .privateRead | .readStatus | .ibiRepeat | .getVersion | .getCapabilities
  | .negotiateAlgorithms | .getDigests | .getCertificate | .challenge | .getMeasurements | .extest | .idcode | .clamp | .highz | .bypass
  | .testLogicReset | .standbyStop | .loopbackFollower => true

end Sys2Proof
end

