-- ==== Sys2Proof/Tests/Slice0.lean ====
section
/-!
SUPPORT. The model's own tests, each a named theorem about one command on a small state: ill-formed commands that the check refuses; for
each statement states and operands that meet its hypotheses (`test_met_…`); and results worked out by hand from the rules.
-/
namespace Sys2Proof.Tests
open Sys2Proof Sys2Proof.Machine

-- One test after another: their kernel evaluations together would need more memory than one process has.
set_option Elab.async false

/-- The next state of a command (every command answers one). -/
def after (c : Instr) (s : State) : State :=
  match exec c s with
  | .next t => t
  | .fault _ => s
  | .refused _ => s

/-- The result, where there is one. -/
def got {α β : Type} (x : Except α β) : Option β :=
  match x with
  | .ok v => some v
  | .error _ => none

def isOk {α β : Type} (x : Except α β) : Bool := (got x).isSome

/-- The state after `x`, where there is one. -/
def stateOf {α : Type} (x : Except α State) (s : State) : State := (got x).getD s

/-- The page fault that an access ends in: address, level, whether it writes. -/
def faultOf {α : Type} (x : Except Stop α) : Option (Nat × Nat × Bool) :=
  match x with
  | .error (.pageFault va l w) => some (va, l, w)
  | _ => none

def armed : State := State.reset.wr STK_STAT_STATE 1
def running : State := State.reset.wr STK_STAT_STATE 2
def holding : State := State.reset.wr STK_STAT_STATE 3
def asStarter (s : State) : State := s.on STK_CTL_STARTER

/-- A stroke message of the code, numbers as given, in a packet. -/
def strokePkt (code num a b : Nat) : Packet :=
  { zeroPacket with type := ptStroke, vc := 3, msg := { noMsg with code := code, num := num, a := a, b := b, status := 0x31 } }

/-- The packet stands alone in the receive buffer of port 0, since the present instant. -/
def heard (p : Packet) (s : State) : State := s.setPort 0 { s.port 0 with rx := [(s.clock, p)] }

/-- Contexts 0 to 3 are enabled; addresses 0 to 2 MiB of context 1 and of context 0 are the first 2 MiB of HBM, and those from 1 GiB on are the
scratchpad of crew 0, seat 0. -/
def mapped (s : State) : State :=
  let s := [0, 1, 2, 3].foldl (fun (t : State) c => (t.wr (BLK_STAT_STATE .ctx) 1 c).wr CTX_STAT_STATE 1 c) s
  { s with clock := 1000, tlb :=
      [{ ctx := 1, va := 0, size := 0x200000, leaf := 0xF }, { ctx := 0, va := 0, size := 0x200000, leaf := 0xF },
       { ctx := 1, va := 0x40000000, size := 0x200000, leaf := 0x4001000000F }] }

/-- A stroke runs, and context 1 has memory. -/
def rowing : State := mapped running

/-- Crew 0 has a sheet of one cue. -/
def withCue (q : Cue) (s : State) : State :=
  s.setCox 0 { (default : Cox) with cur := some { stroke := 0, ctx := 1, nondet := false, cues := [q] } }

/-- The block of a scheduled command. -/
def block1 : Block := { kind := 0, cue := 0, order := 0, ctx := 1, addr := 0x1000, count := 1, pos := 0, flags := 0, rows := [] }

/-- The core of crew 0, seat 0, has fetched a command. -/
def fetched (raw : List Byte) (s : State) : State := s.setCore 0 { (default : Core) with block := some block1, next := some raw }

/-- A command of 128 bytes with the fields given: offset, bytes, value. -/
def command (fs : List (Nat × Nat × Nat)) : List Byte :=
  fs.foldl (fun (l : List Byte) f => spliceAt l f.1 (leBytes f.2.2 f.2.1)) (leBytes 0 128)


/-! ## Well-formedness -/

theorem test_ill_units : ∀ i ∈ ([.ready 16, .sheetFetch 16, .copy 144, .poolEnable 16, .retrain 16, .lendEnable 8, .leaseEnable 16,
    .retryContext 64, .chEnable 17 0, .chEnable 0 8, .chEnable 16 16, .enable .lnk 16, .testRun .hbm 8, .cueComplete 16 0, .laneSpare 16 0,
    .cueComplete 0 65536, .laneSpare 0 17, .rmtTimeout 0 8192, .watchRecopy 256, .walk (.cox 16) 0 0 .read, .walk .host 64 0 .read,
    .walk .host 0 (2 ^ 49) .read, .functionLevelReset 64, .hbmTemperatureReadout 8 0, .memoryRequest 0x7C00000000 0 0 0,
    .memoryRequest 0x27000000000 0 0 0, .memoryRequest 0 0 2 0, .memoryRequest 0 0 0 16, .backgroundTest true 144 [],
    .backgroundTest false 16 [], .spareBankCopy false 0 2, .marginGo false 8, .retire 16 0] : List Instr),
    i.wellFormed = false := by decide +kernel

theorem test_ill_values : ∀ i ∈ ([.rosPoolAdd 0 (2 ^ 24), .laneErrorWindow 0 [], .trainingPhase 0 (2 ^ 17), .hbmTemperatureReadout 0 256,
    .retry 65536, .bar2Read 0 0 0, .bar2Read 64 0 1, .bar2Write 0 0 [] false, .doorbell 0 0x8000 1, .doorbell 0 0 (2 ^ 64),
    .hostCompletion 0 256 [], .intForce .dev 0 (2 ^ 32), .readToClear (.func 64) 0, .readToClear (.device 512) 0, .registerWrite .i3c (2 ^ 26) 4 0,
    .registerWrite .i3c 0 4 (2 ^ 32), .sfuSeal (2 ^ 32), .devId 512, .narrowCfg (2 ^ 32), .askRound (2 ^ 14), .padRelease 128,
    .powerCheck { temps := [], mv := 0, w := 0 }, .trip 2, .standbyStart 16, .pwrWarmReset (2 ^ 32), .retire 0 65536, .logInject (2 ^ 32),
    .samplePreload [], .pcieLinkUp 4 8 false, .pcieLinkUp 5 4 false] : List Instr), i.wellFormed = false := by decide +kernel

theorem test_well_formed : ∀ i ∈ ([.run, .ready 15, .copy 143, .chEnable 16 15, .chEnable 15 7, .enable .lnk 15, .laneSpare 15 16,
    .rmtTimeout 15 8191, .memoryRequest 0x26FFFFFFFFF 0 1 15, .memoryRequest 0x7BFFFFFFFF 0 0 0, .devId 511, .walk (.core 143) 63 (2 ^ 49 - 1) .write,
    .doorbell 63 0xFFF (2 ^ 64 - 1), .pcieLinkUp 6 16 true] : List Instr), i.wellFormed = true := by decide +kernel

theorem test_no_word : Sys2Proof.decodeTableWord 32 0 = none := by decide +kernel

/-! ## The stroke unit -/

theorem test_met_stroke_unit : (State.reset.railsUp = true ∧ State.reset.stkState = 0 ∧ State.reset.blk .stk = 1 ∧
      State.reset.stkParamsOk = true ∧ ∀ c, c < 16 → State.reset.coxParamsOk c = true) ∧
    (armed.railsUp = true ∧ armed.stkState = 1) ∧
    (let s : State := { running with stk := { running.stk with ended := true, stopping := some 0 } }
     s.railsUp = true ∧ s.stkState = 2 ∧ s.stk.ended = true ∧ s.stk.stopping = some s.stroke ∧ (∀ c, c < 16 → (s.cox c).late = false) ∧
       s.atBoundary = true ∧ (after .enterStopped s).stkState = 0) := by
  decide +kernel

theorem test_run_arms : (after .run State.reset).stkState = 1 ∧ (after .clearRun armed).stkState = 0 := by decide +kernel

theorem test_met_catch_scheduled :
    (let s := asStarter armed
     s.railsUp = true ∧ s.stkState = 1 ∧ s.starter = true ∧ s.rd STK_MEMBERS_COUNT ≤ s.stk.readys.length + 1) ∧
    (let s : State := (asStarter armed).wr STK_MEMBERS_COUNT 2
     let s : State := { s with stk := { s.stk with readys := [(7, 0, s.rd DEV_FW_VERSION, s.rd STK_PERIOD_NS)] } }
     s.rd STK_MEMBERS_COUNT ≤ s.stk.readys.length + 1 ∧ (∀ r, r ∈ s.stk.readys → s.readyCause r.2 = 0) ∧
       (after .stkCmdGo s).stk.due = some (s.clock + s.rd STK_LEAD_NS * 16, s.rd STK_FIRST_STROKE)) ∧
    (let s : State := { asStarter running with stk := { running.stk with ended := true } }
     s.railsUp = true ∧ s.starter = true ∧ s.stkState = 2 ∧ s.stk.ended = true ∧ s.stk.due = none ∧ s.stk.stopping = none ∧
       s.stk.resumed = none ∧ s.latesMatched = true) ∧
    (let s : State := { asStarter running with stk := { running.stk with ended := true, lates := [(3, 0)] } }
     s.stkState = 2 ∧ s.latesMatched = false ∧ (s.stk.k + 1) * s.rd STK_QUANTUM_NS ≤ s.stretchLimit ∧ (after .decisionPoint s).stk.k = 1) ∧
    (let s : State := { asStarter (running.wr STK_STRETCH_MAX_PERMILLE 0) with stk := { running.stk with ended := true, lates := [(3, 0)] } }
     s.stkState = 2 ∧ s.latesMatched = false ∧ s.stretchLimit < (s.stk.k + 1) * s.rd STK_QUANTUM_NS ∧ (after .decisionPoint s).stkState = 3) := by
  decide +kernel

theorem test_met_catch_heard :
    (let p := strokePkt 2 0 0 0
     let s := heard p armed
     s.railsUp = true ∧ s.strokeAt 0 2 = some (0, p) ∧ s.stkState = 1 ∧ p.msg.num = s.rd STK_FIRST_STROKE ∧ s.catchSeen p.msg.num = false ∧
       p.msg.tag = s.rd STK_SCHEDULE_ID % 2 ^ 32 ∧ s.is STK_STAT_LATE = false ∧ (after (.curtain 0) s).stk.curtain = true) ∧
    (let p := strokePkt 2 1 32 0
     let s := heard p running
     s.strokeAt 0 2 = some (0, p) ∧ s.stkState = 2 ∧ p.msg.num = (s.stroke + 1) % 2 ^ 64 ∧ s.catchSeen p.msg.num = false) ∧
    (let p := strokePkt 2 0 0 0
     let s := heard p State.reset
     s.railsUp = true ∧ s.stkState = 0 ∧ s.strokeAt 0 2 = some (0, p)) := by decide +kernel

theorem test_met_starter_records :
    (let p := strokePkt 1 0 0 0
     let s := heard p (asStarter armed)
     s.railsUp = true ∧ s.starter = true ∧ s.strokeAt 0 1 = some (0, p) ∧ Tab.find (after (.ready 0) s).stk.readys 0 = some (0, 0, 0)) ∧
    (let p := strokePkt 3 0 0 0
     let s := heard p (asStarter running)
     s.strokeAt 0 3 = some (0, p) ∧ s.emittedAfter p.msg.num = false ∧ (after (.late 0) s).stk.lates = [(0, 0)]) ∧
    (let p := strokePkt 4 0 0 0
     let s : State := heard p { asStarter running with stk := { running.stk with lates := [(0, 0), (5, 0)] } }
     s.starter = true ∧ s.strokeAt 0 4 = some (0, p) ∧ (after (.doneMsg 0) s).stk.lates = [(5, 0)]) := by decide +kernel

theorem test_met_hold_water :
    (let p := strokePkt 5 0 0 0
     let s := heard p (asStarter running)
     s.railsUp = true ∧ s.starter = true ∧ s.stkState = 2 ∧ s.strokeAt 0 5 = some (0, p) ∧ (after (.holdReq 0) s).stkState = 3) ∧
    (let p := strokePkt 6 0 0 0
     let s := heard p running
     s.railsUp = true ∧ s.stkState = 2 ∧ s.strokeAt 0 6 = some (0, p) ∧ (after (.hold 0) s).rd STK_STAT_HOLD_STATUS = 0x31) ∧
    (running.railsUp = true ∧ running.stkState = 2 ∧ running.stk.due = none ∧ running.stk.stopping ≠ some running.stroke ∧
      (after .catchTimeout running).rd STK_STAT_HOLD_STATUS = 0x51) := by decide +kernel

theorem test_met_end_of_run :
    ((asStarter running).railsUp = true ∧ (asStarter running).starter = true ∧ (asStarter running).stkState = 2) ∧
    (let p := strokePkt 9 4 0 0
     let s := heard p running
     s.stkState = 2 ∧ s.stk.stopping = none ∧ s.strokeAt 0 9 = some (0, p) ∧ (after (.stop 0) s).stk.stopping = some 4) ∧
    ((asStarter holding).railsUp = true ∧ (asStarter holding).starter = true ∧ (asStarter holding).stkState = 3) ∧
    (let p := strokePkt 7 0 0 0
     let s := heard p holding
     s.stkState = 3 ∧ s.strokeAt 0 7 = some (0, p) ∧ (after (.resume 0) s).stkState = 2) ∧
    (let p := strokePkt 8 0 0 0
     let s := heard p holding
     s.stkState = 3 ∧ s.strokeAt 0 8 = some (0, p) ∧ (after (.abandon 0) s).stkState = 0) := by decide +kernel

/-- A cox with an empty sheet for stroke 1 as its next. -/
def withNext (s : State) (c : Nat) : State :=
  s.setCox c { (default : Cox) with next := some { stroke := 1, ctx := 0, nondet := false, cues := [] } }

theorem test_met_drive :
    (let s : State := { armed with stk := { armed.stk with due := some (16000, 1) } }
     let s := (List.range 16).foldl withNext s
     s.railsUp = true ∧ s.stk.due = some (16000, 1) ∧ s.stkState = 1 ∧
       (∀ c, c < 16 → s.coxTakes c = true ∧ ((s.cox c).next.map (fun sh => sh.stroke)) = some 1)) ∧
    (running.railsUp = true ∧ running.stkState = 2 ∧ running.stk.ended = false) := by decide +kernel

theorem test_end_of_drive :
    let s : State := running.setCox 3 { (default : Cox) with cur := some { stroke := 0, ctx := 0, nondet := false, cues := [] } }
    (after .endOfDrive s).stk.ended = true ∧ (after .endOfDrive s).clock = 1800000 * 16 ∧
      ((after .endOfDrive s).cox 3).late = true := by decide +kernel

theorem test_met_cmd_ignored : armed.railsUp = true ∧ ¬ (armed.stkState = 1 ∧ armed.starter = true) ∧
    ¬ (armed.stkState = 2 ∧ armed.starter = true) ∧ ¬ (armed.stkState = 3 ∧ armed.starter = true) ∧
    (after .stkCmdStop armed).is STK_STAT_CFG_ERR = true ∧ (after .stkCmdStop armed).stkState = 1 := by decide +kernel


/-! ## Coxes and seats -/

theorem test_met_sheet_fetch :
    let h := leBytes 8 2 ++ leBytes 1 2 ++ leBytes 1 4 ++ leBytes 0 56
    let b := leBytes 15 1 ++ leBytes 0 63
    let s := (mapped armed).wrMem 0 (h ++ b)
    s.railsUp = true ∧ s.blk .cox 0 = 1 ∧ s.slots = [] ∧ s.slotless = [] ∧ s.fetchTarget 0 = some 0 ∧ s.sheetAddr 0 0 = 0 ∧ got (s.readV (.cox 0) 0 0 64) = some h ∧
      s.ctxOn (fieldBits h 4 0 6) = true ∧ fieldLE h 8 8 = s.rd STK_SCHEDULE_ID ∧ fieldLE h 2 2 = 1 ∧
      got (s.readV (.cox 0) 0 64 64) = some b ∧ badCue (parseCues 1 b) = none ∧
      (after (.sheetFetch 0) s).cox 0 = { (default : Cox) with next := some { stroke := 0, ctx := 1, nondet := false, cues := parseCues 1 b } } ∧
      (let u := s.wr STK_STAT_STATE 2
       u.fetchTarget 0 = some 0 ∧ ((after (.sheetFetch 0) u).cox 0).cur.isSome = true) := by decide +kernel

theorem test_met_dma_cue :
    let q : Cue := { (default : Cue) with kind := 2, ptr := 0x400, arg := 1 * 0x10000 + 7 }
    let s := withCue q (rowing.wr CDM_CH_STAT_STATE 0 0 7)
    s.railsUp = true ∧ (s.readyCue 0).map (fun x => x.2) = some (q, 0) ∧ s.ctxRefuses 1 = none ∧ s.recordStop 1 q = none ∧
      s.is CDM_CH_CTL_MODE 0 q.channel = false ∧ s.rd CDM_CH_STAT_STATE 0 q.channel ≤ 3 ∧ s.blk .cdm 0 = 1 ∧
      ((after (.dmaCue 0) s).chan 0 7).addr = 0x400 := by decide +kernel

theorem test_met_launch :
    let q : Cue := { (default : Cue) with kind := 1, seatMask := 1, ptr := 0x1000, arg := 1 }
    let s := withCue q rowing
    s.railsUp = true ∧ (s.readyCue 0).map (fun x => x.2) = some (q, 0) ∧ s.ctxRefuses 1 = none ∧ s.recordStop 1 q = none ∧
      (let q : Cue := { q with batch := true }
       let raw := command [(0, 1, 0x10), (4, 1, 0x22), (8, 3, 4), (12, 3, 4), (16, 3, 32), (20, 2, 1), (32, 8, 0x2000), (40, 8, 0x3000), (48, 8, 0x4000),
         (64, 4, 64), (68, 4, 64), (72, 4, 64)]
       let s := withCue q (rowing.wrMem 0x1000 raw)
       (s.readyCue 0).map (fun x => x.2) = some (q, 0) ∧ isOk (s.contribs 0 1 q.ptr q.arg) = true) := by decide +kernel

theorem test_met_cues_complete :
    (let q : Cue := { (default : Cue) with postA := 0xC005, incA := 3 }
     let s := withCue q rowing
     s.railsUp = true ∧ (s.readyCue 0).map (fun x => x.2) = some (q, 0) ∧ s.ctxRefuses 1 = none ∧ q.statusPtr = 0 ∧
       selToken 0 q.postA = some 5 ∧ selToken 0 q.postB = none ∧ (after (.nop 0) s).tok 5 = 3 ∧
       (let x := s.cox 0
        let u := s.setCox 0 { x with issued := [0], running := [(0, { left := 0, status := 1, flags := 0, order := 8, detail := [] })] }
        u.recordStop 1 q = none ∧ u.regWrites = [] ∧ q.holdOnErr = false ∧ ((after (.cueComplete 0 0) u).cox 0).done = [0])) ∧
    (let q : Cue := { (default : Cue) with kind := 15 }
     let s := withCue q rowing
     (s.readyCue 0).map (fun x => x.2) = some (q, 0) ∧ q.statusPtr = 0 ∧ selToken 0 q.postA = none ∧ selToken 0 q.postB = none ∧
       (after (.endCue 0) s).tok (tokCrew 0 0) = 1) ∧
    (let s := rowing.setCox 15 { (default : Cox) with batch := [default] }
     s.railsUp = true ∧ s.coxOn 15 = true ∧ (s.cox 15).batch ≠ [] ∧ (s.cox 15).backlog = [] ∧ ((after (.batchFlush 15) s).cox 15).batch = []) := by decide +kernel

theorem test_met_signal_wait :
    (let raw := command [(0, 1, 0x50), (64, 2, 0xC007), (66, 2, 9)]
     let s := fetched raw rowing
     s.railsUp = true ∧ s.decodes 0 0x50 = true ∧ onlyFields raw signalFields = true ∧ selOk (fieldLE raw 64 2) = true ∧
       (bitOf (fieldLE raw 64 2) 15 && bits (fieldLE raw 64 2) 0 14 == 0) = false ∧ selToken 0 (fieldLE raw 64 2) = some 7 ∧
       (after (.signal 0) s).tok 7 = 9) ∧
    (let raw := command [(0, 1, 0x51), (64, 2, 0xC007), (68, 4, 2)]
     let s := fetched raw rowing
     let u := s.setTok 7 2
     s.decodes 0 0x51 = true ∧ onlyFields raw waitFields = true ∧ selOk (fieldLE raw 64 2) = true ∧ selToken 0 (fieldLE raw 64 2) = some 7 ∧
       satisfied (s.tok 7) 2 = false ∧ ((after (.wait 0) s).core 0).wait = some (7, 2) ∧ satisfied (u.tok 7) 2 = true ∧
       ((after (.wait 0) u).core 0).block = none ∧ ((after (.waitSatisfied 0) ((after (.wait 0) s).setTok 7 3)).core 0).block = none) := by
  decide +kernel


/-! ## Tensor commands -/

def cmdCopy := command [(0, 1, 0x01), (64, 1, 0), (72, 8, 0x1000), (80, 8, 0x2000), (88, 4, 64), (92, 4, 1)]
def cmdGemm := command [(0, 1, 0x10), (4, 1, 0x22), (8, 3, 4), (12, 3, 4), (16, 3, 32), (20, 2, 1), (32, 8, 0x2000), (40, 8, 0x3000),
  (48, 8, 0x4000), (64, 4, 64), (68, 4, 64), (72, 4, 64)]
def cmdList := command [(0, 1, 0x11), (4, 1, 0x22), (8, 3, 4), (12, 3, 4), (16, 3, 32), (20, 2, 1), (32, 8, 0x2800), (64, 4, 64),
  (68, 4, 64), (72, 4, 64)]
def cmdConv := command [(0, 1, 0x12), (4, 1, 0x22), (8, 3, 1), (12, 3, 4), (16, 3, 32), (20, 2, 1), (32, 8, 0x2000), (40, 8, 0x3000),
  (48, 8, 0x4000),
  (64, 2, 1), (66, 2, 1), (68, 2, 1), (70, 2, 32), (72, 3, 0x010101), (76, 3, 0x010101), (79, 2, 0x0111), (88, 4, 64), (92, 4, 64),
  (96, 4, 64), (100, 4, 64), (104, 4, 64), (108, 4, 64)]
def cmdVector (op : Nat) := command [(0, 1, op), (8, 3, 1), (12, 3, 16), (32, 8, 0x2000), (48, 8, 0x3000), (64, 4, 64), (68, 4, 64)]
def cmdNorm := spliceAt (spliceAt (cmdVector 0x21) 76 (leBytes 0x3F800000 4)) 104 (leBytes 0x40000000 8)
def cmdSoftmax := spliceAt (cmdVector 0x22) 104 (leBytes 0x40000000 8)
def cmdSample := spliceAt (spliceAt (cmdVector 0x38) 72 [1]) 104 (leBytes 0x40000000 8)
def cmdEpilogue := command [(0, 1, 0x20), (8, 3, 1), (12, 3, 16), (32, 8, 0x2000), (64, 4, 64), (96, 8, 0x3000), (104, 4, 64)]
def cmdAmax := command [(0, 1, 0x48), (6, 2, 4), (20, 2, 1)]
def cmdCrop := command [(0, 1, 0x28), (12, 3, 1), (20, 2, 1), (32, 8, 0x2000), (48, 8, 0x3000), (64, 2, 1), (66, 2, 1), (68, 2, 1),
  (70, 2, 1), (72, 2, 1), (74, 2, 1), (84, 4, 64), (104, 4, 64)]
def cmdRegroup (op : Nat) := command [(0, 1, op), (20, 2, 1), (32, 8, 0x2000), (48, 8, 0x3000), (64, 2, 1), (66, 2, 1), (68, 2, 1),
  (70, 2, 0x0101)]
def cmdAttn (op : Nat) := command [(0, 1, op), (4, 1, 0x11), (6, 2, 12), (8, 3, 16), (12, 3, 64), (16, 3, 64), (20, 2, 1),
  (32, 8, 0x2000), (40, 8, 0x40000000), (48, 8, 0x3000),
  (64, 1, 1), (66, 1, 0x11), (68, 2, 8), (76, 4, 0x3F800000), (80, 8, 0x5000), (88, 8, 0x6000), (96, 4, 128), (100, 4, 256),
  (104, 4, 128), (108, 4, 0x4000), (112, 8, 0x40010000)]
def cmdAccept := command [(0, 1, 0x19), (20, 2, 1), (65, 1, 0x20), (80, 8, 0x5000), (88, 8, 0x6000), (96, 8, 0x7000),
  (104, 8, 0x7100), (112, 8, 0x7200)]
def cmdScan := command [(0, 1, 0x30), (6, 2, 12), (8, 3, 1), (12, 3, 16), (20, 2, 1), (32, 8, 0x2000), (40, 8, 0x3000),
  (48, 8, 0x4000), (64, 4, 64), (68, 4, 64), (72, 4, 64), (80, 8, 0x6000), (104, 8, 0x40000000)]
def cmdState := command [(0, 1, 0x31), (4, 1, 0x10), (6, 2, 12), (8, 3, 1), (12, 3, 16), (16, 3, 16), (20, 2, 1), (32, 8, 0x2000),
  (40, 8, 0x3000), (64, 4, 64), (68, 4, 64), (72, 4, 64), (80, 8, 0x6000), (104, 8, 0x40000000)]
/-- Memory in which each of them is well formed: a latent scale entry, an amax entry, a slot with a candidate, a list entry. -/
def ready : State :=
  ((((rowing.wrMem (0x800 + 29) [8]).wrMem 0x400 (spliceAt (leBytes 0 256) 24 [0, 1, 0, 0])).wrMem 0x5003 [1]).wrMem 0x2800
    (leBytes 0x8000 8 ++ leBytes 0x9000 8 ++ leBytes 0xA000 8 ++ leBytes 0 16 ++ leBytes 1 3))

theorem test_met_tensor_state : ready.railsUp = true ∧ ready.self = none ∧ ready.watches = [] ∧ block1.kind ≠ 2 ∧
    ∀ raw ∈ [cmdCopy, cmdGemm, cmdList, cmdConv, cmdEpilogue, cmdNorm, cmdSoftmax, cmdVector 0x23, cmdCrop, cmdRegroup 0x29, cmdRegroup 0x2A,
      cmdSample, cmdAmax, cmdAttn 0x18, cmdAttn 0x19, cmdAccept, cmdScan, cmdState],
      (fetched raw ready).decodes 0 (fieldLE raw 0 1) = true ∧ ((fetched raw ready).core 0).next = some raw := by decide +kernel

theorem test_met_copy : isOk ((fetched cmdCopy ready).decodeSeatCopy 0 block1 cmdCopy 0) = true := by decide +kernel
theorem test_met_gemm : isOk ((fetched cmdGemm ready).decodeGemm 0 block1 cmdGemm) = true := by decide +kernel
theorem test_met_gemm_list : isOk ((fetched cmdList ready).decodeGemmList 0 block1 cmdList) = true := by decide +kernel
theorem test_met_conv2d : isOk ((fetched cmdConv ready).decodeConv 0 block1 cmdConv false) = true := by decide +kernel
theorem test_met_conv3d : isOk ((fetched cmdConv ready).decodeConv 0 block1 cmdConv true) = true := by decide +kernel
theorem test_met_epilogue : isOk ((fetched cmdEpilogue ready).decodeEpilogue 0 block1 cmdEpilogue) = true := by decide +kernel
theorem test_met_norm : isOk ((fetched cmdNorm ready).decodeNorm 0 block1 cmdNorm) = true := by decide +kernel
theorem test_met_softmax : isOk ((fetched cmdSoftmax ready).decodeSoftmax 0 block1 cmdSoftmax) = true := by decide +kernel
theorem test_met_sfu : isOk ((fetched (cmdVector 0x23) ready).decodeSfu 0 block1 (cmdVector 0x23)) = true := by decide +kernel
theorem test_met_crop : isOk ((fetched cmdCrop ready).decodeCrop 0 block1 cmdCrop) = true := by decide +kernel
theorem test_met_space_to_channel : isOk ((fetched (cmdRegroup 0x29) ready).decodeRegroup 0 block1 (cmdRegroup 0x29) true) = true := by decide +kernel
theorem test_met_channel_to_space : isOk ((fetched (cmdRegroup 0x2A) ready).decodeRegroup 0 block1 (cmdRegroup 0x2A) false) = true := by decide +kernel
theorem test_met_sample : isOk ((fetched cmdSample ready).decodeSample 0 block1 cmdSample) = true := by decide +kernel
theorem test_met_amax : isOk ((fetched cmdAmax ready).decodeAmax 0 block1 cmdAmax) = true := by decide +kernel
theorem test_met_attn : isOk ((fetched (cmdAttn 0x18) ready).decodeAttn 0 block1 (cmdAttn 0x18) false) = true := by decide +kernel
theorem test_met_verify : isOk ((fetched (cmdAttn 0x19) ready).decodeAttn 0 block1 (cmdAttn 0x19) true) = true := by decide +kernel
theorem test_met_accept : isOk ((fetched cmdAccept ready).decodeAccept 0 block1 cmdAccept) = true := by decide +kernel
theorem test_met_scan : isOk ((fetched cmdScan ready).decodeScan 0 block1 cmdScan) = true := by decide +kernel
theorem test_met_state_step : isOk ((fetched cmdState ready).decodeState 0 block1 cmdState) = true := by decide +kernel

/-! ## Seats: another device, copy-on-write, copy steps -/

/-- Port 2 is up and leads to device 2, whose memory context 1 sees at 0x50000000, and its tokens at 0x50200000. -/
def linked (s : State) : State :=
  let s := mapped ((s.wr LNK_STAT_STATE 2 2).wr (BLK_STAT_STATE .lnk) 1 2)
  { s with routesF := [(2, 0x80000004)], tlb := s.tlb ++ [{ ctx := 1, va := 0x50000000, size := 0x200000, leaf := 0x10000000000F },
      { ctx := 1, va := 0x50200000, size := 0x200000, leaf := 0x14004000000F }] }

theorem test_met_remote_atomic :
    let d := leBytes 3 2 ++ leBytes 0 6 ++ leBytes 0x50000040 8 ++ leBytes 0 8 ++ leBytes 5 8 ++ leBytes 0 32
    let raw := command [(0, 1, 0x52), (72, 8, 0x400)]
    let s := fetched raw ((linked running).wrMem 0x400 d)
    let x : Packet := { zeroPacket with
           type := ptAtomic, vc := 2, ctx := 1, sched := block1.sched, dst := 2, addr := 0x40, aop := rAop d,
           wide := rWide d, operand := 5, compare := 0 }
    s.railsUp = true ∧ s.decodes 0 0x52 = true ∧ s.self = none ∧ onlyFields raw atomicFields = true ∧ got (s.readV (.core 0) 1 0x400 64) = some d ∧
      rOp d = 3 ∧ (got (s.remotePlan (.core 0) 1 d)).map (fun pl => pl.parts.map (fun p => (s.isHere p, gpaDev p.gpa, gpaLocal p.gpa))) =
        some [(false, 2, 0x40)] ∧ s.portFor 2 x = some 2 ∧ s.blk .lnk 2 = 1 ∧ (s.port 2).freeSlot = some 0 ∧
      ((after (.atomic 0) s).core 0).out = 1 := by decide +kernel

/-- Entry 3 of the roster references pool page 1 in its page list at 0x38100; its copy list at 0x38080 names page `c`. -/
def shared (refs c : Nat) : State :=
  let x : REnt := { (default : REnt) with id := 3, state := 2, ctx := 1, dir := 0x38000, pages := 1 }
  let d : Dir := { ctx := 1, at' := 0x38000, layers := 1, fmt := 0, elems := 16, stride := 64, tpp := 256, cap := 4 }
  let s := [(ROS_POOL_CTL_CONTEXT, 1), (ROS_POOL_SIZE_SIZE, 2), (ROS_POOL_PAGE_BASE, 0), (ROS_POOL_REF_BASE, 0x39000),
    (ROS_POOL_STACK_BASE, 0x3A000)].foldl (fun (t : State) f => t.wr f.1 f.2) rowing
  let s := (s.setEntry x).wrMem 0x38000 (d.header ++ leBytes (d.list 0) 8)
  let s := ((s.wrMem d.copyList (leBytes c 4)).wrMem (d.list 0) (leBytes (0x10000 + 3) 8 ++ leBytes 0 8)).wrMem 0x39000 (leBytes 1 2 ++ leBytes refs 2)
  s.setCore 0 { (default : Core) with block := some block1, next := some cmdCopy, cow := some (3, 0, 0) }

theorem test_met_cow_alone :
    let s := shared 1 noPage
    let x := s.entry 3
    let d := parseDir 1 0x38000 ((got (s.readV (.core 0) 1 0x38000 64)).getD [])
    s.railsUp = true ∧ (s.core 0).cow = some (3, 0, 0) ∧ (s.core 0).stalled = false ∧ (s.core 0).block.isSome = true ∧
      got (s.readV (.core 0) x.ctx (d.list 0) 16) = some (leBytes (0x10000 + 3) 8 ++ leBytes 0 8) ∧ got (s.refsOf x.pool 1) = some 1 ∧
      isOk (s.rosWrite x.ctx [{ va := d.list 0, data := leBytes (0x10000 + 1) 8 }]) = true ∧
      (after (.cowCopy 0) s).rdMem (d.list 0) 1 = [1] := by decide +kernel

/-- The bytes of the page, which decide nothing here, are not evaluated: that the writes can be made is shown with the first of them. -/
theorem test_met_cow_shared :
    let s := shared 2 0
    let x := s.entry 3
    let d := parseDir 1 0x38000 ((got (s.readV (.core 0) 1 0x38000 64)).getD [])
    got (s.refsOf x.pool 1) = some 2 ∧ got (s.readV (.core 0) x.ctx d.copyList 4) = some [0, 0, 0, 0] ∧ fmtMx d.fmt = false ∧
      isOk (s.readV (.core 0) 1 0x10000 65536) = true ∧ isOk (s.rosWrite2 (s.poolCtx x.pool) [{ va := s.poolPage x.pool 0, data := [0] }] x.ctx
        [{ va := d.list 0, data := s.listBytes d x.pool 0 }, { va := d.copyList, data := leBytes noPage 4 }]) = true := by decide +kernel

theorem test_met_step_copy :
    let s := fetched cmdCopy (rowing.wrMem 0x1000 [7, 8])
    let r := { emptyRun cmdCopy with m := 2, n := 64, steps := 2 }
    let s := s.setCore 0 { (s.core 0) with next := none, run := some r }
    let d := seatDesc r.raw r.m r.n
    let data := [7, 8] ++ leBytes 0 62
    s.railsUp = true ∧ s.hasStep 0 = true ∧ s.self = none ∧ s.regWrites = [] ∧ dKind d = 0 ∧ dMcast d = false ∧ dWatch d = false ∧
      (seatPieces d)[0]? = some (0, 0, 64) ∧ got ((s.uncached 1 [(rowVa (dSrc d) (dSrcStride d) 0, 64)]).readV (.core 0) 1 (rowVa (dSrc d) (dSrcStride d) 0) 64) = some data ∧
      isOk (s.checkWrites 1 [{ va := rowVa (dDst d) (dDstStride d) 0, data := data }]) = true ∧ spanPages 0x2000 64 = [(0x2000, 64)] ∧
      (got (s.translate 1 0x2000 .write)).map (fun x => (gpaDev x.gpa, gpaLocal x.gpa, x.wop)) = some (s.dev, 0x2000, 0) ∧
      (regionOf 0x2000).1 = .hbm ∧ s.offLengths 0x2000 64 = true ∧ (after (.step 0 true) s).rdMem 0x2000 2 = [7, 8] := by decide +kernel

/-! ## Roster, cache pools, DMA -/

def rosCue : Cue := { (default : Cue) with kind := 4, ptr := 0x400 }

theorem test_met_roster_cues :
    (let raw := command [(0, 1, 0x41), (2, 2, 7), (64, 2, 0x4003), (80, 8, 0x8000), (88, 8, 0x9000), (96, 3, 64), (100, 1, 1)]
     let s := withCue rosCue (rowing.wrMem 0x400 raw)
     s.railsUp = true ∧ (s.readyCue 0).map (fun x => x.2) = some (rosCue, 0) ∧ s.ctxRefuses 1 = none ∧ s.recordStop 1 rosCue = none ∧
       s.blk .ros = 1 ∧ s.rosWait = none ∧ got (s.readV (.cox 0) 1 0x400 128) = some raw ∧ s.admitOk 1 raw = true ∧ s.rd ROS_REQ_COUNT = 0 ∧
       (after (.admission 0) s).rd ROS_REQ_COUNT = 1) ∧
    (let raw := command [(0, 1, 0x40), (2, 2, 7), (64, 2, 3), (66, 1, 2), (72, 8, 0x800)]
     let s := withCue rosCue ((rowing.wrMem 0x400 raw).wrMem 0x810 [9])
     let b := leBytes 0 16 ++ [9] ++ leBytes 0 15
     forkOk raw = true ∧ s.forkAborted = [] ∧ got (s.readV .roster 1 0x800 32) = some b ∧ kidsOk 2 b = true ∧
       (after (.fork 0) s).rosReqs = [{ ctx := 1, raw := raw, kids := [(0, 0), (9, 0)] }] ∧ (after (.fork 0) s).rd ROS_REQ_COUNT = 2) := by
  decide +kernel

theorem test_met_roster_release :
    let raw := command [(0, 1, 0x42), (2, 2, 7), (64, 2, 3)]
    let s := withCue rosCue ((rowing.setEntry { (default : REnt) with id := 3, state := 2, ctx := 1 }).wrMem 0x400 raw)
    got (s.readV (.cox 0) 1 0x400 128) = some raw ∧ releaseOk raw = true ∧ (s.entry 3).state = 2 ∧
      ((after (.release 0) s).entry 3).state = 4 := by decide +kernel

theorem test_met_pools :
    (let s := mapped State.reset
     let s := (((s.wr ROS_POOL_CTL_CONTEXT 1).wr ROS_POOL_SIZE_SIZE 2).wr ROS_POOL_REF_BASE 0x9000).wr ROS_POOL_STACK_BASE 0xA000
     s.railsUp = true ∧ s.stkState = 0 ∧ s.is ROS_POOL_CTL_ENABLE = false ∧ s.is ROS_POOL_CTL_RESTORE = false ∧ s.poolCtx 0 = 1 ∧
       isOk ((({ s with wildPools := s.wildPools.filter (· != 0) } : State).off ROS_POOL_CTL_FAULTED).rosWrite (s.poolCtx 0)
         [{ va := s.refAddr 0 0, data := leBytes 0 (2 * s.poolSize 0) },
          { va := s.stackAddr 0 0, data := (List.range (s.poolSize 0)).flatMap (fun k => leBytes (s.poolSize 0 - 1 - k) 4) }]) = true ∧
       (after (.poolEnable 0) s).poolFreeCount 0 = 2) ∧
    (let s := (State.reset.on ROS_POOL_CTL_ENABLE).on ROS_POOL_CTL_FAULTED
     s.railsUp = true ∧ s.stkState = 0 ∧ s.is ROS_POOL_CTL_ENABLE = true ∧ s.offHint 0 = [] ∧ (after (.poolEnable 0) s).is ROS_POOL_CTL_FAULTED = false) ∧
    (armed.railsUp = true ∧ armed.stkState ≠ 0 ∧ (after (.poolEnable 0) armed).is (BLK_STAT_CFG_ERR .ros) = true) ∧
    (let s := running.wr ROS_POOL_ADD_AT 5
     s.railsUp = true ∧ Tab.find s.rosAdds 0 = none ∧ s.catchPassed (s.rd ROS_POOL_ADD_AT) = false ∧
       Tab.find (after (.rosPoolAdd 0 3) s).rosAdds 0 = some { count := 3, due := 5, late := false }) := by decide +kernel

/-- A descriptor: kind and flags, source, destination, bytes of a row, rows, increment at a token's address. -/
def descriptor (kind src dst n rows : Nat) (ptr inc : Nat) : List Byte :=
  leBytes (2 * kind) 4 ++ leBytes 7 4 ++ leBytes src 8 ++ leBytes dst 8 ++ leBytes n 4 ++ leBytes rows 4 ++ leBytes 64 4 ++ leBytes 64 4 ++
    leBytes ptr 8 ++ leBytes inc 2 ++ leBytes 0 14

/-- Channel 7 of crew 0 has a list of one descriptor at 0x400, for cue 0. -/
def withList (raw : List Byte) : State :=
  let s := (rowing.wrMem 0x400 raw).wr CDM_CH_STAT_STATE 1 0 7
  let s := s.setCox 0 { (default : Cox) with running := [(0, { left := 1, status := 1, flags := 0, order := 8, detail := [] })] }
  s.setChan 0 7 { (default : Chan) with cue := some 0, ctx := 1, addr := 0x400, count := 1 }

/-- What `DescriptorsMoveTheirBytes` asks of a descriptor of one row. -/
def moves (raw data : List Byte) : Bool :=
  let s := withList raw
  let u := s.takeDesc 0 7 raw
  let ctx := (u.chan 0 7).ctx
  s.rd PWR_STAT_STATE == 0 && s.chanGoes 0 7 && (s.chanDesc 0 7).map got == some (some raw) && s.owned 0 7 raw && descOk raw false &&
    !dMcast raw && !dWatch raw && dTotal raw != 0 && s.watches.isEmpty && s.objs.isEmpty && (s.chan 0 7).desc.isNone && (s.chan 0 7).error.isNone && isOk (u.prepare 0 ctx raw) &&
    (got (u.readRows (.chan 0 7) ctx (srcRows raw))).map (moveRows raw) == some [data] && dstRows raw == [(0x2000, data.length)] &&
    decide (u.noteReads ctx (srcRows raw) = u) && spanPages 0x2000 data.length == [(0x2000, data.length)] &&
    (got (u.translate ctx 0x2000 .write)).map (fun x => x.gpa) == some 0x2000 && s.dev == 0 && s.offLengths 0x2000 data.length

theorem test_met_descriptors :
    moves (descriptor 0 0x1000 0x2000 64 1 0 0) (leBytes 0 64) = true ∧
    moves (descriptor 2 0x1234 0x2000 64 1 0 0) (fillRow (descriptor 2 0x1234 0x2000 64 1 0 0) 64) = true ∧
    moves (descriptor 1 0x1000 0x2000 1 5 0 0) (leBytes 0 5) = true ∧ (regionOf 0x2000).1 = .hbm ∧
    dKind (descriptor 1 0x1000 0x2000 1 5 0 0) = 1 ∧ dKind (descriptor 2 0x1234 0x2000 64 1 0 0) = 2 := by decide +kernel

theorem test_dma_fill : (after (.dmaFill 0 7) (withList (descriptor 2 0x1234 0x2000 64 1 0 0))).rdMem 0x2000 4 = [0x34, 0x12, 0, 0] := by
  decide +kernel

theorem test_met_descriptor_ends :
    let raw := descriptor 0 0x1000 0x2000 64 1 0 0
    let d : DescRun := { raw := raw, addr := 0x400, moved := true, status := 1, cause := 0, flags := 0, done := 64, sent := false }
    let s := (withList raw).setChan 0 7 { (default : Chan) with cue := some 0, ctx := 1, addr := 0x400, count := 1, pos := 1, desc := some d }
    s.railsUp = true ∧ s.ringMode 0 7 = false ∧ s.chState 0 7 ≤ 3 ∧ dMsi raw = false ∧ s.readBackBad 1 raw = false ∧ d.stage = 0 ∧ s.regWrites = [] ∧ s.rd CTX_STAT_STATE 1 ≠ 2 ∧ s.readBackNeeds (.chan 0 7) 1 raw = none ∧
      (Tab.find (s.cox 0).running 0).isSome = true ∧ fieldLE raw 40 8 = 0 ∧ (after (.descriptorComplete 0 7) s).chState 0 7 = 0 ∧
      (let raw := descriptor 0 0x1000 0x2000 64 1 0x60000014 3
       let s : State := { s with tlb := s.tlb ++ [{ ctx := 1, va := 0x60000000, size := 0x200000, leaf := 0x4004000000F }] }
       fieldLE raw 40 8 = 0x60000014 ∧ (match s.signalAt (.chan 0 7) 1 0x60000014 3 true with | .made u => u.tok 5 == 3 | _ => false) = true) := by
  decide +kernel

theorem test_met_channels :
    (let s := ((((rowing.wr CDM_CH_STAT_STATE 0 0 7).wr CDM_CH_CTL_MODE 1 0 7).wr CDM_CH_CTL_CONTEXT 1 0 7).wr CDM_CH_RING_BASE 0x400 0 7).wr
       CDM_CH_RING_CTL_INDEX 3 0 7
     let s : State := { s.setTok (tokCrew 0 3) 1 with stk := { s.stk with ended := true } }
     s.railsUp = true ∧ chanExists 0 7 = true ∧ s.chanGoes 0 7 = true ∧ (s.chan 0 7).desc = none ∧
       (s.chanDesc 0 7).map got = some (some (leBytes 0 64)) ∧ s.owned 0 7 (leBytes 0 64) = false ∧
       (after (.ownerWait 0 7) s).clock = s.clock + 16000) ∧
    (let s := rowing.wr CDM_CH_STAT_STATE 5 0 7
     s.chState 0 7 = 5 ∧ (after (.chEnable 0 7) s).chState 0 7 = 0) ∧
    (let s := rowing.wr CDM_CH_STAT_STATE 0 0 7
     s.chState 0 7 ≤ 3 ∧ s.draining 0 7 = false ∧ (after (.chDisableReq 0 7) s).chState 0 7 = 4) ∧
    (let s := withList (descriptor 0 0x1000 0x2000 64 1 0 0)
     let s := s.takeDesc 0 7 (descriptor 0 0x1000 0x2000 64 1 0 0)
     s.chState 0 7 ≤ 4 ∧ (s.chan 0 7).desc.isSome = true) ∧
    (let s := (withList (leBytes 0 64)).wr CDM_CH_STAT_STATE 4 0 7
     s.chState 0 7 = 4 ∧ (s.chan 0 7).desc = none ∧ s.readsFly (.chan 0 7) = false ∧ s.ringMode 0 7 = false ∧ s.drainRuns 0 7 = false ∧
       (after (.channelDisabled 0 7) s).chState 0 7 = 5) := by decide +kernel

/-! ## Links -/

def up2 : State := ((State.reset.wr LNK_STAT_STATE 2 2).wr (BLK_STAT_STATE .lnk) 1 2).setPort 2 { (default : Port) with credits := List.replicate 8 64 }

def frame0 (ps : List Packet) (good : Bool) (seq : Nat) : Frame :=
  { seq := seq, ack := 4095, nak := false, crVc := 0, crClass := 0, crCount := 0, good := good, fixed := 0, packets := ps }

def training (ph : Nat) : State := (State.reset.wr LNK_STAT_STATE 1 2).setPort 2 { (default : Port) with phase := ph, peerCr := true }

def putPkt : Packet := { zeroPacket with type := ptPut, vc := 1, ctx := 1, dst := 2, addr := 0x40, data := [1, 2, 3, 4] }

theorem test_met_frames :
    let s := up2
    s.railsUp = true ∧ s.portUp 2 = true ∧ (s.port 2).rxSeq = 0 ∧ (s.port 2).replays < 16 ∧ vcOf putPkt.type = some putPkt.vc ∧
      ((after (.frame 2 (frame0 [putPkt] true 0)) s).port 2).rxSeq = 1 ∧
      ((after (.frame 2 (frame0 [] false 0)) s).port 2).nak = true ∧ ((after (.frame 2 (frame0 [] true 5)) s).port 2).nak = true := by
  decide +kernel

theorem test_met_retrain :
    (let s := up2.setPort 2 { (default : Port) with replay := [frame0 [] true 0] }
     s.railsUp = true ∧ s.portUp 2 = true ∧ (s.port 2).replay ≠ [] ∧ (after (.ackTimeout 2) s).rd LNK_STAT_STATE 2 = 4 ∧
       (after (.frameLockLoss 2) s).rd LNK_STAT_STATE 2 = 4 ∧ (after (.retrain 2) s).rd LNK_STAT_STATE 2 = 4) ∧
    (let s := up2.wr LNK_LANES_ACTIVE_MASK 0xFFFF 2
     let x : Inst := { kind := 8, block := 2, pos := 3 }
     s.rd LNK_LANES_ACTIVE_MASK 2 = 0xFFFF ∧ s.is LNK_CTL_LANE_AUTO 2 = true ∧ s.phase x = none ∧ 0 < s.spareLeft x ∧
       s.rd LNK_RETRAIN_ERR_LIMIT 2 < 1000000 ∧ (after (.laneSpare 2 3) s).rd LNK_LANE_MAP_SPARED 2 = 3 ∧
       (after (.laneErrorWindow 2 (List.replicate 3 0 ++ [1000000])) s).rd LNK_LANE_MAP_SPARED 2 = 3) := by decide +kernel

theorem test_met_training :
    (∀ ph, ph ∈ [1, 2, 3, 6] → (training ph).railsUp = true ∧ (training ph).training 2 = true ∧ ((training ph).port 2).phase = ph ∧
      ((training ph).port 2).peerCr = true ∧ (training ph).phase { kind := 13, block := 2, pos := 0 } = none ∧ ((training ph).port 2).replay = [] ∧
      ((training ph).port 2).tx = []) ∧
    widthFor ((List.range 17).filter (fun l => !bitOf (((training 3).port 2).failed ||| (2 ^ 17 - 1 - 0xFF % 2 ^ 17)) l)).length = some 1 ∧
    (let s := (training 4).on LNK_PEER_VALID 2
     s.training 2 = true ∧ (s.port 2).phase = 4 ∧ s.is LNK_PEER_VALID 2 = true ∧ ((after (.trainingPhase 2 0) s).port 2).phase = 5) ∧
    (let s := (training 5).setPort 2 { (training 5).port 2 with rttCount := 1024, rttRaw := 1024 * 320, rttSum := 1024 * 300 }
     s.training 2 = true ∧ (s.port 2).phase = 5 ∧ 1024 ≤ (s.port 2).rttCount ∧ (s.port 2).rttRaw ≤ 16000 * (s.port 2).rttCount ∧
       (s.port 2).rttSum % (2 * (s.port 2).rttCount) = 0 ∧ (after (.trainingPhase 2 0) s).rd LNK_LATENCY_LAT 2 = 150) ∧
    1 ≤ (training 3).rd LNK_CTL_MIN_WIDTH 2 ∧ (after (.trainingPhase 2 0xFF) (training 3)).rd LNK_STAT_WIDTH 2 = 1 ∧
    (after (.trainingPhase 2 0xFF) (training 6)).rd LNK_STAT_STATE 2 = 2 ∧ (after (.trainingTimeout 2) (training 1)).rd LNK_STAT_STATE 2 = 5 := by
  decide +kernel

/-- A management message at the head of VC3 of port 2. -/
def told (m : MgmtMsg) (s : State) : State := s.setPort 2 { s.port 2 with rx := [(100, { zeroPacket with type := ptMgmt, vc := 3, mgmt := m })] }

theorem test_met_mgmt :
    ((told (.identity 7 3 1 0) up2).railsUp = true ∧ ((told (.identity 7 3 1 0) up2).mgmtAt 2).isSome = true ∧
      (after (.mgmt 2) (told (.identity 7 3 1 0) up2)).rd LNK_PEER_DEV 2 = 7) ∧
    (((told (.measure 5) up2).mgmtAt 2).isSome = true ∧ ((after (.mgmt 2) (told (.measure 5) up2)).port 2).tx.length = 1) ∧
    (let s := told (.reply 10 40 60) (training 5)
     (s.mgmtAt 2).isSome = true ∧ (s.port 2).phase = 5 ∧ (s.port 2).rttCount < 1024 ∧ ((after (.mgmt 2) s).port 2).rttSum = 70) ∧
    (let s := told (.credits 0x20001 3 4 5) (training 4)
     (s.mgmtAt 2).isSome = true ∧ s.training 2 = true ∧ (s.port 2).grant = [] ∧ (s.port 2).credits = [] ∧
       ((after (.mgmt 2) s).port 2).credits = [1, 2, 3, 0, 4, 0, 5, 0]) := by decide +kernel

theorem test_met_packets_leave :
    (let s := up2
     s.railsUp = true ∧ s.portUp 2 = true ∧ (s.port 2).replay.length < 256 ∧ s.nextOut 2 = none ∧
       ((after (.packetSend 2) s).port 2).nextSeq = 1) ∧
    (let s := up2.enqueue 2 putPkt
     s.nextOut 2 = some (0, 0, s.clock, putPkt) ∧ ((after (.packetSend 2) s).port 2).tx = []) ∧
    (let s : State := { up2 with routesF := [(7, 0x80000004)] }
     let p := { putPkt with dst := 7 }
     let s := s.setPort 0 { s.port 0 with rx := [(0, p)] }
     s.forwardVc 0 = some (1, p) ∧ p.hops < 15 ∧ s.portFor 7 p = some 2 ∧ s.blk .lnk 2 ≠ 2 ∧
       ((after (.packetForward 0) s).port 2).tx = [(0, s.clock, { p with hops := 1 })]) := by decide +kernel

/-! ## Remote operations and packets -/

def remoteDesc (op len loc : Nat) : List Byte :=
  leBytes op 4 ++ leBytes len 4 ++ leBytes 0x50000040 8 ++ leBytes loc 8 ++ leBytes 0 16 ++
    (if op = 1 then leBytes 0x50200004 8 ++ leBytes 3 2 else leBytes 0 10) ++ leBytes 0 14

/-- A REMOTE cue whose descriptor is at 0x400. -/
def remoteCue (d : List Byte) : State := withCue { (default : Cue) with kind := 3, ptr := 0x400 } ((linked running).wrMem 0x400 d)

/-- What `RemoteCuesSendTheirPackets` asks of a descriptor; the packet must go to port 2. -/
def sends (d : List Byte) (vc : Nat) : Bool :=
  let s := remoteCue d
  let q : Cue := { (default : Cue) with kind := 3, ptr := 0x400 }
  s.railsUp && (s.readyCue 0).map (fun x => x.2) == some (q, 0) && s.ctxRefuses 1 == none && s.recordStop 1 q == none &&
    got (s.readV (.cox 0) 1 0x400 64) == some d && remoteBytes d != 0 &&
    (got (s.remotePlan (.cox 0) 1 d)).map (fun pl => (pl.parts.map (fun p => (s.isHere p, gpaDev p.gpa, gpaLocal p.gpa, p.n)),
      decide (s.noteReads 1 [(rLocal d, pl.data.length)] = s), pl.sig)) ==
      some ([(false, 2, 0x40, if rOp d = 3 then 4 else rLength d)], true, if rOp d = 1 then 0x140040000004 else 0) &&
    s.portFor 2 { zeroPacket with vc := vc, addr := 0x40 } == some 2 && s.blk .lnk 2 != 2 && (s.port 2).freeSlot == some 0

theorem test_met_remote_put : sends (remoteDesc 0 64 0x2000) 1 = true := by decide +kernel
theorem test_met_remote_put_signal : sends (remoteDesc 1 64 0x2000) 1 = true := by decide +kernel
theorem test_met_remote_get : sends (remoteDesc 2 64 0x2000) 2 = true := by decide +kernel
theorem test_met_remote_cue_atomic : sends (remoteDesc 3 0 0) 2 = true := by decide +kernel

theorem test_remote_put : ((after (.remotePut 0) (remoteCue (remoteDesc 0 64 0x2000))).queued 2).map (fun p => (p.type, p.dst, p.addr, p.data.length)) =
    [(ptPut, 2, 0x40, 64)] := by decide +kernel

/-- A packet from device 2 stands at the head of the receive buffer of port 2. -/
def packetIn (p : Packet) (s : State) : State := s.setPort 2 { s.port 2 with rx := [(100, p)] }

def write2 (type addr aux inc : Nat) (data : List Byte) : Packet :=
  { zeroPacket with type := type, vc := 1, src := 2, ctx := 1, addr := addr, aux := aux, inc := inc, data := data, slot := 5, port := 1 }

/-- What every served packet meets. -/
def arrives (p a : Packet) : Bool :=
  let s := packetIn p (linked running)
  s.railsUp && s.servable 2 p.vc == some p && !s.packetWaits p && s.filterFrame p == none && s.portFor 2 a == some 2

def ack2 : Packet := { zeroPacket with type := ptAck, ctx := 1, dst := 2, slot := 5, port := 1, status := stSuccess }

theorem test_met_write_packets :
    (let p := write2 ptPut 0x40 0 0 [1, 2, 3, 4]
     let s := packetIn p (linked running)
     arrives p ack2 = true ∧ (regionOf p.addr).1 = .hbm ∧ s.offLengths p.addr 4 = true ∧ isOk (s.checkLocal 2 1 p.addr 4 .put) = true ∧
       (after (.putPacket 2) s).rdMem 0x40 4 = [1, 2, 3, 4]) ∧
    (let p := write2 ptPutSignal 0x40 0x40040000014 7 [1, 2, 3, 4]
     let s := packetIn p (linked running)
     arrives p ack2 = true ∧ isOk (s.checkLocal 2 1 p.addr 4 .put) = true ∧ (regionOf p.aux).1 = .tokens ∧
       isOk (s.checkLocal 2 1 p.aux 4 .atomic) = true ∧ (after (.putSignalPacket 2) s).tok 5 = 7) ∧
    (let p := write2 ptSignal 0 0x40040000014 7 []
     let s := packetIn p (linked running)
     arrives p ack2 = true ∧ isOk (s.checkLocal 2 1 p.aux 4 .atomic) = true ∧ (after (.signalPacket 2) s).tok 5 = 7) ∧
    (let p := write2 ptPut 0x7FFFFFF0040 0 0 (leBytes 0x10003 4)
     let s : State := { (packetIn p (linked running)).wr DEV_DOMAIN_MAP 0xFFFFFFFF with msixTab := [(msixKey 1 15, 0)] }
     let s := s.on HIF_LINK_STAT_FRONT
     arrives p ack2 = true ∧ (regionOf p.addr).1 = .host ∧ isOk (s.checkLocal 2 1 p.addr 4 .put) = true ∧ vectorWordOk 0x10003 = true ∧
       bits 0x10003 0 11 < msixVectors 1 ∧ s.msixMasked 1 3 = false ∧ (after (.trigger 2) s).hostOut = [HostOut.msix 1 3]) := by decide +kernel

def read2 (type addr aux aop : Nat) : Packet :=
  { zeroPacket with type := type, vc := 2, src := 2, ctx := 1, addr := addr, aux := aux, aop := aop, operand := 9, slot := 5, port := 1 }

theorem test_met_read_packets :
    (let p := read2 ptGet 0x40 64 0
     let s := packetIn p (linked running)
     arrives p { ack2 with type := ptGetData, data := s.rdMem 0x40 64 } = true ∧ isOk (s.checkLocal 2 1 p.addr 64 .get) = true ∧
       s.poisoned p.addr 64 = false ∧ ((after (.getPacket 2) s).queued 2).map (fun p => p.type) = [ptGetData]) ∧
    (∀ k, k ∈ [0, 2, 3] →
      (let p := read2 ptAtomic 0x40040000014 0 k
       let s := packetIn p (linked running)
       arrives p { ack2 with type := ptAtomicResp } = true ∧ isOk (s.checkLocal 2 1 p.addr 4 .atomic) = true ∧ p.addr % 4 = 0) ∧
      (let p := read2 ptAtomic 0x40 0 k
       let s := packetIn p (linked running)
       arrives p { ack2 with type := ptAtomicResp } = true ∧ isOk (s.checkLocal 2 1 p.addr 4 .atomic) = true ∧ s.poisoned p.addr 4 = false ∧
         s.offLengths p.addr 4 = true)) ∧
    (let p := read2 ptAtomic 0x40 0 1
     let s := packetIn p (linked running)
     arrives p { ack2 with type := ptAtomicResp } = true ∧ isOk (s.checkLocal 2 1 p.addr 4 .atomicFp) = true) := by decide +kernel

theorem test_atomics :
    (after (.add 2) (packetIn (read2 ptAtomic 0x40040000014 0 0) (linked running))).tok 5 = 9 ∧
    (after (.swap 2) (packetIn (read2 ptAtomic 0x40 0 2) (linked running))).rdLE 0x40 4 = 9 ∧
    (after (.cas 2) (packetIn (read2 ptAtomic 0x40 0 3) (linked running))).rdLE 0x40 4 = 9 ∧
    (after (.addFp 2) (packetIn { read2 ptAtomic 0x40 0 1 with operand := 0x3F800000 } (linked running))).rdLE 0x40 4 = 0x3F800000 := by
  decide +kernel

/-- Slot 5 of port 2 waits for the answer of an operation's last packet. -/
def waiting (owner : Owner) (left : Nat) (p : Packet) (dest : Option Nat) : State :=
  let s := linked running
  let s : State := { s with ops := [(3, { owner := owner, left := left, worst := none, signal := none, zero := false, ctx := 1, sched := true })] }
  let s := s.setPort 2 { (default : Port) with slots := [(5, { op := 3, packet := { p with slot := 5, port := 2 }, dest := dest, due := 99999 })] }
  s.setCox 0 { (default : Cox) with running := [(0, { left := 1, status := 1, flags := 0, order := 8, detail := [] })] }

def answer (type status : Nat) : Packet := { zeroPacket with type := type, src := 2, dst := 0, ctx := 1, slot := 5, port := 2, status := status }

theorem test_met_responses :
    (let s := packetIn (answer ptAck 1) (waiting (.cue 0 0) 1 { zeroPacket with type := ptPut } none)
     s.railsUp = true ∧ s.responseAt 2 ptAck = some (answer ptAck 1) ∧ (s.txnOf (answer ptAck 1)).isSome = true ∧ s.waitPkts = [] ∧
       (Tab.find (s.cox 0).running 0).isSome = true ∧ statusOk 1 = true ∧ ((after (.ack 2) s).port 2).slots = []) ∧
    (let s := packetIn (answer ptNak 0x21) (waiting (.cue 0 0) 1 { zeroPacket with type := ptPut } none)
     s.responseAt 2 ptNak = some (answer ptNak 0x21) ∧ statusOk 0x21 = false ∧ ((after (.nak 2) s).port 2).slots = []) ∧
    (let s := packetIn { answer ptGetData 1 with data := [8, 9] } (waiting (.bar 1 4) 2 { zeroPacket with type := ptGet, aux := 2 } (some 0))
     let s : State := { s with barWaits := [(4, { kind := 0, func := 1, addr := 0, len := 4, data := [0, 0, 0, 0], due := 99999, sent := true })] }
     (s.responseAt 2 ptGetData).isSome = true ∧ (Tab.find s.barWaits 4).isSome = true ∧ ((after (.getData 2) s).port 2).slots = []) ∧
    (let s := packetIn (answer ptAtomicResp 1) (waiting (.core 0) 1 { zeroPacket with type := ptAtomic } none)
     (s.responseAt 2 ptAtomicResp).isSome = true ∧ ((after (.atomicResp 2) s).port 2).slots = []) ∧
    (let s := waiting (.core 0) 1 { zeroPacket with type := ptAtomic } none
     s.slotLeft 2 5 = true ∧ (s.core 0).error = none ∧ ((after (.rmtTimeout 2 5) s).port 2).slots = []) := by decide +kernel

/-! ## Memory controllers, tier manager, MMU -/

theorem test_met_memories :
    (let s := State.reset
     s.railsUp = true ∧ memPlace (3 * 2 ^ 30) 0 0 = some (false, 1, 3) ∧ bankOk false 1 3 = true ∧ s.memCredit false 1 2 = true ∧ (s.bank (bankKey false 1 3)).bounced = [] ∧
       (s.bank (bankKey false 1 3)).queue.length < bankQuota false ∧
       ((after (.memoryRequest (3 * 2 ^ 30) 2 0 0) s).bank (bankKey false 1 3)).queue = [(2, s.clock)]) ∧
    (let s := State.reset.setBank (bankKey true 0 3) { (default : Bank) with queue := List.replicate 200 (16, 0) }
     memPlace 0x8000000000 0 3 = some (true, 0, 3) ∧ bankOk true 0 3 = true ∧ s.memCredit true 0 2 = true ∧ bankQuota true ≤ (s.bank (bankKey true 0 3)).queue.length ∧
       ((after (.memoryRequest 0x8000000000 2 0 3) s).bank (bankKey true 0 3)).held = true) ∧
    (let s := State.reset.setBank (bankKey false 0 3) { (default : Bank) with queue := [(2, 5), (3, 4)] }
     let x := bankChannel false 0 3
     s.testHolds x = false ∧ oldest (s.bank (bankKey false 0 3)).queue = some (3, 4) ∧
       ((after (.memoryServe false 0 3 0 .clean) s).bank (bankKey false 0 3)).queue = [(2, 5)] ∧
       (let u : State := { s with retired := [(x, 0)] }
        (u.phase x).isSome = true ∧ u.testHolds x = false ∧ oldest ((u.bank (bankKey false 0 3)).queue.filter (fun y => y.1 == 2)) = some (2, 5))) ∧
    (let b : Bank := { (default : Bank) with bounced := [(2, 5)] }
     let s := State.reset.setBank (bankKey false 0 3) b
     b.held = false ∧ b.bounced.filter (fun x => x.1 == 2) = [(2, 5)] ∧
       (s.setBank (bankKey false 0 3) { b with bounced := b.bounced.filter (fun x => x.1 != 2) }).memCredit false 0 2 = true ∧
       ((after (.bounceReissue false 0 3 2) s).bank (bankKey false 0 3)).queue = [(2, 5)]) := by decide +kernel

theorem test_met_throttle : State.reset.rd HBM_THROTTLE_LEVEL = 0 ∧ levelEntry 1 < 100 + 2 ∧ levelOf 255 = 4 ∧
    (∀ l, l < 4 → (State.reset.wr HBM_THROTTLE_LEVEL (l + 1)).rd HBM_THROTTLE_LEVEL = l + 1 ∧
      (levelOf (levelEntry (l + 1) - 1) ≤ l ∧ levelEntry (l + 1) < levelEntry (l + 1) - 1 + 2) ∧
      levelEntry (l + 1) - 2 + 2 ≤ levelEntry (l + 1)) ∧
    (after (.hbmTemperatureReadout 0 255) State.reset).rd HBM_THROTTLE_LEVEL = 4 := by decide +kernel

/-- Context 2 has tables from 1 MiB on, with room for the 32 pages from address 0 on: page 0 is mapped to frame 2. -/
def tables (s : State) : State :=
  (((((mapped s).wr CTX_PT_ROOT_ROOT 0x80 2).wrMem 0x100000 (leBytes (1 + 0x1040 * 65536) 8)).wrMem 0x104000 (leBytes (1 + 0x1050 * 65536) 8)).wrMem
    0x105000 (leBytes (1 + 0x1060 * 65536) 8)).wrMem 0x106000 (leBytes (0xF + 2 * 65536) 8)

/-- A tier command stands at HEAD. -/
def tierCmd (k b1 tier : Nat) (va size id : Nat) : List Byte :=
  leBytes k 1 ++ leBytes b1 1 ++ leBytes 7 2 ++ leBytes 2 1 ++ leBytes tier 1 ++ leBytes 0 2 ++ leBytes va 8 ++ leBytes size 8 ++ leBytes id 4 ++ leBytes 0 36

def object0 : Obj := { (default : Obj) with ctx := 2, pages := [(0x20000, 5)], tier := 1 }

def tiered (raw : List Byte) : State :=
  let s := [(TIER_RING_BASE, 0x400), (TIER_RING_CTL_ENABLE, 1), (TIER_TABLE_SIZE_RECORDS, 16), (TIER_TABLE_BASE, 0x80000),
    (TIER_POOL_LPD_LIMIT, 100)].foldl (fun (t : State) f => t.wr f.1 f.2) (tables running)
  let s : State := { s with objs := [(3, object0)] }
  (s.wrMem 0x400 raw).setTok (tokGlobal 0x3000) 1

/-- What `TierCommandsActOnObjects` asks of every command. -/
def tierReady (raw : List Byte) : Bool :=
  let s := tiered raw
  s.rd PWR_STAT_STATE == 0 && s.tierOp (fieldLE raw 0 1) && got s.tierHead == some raw && fieldLE raw 32 8 == 0 && !s.tierRefuses && tierOk raw &&
    !s.faultHeld (fun _ a => a.1 == .tier) && s.rosAborted.isEmpty

theorem test_met_tier_commands :
    tierReady (tierCmd 1 1 0 0x10000 0x10000 0) = true ∧ (∀ k, k ∈ [2, 3, 5, 6] → tierReady (tierCmd k 1 0 0 0 3) = true) ∧
    tierReady (tierCmd 4 0 2 0 0 3) = true ∧ Tab.find (tiered []).objs 3 = some object0 ∧ object0.kind = 0 ∧ object0.move = none ∧
    (tiered []).copyBusy object0 = false ∧ object0.state = 0 ∧ object0.hint = 0 ∧
    (let s := tiered (tierCmd 1 1 0 0x10000 0x10000 0)
     s.ctxOn 2 = true ∧ s.lost = [] ∧ 0 < s.freeRecords ∧ got (s.leafAddrs 2 false [0x10000]) = some [(0x10000, 0x106008)] ∧
       hintOrder 1 0 = [2, 1, 3]) ∧
    Tab.find (after .free (tiered (tierCmd 2 1 0 0 0 3))).objs 3 = none ∧
    (Tab.find (after .setHint (tiered (tierCmd 3 1 0 0 0 3))).objs 3).map (fun o => o.hint) = some 1 ∧
    (after .query (tiered (tierCmd 6 1 0 0 0 3))).rd TIER_RING_HEAD = 1 := by decide +kernel

/-- A search for one frame in one range finds one at once where nothing in use lies beyond the start of the range. -/
theorem pickFrames_first (b c start : Nat) (used : List (Nat × Nat)) (hc : 0 < c) (h : ∀ u, u ∈ used → u.1 + u.2 ≤ b) :
    ∃ f, pickFrames [(b, c)] used 1 start = some f := by
  have ho : ∀ k, (used.any fun u => overlaps u.1 u.2 (b + k) 1) = false := by
    intro k
    rw [List.any_eq_false]
    intro u hu
    have := h u hu
    unfold overlaps
    simp only [Bool.and_eq_true, decide_eq_true_eq, not_and, not_lt]
    omega
  have hm : start % c < c := Nat.mod_lt _ hc
  obtain ⟨t, ht⟩ : ∃ t, min c ((used.map (fun u => u.2)).sum + 1) = t + 1 := ⟨min c ((used.map (fun u => u.2)).sum + 1) - 1, by omega⟩
  refine ⟨b + start % c, ?_⟩
  simp [pickFrames, nthFrame, hc.ne', ht, List.range_succ_eq_map, hm, ho]

/-- Where LPDDR lies beyond every frame in use, and its pool's limit allows it, a frame of LPDDR is there. -/
theorem take_lpd (s : State) (ctx : Nat)
    (hl : ¬ s.rd TIER_POOL_LPD_LIMIT 0 (s.poolOf ctx) < s.rd TIER_POOL_LPD_USED 0 (s.poolOf ctx) + 1 * 1)
    (hu : ∀ u, u ∈ s.takenFrames → u.1 + u.2 ≤ s.dev * 2 ^ 27 + 0x800000) : ∃ fs u, s.take ctx 2 1 1 = some (fs, u) := by
  obtain ⟨f, hf⟩ := pickFrames_first (s.dev * 2 ^ 27 + 0x800000) 0x1F00000 (Config.freeValue s.fresh) s.takenFrames (by decide) hu
  exact ⟨[f], ({ s with fresh := s.fresh + 1 } : State).addUsed ctx 2 1, by
    show (if s.rd TIER_POOL_LPD_LIMIT 0 (s.poolOf ctx) < s.rd TIER_POOL_LPD_USED 0 (s.poolOf ctx) + 1 * 1 then none else _) = _
    rw [if_neg hl]
    simp only [State.alloc, State.free]
    rw [show State.tierRanges ({ s with fresh := s.fresh + 1 } : State) 2 = [(s.dev * 2 ^ 27 + 0x800000, 0x1F00000)] from rfl, hf]⟩

/-- The frames that REGISTER and MOVE ask for in the test above are there. -/
theorem test_met_frames_free :
    (∃ fs u, (tiered (tierCmd 1 1 0 0x10000 0x10000 0)).takeFirst 2 1 1 [2, 1, 3] = some (2, fs, u)) ∧
    (∃ fs u, (tiered (tierCmd 4 0 2 0 0 3)).take 2 2 1 1 = some (fs, u)) := by
  have h1 := take_lpd (tiered (tierCmd 1 1 0 0x10000 0x10000 0)) 2 (by decide +kernel) (by decide +kernel)
  have h2 := take_lpd (tiered (tierCmd 4 0 2 0 0 3)) 2 (by decide +kernel) (by decide +kernel)
  obtain ⟨fs, u, h⟩ := h1
  exact ⟨⟨fs, u, by unfold State.takeFirst; rw [h]⟩, h2⟩

theorem test_met_copies :
    (let m : ObjMove := { (default : ObjMove) with tier := 2, frames := [0x800000] }
     let o := { object0 with move := some m }
     let s : State := { (mapped State.reset).wrMem 0x50000 [1, 2] with objs := [(3, o)] }
     s.railsUp = true ∧ s.movesRun = true ∧ Tab.find s.objs 3 = some o ∧ m.next < o.size ∧ o.frames[0]? = some 5 ∧
       (o.newFrames m)[0]? = some 0x800000 ∧ s.dev = 0 ∧ s.rd MMU_CKPT_STAT_STATE ≠ 2 ∧
       s.lentAway s.dev (gpaLocal (0x800000 * 65536)) 65536 = false ∧
       (let m := { m with next := 1 }
        let o := { o with move := some m }
        let s : State := { s with objs := [(3, o)] }
        s.movesRun = true ∧ (∀ f, f ∈ o.frames → f / 2 ^ 27 = s.dev) ∧ m.dirty = [] ∧ m.after = none ∧ o.kind ≠ 3 ∧ o.size ≤ m.next ∧ s.objRefs o = 0 ∧ s.tierCmd = none ∧ s.rd MMU_CKPT_STAT_STATE ≠ 2 ∧ o.members = [] ∧
          (Tab.find (after (.objectSwitch 3) s).objs 3).map (fun x => x.tier) = some 2)) ∧
    (let w : Watch := { src := [(0x100, 4)], dst := [(0x200, 4)], uses := 1, stale := true, retries := 0 }
     let s : State := { State.reset.wrMem 0x100 [1, 2, 3, 4] with watches := [(6, w)] }
     s.railsUp = true ∧ Tab.find s.watches 6 = some w ∧ w.dst = [(gpaOf s.dev 0x200, 4)] ∧ dKind w.raw ≠ 1 ∧ dMcast w.raw = false ∧ s.rd MMU_CKPT_STAT_STATE ≠ 2 ∧ s.offLengths 0x200 4 = true ∧ (after (.watchRecopy 6) s).rdMem 0x200 4 = [1, 2, 3, 4]) := by decide +kernel

theorem test_met_leases :
    (let s := State.reset
     s.railsUp = true ∧ s.is TIER_LEND_CTL_ENABLE = false ∧ s.is TIER_LEASE_CTL_ENABLE = false ∧
       (after (.lendEnable 0) s).rd TIER_LEND_CTL_STATE = 1 ∧ (after (.leaseEnable 0) s).is TIER_LEASE_CTL_ENABLE = true ∧
       (after (.leaseEnable 0) (s.on TIER_LEASE_CTL_RECLAIM)).is TIER_LEASE_CTL_RECLAIM = false) ∧
    (let s := State.reset.wr TIER_LEND_CTL_STATE 1
     s.rd TIER_LEND_CTL_STATE = 1 ∧ s.objs = [] ∧ (after (.windowOpen 0) s).rd TIER_LEND_CTL_STATE = 2) ∧
    (let s := State.reset.on TIER_LEASE_CTL_ENABLE
     s.is TIER_LEASE_CTL_ENABLE = true ∧ s.rd TIER_LEASE_CTL_STATE = 0 ∧ (after (.reclaim 0) s).rd TIER_LEASE_CTL_STATE = 1 ∧
       (after (.reclaim 0) s).is TIER_LEASE_CTL_RECLAIM = true) ∧
    (let s := State.reset.wr TIER_LEASE_CTL_STATE 1
     s.rd TIER_LEASE_CTL_STATE = 1 ∧ s.objs = [] ∧ (after (.leaseReturned 0) s).rd TIER_LEASE_CTL_STATE = 2) := by decide +kernel

theorem test_met_walks :
    let s := (tables running).setCore 0 { (default : Core) with block := some { block1 with ctx := 2 } }
    s.railsUp = true ∧ s.ctxOn 2 = true ∧ s.lost = [] ∧ s.asks (.core 0) 2 = true ∧
      s.tlb.any (fun t => t.ctx == 2) = false ∧ got (s.leafOf 2 0x123 false) = some (0xF + 2 * 65536, 0x10000) ∧
      faultOf (s.leafOf 2 0x10000 false) = some (0x10000, 0, false) ∧
      s.is MMU_FAULT_RING_CTL_ENABLE = false ∧ s.slots = [] ∧ ((after (.walk (.core 0) 2 0x10000 .read) s).core 0).stalled = true ∧
      (let u : State := { s with slots := [(0, { (default : FaultSlot) with ctx := 2, page := 1 })] }
       (u.slots.find? (fun f => f.2.ctx == 2 && f.2.page == 0x10000 / 65536 && f.2.write == false)).isSome = true) ∧
      (let t := after (.walk (.core 0) 2 0x123 .read) s
       t.tlb.any (fun t => t.ctx == 2) = true ∧ (after (.walk (.core 0) 2 0x123 .read) t).tlb = t.tlb) := by decide +kernel

theorem test_met_fault_slots :
    (let f : FaultSlot := { (default : FaultSlot) with ctx := 2, page := 1, agents := [(.core 0, 7)] }
     let s : State := { State.reset with slots := [(5, f)] }
     s.railsUp = true ∧ Tab.look s.slotGen (5 % 256) 0 = 5 / 256 % 256 ∧ Tab.find s.slots (5 % 256) = some f ∧ f.status ≠ stLost ∧
       (after (.retry 5) s).slots = [] ∧ (after (.abort 5) s).slots = [] ∧ Tab.look s.slotGen ((5 + 256) % 256) 0 ≠ (5 + 256) / 256 % 256 ∧
       (after (.retry 261) s).rd MMU_PC_STALE_RESUME = 1) ∧
    (let f : FaultSlot := { (default : FaultSlot) with ctx := 2, page := 1, agents := [(.chan 0 3, 7)] }
     let s : State := { State.reset with slots := [(5, f)] }
     s.slotless = [] ∧ f.ctx = 2 ∧ f.status ≠ stLost ∧ ((after (.abortContext 2) s).chan 0 3).error = some 0x20 ∧ (after (.retryContext 2) s).slots = [] ∧ (after (.abortContext 2) s).slots = []) := by decide +kernel

theorem test_met_invalidation :
    (let s := (mapped State.reset).wr MMU_INVAL_CTL_SCOPE 3
     s.railsUp = true ∧ s.is MMU_INVAL_CTL_BUSY = false ∧ (after .invalidation s).tlb = [] ∧
       (after .invalidation s).is MMU_INVAL_CTL_BUSY = true ∧ (after .invalidation s).invalWaits = false ∧ (after .invalidationComplete (after .invalidation s)).is MMU_INVAL_CTL_BUSY = false) ∧
    (let s := (State.reset.on MMU_FAULT_RING_CTL_ENABLE).on MMU_FAULT_OUT_OVERFLOW
     s.rd PWR_STAT_STATE = 0 ∧ s.ringReady = true ∧ s.is MMU_FAULT_OUT_OVERFLOW = true ∧ s.slots = [] ∧
       (after .faultRingFlush s).is MMU_FAULT_OUT_OVERFLOW = false) := by decide +kernel

theorem test_met_checkpoint :
    (let s := running.wr MMU_CKPT_AT 5
     s.railsUp = true ∧ s.rd MMU_CKPT_STAT_STATE = 0 ∧ s.stkState ≠ 0 ∧ s.stroke < s.rd MMU_CKPT_AT ∧ (after .arm s).rd MMU_CKPT_STAT_STATE = 1 ∧
       (after .cancel (after .arm s)).rd MMU_CKPT_STAT_STATE = 0) ∧
    (let s := State.reset
     s.rd MMU_CKPT_STAT_STATE = 0 ∧ s.stkState = 0 ∧ (after .arm s).rd MMU_CKPT_STAT_STATE = 2) ∧
    (let s := ((State.reset.wr MMU_CKPT_STAT_STATE 2).wr TIER_CKPT_AREA_SLOTS_SLOTS 4).wr MMU_CKPT_BASE 0x80000
     s.inRecovery = true ∧ s.setFrames = [] ∧
       (let s := s.wrMem 0x80000 [4]
        s.frameSet 2 = true ∧ s.setFrames = [2] ∧ s.ckptFrames.length < s.areaSlots (s.rd TIER_CKPT_STAT_AREA))) := by decide +kernel

/-! ## Host interface, tasks, blocks, registers -/

/-- A front device whose function 1 sees 2 MiB of HBM at its aperture. -/
def fronted : State := ((tables State.reset).on HIF_LINK_STAT_FRONT).wr CTX_APERTURE 0x8000 1

theorem test_met_host_reads_memory :
    let s := fronted.wrMem 0x8010 [1, 2]
    s.railsUp = true ∧ s.front = true ∧ s.blk .hif = 1 ∧ s.barWaits = [] ∧ s.ctxOn 1 = true ∧
      (got (s.partsOf 1 (s.rd CTX_APERTURE 1 + 0x10) 2 .read)).map (fun l => l.map (fun p => (p.off, p.n, gpaLocal p.gpa))) = some [(0, 2, 0x8010)] ∧
      s.isHere { off := 0, n := 2, gpa := 0x8010, wop := 0 } = true ∧ got (s.readGpa .host 1 0x8010 2) = some [1, 2] ∧
      (after (.bar2Read 1 0x10 2) s).hostOut = [HostOut.completion 1 0x10 [1, 2]] := by decide +kernel

theorem test_met_host_writes_memory :
    let s := fronted
    let u := (s.bump HIF_PC_RX_BYTES 2).bump CTX_ACC_HOST 2 1
    let p : RemPart := { off := 0, n := 2, gpa := 0x8010, wop := 0 }
    got (u.partsOf 1 (u.rd CTX_APERTURE 1 + 0x10) 2 .write) = some [p] ∧ u.ctxOn 1 = true ∧ u.isHere p = true ∧ u.partOk 1 .put p = true ∧
      u.partWaits p = false ∧ s.offLengths 0x8010 2 = true ∧
      (after (.bar2Write 1 0x10 [5, 6] false) s).rdMem 0x8010 2 = [5, 6] := by decide +kernel

theorem test_met_doorbells :
    (let s := (fronted.on CTX_DOORBELL_VALID 1 3).wr CTX_DOORBELL_ADDR (0x40040000014 / 4) 1 3
     s.is CTX_DOORBELL_VALID 1 3 = true ∧ s.rd CTX_DOORBELL_ADDR 1 3 * 4 = 0x40040000014 ∧ s.barFailed = [] ∧
       isOk (((s.bump HIF_PC_RX_BYTES 4).bump CTX_ACC_HOST 4 1).checkLocal s.dev 1 0x40040000014 4 .atomic) = true ∧
       (after (.doorbell 1 3 9) s).tok 5 = 9) ∧
    (let s : State := { fronted with barFailed := [1] }
     3 < bellWords 1 ∧ s.barFailed.contains 1 = true ∧ (after (.doorbell 1 3 9) s).barFailed = []) ∧
    (let w : BarWait := { kind := 0, func := 1, addr := 0x10, len := 2, data := [], due := 5000, sent := false }
     (after (.rdLimitExpiry 4) { fronted with barWaits := [(4, w)] }).hostOut = [HostOut.abort 1 0x10]) := by decide +kernel

theorem test_met_host_reads :
    let r : HostRead := { packet := none, agent := some (.core 0), addr := 0x60000000000, len := 2, due := 5000 }
    let s : State := { fronted with hostReads := [(7, r)] }
    s.railsUp = true ∧ Tab.find s.hostReads 7 = some r ∧ s.mcast = [] ∧ (after (.hostCompletion 7 stSuccess [1, 2]) s).hostReads = [] ∧
      (after (.completionTimeout 7) s).is HIF_ERR_CPL_TIMEOUT = true := by decide +kernel

theorem test_met_pcie :
    (let s := State.reset
     s.railsUp = true ∧ s.pwr.perst = false ∧ s.front = false ∧ s.groupHeld .hif 0 = false ∧ (after (.pcieLinkUp 6 16 true) s).front = true ∧
       s.pwr.standby = true ∧ s.i3c.waiting = none ∧ (after .perstAssert s).pwr.perst = true) ∧
    (let s := fronted
     s.front = true ∧ s.hostReads = [] ∧ (after .linkDown s).front = false ∧ s.blk .ctx 1 = 1 ∧
       (after (.functionLevelReset 1) s).blk .ctx 1 = 2 ∧ s.is PWR_RET_STAT_BUSY = false ∧ s.rd PWR_STAT_STATE ≤ 1 ∧
       (after .perstAssert s).rd PWR_RESET_CAUSE_KIND = 2) ∧
    (let s : State := { State.reset with pwr := { State.reset.pwr with perst := true } }
     s.pwr.perst = true ∧ (after .perstDeassert s).pwr.perst = false) := by decide +kernel

/-- A task descriptor of one command at 0x1000, posted at 0x600. -/
def taskDesc : List Byte := leBytes 1 8 ++ leBytes 1 4 ++ leBytes 0 4 ++ leBytes 0x1000 8 ++ leBytes 0 40

def tasking : State :=
  let s := ((((mapped State.reset).on CTX_TASK_RING_CTL_ENABLE 1).wr CTX_TASK_RING_BASE 0x600 1).wrMem 0x600 taskDesc).wrMem 0x1000 cmdCopy
  s.setTok (tokGlobal 0) 1

def taskBlock : Block :=
  { block1 with kind := 2, cue := 0, rows := [{ cue := 0, first := 0x600, count := 0, raw := taskDesc, n := 0, k := 0, addr := 0 }], pos := 1 }

theorem test_met_task_placed :
    let s := tasking
    s.rd PWR_STAT_STATE = 0 ∧ (∀ c, c < 64 → s.blk .ctx c ≠ 2 ∧ (s.ringTask c).map isOk ≠ some false) ∧ s.waiting.map (fun w => match w with | .ring c d => (c, d) | .saved k _ => (k + 64, [])) = [(1, taskDesc)] ∧ taskOk taskDesc = true ∧
      s.seatFor (.ring 1 taskDesc) = some 0 ∧ (s.core 0).out = 0 ∧ (s.core 0).error = none ∧
      got (({ s.bump CTX_TASK_HEAD 1 1 with self := some 0 } : State).readV (.core 0) 1 0x1000 128) = some cmdCopy ∧
      seatOpcode 1 = true ∧ ((after .taskPlacement s).core 0).next = some cmdCopy := by decide +kernel

theorem test_met_task_completes :
    let s := tasking.setCore 0 { (default : Core) with block := some taskBlock, error := some 1 }
    s.taskEnded 0 = true ∧ taskBlock.cue ≠ 1 ∧ taskBlock.flags = 0 ∧ taskBlock.task = (taskDesc, 0x600) ∧ fieldLE taskDesc 24 8 = 0 ∧
      fieldLE taskDesc 32 8 = 0 ∧ s.rosAborted = [] ∧ s.faultHeld (fun _ a => a.1 == .tasks) = false ∧ isOk (s.checkWrites 1 (taskBack 0x600 taskDesc 1 0 false)) = true ∧
      (s.writeAll .message 1 false (taskBack 0x600 taskDesc 1 0 false)).saved = [] ∧
      (s.writeAll .message 1 false (taskBack 0x600 taskDesc 1 0 false)).rd CTX_STAT_STATE 1 ≠ 2 ∧
      ((after (.taskComplete 0) s).core 0).block = none ∧ (after (.taskComplete 0) s).rdMem 0x600 2 = [0, 1] := by decide +kernel

theorem test_met_saves :
    let r := { emptyRun cmdCopy with m := 1, n := 64, steps := 2, step := 1 }
    let x : Core := { (default : Core) with block := some taskBlock, run := some r }
    (let s := (tasking.setCore 0 { x with saving := 1 }).wr CTX_WINGS_CFG_SEAT_SLOTS 3 1
     s.railsUp = true ∧ (s.core 0).saving = 1 ∧ (s.core 0).out = 0 ∧ s.liveNeed 1 r.raw = none ∧ s.poison = [] ∧ s.rd CTX_STAT_STATE 1 ≠ 2 ∧
       freeSlotIn ((s.saved.filter (fun a => a.2.ctx == 1)).map (fun a => a.2.slot)) (s.rd CTX_WINGS_CFG_SEAT_SLOTS 1) = some 0) ∧
    (let a : Saved := { ctx := 1, slot := 0, home := 0, pinned := false, boundary := false, what := x }
     let s : State := { tasking.setCore 0 { (default : Core) with saving := 3, wait := some (9, 0) } with saved := [(9, a)] }
     (s.core 0).saving = 3 ∧ Tab.find s.saved 9 = some a ∧ s.poison = [] ∧
       s.granulesWanted 1 (seatSlotOff 0 + 4096) 32768 (s.savedMask a) 96 = []) := by
  decide +kernel

theorem test_met_contexts :
    (let s := mapped State.reset
     s.railsUp = true ∧ s.rd CTX_STAT_STATE 1 = 1 ∧ s.saved = [] ∧ s.cores = [] ∧ s.chans = [] ∧ (after (.preempt 1) s).rd CTX_STAT_STATE 1 = 3 ∧
       s.rd CTX_STAT_STATE 9 ≠ 1 ∧ (after (.preempt 9) s).is (BLK_STAT_CFG_ERR .ctx) 9 = true) ∧
    (let s := (mapped State.reset).wr CTX_STAT_STATE 3 1
     s.rd CTX_STAT_STATE 1 = 3 ∧ s.saved = [] ∧ s.crewSaves = [] ∧ (after (.ctxResume 1) s).rd CTX_STAT_STATE 1 = 1) ∧
    (let s := (mapped State.reset).wr CTX_ACC_HBM 7 1
     (after (.accClear 1) s).rd CTX_ACC_HBM 1 = 0) := by decide +kernel

/-- Context 0 with its wings on 2 MiB of HBM. -/
def winged (size : Nat) : State :=
  let s := ((tables State.reset).wrMem 0x105008 (leBytes (0x10F + 0x200000) 8)).wr (BLK_STAT_STATE .ctx) 3
  ((s.wr CTX_PT_ROOT_ROOT 0x80).wr CTX_WINGS 0x200000).wr CTX_WINGS_SIZE_SIZE size

theorem test_met_blocks_enabled :
    (let s := State.reset.wr (BLK_STAT_STATE .dev) 3
     s.railsUp = true ∧ 0 < Page.count .dev ∧ s.blk .dev 0 = 3 ∧ s.groupHeld .dev 0 = false ∧ s.testing .dev 0 = false ∧
       (after (.enable .dev 0) s).blk .dev 0 = 1 ∧ (after (.softReset .dev 0) s).blk .dev 0 = 0 ∧
       (after (.disableReq .dev 0) s).blk .dev 0 = 3 ∧ (after (.forceOff .dev 0) s).blk .dev 0 = 3) ∧
    (State.reset.blk .lnk 2 = 3 ∧ State.reset.testing .lnk 2 = false ∧ (after (.enable .lnk 2) State.reset).rd LNK_STAT_STATE 2 = 1) ∧
    ((winged 1).blk .ctx 0 = 3 ∧ (∀ vf, (winged 1).enableCause 0 vf = none) ∧ (∀ vf, (winged 0).enableCause 0 vf = some 3)) := by decide +kernel

theorem test_met_blocks_drain :
    (∀ p, p ∈ ([Page.mmu, .tier, .ros, .log] : List Page) → State.reset.blk p 0 = 1 ∧
      (after (.disableReq p 0) State.reset).blk p 0 = 2) ∧
    (State.reset.blk .cdm 0 = 1 ∧ State.reset.blk .hdm 0 = 1 ∧ State.reset.blk .cox 0 = 1 ∧ (State.reset.cox 0).cur = none ∧
      (after (.disableReq .cdm 0) State.reset).blk .cdm 0 = 2 ∧ (after (.disableReq .cox 0) State.reset).blk .cox 0 = 2) ∧
    (let s := running.setCore 0 { (default : Core) with run := some (emptyRun []) }
     s.blk .core 0 = 1 ∧ (s.core 0).run.isSome = true ∧ (s.cox 0).tiles = [] ∧ (after (.disableReq .core 0) s).blk .core 0 = 2) ∧
    (let s := (mapped State.reset).on (BLK_CTL_DRAIN_MODE .ctx) 1
     s.blk .ctx 1 = 1 ∧ s.is (BLK_CTL_DRAIN_MODE .ctx) 1 = true ∧ (∀ c, c < 16 → (s.cox c).cur = none)) ∧
    (State.reset.quiet .tier 0 = true ∧ (after (.forceOff .tier 0) State.reset).blk .tier 0 = 2) ∧
    (let s := State.reset.wr (BLK_STAT_STATE .mmu) 2
     s.blk .mmu = 2 ∧ s.quiet .mmu 0 = true ∧ s.slots = [] ∧ (after (.drainEnd .mmu 0) s).blk .mmu = 3) ∧
    (let s := State.reset.wr (BLK_STAT_STATE .mmu) 0
     s.blk .mmu = 0 ∧ (after (.resetComplete .mmu 0) s).blk .mmu = 3) ∧
    (State.reset.blk .mmu ≠ 3 ∧ (after (.softReset .mmu 0) State.reset).is (BLK_STAT_CFG_ERR .mmu) = true) := by decide +kernel

theorem test_met_registers :
    (let s := State.reset.on HIF_LINK_STAT_FRONT
     s.railsUp = true ∧ s.halves = [] ∧ s.blk .tier = 1 ∧ s.front = true ∧ (after (.intForce .tier 0 1) s).rd (BLK_INT_STAT .tier) = 1 ∧
       ((s.wr (BLK_STAT_STATE .tier) 0).blk .tier = 0 ∧ (s.wr (BLK_STAT_STATE .tier) 4).blk .tier = 4) ∧
       (let o := Page.base .tier 0 + 0x124
        pageAt o = some (.tier, 0, 0x124) ∧ o % 4 = 0 ∧ regSize .tier 0x124 = 32 ∧ fieldsAt .tier 0x124 = [(TIER_RING_HEAD, 0)] ∧
          TIER_RING_HEAD.acc = .rw ∧ actsOnly TIER_RING_HEAD = false ∧ s.verdict .tier 0 0x124 5 = .ok ∧
          (after (.registerWrite (.device 0) o 4 5) s).rd TIER_RING_HEAD = 5) ∧
       (let u := s.wr (BLK_ERR_CORR .tier) 4
        (after (.readToClear (.func 0) (Page.base .tier 0 + 0x1C)) u).rd (BLK_ERR_CORR .tier) = 0)) := by decide +kernel

/-- A write of the ring head starts nothing, whatever the state. -/
theorem test_met_ring_head_starts_nothing : ∀ u : State, u.act .tier 0 0x124 5 = u := by
  intro u; rfl

/-! ## Device pages, power, resets -/

theorem test_met_seals :
    (let s := State.reset
     s.railsUp = true ∧ s.stkState = 0 ∧ s.is SFU_CTL_PENDING = false ∧ (after (.devId 7) s).dev = 7 ∧
       (after (.sfuSeal 9) s).sfuVer.1 = 9 ∧ s.is PWR_RET_STAT_BUSY = false ∧
       (∀ v, v ∈ [0x000] → narrowAllowed 0 (bits v 0 4) = true → narrowAllowed 4 (bits v 4 4) = true → narrowAllowed 8 (bits v 8 4) = true →
         (after (.narrowCfg v) s).rd NARROW_CFG_KV = bits v 0 4) ∧
       (after (.devId 7) armed).is (BLK_STAT_CFG_ERR .dev) = true ∧ (after (.sfuSeal 9) armed).is SFU_CTL_PENDING = true ∧
       (after .rtSeal armed).is RT_CTL_PENDING = true) ∧
    (let s : State := { State.reset with routesB := [(1, 5)] }
     (after .rtSeal s).routesF = [(1, 5)]) := by decide +kernel

theorem test_met_memory_tests :
    (let s : State := { running with stk := { running.stk with ended := true } }
     let s := (s.on CORE_SP_TEST_CTL_ENABLE 3).on CST_TEST_CTL_ENABLE 2
     s.testReady true 3 = true ∧ s.testReady false 2 = true ∧ (after (.backgroundTest true 3 []) s).rd CORE_SP_TEST_POS_ROW 3 = 1 ∧
       (after (.backgroundTest false 2 []) s).rd CST_TEST_POS_ROW 2 = 1) ∧
    (let s := ((State.reset.wr CORE_SP_BANK_SPARE_SPARE1_FOR 4 3).on CORE_SP_BANK_SPARE_SPARE1_COPYING 3)
     s.inDrive = false ∧ s.copyingBank true 3 1 = true ∧
       (after (.spareBankCopy true 3 1) s).phase { kind := 2, block := 3, pos := 4 } = some 2) := by decide +kernel

theorem test_met_power_requests :
    (let s := State.reset
     s.railsUp = true ∧ s.rd PWR_STAT_STATE = 0 ∧ s.pwr.req = none ∧
       (∀ k, k ∈ [1, 2, 3] →
         (let r : PowerReq := { target := k, origin := 0, start := s.clock, agreed := false, block := (0, 0) }
          let u := (s.wr PWR_STAT_STATE 5).updPwr (fun p => { p with req := some r })
          ∀ b, b ∈ u.asked' → u.askBlock k b.1 b.2 = .accept)) ∧
       (after .enterRow s).rd PWR_STAT_LAST_RESULT = 1) ∧
    (let s := running
     let r : PowerReq := { target := 2, origin := 0, start := s.clock, agreed := false, block := (0, 0) }
     let u := (s.wr PWR_STAT_STATE 5).updPwr (fun p => { p with req := some r })
     (lowestBlock (u.asked'.filter (fun x => (u.askBlock 2 x.1 x.2).reason != 0))).isSome = true ∧
       (after .enterHold s).rd PWR_STAT_LAST_RESULT = 2) := by decide +kernel

theorem test_met_ask_rounds :
    let r : PowerReq := { target := 2, origin := 0, start := 0, agreed := false, block := (0, 0) }
    let s := (State.reset.wr PWR_STAT_STATE 5).updPwr (fun p => { p with req := some r })
    s.railsUp = true ∧ s.pwr.req = some r ∧ r.start + s.rd PWR_DEFER_MAX_MS * 16000000 < s.clock + 100000 * 16000000 ∧
      (after (.askRound 100000) s).rd PWR_STAT_REASON = 7 ∧ s.clock + 1 * 16000000 ≤ r.start + s.rd PWR_DEFER_MAX_MS * 16000000 ∧
      (let u := s.at (s.clock + 1 * 16000000)
       ∀ b, b ∈ u.asked' → u.askBlock r.target b.1 b.2 = .accept) := by decide +kernel

def waking (held selfRef : Nat) (ready : Bool) : State :=
  ((State.reset.wr PWR_STAT_STATE 6).wr PWR_PAD_RELEASE_HELD held).updPwr (fun p => { p with ready := ready, selfRef := selfRef })

theorem test_met_wakes :
    (let s := State.reset.wr PWR_STAT_STATE 2
     s.pwr.standby = true ∧ s.i3c.waiting = none ∧ s.rd PWR_STAT_STATE = 2 ∧ (after .wake s).rd PWR_STAT_STATE = 6) ∧
    (State.reset.rd PWR_STAT_STATE = 0 ∧ (after .wake State.reset).i3c.resp = some [1, 0, 0]) ∧
    (let s := waking 1 0 true
     s.rd PWR_STAT_STATE = 6 ∧ s.pwr.ready = true ∧ s.pwr.selfRef = 0 ∧ s.pwr.owed = none ∧ (after (.padRelease 1) s).rd PWR_STAT_STATE = 0 ∧
       (after (.padRelease 2) s).rd PWR_STAT_STATE = 6) ∧
    (let s := waking 1 0 false
     s.pwr.ready = false ∧ s.rd PWR_PAD_RELEASE_HELD ≠ 0 ∧ (after .wakeReady s).pwr.ready = true) ∧
    (let s := waking 0 2 true
     s.mayLeaveRefresh false 1 = true ∧ s.pwr.owed = none ∧ s.i3c.waiting = none ∧ (after (.selfRefreshExit false 1) s).rd PWR_STAT_STATE = 0) := by
  decide +kernel

theorem test_met_limits :
    (let s := State.reset
     let r : PowerReading := { temps := [105, 20, 20, 20, 20, 20], mv := 48000, w := 100 }
     let q : PowerReading := { temps := [95, 20, 20, 20, 20, 20], mv := 48000, w := 100 }
     let z : PowerReading := { temps := [20, 20, 20, 20, 20, 20], mv := 48000, w := 4000 }
     s.pwr.standby = true ∧ r.temps.length = 6 ∧ (after (.powerCheck r) s).rd PWR_CLOCK_POINT = 6 ∧
       (after (.powerCheck q) s).rd PWR_CLOCK_POINT = 1 ∧ s.rd PWR_LIMIT_W < z.w ∧ (after (.powerCheck z) s).rd PWR_CLOCK_POINT = 1 ∧
       ((s.wr PWR_STAT_STATE 3).railsUp = false)) ∧
    (let s := armed.wr PWR_STAT_STATE 1
     s.rd PWR_STAT_STATE = 1 ∧ (after .run s).rd PWR_STAT_STATE = 0 ∧
       (let s := heard (strokePkt 2 0 0 0) s
        s.stkState ≠ 0 ∧ (s.strokeAt 0 2).isSome = true ∧ (after (.curtain 0) s).rd PWR_STAT_STATE = 0)) ∧
    (∀ k, k ∈ [5, 6] → ((tiered (tierCmd k 1 0 0 0 3)).wr PWR_STAT_STATE 1).tierOp k = true) := by decide +kernel

theorem test_met_resets :
    (let s := State.reset
     s.pwr.standby = true ∧ s.rd PWR_STAT_STATE ≠ 3 ∧ s.pwr.supply = true ∧ s.fwChosen ≠ none ∧ s.i3c.waiting = none ∧
       s.is PWR_RET_STAT_BUSY = false ∧ (after (.trip 1) s).rd PWR_STAT_STATE = 3 ∧ (after .supplyLoss s).rd PWR_STAT_STATE = 3 ∧
       (after .mateOpen s).pwr.supply = false ∧ (after .standbyStop s).pwr.standby = false ∧
       (after (.warmReset []) s).i3c.resp = some [0x11, 0, 0]) ∧
    (let s := State.reset.updPwr (fun p => { p with supply := false })
     s.pwr.supply = false ∧ s.fwChosen ≠ none ∧ (after .supplyReturn s).rd PWR_RESET_CAUSE_KIND = 1 ∧
       (let s : State := { s with fwMin := 2 ^ 32 }
        s.fwChosen = none ∧ (after .supplyReturn s).rd PWR_STAT_STATE = 7)) ∧
    (let s := State.reset.updPwr (fun p => { p with standby := false })
     s.pwr.standby = false ∧ (after (.standbyStart 0) s).clock = 0) := by decide +kernel

theorem test_met_settings :
    (let s := State.reset
     s.railsUp = true ∧ s.is PWR_RET_STAT_BUSY = false ∧ (after .pwrRetCommit s).is PWR_RET_STAT_BUSY = true) ∧
    (let s := State.reset.on PWR_RET_STAT_BUSY
     s.is PWR_RET_STAT_BUSY = true ∧ s.pwr.owed = none ∧ s.i3c.waiting = none ∧ (after .pwrRetCommit s).is (BLK_STAT_CFG_ERR .pwr) = true ∧
       (after .retCommitDone s).is PWR_RET_STAT_BUSY = false) ∧
    (after .invalidate State.reset).ret0.good = false ∧
    (let s := State.reset.updPwr (fun p => { p with req := some default })
     s.pwr.req.isSome = true ∧ (after .enterHold s).is (BLK_STAT_CFG_ERR .pwr) = true) ∧
    (∀ k, k ∈ [0, 1] → (State.reset.wr PWR_STAT_STATE k).railsUp = true ∧ (State.reset.wr PWR_STAT_STATE k).rd PWR_STAT_STATE = k) := by decide +kernel

/-! ## Spares, logbook, management, tests -/

theorem test_met_retire :
    (let s := State.reset
     s.railsUp = true ∧ s.is SPR_CMD_STAT_BUSY = false ∧ (s.sprInst 15 0).exists' = false ∧ (after (.retire 15 0) s).rd SPR_CMD_STAT_STATUS = stMalformed ∧
       (s.sprInst 1 5).exists' = true ∧ (s.sprInst 3 5).exists' = true ∧ (s.sprInst 12 5).exists' = true ∧
       (∀ k, k ∈ [0, 2, 4, 5, 6, 7, 8, 9, 14] → (s.sprInst k 3).exists' = true ∧ s.phase (s.sprInst k 3) = none) ∧
       (s.sprInst 13 3).exists' = true ∧ (s.wr LNK_STAT_STATE 5 3).rd LNK_STAT_STATE 3 = 5 ∧
       (after (.retire 6 3) s).phase (s.sprInst 6 3) = some 1 ∧ (after (.enter 15 3) s).rd SPR_CMD_STAT_STATUS = stMalformed ∧
       (after (.enter 6 3) s).rd SPR_CMD_STAT_STATUS = stBusy ∧
       (let u : State := { s with retired := [(s.sprInst 6 3, 0)] }
        (u.phase (u.sprInst 6 3)).isSome = true ∧ u.phase (u.sprInst 6 3) = some 0 ∧ u.spareLeft (u.sprInst 6 3) ≠ 0)) := by decide +kernel

theorem test_met_enter_without_spare :
    let s : State := { State.reset with retired := [({ kind := 0, block := 1, pos := 0 }, 2), ({ kind := 0, block := 2, pos := 0 }, 0)] }
    s.phase (s.sprInst 0 2) = some 0 ∧ s.spareLeft (s.sprInst 0 2) = 0 ∧ (after (.enter 0 2) s).rd SPR_CMD_STAT_STATUS = stDeferred := by decide +kernel

theorem test_met_annotate :
    (let s := State.reset
     (s.ledger false).length + s.ledgerPend.length < ledgerCap ∧ (after (.annotate 3 4) s).ledgerPend.length = 1 ∧
       (after .faultWindow s).faults = []) := by decide +kernel

/-- A full ledger (its records are equal, so that the state stays small to write). -/
theorem test_met_ledger_full :
    let s : State := { State.reset with ledger0 := List.replicate ledgerCap [] }
    ledgerCap ≤ (s.ledger false).length + s.ledgerPend.length := by
  intro s
  have h : s.ledger false = List.replicate ledgerCap [] := rfl
  rw [h, List.length_replicate]
  exact Nat.le_add_right _ _

theorem test_met_entries :
    (let s : State := { State.reset.wr (BLK_STAT_STATE .core) 5 8 with retired := [({ kind := 0, block := 2, pos := 0 }, 1)] }
     s.railsUp = true ∧ s.enteringSeat 0 = some ({ kind := 0, block := 2, pos := 0 }, 8) ∧ (2 : Nat) ≠ 9 * 0 + 8 ∧
       (after (.seatEntry 0) s).blk .core 8 = 1) ∧
    (let s : State := { State.reset with retired := [({ kind := 6, block := 2, pos := 0 }, 1)] }
     s.inDrive = false ∧ s.remapping false 2 = some { kind := 6, block := 2, pos := 0 } ∧
       (after (.unitRemap false 2) s).phase { kind := 6, block := 2, pos := 0 } = some 2) := by decide +kernel

theorem test_met_ledger :
    (let s : State := { State.reset with ledgerPend := [default] }
     (s.ledger false).length + 1 < ledgerCap * 7 / 8 ∧ (after .ledgerWrite s).rd SPR_LEDGER_STAT_USED = 1) ∧
    ((armed.stkState ≠ 0) ∧ (after .load armed).is (BLK_STAT_CFG_ERR .tier) = true) ∧
    (let s := State.reset
     s.railsUp = true ∧ s.stkState = 0 ∧ s.rd MMU_CKPT_STAT_STATE = 0 ∧ s.loadPos = none ∧
       (let u := { ((s.on TIER_CKPT_CTL_LOAD).on TIER_CKPT_STAT_LOAD_BUSY).wr TIER_CKPT_STAT_LOAD_ERR 0 with loadPos := some 0 }
        got (u.loadRead 0 64) = some (leBytes 0 64) ∧ u.headerError (leBytes 0 64) = some 1) ∧
       (after .load s).rd TIER_CKPT_STAT_LOAD_ERR = 1) := by decide +kernel

theorem test_met_logbook :
    (let e : LogEntry := { time := 0, stroke := 0, source := 0, event := 0x801, severity := 2, status := 0, data := 0 }
     let s : State := { State.reset with logQueue := [e] }
     s.pwr.standby = true ∧ s.rd LOG_CTL_MIN_SEVERITY ≤ e.severity ∧ s.is LOG_CTL_FREEZE = false ∧
       Tab.find (after .logTransfer s).logRing 0 = some e ∧ (s.on LOG_CTL_FREEZE).is LOG_CTL_FREEZE = true ∧
       e.severity < (s.wr LOG_CTL_MIN_SEVERITY 3).rd LOG_CTL_MIN_SEVERITY) ∧
    (let s := State.reset
     s.railsUp = true ∧ s.logQueue = [] ∧ ((after (.logInject (0x8FF + 4 * 0x10000)) s).logQueue.map (fun e => e.event)) = [0x8FF]) ∧
    (let s : State := { State.reset with ibi := [(1, 5, false)] }
     s.ibi ≠ [] ∧ (after .ibiRepeat s).ibi.map (fun e => e.1) = [1]) ∧
    (let s := State.reset
     s.is DEV_INT_CTL_ENABLE = false ∧ (after .rearm s).is DEV_INT_CTL_ARMED = true ∧
       (after .summaryRetry { s with summaryAt := some 5 }).summaryAt = none) ∧
    (let s := [(DEV_INT_CTL_ENABLE, 1), (HIF_LINK_STAT_FRONT, 1), (DEV_INT_ADDR, 0x7FFFFFF0000), (BLK_INT_STAT .tier, 1), (BLK_INT_EN .tier, 1)].foldl
       (fun (t : State) f => t.wr f.1 f.2) State.reset
     let s : State := { s with msixTab := [(msixKey 0 3, 0)] }
     s.pendingPages ≠ [] ∧ s.blk .hif = 1 ∧ s.rd DEV_INT_CTL_VECTOR = 0 ∧ s.rd DEV_INT_ADDR = 0x7FFFFFF0000 ∧ s.msixMasked 0 0 = false ∧
       (regionOf (gpaLocal 0x7FFFFFF0000)).1 = .host ∧
       isOk (((s.on DEV_INT_CTL_ARMED).off DEV_INT_CTL_ARMED).checkLocal s.dev 0 (gpaLocal (s.rd DEV_INT_ADDR)) 4 .put) = true ∧
       (after .rearm s).hostOut = [HostOut.msix 0 0]) := by decide +kernel

theorem test_met_management :
    (let s := State.reset
     s.pwr.standby = true ∧ s.i3c.waiting = none ∧ s.rd PWR_STAT_STATE ≤ 1 ∧ s.is PWR_RET_STAT_BUSY = false ∧ s.blk .pwr = 1 ∧ s.halves = [] ∧
       (let a := leBytes 0x10C 2 ++ leBytes 700 4
        fieldLE a 0 2 = 0x10C ∧ 600 ≤ fieldLE a 2 4 ∧ fieldLE a 2 4 ≤ 1600 ∧ (after (.writePwr a) s).rd PWR_LIMIT_W = 700) ∧
       (let a := leBytes 0x210C 4 ++ leBytes 700 4
        fieldLE a 0 4 = 0x210C ∧ (after (.writeReg a) s).rd PWR_LIMIT_W = 700) ∧
       (after (.ackIbi (leBytes 2 2)) { s with ibi := [(1, 5, false), (2, 5, false)] }).ibi.map (fun e => e.1) = [2] ∧
       (after (.echo [1, 2]) s).i3c.resp = some [1, 2, 0, 1, 2] ∧ (after (.echo []) s).i3c.resp = some [0x11, 0, 0] ∧
       (after (.readLog []) s).i3c.resp = some [0x11, 0, 0] ∧
       (let u : State := { s with i3c := { s.i3c with resp := some [1] } }
        u.i3c.resp.isSome = true ∧ (after .privateRead u).i3c.resp = none) ∧
       (let a := leBytes 0x100 2 ++ leBytes 0 4
        let u := s.wr PWR_STAT_STATE 3
        fieldLE a 0 2 = 0x100 ∧ u.rd PWR_STAT_STATE = 3 ∧ (after (.writePwr a) u).i3c.resp = some [0x21, 0, 0]) ∧
       s.mayWrite .i3c 0 = false ∧ (after (.writeReg (leBytes 0 8)) s).i3c.resp = some [0x21, 0, 0] ∧
       (after (.readPwr (leBytes 0x10C 2)) s).i3c.resp = some ([1, 4, 0] ++ leBytes (s.rd PWR_LIMIT_W) 4) ∧
       (after (.readReg (leBytes 0x210C 4)) s).i3c.resp = some ([1, 4, 0] ++ leBytes (s.rd PWR_LIMIT_W) 4) ∧
       (after (.readLedger (leBytes 0 4)) s).i3c.resp = some ([1, 32, 0] ++ leBytes 0 32) ∧
       (let a := leBytes 0 4 ++ leBytes 256 2
        a.length = 6 ∧ 1 ≤ fieldLE a 4 2 ∧ fieldLE a 4 2 ≤ 256 ∧ fieldLE a 0 4 + fieldLE a 4 2 ≤ 65536)) := by decide +kernel

theorem test_met_attestation :
    (let s := State.reset
     s.pwr.standby = true ∧ s.i3c.waiting = none ∧ s.rd PWR_STAT_STATE ≤ 1 ∧ s.spdm.ready = false ∧ s.spdm.resp = none ∧
       (after (.spdmSend [0, 7, 8]) s).spdm.msg = [7, 8] ∧ spdmCodes.contains (fieldLE (s.spdm.msg ++ [0x10, 0x84]) 1 1) = true ∧
       (after (.spdmSend [1, 0x10, 0x84]) s).spdm.ready = true ∧
       (let u : State := { s with spdm := { s.spdm with resp := some [1, 2] } }
        (after (.spdmRecv []) u).i3c.resp = some [1, 3, 0, 1, 1, 2]) ∧
       (let u : State := { s with spdm := { s.spdm with ready := true } }
        u.spdm.resp = none ∧ (after (.spdmRecv []) u).i3c.waiting = some (.spdmRecv [])) ∧
       (after (.fwBegin (leBytes 16 4)) s).i3c.fwSize = some 16 ∧
       (let u : State := { s with i3c := { s.i3c with fwSize := some 16 } }
        Tab.find (after (.fwData (leBytes 15 4 ++ [9])) u).otherSlot.data 15 = some 9) ∧
       s.fwValid s.otherSlot = false ∧ (after (.fwCommit [1]) s).i3c.resp = some [0x11, 0, 0] ∧
       (let u : State := { s with fwB := s.fwA }
        u.fwValid u.otherSlot = true)) ∧
    (∀ c, c ∈ spdmCodes →
      (let s : State := { State.reset with spdm := { (default : SpdmUnit) with ready := true, msg := [0x10, BitVec.ofNat 8 c], conn := 3 } }
       let t : State := State.reset.on HIF_LINK_STAT_FRONT
       s.spdm.asks c = true ∧ t.spdm.asks c = false ∧ t.front = true)) := by decide +kernel

theorem test_met_tests :
    (let s := (((State.reset.wr LNK_TEST_CTL_MODE 1 2).wr HBM_TEST_CTL_MODE 1 1).wr LPD_TEST_CTL_MODE 1 1).wr HIF_TEST_CTL_MODE 1
     s.railsUp = true ∧ (∀ p, p ∈ ([Page.lnk, .hbm, .lpd, .hif] : List Page) → (testRegs p).isSome = true) ∧
       s.testOk .lnk 2 1 = true ∧ s.testOk .hbm 1 1 = true ∧ s.testOk .lpd 1 1 = true ∧ s.testOk .hif 0 1 = true ∧
       (after (.testRun .lnk 2) s).is LNK_TEST_CTL_RUN 2 = true ∧
       (let u := (s.wr HIF_TEST_CTL_MODE 2).on HIF_LINK_STAT_FRONT
        u.testOk .hif 0 2 = true ∧ u.front = true ∧ (after (.testRun .hif 0) u).front = false ∧ (after .loopbackFollower u).front = false) ∧
       s.testOk .hbm 1 99 = false) ∧
    (let s := State.reset
     memOk false 1 = true ∧ s.is (marginRegs false).busy 1 = false ∧ s.memTestOk false 1 = true ∧ armed.memTestOk true 1 = false ∧
       (after (.marginGo false 1) s).is (marginRegs false).busy 1 = true) ∧
    (let w : Sweep := { upper := true, steps := 3, worst := some 2 }
     let s : State := { State.reset with sweeps := [(sweepKey false 1, w)] }
     s.sweepPaused false 1 = false ∧ w.steps + 1 < 127 ∧ ([0, 0, 5] : List Nat).findIdx? (fun e => e != 0) = some 2 ∧
       (after (.marginTrial false 1 [0, 0, 5]) s).rd (marginRegs false).high 1 = 3 ∧
       (let w : Sweep := { upper := false, steps := 126, worst := none }
        let s : State := { State.reset with sweeps := [(sweepKey false 1, w)] }
        w.steps < 127 ∧ w.steps + 1 = 127 ∧ (after (.marginTrial false 1 [0]) s).rd (marginRegs false).low 1 = 127)) ∧
    (State.reset.pwr.standby = true ∧ (after .bypass State.reset).tap.ir = 0xFF ∧ (after .idcode State.reset).tap.ir = 1 ∧
      State.reset.front = false ∧ (∀ q, q < 16 → (State.reset.port q).replay = [] ∧ (State.reset.port q).tx = []) ∧
      (let s := State.reset.wr LNK_STAT_STATE 2 2
       s.portUp 2 = true ∧ (after .extest s).rd LNK_STAT_STATE 2 = 5)) := by decide +kernel

theorem test_met_rails_off : (State.reset.wr PWR_STAT_STATE 3).railsUp = false ∧ alwaysOn .run = false ∧
    (after .run (State.reset.wr PWR_STAT_STATE 3)).stkState = 0 := by decide +kernel

theorem test_met_go_ignored : running.railsUp = true ∧ ¬ (running.stkState = 1 ∧ running.starter = true) ∧
    (after .stkCmdGo running).is STK_STAT_CFG_ERR = true ∧ (after .stkCmdResume running).is STK_STAT_CFG_ERR = true ∧
    (after .stkCmdAbandon running).is STK_STAT_CFG_ERR = true := by decide +kernel

theorem test_front_command :
    step { State.reset with pending := [.run, .run] } = exec .run { State.reset with pending := [.run] } := rfl

/-! ## LOAD of a good header -/

theorem crcByte_lt (c : Nat) (b : Byte) (h : c < 2 ^ 32) : crcByte c b < 2 ^ 32 := by
  have step : ∀ (l : List Nat) (x : Nat), x < 2 ^ 32 →
      l.foldl (fun x _ => if x % 2 = 1 then (x / 2) ^^^ 0xEDB88320 else x / 2) x < 2 ^ 32 := by
    intro l
    induction l with
    | nil => intro x hx; exact hx
    | cons a t ih =>
      intro x hx
      rw [List.foldl_cons]
      apply ih
      split
      · exact Nat.xor_lt_two_pow (by omega) (by decide)
      · omega
  exact step _ _ (Nat.xor_lt_two_pow h (Nat.lt_of_lt_of_le b.isLt (by decide)))

theorem crc32_lt (d : List Byte) : crc32 d < 2 ^ 32 := by
  have h : ∀ (l : List Byte) (x : Nat), x < 2 ^ 32 → l.foldl crcByte x < 2 ^ 32 := by
    intro l
    induction l with
    | nil => intro x hx; exact hx
    | cons b t ih => intro x hx; exact ih _ (crcByte_lt x b hx)
  exact Nat.xor_lt_two_pow (h d _ (by decide)) (by decide)

theorem leNat_leBytes_4 (v : Nat) (h : v < 2 ^ 32) : leNat (leBytes v 4) = v := by
  simp only [leBytes, leNat, BitVec.toNat_ofNat]
  omega

def snapshot0 : List Byte := List.replicate 0x1F0000 0

/-- A header of this device and its firmware, for stroke 5, without slots, over a snapshot whose CRC is `v`. -/
def header0 (v : Nat) : List Byte :=
  leBytes (8 + 2 * 65536) 4 ++ leBytes 0 4 ++ leBytes 5 8 ++ leBytes 0 8 ++ leBytes 0x10000 4 ++ leBytes 0 12 ++ leBytes v 4 ++ leBytes 0 20

/-- The area lies on device 2, and its bytes have arrived. -/
def loading : State :=
  let g := 0x100000000000
  { State.reset.wr TIER_CKPT_AREA_BASE g with
    arrived := [{ agent := .tier, addr := g, data := header0 (crc32 snapshot0) }, { agent := .tier, addr := g + 0x10000, data := snapshot0 }] }

/-- A read of an area on another device answers the bytes that have arrived. -/
theorem loadRead_arrived (u : State) (off n : Nat) (b d : List Byte) (hd : gpaDev (u.loadBase + off) ≠ u.dev)
    (ha : u.arrivedAt .tier (u.loadBase + off) n = some d) (hb : d = b) : u.loadRead off n = .ok b := by
  unfold State.loadRead State.readGpa
  rw [if_neg hd, ha, hb]

theorem test_met_load :
    let s := loading
    let u := { ((s.on TIER_CKPT_CTL_LOAD).on TIER_CKPT_STAT_LOAD_BUSY).wr TIER_CKPT_STAT_LOAD_ERR 0 with loadPos := some 0 }
    let h := header0 (crc32 snapshot0)
    s.railsUp = true ∧ s.stkState = 0 ∧ s.rd MMU_CKPT_STAT_STATE = 0 ∧ s.loadPos = none ∧ u.loadRead 0 64 = .ok h ∧
      u.headerError h = none ∧ fieldLE h 32 4 = 0 ∧ u.loadRead 0x200000 0 = .ok [] ∧ u.loadRead 0x10000 0x1F0000 = .ok snapshot0 ∧
      crc32 [] = fieldLE h 36 4 ∧ crc32 snapshot0 = fieldLE h 40 4 ∧ fieldLE h 8 8 = 5 := by
  have hl : snapshot0.length = 0x1F0000 := List.length_replicate
  have hc := leNat_leBytes_4 _ (crc32_lt snapshot0)
  intro s u h
  have hd : u.dev = 0 := by decide +kernel
  have hb : u.loadBase = 0x100000000000 := by decide +kernel
  have hv : u.rd DEV_FW_VERSION = 0x10000 := by decide +kernel
  have ha : u.arrived = [{ agent := .tier, addr := 0x100000000000, data := h }, { agent := .tier, addr := 0x100000010000, data := snapshot0 }] := rfl
  have hh : h.length = 64 := rfl
  refine ⟨by decide +kernel, by decide +kernel, by decide +kernel, rfl, ?_, ?_, rfl, ?_, ?_, by decide, ?_, rfl⟩
  · simp [State.loadRead, State.readGpa, hb, hd, gpaDev, State.arrivedAt, ha, hh]
  · simp [State.headerError, hd, hv]; decide
  · refine loadRead_arrived u _ _ _ [] (by rw [hb, hd]; decide) ?_ rfl
    rw [hb]
    unfold State.arrivedAt
    rw [ha]
    clear_value h
    clear hc ha
    generalize snapshot0 = z at *
    simp [hh, hl]
  · refine loadRead_arrived u _ _ _ snapshot0 (by rw [hb, hd]; decide) ?_ rfl
    rw [hb]
    unfold State.arrivedAt
    rw [ha]
    clear_value h
    clear hc ha
    generalize snapshot0 = z at *
    simp [hh, hl, List.take_of_length_le]
  · exact hc.symm

end Sys2Proof.Tests
end

section
/-!
PROOF. Attestation and firmware (R4, R689, R690, R695, R697, R698): the commands of the management controller that run at once, the
slot that does not run, and the seven SPDM messages on both responders.
-/
namespace Sys2Proof.Machine

/-! ### An M command that runs at once (R689, R690)

It starts from the state that PRIVATE_READ leaves: taking a command drops a response that was not collected. -/

/-- With the standby supply, in ROW or EASY and with no command waiting, an M command runs at once. -/
theorem State.m_next {s t : State} {c : Instr} (hs : s.pwr.standby = true) (hw : s.i3c.waiting = none) (hr : s.rd PWR_STAT_STATE ≤ 1)
    (run : (privateReadEffect s).runM c = t) : s.m c = .next (s.commit t) := by
  have runs : s.mRuns = true := by
    simp only [State.mRuns, Bool.or_eq_true, beq_iff_eq]
    omega
  have taken : s.takeM c = (privateReadEffect s).runM c := if_pos runs
  rw [State.m, State.always_next (by simp [hs, hw]), taken, run]

/-! ### SPDM_SEND and SPDM_RECV (R695) -/

/-- A chunk of a request under way joins it; the last one completes a request of R695. -/
theorem spdmSendRun_joins {s : State} {a : List Byte} (h2 : 2 ≤ a.length) (h241 : a.length ≤ 241) (hready : s.spdm.ready = false)
    (hresp : s.spdm.resp = none) (hf : fieldLE a 0 1 ≤ 1)
    (hcode : fieldLE a 0 1 = 1 → spdmCodes.contains (fieldLE (s.spdm.msg ++ a.drop 1) 1 1) = true) :
    spdmSendRun a s = ({ s with spdm := { s.spdm with msg := s.spdm.msg ++ a.drop 1, ready := fieldLE a 0 1 == 1, resp := none } } :
      State).respond stSuccess [] := by
  have wellFormed : ¬ (a.length < 2 ∨ 241 < a.length ∨ 1 < fieldLE a 0 1) := by omega
  have known : ¬ (fieldLE a 0 1 = 1 ∧ (!spdmCodes.contains (fieldLE (s.spdm.msg ++ a.drop 1) 1 1)) = true) := by
    rintro ⟨last, unknown⟩
    rw [hcode last] at unknown
    cases unknown
  simp only [spdmSendRun, if_neg wellFormed, hready, hresp, Option.isSome_none, Bool.false_eq_true, or_self, if_false, if_neg known]

/-- A response is collected in chunks of 240 bytes. -/
theorem spdmRecvRun_chunk {s : State} {r : List Byte} (h : s.spdm.resp = some r) :
    spdmRecvRun [] s = ({ s with spdm := { s.spdm with resp := if r.length ≤ 240 then none else some (r.drop 240) } } : State).respond
      stSuccess (leBytes (b2n (decide (r.length ≤ 240))) 1 ++ r.take 240) := by
  simp [spdmRecvRun, h]

/-- While a request is being answered, the command waits. -/
theorem spdmRecvRun_waits {s : State} (h : s.spdm.resp = none) (hready : s.spdm.ready = true) :
    spdmRecvRun [] s = { s with i3c := { s.i3c with waiting := some (.spdmRecv []) } } := by
  simp [spdmRecvRun, h, hready]

/-! ### The firmware slot that does not run (R698) -/

theorem State.otherSlot_setOther (s : State) (f : FwImage) : (s.setOther f).otherSlot = f := by
  by_cases h : s.rd DEV_FW_SLOT_SLOT = 0
  · rw [State.setOther, if_pos h]
    show (if 1 - s.rd DEV_FW_SLOT_SLOT = 0 then s.fwA else f) = f
    rw [if_neg (by omega)]
  · rw [State.setOther, if_neg h]
    show (if 1 - s.rd DEV_FW_SLOT_SLOT = 0 then f else s.fwB) = f
    rw [if_pos (by omega)]

/-- Writing the other slot leaves the running one. -/
theorem State.runningSlot_setOther (s : State) (f : FwImage) :
    (s.setOther f).fwSlot (s.rd DEV_FW_SLOT_SLOT) = s.fwSlot (s.rd DEV_FW_SLOT_SLOT) := by
  by_cases h : s.rd DEV_FW_SLOT_SLOT = 0 <;> simp [State.setOther, State.fwSlot, h]

theorem State.foot_setOther_of {s t : State} {ks : List Nat} (h : s.foot t ks) (f : FwImage) : s.foot (t.setOther f) ks := by
  unfold State.setOther
  split <;> exact State.foot_upd_of h rfl rfl rfl rfl

@[simp] theorem State.otherSlot_commit (s t : State) : (s.commit t).otherSlot = t.otherSlot := by simp [State.otherSlot, State.fwSlot]

/-- An image with the bytes `d` written from `o` on. -/
def FwImage.write (f : FwImage) (o : Nat) (d : List Byte) : FwImage :=
  { f with data := d.zipIdx.foldl (fun t b => Tab.put t (o + b.2) b.1) f.data }

/-- A list put into a table under the keys that follow each other from `o + m` on. -/
theorem Tab.find_foldl_put {α : Type} (d : List α) (o k : Nat) : ∀ (m : Nat) (t : List (Nat × α)),
    find ((d.zipIdx m).foldl (fun t b => put t (o + b.2) b.1) t) k =
      if o + m ≤ k ∧ k < o + m + d.length then d[k - (o + m)]? else find t k := by
  induction d with
  | nil =>
    intro m t
    rw [if_neg (by simp only [List.length_nil]; omega)]
    rfl
  | cons x d ih =>
    intro m t
    rw [List.zipIdx_cons, List.foldl_cons, ih, find_put, List.length_cons]
    by_cases first : k = o + m
    · rw [if_neg (by omega), if_pos first, if_pos (by omega), first, Nat.sub_self, List.getElem?_cons_zero]
    · by_cases later : o + (m + 1) ≤ k ∧ k < o + (m + 1) + d.length
      · rw [if_pos later, if_pos (by omega), show k - (o + m) = k - (o + (m + 1)) + 1 by omega, List.getElem?_cons_succ]
      · rw [if_neg later, if_neg first, if_neg (by omega)]

theorem FwImage.find_write (f : FwImage) (o : Nat) (d : List Byte) (k : Nat) :
    Tab.find (f.write o d).data k = if o ≤ k ∧ k < o + d.length then d[k - o]? else Tab.find f.data k :=
  Tab.find_foldl_put d o k 0 f.data

/-- FW_BEGIN erases the other slot and notes the size. -/
theorem fwBeginRun_erases {s : State} {a : List Byte} (h4 : a.length = 4) (h1 : 1 ≤ leNat a) (hm : leNat a ≤ 0x1000000) :
    fwBeginRun a s = ({ s.setOther default with i3c := { (s.setOther default).i3c with fwSize := some (leNat a) } } : State).respond
      stSuccess [] :=
  if_pos ⟨h4, h1, hm⟩

/-- FW_DATA writes its bytes to the other slot. -/
theorem fwDataRun_writes {s : State} {a : List Byte} {n : Nat} (hn : s.i3c.fwSize = some n) (h5 : 5 ≤ a.length) (h244 : a.length ≤ 244)
    (hin : fieldLE a 0 4 + (a.length - 4) ≤ n) :
    fwDataRun a s = (s.setOther (s.otherSlot.write (fieldLE a 0 4) (a.drop 4))).respond stSuccess [] := by
  have inside : 5 ≤ a.length ∧ a.length ≤ 244 ∧ fieldLE a 0 4 + (a.drop 4).length ≤ n := by
    rw [List.length_drop]
    exact ⟨h5, h244, hin⟩
  simp only [fwDataRun, hn, if_pos inside, FwImage.write]

/-- FW_COMMIT of a valid slot without RAISE_SVN only answers. -/
theorem fwCommitRun_keeps {s : State} {a : List Byte} (h1 : a.length = 1) (ha : leNat a = 0) (hv : s.fwValid s.otherSlot = true) :
    fwCommitRun a s = s.respond stSuccess (leBytes s.otherSlot.ver 4 ++ leBytes s.otherSlot.secNum 4) := by
  simp [fwCommitRun, h1, ha, hv]

/-- FW_COMMIT of a valid slot with RAISE_SVN raises the fused minimum to its SVN. -/
theorem fwCommitRun_raises {s : State} {a : List Byte} (h1 : a.length = 1) (ha : leNat a = 1) (hv : s.fwValid s.otherSlot = true) :
    fwCommitRun a s = (({ s with fwMin := max s.fwMin s.otherSlot.secNum } : State).wr DEV_FW_MIN_SVN
      (max s.fwMin s.otherSlot.secNum)).respond stSuccess (leBytes s.otherSlot.ver 4 ++ leBytes s.otherSlot.secNum 4) := by
  simp [fwCommitRun, h1, ha, hv]

/-- FW_COMMIT of a slot that is not valid is malformed. -/
theorem fwCommitRun_invalid {s : State} {a : List Byte} (hv : s.fwValid s.otherSlot = false) : fwCommitRun a s = s.malformed := by
  simp [fwCommitRun, hv]

/-! ### The seven SPDM messages (R695) -/

/-- A request on I3C is answered there; no command waits that the answer lets run. -/
theorem State.spdmRun_i3c {s : State} {code : Nat} (hw : s.i3c.waiting = none) (ha : s.spdm.asks code = true) (next : Nat → Nat) :
    s.spdmRun code next = s.spdmAnswer (next s.spdm.conn) := by
  have nothingWaits : (s.spdmAnswer (next s.spdm.conn)).i3c.waiting = none := hw
  rw [State.spdmRun, if_pos ha, State.runWaiting, nothingWaits]

/-- Any other is answered on DOE. -/
theorem State.spdmRun_doe {s : State} {code : Nat} (ha : s.spdm.asks code = false) (next : Nat → Nat) :
    s.spdmRun code next =
      { s with doe := s.spdmAnswered { s.doe with msg := s.doeRequest code } (next s.doe.conn), fresh := s.fresh + 1 } := by
  simp [State.spdmRun, ha]

/-- The messages, each with its request code and what it does to the connection. -/
def spdmMessage (c : Instr) (code : Nat) (next : Nat → Nat) : Prop :=
  c = .getVersion ∧ code = 0x84 ∧ next = (fun _ => 1) ∨ c = .getCapabilities ∧ code = 0xE1 ∧ next = (fun n => if n = 1 then 2 else n) ∨
    c = .negotiateAlgorithms ∧ code = 0xE3 ∧ next = (fun n => if n = 2 then 3 else n) ∨
    (c = .getDigests ∧ code = 0x81 ∨ c = .getCertificate ∧ code = 0x82 ∨ c = .challenge ∧ code = 0x83 ∨
      c = .getMeasurements ∧ code = 0xE0) ∧ next = (fun n => n)

/-- All seven run the same answer, with a code and a connection state of their own. -/
theorem exec_spdmMessage {c : Instr} {code : Nat} {next : Nat → Nat} (h : spdmMessage c code next) (s : State) :
    exec c s = s.rails (s.spdmAsked code) (State.spdmRun code next) := by
  rcases h with ⟨rfl, rfl, rfl⟩ | ⟨rfl, rfl, rfl⟩ | ⟨rfl, rfl, rfl⟩ |
    ⟨⟨rfl, rfl⟩ | ⟨rfl, rfl⟩ | ⟨rfl, rfl⟩ | ⟨rfl, rfl⟩, rfl⟩ <;> rfl

/-- With the main rails on, a message that was asked for on I3C, or that can come on DOE, is answered. -/
theorem exec_spdmMessage_next {c : Instr} {code : Nat} {next : Nat → Nat} (h : spdmMessage c code next) {s : State}
    (hr : s.railsUp = true) (ha : s.spdmAsked code = true) : exec c s = .next (s.commit (s.spdmRun code next)) := by
  rw [exec_spdmMessage h, State.rails_next hr ha]

/-! ### What the commands answer

Each clause of the statement on the commands: the command runs at once, and its effect is the equation above. -/

section
variable {s : State} (hs : s.pwr.standby = true) (hw : s.i3c.waiting = none) (hr : s.rd PWR_STAT_STATE ≤ 1)
include hs hw hr

theorem exec_spdmSend_joins {a : List Byte} (h2 : 2 ≤ a.length) (h241 : a.length ≤ 241) (hready : s.spdm.ready = false)
    (hresp : s.spdm.resp = none) (hf : fieldLE a 0 1 ≤ 1)
    (hcode : fieldLE a 0 1 = 1 → spdmCodes.contains (fieldLE (s.spdm.msg ++ a.drop 1) 1 1) = true) :
    ∃ t, exec (.spdmSend a) s = .next t ∧ t.i3c.resp = some (leBytes stSuccess 1 ++ leBytes 0 2 ++ []) ∧
      t.spdm.msg = s.spdm.msg ++ a.drop 1 ∧ t.spdm.ready = (fieldLE a 0 1 == 1) ∧ s.foot t [] := by
  have run := spdmSendRun_joins (s := privateReadEffect s) h2 h241 hready hresp hf hcode
  exact ⟨_, State.m_next hs hw hr run, rfl, rfl, rfl, State.foot_commit (State.foot_of_eq rfl rfl rfl rfl)⟩

theorem exec_spdmRecv_chunk {r : List Byte} (h : s.spdm.resp = some r) :
    let d := leBytes (b2n (decide (r.length ≤ 240))) 1 ++ r.take 240
    ∃ t, exec (.spdmRecv []) s = .next t ∧ t.i3c.resp = some (leBytes stSuccess 1 ++ leBytes d.length 2 ++ d) ∧
      t.spdm.resp = (if r.length ≤ 240 then none else some (r.drop 240)) ∧ s.foot t [] := by
  have run := spdmRecvRun_chunk (s := privateReadEffect s) h
  exact ⟨_, State.m_next hs hw hr run, rfl, rfl, State.foot_commit (State.foot_of_eq rfl rfl rfl rfl)⟩

theorem exec_spdmRecv_waits (h : s.spdm.resp = none) (hready : s.spdm.ready = true) :
    ∃ t, exec (.spdmRecv []) s = .next t ∧ t.i3c.waiting = some (.spdmRecv []) ∧ t.i3c.resp = none ∧ s.foot t [] := by
  have run := spdmRecvRun_waits (s := privateReadEffect s) h hready
  exact ⟨_, State.m_next hs hw hr run, rfl, rfl, State.foot_commit (State.foot_of_eq rfl rfl rfl rfl)⟩

theorem exec_fwBegin_erases {a : List Byte} (h4 : a.length = 4) (h1 : 1 ≤ leNat a) (hm : leNat a ≤ 0x1000000) :
    ∃ t, exec (.fwBegin a) s = .next t ∧ t.i3c.resp = some (leBytes stSuccess 1 ++ leBytes 0 2 ++ []) ∧ t.otherSlot = default ∧
      t.i3c.fwSize = some (leNat a) ∧ t.fwSlot (s.rd DEV_FW_SLOT_SLOT) = s.fwSlot (s.rd DEV_FW_SLOT_SLOT) ∧ s.foot t [] := by
  have run := fwBeginRun_erases (s := privateReadEffect s) h4 h1 hm
  have foot : s.foot ((privateReadEffect s).setOther default) [] := State.foot_setOther_of (State.foot_of_eq rfl rfl rfl rfl) default
  exact ⟨_, State.m_next hs hw hr run, rfl, (State.otherSlot_commit ..).trans ((privateReadEffect s).otherSlot_setOther default), rfl,
    (privateReadEffect s).runningSlot_setOther default, State.foot_commit (State.foot_upd_of foot rfl rfl rfl rfl)⟩

theorem exec_fwData_writes {a : List Byte} {n : Nat} (hn : s.i3c.fwSize = some n) (h5 : 5 ≤ a.length) (h244 : a.length ≤ 244)
    (hin : fieldLE a 0 4 + (a.length - 4) ≤ n) :
    ∃ t, exec (.fwData a) s = .next t ∧ t.i3c.resp = some (leBytes stSuccess 1 ++ leBytes 0 2 ++ []) ∧
      t.otherSlot = s.otherSlot.write (fieldLE a 0 4) (a.drop 4) ∧ s.foot t [] := by
  have run := fwDataRun_writes (s := privateReadEffect s) hn h5 h244 hin
  have foot := State.foot_setOther_of (t := privateReadEffect s) (ks := []) (State.foot_of_eq rfl rfl rfl rfl)
    (s.otherSlot.write (fieldLE a 0 4) (a.drop 4))
  exact ⟨_, State.m_next hs hw hr run, rfl, (State.otherSlot_commit ..).trans ((privateReadEffect s).otherSlot_setOther _),
    State.foot_commit (State.foot_upd_of foot rfl rfl rfl rfl)⟩

theorem exec_fwCommit_valid {a : List Byte} (h1 : a.length = 1) (ha : leNat a ≤ 1) (hv : s.fwValid s.otherSlot = true) :
    let d := leBytes s.otherSlot.ver 4 ++ leBytes s.otherSlot.secNum 4
    ∃ t, exec (.fwCommit a) s = .next t ∧ t.i3c.resp = some (leBytes stSuccess 1 ++ leBytes d.length 2 ++ d) ∧
      t.fwMin = (if leNat a = 1 then max s.fwMin s.otherSlot.secNum else s.fwMin) ∧ s.foot t [DEV_FW_MIN_SVN.key 0 0] := by
  by_cases raise : leNat a = 1
  · have run := fwCommitRun_raises (s := privateReadEffect s) h1 raise hv
    have foot : s.foot (({ privateReadEffect s with fwMin := max s.fwMin s.otherSlot.secNum } : State).wr DEV_FW_MIN_SVN
        (max s.fwMin s.otherSlot.secNum)) [DEV_FW_MIN_SVN.key 0 0] :=
      State.foot_wr_of (State.foot_of_eq rfl rfl rfl rfl) (List.mem_singleton_self _)
    exact ⟨_, State.m_next hs hw hr run, rfl, (if_pos raise).symm, State.foot_commit (State.foot_upd_of foot rfl rfl rfl rfl)⟩
  · have run := fwCommitRun_keeps (s := privateReadEffect s) h1 (by omega) hv
    exact ⟨_, State.m_next hs hw hr run, rfl, (if_neg raise).symm, State.foot_commit (State.foot_of_eq rfl rfl rfl rfl)⟩

theorem exec_fwCommit_invalid (a : List Byte) (hv : s.fwValid s.otherSlot = false) :
    ∃ t, exec (.fwCommit a) s = .next t ∧ t.i3c.resp = some (leBytes stMalformed 1 ++ leBytes 0 2 ++ []) ∧ t.fwMin = s.fwMin ∧
      s.foot t [] := by
  have run := fwCommitRun_invalid (s := privateReadEffect s) (a := a) hv
  exact ⟨_, State.m_next hs hw hr run, rfl, rfl, State.foot_commit (State.foot_of_eq rfl rfl rfl rfl)⟩

end

/-! ### What the messages answer -/

section
variable {s : State} {c : Instr} {code : Nat} {next : Nat → Nat} (hr : s.railsUp = true) (h : spdmMessage c code next)
include hr h

theorem exec_spdmMessage_i3c (hw : s.i3c.waiting = none) (ha : s.spdm.asks code = true) :
    ∃ t, exec c s = .next t ∧ t.spdm = s.spdmAnswered s.spdm (next s.spdm.conn) ∧ t.doe = s.doe ∧ s.foot t [] := by
  have answered := exec_spdmMessage_next h hr (by simp [State.spdmAsked, ha])
  rw [State.spdmRun_i3c hw ha] at answered
  exact ⟨_, answered, rfl, rfl, State.foot_commit (State.foot_of_eq rfl rfl rfl rfl)⟩

theorem exec_spdmMessage_doe (ha : s.spdm.asks code = false) (hf : s.front = true) :
    ∃ t, exec c s = .next t ∧ t.doe = s.spdmAnswered { s.doe with msg := s.doeRequest code } (next s.doe.conn) ∧ t.spdm = s.spdm ∧
      s.foot t [] := by
  have answered := exec_spdmMessage_next h hr (by simp [State.spdmAsked, hf])
  rw [State.spdmRun_doe ha] at answered
  exact ⟨_, answered, rfl, rfl, State.foot_commit (State.foot_of_eq rfl rfl rfl rfl)⟩

end

/-- Settles O52: each command and each message by its own lemma above, on the commands' side from the fact that an M command runs at once
in these states, on the messages' side from the one answer that all seven run. -/
theorem attestationAndFirmware : Obligations.AttestationAndFirmware := by
  unfold Obligations.AttestationAndFirmware
  refine ⟨fun s hs hw hr => ⟨fun a h2 h241 hready hresp => ⟨fun more => ?more, fun last hcode => ?last⟩, fun r h => ?chunk,
    fun h hready => ?waits, fun a h4 h1 hm => ?erases, fun a n hn h5 h244 hin => ?writes,
    fun a h1 ha => ⟨fun hv => ?valid, fun hv => ?invalid⟩⟩,
    fun s code next c hr hw h => ⟨fun ha => ?i3c, fun ha hf => ?doe⟩⟩
  case more =>
    obtain ⟨t, run, resp, msg, ready, foot⟩ := exec_spdmSend_joins hs hw hr h2 h241 hready hresp (by omega) (by omega)
    exact ⟨t, run, resp, msg, by rw [ready, more]; rfl, foot⟩
  case last =>
    obtain ⟨t, run, resp, msg, ready, foot⟩ := exec_spdmSend_joins hs hw hr h2 h241 hready hresp (by omega) (fun _ => hcode)
    exact ⟨t, run, resp, msg, by rw [ready, last]; rfl, foot⟩
  case chunk => exact exec_spdmRecv_chunk hs hw hr h
  case waits => exact exec_spdmRecv_waits hs hw hr h hready
  case erases => exact exec_fwBegin_erases hs hw hr h4 h1 hm
  case writes =>
    obtain ⟨t, run, resp, slot, store, regs⟩ := exec_fwData_writes hs hw hr hn h5 h244 hin
    refine ⟨t, run, resp, store, regs, fun k inside => ?_, fun k outside => ?_⟩
    · rw [slot, FwImage.find_write, List.length_drop, if_pos (by omega), Nat.add_sub_cancel_left, List.getElem?_drop,
        List.getElem?_eq_getElem (by omega), List.getD_eq_getElem]
    · rw [slot, FwImage.find_write, List.length_drop, if_neg (by omega)]
  case valid => exact exec_fwCommit_valid hs hw hr h1 ha hv
  case invalid => exact exec_fwCommit_invalid hs hw hr a hv
  case i3c => exact exec_spdmMessage_i3c hr h hw ha
  case doe => exact exec_spdmMessage_doe hr h ha hf

end Sys2Proof.Machine
end

section
/-!
PROOF. A step and the order of the representation (R26, R39, R304): a command answers its effect brought in order, or the state as it
was, and a tick answers its effect brought in order.
-/
namespace Sys2Proof.Machine

/-- Every command answers its effect, brought in order, where its condition holds, and the state as it was where it does not. -/
theorem exec_commits (i : Instr) (s : State) : ∃ (ok : Bool) (u : State), exec i s = .next (if ok then s.commit u else s) := by
  cases i with
  | memoryRequest a r k b =>
    -- the one command that looks at its operands before its condition: an address of no memory names no controller
    show ∃ (ok : Bool) (u : State), execMemoryRequest a r k b s = _
    unfold execMemoryRequest
    split
    · exact ⟨_, _, rfl⟩
    · exact ⟨false, s, rfl⟩
  | _ => exact ⟨_, _, rfl⟩

/-- A command keeps the representation in order. -/
theorem exec_ordered {i : Instr} {s t : State} (hs : s.ordered = true) (h : exec i s = .next t) : t.ordered = true := by
  obtain ⟨ok, u, run⟩ := exec_commits i s
  obtain rfl : (if ok then s.commit u else s) = t := Host.Outcome.next.inj (run.symm.trans h)
  cases ok with
  | false => exact hs
  | true => exact State.ordered_commit ..

/-- With a command in front, a step runs it with the rest of the queue. -/
theorem step_cons (c : Instr) (s : State) (rest : List Instr) (h : s.pending = c :: rest) :
    step s = exec c { s with pending := rest } := by
  simp only [step, h]

/-- On an empty queue a step is a tick. -/
theorem step_nil (s : State) (h : s.pending = []) : step s = .next (idle s) := by
  simp only [step, h]

/-- The queue is no part of the order. -/
theorem State.ordered_pending (s : State) (q : List Instr) : State.ordered { s with pending := q } = s.ordered := rfl

/-- Settles O54: a step is `exec` of the command in front or, on an empty queue, a tick, which ends with `State.commit`. -/
theorem stepRunsTheFrontCommand : Obligations.StepRunsTheFrontCommand := by
  refine ⟨fun c s rest => step_cons c _ rest rfl, fun s h => ⟨idle s, step_nil s h, h, ?_⟩⟩
  exact State.ordered_commit ..

/-- Settles O56: a step runs a command, which keeps the order, or is a tick, which brings the tables in order. -/
theorem everyStepKeepsTheStateOrdered : Obligations.EveryStepKeepsTheStateOrdered := by
  intro s t hs h
  cases hq : s.pending with
  | nil =>
    rw [step_nil s hq] at h
    exact Host.Outcome.next.inj h ▸ State.ordered_commit ..
  | cons c rest =>
    rw [step_cons c s rest hq] at h
    exact exec_ordered (s.ordered_pending rest ▸ hs) h

end Sys2Proof.Machine
end

section
/-!
PROOF. Seals, device pages and the upkeep of memories (R38, R210, R217, R396, R401, R403, R408, R409, R741 to R743): the routing and
special-function tables, DEV_ID, NARROW_CFG, the read caches, the background test and the spare banks.
-/
namespace Sys2Proof.Machine

/-- A command of the main dies whose condition holds answers its effect; what the effect changes besides registers, the answer shows. -/
theorem State.rails_foot {s : State} {ok : Bool} {ks : List Nat} (hr : s.railsUp = true) (h : ok = true) (f : State → State)
    (hf : s.foot (f s) ks) : s.rails ok f = .next (s.commit (f s)) ∧ s.foot (s.commit (f s)) ks :=
  ⟨State.rails_next hr h f, State.foot_commit hf⟩

/-- A write of another field than its state leaves the stroke unit's state. -/
theorem State.stkState_wr (s : State) {f : Fld} {v i j : Nat} (h : STK_STAT_STATE.key 0 0 ≠ f.key i j) :
    (s.wr f v i j).stkState = s.stkState := s.rd_wr_ne h v

/-! ### The tables (R401, R403, R743) -/

/-- The route table with a swap asked for. -/
def State.routesSealed (s : State) : State := (s.on RT_CTL_SEAL).on RT_CTL_PENDING

theorem State.routesSealed_stkState (s : State) : s.routesSealed.stkState = s.stkState :=
  (State.stkState_wr _ (by decide)).trans (s.stkState_wr (by decide))

theorem State.foot_routesSealed (s : State) : s.foot s.routesSealed [RT_CTL_SEAL.key 0 0, RT_CTL_PENDING.key 0 0] :=
  State.foot_wr_of (State.foot_wr (by simp)) (by simp)

/-- The swap of the route table changes its three controls. -/
theorem State.foot_swapRoutes_ctl (s : State) :
    s.foot s.swapRoutes [RT_CTL_SEAL.key 0 0, RT_CTL_PENDING.key 0 0, RT_CTL_FRONT.key 0 0] := by
  refine State.foot_upd_of (t := ((s.wr RT_CTL_FRONT (1 - s.rd RT_CTL_FRONT)).wr RT_CTL_SEAL 0).wr RT_CTL_PENDING 0) ?_ rfl rfl rfl rfl
  exact State.foot_wr_of (State.foot_wr_of (State.foot_wr (by simp)) (by simp)) (by simp)

theorem rtSealEffect_stopped {s : State} (h : s.stkState = 0) : rtSealEffect s = s.routesSealed.swapRoutes :=
  if_pos (s.routesSealed_stkState.trans h)

theorem rtSealEffect_else {s : State} (h : s.stkState ≠ 0) : rtSealEffect s = s.routesSealed :=
  if_neg (fun e => h (s.routesSealed_stkState.symm.trans e))

/-- The special-function table with a version behind and a swap asked for. -/
def State.sfuSealed (s : State) (v : Nat) : State := ({ s with sfuVer := (s.sfuVer.1, v) }.on SFU_CTL_SEAL).on SFU_CTL_PENDING

/-- The registers that a seal of the special-function table may change. -/
def sfuKeys : List Nat := [SFU_CTL_SEAL.key 0 0, SFU_CTL_PENDING.key 0 0, SFU_CTL_FRONT.key 0 0, DEV_FW_VERSION.key 0 0]

theorem State.sfuSealed_stkState (s : State) (v : Nat) : (s.sfuSealed v).stkState = s.stkState :=
  (State.stkState_wr _ (by decide)).trans (State.stkState_wr _ (by decide))

theorem State.foot_sfuSealed (s : State) (v : Nat) : s.foot (s.sfuSealed v) sfuKeys :=
  State.foot_wr_of (State.foot_wr_of (State.foot_of_eq rfl rfl rfl rfl) (by simp [sfuKeys])) (by simp [sfuKeys])

theorem State.foot_swapSfu_ctl (s : State) : s.foot s.swapSfu sfuKeys := by
  refine State.foot_upd_of (t := (((s.wr SFU_CTL_FRONT (1 - s.rd SFU_CTL_FRONT)).wr SFU_CTL_SEAL 0).wr SFU_CTL_PENDING 0).wr
    DEV_FW_VERSION s.sfuVer.2) ?_ rfl rfl rfl rfl
  exact State.foot_wr_of (State.foot_wr_of (State.foot_wr_of (State.foot_wr (by simp [sfuKeys])) (by simp [sfuKeys])) (by simp [sfuKeys]))
    (by simp [sfuKeys])

theorem sfuSealEffect_stopped {s : State} {v : Nat} (hp : s.is SFU_CTL_PENDING = false) (h : s.stkState = 0) :
    sfuSealEffect v s = (s.sfuSealed v).swapSfu :=
  (if_neg (by simp [hp])).trans (if_pos ((s.sfuSealed_stkState v).trans h))

theorem sfuSealEffect_else {s : State} {v : Nat} (hp : s.is SFU_CTL_PENDING = false) (h : s.stkState ≠ 0) :
    sfuSealEffect v s = s.sfuSealed v :=
  (if_neg (by simp [hp])).trans (if_neg (fun e => h ((s.sfuSealed_stkState v).symm.trans e)))

/-- No swap is pending after one. -/
theorem State.swapRoutes_pending (s : State) : s.swapRoutes.is RT_CTL_PENDING = false := by
  have h : s.swapRoutes.rd RT_CTL_PENDING = 0 :=
    State.rd_wr_same ((s.wr RT_CTL_FRONT (1 - s.rd RT_CTL_FRONT)).off RT_CTL_SEAL) RT_CTL_PENDING 0 0 0
  simp [State.is, h]

theorem State.swapSfu_pending (s : State) : s.swapSfu.is SFU_CTL_PENDING = false := by
  have h : s.swapSfu.rd SFU_CTL_PENDING = 0 := (State.rd_wr_ne _ (by decide) _).trans (State.rd_wr_same ..)
  simp [State.is, h]

/-! ### DEV_ID (R742) -/

theorem State.foot_takeId (s : State) (id : Nat) : s.foot (s.takeId id) [DEV_ID_ID.key 0 0] :=
  State.foot_upd_of (State.foot_wr (List.mem_singleton_self _)) rfl rfl rfl rfl

theorem State.foot_cfgErr (s : State) (p : Page) (i : Nat) :
    s.foot (s.cfgErr p i) [(BLK_STAT_CFG_ERR p).key i 0, (BLK_INT_STAT p).key i 0] :=
  State.foot_cause_of (State.foot_wr (by simp)) (by simp)

theorem State.cfgErr_is (s : State) (p : Page) (i : Nat) : (s.cfgErr p i).is (BLK_STAT_CFG_ERR p) i = true := by
  have h : (BLK_STAT_CFG_ERR p).key i 0 ≠ (BLK_INT_STAT p).key i 0 := by simp [Fld.key, BLK_STAT_CFG_ERR, BLK_INT_STAT]; omega
  rw [State.cfgErr_eq, State.cause_eq, State.is, State.rd_wr_ne _ h]
  exact State.is_wr_one s _ _ _ rfl

theorem State.takeId_dev (s : State) {id : Nat} (h : id < 512) : (s.takeId id).dev = id :=
  (State.rd_wr_same s DEV_ID_ID id 0 0).trans (Nat.mod_eq_of_lt h)

/-! ### NARROW_CFG (R210, R741) -/

section
variable {s : State} {f g : Fld} {i j v : Nat} (hk : f.acc = .rwk) (ha : actsOnly f = false)
include hk ha

theorem State.putField_rwk : s.putField f i j v =
    if f.part v = s.rd f i j then s else (s.wr f (f.part v) i j).on (BLK_RETAIN_CTL_DIRTY f.page) i := by
  simp [State.putField, hk, ha]

/-- A retained field takes its part of the value; the page's DIRTY may change besides. -/
theorem State.foot_putField_rwk : s.foot (s.putField f i j v) [f.key i j, (BLK_RETAIN_CTL_DIRTY f.page).key i 0] := by
  rw [State.putField_rwk hk ha]
  split
  · exact s.foot_refl
  · exact State.foot_wr_of (State.foot_wr (by simp)) (by simp)

theorem State.rd_putField_rwk (hd : f.key i j ≠ (BLK_RETAIN_CTL_DIRTY f.page).key i 0) : (s.putField f i j v).rd f i j = f.part v := by
  rw [State.putField_rwk hk ha]
  split
  · next h => exact h.symm
  · rw [State.on_eq, State.rd_wr_ne _ hd, State.rd_wr_same]
    exact Nat.mod_mod ..

theorem State.rd_putField_rwk_ne {k l : Nat} (hf : g.key k l ≠ f.key i j) (hd : g.key k l ≠ (BLK_RETAIN_CTL_DIRTY f.page).key i 0) :
    (s.putField f i j v).rd g k l = s.rd g k l :=
  (State.foot_putField_rwk hk ha).2 g k l (by simp [hf, hd])

end

/-- NARROW_CFG has three fields. -/
theorem fieldsAt_narrow : fieldsAt .dev 0x120 = [(NARROW_CFG_KV, 0), (NARROW_CFG_GRAD, 0), (NARROW_CFG_OPT, 0)] := by decide

/-- The three fields of NARROW_CFG after one another. -/
theorem narrowCfgEffect_eq {s : State} {v : Nat} (h0 : s.stkState = 0) (hb : s.is PWR_RET_STAT_BUSY = false)
    (h1 : narrowAllowed 0 (bits v 0 4) = true) (h2 : narrowAllowed 4 (bits v 4 4) = true) (h3 : narrowAllowed 8 (bits v 8 4) = true) :
    narrowCfgEffect v s =
      ((s.putField NARROW_CFG_KV 0 0 v).putField NARROW_CFG_GRAD 0 0 v).putField NARROW_CFG_OPT 0 0 v := by
  have taken : s.verdict .dev 0 0x120 v = .ok := by simp [State.verdict, State.devVerdict, okIf, h0, h1, h2, h3]
  have retained : NARROW_CFG_KV.acc = .rwk := rfl
  simp [narrowCfgEffect, State.specificWrite, State.putFields, State.act, fieldsAt_narrow, taken, hb, retained]

/-- The registers that NARROW_CFG may change. -/
def narrowKeys : List Nat :=
  [NARROW_CFG_KV.key 0 0, NARROW_CFG_GRAD.key 0 0, NARROW_CFG_OPT.key 0 0, (BLK_RETAIN_CTL_DIRTY .dev).key 0 0]

theorem State.foot_narrow (s : State) (v : Nat) : s.foot
    (((s.putField NARROW_CFG_KV 0 0 v).putField NARROW_CFG_GRAD 0 0 v).putField NARROW_CFG_OPT 0 0 v) narrowKeys := by
  have one (t : State) (f : Fld) (hk : f.acc = .rwk) (ha : actsOnly f = false) (hp : f.page = .dev) (hf : f.key 0 0 ∈ narrowKeys) :
      t.foot (t.putField f 0 0 v) narrowKeys :=
    State.foot_mono (State.foot_putField_rwk hk ha) (List.cons_subset.2 ⟨hf, by simp [hp, narrowKeys]⟩)
  refine State.foot_then (State.foot_then (one _ _ ?_ ?_ ?_ ?_) (one _ _ ?_ ?_ ?_ ?_)) (one _ _ ?_ ?_ ?_ ?_)
  all_goals decide

/-- The three fields read the parts of the value. -/
theorem State.rd_narrow (s : State) (v : Nat) :
    let t := ((s.putField NARROW_CFG_KV 0 0 v).putField NARROW_CFG_GRAD 0 0 v).putField NARROW_CFG_OPT 0 0 v
    t.rd NARROW_CFG_KV = bits v 0 4 ∧ t.rd NARROW_CFG_GRAD = bits v 4 4 ∧ t.rd NARROW_CFG_OPT = bits v 8 4 := by
  refine ⟨?_, ?_, ?_⟩
  · rw [State.rd_putField_rwk_ne rfl (by decide) (by decide) (by decide), State.rd_putField_rwk_ne rfl (by decide) (by decide) (by decide),
      State.rd_putField_rwk rfl (by decide) (by decide)]
    rfl
  · rw [State.rd_putField_rwk_ne rfl (by decide) (by decide) (by decide), State.rd_putField_rwk rfl (by decide) (by decide)]
    rfl
  · rw [State.rd_putField_rwk rfl (by decide) (by decide)]
    rfl

/-! ### The background test and the spare banks (R408 to R410) -/

/-- POS and PASSES of a memory are two registers. -/
theorem testPos_ne_passes (scratch : Bool) (x : Nat) : (testFlds scratch).2.2.1.key x 0 ≠ (testFlds scratch).2.2.2.key x 0 := by
  cases scratch <;> simp [testFlds, Fld.key, Page.base, CORE_SP_TEST_POS_ROW, CORE_SP_TEST_PASSES, CST_TEST_POS_ROW, CST_TEST_PASSES]

/-- POS holds every row of its memory. -/
theorem testRows_eq (scratch : Bool) : testRows scratch = 2 ^ (testFlds scratch).2.2.1.w := by cases scratch <;> rfl

/-- A row of a memory has been tested: POS moves on, and after the last row a pass is counted. -/
def State.rowTested (s : State) (scratch : Bool) (x : Nat) : State :=
  let t := s.wr (testFlds scratch).2.2.1 ((s.rd (testFlds scratch).2.2.1 x + 1) % Machine.testRows scratch) x
  if s.rd (testFlds scratch).2.2.1 x + 1 = Machine.testRows scratch then t.bump (testFlds scratch).2.2.2 1 x else t

theorem backgroundTestEffect_nil (s : State) (scratch : Bool) (x : Nat) : backgroundTestEffect scratch x [] s =
    { s.rowTested scratch x with
      testRows := Tab.put (s.rowTested scratch x).testRows (testKey scratch x)
        (Tab.look (s.rowTested scratch x).testRows (testKey scratch x) 0 + 1) } := rfl

/-- The test without an outcome moves POS on, and may count a pass. -/
theorem foot_backgroundTest (s : State) (scratch : Bool) (x : Nat) :
    s.foot (backgroundTestEffect scratch x [] s) [(testFlds scratch).2.2.1.key x 0, (testFlds scratch).2.2.2.key x 0] := by
  rw [backgroundTestEffect_nil]
  refine State.foot_upd_of (t := s.rowTested scratch x) ?_ rfl rfl rfl rfl
  unfold State.rowTested
  split
  · exact State.foot_wr_of (State.foot_wr (by simp)) (by simp)
  · exact State.foot_wr (by simp)

theorem rd_backgroundTest (s : State) (scratch : Bool) (x : Nat) : (backgroundTestEffect scratch x [] s).rd (testFlds scratch).2.2.1 x =
    (s.rd (testFlds scratch).2.2.1 x + 1) % testRows scratch := by
  have moved : (s.wr (testFlds scratch).2.2.1 ((s.rd (testFlds scratch).2.2.1 x + 1) % testRows scratch) x).rd (testFlds scratch).2.2.1 x =
      (s.rd (testFlds scratch).2.2.1 x + 1) % testRows scratch := by
    rw [State.rd_wr_same, testRows_eq, Nat.mod_mod]
  rw [backgroundTestEffect_nil]
  show (s.rowTested scratch x).rd (testFlds scratch).2.2.1 x = _
  unfold State.rowTested
  split
  · exact (State.rd_wr_ne _ (testPos_ne_passes scratch x) _).trans moved
  · exact moved

/-- A spare in service: the registers that it may change lie in the logbook's page and the spares'. -/
def enteredKeys : List Nat := [LOG_DROPPED.key 0 0, (BLK_INT_STAT .spr).key 0 0, SPR_PC_ENTERED.key 0 0, SPR_CMD_STAT_BUSY.key 0 0,
  SPR_CMD_STAT_STATUS.key 0 0]

theorem State.foot_sprDone (s : State) (i : Inst) (st : Nat) : s.foot (s.sprDone i st) enteredKeys := by
  unfold State.sprDone
  split
  · exact State.foot_wr_of (State.foot_wr_of (State.foot_of_eq rfl rfl rfl rfl) (by simp [enteredKeys])) (by simp [enteredKeys])
  · exact s.foot_refl

theorem State.sprDone_retired (s : State) (i : Inst) (st : Nat) : (s.sprDone i st).retired = s.retired := by
  unfold State.sprDone; split <;> rfl

theorem State.sprDone_ledgerPend (s : State) (i : Inst) (st : Nat) : (s.sprDone i st).ledgerPend = s.ledgerPend := by
  unfold State.sprDone; split <;> rfl

theorem State.foot_entered (s : State) (i : Inst) : s.foot (s.entered i) enteredKeys := by
  refine State.foot_then ?_ (State.foot_sprDone _ i _)
  refine State.foot_wr_of (State.foot_cause_of ?_ (by simp [enteredKeys])) (by simp [enteredKeys])
  refine State.foot_upd_of (t := (s.setPhase i 2).logEv .spr 0 0x603 1 0 (instData i)) ?_ rfl rfl rfl rfl
  exact State.foot_logEv_of (State.foot_of_eq rfl rfl rfl rfl) (by simp [enteredKeys])

theorem State.entered_retired (s : State) (i : Inst) : (s.entered i).retired = (s.setPhase i 2).retired :=
  (State.sprDone_retired ..).trans (State.logFrom_retired ..)

theorem State.entered_ledgerPend (s : State) (i : Inst) : (s.entered i).ledgerPend.length = s.ledgerPend.length + 1 := by
  unfold State.entered
  simp only [State.sprDone_ledgerPend, State.bump_eq, State.cause_eq, State.wr_ledgerPend, State.ledgerNote, State.logEv,
    State.logFrom_ledgerPend, List.length_append]
  rfl

/-- An item whose phase is set has it. -/
theorem State.phase_setPhase (s : State) (i : Inst) (n : Nat) : (s.setPhase i n).phase i = some n := by
  have gone : (s.retired.filter (fun r => r.1 != i)).find? (fun r => r.1 == i) = none := by
    simp [List.find?_eq_none]
  simp [State.phase, State.setPhase, List.find?_append, gone]

theorem State.entered_phase (s : State) (i : Inst) : (s.entered i).phase i = some 2 := by
  rw [State.phase, State.entered_retired]
  exact s.phase_setPhase i 2

/-- COPYING of a spare bank is no register that a spare in service changes. -/
theorem copying_notin_enteredKeys (scratch : Bool) (x k : Nat) : (bankFld scratch k).2.key x 0 ∉ enteredKeys := by
  obtain _ | k := k <;> cases scratch <;>
    simp [bankFld, enteredKeys, Fld.key, Page.base, CORE_SP_BANK_SPARE_SPARE0_COPYING, CORE_SP_BANK_SPARE_SPARE1_COPYING,
      CST_BANK_SPARE_SPARE0_COPYING, CST_BANK_SPARE_SPARE1_COPYING, LOG_DROPPED, BLK_INT_STAT, SPR_PC_ENTERED, SPR_CMD_STAT_BUSY,
      SPR_CMD_STAT_STATUS] <;> omega

/-- The copy of a bank is done: COPYING is clear, and the spare is in service. -/
theorem State.spareBankCopy_is (s : State) (scratch : Bool) (x k : Nat) :
    (spareBankCopyEffect scratch x k s).is (bankFld scratch k).2 x = false := by
  unfold State.is spareBankCopyEffect
  rw [State.foot_rd (State.foot_entered _ _) _ _ _ (copying_notin_enteredKeys scratch x k)]
  simp

/-! ### What the commands answer: their parts of O42 -/

section
variable {s : State} (hr : s.railsUp = true)
include hr

theorem exec_rtSeal_stopped (h : s.stkState = 0) :
    ∃ t, exec .rtSeal s = .next t ∧ t.routesF = s.routesB ∧ t.routesB = s.routesF ∧ t.is RT_CTL_PENDING = false ∧
      s.foot t [RT_CTL_SEAL.key 0 0, RT_CTL_PENDING.key 0 0, RT_CTL_FRONT.key 0 0] := by
  have foot : s.foot (rtSealEffect s) [RT_CTL_SEAL.key 0 0, RT_CTL_PENDING.key 0 0, RT_CTL_FRONT.key 0 0] := by
    rw [rtSealEffect_stopped h]
    exact State.foot_then (State.foot_mono s.foot_routesSealed (by simp)) s.routesSealed.foot_swapRoutes_ctl
  obtain ⟨run, foot⟩ := State.rails_foot hr rfl rtSealEffect foot
  refine ⟨_, run, ?_, ?_, ?_, foot⟩
  all_goals rw [rtSealEffect_stopped h]
  · rfl
  · rfl
  · rw [State.is_commit]; exact State.swapRoutes_pending _

theorem exec_rtSeal_else (h : s.stkState ≠ 0) :
    ∃ t, exec .rtSeal s = .next t ∧ t.routesF = s.routesF ∧ t.is RT_CTL_PENDING = true ∧
      s.foot t [RT_CTL_SEAL.key 0 0, RT_CTL_PENDING.key 0 0] := by
  have foot : s.foot (rtSealEffect s) [RT_CTL_SEAL.key 0 0, RT_CTL_PENDING.key 0 0] := by
    rw [rtSealEffect_else h]
    exact s.foot_routesSealed
  obtain ⟨run, foot⟩ := State.rails_foot hr rfl rtSealEffect foot
  refine ⟨_, run, ?_, ?_, foot⟩
  all_goals rw [rtSealEffect_else h]
  · rfl
  · rw [State.is_commit]; exact State.is_wr_one _ _ _ _ rfl

theorem exec_sfuSeal (v : Nat) (hp : s.is SFU_CTL_PENDING = false) :
    ∃ t, exec (.sfuSeal v) s = .next t ∧ s.foot t sfuKeys ∧ (s.stkState = 0 → t.sfuVer = (v, s.sfuVer.1) ∧ t.is SFU_CTL_PENDING = false) ∧
      (s.stkState ≠ 0 → t.sfuVer = (s.sfuVer.1, v) ∧ t.is SFU_CTL_PENDING = true) := by
  have foot : s.foot (sfuSealEffect v s) sfuKeys := by
    by_cases h : s.stkState = 0
    · rw [sfuSealEffect_stopped hp h]
      exact State.foot_then (s.foot_sfuSealed v) (State.foot_swapSfu_ctl _)
    · rw [sfuSealEffect_else hp h]
      exact s.foot_sfuSealed v
  obtain ⟨run, foot⟩ := State.rails_foot hr rfl (sfuSealEffect v) foot
  refine ⟨_, run, foot, fun h => ?_, fun h => ?_⟩
  · rw [sfuSealEffect_stopped hp h, State.is_commit]
    exact ⟨rfl, State.swapSfu_pending _⟩
  · rw [sfuSealEffect_else hp h, State.is_commit]
    exact ⟨rfl, State.is_wr_one _ _ _ _ rfl⟩

theorem exec_devId_stopped {id : Nat} (hid : id < 512) (h : s.stkState = 0) :
    ∃ t, exec (.devId id) s = .next t ∧ t.dev = id ∧ s.foot t [DEV_ID_ID.key 0 0] := by
  have taken : devIdEffect id s = s.takeId id := if_pos h
  obtain ⟨run, foot⟩ := State.rails_foot hr (decide_eq_true hid) (devIdEffect id) (taken ▸ s.foot_takeId id)
  refine ⟨_, run, ?_, foot⟩
  rw [State.dev, State.rd_commit, taken]
  exact s.takeId_dev hid

theorem exec_devId_else {id : Nat} (hid : id < 512) (h : s.stkState ≠ 0) :
    ∃ t, exec (.devId id) s = .next t ∧ t.is (BLK_STAT_CFG_ERR .dev) = true ∧
      s.foot t [(BLK_STAT_CFG_ERR .dev).key 0 0, (BLK_INT_STAT .dev).key 0 0] := by
  have refused : devIdEffect id s = s.cfgErr .dev := if_neg h
  obtain ⟨run, foot⟩ := State.rails_foot hr (decide_eq_true hid) (devIdEffect id) (refused ▸ s.foot_cfgErr .dev 0)
  refine ⟨_, run, ?_, foot⟩
  rw [State.is_commit, refused]
  exact s.cfgErr_is .dev 0

theorem exec_narrowCfg {v : Nat} (hv : v < 2 ^ 32) (h0 : s.stkState = 0) (hb : s.is PWR_RET_STAT_BUSY = false)
    (h1 : narrowAllowed 0 (bits v 0 4) = true) (h2 : narrowAllowed 4 (bits v 4 4) = true) (h3 : narrowAllowed 8 (bits v 8 4) = true) :
    ∃ t, exec (.narrowCfg v) s = .next t ∧ t.rd NARROW_CFG_KV = bits v 0 4 ∧ t.rd NARROW_CFG_GRAD = bits v 4 4 ∧
      t.rd NARROW_CFG_OPT = bits v 8 4 ∧ s.foot t narrowKeys := by
  have eff := narrowCfgEffect_eq h0 hb h1 h2 h3
  obtain ⟨run, foot⟩ := State.rails_foot hr (decide_eq_true hv) (narrowCfgEffect v) (eff ▸ s.foot_narrow v)
  refine ⟨_, run, ?_⟩
  rw [State.rd_commit, State.rd_commit, State.rd_commit, eff]
  obtain ⟨kv, grad, opt⟩ := s.rd_narrow v
  exact ⟨kv, grad, opt, eff ▸ foot⟩

theorem exec_rcInvalidate {c : Nat} (hc : c < 16) :
    ∃ t, exec (.rcInvalidate c) s = .next t ∧ t.rcache = s.rcache.filter (fun e => e.1 / 32768 != c) ∧ s.foot t [] := by
  obtain ⟨run, foot⟩ := State.rails_foot (ks := []) hr (decide_eq_true hc) (fun s => s.rcClear c) (State.foot_of_eq rfl rfl rfl rfl)
  exact ⟨_, run, rfl, foot⟩

theorem exec_backgroundTest {scratch : Bool} {x : Nat} (hx : x < if scratch then 144 else 16) (h : s.testReady scratch x = true) :
    ∃ t, exec (.backgroundTest scratch x []) s = .next t ∧
      t.rd (testFlds scratch).2.2.1 x = (s.rd (testFlds scratch).2.2.1 x + 1) % testRows scratch ∧
      s.foot t [(testFlds scratch).2.2.1.key x 0, (testFlds scratch).2.2.2.key x 0] := by
  obtain ⟨run, foot⟩ := State.rails_foot hr (Bool.and_eq_true_iff.2 ⟨decide_eq_true hx, h⟩) (backgroundTestEffect scratch x [])
    (foot_backgroundTest s scratch x)
  exact ⟨_, run, (State.rd_commit ..).trans (rd_backgroundTest s scratch x), foot⟩

theorem exec_spareBankCopy {scratch : Bool} {x k : Nat} (hd : s.inDrive = false) (h : s.copyingBank scratch x k = true) :
    ∃ t, exec (.spareBankCopy scratch x k) s = .next t ∧ t.is (bankFld scratch k).2 x = false ∧
      t.phase { kind := if scratch then 2 else 4, block := x, pos := s.rd (bankFld scratch k).1 x } = some 2 ∧
      t.ledgerPend.length = s.ledgerPend.length + 1 ∧ s.sameStore t := by
  have store : s.foot (spareBankCopyEffect scratch x k s) ((bankFld scratch k).2.key x 0 :: enteredKeys) :=
    State.foot_then (State.foot_wr (List.mem_cons_self ..)) (State.foot_mono (State.foot_entered _ _) (List.subset_cons_self ..))
  obtain ⟨run, foot⟩ := State.rails_foot hr (Bool.and_eq_true_iff.2 ⟨beq_iff_eq.2 hd, h⟩) (spareBankCopyEffect scratch x k) store
  refine ⟨_, run, ?_, State.entered_phase _ _, State.entered_ledgerPend _ _, foot.1⟩
  rw [State.is_commit]
  exact s.spareBankCopy_is scratch x k

end

/-- Settles O42: each command answers its effect, whose footprint says what stays. -/
theorem sealsAndMemoryTestsTakeEffect : Obligations.SealsAndMemoryTestsTakeEffect := by
  intro s hr
  refine ⟨fun h => ?rtStopped, fun h => ?rtElse, fun v hp => ?sfu, fun id hid => ?devId, fun v hv h0 hb h1 h2 h3 => ?narrow,
    fun c hc => ?cache, fun scratch x hx h => ?test, fun scratch x k hd h => exec_spareBankCopy hr hd h⟩
  case rtStopped =>
    obtain ⟨t, run, front, back, pending, store, regs⟩ := exec_rtSeal_stopped hr h
    exact ⟨t, run, front, back, pending, store, regs⟩
  case rtElse =>
    obtain ⟨t, run, front, pending, store, regs⟩ := exec_rtSeal_else hr h
    exact ⟨t, run, front, pending, store, regs⟩
  case sfu =>
    obtain ⟨t, run, ⟨store, regs⟩, stopped, other⟩ := exec_sfuSeal hr v hp
    exact ⟨t, run, store, stopped, other, regs⟩
  case devId =>
    by_cases h : s.stkState = 0
    · obtain ⟨t, run, dev, store, regs⟩ := exec_devId_stopped hr hid h
      exact ⟨t, run, store, fun _ => ⟨dev, regs⟩, fun n => absurd h n⟩
    · obtain ⟨t, run, err, store, regs⟩ := exec_devId_else hr hid h
      exact ⟨t, run, store, fun e => absurd e h, fun _ => ⟨err, regs⟩⟩
  case narrow =>
    obtain ⟨t, run, kv, grad, opt, store, regs⟩ := exec_narrowCfg hr hv h0 hb h1 h2 h3
    exact ⟨t, run, kv, grad, opt, store, regs⟩
  case cache =>
    obtain ⟨t, run, cache, store, regs⟩ := exec_rcInvalidate hr hc
    exact ⟨t, run, cache, store, regs⟩
  case test =>
    obtain ⟨t, run, pos, store, regs⟩ := exec_backgroundTest hr hx h
    exact ⟨t, run, store, pos, regs⟩

end Sys2Proof.Machine
end

section
/-!
PROOF. Writes and atomics of other devices (R41, R92, R309, R465, R491, R555 to R558): an access that hits the leaf of an object's page
leaves the whole object undefined, so that bytes outside its own span change.
-/
namespace Sys2Proof.Machine

/-! ### The witness: a device whose object has its leaf at 0x3000

Context 0 has its tables at 0, 0x2000 and 0x3000, and maps the page of 2 MiB at virtual address 0 to frame 32, which is the object's. The
object's first byte was undefined once (with seed 0) and has been written since: it differs from what it reads as when it is undefined
again (with seed 1). Port 0 is up and leads to device 2. -/

/-- First byte of the object. -/
def objByte : Nat := 0x200000

/-- The object of the page of 2 MiB at virtual address 0 of context 0, in frames 32 to 63. -/
def pageObj : Obj := { (default : Obj) with pages := [(0, 32)], big := true }

/-- The three tables: two pointers and the leaf (R461, R462). -/
def leafTables : List Host.Cell := [(0, 1), (2, 0x20), (0x2000, 1), (0x2002, 0x30), (0x3000, 0x0F), (0x3002, 0x20)]

/-- The state in which a packet stands at the head of port 0. -/
def leafAt3000 (p : Packet) : State :=
  { State.reset.wr LNK_STAT_STATE 2 0 with
    mem := leafTables ++ [(objByte, Config.freeByte 1 objByte + 1)]
    undef := [{ lo := objByte, len := 1, seed := 0 }]
    fresh := 1
    routesF := [(2, 0x80000001)]
    ports := [(0, { (default : Port) with rx := [(0, p)] })]
    objs := [(1, pageObj)] }

/-- A packet of device 2 with TAG 5 for the leaf. -/
def leafPacket (type vc : Nat) : Packet :=
  { zeroPacket with type := type, vc := vc, src := 2, addr := 0x3000, slot := 5 }

/-- The answer to it. -/
def leafAnswer (type : Nat) : Packet := { zeroPacket with type := type, dst := 2, slot := 5, status := stSuccess }

theorem leafAt3000_objByte (p : Packet) : (leafAt3000 p).rdByte objByte = Config.freeByte 1 objByte + 1 := rfl

/-- The witness is in order, as every reachable state is. -/
theorem leafAt3000_ordered (p : Packet) : (leafAt3000 p).ordered = true := by
  have tables : leafTables.all (leafAt3000 p).mustList = true := rfl
  have rewritten : (leafAt3000 p).mustList (objByte, Config.freeByte 1 objByte + 1) = true := Bool.or_eq_true_iff.2 (.inr rfl)
  have listed : (leafAt3000 p).mem.all (leafAt3000 p).mustList = true := by
    show (leafTables ++ [_]).all (leafAt3000 p).mustList = true
    rw [List.all_append, tables, List.all_cons, rewritten]
    rfl
  have sorted : Tab.sorted (leafAt3000 p).mem = true := rfl
  show ((Tab.sorted (leafAt3000 p).mem && (leafAt3000 p).mem.all (leafAt3000 p).mustList) && _ && _) = true
  rw [sorted, listed]
  rfl

/-- A byte that memory does not list and that lies in an undefined range reads as its free value. -/
theorem State.rdByte_undefined {s : State} {a r : Nat} (hm : Tab.find s.mem a = none) (hu : undefSeed s.undef a = some r) :
    s.rdByte a = Config.freeByte r a := by
  simp [State.rdByte, State.blank, Tab.look, hm, hu]

/-- After an access to the leaf that has left the object undefined, more than the bytes of the access has changed. -/
theorem not_stored_of_undefined {p : Packet} {u : State} {d : List Byte} (hd : d.length ≤ 4)
    (hm : Tab.find u.mem objByte = none) (hu : undefSeed u.undef objByte = some 1) :
    ¬ (leafAt3000 p).stored ((leafAt3000 p).commit u) 0x3000 d := by
  intro h
  have outside : ¬ (0x3000 ≤ objByte ∧ objByte < 0x3000 + d.length) := by unfold objByte; omega
  have kept := h objByte
  rw [if_neg outside, State.rdByte_commit, State.rdByte_undefined hm hu, leafAt3000_objByte] at kept
  simp at kept

/-! ### PUT_PACKET -/

/-- A PUT of one zero byte to the leaf. -/
def leafPut : Packet := { leafPacket ptPut 1 with data := [0] }

/-- Refutes O24: a PUT to the leaf of an object's page leaves every byte of the object undefined (R465), so that other bytes change. -/
theorem not_writePacketsAreServed : ¬ Obligations.WritePacketsAreServed := by
  intro h
  obtain ⟨put, -⟩ := h (leafAt3000 leafPut) 0 0 leafPut (leafAnswer ptAck) (by decide +kernel) (by decide +kernel) (by decide) (by decide)
    (by decide +kernel) (by decide +kernel) (by decide +kernel) (by decide +kernel)
  obtain ⟨t, run, stored, -⟩ := put rfl (by decide) (.inl (by decide)) (by decide +kernel) (by decide +kernel)
  have answer : exec (.putPacket 0) (leafAt3000 leafPut) = .next ((leafAt3000 leafPut).commit (vc1Effect 0 (leafAt3000 leafPut))) :=
    State.rails_next (by decide +kernel) (by decide +kernel) _
  obtain rfl := Host.Outcome.next.inj (run.symm.trans answer)
  exact not_stored_of_undefined (by decide) (by decide +kernel) (by decide +kernel) stored

/-! ### SWAP -/

/-- A SWAP of four bytes of the leaf with zero. -/
def leafSwap : Packet := { leafPacket ptAtomic 2 with aop := 2 }

/-- Refutes O25: an atomic on the leaf of an object's page leaves every byte of the object undefined (R465), so that other bytes change. -/
theorem not_readAndAtomicPacketsAreServed : ¬ Obligations.ReadAndAtomicPacketsAreServed := by
  intro h
  obtain ⟨-, atomics, -⟩ := h (leafAt3000 leafSwap) 0 0 leafSwap { leafAnswer ptAtomicResp with operand := 0x20000F } (by decide +kernel)
    (by decide +kernel) (by decide +kernel)
  obtain ⟨-, memory⟩ := atomics (.swap 0) rfl (by decide +kernel) rfl (by decide) (.inr (.inl ⟨rfl, rfl⟩)) (by decide +kernel)
  obtain ⟨t, run, -, stored, -⟩ := memory (.inl (by decide)) (by decide +kernel) (by decide +kernel) (by decide +kernel) (by decide +kernel)
  have answer : exec (.swap 0) (leafAt3000 leafSwap) = .next ((leafAt3000 leafSwap).commit (atomicPacketEffect 0 (leafAt3000 leafSwap))) :=
    State.rails_next (by decide +kernel) (by decide +kernel) _
  obtain rfl := Host.Outcome.next.inj (run.symm.trans answer)
  exact not_stored_of_undefined (by decide +kernel) (by decide +kernel) (by decide +kernel) stored

end Sys2Proof.Machine
end
section
/-!
PROOF. A run starts and ends (R52, R66 to R70, R748), and the messages of the broadcast tree (R57 to R65, R100 to R109): what RUN, GO, the
decision point, a CATCH, the messages to the starter and hold water leave in the stroke unit.
-/
namespace Sys2Proof.Machine

/-! ### The return to ROW before work that starts in EASY -/

variable (s : State)

theorem State.easyWake_wideParams : s.easyWake.wideParams = s.wideParams := by
  unfold State.easyWake
  split
  · simp [State.logPower, State.logEv]
  · rfl

theorem State.easyWake_stkState : s.easyWake.stkState = s.stkState := s.rd_easyWake (by decide) (by decide)

theorem State.easyWake_stroke : s.easyWake.stroke = s.stroke := s.rd_easyWake (by decide) (by decide)

/-- The registers beyond the logbook's page. -/
theorem State.rd_easyWake_high (f : Fld) (i j : Nat) (h : 0x4000 * 8 ≤ f.key i j) : s.easyWake.rd f i j = s.rd f i j := by
  refine s.rd_easyWake (fun e => ?_) (fun e => ?_) <;> rw [e] at h
  · exact absurd h (by decide)
  · exact absurd h (by decide)

theorem State.easyWake_stkParamsOk : s.easyWake.stkParamsOk = s.stkParamsOk := by
  simp (disch := decide) only [State.stkParamsOk, State.rd_easyWake, State.easyWake_wideParams]

theorem State.easyWake_coxParamsOk (c : Nat) : s.easyWake.coxParamsOk c = s.coxParamsOk c := by
  have high (f : Fld) (hf : f.page = .cox) : 0x4000 * 8 ≤ f.key c 0 := by
    simp only [Fld.key, hf, Page.base]
    omega
  simp only [State.coxParamsOk, s.rd_easyWake_high _ _ _ (high COX_SHEET_BASE rfl), s.rd_easyWake_high _ _ _ (high COX_SHEET_STRIDE_BYTES rfl),
    s.rd_easyWake_high _ _ _ (high COX_SHEET_COUNT_COUNT rfl)]

/-! ### RUN (R52, R66, R748) -/

/-- The unit is ARMED and its counters are clear. -/
def State.armedUnit (s : State) : State :=
  ((((((((s.wr STK_STAT_STATE 1).wr STK_STRETCH_TOTAL 0).wr STK_STRETCH_COUNT 0).wr STK_STRAY_COUNT 0).wr STK_LATE_MASK_MASK 0).wr
    STK_GO_FAULT_DEV 0).wr STK_GO_FAULT_CAUSE 0).wr STK_GO_FAULT_READY_COUNT 0).wr STK_GO_FAULT_VALID 0

/-- The registers that arming writes. -/
def armedKeys : List Nat := [STK_STAT_STATE.key 0 0, STK_STRETCH_TOTAL.key 0 0, STK_STRETCH_COUNT.key 0 0, STK_STRAY_COUNT.key 0 0,
  STK_LATE_MASK_MASK.key 0 0, STK_GO_FAULT_DEV.key 0 0, STK_GO_FAULT_CAUSE.key 0 0, STK_GO_FAULT_READY_COUNT.key 0 0,
  STK_GO_FAULT_VALID.key 0 0]

theorem State.foot_armedUnit : s.foot s.armedUnit armedKeys := by
  unfold State.armedUnit
  iterate 9 refine State.foot_wr_of ?_ (by decide)
  exact s.foot_refl

theorem State.armedUnit_rd : s.armedUnit.stkState = 1 ∧ s.armedUnit.rd STK_STRETCH_TOTAL = 0 ∧ s.armedUnit.rd STK_STRETCH_COUNT = 0 ∧
    s.armedUnit.rd STK_STRAY_COUNT = 0 ∧ s.armedUnit.rd STK_LATE_MASK_MASK = 0 ∧ s.armedUnit.rd STK_GO_FAULT_VALID = 0 := by
  unfold State.stkState State.armedUnit
  refine ⟨?_, ?_, ?_, ?_, ?_, ?_⟩ <;> simp (disch := decide) only [State.rd_wr_ne, State.rd_wr_same] <;> rfl

/-- A message other than HOLD_REQ that leaves for the starter changes no register, but for the count of a full logbook queue. -/
theorem State.foot_toStarter {s : State} {m : StrokeMsg} {ks : List Nat} (h : s.starter = false) (hm : m.code ≠ 5)
    (hk : LOG_DROPPED.key 0 0 ∈ ks) : s.foot (s.toStarter m) ks := by
  obtain ⟨ps, e⟩ | ⟨d, e⟩ := State.toStarter_cases h m
  · exact e ▸ State.foot_ports ps
  · rw [e, if_neg hm]
    exact State.foot_logEv hk

/-- RUN arms the unit, and a device that is not the starter tells it so. -/
theorem runEffect_arms {s : State} (h0 : s.stkState = 0) (hb : s.blk .stk = 1) (hp : s.stkParamsOk = true)
    (hc : ∀ c, c < 16 → s.coxParamsOk c = true) : s.armedUnit.foot (runEffect s) [LOG_DROPPED.key 0 0] := by
  have taken : (s.blk .stk == 1 && s.stkParamsOk && (List.range 16).all (fun c => s.coxParamsOk c)) = true := by
    simp only [hb, hp, beq_self_eq_true, Bool.and_self, Bool.true_and, List.all_eq_true, List.mem_range]
    exact hc
  unfold runEffect
  rw [if_neg (not_not.2 h0), if_pos taken]
  show s.armedUnit.foot (if s.armedUnit.starter = true then s.armedUnit else s.armedUnit.toStarter _) _
  split
  · exact State.foot_refl _
  · exact State.foot_toStarter (Bool.not_eq_true _ ▸ ‹_›) (show 1 ≠ 5 by decide) (List.mem_singleton_self _)

/-- What returning to ROW may change. -/
def wakeKeys : List Nat := [PWR_STAT_STATE.key 0 0, LOG_DROPPED.key 0 0]

theorem State.foot_easyWake_keys : s.foot s.easyWake wakeKeys := State.foot_easyWake (by decide) (by decide)

theorem exec_run_arms {s : State} (hr : s.railsUp = true) (h0 : s.stkState = 0) (hb : s.blk .stk = 1) (hp : s.stkParamsOk = true)
    (hc : ∀ c, c < 16 → s.coxParamsOk c = true) :
    ∃ t, exec .run s = .next t ∧ t.stkState = 1 ∧ t.rd STK_STRETCH_TOTAL = 0 ∧ t.rd STK_STRETCH_COUNT = 0 ∧ t.rd STK_STRAY_COUNT = 0 ∧
      t.rd STK_LATE_MASK_MASK = 0 ∧ t.rd STK_GO_FAULT_VALID = 0 ∧ s.foot t (wakeKeys ++ armedKeys) := by
  have awake : s.easyWake.blk .stk = 1 := (s.rd_easyWake (by decide) (by decide)).trans hb
  have armed := runEffect_arms (s.easyWake_stkState.trans h0) awake (s.easyWake_stkParamsOk.trans hp)
    (fun c h => (s.easyWake_coxParamsOk c).trans (hc c h))
  have reads (f : Fld) (hf : f.key 0 0 ∉ [LOG_DROPPED.key 0 0]) :
      (s.commit (runEffect s.easyWake)).rd f = s.easyWake.armedUnit.rd f := (State.rd_commit ..).trans (State.foot_rd armed f 0 0 hf)
  obtain ⟨state, total, count, strays, mask, fault⟩ := s.easyWake.armedUnit_rd
  refine ⟨_, State.work_next hr rfl runEffect, (reads _ (by decide)).trans state, (reads _ (by decide)).trans total,
    (reads _ (by decide)).trans count, (reads _ (by decide)).trans strays, (reads _ (by decide)).trans mask,
    (reads _ (by decide)).trans fault, State.foot_commit ?_⟩
  have wakes := State.foot_trans s.foot_easyWake_keys s.easyWake.foot_armedUnit
  exact State.foot_then wakes (State.foot_mono armed (by decide))

/-! ### The end of a run (R66, R70) -/

/-- The registers that entering STOPPED may change. -/
def stoppedKeys : List Nat := STK_STAT_STATE.key 0 0 :: (readyKeys ++ swapKeys)

theorem exec_clearRun_stops {s : State} (hr : s.railsUp = true) (h : s.stkState = 1) :
    ∃ t, exec .clearRun s = .next t ∧ t.stkState = 0 ∧ (∀ w, w < 16 → t.rd STK_READY_MAP 0 w = 0) ∧
      s.foot t (wakeKeys ++ stoppedKeys) := by
  have stops : clearRunEffect s.easyWake = s.easyWake.becomeStopped := if_pos (s.easyWake_stkState.trans h)
  refine ⟨_, State.work_next hr rfl clearRunEffect, ?_, fun w hw => ?_, State.foot_commit ?_⟩ <;> rw [stops]
  · exact (State.stkState_commit ..).trans (State.becomeStopped_state _)
  · exact (State.rd_commit ..).trans (State.becomeStopped_ready _ w hw)
  · exact State.foot_trans s.foot_easyWake_keys s.easyWake.foot_becomeStopped

theorem exec_enterStopped_stops {s : State} (hr : s.railsUp = true) (h2 : s.stkState = 2) (he : s.stk.ended = true)
    (hs : s.stk.stopping = some s.stroke) (hl : ∀ c, c < 16 → (s.cox c).late = false) (hb : s.atBoundary = true) :
    ∃ t, exec .enterStopped s = .next t ∧ t.stkState = 0 ∧ (∀ w, w < 16 → t.rd STK_READY_MAP 0 w = 0) ∧ s.foot t stoppedKeys := by
  have noneLate : (List.range 16).all (fun c => !(s.cox c).late) = true := by
    simp only [List.all_eq_true, List.mem_range, Bool.not_eq_true']
    exact hl
  have ok : (s.stkState == 2 && s.stk.ended && s.stk.stopping == some s.stroke && (List.range 16).all (fun c => !(s.cox c).late) &&
      s.atBoundary) = true := by
    simp only [h2, he, hs, noneLate, hb, beq_self_eq_true, Bool.and_self]
  refine ⟨_, State.rails_next hr ok State.becomeStopped, ?_, fun w hw => ?_, State.foot_commit s.foot_becomeStopped⟩
  · exact (State.stkState_commit ..).trans s.becomeStopped_state
  · exact (State.rd_commit ..).trans (s.becomeStopped_ready w hw)

/-- Settles O1: what arming and stopping change is their footprint, after the return to ROW. -/
theorem strokeUnitArmsAndStops : Obligations.StrokeUnitArmsAndStops := by
  refine ⟨fun s hr h0 hb hp hc => ?run, fun s hr h1 => ?clear, fun s hr h2 he hs hl hb => ?stopped⟩
  case run =>
    obtain ⟨t, run, state, total, count, strays, mask, fault, foot⟩ := exec_run_arms hr h0 hb hp hc
    exact ⟨t, run, state, total, count, strays, mask, fault, State.foot_mono foot (by decide)⟩
  case clear =>
    obtain ⟨t, run, state, ready, foot⟩ := exec_clearRun_stops hr h1
    exact ⟨t, run, state, ready, State.foot_mono foot (by decide)⟩
  case stopped =>
    exact exec_enterStopped_stops hr h2 he hs hl hb

end Sys2Proof.Machine
end
section
/-!
PROOF. The messages of the broadcast tree (R57 to R65, R68, R100 to R109): how a catch is scheduled, what the starter records, and how
hold water begins and ends.
-/
namespace Sys2Proof.Machine

/-! ### A message that a port holds -/

/-- A stroke message that a port holds is taken: what its command leaves is its effect on a state whose ports alone have changed. -/
theorem State.rails_onStroke {s : State} {q code a : Nat} {p : Packet} (hr : s.railsUp = true) (h : s.strokeAt q code = some (a, p))
    (f : Nat → StrokeMsg → State → State) :
    ∃ ps, s.rails (s.strokeAt q code).isSome (fun s => s.onStroke q code f) = .next (s.commit (f a p.msg { s with ports := ps })) := by
  obtain ⟨ps, e⟩ := s.onStroke_eq h f
  exact ⟨ps, e ▸ State.rails_next hr (by rw [h]; rfl) _⟩

/-- The message that a port holds has the code asked for, and is the head of VC3. -/
theorem State.strokeAt_some {s : State} {q code a : Nat} {p : Packet} (h : s.strokeAt q code = some (a, p)) :
    s.headVc q 3 = some (a, p) ∧ p.msg.code = code := by
  unfold State.strokeAt at h
  split at h
  · next t r hd =>
    split at h
    · next hc =>
      obtain ⟨rfl, rfl⟩ := Prod.mk.inj (Option.some.inj h)
      exact ⟨hd, hc.2.1⟩
    · cases h
  · cases h

/-- Forwarding changes the ports only. -/
theorem State.relay_ports (s : State) (q : Nat) (m : StrokeMsg) : ∃ ps, s.relay q m = { s with ports := ps } := s.broadcast_ports m (some q)

/-- A broadcast that is passed on once changes the ports and what has been passed on. -/
theorem State.relayOnce_eq (s : State) (q : Nat) (m : StrokeMsg) :
    ∃ ps rs, s.relayOnce q m = { s with ports := ps, stk := { s.stk with relayed := rs } } := by
  unfold State.relayOnce
  split
  · exact ⟨s.ports, s.stk.relayed, rfl⟩
  · obtain ⟨ps, e⟩ := s.relay_ports q m
    rw [e]
    exact ⟨ps, _, rfl⟩

/-! ### The starter schedules a catch (R59, R67, R69, R103) -/

/-- GO with READY from enough devices, each matching, emits the first CATCH. -/
theorem goEffect_emits {s : State} (h1 : s.stkState = 1) (hs : s.starter = true) (hd : s.stk.due = none)
    (hm : s.rd STK_MEMBERS_COUNT ≤ s.stk.readys.length + 1) (hr : ∀ r, r ∈ s.stk.readys → s.readyCause r.2 = 0) :
    goEffect s = s.emitCatch (s.rd STK_FIRST_STROKE) 0 := by
  have matching : s.stk.readys.find? (fun r => s.readyCause r.2 != 0) = none :=
    List.find?_eq_none.2 (fun r h => by simp [hr r h])
  unfold goEffect
  rw [if_neg (by simp [h1, hs, hd]), if_neg (by omega), matching]

/-- The instant of a decision point (R59). -/
def State.decisionAt (s : State) : Nat :=
  s.stk.catchAt + (s.rd STK_PERIOD_NS - s.rd STK_LEAD_NS + s.stk.k * s.rd STK_QUANTUM_NS) * 16

/-- What a decision point decides, where no RESUME preceded it. -/
theorem decisionEffect_eq {s : State} (hr : s.stk.resumed = none) :
    decisionEffect s =
      if s.latesMatched then (s.at s.decisionAt).emitCatch ((s.stroke + 1) % 2 ^ 64) (s.stk.k * s.rd STK_QUANTUM_NS)
      else if (s.stk.k + 1) * s.rd STK_QUANTUM_NS ≤ s.stretchLimit then
        { s.at s.decisionAt with stk := { s.stk with k := s.stk.k + 1 } }
      else (s.at s.decisionAt).orderHold stOverrun s.dev := by
  unfold decisionEffect
  rw [hr, if_neg (by decide)]
  rfl

/-! ### A device schedules a catch (R60 to R62) -/

/-- Which strokes have been caught follows from the unit's record, its state, its stroke and the first one. -/
theorem State.catchSeen_congr {s t : State} (hk : t.stk = s.stk) (hs : t.stkState = s.stkState) (hn : t.stroke = s.stroke)
    (hf : t.rd STK_FIRST_STROKE = s.rd STK_FIRST_STROKE) (n : Nat) : t.catchSeen n = s.catchSeen n := by
  unfold State.catchSeen
  rw [hk, hs, hn, hf]

/-- A CATCH that the device expects is caught STK_LEAD after the instant at which the starter emitted it. -/
theorem State.takeCatch_schedules {s : State} {q a : Nat} {m : StrokeMsg}
    (hx : s.stkState = 1 ∧ m.num = s.rd STK_FIRST_STROKE ∨ s.stkState = 2 ∧ m.num = (s.stroke + 1) % 2 ^ 64)
    (hseen : s.catchSeen m.num = false) (htag : m.tag = s.rd STK_SCHEDULE_ID % 2 ^ 32) (hlate : s.is STK_STAT_LATE = false) :
    (s.takeCatch q a m).stk.due = some (a + (s.rd STK_LEAD_NS * 16 - (m.a + s.rd LNK_LATENCY_LAT q)), m.num) ∧
      (s.takeCatch q a m).stk.curtain = true := by
  unfold State.takeCatch
  extract_lets elapsed noted _ taken relayed expected lead logged
  have reads (f : Fld) (h : f.key 0 0 ≠ STK_LAST_ELAPSED.key 0 0) : noted.rd f = s.rd f := State.rd_wr_ne s h elapsed
  obtain ⟨ps, passed⟩ := taken.relay_ports q { m with a := elapsed + (taken.clock - a) }
  have kept (f : Fld) (h : f.key 0 0 ≠ STK_LAST_ELAPSED.key 0 0) : relayed.rd f = s.rd f :=
    (congrArg (fun t : State => t.rd f) passed).trans (reads f h)
  have state : relayed.stkState = s.stkState := kept _ (by decide)
  have before : noted.stkState = s.stkState := reads _ (by decide)
  have current : noted.stroke = s.stroke := reads _ (by decide)
  have fresh : noted.catchSeen m.num = false := (State.catchSeen_congr (s := s) (t := noted) rfl before current (reads _ (by decide)) _).trans hseen
  have quiet : ¬ (noted.stkState = 0 ∨ noted.catchSeen m.num = true) := by
    rw [before, fresh]
    rintro (stopped | seen)
    · omega
    · cases seen
  have expects : m.num = expected := by
    have first : relayed.rd STK_FIRST_STROKE = s.rd STK_FIRST_STROKE := kept _ (by decide)
    have stroke : relayed.stroke = s.stroke := kept _ (by decide)
    show m.num = if relayed.stkState = 1 then relayed.rd STK_FIRST_STROKE else (relayed.stroke + 1) % 2 ^ 64
    rw [state, first, stroke]
    split <;> omega
  have tagged : m.tag = relayed.rd STK_SCHEDULE_ID % 2 ^ 32 := (kept STK_SCHEDULE_ID (by decide)).symm ▸ htag
  have onTime : relayed.is STK_STAT_LATE = false := by
    rw [State.is, kept _ (by decide)]
    exact hlate
  rw [if_neg quiet, if_neg (by omega), if_neg (by simp only [expects, tagged, ne_eq, not_true_eq_false, or_self, not_false_eq_true]),
    if_neg (by simp only [onTime, Bool.false_eq_true, not_false_eq_true]), State.scheduleCatch_stk]
  exact ⟨by rw [show lead = s.rd STK_LEAD_NS * 16 from congrArg (· * 16) (kept STK_LEAD_NS (by decide))], rfl⟩

/-- The curtain: the message at the port is taken, and the unit wakes where it is not STOPPED. -/
theorem exec_curtain {s : State} {q a : Nat} {p : Packet} (hr : s.railsUp = true) (h : s.strokeAt q 2 = some (a, p)) :
    ∃ ps, exec (.curtain q) s = .next (s.commit ((if s.stkState = 0 then { s with ports := ps } else
      State.easyWake { s with ports := ps }).takeCatch q a p.msg)) :=
  State.rails_onStroke hr h _

theorem exec_curtain_schedules {s : State} {q a : Nat} {p : Packet} (hr : s.railsUp = true) (h : s.strokeAt q 2 = some (a, p))
    (hx : s.stkState = 1 ∧ p.msg.num = s.rd STK_FIRST_STROKE ∨ s.stkState = 2 ∧ p.msg.num = (s.stroke + 1) % 2 ^ 64)
    (hseen : s.catchSeen p.msg.num = false) (htag : p.msg.tag = s.rd STK_SCHEDULE_ID % 2 ^ 32) (hlate : s.is STK_STAT_LATE = false) :
    ∃ t, exec (.curtain q) s = .next t ∧
      t.stk.due = some (a + (s.rd STK_LEAD_NS * 16 - (p.msg.a + s.rd LNK_LATENCY_LAT q)), p.msg.num) ∧ t.stk.curtain = true := by
  obtain ⟨ps, run⟩ := exec_curtain hr h
  rw [if_neg (by omega)] at run
  let u : State := { s with ports := ps }
  have first : u.easyWake.rd STK_FIRST_STROKE = s.rd STK_FIRST_STROKE := u.rd_easyWake (by decide) (by decide)
  have schedule : u.easyWake.rd STK_SCHEDULE_ID = s.rd STK_SCHEDULE_ID := u.rd_easyWake (by decide) (by decide)
  have late : u.easyWake.rd STK_STAT_LATE = s.rd STK_STAT_LATE := u.rd_easyWake (by decide) (by decide)
  have lead : u.easyWake.rd STK_LEAD_NS = s.rd STK_LEAD_NS := u.rd_easyWake (by decide) (by decide)
  have latency : u.easyWake.rd LNK_LATENCY_LAT q = s.rd LNK_LATENCY_LAT q :=
    u.rd_easyWake_high _ _ _ (by simp only [Fld.key, LNK_LATENCY_LAT, Page.base]; omega)
  have state : u.easyWake.stkState = s.stkState := u.easyWake_stkState
  have stroke : u.easyWake.stroke = s.stroke := u.easyWake_stroke
  have seen : u.easyWake.catchSeen p.msg.num = s.catchSeen p.msg.num := State.catchSeen_congr u.easyWake_stk state stroke first _
  obtain ⟨due, curtain⟩ := State.takeCatch_schedules (s := u.easyWake) (q := q) (a := a) (m := p.msg) (by rw [state, stroke, first]; exact hx)
    (seen.trans hseen) (schedule.symm ▸ htag) (by rw [State.is, late]; exact hlate)
  rw [lead, latency] at due
  exact ⟨_, run, due, curtain⟩

/-- Settles O2: each of the three schedules its catch by `scheduleCatch`, from a state with the unit's registers as they were. -/
theorem catchIsScheduledByLead : Obligations.CatchIsScheduledByLead := by
  refine ⟨fun s hr h1 hs hd hm hm' => ?go, fun s hr hs h2 he hd hst hres => ?decision, fun s q a p hr h hx hseen htag hlate => ?curtain⟩
  case go =>
    refine ⟨_, State.rails_next hr rfl goEffect, ?_⟩
    rw [State.commit_stk, goEffect_emits h1 hs hd hm hm', State.emitCatch_stk]
  case decision =>
    have ready : (s.starter && s.stkState == 2 && s.stk.ended && s.stk.due.isNone && s.stk.stopping.isNone) = true := by
      simp only [hs, h2, he, hd, hst, Option.isNone_none, beq_self_eq_true, Bool.and_self]
    refine ⟨_, State.rails_next hr ready decisionEffect, fun hm => ?_, fun hm hroom => ?_, fun hm hroom => ?_⟩ <;>
      rw [decisionEffect_eq hres]
    · rw [State.commit_stk, if_pos hm, State.emitCatch_stk]
      rfl
    · rw [State.commit_stk, if_neg (by simp only [hm, Bool.false_eq_true, not_false_eq_true]), if_pos hroom]
      exact ⟨hd, rfl⟩
    · rw [State.stkState_commit, State.rd_commit, if_neg (by simp only [hm, Bool.false_eq_true, not_false_eq_true]), if_neg (by omega)]
      obtain ⟨state, status, -⟩ := State.orderHold_running (s.at s.decisionAt) h2 stOverrun s.dev
      exact ⟨state, status⟩
  case curtain => exact exec_curtain_schedules hr h hx hseen htag hlate

/-! ### STOPPED (R68) -/

/-- Taking the head of a virtual channel frees it and owes its cells. -/
theorem State.dropHead_takes {s : State} {q v a : Nat} {p : Packet} (h : s.headVc q v = some (a, p)) :
    ∃ x : Port, s.dropHead q v = s.setPort q x ∧ x.rx = (s.port q).rx.eraseP (fun e => e.2.vc == v) ∧
      x.owed = (s.port q).owed ++ [(v, p.cls, packetCells p)] := by
  unfold State.headVc at h
  simp only [State.dropHead, h]
  exact ⟨_, rfl, rfl, rfl⟩

/-- In STOPPED a CATCH leaves its elapsed time only. -/
theorem State.takeCatch_stopped {s : State} (h : s.stkState = 0) (q a : Nat) (m : StrokeMsg) :
    s.takeCatch q a m = s.wr STK_LAST_ELAPSED (m.a + s.rd LNK_LATENCY_LAT q) :=
  if_pos (.inl ((State.rd_wr_ne s (by decide) _).trans h))

/-- Settles O60: in STOPPED the curtain takes the message and notes its elapsed time. -/
theorem aStoppedDeviceDiscardsEveryCatch : Obligations.AStoppedDeviceDiscardsEveryCatch := by
  intro s q a p hr h0 h
  have run : exec (.curtain q) s = .next (s.commit _) :=
    State.rails_next hr (by rw [h]; rfl) (fun s => s.onStroke q 2 (fun t m s => (if s.stkState = 0 then s else s.easyWake).takeCatch q t m))
  obtain ⟨found, -⟩ := State.strokeAt_some h
  obtain ⟨freed, dropped, rest, -⟩ := State.dropHead_takes found
  have stopped : (s.setPort q freed).stkState = 0 := h0
  simp only [State.onStroke, h, dropped, if_pos stopped, State.takeCatch_stopped stopped] at run
  refine ⟨_, run, rfl, ?_, ?_, fun r hr => ?_, State.foot_commit (State.foot_wr_of (State.foot_ports _) (by decide))⟩
  · exact (State.rd_commit ..).trans ((State.rd_wr_ne _ (by decide) _).trans h0)
  · exact (congrArg Port.rx (s.port_setPort_same q freed)).trans rest
  · exact (s.port_setPort q freed r).trans (if_neg hr)

/-! ### What the starter records (R58, R103, R745) -/

section
variable {s : State} {m : StrokeMsg} (hs : s.starter = true)
include hs

theorem State.starterTake_ready (hm : m.code = 1) :
    s.starterTake m =
      { s.wr STK_READY_MAP (s.rd STK_READY_MAP 0 (m.dev / 32) ||| 2 ^ (m.dev % 32)) 0 (m.dev / 32) with
        stk := { s.stk with readys := Tab.put s.stk.readys m.dev (m.num, m.a, m.b) } } := by
  rw [State.starterTake, if_neg (by rw [hs]; decide), if_pos hm]
  rfl

theorem State.starterTake_late (hm : m.code = 3) (h : s.emittedAfter m.num = false) :
    s.starterTake m = { s with stk := { s.stk with lates := s.stk.lates ++ [(m.dev, m.num)] } } := by
  rw [State.starterTake, if_neg (by rw [hs]; decide), if_neg (by omega), if_pos hm]
  exact if_neg (fun e => Bool.false_ne_true (h.symm.trans e))

theorem State.starterTake_done (hm : m.code = 4) :
    s.starterTake m = State.emitResumed { s with stk := { s.stk with lates := s.stk.lates.filter (fun l => l != (m.dev, m.num)) } } := by
  rw [State.starterTake, if_neg (by rw [hs]; decide), if_neg (by omega), if_neg (by omega), if_pos hm]

theorem State.starterTake_holdReq (hm : m.code = 5) (h : s.stkState = 2) : s.starterTake m = s.orderHold m.status m.dev := by
  rw [State.starterTake, if_neg (by rw [hs]; decide), if_neg (by omega), if_neg (by omega), if_neg (by omega), if_pos hm, if_pos h]

end

/-- Settles O3: each message is what `starterTake` does with its code. -/
theorem starterRecordsMessages : Obligations.StarterRecordsMessages := by
  refine ⟨fun s q a p hr hs h => ?ready, fun s q a p hr hs h hafter => ?late, fun s q a p hr hs h => ?done⟩
  all_goals
    obtain ⟨ps, run⟩ := State.rails_onStroke hr h (fun _ m s => s.starterTake m)
    obtain ⟨-, hc⟩ := State.strokeAt_some h
  case ready =>
    rw [State.starterTake_ready (s := { s with ports := ps }) hs hc] at run
    refine ⟨_, run, (Tab.find_put ..).trans (if_pos rfl), State.foot_commit ?_⟩
    exact State.foot_trans (State.foot_wr_of (State.foot_ports ps) (List.mem_singleton_self _)) (State.foot_of_eq rfl rfl rfl rfl)
  case late =>
    rw [State.starterTake_late (s := { s with ports := ps }) hs hc hafter] at run
    exact ⟨_, run, rfl, State.foot_commit (State.foot_of_eq rfl rfl rfl rfl)⟩
  case done =>
    rw [State.starterTake_done (s := { s with ports := ps }) hs hc] at run
    exact ⟨_, run, (State.emitResumed_keeps _).2.1⟩

/-! ### Hold water (R65, R106) -/

/-- From RUNNING, hold water came with this status. -/
def State.HeldFrom (s t : State) (status : Nat) : Prop :=
  t.stkState = 3 ∧ t.rd STK_STAT_HOLD_STATUS = status % 256 ∧ t.stroke = s.stroke ∧ t.stk.due = none

variable {s : State}

theorem State.heldFrom_commit {t : State} {st : Nat} (h : s.HeldFrom t st) (u : State) : s.HeldFrom (u.commit t) st := by
  simpa only [State.HeldFrom, State.stkState_commit, State.rd_commit, State.stroke_commit, State.commit_stk] using h

theorem State.holdWater_heldFrom (h : s.stkState = 2) (st r : Nat) : s.HeldFrom (s.holdWater st r) st := by
  obtain ⟨state, status, stroke, unit⟩ := State.holdWater_running s h st r
  exact ⟨state, status, stroke, by rw [unit]⟩

theorem State.orderHold_heldFrom (h : s.stkState = 2) (st r : Nat) : s.HeldFrom (s.orderHold st r) st := by
  obtain ⟨state, status, stroke, unit⟩ := State.orderHold_running s h st r
  exact ⟨state, status, stroke, by rw [unit]⟩

/-- A device that is already holding stays so. -/
theorem State.holdWater_again {t : State} {st : Nat} (h : s.HeldFrom t st) (st' r : Nat) : s.HeldFrom (t.holdWater st' r) st := by
  rw [State.holdWater_else t (by rw [h.1]; decide)]
  exact h

/-- A device in RUNNING that asks for hold water and holds itself is holding with that status: as the starter, with its HOLD_REQ
under way, and where that is lost (R786). -/
theorem State.askAndHold_heldFrom (h : s.stkState = 2) (st r : Nat) : s.HeldFrom ((s.sendHoldReq st).holdWater st r) st := by
  unfold State.sendHoldReq
  by_cases hs : s.starter = true
  · refine State.holdWater_again ?_ st r
    rw [State.toStarter, if_pos hs]
    rw [State.starterTake_holdReq hs rfl h]
    exact State.orderHold_heldFrom h _ _
  · obtain ⟨ps, e⟩ | ⟨d, e⟩ := State.toStarter_cases (Bool.not_eq_true _ ▸ hs)
      { noMsg with code := 5, dev := s.dev, num := s.stroke, status := st } <;> rw [e]
    · exact State.holdWater_heldFrom (s := { s with ports := ps }) h st r
    · have kept (f : Fld) (hf : f.key 0 0 ≠ LOG_DROPPED.key 0 0) : (s.logEv .dev 0 0x301 2 stUnreachable d).rd f = s.rd f :=
        State.rd_logFrom s hf ..
      have stroke : (s.logEv .dev 0 0x301 2 stUnreachable d).stroke = s.stroke := kept _ (by decide)
      refine State.holdWater_again ?_ st r
      have held := State.holdWater_heldFrom (s := s.logEv .dev 0 0x301 2 stUnreachable d) ((kept _ (by decide)).trans h) st
        (s.logEv .dev 0 0x301 2 stUnreachable d).dev
      rw [State.HeldFrom, stroke] at held
      exact held

/-! ### The end of a run (R70, R107 to R109) -/

/-- STOP in RUNNING names the last stroke, and a catch of another one does not take place. -/
theorem State.noteStop_running (h : s.stkState = 2) (last : Nat) :
    (s.noteStop last).stk.stopping = some last ∧ (s.noteStop last).stk.due = s.stk.due.filter (fun d => d.2 == last) ∧
      ∀ ks, s.foot (s.noteStop last) ks := by
  unfold State.noteStop
  rw [if_pos (.inl h)]
  exact ⟨rfl, rfl, fun ks => State.foot_of_eq rfl rfl rfl rfl⟩

/-- Settles O4: hold water, and the messages that end it, at the starter and at a device that they reach. -/
theorem holdWaterAndTheEndOfARun : Obligations.HoldWaterAndTheEndOfARun := by
  refine ⟨fun s q a p hr hs h2 h => ?holdReq, fun s q a p hr h2 h => ?hold, fun s hr h2 hd hst => ?timeout, fun s hr hs h2 => ?stopCmd,
    fun s q a p hr h2 hst h => ?stop, fun s hr hs h3 => ?resumeCmd, fun s q a p hr h3 h => ?resume, fun s hr hs h3 => ?abandonCmd,
    fun s q a p hr h3 h => ?abandon⟩
  case holdReq =>
    obtain ⟨ps, run⟩ := State.rails_onStroke hr h (fun _ m s => s.starterTake m)
    rw [State.starterTake_holdReq (s := { s with ports := ps }) hs (State.strokeAt_some h).2 h2] at run
    exact ⟨_, run, State.heldFrom_commit (State.orderHold_heldFrom (s := { s with ports := ps }) h2 _ _) s⟩
  case hold =>
    obtain ⟨ps, run⟩ := State.rails_onStroke hr h (fun _ m s => (s.relayOnce q m).holdWater m.status m.dev)
    obtain ⟨ps', rs, passed⟩ := State.relayOnce_eq { s with ports := ps } q p.msg
    rw [passed] at run
    exact ⟨_, run, State.heldFrom_commit (State.holdWater_heldFrom (s := { s with ports := ps', stk := { s.stk with relayed := rs } }) h2 _ _) s⟩
  case timeout =>
    have due : (s.stkState == 2 && s.stk.due.isNone && s.stk.stopping != some s.stroke) = true := by
      simp only [h2, hd, Option.isNone_none, beq_self_eq_true, Bool.and_self, Bool.true_and, bne_iff_ne, ne_eq]
      exact hst
    have run : exec .catchTimeout s = .next (s.commit _) :=
      State.rails_next hr due (fun s => ((s.at s.catchTimeoutAt).sendHoldReq stTimeout).holdWater stTimeout s.dev)
    exact ⟨_, run, State.heldFrom_commit (State.askAndHold_heldFrom (s := s.at s.catchTimeoutAt) h2 stTimeout s.dev) s⟩
  case stopCmd =>
    obtain ⟨ps, sent⟩ := s.broadcast_ports { noMsg with code := 9, num := s.stroke } none
    have effect : stopCmdEffect s = State.noteStop { s with ports := ps } s.stroke :=
      (if_pos ⟨h2, hs⟩).trans (congrArg (State.noteStop · s.stroke) sent)
    obtain ⟨stopping, due, foot⟩ := State.noteStop_running (s := { s with ports := ps }) h2 s.stroke
    refine ⟨_, State.rails_next hr rfl stopCmdEffect, ?_⟩
    rw [effect]
    exact ⟨stopping, due, State.foot_commit (State.foot_then (State.foot_ports ps) (foot []))⟩
  case stop =>
    obtain ⟨ps, run⟩ := State.rails_onStroke hr h (fun _ m s =>
      if s.stk.stopping = none then (s.relayOnce q m).noteStop m.num else s.relayOnce q m)
    obtain ⟨ps', rs, passed⟩ := State.relayOnce_eq { s with ports := ps } q p.msg
    rw [if_pos hst, passed] at run
    obtain ⟨stopping, due, foot⟩ := State.noteStop_running (s := { s with ports := ps', stk := { s.stk with relayed := rs } }) h2 p.msg.num
    exact ⟨_, run, stopping, due, State.foot_commit (State.foot_then (State.foot_of_eq rfl rfl rfl rfl) (foot []))⟩
  case resumeCmd =>
    obtain ⟨ps, sent⟩ := s.broadcast_ports { noMsg with code := 7, num := s.stroke } none
    have effect : resumeCmdEffect s = State.resumeStroke { s with ports := ps } := (if_pos ⟨h3, hs⟩).trans (congrArg State.resumeStroke sent)
    refine ⟨_, State.rails_next hr rfl resumeCmdEffect, ?_⟩
    rw [effect, State.stkState_commit]
    exact State.resumeStroke_holding _ h3
  case resume =>
    obtain ⟨ps, run⟩ := State.rails_onStroke hr h (fun _ m s => (s.relayOnce q m).resumeStroke)
    obtain ⟨ps', rs, passed⟩ := State.relayOnce_eq { s with ports := ps } q p.msg
    rw [passed] at run
    refine ⟨_, run, ?_⟩
    rw [State.stkState_commit]
    exact State.resumeStroke_holding _ h3
  case abandonCmd =>
    obtain ⟨ps, sent⟩ := s.broadcast_ports { noMsg with code := 8, num := s.stroke } none
    have effect : abandonCmdEffect s = State.abandonStroke { s with ports := ps } := (if_pos ⟨h3, hs⟩).trans (congrArg State.abandonStroke sent)
    refine ⟨_, State.rails_next hr rfl abandonCmdEffect, ?_⟩
    simp only [effect, State.stkState_commit, State.tok_commit]
    exact State.abandonStroke_holding _ h3
  case abandon =>
    obtain ⟨ps, run⟩ := State.rails_onStroke hr h (fun _ m s => (s.relayOnce q m).abandonStroke)
    obtain ⟨ps', rs, passed⟩ := State.relayOnce_eq { s with ports := ps } q p.msg
    rw [passed] at run
    refine ⟨_, run, ?_⟩
    simp only [State.stkState_commit, State.tok_commit]
    exact State.abandonStroke_holding _ h3

/-! ### After reset (R304, R305, R650) -/

/-- Settles O55: no memory and no token is listed after reset, and its registers are few. -/
theorem resetLeavesAStoppedOrderedMachine : Obligations.ResetLeavesAStoppedOrderedMachine := by
  have registers : Tab.sorted State.reset.regs = true := by decide +kernel
  refine ⟨?_, rfl, by decide +kernel, by decide +kernel, by decide +kernel, rfl, fun _ => rfl, fun _ => rfl⟩
  rw [State.ordered, registers]
  rfl

end Sys2Proof.Machine
end
section
/-!
PROOF. Cue sheets (R71 to R89): a sheet is fetched, a cue issues its action, completes and posts, and the batcher's classes close.
-/
namespace Sys2Proof.Machine

variable {s : State}

/-! ### A sheet is fetched (R71 to R73) -/

/-- No cox waits where no fault is held. -/
theorem State.faultHeld_none (h : s.slots = []) (h' : s.slotless = []) (p : FaultSlot → Agent × Nat → Bool) : s.faultHeld p = false := by
  unfold State.faultHeld
  rw [h, h']
  rfl

/-- The cues of a sheet, as its header and the bytes after it spell it. -/
def sheetOf (n : Nat) (h body : List Byte) : Sheet :=
  { stroke := n, ctx := fieldBits h 4 0 6, nondet := bitOf (fieldLE h 5 1) 0, cues := parseCues (fieldLE h 2 2) body }

/-- A sheet that can be read and breaks no rule is placed. -/
theorem sheetFetchEffect_places {c n : Nat} {h body : List Byte} (target : s.fetchTarget c = some n)
    (header : s.readV (.cox c) 0 (s.sheetAddr c n) 64 = .ok h) (hv : fieldLE h 0 2 = 8) (hx : s.ctxOn (fieldBits h 4 0 6) = true)
    (hid : fieldLE h 8 8 = s.rd STK_SCHEDULE_ID) (hn : fieldLE h 2 2 ≠ 0)
    (rest : s.readV (.cox c) 0 (s.sheetAddr c n + 64) (fieldLE h 2 2 * 64) = .ok body)
    (wellFormed : badCue (parseCues (fieldLE h 2 2) body) = none) :
    sheetFetchEffect c s = (s.clearArrived (.cox c)).placeSheet c (sheetOf n h body) := by
  have formed : ¬ (fieldLE h 0 2 ≠ 8 ∨ (!s.ctxOn (fieldBits h 4 0 6)) = true ∨ fieldLE h 8 8 ≠ s.rd STK_SCHEDULE_ID ∨ fieldLE h 2 2 = 0) := by
    simp [hv, hx, hid, hn]
  -- The read stands as a variable: the kernel would run it to check that the match on it is the same.
  obtain ⟨read, hread⟩ : ∃ f, f = s.readV := ⟨_, rfl⟩
  unfold sheetFetchEffect
  rw [← hread] at header rest ⊢
  rw [target]
  dsimp only
  rw [header]
  dsimp only
  rw [if_neg formed, rest]
  dsimp only
  rw [wellFormed]
  rfl

/-- In the drive of its stroke a sheet becomes the current one. -/
theorem State.placeSheet_current {c : Nat} {sh : Sheet} (h2 : s.stkState = 2) (hn : sh.stroke = s.stroke) :
    ((s.placeSheet c sh).cox c).cur = some sh ∧ (∀ d, d ≠ c → (s.placeSheet c sh).cox d = s.cox d) ∧
      s.foot (s.placeSheet c sh) [STK_STAT_NONDET_SEEN.key 0 0] := by
  unfold State.placeSheet
  rw [if_pos ⟨h2, hn⟩]
  have other (d : Nat) (hd : d ≠ c) : (s.setCox c { s.cox c with cur := some sh }).cox d = s.cox d := (s.cox_setCox ..).trans (if_neg hd)
  have set : (s.setCox c { s.cox c with cur := some sh }).cox c = { s.cox c with cur := some sh } := s.cox_setCox_same ..
  dsimp only
  split
  · exact ⟨congrArg Cox.cur set, other, State.foot_wr_of (State.foot_of_eq rfl rfl rfl rfl) (List.mem_singleton_self _)⟩
  · exact ⟨congrArg Cox.cur set, other, State.foot_of_eq rfl rfl rfl rfl⟩

/-- Else it waits for its catch. -/
theorem State.placeSheet_next {c : Nat} {sh : Sheet} (h : ¬ (s.stkState = 2 ∧ sh.stroke = s.stroke)) :
    s.placeSheet c sh = s.setCox c { s.cox c with next := some sh } := if_neg h

/-- Settles O10: the sheet that the bytes spell is placed, in the drive under way or for the next catch. -/
theorem sheetFetchTakesAWellFormedSheet : Obligations.SheetFetchTakesAWellFormedSheet := by
  intro s c n h body hr hc hb target header hv hx hid hn slots slotless rest wellFormed
  have ready : (decide (c < 16) && s.blk .cox c == 1 && (s.fetchTarget c).isSome &&
      !s.faultHeld (fun _ a => a.1 == .cox c && decide (a.2 < 65536))) = true := by
    simp [hc, hb, target, State.faultHeld_none slots slotless]
  have run : exec (.sheetFetch c) s = .next (s.commit (sheetFetchEffect c s)) := State.rails_next hr ready _
  rw [sheetFetchEffect_places target header hv hx hid hn rest wellFormed] at run
  let u := s.clearArrived (.cox c)
  refine ⟨_, sheetOf n h body, run, rfl, rfl, rfl, ?_⟩
  by_cases current : s.stkState = 2 ∧ n = s.stroke
  · obtain ⟨cur, others, foot⟩ := State.placeSheet_current (s := u) (c := c) (sh := sheetOf n h body) current.1 current.2
    exact ⟨fun _ _ => cur, fun e => e.elim (absurd current.1) (absurd current.2), others,
      State.foot_commit (State.foot_then (State.foot_of_eq rfl rfl rfl rfl) foot)⟩
  · rw [State.placeSheet_next (s := u) (sh := sheetOf n h body) current]
    refine ⟨fun h2 e => absurd ⟨h2, e⟩ current, fun _ => ⟨?_, ?_⟩, fun d hd => ?_, State.foot_commit (State.foot_of_eq rfl rfl rfl rfl)⟩
    · exact congrArg Cox.next (u.cox_setCox_same c _)
    · exact (congrArg Cox.cur (u.cox_setCox_same c { u.cox c with next := some (sheetOf n h body) }) : ((u.setCox c _).cox c).cur = _)
    · exact (u.cox_setCox c _ d).trans (if_neg hd)

/-! ### A cue issues (R76, R77, R81) -/

theorem State.issues_ready {c idx : Nat} {sh : Sheet} {q : Cue} (hc : c < 16) (h : s.readyCue c = some (sh, q, idx)) :
    s.issues c q.kind = true := by
  simp [State.issues, hc, h]

/-- The ready cue of a crew whose context runs and whose record can be written starts its action. -/
theorem State.issueWith_ready {c idx : Nat} {sh : Sheet} {q : Cue} (h : s.readyCue c = some (sh, q, idx)) (hx : s.ctxRefuses sh.ctx = none)
    (hrec : s.recordStop sh.ctx q = none) (f : Sheet → Cue → Nat → State → State) : s.issueWith c f = f sh q idx s := by
  simp only [State.issueWith, h, hx, hrec]

/-- The ready cue is one of the sheet under way. -/
theorem State.readyCue_cur {c idx : Nat} {sh : Sheet} {q : Cue} (h : s.readyCue c = some (sh, q, idx)) : (s.cox c).cur = some sh := by
  unfold State.readyCue at h
  split at h
  · cases h
  · next sh' hcur =>
    split at h
    · cases h
    · obtain ⟨p, -, e⟩ := Option.map_eq_some_iff.1 h
      rw [hcur, (Prod.mk.inj e).1]

/-- A DMA cue whose channel takes it starts it. -/
theorem exec_dmaCue_starts {c idx : Nat} {sh : Sheet} {q : Cue} (hr : s.railsUp = true) (hc : c < 16)
    (h : s.readyCue c = some (sh, q, idx)) (hk : q.kind = 2) (hx : s.ctxRefuses sh.ctx = none) (hrec : s.recordStop sh.ctx q = none)
    (hm : s.is CDM_CH_CTL_MODE c q.channel = false) (hst : s.rd CDM_CH_STAT_STATE c q.channel ≤ 3) (hb : s.blk .cdm c = 1) :
    exec (.dmaCue c) s = .next (s.commit (((s.issueCue c idx 1).setChan c q.channel
      { s.chan c q.channel with cue := some idx, ctx := sh.ctx, addr := q.ptr, count := bits q.arg 16 16, pos := 0, desc := none, fail := none,
                                flags := 0 }).wr CDM_CH_STAT_STATE 1 c q.channel)) := by
  have run : exec (.dmaCue c) s = .next (s.commit (dmaCueEffect c s)) := State.rails_next hr (hk ▸ State.issues_ready hc h) _
  have idle : ¬ (s.rd CDM_CH_STAT_STATE c q.channel = 6 ∧
      (s.retired.any fun r => r.1 == { kind := 9, block := c, pos := q.channel } && r.2 < 3) = true) := by omega
  have takes : ¬ (3 < s.rd CDM_CH_STAT_STATE c q.channel ∨ s.blk .cdm c ≠ 1) := by omega
  rw [dmaCueEffect, State.issueWith_ready h hx hrec] at run
  dsimp only at run
  rw [hm, if_neg Bool.false_ne_true, if_neg idle, if_neg takes] at run
  exact run

/-! ### LAUNCH (R77) and the batcher (R154 to R157) -/

section
variable (x : Cox)

theorem Cox.takeSome_issued (idx mask : Nat) (ps : List Contribution) : ∀ x : Cox, (x.takeSome idx mask ps).issued = x.issued := by
  induction ps with
  | nil => exact fun _ => rfl
  | cons p ps ih =>
    intro x
    unfold Cox.takeSome
    split
    · rfl
    · exact ih _

theorem Cox.retryBacklog_issued : x.retryBacklog.issued = x.issued := by
  have keeps (bs : List Backlog) : ∀ y : Cox, (bs.foldl (fun (y : Cox) b => Cox.takeSome b.cue b.seats b.rest y) y).issued = y.issued := by
    induction bs with
    | nil => exact fun _ => rfl
    | cons b bs ih => exact fun y => (ih _).trans (Cox.takeSome_issued ..)
  exact keeps _ _

/-- The batcher leaves the issued cues. -/
theorem Cox.takeAll_issued (idx mask : Nat) (ps : List Contribution) : (x.takeAll idx mask ps).issued = x.issued := by
  have keeps (ns : List Nat) : ∀ y : Cox, (ns.foldl (fun (y : Cox) _ => y.retryBacklog) y).issued = y.issued := by
    induction ns with
    | nil => exact fun _ => rfl
    | cons n ns ih => exact fun y => (ih _).trans y.retryBacklog_issued
  exact (keeps _ _).trans (Cox.takeSome_issued ..)

/-- Where nothing waits and nothing comes, the batcher has nothing to take. -/
theorem Cox.takeAll_idle (h : x.backlog = []) (idx mask : Nat) : x.takeAll idx mask [] = x := by
  simp [Cox.takeAll, Cox.takeSome, h]

end

theorem State.cox_issueCue (s : State) (c idx parts : Nat) :
    (s.issueCue c idx parts).cox c = { s.cox c with
      issued := idx :: (s.cox c).issued
      running := Tab.put (s.cox c).running idx { left := parts, status := stSuccess, flags := 0, order := 8, detail := [] } } :=
  s.cox_setCox_same ..

/-- A LAUNCH that is not batched has handed its seats their blocks; of the crew's marks only the cue's own has changed. -/
theorem launchEffect_calm {c idx : Nat} {sh : Sheet} {q : Cue} (h : s.readyCue c = some (sh, q, idx)) (hq : q.batch = false)
    (hx : s.ctxRefuses sh.ctx = none) (hrec : s.recordStop sh.ctx q = none) :
    (launchEffect c s).calm = (s.issueCue c idx (setBits q.seatMask 8).length).calm := by
  unfold launchEffect
  rw [State.issueWith_ready h hx hrec, hq, if_neg Bool.false_ne_true]
  refine State.calm_foldl _ (fun t p => ?_) _ _
  split
  · exact State.calm_cuePart ..
  · exact State.calm_handBlock ..

/-- A batched LAUNCH has given its contributions to the batcher and is issued. -/
theorem launchEffect_batch_calm {c idx : Nat} {sh : Sheet} {q : Cue} {cs : List Contribution} (h : s.readyCue c = some (sh, q, idx))
    (hq : q.batch = true) (hx : s.ctxRefuses sh.ctx = none) (hrec : s.recordStop sh.ctx q = none)
    (hcs : s.contribs c sh.ctx q.ptr q.arg = .ok cs) :
    (launchEffect c s).calm = (State.issueCue ((s.clearArrived (.cox c)).setCox c ((s.cox c).takeAll idx q.seatMask cs)) c idx
      ((cs.map (fun p => p.m)).sum + 1)).calm := by
  unfold launchEffect
  rw [State.issueWith_ready h hx hrec, hq, if_pos rfl]
  simp only [State.launchBatch, hcs, State.calm_retryTiles, State.calm_cuePart]

/-- Settles O11: the channel takes its descriptors; of the crew's marks a LAUNCH changes the issued cues and the batcher's classes. -/
theorem cueIssueStartsItsAction : Obligations.CueIssueStartsItsAction := by
  refine ⟨fun s c sh q idx hr hc h hk hx hrec hm hst hb => ?dma, fun s c sh q idx hr hc h hk hq hx hrec => ?launch,
    fun s c sh q idx cs hr hc h hk hq hx hrec hcs => ?batch⟩
  case dma =>
    let x : Chan := { s.chan c q.channel with
      cue := some idx, ctx := sh.ctx, addr := q.ptr, count := bits q.arg 16 16, pos := 0, desc := none, fail := none, flags := 0 }
    have taken : ((s.issueCue c idx 1).setChan c q.channel x).chan c q.channel = x := State.chan_setChan_same ..
    have issued : ((s.issueCue c idx 1).cox c).issued = idx :: (s.cox c).issued := congrArg Cox.issued (s.cox_issueCue c idx 1)
    refine ⟨_, exec_dmaCue_starts hr hc h hk hx hrec hm hst hb, ?_, congrArg Chan.cue taken, congrArg Chan.ctx taken,
      congrArg Chan.addr taken, congrArg Chan.count taken, congrArg Chan.pos taken, ?_,
      State.foot_commit (State.foot_wr_of (State.foot_of_eq rfl rfl rfl rfl) (List.mem_singleton_self _))⟩
    · rw [State.cox_commit]
      exact issued ▸ List.mem_cons_self
    · exact (State.rd_commit ..).trans (State.rd_wr_same ..)
  case launch =>
    have calm := launchEffect_calm h hq hx hrec
    have marks := State.calm_marks calm c
    rw [State.cox_issueCue] at marks
    exact ⟨_, State.rails_next hr (hk ▸ State.issues_ready hc h) (launchEffect c), congrArg CoxMarks.issued marks,
      congrArg CoxMarks.done marks, (State.calm_stk calm).trans (s.setCox_stk ..)⟩
  case batch =>
    have marks := State.calm_marks (launchEffect_batch_calm h hq hx hrec hcs) c
    rw [State.cox_issueCue, State.cox_setCox_same] at marks
    exact ⟨_, State.rails_next hr (hk ▸ State.issues_ready hc h) (launchEffect c),
      (congrArg CoxMarks.issued marks).trans (congrArg (idx :: ·) (Cox.takeAll_issued ..)), congrArg CoxMarks.batch marks⟩

end Sys2Proof.Machine
end
section
/-!
PROOF. Cues complete and post (R84 to R90, R100): what completing a cue leaves in its crew and in the tokens, and what END adds.
-/
namespace Sys2Proof.Machine

variable {s : State}

/-! ### Tokens (R84, R92, R94) -/

theorem State.stray_tok (s : State) (k : Nat) (b : Bool) (n : Nat) : (s.stray k b).tok n = s.tok n := by
  unfold State.stray
  split
  · exact State.tok_logFrom ..
  · rfl

theorem State.tok_addTok (s : State) (k inc : Nat) (b : Bool) (n : Nat) :
    (s.addTok k inc b).tok n = if n = k then s.tok k + BitVec.ofNat 32 inc else s.tok n :=
  (State.stray_tok ..).trans (s.tok_setTok ..)

theorem State.tok_post_other {c sel k : Nat} (h : selToken c sel ≠ some k) (inc : Nat) (b : Bool) : (s.post c sel inc b).tok k = s.tok k := by
  unfold State.post
  split
  · next m hm => rw [State.tok_addTok, if_neg (fun e => h (hm.trans (congrArg some e.symm)))]
  · rfl

theorem State.tok_post_same {c sel k : Nat} (h : selToken c sel = some k) (inc : Nat) (b : Bool) :
    (s.post c sel inc b).tok k = s.tok k + BitVec.ofNat 32 inc := by
  simp only [State.post, h]
  rw [State.tok_addTok, if_pos rfl]

/-- Tiles that go to their seats post nothing. -/
theorem State.tok_cuePart (s : State) (c i a b d : Nat) (l : List Byte) (n k : Nat) : (s.cuePart c i a b d l n).tok k = s.tok k := by
  unfold State.cuePart
  dsimp only
  split <;> rfl

theorem State.tok_issueTiles (c k : Nat) (l : List (Nat × List RowSpan)) : ∀ s : State, (s.issueTiles c l).tok k = s.tok k := by
  induction l with
  | nil => exact fun _ => rfl
  | cons x l ih =>
    intro s
    obtain ⟨mask, rows⟩ := x
    unfold State.issueTiles
    split
    · dsimp only
      split
      · exact (State.foldl_keep (fun t => t.tok k) _ (fun t r => t.tok_cuePart ..) rows _).trans (ih s)
      · exact ih s
    · exact ih _

theorem State.tok_retryTiles (s : State) (c k : Nat) : (s.retryTiles c).tok k = s.tok k := by
  unfold State.retryTiles
  extract_lets ts cs
  split
  · rfl
  · exact State.tok_issueTiles ..

/-! ### Completion (R84, R86, R88) -/

/-- Of the crew's marks a completion changes the completed cues; the stroke unit stays. -/
theorem State.endCue_calm (c : Nat) (q : Cue) (idx : Nat) (r : CueRun) (status : Nat) (logged : Bool) :
    (s.endCue c q idx r status logged).stk = s.stk ∧
      ((s.endCue c q idx r status logged).cox c).marks = { (s.cox c).marks with done := idx :: (s.cox c).done } := by
  unfold State.endCue
  extract_lets failed noted counted x ended
  have calm : counted.calm = s.calm := by
    have noting : noted.calm = s.calm := by
      show (if logged then _ else s).calm = s.calm
      split
      · exact State.calm_logEv ..
      · rfl
    show (if failed then noted.bumpSat COX_FAIL_COUNT 1 c else noted).calm = s.calm
    split
    · exact (noted.calm_bumpSat COX_FAIL_COUNT 1 c 0 (by simp)).trans noting
    · exact noting
  have marked : (ended.cox c).marks = { (s.cox c).marks with done := idx :: (s.cox c).done } := by
    have same := State.calm_marks calm c
    rw [State.cox_setCox_same]
    show { (counted.cox c).marks with done := idx :: (counted.cox c).marks.done } = _
    rw [same]
    rfl
  have unit : ended.stk = s.stk := (State.calm_stk calm : counted.stk = s.stk)
  split
  · exact ⟨unit, marked⟩
  · have posts : ((ended.post c q.postA q.incA true).post c q.postB q.incB true).calm = ended.calm := by simp
    exact ⟨(State.calm_stk posts).trans unit, (State.calm_marks posts c).trans marked⟩

/-- A cue whose record can be written, or that has none, completes. -/
theorem State.completeCue_ends {c idx : Nat} {sh : Sheet} {q : Cue} {r : CueRun} (h : s.recordStop sh.ctx q = none) :
    ∃ (t : State) (st : Nat) (logged : Bool), s.completeCue c sh q idx r = t.endCue c q idx r st logged ∧ t.calm = s.calm := by
  unfold State.completeCue
  dsimp only
  split
  · exact ⟨_, _, _, rfl, rfl⟩
  · rw [h]
    exact ⟨_, _, _, rfl, State.calm_writeV ..⟩

theorem cueCompleteEffect_eq {c idx : Nat} {sh : Sheet} {q : Cue} {r : CueRun} (hcur : (s.cox c).cur = some sh)
    (hr : Tab.find (s.cox c).running idx = some r) (hq : sh.cues[idx]? = some q) (hl : r.left = 0) :
    cueCompleteEffect c idx s = (s.completeCue c sh q idx r).retryTiles c := by
  simp only [cueCompleteEffect, hcur, hr, hq, hl, if_true]

/-- What completing a cue of which nothing runs leaves in its crew. -/
theorem cueCompleteEffect_marks {c idx : Nat} {sh : Sheet} {q : Cue} {r : CueRun} (hcur : (s.cox c).cur = some sh)
    (hr : Tab.find (s.cox c).running idx = some r) (hq : sh.cues[idx]? = some q) (hl : r.left = 0) (hrec : s.recordStop sh.ctx q = none) :
    (cueCompleteEffect c idx s).stk = s.stk ∧
      ((cueCompleteEffect c idx s).cox c).marks = { (s.cox c).marks with done := idx :: (s.cox c).done } := by
  rw [cueCompleteEffect_eq hcur hr hq hl]
  obtain ⟨t, st, logged, ends, calm⟩ := State.completeCue_ends (c := c) (idx := idx) (r := r) hrec
  have tiles := (s.completeCue c sh q idx r).calm_retryTiles c
  obtain ⟨unit, marks⟩ := t.endCue_calm c q idx r st logged
  have same := State.calm_marks calm c
  refine ⟨(State.calm_stk tiles).trans (ends ▸ unit.trans (State.calm_stk calm)), (State.calm_marks tiles c).trans ?_⟩
  rw [ends, marks]
  show { (t.cox c).marks with done := idx :: (t.cox c).marks.done } = _
  rw [same]
  rfl

/-- A completed cue without a status record, whose posts do not fail, changes the tokens by its posts alone. -/
theorem cueCompleteEffect_tok {c idx : Nat} {sh : Sheet} {q : Cue} {r : CueRun} (hcur : (s.cox c).cur = some sh)
    (hr : Tab.find (s.cox c).running idx = some r) (hq : sh.cues[idx]? = some q) (hl : r.left = 0) (hp : q.statusPtr = 0)
    (ok : q.holdOnErr = false ∨ r.status = stSuccess ∧ r.flags = 0) :
    ∃ t : State, (∀ k, t.tok k = s.tok k) ∧
      ∀ k, (cueCompleteEffect c idx s).tok k = ((t.post c q.postA q.incA true).post c q.postB q.incB true).tok k := by
  rw [cueCompleteEffect_eq hcur hr hq hl]
  unfold State.completeCue
  extract_lets st lose
  rw [if_pos hp]
  unfold State.endCue
  extract_lets failed noted counted x ended
  have posts : ¬ (failed = true ∧ q.holdOnErr = true) := by
    rintro ⟨fails, holds⟩
    obtain hold | ⟨hst, hfl⟩ := ok
    · rw [hold] at holds
      cases holds
    · have : failed = false := by
        show (!statusOk (if r.status = stSuccess ∧ r.flags ≠ 0 then stFlags else r.status)) = false
        rw [hst, hfl]
        rfl
      rw [this] at fails
      cases fails
  rw [if_neg posts]
  have noting (k : Nat) : noted.tok k = s.tok k := by
    show State.tok (if (!statusOk st) = true then _ else s) k = s.tok k
    split
    · exact State.tok_logFrom ..
    · rfl
  have counting (k : Nat) : counted.tok k = s.tok k := by
    show State.tok (if failed then noted.bumpSat COX_FAIL_COUNT 1 c else noted) k = s.tok k
    split <;> exact noting k
  exact ⟨ended, counting, fun k => State.tok_retryTiles ..⟩

/-- The two posts of a cue that name different tokens add to both. -/
theorem State.tok_posts (t : State) {c : Nat} {q : Cue} (h : ∀ k, selToken c q.postA = some k → selToken c q.postB ≠ some k) (k : Nat) :
    (selToken c q.postA = some k →
      ((t.post c q.postA q.incA true).post c q.postB q.incB true).tok k = t.tok k + BitVec.ofNat 32 q.incA) ∧
    (selToken c q.postB = some k →
      ((t.post c q.postA q.incA true).post c q.postB q.incB true).tok k = t.tok k + BitVec.ofNat 32 q.incB) := by
  refine ⟨fun ha => ?_, fun hb => ?_⟩
  · rw [State.tok_post_other (h k ha), State.tok_post_same ha]
  · rw [State.tok_post_same hb, State.tok_post_other (fun ha => h k ha hb)]

/-! ### NOP and END (R76, R89) -/

/-- A cue that has just been issued with no part of an action is among the running ones, with nothing left. -/
def doneAtOnce : CueRun := { left := 0, status := stSuccess, flags := 0, order := 8, detail := [] }

theorem State.issueCue_running (s : State) (c idx : Nat) : Tab.find ((s.issueCue c idx 0).cox c).running idx = some doneAtOnce := by
  rw [State.cox_issueCue]
  exact (Tab.find_put ..).trans (if_pos rfl)

theorem State.issueCue_cur (s : State) (c idx parts : Nat) : ((s.issueCue c idx parts).cox c).cur = (s.cox c).cur := by
  rw [State.cox_issueCue]

section
variable {c idx : Nat} {sh : Sheet} {q : Cue} (h : s.readyCue c = some (sh, q, idx)) (hq : sh.cues[idx]? = some q) (hp : q.statusPtr = 0)
include h hq hp

/-- A ready cue without action or record is issued and completed, and posts. -/
theorem State.completeAtOnce :
    ((cueCompleteEffect c idx (s.issueCue c idx 0)).cox c).marks =
      { (s.cox c).marks with issued := idx :: (s.cox c).issued, done := idx :: (s.cox c).done } ∧
    ∃ t : State, (∀ k, t.tok k = s.tok k) ∧ ∀ k, (cueCompleteEffect c idx (s.issueCue c idx 0)).tok k =
      ((t.post c q.postA q.incA true).post c q.postB q.incB true).tok k := by
  have cur := (s.issueCue_cur c idx 0).trans (State.readyCue_cur h)
  have run := s.issueCue_running c idx
  obtain ⟨-, marks⟩ := cueCompleteEffect_marks cur run hq rfl (if_pos hp)
  rw [State.cox_issueCue] at marks
  exact ⟨marks, cueCompleteEffect_tok cur run hq rfl hp (.inr ⟨rfl, rfl⟩)⟩

end

/-- The saves at the curtain leave coxes and tokens. -/
theorem State.curtainSaves_store (s : State) : (s.curtainSaves.coxes, s.curtainSaves.tokens) = (s.coxes, s.tokens) := by
  have noted (t : State) (i ctx : Nat) (b : Bool) : ((t.noteSave i ctx b).coxes, (t.noteSave i ctx b).tokens) = (t.coxes, t.tokens) := by
    unfold State.noteSave
    cases b <;> simp [State.bump_eq, State.logEv]
  have requested (t : State) (i : Nat) (b : Bool) : ((t.requestSave i b).coxes, (t.requestSave i b).tokens) = (t.coxes, t.tokens) := by
    unfold State.requestSave
    dsimp only
    repeat' split
    all_goals simp [noted]
  refine State.foldl_keep (fun t => (t.coxes, t.tokens)) _ (fun t x => ?_) s.cores s
  repeat' split
  all_goals simp [requested]

theorem State.emitCatch_store (s : State) (n k : Nat) : ((s.emitCatch n k).coxes, (s.emitCatch n k).tokens) = (s.coxes, s.tokens) := by
  unfold State.emitCatch
  obtain ⟨ps, sent⟩ := s.broadcast_ports { noMsg with code := 2, num := n, b := k, tag := s.rd STK_SCHEDULE_ID % 2 ^ 32 } none
  rw [sent]
  unfold State.scheduleCatch
  dsimp only
  split <;> exact State.curtainSaves_store _

theorem State.emitResumed_store (s : State) : (s.emitResumed.coxes, s.emitResumed.tokens) = (s.coxes, s.tokens) := by
  unfold State.emitResumed
  dsimp only
  split
  · exact State.emitCatch_store ..
  · rfl

/-- DONE leaves coxes and tokens, at the starter and on its way there. -/
theorem State.toStarter_done_keeps {s : State} {m : StrokeMsg} (hm : m.code = 4) :
    (∀ c, (s.toStarter m).cox c = s.cox c) ∧ ∀ k, (s.toStarter m).tok k = s.tok k := by
  have store : ((s.toStarter m).coxes, (s.toStarter m).tokens) = (s.coxes, s.tokens) := by
    by_cases hs : s.starter = true
    · rw [State.toStarter, if_pos hs, State.starterTake_done hs hm]
      exact State.emitResumed_store _
    · obtain ⟨ps, e⟩ | ⟨d, e⟩ := State.toStarter_cases (Bool.not_eq_true _ ▸ hs) m <;> rw [e]
      dsimp only
      rw [if_neg (by omega)]
      simp [State.logEv]
  obtain ⟨coxes, tokens⟩ := Prod.mk.inj store
  exact ⟨fun c => congrArg (fun t => Tab.look t c default) coxes, State.tok_congr tokens⟩

/-- A crew that has posted its done token has ended and is not late; the tokens stay. -/
theorem State.crewDone_ends (s : State) (c : Nat) :
    ((s.crewDone c).cox c).ended = true ∧ ((s.crewDone c).cox c).late = false ∧ ∀ k, (s.crewDone c).tok k = s.tok k := by
  unfold State.crewDone
  extract_lets x ended
  have crew : ended.cox c = { x with ended := true, late := false } := s.cox_setCox_same ..
  split
  · refine ⟨?_, ?_, fun k => (State.toStarter_done_keeps rfl).2 k⟩ <;> rw [(State.toStarter_done_keeps rfl).1 c]
    · exact congrArg Cox.ended crew
    · exact congrArg Cox.late crew
  · exact ⟨congrArg Cox.ended crew, congrArg Cox.late crew, fun _ => rfl⟩

/-- END, whose posts name other tokens, adds one to the crew's done token and ends the crew. -/
theorem endEffect_ends {c idx : Nat} {sh : Sheet} {q : Cue} (h : s.readyCue c = some (sh, q, idx)) (hq : sh.cues[idx]? = some q)
    (hp : q.statusPtr = 0) (ha : selToken c q.postA ≠ some (tokCrew c 0)) (hb : selToken c q.postB ≠ some (tokCrew c 0)) :
    ((endEffect c s).cox c).ended = true ∧ ((endEffect c s).cox c).late = false ∧
      (endEffect c s).tok (tokCrew c 0) = s.tok (tokCrew c 0) + 1 := by
  obtain ⟨marks, t, same, posts⟩ := State.completeAtOnce h hq hp
  have done : ((cueCompleteEffect c idx (s.issueCue c idx 0)).cox c).done.contains idx = true := by
    rw [show ((cueCompleteEffect c idx (s.issueCue c idx 0)).cox c).done = idx :: (s.cox c).done from congrArg CoxMarks.done marks]
    simp
  have effect : endEffect c s = ((cueCompleteEffect c idx (s.issueCue c idx 0)).addTok (tokCrew c 0) 1 true).crewDone c := by
    unfold endEffect
    rw [h]
    exact if_pos done
  obtain ⟨ended, late, tok⟩ := State.crewDone_ends ((cueCompleteEffect c idx (s.issueCue c idx 0)).addTok (tokCrew c 0) 1 true) c
  rw [effect]
  refine ⟨ended, late, ?_⟩
  rw [tok, State.tok_addTok, if_pos rfl, posts, State.tok_post_other hb, State.tok_post_other ha, same]
  rfl

/-! ### BATCH_FLUSH (R157) -/

/-- The flush closes the open classes, takes what waited for them, and issues the tiles that find a seat. -/
theorem batchFlushEffect_marks (s : State) (c : Nat) :
    ((batchFlushEffect c s).cox c).issued = (s.cox c).issued ∧ ((s.cox c).backlog = [] → ((batchFlushEffect c s).cox c).batch = []) := by
  unfold batchFlushEffect
  extract_lets flushed x closed
  have marks := State.calm_marks ((flushed.setCox c (closed.takeAll 0 0 [])).calm_retryTiles c) c
  rw [State.cox_setCox_same] at marks
  refine ⟨(congrArg CoxMarks.issued marks).trans (Cox.takeAll_issued ..), fun hb => (congrArg CoxMarks.batch marks).trans ?_⟩
  have idle : closed.takeAll 0 0 [] = closed := closed.takeAll_idle hb 0 0
  exact congrArg Cox.batch idle

/-- Settles O12: each completes through `cueCompleteEffect`, END posts the done token besides, and a flush leaves no class open. -/
theorem cueCompletesAndPosts : Obligations.CueCompletesAndPosts := by
  refine ⟨fun s c idx sh q r hr hc hcur hrun hq hl hw hrec => ?complete, fun s c idx sh q hr hc h hk hx hq hp hne => ?nop,
    fun s c idx sh q hr hc h hk hq hp ha hb => ?endCue, fun s c hr hc hon hb => ?flush⟩
  case complete =>
    have ready : (decide (c < 16) && s.regWrites.isEmpty) = true := by simp [hc, hw]
    obtain ⟨unit, marks⟩ := cueCompleteEffect_marks hcur hrun hq hl hrec
    have done : ((cueCompleteEffect c idx s).cox c).done = idx :: (s.cox c).done := congrArg CoxMarks.done marks
    refine ⟨_, State.rails_next hr ready (cueCompleteEffect c idx), ?_, congrArg CoxMarks.issued marks, unit, fun hp hold hne => ?_⟩
    · rw [State.cox_commit, done]
      exact List.mem_cons_self
    · obtain ⟨t, same, posts⟩ := cueCompleteEffect_tok hcur hrun hq hl hp (.inl hold)
      simp only [State.tok_commit, posts, ← same]
      exact ⟨fun k => (t.tok_posts hne k).1, fun k => (t.tok_posts hne k).2⟩
  case nop =>
    have effect : nopEffect c s = cueCompleteEffect c idx (s.issueCue c idx 0) := State.issueWith_ready h hx (if_pos hp) _
    obtain ⟨marks, t, same, posts⟩ := State.completeAtOnce h hq hp
    have issued : ((cueCompleteEffect c idx (s.issueCue c idx 0)).cox c).issued = idx :: (s.cox c).issued := congrArg CoxMarks.issued marks
    have done : ((cueCompleteEffect c idx (s.issueCue c idx 0)).cox c).done = idx :: (s.cox c).done := congrArg CoxMarks.done marks
    refine ⟨_, State.rails_next hr (hk ▸ State.issues_ready hc h) (nopEffect c), ?_⟩
    simp only [effect, State.cox_commit, State.tok_commit, issued, done, posts, ← same]
    exact ⟨List.mem_cons_self, List.mem_cons_self, fun k => (t.tok_posts hne k).1, fun k => (t.tok_posts hne k).2⟩
  case endCue =>
    refine ⟨_, State.rails_next hr (hk ▸ State.issues_ready hc h) (endEffect c), ?_⟩
    rw [State.cox_commit, State.tok_commit]
    exact endEffect_ends h hq hp ha hb
  case flush =>
    have ready : (decide (c < 16) && s.coxOn c && !(s.cox c).batch.isEmpty) = true := by simp [hc, hon, hb]
    obtain ⟨issued, batch⟩ := batchFlushEffect_marks s c
    exact ⟨_, State.rails_next hr ready (batchFlushEffect c), batch, issued⟩

end Sys2Proof.Machine
end
section
/-!
PROOF. The memory controllers (R98, R445 to R448, R454, R455): requests arrive at their bank and leave it, and the throttle level follows
the temperature.
-/
namespace Sys2Proof.Machine

/-! ### Banks -/

variable (s : State)

@[simp] theorem State.bank_setBank (k : Nat) (b : Bank) : (s.setBank k b).bank k = b := Tab.look_set_same ..

@[simp] theorem State.bank_wr (f : Fld) (v i j k : Nat) : (s.wr f v i j).bank k = s.bank k := rfl

theorem State.foot_setBank_of {s t : State} {ks : List Nat} (h : s.foot t ks) (k : Nat) (b : Bank) : s.foot (t.setBank k b) ks :=
  State.foot_upd_of h rfl rfl rfl rfl

section
variable {s : State} {lpd : Bool} {ctl bank : Nat}

/-- Below the quota a request takes a slot of its bank. -/
theorem State.arrive_queued (h : (s.bank (bankKey lpd ctl bank)).queue.length < bankQuota lpd) (r age : Nat) :
    (s.arrive lpd ctl bank r age).bank (bankKey lpd ctl bank) =
      { s.bank (bankKey lpd ctl bank) with queue := (s.bank (bankKey lpd ctl bank)).queue ++ [(r, age)] } ∧
    s.foot (s.arrive lpd ctl bank r age) [(memFlds lpd).1.key ctl 0] := by
  unfold State.arrive
  dsimp only
  rw [if_pos h]
  refine ⟨?_, State.foot_wr_of (State.foot_setBank_of s.foot_refl _ _) (List.mem_singleton_self _)⟩
  exact (State.bank_wr ..).trans (State.bank_setBank ..)

/-- At the quota it bounces, and its bank is held. -/
theorem State.arrive_bounced (h : bankQuota lpd ≤ (s.bank (bankKey lpd ctl bank)).queue.length) (r age : Nat) :
    (s.arrive lpd ctl bank r age).bank (bankKey lpd ctl bank) =
      { s.bank (bankKey lpd ctl bank) with bounced := (s.bank (bankKey lpd ctl bank)).bounced ++ [(r, age)], held := true } ∧
    s.foot (s.arrive lpd ctl bank r age) [(memFlds lpd).2.1.key ctl 0, (memFlds lpd).2.2.1.key ctl 0] := by
  unfold State.arrive
  dsimp only
  rw [if_neg (Nat.not_lt.2 h)]
  refine ⟨(State.bank_wr ..).trans (State.bank_setBank ..), State.foot_wr_of (State.foot_setBank_of ?_ _ _) (by simp)⟩
  split
  · exact s.foot_refl
  · exact State.foot_wr (by simp)

/-- A request that leaves is out of the queue; the bounced ones stay. -/
theorem State.leave_erases (r : Nat × Nat) :
    ((s.leave lpd ctl bank r).bank (bankKey lpd ctl bank)).queue = (s.bank (bankKey lpd ctl bank)).queue.erase r ∧
    ((s.leave lpd ctl bank r).bank (bankKey lpd ctl bank)).bounced = (s.bank (bankKey lpd ctl bank)).bounced ∧
    s.foot (s.leave lpd ctl bank r) [(memFlds lpd).1.key ctl 0, (memFlds lpd).2.1.key ctl 0] := by
  unfold State.leave
  extract_lets k b q free f left
  have bankLeft : left.bank k = { b with queue := q, held := b.held && !free } := (State.bank_wr ..).trans (State.bank_setBank ..)
  have footLeft : s.foot left [f.1.key ctl 0, f.2.1.key ctl 0] :=
    State.foot_wr_of (State.foot_setBank_of s.foot_refl _ _) List.mem_cons_self
  have queued : (left.bank k).queue = q := by rw [bankLeft]
  have bounced : (left.bank k).bounced = b.bounced := by rw [bankLeft]
  split
  · exact ⟨queued, bounced, State.foot_wr_of footLeft (List.mem_cons_of_mem _ List.mem_cons_self)⟩
  · exact ⟨queued, bounced, footLeft⟩

end

/-- The oldest request is one of them. -/
theorem oldest_mem {l : List (Nat × Nat)} {x : Nat × Nat} (h : oldest l = some x) : x ∈ l := by
  induction l generalizing x with
  | nil => cases h
  | cons r t ih =>
    unfold oldest at h
    split at h
    · next q hq =>
      split at h
      · exact Option.some.inj h ▸ List.mem_cons_self
      · exact List.mem_cons_of_mem _ (ih (hq.trans h))
    · exact Option.some.inj h ▸ List.mem_cons_self

/-! ### Timeouts (R454) -/

section
variable {s : State}

/-- An item that is retired, or on its way, takes no more transient errors. -/
theorem State.transient_retired {i : Inst} (h : (s.phase i).isSome = true) (n : Nat) : s.transient i n = s := if_pos h

theorem State.logEv_retired (p : Page) (i a b c d : Nat) : (s.logEv p i a b c d).retired = s.retired := by simp [State.logEv]

theorem State.leave_retired (lpd : Bool) (ctl bank : Nat) (r : Nat × Nat) : (s.leave lpd ctl bank r).retired = s.retired := by
  unfold State.leave
  dsimp only
  split <;> rfl

theorem State.leave_clock (lpd : Bool) (ctl bank : Nat) (r : Nat × Nat) : (s.leave lpd ctl bank r).clock = s.clock := by
  unfold State.leave
  dsimp only
  split <;> rfl

end

/-- The count of timeouts and that of uncorrectable errors are fields of their own. -/
theorem memFlds_keys (lpd : Bool) (ctl : Nat) :
    (memFlds lpd).2.2.2.1.key ctl 0 ∉ [(memFlds lpd).1.key ctl 0, (memFlds lpd).2.1.key ctl 0] ∧
    (BLK_ERR_UNCORR (memPage lpd)).key ctl 0 ∉ [(memFlds lpd).1.key ctl 0, (memFlds lpd).2.1.key ctl 0] ∧
    (memFlds lpd).2.2.2.1.key ctl 0 ∉
      [(BLK_ERR_UNCORR (memPage lpd)).key ctl 0, (BLK_INT_STAT (memPage lpd)).key ctl 0, LOG_DROPPED.key 0 0] ∧
    (BLK_ERR_UNCORR (memPage lpd)).key ctl 0 ∉
      [(memFlds lpd).2.2.2.1.key ctl 0, (BLK_INT_STAT (memPage lpd)).key ctl 0, LOG_DROPPED.key 0 0] := by
  cases lpd <;>
    simp only [memFlds, memPage, Fld.key, Page.base, HBM_SLOTS_USED_COUNT, HBM_BANKS_HELD_COUNT, HBM_PC_TIMEOUTS, LPD_SLOTS_USED_COUNT,
      LPD_BANKS_HELD_COUNT, LPD_PC_TIMEOUTS, BLK_ERR_UNCORR, BLK_INT_STAT, LOG_DROPPED, List.mem_cons, List.not_mem_nil, or_false, not_or, if_true,
      if_false, Bool.false_eq_true] <;>
    omega

/-- An uncorrectable error is counted, up to the counter's largest value, and raises its cause. -/
theorem State.foot_errUncorr (s : State) (p : Page) (i : Nat) :
    s.foot (s.errUncorr p i) [(BLK_ERR_UNCORR p).key i 0, (BLK_INT_STAT p).key i 0] :=
  State.foot_cause_of (State.foot_wr List.mem_cons_self) (by simp)

theorem State.rd_errUncorr (s : State) (p : Page) (i : Nat) :
    (s.errUncorr p i).rd (BLK_ERR_UNCORR p) i = min (s.rd (BLK_ERR_UNCORR p) i + 1) (2 ^ (BLK_ERR_UNCORR p).w - 1) := by
  have apart : (BLK_ERR_UNCORR p).key i 0 ≠ (BLK_INT_STAT p).key i 0 := by
    simp only [Fld.key, BLK_ERR_UNCORR, BLK_INT_STAT]
    omega
  refine (State.rd_wr_ne _ apart _).trans ((State.rd_wr_same ..).trans (Nat.mod_eq_of_lt ?_))
  simp only [BLK_ERR_UNCORR]
  omega

/-- The state after a timeout whose channel is already retired: the oldest request has left, and both are counted and logged. -/
def State.timedOut (s : State) (lpd : Bool) (ctl bank : Nat) (r : Nat × Nat) : State :=
  let f := memFlds lpd
  let t := (s.at (r.2 + s.rd f.2.2.2.2 ctl * 16)).leave lpd ctl bank r
  ((t.bump f.2.2.2.1 1 ctl).errUncorr (memPage lpd) ctl).logEv (memPage lpd) ctl 0x401 3 stBus
    (ctl + bank / (if lpd then 32 else 16) * 2 ^ 16)

section
variable {s : State} {lpd : Bool} {ctl bank : Nat}

theorem memoryTimeoutEffect_retired {r : Nat} {x : Nat × Nat} (hp : (s.phase (bankChannel lpd ctl bank)).isSome = true)
    (h : oldest ((s.bank (bankKey lpd ctl bank)).queue.filter (fun y => y.1 == r)) = some x) :
    memoryTimeoutEffect lpd ctl bank r s = s.timedOut lpd ctl bank x := by
  unfold memoryTimeoutEffect
  rw [h]
  refine State.transient_retired ?_ 16
  have kept : (s.timedOut lpd ctl bank x).retired = s.retired := (State.logEv_retired ..).trans (State.leave_retired ..)
  exact (congrArg (fun l => ((l.find? (fun r => r.1 == bankChannel lpd ctl bank)).map (fun r => r.2)).isSome) kept).trans hp

/-- What a timeout leaves: its request is gone, the clock has reached its end, and both counters have counted. -/
theorem State.timedOut_counts (x : Nat × Nat) :
    (s.timedOut lpd ctl bank x).clock = max s.clock (x.2 + s.rd (memFlds lpd).2.2.2.2 ctl * 16) ∧
    ((s.timedOut lpd ctl bank x).bank (bankKey lpd ctl bank)).queue = (s.bank (bankKey lpd ctl bank)).queue.erase x ∧
    (s.timedOut lpd ctl bank x).rd (memFlds lpd).2.2.2.1 ctl =
      (s.rd (memFlds lpd).2.2.2.1 ctl + 1) % 2 ^ (memFlds lpd).2.2.2.1.w ∧
    (s.timedOut lpd ctl bank x).rd (BLK_ERR_UNCORR (memPage lpd)) ctl =
      min (s.rd (BLK_ERR_UNCORR (memPage lpd)) ctl + 1) (2 ^ (BLK_ERR_UNCORR (memPage lpd)).w - 1) ∧
    ∃ ks, s.foot (s.timedOut lpd ctl bank x) ks := by
  unfold State.timedOut
  extract_lets f left
  obtain ⟨timeoutLeaves, errLeaves, timeoutCounts, errCounts⟩ := memFlds_keys lpd ctl
  obtain ⟨queue, -, leaves⟩ := State.leave_erases (s := s.at (x.2 + s.rd f.2.2.2.2 ctl * 16)) (lpd := lpd) (ctl := ctl) (bank := bank) x
  have footLeft : s.foot left [f.1.key ctl 0, f.2.1.key ctl 0] := State.foot_trans (ks := []) (State.foot_of_eq rfl rfl rfl rfl) leaves
  have footCounted : left.foot (left.bump f.2.2.2.1 1 ctl) [f.2.2.2.1.key ctl 0] := State.foot_wr (List.mem_singleton_self _)
  have footErr := State.foot_errUncorr (left.bump f.2.2.2.1 1 ctl) (memPage lpd) ctl
  have footLog (u : State) (d : Nat) : u.foot (u.logEv (memPage lpd) ctl 0x401 3 stBus d) [LOG_DROPPED.key 0 0] :=
    State.foot_logEv (List.mem_singleton_self _)
  refine ⟨?_, ?_, ?_, ?_, ?_⟩
  · exact (State.logFrom_clock ..).trans (State.leave_clock ..)
  · have banks (u : State) (d : Nat) : (u.logEv (memPage lpd) ctl 0x401 3 stBus d).bank (bankKey lpd ctl bank) = u.bank (bankKey lpd ctl bank) :=
      congrArg (fun l => Tab.look l (bankKey lpd ctl bank) default) (State.logFrom_banks ..)
    rw [banks]
    exact queue
  · rw [State.foot_rd (State.foot_trans footErr (footLog _ _)) _ _ _ timeoutCounts, State.bump_eq, State.rd_wr_same,
      State.foot_rd footLeft _ _ _ timeoutLeaves]
  · rw [State.foot_rd (footLog _ _) _ _ _ (fun e => errCounts (List.mem_cons_of_mem _ (List.mem_cons_of_mem _ e))), State.rd_errUncorr,
      State.foot_rd footCounted _ _ _ (fun e => errCounts (List.mem_singleton.1 e ▸ List.mem_cons_self)), State.foot_rd footLeft _ _ _ errLeaves]
  · exact ⟨_, State.foot_trans footLeft (State.foot_trans footCounted (State.foot_trans footErr (footLog _ _)))⟩

end

/-! ### The throttle level (R455) -/

theorem fallTo_le (t : Nat) : ∀ l, fallTo t l ≤ l
  | 0 => Nat.le_refl _
  | l + 1 => by
    unfold fallTo
    split
    · exact Nat.le_succ_of_le (fallTo_le t l)
    · exact Nat.le_refl _

/-- A level at most 1 degree below whose entry the temperature lies is not left. -/
theorem fallTo_stays {t l : Nat} (h : levelEntry (l + 1) < t + 2) : fallTo t (l + 1) = l + 1 := if_neg (by omega)

/-- One at least 2 degrees below whose entry it lies is. -/
theorem fallTo_leaves {t l : Nat} (h : t + 2 ≤ levelEntry (l + 1)) : fallTo t (l + 1) ≤ l := by
  rw [fallTo, if_pos h]
  exact fallTo_le t l

theorem levelOf_le (t : Nat) : levelOf t ≤ 4 := by
  unfold levelOf
  repeat' split
  all_goals omega

/-- A temperature below the entry of a level does not bring it. -/
theorem levelOf_below {t l : Nat} (hl : l < 4) (h : t < levelEntry (l + 1)) : levelOf t ≤ l := by
  unfold levelOf
  interval_cases l <;> simp only [levelEntry] at h <;> repeat' split
  all_goals omega

/-- The level that a readout leaves. -/
def levelAfter (temp old : Nat) : Nat := max (levelOf temp) (fallTo temp old)

theorem levelAfter_le {temp old : Nat} (h : old ≤ 4) : levelAfter temp old ≤ 4 := by
  have := levelOf_le temp
  have := fallTo_le temp old
  unfold levelAfter
  omega

/-- The registers of a stack that a readout writes before its causes. -/
def State.readTemp (s : State) (k temp : Nat) : State :=
  ((s.wr HBM_TEMP_TEMP (min temp 255) k).on HBM_TEMP_VALID k).wr HBM_THROTTLE_LEVEL (levelAfter temp (s.rd HBM_THROTTLE_LEVEL k)) k

/-- The keys that a readout may change after it. -/
def temperatureKeys (k : Nat) : List Nat := [HBM_MARGIN_CTL_PAUSED.key k 0, (BLK_INT_STAT .hbm).key k 0, LOG_DROPPED.key 0 0]

section
variable {s : State} {k temp : Nat}

theorem State.foot_ibiRaise (s : State) (b : Nat) (ks : List Nat) : s.foot (s.ibiRaise b) ks := by
  unfold State.ibiRaise
  split
  · exact s.foot_refl
  · exact State.foot_of_eq rfl rfl rfl rfl

/-- After the temperature and the level, a readout logs a new level, pauses a margin test, and raises its causes. -/
theorem temperatureEffect_after :
    (s.readTemp k temp).foot (temperatureEffect k temp s) (temperatureKeys k) ∧
      (s.rd HBM_THROTTLE_LEVEL k < 3 → 3 ≤ levelOf temp → bitOf ((temperatureEffect k temp s).rd (BLK_INT_STAT .hbm) k) 8 = true) := by
  unfold temperatureEffect
  extract_lets old new shown noted paused raised
  have footNoted : shown.foot noted (temperatureKeys k) := by
    show shown.foot (if new ≠ old then _ else shown) _
    split
    · exact State.foot_logEv (by simp [temperatureKeys])
    · exact shown.foot_refl
  have footPaused : shown.foot paused (temperatureKeys k) := by
    show shown.foot (if noted.is HBM_MARGIN_CTL_BUSY k = true then _ else noted) _
    split
    · exact State.foot_wr_of footNoted (by simp [temperatureKeys])
    · exact footNoted
  have footRaised : shown.foot raised (temperatureKeys k) := by
    show shown.foot (if old < 3 ∧ 3 ≤ new then _ else paused) _
    split
    · exact State.foot_cause_of footPaused (by simp [temperatureKeys])
    · exact footPaused
  refine ⟨?_, fun hold hnew => ?_⟩
  · split
    · exact State.foot_then footRaised (State.foot_ibiRaise ..)
    · exact footRaised
  · have thermal : raised = paused.cause .hbm 8 k := if_pos ⟨hold, hnew.trans (Nat.le_max_left _ _)⟩
    have set : bitOf (raised.rd (BLK_INT_STAT .hbm) k) 8 = true := by
      rw [thermal, State.cause_eq, State.rd_wr_same]
      show ((_ ||| 2 ^ 8) % 2 ^ 32).testBit 8 = true
      simp only [Nat.testBit_mod_two_pow, Nat.testBit_or, Nat.testBit_two_pow_self, Bool.or_true, Bool.and_true]
      decide
    split
    · rw [State.foot_rd (State.foot_ibiRaise raised 3 []) _ _ _ (List.not_mem_nil)]
      exact set
    · exact set

/-- The fields that a readout writes are fields of their own. -/
theorem temperature_keys (hk : k < 8) :
    HBM_TEMP_TEMP.key k 0 ∉ temperatureKeys k ∧ HBM_TEMP_VALID.key k 0 ∉ temperatureKeys k ∧ HBM_THROTTLE_LEVEL.key k 0 ∉ temperatureKeys k := by
  interval_cases k <;> decide

theorem State.readTemp_shows (ht : temp < 256) (hl : s.rd HBM_THROTTLE_LEVEL k ≤ 4) :
    (s.readTemp k temp).rd HBM_TEMP_TEMP k = temp ∧ (s.readTemp k temp).is HBM_TEMP_VALID k = true ∧
      (s.readTemp k temp).rd HBM_THROTTLE_LEVEL k = levelAfter temp (s.rd HBM_THROTTLE_LEVEL k) := by
  have level := levelAfter_le (temp := temp) hl
  have apart : HBM_TEMP_TEMP.key k 0 ≠ HBM_THROTTLE_LEVEL.key k 0 ∧ HBM_TEMP_TEMP.key k 0 ≠ HBM_TEMP_VALID.key k 0 ∧
      HBM_TEMP_VALID.key k 0 ≠ HBM_THROTTLE_LEVEL.key k 0 := by
    simp only [Fld.key, HBM_TEMP_TEMP, HBM_THROTTLE_LEVEL, HBM_TEMP_VALID]
    omega
  obtain ⟨tempLevel, tempValid, validLevel⟩ := apart
  unfold State.readTemp
  refine ⟨?_, ?_, ?_⟩
  · rw [State.rd_wr_ne _ tempLevel, State.on_eq, State.rd_wr_ne _ tempValid, State.rd_wr_same]
    simp only [HBM_TEMP_TEMP]
    omega
  · rw [State.is, State.rd_wr_ne _ validLevel, State.on_eq, State.rd_wr_same]
    rfl
  · rw [State.rd_wr_same]
    simp only [HBM_THROTTLE_LEVEL] at level ⊢
    omega

end

/-- Settles O27: each command through what arriving, leaving, timing out or reading the temperature does. -/
theorem memoriesServeTheOldestAndThrottle : Obligations.MemoriesServeTheOldestAndThrottle := by
  refine ⟨fun s addr rank k r lpd ctl bank hr hplace hcredit => ?request, fun s lpd ctl bank unit x hr hb htest hold => ?serve,
    fun s lpd ctl bank r age hr hb => ?reissue, fun s lpd ctl bank r x hr hb htest hp hold => ?timeout, fun s k temp hr hk ht hl => ?readout⟩
  case request =>
    intro b hfresh
    have issues : s.memIssues lpd ctl bank r = true := by
      have none : b.bounced.any (fun x => x.1 == r) = false := by
        simp only [List.any_eq_false, beq_iff_eq]
        exact hfresh
      show (s.memCredit lpd ctl r && !b.bounced.any (fun x => x.1 == r)) = true
      rw [hcredit, none]
      rfl
    have run : exec (.memoryRequest addr r rank k) s = .next (s.commit (s.arrive lpd ctl bank r s.clock)) := by
      show execMemoryRequest addr r rank k s = _
      unfold execMemoryRequest
      rw [hplace]
      exact State.rails_next hr issues _
    by_cases room : b.queue.length < bankQuota lpd
    · obtain ⟨taken, foot⟩ := State.arrive_queued room r s.clock
      have foot := State.foot_commit (u := s) foot
      exact ⟨_, run, foot.1, fun _ => ⟨taken, foot.2⟩, fun full => absurd room (Nat.not_lt.2 full)⟩
    · obtain ⟨taken, foot⟩ := State.arrive_bounced (Nat.not_lt.1 room) r s.clock
      have foot := State.foot_commit (u := s) foot
      exact ⟨_, run, foot.1, fun h => absurd h room, fun _ => ⟨taken, foot.2⟩⟩
  case serve =>
    have some : (s.bank (bankKey lpd ctl bank)).queue.isEmpty = false := by
      cases e : (s.bank (bankKey lpd ctl bank)).queue with
      | nil => rw [e] at hold; cases hold
      | cons y l => rfl
    have ready : (bankOk lpd ctl bank && !(s.bank (bankKey lpd ctl bank)).queue.isEmpty && !s.testHolds (bankChannel lpd ctl bank)) = true := by
      rw [hb, some, htest]
      rfl
    have effect : memoryServeEffect lpd ctl bank unit .clean s = s.leave lpd ctl bank x := by
      unfold memoryServeEffect
      rw [hold]
    obtain ⟨queue, bounced, foot⟩ := State.leave_erases (s := s) (lpd := lpd) (ctl := ctl) (bank := bank) x
    refine ⟨_, State.rails_next hr ready (memoryServeEffect lpd ctl bank unit .clean), ?_⟩
    rw [effect]
    exact ⟨(State.foot_commit foot).1, queue, bounced, (State.foot_commit foot).2⟩
  case reissue =>
    intro b hheld hmine hroom hcredit
    let u := s.setBank (bankKey lpd ctl bank) { b with bounced := b.bounced.filter (fun x => x.1 != r) }
    have waits : b.bounced.any (fun x => x.1 == r) = true := by
      obtain ⟨mem, mine⟩ := List.mem_filter.1 (hmine ▸ List.mem_singleton_self (r, age))
      exact List.any_eq_true.2 ⟨(r, age), mem, mine⟩
    have ready : (bankOk lpd ctl bank && !b.held && b.bounced.any (fun x => x.1 == r)) = true := by
      rw [hb, hheld, waits]
      rfl
    have effect : bounceReissueEffect lpd ctl bank r s = u.arrive lpd ctl bank r age := by
      unfold bounceReissueEffect
      dsimp only
      rw [hmine]
      exact if_pos hcredit
    have room : (u.bank (bankKey lpd ctl bank)).queue.length < bankQuota lpd := by
      rw [State.bank_setBank]
      exact hroom
    obtain ⟨taken, foot⟩ := State.arrive_queued room r age
    rw [State.bank_setBank] at taken
    have foot := State.foot_commit (u := s) (State.foot_trans (ks := []) (State.foot_setBank_of s.foot_refl _ _) foot)
    refine ⟨_, State.rails_next hr ready (bounceReissueEffect lpd ctl bank r), ?_⟩
    rw [effect]
    exact ⟨foot.1, taken, foot.2⟩
  case timeout =>
    have waits : (s.bank (bankKey lpd ctl bank)).queue.any (fun y => y.1 == r) = true := by
      obtain ⟨mem, mine⟩ := List.mem_filter.1 (oldest_mem hold)
      exact List.any_eq_true.2 ⟨x, mem, mine⟩
    have ready : (bankOk lpd ctl bank && (s.bank (bankKey lpd ctl bank)).queue.any (fun y => y.1 == r) &&
        !s.testHolds (bankChannel lpd ctl bank)) = true := by
      rw [hb, waits, htest]
      rfl
    obtain ⟨clock, queue, timeouts, errors, keys, foot⟩ := State.timedOut_counts (s := s) (lpd := lpd) (ctl := ctl) (bank := bank) x
    refine ⟨_, State.rails_next hr ready (memoryTimeoutEffect lpd ctl bank r), ?_⟩
    rw [memoryTimeoutEffect_retired hp hold, State.rd_commit, State.rd_commit]
    exact ⟨(State.foot_commit foot).1, clock, queue, timeouts, errors⟩
  case readout =>
    obtain ⟨foot, thermal⟩ := temperatureEffect_after (s := s) (k := k) (temp := temp)
    obtain ⟨tempKey, validKey, levelKey⟩ := temperature_keys hk
    obtain ⟨shown, valid, level⟩ := State.readTemp_shows (s := s) (k := k) ht hl
    have footRead : s.foot (s.readTemp k temp) [HBM_TEMP_TEMP.key k 0, HBM_TEMP_VALID.key k 0, HBM_THROTTLE_LEVEL.key k 0] :=
      State.foot_wr_of (State.foot_wr_of (State.foot_wr (by simp)) (by simp)) (by simp)
    have all := State.foot_commit (u := s) (State.foot_trans footRead foot)
    have levelled : (temperatureEffect k temp s).rd HBM_THROTTLE_LEVEL k = levelAfter temp (s.rd HBM_THROTTLE_LEVEL k) :=
      (State.foot_rd foot _ _ _ levelKey).trans level
    refine ⟨_, State.rails_next hr (decide_eq_true hk) (temperatureEffect k temp), ?_, ?_, fun low => ?_, fun l hold hnew near => ?_,
      fun l hold far => ?_, fun hold hnew => ?_, all.1, all.2⟩
    · exact (State.rd_commit ..).trans ((State.foot_rd foot _ _ _ tempKey).trans shown)
    · rw [State.is_commit, State.is, State.foot_rd foot _ _ _ validKey]
      exact valid
    · rw [State.rd_commit, levelled, levelAfter, max_eq_left ((fallTo_le ..).trans low)]
    · rw [State.rd_commit, levelled, hold, levelAfter, fallTo_stays near, max_eq_right (Nat.le_succ_of_le hnew)]
    · rw [State.rd_commit, levelled, hold, levelAfter]
      exact max_le (levelOf_below (by omega) (by omega)) (fallTo_leaves far)
    · rw [State.rd_commit]
      exact thermal hold hnew

end Sys2Proof.Machine
end
section
/-!
PROOF. The catch (R53, R66, R71), refuted: the registers of a tier pool whose number is beyond its field lie among those of a cox, so that
a move of an object that starts at the catch takes the cox's block state with it.
-/
namespace Sys2Proof.Machine

/-! ### A move that starts (R428, R433) -/

/-- From one range of frames with room for a run, none of which is taken, a run is found wherever the search starts. -/
theorem pickFrames_of_free {first count n start : Nat} {used : List (Nat × Nat)} (hn : 0 < count / n)
    (free : ∀ u ∈ used, first + count ≤ u.1) : ∃ f, pickFrames [(first, count)] used n start = some f := by
  have place : nthFrame n [(first, count)] (start % (count / n)) = some (first + start % (count / n) * n) := if_pos (Nat.mod_lt _ hn)
  have inside : first + start % (count / n) * n + n ≤ first + count := by
    have := Nat.mul_le_mul_right n (Nat.mod_lt start hn)
    have := Nat.div_mul_le_self count n
    rw [Nat.succ_mul] at *
    omega
  have untaken : used.any (fun u => overlaps u.1 u.2 (first + start % (count / n) * n) n) = false := by
    rw [List.any_eq_false]
    intro u hu
    have := free u hu
    simp only [overlaps, Bool.and_eq_true, decide_eq_true_eq, not_and]
    omega
  unfold pickFrames
  simp only [List.map_cons, List.map_nil, List.sum_cons, List.sum_nil, Nat.add_zero]
  rw [if_neg (by omega)]
  obtain ⟨m, hm⟩ : ∃ m, min (count / n) ((used.map (fun u => u.2)).sum + 1) = m + 1 := ⟨_, (Nat.succ_pred_eq_of_pos (by omega)).symm⟩
  rw [hm, List.range_succ_eq_map, List.findSome?_cons]
  simp only [Nat.add_zero, place, untaken, Bool.false_eq_true, if_false]
  exact ⟨_, rfl⟩

/-- The object of one page moves to a frame. -/
def State.movedTo (s : State) (id : Nat) (o : Obj) (t f : Nat) : State :=
  (State.addUsed { s with fresh := s.fresh + 1 } o.ctx t o.pageFrames).setObj id
    { o with state := if t < o.tier then 1 else 2, move := some { tier := t, frames := [f], next := 0, dirty := [], after := none } }

variable {s : State}

theorem State.startMove_one {id t f : Nat} {o : Obj} (hp : o.pages.length = 1)
    (room : s.rd (poolFlds t).2 0 (s.poolOf o.ctx) + o.pageFrames ≤ s.rd (poolFlds t).1 0 (s.poolOf o.ctx))
    (h : pickFrames (s.tierRanges t) s.takenFrames o.pageFrames (Config.freeValue s.fresh) = some f) :
    s.startMove id o t = some (s.movedTo id o t f) := by
  have taken : s.alloc t o.pageFrames s.takenFrames 1 = some ([f], { s with fresh := s.fresh + 1 }) := by
    simp only [State.alloc, State.free]
    have same : pickFrames (State.tierRanges { s with fresh := s.fresh + 1 } t) s.takenFrames o.pageFrames (Config.freeValue s.fresh) = some f := h
    rw [same]
  simp only [State.startMove, State.take, hp, Nat.mul_one]
  rw [if_neg (Nat.not_lt.2 room), taken]
  rfl

/-- The registers of the object table that a change shows. -/
def tableKeys : List Nat := [TIER_OBJECTS_COUNT.key 0 0, TIER_STAT_TABLE_FULL.key 0 0, TIER_STAT_MOVING.key 0 0]

theorem State.rd_noteObj (s : State) (id : Nat) {f : Fld} {i j : Nat} (h : f.key i j ∉ tableKeys) : (s.noteObj id).rd f i j = s.rd f i j := by
  simp only [tableKeys, List.mem_cons, List.not_mem_nil, or_false, not_or] at h
  obtain ⟨count, full, moving⟩ := h
  unfold State.noteObj
  extract_lets counted shown
  have kept : shown.rd f i j = s.rd f i j := by
    rw [State.rd_wr_ne _ moving, State.rd_wr_ne _ full, State.rd_wr_ne _ count]
  split
  · exact (State.rd_congr (by simp [State.undefine]) ..).trans kept
  · exact kept

/-- A field that lies where another one is written reads what was written, unless that is the other's reset value. -/
theorem State.rd_wr_collides (s : State) {f g : Fld} {v i j m n : Nat} (hk : g.key m n = f.key i j) (hv : v % 2 ^ f.w ≠ f.resetAt j) :
    (s.wr f v i j).rd g m n = v % 2 ^ f.w := by
  unfold State.rd State.wr Tab.set
  rw [hk, if_neg hv]
  exact Tab.look_put_same ..

/-- A field that lies where the count of used frames is stored reads that count. -/
theorem State.rd_movedTo_used {id t f i j : Nat} {o : Obj} {g : Fld}
    (hk : g.key i j = (poolFlds t).2.key 0 (s.poolOf o.ctx)) (hn : g.key i j ∉ tableKeys)
    (hv : (s.rd (poolFlds t).2 0 (s.poolOf o.ctx) + o.pageFrames) % 2 ^ (poolFlds t).2.w ≠ (poolFlds t).2.resetAt (s.poolOf o.ctx)) :
    (s.movedTo id o t f).rd g i j = (s.rd (poolFlds t).2 0 (s.poolOf o.ctx) + o.pageFrames) % 2 ^ (poolFlds t).2.w :=
  (State.rd_noteObj _ id hn).trans (State.rd_wr_collides _ hk hv)

theorem State.rd_movedTo {id t f i j : Nat} {o : Obj} {g : Fld}
    (hk : g.key i j ≠ (poolFlds t).2.key 0 (s.poolOf o.ctx)) (hn : g.key i j ∉ tableKeys) :
    (s.movedTo id o t f).rd g i j = s.rd g i j :=
  (State.rd_noteObj _ id hn).trans (State.rd_wr_ne _ hk _)

theorem State.movedTo_units (s : State) (id : Nat) (o : Obj) (t f : Nat) :
    (s.movedTo id o t f).coxes = s.coxes ∧ (s.movedTo id o t f).cores = s.cores := by
  unfold State.movedTo State.setObj State.noteObj
  dsimp only
  split
  · simp [State.undefine, State.addUsed]
  · exact ⟨rfl, rfl⟩

/-! ### Copies in flight at the catch (R284, R317, R335) -/

/-- A copy that its page needs no more ends, and the movement that waited for it starts. -/
theorem cowCopyEffect_resolved {i e l k : Nat} {b : Block} {t : State} (hc : (s.core i).cow = some (e, l, k)) (hb : (s.core i).block = some b)
    (h : s.cowPage (.core i) e l k = .ok (some t)) :
    cowCopyEffect i s = ((t.updCore i (fun x => { x with cow := none, cowVas := [] })).clearArrived (.core i)).startWaiting := by
  simp only [cowCopyEffect, hc, hb, h]

theorem State.finishCopies_two {i j : Nat} (h : (s.cores.filter (fun c => c.2.cow.isSome)).map Prod.fst = [i, j]) :
    s.finishCopies = cowCopyEffect j (cowCopyEffect i s) := by
  rw [State.finishCopies, ← List.foldl_map (f := Prod.fst) (g := fun (t : State) i => cowCopyEffect i t), h,
    List.foldl_cons, List.foldl_cons, List.foldl_nil]

theorem State.startWaiting_one {id t : Nat} {o : Obj} (hw : s.waitMoves = [(id, t)]) (ho : Tab.find s.objs id = some o)
    (hb : s.copyBusy o = false) (hm : o.move = none) (h0 : o.state = 0) (ht : t < o.tier) :
    s.startWaiting = (State.startMove { s with waitMoves := [] } id o t).getD { s with waitMoves := [] } := by
  unfold State.startWaiting
  extract_lets ready
  have all : ready = [(id, t)] := by
    show s.waitMoves.filter _ = _
    rw [hw, List.filter_cons_of_pos (by simp [ho, hb]), List.filter_nil]
  have rest : s.waitMoves.filter (fun w => !ready.contains w) = [] := by simp [hw, all]
  rw [rest, all, List.foldl_cons, List.foldl_nil]
  simp only [ho, hm, h0, ht, Option.isNone_none, and_self, if_true]

/-- Where a seat still waits for its copy, the phases of the catch wait. -/
theorem State.rosterCatch_waits {u : State} (h : s.finishCopies = u) (hc : u.cores.any (fun c => c.2.cow.isSome) = true) (full : Bool) :
    s.rosterCatch full = { u with rosWait := some (full || u.rosWait == some true) } := by
  unfold State.rosterCatch
  simp only [h, hc, if_true]

/-! ### The sheets of the new stroke (R71, R80, R717) -/

/-- The catch up to the roster: the stroke number, the tokens, the tables, the watch slots and the read caches. -/
def State.catchBase (s : State) (t num : Nat) : State :=
  let s := ((s.at t).wr STK_STROKE num).wr STK_STAT_STATE 2
  let s : State := { s with
    stk := { s.stk with catchAt := t, ended := false, due := none, k := 0, lates := [], resumed := none, curtain := false, relayed := [] }
    touched := [], amaxDone := [] }
  (((s.clearScoped.swapTables.releaseWatches).rcCatch).catchCkpt num).enterRows

theorem State.doCatch_eq (s : State) (t num : Nat) :
    s.doCatch t num = (List.range 16).foldl (fun (u : State) c => u.startSheet c num)
      ((s.catchBase t num).rosterCatch (s.stkState == 1 || (s.catchBase t num).lenFull)) := rfl

/-- A cox that takes its sheet starts it. -/
theorem State.startSheet_takes {c num : Nat} {sh : Sheet} (hn : (s.cox c).next = some sh) (hs : sh.stroke = num) (hd : sh.nondet = false)
    (ht : s.coxTakes c = true) :
    s.startSheet c num = s.setCox c { (default : Cox) with cur := some sh, bad := (s.cox c).bad.filter (· == num) } := by
  simp [State.startSheet, hn, hs, hd, ht]

/-- Coxes that take their sheets change their own marks only. -/
theorem State.startSheets_keep {num : Nat} {sh : Sheet} (hs : sh.stroke = num) (hd : sh.nondet = false) (n : Nat)
    (hn : ∀ c, c < n → (s.cox c).next = some sh) (ht : ∀ c, c < n → s.coxTakes c = true) :
    ((List.range n).foldl (fun (u : State) c => u.startSheet c num) s).regs = s.regs ∧
      ∀ d, n ≤ d → ((List.range n).foldl (fun (u : State) c => u.startSheet c num) s).cox d = s.cox d := by
  induction n with
  | zero => exact ⟨rfl, fun _ _ => rfl⟩
  | succ n ih =>
    obtain ⟨regs, others⟩ := ih (fun c h => hn c (by omega)) (fun c h => ht c (by omega))
    rw [List.range_succ, List.foldl_append, List.foldl_cons, List.foldl_nil]
    have next := (congrArg Cox.next (others n (Nat.le_refl n))).trans (hn n (Nat.lt_succ_self n))
    have reads (f : Fld) (i j : Nat) := State.rd_congr regs f i j
    have takes : ((List.range n).foldl (fun (u : State) c => u.startSheet c num) s).coxTakes n = true := by
      simp only [State.coxTakes, State.blk, State.is, reads]
      exact ht n (Nat.lt_succ_self n)
    rw [State.startSheet_takes next hs hd takes]
    refine ⟨regs, fun d hd => ?_⟩
    rw [State.cox_setCox, if_neg (by omega)]
    exact others d (by omega)

/-- A cox that takes no work refuses its sheet, and the starter orders hold water. -/
theorem State.startSheet_refuses {c num : Nat} (ht : s.coxTakes c = false) (hs : s.starter = true) (h2 : s.stkState = 2) :
    (s.startSheet c num).stkState = 3 := by
  have refused : ∃ x, s.startSheet c num = (s.setCox c x).refuseSheet c num stRefused := by
    unfold State.startSheet
    extract_lets x cur _ started
    have idle : cur = none := by
      simp only [cur, ht, Bool.false_eq_true, and_false, if_false]
      split <;> rfl
    have still : started.coxTakes c = false := ht
    rw [idle]
    exact ⟨_, if_neg (by rw [still]; decide)⟩
  obtain ⟨x, e⟩ := refused
  rw [e]
  have asked (u : State) (hs : u.starter = true) (h2 : u.stkState = 2) : (u.sendHoldReq stRefused).stkState = 3 := by
    rw [State.sendHoldReq, State.toStarter, if_pos hs, State.starterTake_holdReq hs rfl h2]
    exact (State.orderHold_heldFrom h2 _ _).1
  exact asked _ hs h2

/-- A catch at which a copy is still in flight, and after which the last cox takes no work, ends in HOLDING at the starter. -/
theorem State.doCatch_refused {t num : Nat} {u : State} {sh : Sheet} (h : (s.catchBase t num).finishCopies = u)
    (hc : u.cores.any (fun c => c.2.cow.isSome) = true) (ht : ∀ c, c < 15 → u.coxTakes c = true ∧ (u.cox c).next = some sh)
    (hs : sh.stroke = num) (hd : sh.nondet = false) (hr : u.coxTakes 15 = false) (starter : u.starter = true) (state : u.stkState = 2) :
    (s.doCatch t num).stkState = 3 := by
  rw [State.doCatch_eq, State.rosterCatch_waits h hc, List.range_succ, List.foldl_append, List.foldl_cons, List.foldl_nil]
  obtain ⟨regs, -⟩ := State.startSheets_keep (s := { u with rosWait := some ((s.stkState == 1 || (s.catchBase t num).lenFull) ||
    u.rosWait == some true) }) hs hd 15 (fun c hc => (ht c hc).2) (fun c hc => (ht c hc).1)
  generalize (List.range 15).foldl _ _ = v at regs ⊢
  have reads (g : Fld) (i j : Nat) : v.rd g i j = u.rd g i j := State.rd_congr regs g i j
  refine State.startSheet_refuses (s := v) ?_ ?_ ((reads STK_STAT_STATE 0 0).trans state)
  · simp only [State.coxTakes, State.blk, State.is, reads]
    exact hr
  · exact (congrArg (· != 0) (reads STK_CTL_STARTER 0 0)).trans starter

/-! ### The witness -/

/-- A sheet of stroke 0 without cues. -/
def bareSheet : Sheet := { stroke := 0, ctx := 0, nondet := false, cues := [] }

/-- An object of one 2 MiB page in LPDDR. -/
def restingObj : Obj :=
  { ctx := 0, pages := [(0x40000000, 0x800000)], big := true, hint := 0, pinTier := 0, state := 0, tier := 2, touched := 0, kind := 0, members := [],
    move := none }

/-- The tier pool whose count of used HBM frames would lie where the state of cox 15 is stored; CTX_CTL.TIER_POOL has room for 8 pools. -/
def farPool : Nat := 21488

/-- A starter in RUNNING whose catch of stroke 0 is due, with the sheet of stroke 0 fetched by every cox. Seats 0 and 1 wait for copies:
the list entry of the first lies on a page that is not mapped, and the page of the second needs no copy any more. The movement of the object
to HBM waits for that copy; the object's context names the far pool. -/
@[irreducible] def farPoolAtCatch : State := { State.reset with
  regs := Tab.canon (State.reset.regs ++ [(STK_STAT_STATE.key 0 0, 2), (STK_CTL_STARTER.key 0 0, 1), ((BLK_STAT_STATE .ctx).key 0 0, 1),
    (CTX_CTL_TIER_POOL.key 0 0, farPool), (TIER_POOL_HBM_LIMIT.key 0 farPool, 32)])
  stk := { (default : StrokeUnit) with due := some (0, 0) }
  coxes := (List.range 16).map (fun c => (c, { (default : Cox) with next := some bareSheet }))
  cores := [(0, { (default : Core) with cow := some (0, 0, 0x20000), block := some default }),
    (1, { (default : Core) with cow := some (0, 0, 0), block := some default })]
  tlb := [{ ctx := 0, va := 0, size := 0x200000, leaf := 0xF }]
  objs := [(1, restingObj)]
  waitMoves := [(1, 1)] }

/-- The witness at its catch, when seat 0 has met its page fault. -/
@[irreducible] def farPoolStalled : State := cowCopyEffect 0 (farPoolAtCatch.catchBase 0 0)

/-- Then the copy of seat 1 has ended. -/
@[irreducible] def farPoolFreed : State := (farPoolStalled.updCore 1 (fun x => { x with cow := none, cowVas := [] })).clearArrived (.core 1)

/-- And the movement that waited for it may start. -/
@[irreducible] def farPoolMoving : State := { farPoolFreed with waitMoves := [] }

theorem farPool_collides : (BLK_STAT_STATE .cox).key 15 0 = TIER_POOL_HBM_USED.key 0 farPool := by decide

/-- The witness is in order, as every reachable state is. -/
theorem farPoolAtCatch_ordered : farPoolAtCatch.ordered = true := by decide +kernel

theorem farPoolAtCatch_takes : ∀ c, c < 16 → farPoolAtCatch.coxTakes c = true ∧ (farPoolAtCatch.cox c).next = some bareSheet := by decide +kernel

theorem farPoolMoving_takes :
    (∀ c, c < 15 → farPoolMoving.coxTakes c = true ∧ (farPoolMoving.cox c).next = some bareSheet) ∧ farPoolMoving.starter = true ∧
      farPoolMoving.stkState = 2 := by decide +kernel

theorem farPoolStalled_cowPage : farPoolStalled.cowPage (.core 1) 0 0 0 = .ok (some farPoolStalled) := by decide +kernel

/-- The movement finds room in the pool, and takes frames of HBM; of seats 0 and 1 the first still waits. -/
theorem farPoolMoving_room :
    farPoolMoving.poolOf 0 = farPool ∧ farPoolMoving.rd TIER_POOL_HBM_USED 0 farPool = 0 ∧ farPoolMoving.rd TIER_POOL_HBM_LIMIT 0 farPool = 32 ∧
      farPoolMoving.tierRanges 1 = [(0, 0x7C0000)] ∧ farPoolMoving.takenFrames = [(0x800000, 32)] ∧
      farPoolMoving.cores.any (fun c => c.2.cow.isSome) = true := by decide +kernel

theorem farPoolStalled_seat : (farPoolStalled.core 1).cow = some (0, 0, 0) ∧ (farPoolStalled.core 1).block = some default := by decide +kernel

theorem farPoolFreed_waits :
    farPoolFreed.waitMoves = [(1, 1)] ∧ Tab.find farPoolFreed.objs 1 = some restingObj ∧ farPoolFreed.copyBusy restingObj = false := by
  decide +kernel

/-- The movement starts, whatever frames the tier manager takes. -/
theorem farPoolMoving_starts : ∃ f, farPoolMoving.startMove 1 restingObj 1 = some (farPoolMoving.movedTo 1 restingObj 1 f) := by
  obtain ⟨pool, used, limit, ranges, taken, -⟩ := farPoolMoving_room
  obtain ⟨f, found⟩ := pickFrames_of_free (first := 0) (count := 0x7C0000) (n := 32) (start := Config.freeValue farPoolMoving.fresh)
    (used := [(0x800000, 32)]) (by decide) (by decide)
  have room : farPoolMoving.rd (poolFlds 1).2 0 (farPoolMoving.poolOf restingObj.ctx) + restingObj.pageFrames ≤
      farPoolMoving.rd (poolFlds 1).1 0 (farPoolMoving.poolOf restingObj.ctx) := by
    show farPoolMoving.rd TIER_POOL_HBM_USED 0 (farPoolMoving.poolOf 0) + 32 ≤ farPoolMoving.rd TIER_POOL_HBM_LIMIT 0 (farPoolMoving.poolOf 0)
    rw [pool, used, limit]
  exact ⟨f, State.startMove_one rfl room (by rw [ranges, taken]; exact found)⟩

theorem farPoolAtCatch_seats : ((farPoolAtCatch.catchBase 0 0).cores.filter (fun c => c.2.cow.isSome)).map Prod.fst = [0, 1] := by
  decide +kernel

theorem farPoolStalled_frees : cowCopyEffect 1 farPoolStalled = farPoolFreed.startWaiting := by
  obtain ⟨cow, block⟩ := farPoolStalled_seat
  rw [cowCopyEffect_resolved cow block farPoolStalled_cowPage, farPoolFreed]

theorem farPoolFreed_moves : farPoolFreed.startWaiting = (farPoolMoving.startMove 1 restingObj 1).getD farPoolMoving := by
  obtain ⟨waits, object, free⟩ := farPoolFreed_waits
  rw [State.startWaiting_one waits object free rfl rfl (by decide), farPoolMoving]

/-- The copies in flight at the catch end with the movement's start. -/
theorem farPool_finishCopies : ∃ f, (farPoolAtCatch.catchBase 0 0).finishCopies = farPoolMoving.movedTo 1 restingObj 1 f := by
  obtain ⟨f, starts⟩ := farPoolMoving_starts
  have copies : (farPoolAtCatch.catchBase 0 0).finishCopies = cowCopyEffect 1 farPoolStalled := by
    delta farPoolStalled
    exact State.finishCopies_two farPoolAtCatch_seats
  exact ⟨f, copies.trans (farPoolStalled_frees.trans (farPoolFreed_moves.trans (starts ▸ Option.getD_some)))⟩

/-- After the movement has started, cox 15 takes no work, and the other coxes take their sheets. -/
theorem farPool_moved (f : Nat) :
    (farPoolMoving.movedTo 1 restingObj 1 f).coxTakes 15 = false ∧
      (∀ c, c < 15 → (farPoolMoving.movedTo 1 restingObj 1 f).coxTakes c = true ∧
        ((farPoolMoving.movedTo 1 restingObj 1 f).cox c).next = some bareSheet) ∧
      (farPoolMoving.movedTo 1 restingObj 1 f).starter = true ∧ (farPoolMoving.movedTo 1 restingObj 1 f).stkState = 2 := by
  obtain ⟨pool, used, -⟩ := farPoolMoving_room
  obtain ⟨takes, starter, state⟩ := farPoolMoving_takes
  obtain ⟨coxes, -⟩ := farPoolMoving.movedTo_units 1 restingObj 1 f
  have key : (poolFlds 1).2.key 0 (farPoolMoving.poolOf restingObj.ctx) = (BLK_STAT_STATE .cox).key 15 0 := by
    show TIER_POOL_HBM_USED.key 0 (farPoolMoving.poolOf 0) = _
    rw [pool, farPool_collides]
  have kept (g : Fld) (i : Nat) (hk : g.key i 0 ∉ (BLK_STAT_STATE .cox).key 15 0 :: tableKeys) :
      (farPoolMoving.movedTo 1 restingObj 1 f).rd g i = farPoolMoving.rd g i := by
    simp only [List.mem_cons, not_or] at hk
    exact State.rd_movedTo (by rw [key]; exact hk.1) hk.2
  have value : (farPoolMoving.rd (poolFlds 1).2 0 (farPoolMoving.poolOf restingObj.ctx) + restingObj.pageFrames) % 2 ^ (poolFlds 1).2.w = 32 := by
    show (farPoolMoving.rd TIER_POOL_HBM_USED 0 (farPoolMoving.poolOf 0) + 32) % 2 ^ 32 = 32
    rw [pool, used]
    decide
  have overwritten : (farPoolMoving.movedTo 1 restingObj 1 f).rd (BLK_STAT_STATE .cox) 15 = 32 :=
    (State.rd_movedTo_used key.symm (by decide) (by rw [value]; decide)).trans value
  refine ⟨?_, fun c hc => ⟨?_, ?_⟩, ?_, ?_⟩
  · simp [State.coxTakes, State.blk, overwritten]
  · have block := kept (BLK_STAT_STATE .cox) c (by interval_cases c <;> decide)
    have drain := kept (BLK_CTL_DRAIN_MODE .cox) c (by interval_cases c <;> decide)
    simp only [State.coxTakes, State.blk, State.is, block, drain]
    exact (takes c hc).1
  · exact (congrArg (fun l => (Tab.look l c default).next) coxes).trans (takes c hc).2
  · exact (congrArg (· != 0) (kept STK_CTL_STARTER 0 (by decide))).trans starter
  · exact (kept STK_STAT_STATE 0 (by decide)).trans state

/-- The catch of the witness: cox 15 refuses its sheet, and the starter holds water. -/
theorem farPoolAtCatch_holds : (catchEffect farPoolAtCatch).stkState = 3 := by
  obtain ⟨f, copies⟩ := farPool_finishCopies
  obtain ⟨refuses, takes, starter, state⟩ := farPool_moved f
  have waits : (farPoolMoving.movedTo 1 restingObj 1 f).cores.any (fun c => c.2.cow.isSome) = true := by
    rw [(farPoolMoving.movedTo_units 1 restingObj 1 f).2]
    exact farPoolMoving_room.2.2.2.2.2
  have due : farPoolAtCatch.stk.due = some (0, 0) := by decide +kernel
  simp only [catchEffect, due]
  exact State.doCatch_refused copies waits takes rfl rfl refuses starter state

/-- Refutes O5: the state is free to hold any number in CTX_CTL.TIER_POOL, which has 3 bits; with 21,488 the count of used HBM frames of
that pool is stored where the block state of cox 15 is. A movement that the end of a copy lets start at the catch (R317, R335) counts its
frames there, so that the cox takes no work, refuses its sheet (R80), and the starter is HOLDING after the catch, not RUNNING. -/
theorem not_theDriveRunsFromCatchToItsEnd : ¬ Obligations.TheDriveRunsFromCatchToItsEnd := by
  rintro ⟨catches, -⟩
  have awake : farPoolAtCatch.easyWake = farPoolAtCatch := if_neg (by decide +kernel)
  have run : exec .catchStroke farPoolAtCatch = .next (farPoolAtCatch.commit (catchEffect farPoolAtCatch)) := by
    have := State.work_next (s := farPoolAtCatch) (ok := farPoolAtCatch.stk.due.isSome && (farPoolAtCatch.stkState == 1 ||
      farPoolAtCatch.stkState == 2)) (by decide +kernel) (by decide +kernel) catchEffect
    rw [awake] at this
    exact this
  obtain ⟨t, ran, running, -⟩ := catches farPoolAtCatch 0 0 (by decide +kernel) (by decide +kernel) (.inr (by decide +kernel))
    (fun c hc => ⟨(farPoolAtCatch_takes c hc).1, bareSheet, (farPoolAtCatch_takes c hc).2, rfl⟩)
  obtain rfl := Host.Outcome.next.inj (ran.symm.trans run)
  rw [State.stkState_commit, farPoolAtCatch_holds] at running
  exact absurd running (by decide)

end Sys2Proof.Machine
end
section
/-!
PROOF. A step of COPY (R138 to R140, R465, R526): one that writes the leaf of an object's page leaves the whole object undefined, so that
bytes outside its piece change.
-/
namespace Sys2Proof.Machine

/-! ### The witness: a seat that copies onto the leaf of an object

Seat 0 of crew 0 runs a COPY in context 1, whose addresses are those of HBM. Its destination is 0x3000, where the tables of context 0 have
the leaf of the object's page. -/

/-- COPY of two rows of 64 bytes from 0x1000 on to 0x3000 on. -/
def cmdCopyOntoLeaf : List Byte :=
  Tests.command [(0, 1, 0x01), (64, 1, 0), (72, 8, 0x1000), (80, 8, 0x3000), (88, 4, 64), (92, 4, 2), (96, 4, 64), (100, 4, 64)]

/-- The command as its decode leaves it, before its first step. -/
def runCopyOntoLeaf : Run := { emptyRun cmdCopyOntoLeaf with m := 2, n := 64, steps := 2 }

/-- The state before that step. The object's first byte was undefined once (with seed 0) and has been written since. -/
def copyingOntoLeaf : State :=
  { Tests.rowing.setCore 0 { (default : Core) with block := some Tests.block1, run := some runCopyOntoLeaf } with
    mem := leafTables ++ [(objByte, Config.freeByte 1 objByte + 1)]
    undef := [{ lo := objByte, len := 1, seed := 0 }]
    fresh := 1
    objs := [(1, pageObj)] }

/-- The bytes of its first piece. -/
def zeroRow : List Byte := List.replicate 64 0

/-- The run of the witness is what the decode of its command answers. -/
theorem copyingOntoLeaf_decodes :
    Tests.got ((Tests.fetched cmdCopyOntoLeaf Tests.ready).decodeSeatCopy 0 Tests.block1 cmdCopyOntoLeaf 0) = some runCopyOntoLeaf := by
  decide +kernel

/-- The witness is in order, as every reachable state is: its memory is that of `leafAt3000`. -/
theorem copyingOntoLeaf_ordered : copyingOntoLeaf.ordered = true := by
  have ordered := leafAt3000_ordered zeroPacket
  simp only [State.ordered, Bool.and_eq_true] at ordered ⊢
  obtain ⟨⟨memory, -⟩, -⟩ := ordered
  exact ⟨⟨memory, by decide +kernel⟩, by decide +kernel⟩

/-- The first piece of the witness can be read and written. -/
theorem copyingOntoLeaf_piece : (seatPieces (seatDesc runCopyOntoLeaf.raw 2 64))[0]? = some (0, 0, 64) ∧
    (copyingOntoLeaf.uncached 1 [(0x1000, 64)]).readV (.core 0) 1 0x1000 64 = .ok zeroRow ∧
    copyingOntoLeaf.checkWrites 1 [{ va := 0x3000, data := zeroRow }] = .ok () ∧
    copyingOntoLeaf.translate 1 0x3000 .write = .ok { gpa := 0x3000, wop := 0, leaf := 0xF } := by
  refine ⟨?_, ?_, ?_, ?_⟩ <;> decide +kernel

theorem copyingOntoLeaf_objByte : copyingOntoLeaf.rdByte objByte = Config.freeByte 1 objByte + 1 := rfl

/-- The step leaves the object undefined, under seed 1. -/
theorem copyingOntoLeaf_undefines (u : State) :
    (u.commit (stepEffect 0 true copyingOntoLeaf)).rdByte objByte = Config.freeByte 1 objByte := by
  rw [State.rdByte_commit]
  exact State.rdByte_undefined (by decide +kernel) (by decide +kernel)

/-- Refutes O9: a step that copies onto the leaf of an object's page leaves every byte of the object undefined (R465), so that other bytes
than those of its piece change. -/
theorem not_aStepCopiesItsPiece : ¬ Obligations.AStepCopiesItsPiece := by
  intro h
  obtain ⟨pieces, source, writes, destination⟩ := copyingOntoLeaf_piece
  obtain ⟨t, run, stored, -⟩ := h copyingOntoLeaf 0 0 0 64 Tests.block1 runCopyOntoLeaf zeroRow { gpa := 0x3000, wop := 0, leaf := 0xF }
    (by decide +kernel) (by decide +kernel) rfl (by decide) rfl rfl rfl (by decide +kernel) (by decide +kernel) (by decide +kernel)
    (by decide +kernel) pieces (by decide) source writes (by decide +kernel) destination (by decide +kernel) (.inl (by decide +kernel))
    (by decide +kernel)
  have answer : exec (.step 0 true) copyingOntoLeaf = .next (copyingOntoLeaf.commit (stepEffect 0 true copyingOntoLeaf)) :=
    State.rails_next (by decide +kernel) (by decide +kernel) _
  obtain rfl := Host.Outcome.next.inj (run.symm.trans answer)
  have outside : ¬ (0x3000 ≤ objByte ∧ objByte < 0x3000 + zeroRow.length) := by decide
  have kept := (stored objByte).trans (if_neg outside)
  rw [copyingOntoLeaf_undefines, copyingOntoLeaf_objByte] at kept
  simp at kept

end Sys2Proof.Machine
end

section
/-!
PROOF. A tensor command starts (R126, R131, R139, R307, R350, R369, R371): what decoding one that passes its checks leaves, and that its
slots touch and hold no more than their own roster entries.
-/
namespace Sys2Proof.Machine

variable {s t u : State} {i : Nat} {b : Block} {raw : List Byte} {r : Run}

/-! ### A seat with a command to decode -/

theorem State.canRun_iff (hb : (s.core i).block = some b) : s.canRun i = true ↔
    ((s.blk .core i = 1 ∨ s.blk .core i = 2) ∧ s.stkState ≠ 3 ∧ (s.core i).held = false ∧ (s.core i).stalled = false ∧
      ((s.core i).saving = 0 ∨ (s.core i).saving = 2 ∧ (s.core i).run.isSome = true) ∧ (s.core i).cow = none) ∧
      (b.sched = true ∨ s.recovery (i / 9) = true ∨ s.urgent b.ctx = true) := by
  simp [State.canRun, hb, and_assoc, or_assoc]

theorem State.decodes_iff {op : Nat} (hn : (s.core i).next = some raw) :
    s.decodes i op = true ↔ i < 144 ∧ s.canRun i = true ∧ (s.core i).run = none ∧ fieldLE raw 0 1 = op := by
  simp [State.decodes, hn, and_assoc]

theorem State.decodes_idle {op : Nat} (hb : (s.core i).block = some b) (hn : (s.core i).next = some raw) (hd : s.decodes i op = true) :
    (s.core i).run = none ∧ s.stkState ≠ 3 := by
  obtain ⟨-, canRun, idle, -⟩ := (State.decodes_iff hn).1 hd
  obtain ⟨⟨-, stroke, -⟩, -⟩ := (State.canRun_iff hb).1 canRun
  exact ⟨idle, stroke⟩

/-- What a seat does for scheduled work has no self window (R603). -/
theorem State.asSeat_eq (hb : (s.core i).block = some b) (hk : b.kind ≠ 2) (hs : s.self = none) (f : State → State) :
    s.asSeat i f = { f s with self := none } := by
  have before : ({ s with self := none } : State) = s := by rw [← hs]
  simp only [State.asSeat, hb, if_neg hk, before, hs]

theorem State.asSeat_sched {f : State → State} (hb : (s.core i).block = some b) (hk : b.kind ≠ 2) (hs : s.self = none)
    (hf : (f s).self = none) : s.asSeat i f = f s := by
  rw [State.asSeat_eq hb hk hs, ← hf]

/-! ### The command starts -/

theorem State.core_updCore (s : State) (i : Nat) (f : Core → Core) (j : Nat) : (s.updCore i f).core j = if j = i then f (s.core i) else s.core j :=
  State.core_setCore ..

/-- A command uses its objects (R425): what a seat's own state reads as stays. -/
theorem State.touchRun_keeps (s : State) (b : Block) (r : Run) : (s.touchRun b r).cores = s.cores ∧ (s.touchRun b r).nextRun = s.nextRun ∧
    (s.touchRun b r).self = s.self ∧ (s.touchRun b r).undef = s.undef := by
  unfold State.touchRun
  rw [State.touchSpans_eq]
  exact ⟨rfl, rfl, rfl, rfl⟩

theorem State.foot_touchRun (s : State) (b : Block) (r : Run) (ks : List Nat) : s.foot (s.touchRun b r) ks :=
  State.foot_of_eq (State.touchSpans_regs ..) (State.touchSpans_mem ..) (s.touchRun_keeps b r).2.2.2 (State.touchSpans_tokens ..)

/-- CORE_STATE of a seat that waited for a state block to move (R371) shows that it runs. -/
def State.showStarted (s : State) (i : Nat) : State := if s.rd CORE_STATE_STATE i = 3 then s.wr CORE_STATE_STATE s.runCode i else s

/-- A seat runs a command as a run of its own. -/
def State.giveRun (s : State) (i : Nat) (r : Run) : State := s.updCore i (fun x => { x with run := some { r with num := s.nextRun } })

/-- The state in which a seat has started a command, but for its objects. -/
def State.starting (s : State) (i : Nat) (r : Run) : State :=
  (({ (s.giveRun i r).showStarted i with nextRun := s.nextRun + 1 } : State).wr CORE_STEPS_LEFT r.steps i).clearArrived (.core i)

/-- The state in which a seat has started a command. -/
def State.started (s : State) (i : Nat) (b : Block) (r : Run) : State := (s.starting i r).touchRun b r

theorem State.decodeWith_run {f : Block → List Byte → Decoded} (hb : (s.core i).block = some b) (hn : (s.core i).next = some raw)
    (hw : s.watches = []) (hf : f b raw = .run r) : s.decodeWith i f = s.started i b r := by
  simp only [State.decodeWith, hb, hn, hf, State.watchGate, State.watchHits, hw]
  rfl

theorem State.showStarted_keeps (s : State) (i : Nat) : (s.showStarted i).cores = s.cores ∧ (s.showStarted i).self = s.self := by
  unfold State.showStarted
  split <;> exact ⟨rfl, rfl⟩

theorem State.foot_showStarted (s : State) (i : Nat) {ks : List Nat} (h : CORE_STATE_STATE.key i 0 ∈ ks) : s.foot (s.showStarted i) ks := by
  unfold State.showStarted
  split
  · exact State.foot_wr h
  · exact s.foot_refl

theorem State.rd_showStarted (h : s.stkState ≠ 3) :
    (s.showStarted i).rd CORE_STATE_STATE i = if s.rd CORE_STATE_STATE i = 3 then 1 else s.rd CORE_STATE_STATE i := by
  unfold State.showStarted
  split
  · rw [State.rd_wr_same, State.runCode, if_neg h]
    rfl
  · rfl

theorem coreState_ne_stepsLeft (i : Nat) : CORE_STATE_STATE.key i 0 ≠ CORE_STEPS_LEFT.key i 0 := by
  simp [Fld.key, CORE_STATE_STATE, CORE_STEPS_LEFT]

theorem State.foot_started (s : State) (i : Nat) (b : Block) (r : Run) :
    s.foot (s.started i b r) [CORE_STEPS_LEFT.key i 0, CORE_STATE_STATE.key i 0] := by
  have given : s.foot (s.giveRun i r) [CORE_STEPS_LEFT.key i 0, CORE_STATE_STATE.key i 0] := State.foot_of_eq rfl rfl rfl rfl
  have shown := State.foot_then given ((s.giveRun i r).foot_showStarted i (by simp))
  have counted : s.foot ({ (s.giveRun i r).showStarted i with nextRun := s.nextRun + 1 } : State) _ := State.foot_upd_of shown rfl rfl rfl rfl
  have starting : s.foot (s.starting i r) _ := State.foot_upd_of (State.foot_wr_of counted (by simp)) rfl rfl rfl rfl
  exact State.foot_then starting (State.foot_touchRun ..)

theorem State.started_self (s : State) (i : Nat) (b : Block) (r : Run) : (s.started i b r).self = s.self :=
  (State.touchRun_keeps _ b r).2.2.1.trans (State.showStarted_keeps (s.giveRun i r) i).2

/-- Seat `i` of `t` runs the command from its first step, and shows it; every other seat is as in `s`. -/
structure State.RunsFirst (s t : State) (i : Nat) (b : Block) (r : Run) : Prop where
  run : (t.core i).run = some { r with num := s.nextRun }
  block : (t.core i).block = some b
  next : t.nextRun = s.nextRun + 1
  steps : t.rd CORE_STEPS_LEFT i = r.steps % 2 ^ CORE_STEPS_LEFT.w
  state : t.rd CORE_STATE_STATE i = (if s.rd CORE_STATE_STATE i = 3 then 1 else s.rd CORE_STATE_STATE i)
  others : ∀ j, j ≠ i → t.core j = s.core j

theorem State.core_started (s : State) (i : Nat) (b : Block) (r : Run) (j : Nat) :
    (s.started i b r).core j = if j = i then { s.core i with run := some { r with num := s.nextRun } } else s.core j := by
  have cores : (s.started i b r).cores = (s.giveRun i r).cores :=
    (State.touchRun_keeps _ b r).1.trans (State.showStarted_keeps (s.giveRun i r) i).1
  exact (congrArg (fun l => Tab.look l j default) cores).trans (s.core_updCore ..)

theorem State.started_runsFirst (hb : (s.core i).block = some b) (h : s.stkState ≠ 3) : s.RunsFirst (s.started i b r) i b r := by
  have core : (s.started i b r).core i = _ := (s.core_started i b r i).trans (if_pos rfl)
  have regs (f : Fld) : (s.started i b r).rd f i = (s.starting i r).rd f i := State.rd_congr (State.touchSpans_regs ..) f i 0
  exact {
    run := congrArg Core.run core
    block := (congrArg Core.block core).trans hb
    next := (State.touchRun_keeps _ b r).2.1
    steps := (regs _).trans (State.rd_wr_same ..)
    state := (regs _).trans ((State.rd_wr_ne _ (coreState_ne_stepsLeft i) _).trans (State.rd_showStarted (s := s.giveRun i r) h))
    others := fun j hj => (s.core_started i b r j).trans (if_neg hj) }

/-! ### Roster entries that its slots touch and hold (R307, R350, R369) -/

/-- `t` differs from `s` in memory only, and there in the roster entries listed only. -/
def State.onlyEntries (s t : State) (ids : List Nat) : Prop :=
  (∃ m, t = { s with mem := m }) ∧ ∀ a, (∀ e, e ∈ ids → a < rosterAddr e ∨ rosterAddr e + 64 ≤ a) → t.rdByte a = s.rdByte a

theorem State.onlyEntries_refl (s : State) (ids : List Nat) : s.onlyEntries s ids := ⟨⟨s.mem, rfl⟩, fun _ _ => rfl⟩

theorem State.onlyEntries_then {ids : List Nat} (h : s.onlyEntries t ids) (h' : t.onlyEntries u ids) : s.onlyEntries u ids := by
  obtain ⟨⟨m, rfl⟩, before⟩ := h
  obtain ⟨⟨n, rfl⟩, after⟩ := h'
  exact ⟨⟨n, rfl⟩, fun a ha => (after a ha).trans (before a ha)⟩

theorem State.wrMem_mem (l : List Byte) : ∀ (s : State) (a : Nat), ∃ m, s.wrMem a l = { s with mem := m } := by
  induction l with
  | nil => exact fun s _ => ⟨s.mem, rfl⟩
  | cons c l ih => exact fun s a => ih (s.wrByte a c) (a + 1)

theorem State.rdByte_wrMem_other {x : Nat} (l : List Byte) : ∀ (s : State) (a : Nat), x < a ∨ a + l.length ≤ x → (s.wrMem a l).rdByte x = s.rdByte x := by
  induction l with
  | nil => exact fun _ _ _ => rfl
  | cons c l ih =>
    intro s a h
    rw [List.length_cons] at h
    exact (ih (s.wrByte a c) (a + 1) (by omega)).trans ((State.rdByte_wrByte ..).trans (if_neg (by omega)))

@[simp] theorem length_leBytes (n : Nat) : ∀ v, (leBytes v n).length = n := by
  induction n with
  | zero => exact fun _ => rfl
  | succ n ih => exact fun v => congrArg (· + 1) (ih (v / 256))

theorem REnt.length_bytes (x : REnt) : x.bytes.length = 64 := by simp [REnt.bytes]

theorem State.onlyEntries_setEntry {ids : List Nat} (s : State) (x : REnt) (h : x.id ∈ ids) : s.onlyEntries (s.setEntry x) ids := by
  refine ⟨State.wrMem_mem .., fun a ha => State.rdByte_wrMem_other _ _ _ ?_⟩
  rw [REnt.length_bytes]
  exact ha _ h

theorem State.onlyEntries_touchEntry {ids : List Nat} (s : State) {e : Nat} (h : e ∈ ids) : s.onlyEntries (s.touchEntry e) ids := by
  unfold State.touchEntry
  split
  · exact s.onlyEntries_refl ids
  · exact s.onlyEntries_setEntry _ h

theorem State.onlyEntries_holdStream {ids : List Nat} (s : State) {e : Nat} (h : e ∈ ids) : s.onlyEntries (s.holdStream e) ids :=
  s.onlyEntries_setEntry _ h

theorem State.onlyEntries_foldl {g : State → Slot → State} {ids : List Nat} (hg : ∀ (t : State) (x : Slot), x.id ∈ ids → t.onlyEntries (g t x) ids)
    (xs : List Slot) (hx : ∀ x, x ∈ xs → x.id ∈ ids) : ∀ s : State, s.onlyEntries (xs.foldl g s) ids := by
  induction xs with
  | nil => exact fun s => s.onlyEntries_refl ids
  | cons x xs ih =>
    intro s
    exact State.onlyEntries_then (hg s x (hx x List.mem_cons_self)) (ih (fun y hy => hx y (List.mem_cons_of_mem x hy)) (g s x))

theorem State.namedSlots_run {f : Block → List Byte → Decoded} (hb : (s.core i).block = some b) (hn : (s.core i).next = some raw)
    (hf : f b raw = .run r) (plan : List Byte → Nat) (ptr : Nat) : s.namedSlots i f plan ptr = [] := by
  simp only [State.namedSlots, hb, hn, hf]

section
variable {f : Block → List Byte → Decoded} {op : Nat} (hd : s.decodes i op = true) (hb : (s.core i).block = some b)
  (hn : (s.core i).next = some raw) (hw : s.watches = []) (hf : f b raw = .run r)
include hd hb hn hw hf

theorem State.decodeSlots_run : (s.started i b r).onlyEntries (s.decodeSlots i f) (r.slots.map Slot.id) := by
  obtain ⟨idle, stroke⟩ := State.decodes_idle hb hn hd
  have runs := (State.started_runsFirst (r := r) hb stroke).run
  simp only [State.decodeSlots, State.namedSlots_run hb hn hf, List.foldl_nil, State.decodeWith_run hb hn hw hf, idle, runs]
  exact State.onlyEntries_foldl (fun t _ h => t.onlyEntries_touchEntry h) _ (fun _ hx => List.mem_map_of_mem hx) _

theorem State.decodeStreams_run (plan : List Byte → Nat) :
    (s.started i b r).onlyEntries (s.decodeStreams i plan f) (r.slots.map Slot.id) := by
  obtain ⟨idle, stroke⟩ := State.decodes_idle hb hn hd
  have runs := (State.started_runsFirst (r := r) hb stroke).run
  simp only [State.decodeStreams, State.namedSlots_run hb hn hf, List.filter_nil, List.foldl_nil, State.decodeWith_run hb hn hw hf, idle, runs]
  exact State.onlyEntries_foldl (fun t _ h => State.onlyEntries_then (t.onlyEntries_touchEntry h) (State.onlyEntries_holdStream _ h)) _
    (fun _ hx => List.mem_map_of_mem (List.mem_filter.1 hx).1) _

end

/-! ### The two kinds of tensor command -/

/-- What a started command leaves once its slots have touched their entries. -/
theorem State.runsFirst_commit {ids : List Nat} (h : s.RunsFirst t i b r) (hu : t.onlyEntries u ids) : s.RunsFirst (s.commit u) i b r := by
  obtain ⟨⟨m, rfl⟩, -⟩ := hu
  exact { h with
    steps := (State.rd_commit ..).trans h.steps
    state := (State.rd_commit ..).trans h.state }

/-- Tokens and registers have the footprint of the start, and memory changes in the entries only. -/
def State.StartsOver (s t : State) (i : Nat) (ids : List Nat) : Prop :=
  s.sameToksBut t [] ∧ s.sameRegsBut t [CORE_STEPS_LEFT.key i 0, CORE_STATE_STATE.key i 0] ∧
    ∀ a, (∀ e, e ∈ ids → a < rosterAddr e ∨ rosterAddr e + 64 ≤ a) → t.rdByte a = s.rdByte a

theorem State.startsOver_commit {ids : List Nat} (hu : (s.started i b r).onlyEntries u ids) : s.StartsOver (s.commit u) i ids := by
  obtain ⟨⟨m, rfl⟩, bytes⟩ := hu
  obtain ⟨⟨mem, toks⟩, regs⟩ := s.foot_started i b r
  exact ⟨fun k _ => (State.tok_commit ..).trans (toks k), fun f j l hk => (State.rd_commit ..).trans (regs f j l hk),
    fun a ha => (State.rdByte_commit ..).trans ((bytes a ha).trans (mem a))⟩

section
variable {ok : Bool} {op : Nat} {f : State → Block → List Byte → Except Decoded Run} (hr : s.railsUp = true) (hd : s.decodes i op = true)
  (hok : ok = true) (hb : (s.core i).block = some b) (hk : b.kind ≠ 2) (hs : s.self = none) (hn : (s.core i).next = some raw)
include hr hd hok hb hk hs hn

/-- A decode that starts the command, and touches some entries, is what the seat's command leaves. -/
theorem State.rails_starts {g : State → State} {ids : List Nat} (hg : (s.started i b r).onlyEntries (g s) ids) :
    ∃ t, s.rails ok (fun s => s.asSeat i g) = .next t ∧ s.RunsFirst t i b r ∧ s.StartsOver t i ids := by
  have self : (g s).self = none := by
    obtain ⟨⟨m, h⟩, -⟩ := hg
    rw [h]
    exact (s.started_self i b r).trans hs
  obtain ⟨-, stroke⟩ := State.decodes_idle hb hn hd
  have run := State.rails_next hr hok (fun s => s.asSeat i g)
  rw [State.asSeat_sched hb hk hs self] at run
  exact ⟨_, run, State.runsFirst_commit (State.started_runsFirst hb stroke) hg, State.startsOver_commit hg⟩

variable (hw : s.watches = []) (hf : f s b raw = .ok r)
include hw hf

/-- A command without slots. -/
theorem State.decodeWith_starts :
    ∃ t, s.rails ok (fun s => s.asSeat i (fun s => s.decodeWith i (fun b raw => asDecoded (f s b raw)))) = .next t ∧
      s.RunsFirst t i b r ∧ s.StartsOver t i [] :=
  State.rails_starts hr hd hok hb hk hs hn (g := fun s => s.decodeWith i (fun b raw => asDecoded (f s b raw))) (by
    rw [State.decodeWith_run hb hn hw (congrArg asDecoded hf)]
    exact State.onlyEntries_refl ..)

/-- A command on the slots of sequences. -/
theorem State.decodeSlots_starts :
    ∃ t, s.rails ok (fun s => s.asSeat i (fun s => s.decodeSlots i (fun b raw => asDecoded (f s b raw)))) = .next t ∧
      s.RunsFirst t i b r ∧ s.StartsOver t i (r.slots.map Slot.id) :=
  State.rails_starts hr hd hok hb hk hs hn (g := fun s => s.decodeSlots i (fun b raw => asDecoded (f s b raw)))
    (State.decodeSlots_run hd hb hn hw (congrArg asDecoded hf))

/-- A command on the slots of streams. -/
theorem State.decodeStreams_starts (plan : List Byte → Nat) :
    ∃ t, s.rails ok (fun s => s.asSeat i (fun s => s.decodeStreams i plan (fun b raw => asDecoded (f s b raw)))) = .next t ∧
      s.RunsFirst t i b r ∧ s.StartsOver t i (r.slots.map Slot.id) :=
  State.rails_starts hr hd hok hb hk hs hn (g := fun s => s.decodeStreams i plan (fun b raw => asDecoded (f s b raw)))
    (State.decodeStreams_run hd hb hn hw (congrArg asDecoded hf) plan)

end

/-- Settles O6: each command decodes in one of three ways, by its slots. -/
theorem tensorCommandsStartTheirSteps : Obligations.TensorCommandsStartTheirSteps := by
  intro s c i op b raw d r hr hd hb hk hs hn hw hf
  refine ⟨fun h => ?plain, fun h => ?slots⟩
  case plain =>
    have start : ∃ t, exec c s = .next t ∧ s.RunsFirst t i b r ∧ s.StartsOver t i [] := by
      rcases h with ⟨rfl, rfl, rfl⟩ | ⟨rfl, rfl, rfl⟩ | ⟨rfl, rfl, rfl⟩ | ⟨rfl, rfl, rfl⟩ | ⟨rfl, rfl, rfl⟩ | ⟨rfl, rfl, rfl⟩ |
        ⟨rfl, rfl, rfl⟩ | ⟨rfl, rfl, rfl⟩ | ⟨rfl, rfl, rfl⟩ | ⟨rfl, rfl, rfl⟩ | ⟨rfl, rfl, rfl⟩ | ⟨rfl, rfl, rfl⟩ | ⟨rfl, rfl, rfl⟩ |
        ⟨rfl, rfl, rfl⟩ | ⟨rfl, rfl, rfl⟩
      all_goals exact State.decodeWith_starts hr hd hd hb hk hs hn hw hf
    obtain ⟨t, run, ⟨runs, block, next, steps, state, others⟩, toks, regs, bytes⟩ := start
    exact ⟨t, run, runs, block, next, steps, state, others, ⟨fun a => bytes a (by simp), fun k => toks k (by simp)⟩, regs⟩
  case slots =>
    have start : ∃ t, exec c s = .next t ∧ s.RunsFirst t i b r ∧ s.StartsOver t i (r.slots.map Slot.id) := by
      rcases h with ⟨rfl, rfl, rfl⟩ | ⟨rfl, rfl, mode, rfl⟩ | ⟨rfl, rfl, mode, rfl⟩ | ⟨rfl, rfl, rfl⟩ | ⟨rfl, rfl, rfl⟩
      · exact State.decodeSlots_starts hr hd hd hb hk hs hn hw hf
      · exact State.decodeSlots_starts hr hd (by rw [hd, mode]; rfl) hb hk hs hn hw hf
      · exact State.decodeSlots_starts hr hd (by rw [hd, mode]; rfl) hb hk hs hn hw hf
      · exact State.decodeStreams_starts hr hd hd hb hk hs hn hw hf planB
      · exact State.decodeStreams_starts hr hd hd hb hk hs hn hw hf planM
    obtain ⟨t, run, ⟨runs, block, next, steps, state, others⟩, toks, regs, bytes⟩ := start
    exact ⟨t, run, runs, block, next, steps, state, others, toks, regs, fun a ha => bytes a (by simpa using ha)⟩

end Sys2Proof.Machine
end

section
/-!
PROOF. SIGNAL, WAIT and ATOMIC (R135 to R137, R174, R555, R557): what a command leaves as it ends, the token that SIGNAL adds to, the seat that
WAIT holds, and the packet in which the operation of an ATOMIC command leaves for another device.
-/
namespace Sys2Proof.Machine

variable {s : State} {i : Nat} {b : Block} {raw : List Byte}

/-! ### A command ends (R115) -/

/-- The seat of a command that has ended with flags. -/
def Core.ended (x : Core) (flags : Nat) : Core :=
  { x with run := none, next := none, wait := none
           lastCmd := (match x.run, x.next with
             | some r, _ => fieldLE r.raw 2 2
             | none, some raw => fieldLE raw 2 2
             | none, none => 0, match x.block with | some b => b.pos | none => 0)
           block := x.block.map (fun b => { b with pos := b.pos + 1, flags := b.flags ||| flags }) }

/-- What a command that has ended leaves, before the next one is fetched. -/
def State.endedCommand (s : State) (i flags : Nat) : State :=
  ((s.updCore i (fun x => x.ended flags)).wr CORE_STEPS_LEFT 0 i).clearArrived (.core i)

theorem State.endCommand_eq (s : State) (i flags : Nat) : s.endCommand i flags = (s.endedCommand i flags).fetchNext i := rfl

theorem State.core_endedCommand (s : State) (i flags : Nat) : (s.endedCommand i flags).core i = (s.core i).ended flags :=
  (s.core_updCore i (fun x => x.ended flags) i).trans (if_pos rfl)

/-- The block goes on after the command that has ended. -/
theorem State.block_endedCommand (hb : (s.core i).block = some b) : ((s.endedCommand i 0).core i).block = some { b with pos := b.pos + 1 } := by
  rw [State.core_endedCommand]
  simp [Core.ended, hb]

theorem State.foot_endedCommand (s : State) (i flags : Nat) : s.foot (s.endedCommand i flags) [CORE_STEPS_LEFT.key i 0] :=
  State.foot_upd_of (t := (s.updCore i (fun x => x.ended flags)).wr CORE_STEPS_LEFT 0 i)
    (State.foot_wr_of (State.foot_of_eq rfl rfl rfl rfl) (List.mem_singleton_self _)) rfl rfl rfl rfl

theorem State.rd_endedCommand (s : State) (i flags : Nat) : (s.endedCommand i flags).rd CORE_STEPS_LEFT i = 0 :=
  (s.updCore i (fun x => x.ended flags)).rd_wr_same CORE_STEPS_LEFT 0 i 0

/-! ### SIGNAL (R135) -/

theorem State.post_cores (s : State) (c sel inc : Nat) (sched : Bool) : (s.post c sel inc sched).cores = s.cores := by
  unfold State.post State.addTok State.changeTok State.stray
  split
  · split
    · exact State.logFrom_cores ..
    · rfl
  · rfl

theorem signalEffect_posts {sel inc : Nat} (hb : (s.core i).block = some b) (hn : (s.core i).next = some raw) (hsel : fieldLE raw 64 2 = sel)
    (hinc : fieldLE raw 66 2 = inc) (fields : onlyFields raw signalFields = true) (valid : selOk sel = true) (some_inc : inc ≠ 0)
    (named : (bitOf sel 15 && bits sel 0 14 == 0) = false) :
    signalEffect i s = (s.post (i / 9) sel inc b.sched).endCommand i 0 := by
  subst hsel hinc
  simp only [signalEffect, hb, hn, fields, valid, named, beq_false_of_ne some_inc]
  rfl

/-! ### WAIT (R136) -/

section
variable {k : Nat} (hn : (s.core i).next = some raw) (fields : onlyFields raw waitFields = true) (valid : selOk (fieldLE raw 64 2) = true)
  (names : selToken (i / 9) (fieldLE raw 64 2) = some k)
include hn fields valid names

theorem waitEffect_ends (h : satisfied (s.tok k) (BitVec.ofNat 32 (fieldLE raw 68 4)) = true) : waitEffect i s = s.endCommand i 0 := by
  simp only [waitEffect, hn, fields, valid, names, h]
  rfl

theorem waitEffect_holds (h : satisfied (s.tok k) (BitVec.ofNat 32 (fieldLE raw 68 4)) = false) :
    waitEffect i s = (s.updCore i (fun x => { x with wait := some (k, fieldLE raw 68 4) })).wr CORE_STATE_STATE 2 i := by
  simp only [waitEffect, hn, fields, valid, names, h]
  rfl

end

/-! ### ATOMIC on another device (R137, R555, R557) -/

/-- A request as it stands in a slot of a port (R567). -/
def State.inSlot (s : State) (q n : Nat) (p : Packet) : Packet :=
  { p with slot := n, port := q, gen := Tab.look (s.port q).gens n 0, src := s.dev, cls := s.classFor p.dst p }

/-- A port with a request in a free slot and in its queue. -/
def State.portWith (s : State) (q n op : Nat) (p : Packet) (dest : Option Nat) : Port :=
  { s.port q with
    slots := Tab.put (s.port q).slots n { op := op, packet := s.inSlot q n p, dest := dest, due := s.clock + s.rmtTimeout }
    tx := (s.port q).tx ++ [(0, s.clock, s.inSlot q n p)] }

/-- A request has taken a free slot of its port. -/
def State.slotted (s : State) (q n op : Nat) (p : Packet) (dest : Option Nat) : State :=
  (s.setPort q (s.portWith q n op p dest)).bump LNK_SLOTS_USED_COUNT 1 q

theorem State.sendRequest_slotted {q n : Nat} (hf : (s.port q).freeSlot = some n) (op : Nat) (p : Packet) (dest : Option Nat) :
    s.sendRequest q op p dest = s.slotted q n op p dest := by
  unfold State.sendRequest
  dsimp only
  rw [hf]
  rfl

theorem State.sendOrFail_slotted {q n op : Nat} {p : Packet} {dest : Option Nat} (hq : s.portFor p.dst p = some q) (hl : s.blk .lnk q ≠ 2)
    (hf : (s.port q).freeSlot = some n) : s.sendOrFail op p dest = s.slotted q n op p dest := by
  unfold State.sendOrFail
  rw [hq, ← State.sendRequest_slotted hf]
  exact if_neg hl

theorem State.port_slotted (s : State) (q n op : Nat) (p : Packet) (dest : Option Nat) :
    (s.slotted q n op p dest).port q = s.portWith q n op p dest := s.port_setPort_same ..

theorem State.core_slotted (s : State) (q n op : Nat) (p : Packet) (dest : Option Nat) (j : Nat) :
    ({ s.slotted q n op p dest with self := none } : State).core j = s.core j := rfl

theorem State.queued_slotted (s : State) (q n op : Nat) (p : Packet) (dest : Option Nat) :
    (s.slotted q n op p dest).queued q = s.queued q ++ [s.inSlot q n p] := by
  simp [State.queued, State.port_slotted, State.portWith]

theorem State.slots_slotted (s : State) (q n op : Nat) (p : Packet) (dest : Option Nat) :
    (Tab.find ((s.slotted q n op p dest).port q).slots n).isSome = true := by
  simp [State.port_slotted, State.portWith, Tab.find_put]

theorem State.foot_slotted (s : State) (q n op : Nat) (p : Packet) (dest : Option Nat) :
    s.foot (s.slotted q n op p dest) [LNK_SLOTS_USED_COUNT.key q 0] :=
  State.foot_wr_of (t := s.setPort q (s.portWith q n op p dest)) (State.foot_of_eq rfl rfl rfl rfl) (List.mem_singleton_self _)

theorem State.rcWrite_cache (s : State) (o : Owner) (g n : Nat) : ∃ a l, s.rcWrite o g n = { s with asked := a, rcache := l } := by
  unfold State.rcWrite State.rcDrop
  split
  · split
    · exact ⟨_, _, rfl⟩
    · split <;> exact ⟨_, _, rfl⟩
  · exact ⟨_, _, rfl⟩

/-- The seat runs the ATOMIC command, with one operation outstanding. -/
def State.runsAtomic (s : State) (i : Nat) (raw : List Byte) : State :=
  (s.clearArrived (.core i)).updCore i (fun x => { x with run := some (emptyRun raw), out := x.out + 1 })

/-- The state in which its operation leaves, before the packet is sent. -/
def State.opensAtomic (s : State) (i ctx : Nat) (raw : List Byte) (sched : Bool) (g n : Nat) : State :=
  (((s.runsAtomic i raw).rcWrite (.core i) g n).openOp (.core i) ctx 1 sched false none).2

theorem State.runsAtomic_keeps (s : State) (i : Nat) (raw : List Byte) :
    (s.runsAtomic i raw).regs = s.regs ∧ (s.runsAtomic i raw).mem = s.mem ∧ (s.runsAtomic i raw).undef = s.undef ∧
    (s.runsAtomic i raw).tokens = s.tokens ∧ (s.runsAtomic i raw).ports = s.ports ∧ (s.runsAtomic i raw).routesF = s.routesF := by
  unfold State.runsAtomic State.updCore State.setCore State.clearArrived State.detach
  exact ⟨rfl, rfl, rfl, rfl, rfl, rfl⟩

/-- All that a packet and its seat depend on stays, but the seat's own record. -/
theorem State.opensAtomic_keeps (s : State) (i ctx : Nat) (raw : List Byte) (sched : Bool) (g n : Nat) :
    (s.opensAtomic i ctx raw sched g n).cores = (s.runsAtomic i raw).cores ∧ (s.opensAtomic i ctx raw sched g n).regs = s.regs ∧
    (s.opensAtomic i ctx raw sched g n).mem = s.mem ∧ (s.opensAtomic i ctx raw sched g n).undef = s.undef ∧
    (s.opensAtomic i ctx raw sched g n).tokens = s.tokens ∧ (s.opensAtomic i ctx raw sched g n).ports = s.ports ∧
    (s.opensAtomic i ctx raw sched g n).routesF = s.routesF := by
  obtain ⟨a, l, h⟩ := (s.runsAtomic i raw).rcWrite_cache (.core i) g n
  obtain ⟨regs, mem, undef, tokens, ports, routes⟩ := s.runsAtomic_keeps i raw
  unfold State.opensAtomic
  rw [h]
  exact ⟨rfl, regs, mem, undef, tokens, ports, routes⟩

/-- The packet of an ATOMIC command. -/
def atomicPacket (b : Block) (d : List Byte) (g : Nat) : Packet :=
  { zeroPacket with
    type := ptAtomic, vc := 2, ctx := b.ctx, sched := b.sched, dst := gpaDev g, addr := gpaLocal g, aop := rAop d, wide := rWide d
    operand := rOperand d, compare := rCompare d }

theorem State.runAtomic_sends {u : State} {ag : Agent} {d : List Byte} {pl : RemPlan} {p : RemPart} (hp : pl.parts = [p]) (hh : u.isHere p = false) :
    ∃ op dest, u.runAtomic ag (.core i) b.ctx b.sched d pl =
      ((u.rcWrite (.core i) p.gpa p.n).openOp (.core i) b.ctx 1 b.sched false none).2.sendOrFail op (atomicPacket b d p.gpa) dest := by
  obtain ⟨a, l, h⟩ := u.rcWrite_cache (.core i) p.gpa p.n
  refine ⟨u.nextOp, if rLocal d = 0 then none else some (rLocal d), ?_⟩
  unfold State.runAtomic
  rw [hp]
  simp only [State.rcParts, List.foldl, h]
  exact if_neg (fun e => Bool.false_ne_true (hh.symm.trans e))

theorem State.coreWake_waits {r : Run} (hb : (s.core i).block = some b) (hr : (s.core i).run = some r) (ho : 0 < (s.core i).out) :
    s.coreWake i = s := by
  simp only [State.coreWake, hb, hr, if_pos ho, ite_self]

theorem atomicEffect_sends {d : List Byte} {pl : RemPlan} {p : RemPart} (hb : (s.core i).block = some b) (hk : b.kind ≠ 2) (hs : s.self = none)
    (hn : (s.core i).next = some raw) (fields : onlyFields raw atomicFields = true) (aligned : fieldLE raw 72 8 % 64 = 0)
    (read : s.readV (.core i) b.ctx (fieldLE raw 72 8) 64 = .ok d) (kind : rOp d = 3)
    (plan : s.remotePlan (.core i) b.ctx d = .ok pl) (parts : pl.parts = [p]) (here : s.isHere p = false) :
    ∃ op dest, atomicEffect i s =
      { (s.opensAtomic i b.ctx raw b.sched p.gpa p.n).sendOrFail op (atomicPacket b d p.gpa) dest with self := none } := by
  obtain ⟨op, dest, sends⟩ := State.runAtomic_sends (u := s.runsAtomic i raw) (i := i) (b := b) (ag := .core i) (d := d) parts here
  refine ⟨op, dest, ?_⟩
  unfold atomicEffect
  rw [State.asSeat_eq hb hk hs]
  simp only [hb, hn, fields, aligned, read, kind, plan]
  exact congrArg (fun u => ({ u with self := none } : State)) sends

theorem State.core_opensAtomic (s : State) (i ctx : Nat) (raw : List Byte) (sched : Bool) (g n : Nat) :
    (s.opensAtomic i ctx raw sched g n).core i = { s.core i with run := some (emptyRun raw), out := (s.core i).out + 1 } := by
  obtain ⟨cores, -⟩ := s.opensAtomic_keeps i ctx raw sched g n
  have same : (s.opensAtomic i ctx raw sched g n).core i = (s.runsAtomic i raw).core i := congrArg (fun l => Tab.look l i default) cores
  exact same.trans ((State.core_updCore _ i (fun x => { x with run := some (emptyRun raw), out := x.out + 1 }) i).trans (if_pos rfl))

theorem State.foot_opensAtomic (s : State) (i ctx : Nat) (raw : List Byte) (sched : Bool) (g n : Nat) :
    s.foot (s.opensAtomic i ctx raw sched g n) [] := by
  obtain ⟨-, regs, mem, undef, tokens, -⟩ := s.opensAtomic_keeps i ctx raw sched g n
  exact State.foot_of_eq regs mem undef tokens

/-- Where a packet leaves depends on the registers and the routes. -/
theorem State.portFor_congr {u : State} (regs : u.regs = s.regs) (routes : u.routesF = s.routesF) (d : Nat) (x : Packet) :
    u.portFor d x = s.portFor d x := by
  have rd (f : Fld) (k j : Nat) := State.rd_congr regs f k j
  have route (k : Nat) : u.route k = s.route k := congrArg (fun l => Tab.look l k 0) routes
  have up : u.portUp = s.portUp := funext fun q => by simp only [State.portUp, rd]
  unfold State.portFor
  rw [up, route]

/-- What the packet and its seat read in the state in which it leaves is what they read before. -/
theorem State.opensAtomic_sends {q n ctx g m : Nat} {sched : Bool} {x : Packet} (port : s.portFor x.dst x = some q) (up : s.blk .lnk q ≠ 2)
    (free : (s.port q).freeSlot = some n) (op : Nat) (dest : Option Nat) :
    (s.opensAtomic i ctx raw sched g m).sendOrFail op x dest = (s.opensAtomic i ctx raw sched g m).slotted q n op x dest ∧
      (s.opensAtomic i ctx raw sched g m).inSlot q n x = s.inSlot q n x ∧
      (s.opensAtomic i ctx raw sched g m).queued q = s.queued q := by
  obtain ⟨-, regs, -, -, -, ports, routes⟩ := s.opensAtomic_keeps i ctx raw sched g m
  have rd (f : Fld) (k j : Nat) := State.rd_congr regs f k j
  have route (k : Nat) : (s.opensAtomic i ctx raw sched g m).route k = s.route k := congrArg (fun l => Tab.look l k 0) routes
  have portOf (k : Nat) : (s.opensAtomic i ctx raw sched g m).port k = s.port k := congrArg (fun l => Tab.look l k default) ports
  refine ⟨State.sendOrFail_slotted ?_ ?_ ?_, ?_, ?_⟩
  · rw [State.portFor_congr regs routes]; exact port
  · simpa only [State.blk, rd] using up
  · rw [portOf]; exact free
  · simp only [State.inSlot, State.classFor, State.dev, route, rd, portOf]
  · simp only [State.queued, portOf]

/-! ### The commands -/

/-- The effect of a command of the main dies, once it is known. -/
theorem State.rails_eq {ok : Bool} {f : State → State} (hr : s.railsUp = true) (hok : ok = true) {t : State} (h : f s = t) :
    s.rails ok f = .next (s.commit t) := h ▸ State.rails_next hr hok f

section
variable (hr : s.railsUp = true) (hb : (s.core i).block = some b) (hn : (s.core i).next = some raw)
include hr hb hn

theorem exec_signal {k sel inc : Nat} (hd : s.decodes i 0x50 = true) (fields : onlyFields raw signalFields = true) (hsel : fieldLE raw 64 2 = sel)
    (hinc : fieldLE raw 66 2 = inc) (valid : selOk sel = true) (some_inc : inc ≠ 0)
    (named : (bitOf sel 15 && bits sel 0 14 == 0) = false) (names : selToken (i / 9) sel = some k) :
    ∃ u : State, exec (.signal i) s = .next (s.commit (u.fetchNext i)) ∧ u.tok k = s.tok k + BitVec.ofNat 32 inc ∧ s.sameToksBut u [k] ∧
      (u.core i).block = some { b with pos := b.pos + 1 } ∧ (u.core i).next = none ∧ (u.core i).run = none ∧ u.rd CORE_STEPS_LEFT i = 0 := by
  have cores (j : Nat) : (s.post (i / 9) sel inc b.sched).core j = s.core j := congrArg (fun l => Tab.look l j default) (State.post_cores ..)
  obtain ⟨⟨-, toks⟩, -⟩ := State.foot_endedCommand (s.post (i / 9) sel inc b.sched) i 0
  refine ⟨(s.post (i / 9) sel inc b.sched).endedCommand i 0,
    State.rails_eq hr hd ((signalEffect_posts hb hn hsel hinc fields valid some_inc named).trans (State.endCommand_eq ..)),
    (toks k).trans (State.tok_post_same names ..),
    fun j hj => (toks j).trans (State.tok_post_other ?_ ..), State.block_endedCommand ((congrArg Core.block (cores i)).trans hb), ?_, ?_,
    State.rd_endedCommand ..⟩
  · rw [names]
    exact fun e => hj (List.mem_singleton.2 (Option.some.inj e).symm)
  · rw [State.core_endedCommand]; rfl
  · rw [State.core_endedCommand]; rfl

theorem exec_wait_ends {k : Nat} (hd : s.decodes i 0x51 = true) (hw : (s.core i).wait = none) (fields : onlyFields raw waitFields = true)
    (valid : selOk (fieldLE raw 64 2) = true) (names : selToken (i / 9) (fieldLE raw 64 2) = some k)
    (h : satisfied (s.tok k) (BitVec.ofNat 32 (fieldLE raw 68 4)) = true) :
    ∃ u : State, exec (.wait i) s = .next (s.commit (u.fetchNext i)) ∧ (u.core i).block = some { b with pos := b.pos + 1 } ∧
      (u.core i).next = none ∧ s.sameStore u ∧ s.sameRegsBut u [CORE_STEPS_LEFT.key i 0] :=
  ⟨s.endedCommand i 0, State.rails_eq hr (by rw [hd, hw]; rfl) ((waitEffect_ends hn fields valid names h).trans (State.endCommand_eq ..)),
    State.block_endedCommand hb,
    by rw [State.core_endedCommand]; rfl, s.foot_endedCommand i 0⟩

omit hb in
theorem exec_wait_holds {k : Nat} (hd : s.decodes i 0x51 = true) (hw : (s.core i).wait = none) (fields : onlyFields raw waitFields = true)
    (valid : selOk (fieldLE raw 64 2) = true) (names : selToken (i / 9) (fieldLE raw 64 2) = some k)
    (h : satisfied (s.tok k) (BitVec.ofNat 32 (fieldLE raw 68 4)) = false) :
    ∃ t, exec (.wait i) s = .next t ∧ (t.core i).wait = some (k, fieldLE raw 68 4) ∧ t.rd CORE_STATE_STATE i = 2 ∧ s.sameStore t ∧
      s.sameRegsBut t [CORE_STATE_STATE.key i 0] := by
  refine ⟨_, State.rails_eq hr (by rw [hd, hw]; rfl) (waitEffect_holds hn fields valid names h),
    congrArg Core.wait ((s.core_updCore i (fun x => { x with wait := some (k, fieldLE raw 68 4) }) i).trans (if_pos rfl)), ?_,
    State.foot_commit (State.foot_wr_of (State.foot_of_eq rfl rfl rfl rfl) (List.mem_singleton_self _))⟩
  rw [State.rd_commit, State.rd_wr_same]
  rfl

omit hn in
theorem exec_waitSatisfied {k v : Nat} (hd : s.decodes i 0x51 = true) (hw : (s.core i).wait = some (k, v))
    (h : satisfied (s.tok k) (BitVec.ofNat 32 v) = true) :
    ∃ u : State, exec (.waitSatisfied i) s = .next (s.commit (u.fetchNext i)) ∧ (u.core i).block = some { b with pos := b.pos + 1 } ∧
      (u.core i).wait = none ∧ s.sameStore u ∧ s.sameRegsBut u [CORE_STATE_STATE.key i 0, CORE_STEPS_LEFT.key i 0] := by
  have due : s.waitDue i = true := by simp only [State.waitDue, hw, h]
  have shown : s.foot (s.wr CORE_STATE_STATE 1 i) [CORE_STATE_STATE.key i 0] := State.foot_wr (List.mem_singleton_self _)
  refine ⟨(s.wr CORE_STATE_STATE 1 i).endedCommand i 0,
    State.rails_eq (ok := s.decodes i 0x51 && s.waitDue i) (f := fun s => (s.wr CORE_STATE_STATE 1 i).endCommand i 0) hr
      (by rw [hd, due]; rfl) rfl, State.block_endedCommand hb, ?_,
    State.foot_trans shown (State.foot_endedCommand ..)⟩
  rw [State.core_endedCommand]; rfl

theorem exec_atomic {q n : Nat} {d : List Byte} {pl : RemPlan} {p : RemPart} (hd : s.decodes i 0x52 = true) (hk : b.kind ≠ 2)
    (hs : s.self = none) (fields : onlyFields raw atomicFields = true) (aligned : fieldLE raw 72 8 % 64 = 0)
    (read : s.readV (.core i) b.ctx (fieldLE raw 72 8) 64 = .ok d) (kind : rOp d = 3) (plan : s.remotePlan (.core i) b.ctx d = .ok pl)
    (parts : pl.parts = [p]) (here : s.isHere p = false)
    (port : s.portFor (gpaDev p.gpa) (atomicPacket b d p.gpa) = some q) (up : s.blk .lnk q ≠ 2) (free : (s.port q).freeSlot = some n) :
    ∃ t, exec (.atomic i) s = .next t ∧ (t.core i).run = some (emptyRun raw) ∧ (t.core i).out = (s.core i).out + 1 ∧
      t.queued q = s.queued q ++ [s.inSlot q n (atomicPacket b d p.gpa)] ∧ (Tab.find (t.port q).slots n).isSome = true ∧
      s.sameStore t ∧ s.sameRegsBut t [LNK_SLOTS_USED_COUNT.key q 0] := by
  obtain ⟨op, dest, effect⟩ := atomicEffect_sends hb hk hs hn fields aligned read kind plan parts here
  obtain ⟨sent, packet, queue⟩ := State.opensAtomic_sends (i := i) (raw := raw) (ctx := b.ctx) (sched := b.sched) (g := p.gpa) (m := p.n)
    (x := atomicPacket b d p.gpa) port up free op dest
  rw [sent] at effect
  have core : (atomicEffect i s).core i = { s.core i with run := some (emptyRun raw), out := (s.core i).out + 1 } :=
    (congrArg (fun t => t.core i) effect).trans
      ((State.core_slotted (s.opensAtomic i b.ctx raw b.sched p.gpa p.n) q n op (atomicPacket b d p.gpa) dest i).trans
        (State.core_opensAtomic ..))
  have waits : (atomicEffect i s).coreWake i = atomicEffect i s :=
    State.coreWake_waits (b := b) (r := emptyRun raw) (by rw [core]; exact hb) (by rw [core]) (by rw [core]; exact Nat.succ_pos _)
  have slotted := (s.opensAtomic i b.ctx raw b.sched p.gpa p.n).queued_slotted q n op (atomicPacket b d p.gpa) dest
  refine ⟨s.commit (atomicEffect i s), State.rails_eq (f := fun s => (atomicEffect i s).coreWake i) hr hd waits,
    by rw [State.core_commit, core], by rw [State.core_commit, core], ?_, ?_, ?_⟩
  · rw [effect, ← packet, ← queue]
    exact slotted
  · rw [effect]
    exact State.slots_slotted ..
  · rw [effect]
    exact State.foot_commit (State.foot_trans (State.foot_opensAtomic ..) (State.foot_upd_of (State.foot_slotted ..) rfl rfl rfl rfl))

end

/-- Settles O7: each clause is the effect of one command. -/
theorem seatsSignalWaitAndAskOtherDevices : Obligations.SeatsSignalWaitAndAskOtherDevices := by
  refine ⟨fun s i b raw hr hb hn => ⟨?signal, ?wait, ?due⟩, ?atomic⟩
  case signal => exact fun k hd fields valid inc named names => exec_signal hr hb hn hd fields rfl rfl valid inc named names
  case wait =>
    exact fun k hd hw fields valid names =>
      ⟨exec_wait_ends hr hb hn hd hw fields valid names, exec_wait_holds hr hn hd hw fields valid names⟩
  case due => exact fun k v hd hw h => exec_waitSatisfied hr hb hd hw h
  case atomic =>
    rintro s i q n b raw d pl p x hr hd hb hk hs hn fields aligned read kind plan parts here rfl port up free
    exact exec_atomic hr hb hn hd hk hs fields aligned read kind plan parts here port up free

end Sys2Proof.Machine
end

section
/-!
PROOF. Saves, restores, pre-emption and accounts (R143, R174, R597, R605 to R609, R614, R615): what the copying of granules leaves, and what
each command shows.
-/
namespace Sys2Proof.Machine

variable {s t u : State} {p : Nat → Prop} [DecidablePred p]

/-! ### The part of the state that copying leaves -/

/-- The seats, the saves and the registers of some keys. -/
structure KeptView where
  saved    : List (Nat × Saved)
  nextSave : Nat
  cores    : List (Nat × Core)
  spareMap : List (Nat × List Nat)
  reg      : Nat → Option Nat

/-- The registers of some keys. -/
def regsOf (p : Nat → Prop) [DecidablePred p] (l : List (Nat × Nat)) (k : Nat) : Option Nat := if p k then Tab.find l k else none

def State.kept (s : State) (p : Nat → Prop) [DecidablePred p] : KeptView := ⟨s.saved, s.nextSave, s.cores, s.spareMap, regsOf p s.regs⟩

theorem regsOf_set {l : List (Nat × Nat)} {k d v : Nat} (h : ¬ p k) : regsOf p (Tab.set l k d v) = regsOf p l := by
  funext j
  unfold regsOf
  by_cases hj : p j
  · have ne : j ≠ k := fun e => h (e ▸ hj)
    rw [if_pos hj, if_pos hj]
    unfold Tab.set
    split
    · rw [Tab.find_del, if_neg ne]
    · rw [Tab.find_put, if_neg ne]
  · rw [if_neg hj, if_neg hj]

theorem State.rd_of_kept (h : t.kept p = s.kept p) (f : Fld) (i j : Nat) (hk : p (f.key i j)) : t.rd f i j = s.rd f i j := by
  have same : regsOf p t.regs (f.key i j) = regsOf p s.regs (f.key i j) := congrFun (congrArg KeptView.reg h) _
  rw [regsOf, regsOf, if_pos hk, if_pos hk] at same
  simp only [State.rd, Tab.look, same]

theorem State.saved_of_kept (h : t.kept p = s.kept p) : t.saved = s.saved := congrArg KeptView.saved h
theorem State.nextSave_of_kept (h : t.kept p = s.kept p) : t.nextSave = s.nextSave := congrArg KeptView.nextSave h

theorem State.homeOf_of_kept (h : t.kept p = s.kept p) (i : Nat) : t.homeOf i = s.homeOf i := by
  have map : t.spareMap = s.spareMap := congrArg KeptView.spareMap h
  simp only [State.homeOf, State.seatOf, State.phys, map]

theorem State.kept_wr {f : Fld} {v i j : Nat} (h : ¬ p (f.key i j)) : (s.wr f v i j).kept p = s.kept p :=
  congrArg (fun r => (⟨s.saved, s.nextSave, s.cores, s.spareMap, r⟩ : KeptView)) (regsOf_set h)

/-! ### Stores of the device itself -/

theorem State.kept_undefine (a n : Nat) : (s.undefine a n).kept p = s.kept p := by
  unfold State.undefine
  split <;> rfl

theorem State.kept_wrMem (l : List Byte) : ∀ (s : State) (a : Nat), (s.wrMem a l).kept p = s.kept p := by
  induction l with
  | nil => exact fun _ _ => rfl
  | cons b t ih => exact fun s a => ih (s.wrByte a b) (a + 1)

theorem State.kept_noteMoves (g n : Nat) : (s.noteMoves g n).kept p = s.kept p := by
  unfold State.noteMoves
  split <;> rfl

theorem State.kept_noteWrite (a n : Nat) : (s.noteWrite a n).kept p = s.kept p := by
  have cleansed (u : State) : (if u.poison.isEmpty = true then u else u.cleanse a n).kept p = u.kept p := by split <;> rfl
  unfold State.noteWrite
  refine (cleansed _).trans ((State.kept_noteMoves ..).trans ?_)
  split <;> rfl

theorem State.kept_noteLengths (a n : Nat) : (s.noteLengths a n).kept p = s.kept p := by
  unfold State.noteLengths
  split
  · exact State.kept_undefine ..
  · rfl

theorem State.kept_store (a wop : Nat) (sched : Bool) (data : List Byte) : (s.store a wop sched data).kept p = s.kept p := by
  have stored (d : List Byte) : (((s.wrMem a d).noteWrite a d.length).noteLengths a d.length).kept p = s.kept p := by
    rw [State.kept_noteLengths, State.kept_noteWrite, State.kept_wrMem]
  have touched (u : State) (l : List (Nat × Nat)) : ({ u with touched := l } : State).kept p = u.kept p := rfl
  unfold State.store
  dsimp only
  split
  · exact (touched _ _).trans (stored _)
  · exact stored _

theorem State.kept_granulesIn (ctx base off size mask n : Nat) : (s.granulesIn ctx base off size mask n).kept p = s.kept p := by
  refine State.foldl_keep (fun t => t.kept p) _ (fun t g => ?_) _ s
  dsimp only
  split
  · exact State.kept_store ..
  · split
    · exact State.kept_store ..
    · rfl

/-! ### Stores on another device -/

/-- The operation of a number, if there is one, is the checkpoint unit's. -/
def State.opOfTier (s : State) (op : Nat) : Prop := ∀ o, Tab.find s.ops op = some o → o.owner = .agent .tier

/-- The keys of CTX_STAT.STATE: a copy writes no register whose key has their place in its page. -/
abbrev stateKey (k : Nat) : Prop := k % 4096 = 0x8a0

theorem State.kept_bump_slots (q : Nat) : (s.bump LNK_SLOTS_USED_COUNT 1 q).kept stateKey = s.kept stateKey :=
  State.kept_wr (by simp [Fld.key, Page.base, LNK_SLOTS_USED_COUNT]; omega)

theorem State.sendRequest_keeps (q op : Nat) (x : Packet) (dest : Option Nat) :
    (s.sendRequest q op x dest).kept stateKey = s.kept stateKey ∧ (s.sendRequest q op x dest).ops = s.ops := by
  unfold State.sendRequest
  dsimp only
  split
  · exact ⟨rfl, rfl⟩
  · exact ⟨State.kept_bump_slots .., rfl⟩

theorem State.finishOp_agent {o : RemOp} (ho : o.owner = .agent .tier) :
    (s.finishOp o).kept p = s.kept p ∧ (s.finishOp o).ops = s.ops := by
  simp only [State.finishOp, ho]
  split <;> split <;> exact ⟨rfl, rfl⟩

theorem State.opOfTier_put {op k : Nat} {o : RemOp} (h : s.opOfTier op) (hu : u.ops = Tab.put s.ops k o)
    (ho : o.owner = .agent .tier) : u.opOfTier op := by
  intro o' ho'
  rw [hu, Tab.find_put] at ho'
  split at ho'
  · exact Option.some.inj ho' ▸ ho
  · exact h o' ho'

/-- The operation has ended: its unit learns it, and no seat. -/
theorem State.endOp_keeps {op : Nat} {o : RemOp} {l : List (Nat × RemOp)} (hu : u.ops = Tab.del l op) (ho : o.owner = .agent .tier) :
    (u.finishOp o).kept stateKey = u.kept stateKey ∧ (u.finishOp o).opOfTier op := by
  obtain ⟨kept, ops⟩ := State.finishOp_agent (s := u) (p := stateKey) ho
  refine ⟨kept, fun o' found => ?_⟩
  rw [ops, hu, Tab.find_del, if_pos rfl] at found
  cases found

theorem State.answer_keeps {op : Nat} (h : s.opOfTier op) (addr dev status : Nat) :
    (s.answer op addr dev status).kept stateKey = s.kept stateKey ∧ (s.answer op addr dev status).opOfTier op := by
  unfold State.answer
  split
  · exact ⟨rfl, h⟩
  next o found =>
    have owner : o.owner = .agent .tier := h o found
    dsimp only
    generalize noted : (if status = stUnreachable ∨ status = stTimeout then
      ({ s with leaseFails := s.leaseFails ++ [(dev, addr, status)] } : State) else s) = u
    obtain ⟨kept, tier⟩ : u.kept stateKey = s.kept stateKey ∧ u.opOfTier op := by
      subst noted
      split <;> exact ⟨rfl, h⟩
    rw [← kept]
    split
    · exact ⟨rfl, State.opOfTier_put tier rfl owner⟩
    · split
      · split
        · obtain ⟨sent, ops⟩ := State.sendRequest_keeps (s := { u with ops := _ }) _ op _ none
          exact ⟨sent, State.opOfTier_put tier ops owner⟩
        · exact State.endOp_keeps rfl owner
      · exact State.endOp_keeps rfl owner

theorem State.sendOrFail_keeps {op : Nat} (h : s.opOfTier op) (x : Packet) (dest : Option Nat) :
    (s.sendOrFail op x dest).kept stateKey = s.kept stateKey ∧ (s.sendOrFail op x dest).opOfTier op := by
  have sent (q : Nat) : (s.sendRequest q op x dest).kept stateKey = s.kept stateKey ∧ (s.sendRequest q op x dest).opOfTier op := by
    obtain ⟨kept, ops⟩ := State.sendRequest_keeps (s := s) q op x dest
    exact ⟨kept, by unfold State.opOfTier; rw [ops]; exact h⟩
  unfold State.sendOrFail
  split
  · split
    · exact State.answer_keeps h ..
    · exact sent _
  · exact State.answer_keeps h ..

theorem State.kept_putPieces (op ctx : Nat) (sched : Bool) (g : Nat) (data : List Byte) (l : List (Nat × Nat)) :
    ∀ s : State, s.opOfTier op → (s.putPieces op ctx sched g data l).kept stateKey = s.kept stateKey := by
  induction l with
  | nil => exact fun _ _ => rfl
  | cons x l ih =>
    intro s h
    obtain ⟨kept, tier⟩ := State.sendOrFail_keeps h _ none
    exact (ih _ tier).trans kept

theorem State.kept_remotePut (ctx : Nat) (sched : Bool) (g : Nat) (data : List Byte) :
    (s.remotePut (.agent .tier) ctx sched g data).kept stateKey = s.kept stateKey := by
  unfold State.remotePut
  dsimp only
  split
  · rfl
  · refine (State.kept_putPieces _ _ _ _ _ _ _ fun o found => ?_).trans rfl
    have opened : some _ = some o := (if_pos rfl).symm.trans ((Tab.find_put ..).symm.trans found)
    exact congrArg RemOp.owner (Option.some.inj opened).symm

/-! ### What a save writes -/

theorem State.kept_putRaw (g : Nat) (data : List Byte) : (s.putRaw g data).kept stateKey = s.kept stateKey := by
  unfold State.putRaw
  split
  · split
    · rfl
    · rw [State.kept_noteWrite, State.kept_wrMem]
  · exact State.kept_remotePut ..

theorem State.kept_logEv (q : Page) (i event severity status data : Nat) :
    (s.logEv q i event severity status data).kept stateKey = s.kept stateKey := by
  unfold State.logEv State.logFrom
  split
  · rfl
  · exact State.kept_wr (by decide)

theorem State.kept_breakCkpt : s.breakCkpt.kept stateKey = s.kept stateKey := by
  unfold State.breakCkpt
  rw [State.kept_logEv, State.kept_putRaw, State.kept_wr (by decide)]

theorem State.kept_clearCkptBit (f : Nat) : (s.clearCkptBit f).kept stateKey = s.kept stateKey :=
  (State.kept_noteWrite ..).trans rfl

theorem State.kept_ckptFrames (l : List Nat) : ({ s with ckptFrames := l } : State).kept p = s.kept p := rfl

theorem State.kept_copyFrame (f : Nat) : (s.copyFrame f).kept stateKey = s.kept stateKey := by
  unfold State.copyFrame
  dsimp only
  split
  · exact State.kept_breakCkpt
  · rw [State.bump_eq, State.kept_wr (by decide), State.kept_wr (by decide), State.kept_ckptFrames, State.kept_clearCkptBit,
      State.kept_putRaw, State.kept_putRaw]

theorem State.kept_copyHeld (a n : Nat) : (s.copyHeld a n).kept stateKey = s.kept stateKey := by
  unfold State.copyHeld
  split
  · rfl
  · refine State.foldl_keep (fun t => t.kept stateKey) _ (fun t f => ?_) _ s
    split
    · exact State.kept_copyFrame f
    · rfl

theorem State.kept_putOwn (g : Nat) (data : List Byte) : (s.putOwn g data).kept stateKey = s.kept stateKey := by
  unfold State.putOwn
  rw [State.kept_putRaw]
  split
  · exact State.kept_copyHeld ..
  · rfl

theorem State.kept_granulesOut (ctx base off size mask n : Nat) : (s.granulesOut ctx base off size mask n).kept stateKey = s.kept stateKey :=
  State.foldl_keep (fun t => t.kept stateKey) _ (fun _ _ => State.kept_putOwn ..) _ s

theorem State.kept_undefWings (ctx off n : Nat) : (s.undefWings ctx off n).kept p = s.kept p := by
  unfold State.undefWings
  dsimp only
  split
  · exact State.kept_undefine ..
  · rfl

/-! ### A step save (R143, R605, R607, R612) -/

section
variable {i k : Nat} {b : Block} {r : Run}

/-- What a step save holds. -/
def State.stepSave (s : State) (i k : Nat) (b : Block) : Saved :=
  let x := s.core i
  { ctx := b.ctx, slot := k, home := s.homeOf i, pinned := b.kind == 2 && (taskSeat b.task.1).isSome, boundary := false
    what := { x with stalled := false, held := false, saving := 0 }, masks := s.liveMasks b.ctx x.command }

/-- The record and the granules of a step save stand in their slot. -/
def State.stepWritten (s : State) (i k : Nat) (b : Block) : State :=
  let mask := (s.liveMasks b.ctx (s.core i).command).1
  let t := s.clearArrived .tasks
  let off := seatSlotOff k
  let t := t.putOwn (t.wingsAt b.ctx off) (t.seatRecord i b (s.core i) true mask)
  let t := (t.granulesOut b.ctx (scratchBase (i / 9) ((s.seatOf i).getD 0)) (off + 4096) 32768 mask 96).undefWings b.ctx (off + 192) 3904
  (t.undefWings b.ctx 0 0x200000).bump CTX_PC_SAVED_BYTES (4096 + popBits mask 96 * 32768) b.ctx

/-- The save is held, and its seat is empty. -/
def State.seatEmptied (s : State) (i : Nat) (v : Saved) : State :=
  let t : State := { s with saved := s.saved ++ [(s.nextSave, v)], nextSave := s.nextSave + 1 }
  ((t.leaveSlots (.core i)).clearArrived (.core i)).setCore i default

/-- The registers show that the seat is free and its save held. -/
def State.seatFreed (s : State) (i : Nat) (v : Saved) : State := ((s.seatEmptied i v).showIdle i).showSlots v.ctx

theorem State.kept_stepWritten (b : Block) : (s.stepWritten i k b).kept stateKey = s.kept stateKey := by
  have key : ¬ stateKey (CTX_PC_SAVED_BYTES.key b.ctx 0) := by simp [Fld.key, Page.base, CTX_PC_SAVED_BYTES]; omega
  unfold State.stepWritten
  dsimp only
  rw [State.bump_eq, State.kept_wr key, State.kept_undefWings, State.kept_undefWings, State.kept_granulesOut, State.kept_putOwn]
  rfl

theorem State.saveSeat_steps (saving : (s.core i).saving = 1) (clean : s.poison = [])
    (slot : freeSlotIn ((s.saved.filter (fun a => a.2.ctx == b.ctx)).map (fun a => a.2.slot)) (s.rd CTX_WINGS_CFG_SEAT_SLOTS b.ctx) = some k) :
    s.saveSeat i b = ((s.stepWritten i k b).seatFreed i { s.stepSave i k b with home := (s.stepWritten i k b).homeOf i }).settlePreempt b.ctx := by
  have slot' : freeSlotIn (((s.clearArrived .tasks).saved.filter (fun a => a.2.ctx == b.ctx)).map (fun a => a.2.slot))
    ((s.clearArrived .tasks).rd CTX_WINGS_CFG_SEAT_SLOTS b.ctx) = some k := slot
  have clean' : (s.clearArrived .tasks).poison = [] := clean
  unfold State.saveSeat
  simp only [saving, slot', State.livePoison, clean']
  rfl

end

/-! ### What a seat and a context show -/

theorem Page.base_mod (q : Page) (i : Nat) : q.base i % 0x200 = 0 := by
  cases q <;> simp only [Page.base] <;> omega

/-- Where a field lies in its page decides most of its key. -/
theorem Fld.key_mod (f : Fld) (i : Nat) : f.key i 0 % 4096 = (f.off * 8 + f.lo) % 4096 := by
  have base := Page.base_mod f.page i
  unfold Fld.key
  omega

theorem Fld.key_ne {f g : Fld} (h : (f.off * 8 + f.lo) % 4096 ≠ (g.off * 8 + g.lo) % 4096) (i j : Nat) : f.key i 0 ≠ g.key j 0 :=
  fun e => h (by rw [← f.key_mod i, ← g.key_mod j, e])

/-- A write of a field leaves those at other places of their pages. -/
theorem State.rd_wr_place {f g : Fld} (h : (f.off * 8 + f.lo) % 4096 ≠ (g.off * 8 + g.lo) % 4096) (v i j : Nat) :
    (s.wr g v j).rd f i = s.rd f i :=
  State.rd_wr_ne (s := s) (Fld.key_ne h i j) v

theorem State.rd_showSlots {f : Fld} (used : (f.off * 8 + f.lo) % 4096 ≠ 0x8a8) (crew : (f.off * 8 + f.lo) % 4096 ≠ 0x8b0) (ctx i : Nat) :
    (s.showSlots ctx).rd f i = s.rd f i :=
  (State.rd_wr_place crew ..).trans (State.rd_wr_place used ..)

theorem State.rd_showIdle_other {f : Fld} (state : (f.off * 8 + f.lo) % 4096 ≠ 0x800) (opcode : (f.off * 8 + f.lo) % 4096 ≠ 0x808)
    (index : (f.off * 8 + f.lo) % 4096 ≠ 0x810) (left : (f.off * 8 + f.lo) % 4096 ≠ 0x820) (i j : Nat) : (s.showIdle j).rd f i = s.rd f i := by
  unfold State.showIdle
  rw [State.rd_wr_place left, State.rd_wr_place index, State.rd_wr_place opcode, State.rd_wr_place state]

theorem State.rd_showIdle (s : State) (i : Nat) : (s.showIdle i).rd CORE_STATE_STATE i = if s.holdsSaved i = true then 5 else 0 := by
  unfold State.showIdle
  rw [State.rd_wr_place (by decide), State.rd_wr_place (by decide), State.rd_wr_place (by decide), State.rd_wr_same]
  split <;> rfl

theorem State.holdsSaved_congr (saved : t.saved = s.saved) (map : t.spareMap = s.spareMap) (i : Nat) : t.holdsSaved i = s.holdsSaved i := by
  simp only [State.holdsSaved, State.seatOf, State.phys, saved, map]

theorem State.settlePreempt_other {ctx : Nat} (h : s.rd CTX_STAT_STATE ctx ≠ 2) : s.settlePreempt ctx = s := by
  simp only [State.settlePreempt, h, false_and, if_false]

/-! ### The freed seat -/

section
variable {i : Nat} {v : Saved}

theorem State.core_showIdle (s : State) (j i : Nat) : (s.showIdle j).core i = s.core i := by
  simp only [State.showIdle, State.core_wr]

theorem State.core_showSlots (s : State) (ctx i : Nat) : (s.showSlots ctx).core i = s.core i := by
  simp only [State.showSlots, State.core_wr]

theorem State.core_seatFreed : (s.seatFreed i v).core i = default := by
  unfold State.seatFreed
  rw [State.core_showSlots, State.core_showIdle]
  exact State.core_setCore_same ..

theorem State.saved_showIdle (s : State) (j : Nat) : (s.showIdle j).saved = s.saved := by
  simp only [State.showIdle, State.wr_saved]

theorem State.saved_showSlots (s : State) (ctx : Nat) : (s.showSlots ctx).saved = s.saved := by
  simp only [State.showSlots, State.wr_saved]

theorem State.saved_seatFreed : (s.seatFreed i v).saved = s.saved ++ [(s.nextSave, v)] := by
  unfold State.seatFreed
  rw [State.saved_showSlots, State.saved_showIdle]
  unfold State.seatEmptied State.setCore State.clearArrived State.detach State.leaveSlots
  rfl

theorem State.regs_seatEmptied (s : State) (i : Nat) (v : Saved) : (s.seatEmptied i v).regs = s.regs := by
  unfold State.seatEmptied State.setCore State.clearArrived State.detach State.leaveSlots
  rfl

theorem State.rd_seatFreed_ctxState (ctx : Nat) : (s.seatFreed i v).rd CTX_STAT_STATE ctx = s.rd CTX_STAT_STATE ctx := by
  unfold State.seatFreed
  rw [State.rd_showSlots (by decide) (by decide), State.rd_showIdle_other (by decide) (by decide) (by decide) (by decide)]
  exact State.rd_congr (State.regs_seatEmptied ..) ..

theorem State.holdsSaved_showIdle (s : State) (j i : Nat) : (s.showIdle j).holdsSaved i = s.holdsSaved i :=
  State.holdsSaved_congr (s.saved_showIdle j) (by simp only [State.showIdle, State.wr_spareMap]) i

theorem State.holdsSaved_showSlots (s : State) (ctx i : Nat) : (s.showSlots ctx).holdsSaved i = s.holdsSaved i :=
  State.holdsSaved_congr (s.saved_showSlots ctx) (by simp only [State.showSlots, State.wr_spareMap]) i

theorem State.rd_seatFreed_state : (s.seatFreed i v).rd CORE_STATE_STATE i = if (s.seatFreed i v).holdsSaved i = true then 5 else 0 := by
  unfold State.seatFreed
  rw [State.holdsSaved_showSlots, State.holdsSaved_showIdle, State.rd_showSlots (by decide) (by decide)]
  exact State.rd_showIdle ..

end

section
variable {i k : Nat} {b : Block} {r : Run}

theorem exec_saveComplete (hr : s.railsUp = true) (hi : i < 144) (hb : (s.core i).block = some b) (saving : (s.core i).saving = 1)
    (out : (s.core i).out = 0) (run : (s.core i).run = some r) (here : s.liveNeed b.ctx r.raw = none) (clean : s.poison = [])
    (state : s.rd CTX_STAT_STATE b.ctx ≠ 2)
    (slot : freeSlotIn ((s.saved.filter (fun a => a.2.ctx == b.ctx)).map (fun a => a.2.slot)) (s.rd CTX_WINGS_CFG_SEAT_SLOTS b.ctx) = some k) :
    exec (.saveComplete i) s = .next (s.commit ((s.stepWritten i k b).seatFreed i (s.stepSave i k b))) := by
  have ready : (decide (i < 144) && s.saveReady i) = true := by simp [State.saveReady, hi, hb, saving, out]
  have command : (s.core i).command = r.raw := by simp only [Core.command, run]
  have written := State.kept_stepWritten (s := s) (i := i) (k := k) b
  have home : ({ s.stepSave i k b with home := (s.stepWritten i k b).homeOf i } : Saved) = s.stepSave i k b := by
    rw [State.homeOf_of_kept written]; rfl
  have effect : saveCompleteEffect i s = (s.stepWritten i k b).seatFreed i (s.stepSave i k b) := by
    simp only [saveCompleteEffect, hb, saving, command, here, if_true]
    rw [State.saveSeat_steps saving clean slot, home]
    refine State.settlePreempt_other ?_
    rw [State.rd_seatFreed_ctxState, State.rd_of_kept written _ _ _ (Fld.key_mod ..)]
    exact state
  exact State.rails_eq hr ready effect

end

theorem State.saved_commit : (s.commit t).saved = t.saved := rfl
theorem State.holdsSaved_commit (i : Nat) : (s.commit t).holdsSaved i = t.holdsSaved i := State.holdsSaved_congr rfl rfl i

/-- The seat of a step save holds nothing more, and its save is the last. -/
theorem saveComplete_saves {i k : Nat} {b : Block} {r : Run} (hr : s.railsUp = true) (hi : i < 144) (hb : (s.core i).block = some b)
    (saving : (s.core i).saving = 1) (out : (s.core i).out = 0) (run : (s.core i).run = some r) (here : s.liveNeed b.ctx r.raw = none)
    (clean : s.poison = []) (state : s.rd CTX_STAT_STATE b.ctx ≠ 2)
    (slot : freeSlotIn ((s.saved.filter (fun a => a.2.ctx == b.ctx)).map (fun a => a.2.slot)) (s.rd CTX_WINGS_CFG_SEAT_SLOTS b.ctx) = some k) :
    ∃ t v, exec (.saveComplete i) s = .next t ∧ t.saved = s.saved ++ [(s.nextSave, v)] ∧ v.ctx = b.ctx ∧ v.slot = k ∧ v.home = s.homeOf i ∧
      v.boundary = false ∧ v.what.block = some b ∧ v.what.run = some r ∧ v.what.saving = 0 ∧ t.core i = default ∧
      t.rd CORE_STATE_STATE i = (if t.holdsSaved i then 5 else 0) := by
  have written := State.kept_stepWritten (s := s) (i := i) (k := k) b
  refine ⟨_, s.stepSave i k b, exec_saveComplete hr hi hb saving out run here clean state slot, ?_, rfl, rfl, rfl, rfl, hb, run, rfl, ?_, ?_⟩
  · rw [State.saved_commit, State.saved_seatFreed, State.saved_of_kept written, State.nextSave_of_kept written]
  · rw [State.core_commit, State.core_seatFreed]
  · rw [State.rd_commit, State.holdsSaved_commit, State.rd_seatFreed_state]

/-! ### A restore (R609) -/

theorem State.settleResume_cases (s : State) (ctx : Nat) : s.settleResume ctx = s ∨ s.settleResume ctx = s.setCtxState ctx 1 := by
  unfold State.settleResume
  split
  · exact .inr rfl
  · exact .inl rfl

theorem State.saved_settleResume (s : State) (ctx : Nat) : (s.settleResume ctx).saved = s.saved := by
  obtain h | h := s.settleResume_cases ctx <;> rw [h]
  rfl

theorem State.core_settleResume (s : State) (ctx i : Nat) : (s.settleResume ctx).core i = s.core i := by
  obtain h | h := s.settleResume_cases ctx <;> rw [h]
  rfl

theorem State.rd_setCtxState {f : Fld} (state : (f.off * 8 + f.lo) % 4096 ≠ 0x8a0) (preempt : (f.off * 8 + f.lo) % 4096 ≠ 0x886)
    (resume : (f.off * 8 + f.lo) % 4096 ≠ 0x887) (ctx v i : Nat) : (s.setCtxState ctx v).rd f i = s.rd f i := by
  unfold State.setCtxState
  rw [State.rd_wr_place resume, State.rd_wr_place preempt, State.rd_wr_place state]

theorem State.rd_settleResume {f : Fld} (state : (f.off * 8 + f.lo) % 4096 ≠ 0x8a0) (preempt : (f.off * 8 + f.lo) % 4096 ≠ 0x886)
    (resume : (f.off * 8 + f.lo) % 4096 ≠ 0x887) (ctx i : Nat) : (s.settleResume ctx).rd f i = s.rd f i := by
  obtain h | h := s.settleResume_cases ctx <;> rw [h]
  exact State.rd_setCtxState state preempt resume ..

theorem State.fetchNext_runs {i : Nat} {r : Run} (run : (s.core i).run = some r) : s.fetchNext i = s := by
  unfold State.fetchNext State.asSeat
  have same (w : Option Nat) : ({ s with self := w } : State).core i = s.core i := rfl
  cases block : (s.core i).block <;> simp only [same, block, run]

section
variable {i key : Nat} {a : Saved} {b : Block} {r : Run}

/-- The granules of a save are back. -/
def State.granulesBack (s : State) (i : Nat) (a : Saved) : State :=
  (s.granulesIn a.ctx (scratchBase (i / 9) ((s.seatOf i).getD 0)) (seatSlotOff a.slot + 4096) 32768 (s.savedMask a) 96).clearArrived .tasks

/-- The save is gone, and the seat holds what it held. -/
def State.seatBack (s : State) (i key : Nat) (a : Saved) : State :=
  let t : State := { s with saved := s.saved.filter (fun e => e.1 != key) }
  (t.setCore i { a.what with held := t.stkState == 3 }).showSlots a.ctx

/-- The registers show a seat that runs a command. -/
def State.showRunning (s : State) (i : Nat) (b : Block) (r : Run) : State :=
  ((((s.wr CORE_STATE_STATE (s.seatCode i) i).wr CORE_STATE_OPCODE (fieldLE r.raw 0 1) i).wr CORE_STATE_CMD_INDEX b.pos i).wr
    CORE_CMD_ADDR (b.addr + b.pos * 128) i).wr CORE_STEPS_LEFT (r.steps - r.step) i

theorem restoreCompleteEffect_runs (wait : (s.core i).wait = some (key, 0)) (found : Tab.find s.saved key = some a)
    (block : a.what.block = some b) (run : a.what.run = some r) (clean : s.poison = [])
    (here : s.granulesWanted a.ctx (seatSlotOff a.slot + 4096) 32768 (s.savedMask a) 96 = []) :
    restoreCompleteEffect i s = ((((s.granulesBack i a).seatBack i key a).showRunning i b r).fetchNext i).settleResume a.ctx := by
  have sound (n : Nat) : s.poisoned n 32768 = false := by simp [State.poisoned, clean]
  have none_bad : ((setBits (s.savedMask a) 96).any fun g =>
      decide (gpaDev (s.wingsAt a.ctx (seatSlotOff a.slot + 4096 + g * 32768)) = s.dev) &&
        s.poisoned (gpaLocal (s.wingsAt a.ctx (seatSlotOff a.slot + 4096 + g * 32768))) 32768) = false := by simp [sound]
  unfold restoreCompleteEffect State.showRunning State.seatBack State.granulesBack
  simp only [wait, found, here, none_bad, block, run, List.isEmpty_nil, Bool.not_true, Bool.false_eq_true, if_false]

theorem State.kept_granulesBack (i : Nat) (a : Saved) : (s.granulesBack i a).kept p = s.kept p := by
  unfold State.granulesBack
  exact (rfl : (State.clearArrived _ .tasks).kept p = _).trans (State.kept_granulesIn ..)

theorem State.saved_seatBack : (s.seatBack i key a).saved = s.saved.filter (fun e => e.1 != key) := rfl

theorem State.core_seatBack : (s.seatBack i key a).core i = { a.what with held := s.stkState == 3 } := by
  unfold State.seatBack
  rw [State.core_showSlots]
  exact State.core_setCore_same ..

theorem State.stkState_seatBack : (s.seatBack i key a).stkState = s.stkState := State.rd_showSlots (by decide) (by decide) ..

theorem State.seatCode_seatBack : (s.seatBack i key a).seatCode i =
    if s.stkState = 3 then 4 else if a.what.stalled = true then 3 else if a.what.wait.isSome = true then 2 else 1 := by
  rw [State.seatCode, State.stkState_seatBack, State.core_seatBack]

theorem State.core_showRunning (j : Nat) : (s.showRunning j b r).core i = s.core i := by
  simp only [State.showRunning, State.core_wr]

theorem State.saved_showRunning (j : Nat) : (s.showRunning j b r).saved = s.saved := by
  simp only [State.showRunning, State.wr_saved]

theorem State.rd_showRunning_state : (s.showRunning i b r).rd CORE_STATE_STATE i = s.seatCode i := by
  have narrow : s.seatCode i % 2 ^ CORE_STATE_STATE.w = s.seatCode i := by
    unfold State.seatCode
    repeat' split
    all_goals rfl
  unfold State.showRunning
  rw [State.rd_wr_place (by decide), State.rd_wr_place (by decide), State.rd_wr_place (by decide), State.rd_wr_place (by decide),
    State.rd_wr_same, narrow]

theorem State.rd_showRunning_left : (s.showRunning i b r).rd CORE_STEPS_LEFT i = (r.steps - r.step) % 2 ^ CORE_STEPS_LEFT.w :=
  State.rd_wr_same ..

theorem restoreComplete_restores (hr : s.railsUp = true) (hi : i < 144) (saving : (s.core i).saving = 3)
    (wait : (s.core i).wait = some (key, 0)) (found : Tab.find s.saved key = some a) (block : a.what.block = some b)
    (run : a.what.run = some r) (clean : s.poison = [])
    (here : s.granulesWanted a.ctx (seatSlotOff a.slot + 4096) 32768 (s.savedMask a) 96 = []) :
    ∃ t, exec (.restoreComplete i) s = .next t ∧ t.core i = { a.what with held := s.stkState == 3 } ∧
      t.saved = s.saved.filter (fun e => e.1 != key) ∧
      t.rd CORE_STATE_STATE i = (if s.stkState = 3 then 4 else if a.what.stalled then 3 else if a.what.wait.isSome then 2 else 1) ∧
      t.rd CORE_STEPS_LEFT i = (r.steps - r.step) % 2 ^ CORE_STEPS_LEFT.w := by
  have ready : (decide (i < 144) && (s.core i).saving == 3) = true := by simp [hi, saving]
  have back : (s.granulesBack i a).kept (fun _ => True) = s.kept (fun _ => True) := State.kept_granulesBack i a
  have stk : (s.granulesBack i a).stkState = s.stkState := State.rd_of_kept back _ _ _ trivial
  have core : (((s.granulesBack i a).seatBack i key a).showRunning i b r).core i = { a.what with held := s.stkState == 3 } := by
    rw [State.core_showRunning, State.core_seatBack, stk]
  have effect := restoreCompleteEffect_runs wait found block run clean here
  rw [State.fetchNext_runs (r := r) (by rw [core]; exact run)] at effect
  refine ⟨_, State.rails_eq (f := restoreCompleteEffect i) hr ready effect, ?_, ?_, ?_, ?_⟩
  · rw [State.core_commit, State.core_settleResume, core]
  · rw [State.saved_commit, State.saved_settleResume, State.saved_showRunning, State.saved_seatBack, State.saved_of_kept back]
  · rw [State.rd_commit, State.rd_settleResume (by decide) (by decide) (by decide), State.rd_showRunning_state, State.seatCode_seatBack, stk]
  · rw [State.rd_commit, State.rd_settleResume (by decide) (by decide) (by decide), State.rd_showRunning_left]

end

/-! ### The state of a context (R608, R615) -/

section
variable {ctx : Nat}

/-- The registers that show what a context does and which slots it holds. -/
def ctxRunKeys (ctx : Nat) : List Nat :=
  [CTX_STAT_STATE.key ctx 0, CTX_CTL_PREEMPT.key ctx 0, CTX_CTL_RESUME.key ctx 0, CTX_STAT_SEAT_SLOTS_USED.key ctx 0,
    CTX_STAT_CREW_SLOTS_USED.key ctx 0]

theorem State.foot_setCtxState (s : State) (ctx v : Nat) : s.foot (s.setCtxState ctx v) (ctxRunKeys ctx) :=
  State.foot_wr_of (State.foot_wr_of (State.foot_wr (by simp [ctxRunKeys])) (by simp [ctxRunKeys])) (by simp [ctxRunKeys])

theorem State.foot_showSlots (s : State) (ctx : Nat) : s.foot (s.showSlots ctx) (ctxRunKeys ctx) :=
  State.foot_wr_of (State.foot_wr (by simp [ctxRunKeys])) (by simp [ctxRunKeys])

theorem State.rd_setCtxState_state (s : State) (ctx v : Nat) : (s.setCtxState ctx v).rd CTX_STAT_STATE ctx = v % 8 := by
  unfold State.setCtxState
  rw [State.rd_wr_place (by decide), State.rd_wr_place (by decide), State.rd_wr_same]
  rfl

theorem State.is_setCtxState_preempt {v : Nat} (h : v ≠ 2) : (s.setCtxState ctx v).is CTX_CTL_PREEMPT ctx = false := by
  unfold State.setCtxState
  rw [State.is, State.rd_wr_place (by decide), State.rd_wr_same, beq_false_of_ne h]
  rfl

theorem State.is_setCtxState_resume {v : Nat} (h : v ≠ 4) : (s.setCtxState ctx v).is CTX_CTL_RESUME ctx = false := by
  unfold State.setCtxState
  rw [State.is, State.rd_wr_same, beq_false_of_ne h]
  rfl

theorem State.is_showSlots {f : Fld} (used : (f.off * 8 + f.lo) % 4096 ≠ 0x8a8) (crew : (f.off * 8 + f.lo) % 4096 ≠ 0x8b0) (i : Nat) :
    (s.showSlots ctx).is f i = s.is f i := by
  rw [State.is, State.rd_showSlots used crew, State.is]

theorem State.saved_setCtxState (s : State) (ctx v : Nat) : (s.setCtxState ctx v).saved = s.saved := rfl

/-! ### PREEMPT (R608, R615) -/

/-- Without a save no crew has anything to save. -/
theorem State.saveCrews_none (h : s.saved = []) : s.saveCrews ctx = s := by
  unfold State.saveCrews
  generalize List.range 16 = l
  induction l with
  | nil => rfl
  | cons c l ih =>
    rw [List.foldl_cons]
    simpa only [h, List.filter_nil, List.foldl_nil, if_true] using ih

theorem State.settlePreempt_idle (state : s.rd CTX_STAT_STATE ctx = 2) (saved : s.saved = []) (idle : ∀ q, q ∈ s.cores → q.2.block = none)
    (chans : s.chans = []) : s.settlePreempt ctx = (s.setCtxState ctx 3).showSlots ctx := by
  unfold State.settlePreempt
  dsimp only
  refine (if_pos ⟨state, ?_⟩).trans (by rw [State.saveCrews_none saved])
  rw [chans, List.any_nil, Bool.or_false, Bool.not_eq_true', List.any_eq_false]
  intro q hq
  simp [idle q hq]

/-- A fold that leaves the state at each of its elements leaves it. -/
theorem State.foldl_unchanged {α : Type} {g : State → α → State} (l : List α) (hg : ∀ (t : State), ∀ q ∈ l, g t q = t) (t : State) :
    l.foldl g t = t := by
  induction l with
  | nil => rfl
  | cons q l ih =>
    rw [List.foldl_cons, hg t q List.mem_cons_self]
    exact ih fun t q' hq' => hg t q' (List.mem_cons_of_mem _ hq')

theorem preemptEffect_idle (state : s.rd CTX_STAT_STATE ctx = 1) (saved : s.saved = []) (idle : ∀ q, q ∈ s.cores → q.2.block = none)
    (chans : s.chans = []) : preemptEffect ctx s = ((s.setCtxState ctx 2).setCtxState ctx 3).showSlots ctx := by
  unfold preemptEffect
  rw [if_neg (fun h => h state)]
  dsimp only
  rw [State.foldl_unchanged _ (fun t q hq => by rw [idle q hq])]
  exact State.settlePreempt_idle (State.rd_setCtxState_state ..) saved idle chans

theorem exec_preempt (hr : s.railsUp = true) (hc : ctx < 64) (state : s.rd CTX_STAT_STATE ctx = 1) (saved : s.saved = [])
    (idle : ∀ q, q ∈ s.cores → q.2.block = none) (chans : s.chans = []) :
    ∃ t, exec (.preempt ctx) s = .next t ∧ t.rd CTX_STAT_STATE ctx = 3 ∧ t.is CTX_CTL_PREEMPT ctx = false ∧ s.foot t (ctxRunKeys ctx) := by
  refine ⟨_, State.rails_eq (f := preemptEffect ctx) hr (decide_eq_true hc) (preemptEffect_idle state saved idle chans), ?_, ?_, ?_⟩
  · rw [State.rd_commit, State.rd_showSlots (by decide) (by decide), State.rd_setCtxState_state]
  · rw [State.is_commit, State.is_showSlots (by decide) (by decide), State.is_setCtxState_preempt (by decide)]
  · exact State.foot_commit (State.foot_then (State.foot_setCtxState ..) (State.foot_then (State.foot_setCtxState ..) (State.foot_showSlots ..)))

theorem exec_preempt_refused (hr : s.railsUp = true) (hc : ctx < 64) (state : s.rd CTX_STAT_STATE ctx ≠ 1) :
    ∃ t, exec (.preempt ctx) s = .next t ∧ t.is (BLK_STAT_CFG_ERR .ctx) ctx = true ∧ t.rd CTX_STAT_STATE ctx = s.rd CTX_STAT_STATE ctx ∧
      t.cores = s.cores ∧ s.foot t [(BLK_STAT_CFG_ERR .ctx).key ctx 0, (BLK_INT_STAT .ctx).key ctx 0] := by
  have foot := s.foot_cfgErr .ctx ctx
  have effect : preemptEffect ctx s = s.cfgErr .ctx ctx := if_pos state
  have other : CTX_STAT_STATE.key ctx 0 ∉ [(BLK_STAT_CFG_ERR .ctx).key ctx 0, (BLK_INT_STAT .ctx).key ctx 0] := by
    simp [Fld.key_ne (f := CTX_STAT_STATE) (g := BLK_STAT_CFG_ERR .ctx) (by decide),
      Fld.key_ne (f := CTX_STAT_STATE) (g := BLK_INT_STAT .ctx) (by decide)]
  refine ⟨_, State.rails_eq (f := preemptEffect ctx) hr (decide_eq_true hc) effect, ?_, ?_, ?_, State.foot_commit foot⟩
  · rw [State.is_commit, State.cfgErr_is]
  · rw [State.rd_commit, State.foot_rd foot _ _ _ other]
  · exact rfl

/-! ### RESUME (R608) -/

theorem State.settleResume_done (state : s.rd CTX_STAT_STATE ctx = 4) (saved : s.saved = []) : s.settleResume ctx = s.setCtxState ctx 1 := by
  unfold State.settleResume
  simp only [state, saved, List.any_nil, Bool.not_false, and_self, if_true]

theorem ctxResumeEffect_idle (state : s.rd CTX_STAT_STATE ctx = 3) (saved : s.saved = []) (crews : s.crewSaves = []) :
    ctxResumeEffect ctx s =
      ((({ s.clearArrived .tasks with crewSaves := [] } : State).setCtxState ctx 4).showSlots ctx).setCtxState ctx 1 := by
  have restores (l : List Nat) (t : State) (ht : t.saved = []) : l.foldl (fun (t : State) i =>
      if t.saved.any (fun a => a.2.ctx == ctx && a.2.home == t.homeOf i) then t.restoreHome i else t) t = t := by
    induction l with
    | nil => rfl
    | cons i l ih => simpa only [List.foldl_cons, ht, List.any_nil, Bool.false_eq_true, if_false] using ih
  unfold ctxResumeEffect
  rw [if_neg (fun h => h state)]
  simp only [crews, List.filter_nil, List.flatMap_nil, List.isEmpty_nil, Bool.not_true, Bool.false_eq_true, if_false, List.any_nil,
    List.foldl_nil]
  rw [restores]
  · refine State.settleResume_done ?_ (by rw [State.saved_showSlots, State.saved_setCtxState]; exact saved)
    rw [State.rd_showSlots (by decide) (by decide), State.rd_setCtxState_state]
  · exact saved

theorem exec_ctxResume (hr : s.railsUp = true) (hc : ctx < 64) (state : s.rd CTX_STAT_STATE ctx = 3) (saved : s.saved = [])
    (crews : s.crewSaves = []) :
    ∃ t, exec (.ctxResume ctx) s = .next t ∧ t.rd CTX_STAT_STATE ctx = 1 ∧ t.is CTX_CTL_RESUME ctx = false ∧ s.foot t (ctxRunKeys ctx) := by
  refine ⟨_, State.rails_eq (f := ctxResumeEffect ctx) hr (decide_eq_true hc) (ctxResumeEffect_idle state saved crews), ?_, ?_, ?_⟩
  · rw [State.rd_commit, State.rd_setCtxState_state]
  · rw [State.is_commit, State.is_setCtxState_resume (by decide)]
  · refine State.foot_commit (State.foot_then (t := { s.clearArrived .tasks with crewSaves := [] }) (State.foot_of_eq rfl rfl rfl rfl) ?_)
    exact State.foot_then (State.foot_setCtxState ..) (State.foot_then (State.foot_showSlots ..) (State.foot_setCtxState ..))

end

/-! ### ACC_CLEAR (R597, R614) -/

section
variable {ctx : Nat}

/-- Some fields of a context are cleared. -/
def State.clearAll (s : State) (ctx : Nat) (l : List (Fld × Nat)) : State := l.foldl (fun (t : State) f => t.wr f.1 0 ctx f.2) s

theorem State.rd_clearAll_other {f : Fld} {i j : Nat} (l : List (Fld × Nat)) (h : ∀ g ∈ l, f.key i j ≠ g.1.key ctx g.2) :
    ∀ s : State, (s.clearAll ctx l).rd f i j = s.rd f i j := by
  induction l with
  | nil => exact fun _ => rfl
  | cons g l ih =>
    exact fun s => (ih (fun g' hg' => h g' (List.mem_cons_of_mem _ hg')) _).trans (State.rd_wr_ne (s := s) (h g List.mem_cons_self) 0)

theorem State.rd_clearAll_mem {f : Fld × Nat} (l : List (Fld × Nat)) (apart : l.Pairwise (fun f g => f.1.key ctx f.2 ≠ g.1.key ctx g.2))
    (hf : f ∈ l) : ∀ s : State, (s.clearAll ctx l).rd f.1 ctx f.2 = 0 := by
  induction l with
  | nil => cases hf
  | cons g l ih =>
    obtain ⟨first, rest⟩ := List.pairwise_cons.1 apart
    intro s
    rcases List.mem_cons.1 hf with rfl | later
    · exact (State.rd_clearAll_other l first _).trans ((State.rd_wr_same ..).trans (Nat.zero_mod _))
    · exact ih rest later _

theorem State.foot_clearAll {ks : List Nat} (l : List (Fld × Nat)) (h : ∀ g ∈ l, g.1.key ctx g.2 ∈ ks) :
    ∀ s : State, s.foot (s.clearAll ctx l) ks := by
  induction l with
  | nil => exact fun s => s.foot_refl
  | cons g l ih =>
    exact fun s => State.foot_then (State.foot_wr (h g List.mem_cons_self)) (ih (fun g' hg' => h g' (List.mem_cons_of_mem _ hg')) _)

/-- The accounts of a context: its totals, and those of the ports. -/
def accounts : List (Fld × Nat) :=
  [(CTX_ACC_CYCLES, 0), (CTX_ACC_ENERGY, 0), (CTX_ACC_HBM, 0), (CTX_ACC_LPD, 0), (CTX_ACC_NBR, 0), (CTX_ACC_HOST, 0)] ++
    (List.range 16).map (fun p => (CTX_ACC_PORT, p))

theorem accClearEffect_eq (ctx : Nat) (s : State) : accClearEffect ctx s = s.clearAll ctx accounts := rfl

theorem accounts_apart (ctx : Nat) : accounts.Pairwise (fun f g => f.1.key ctx f.2 ≠ g.1.key ctx g.2) := by
  have places : accounts.Pairwise (fun f g => f.1.page = g.1.page ∧
      (f.1.off + f.2 * f.1.stride) * 8 + f.1.lo ≠ (g.1.off + g.2 * g.1.stride) * 8 + g.1.lo) := by decide
  refine places.imp fun {f g} h => ?_
  obtain ⟨page, place⟩ := h
  unfold Fld.key
  rw [page]
  omega

theorem rd_accClearEffect {f : Fld × Nat} (hf : f ∈ accounts) : (accClearEffect ctx s).rd f.1 ctx f.2 = 0 := by
  rw [accClearEffect_eq]
  exact State.rd_clearAll_mem _ (accounts_apart ctx) hf s

theorem exec_accClear (hr : s.railsUp = true) (hc : ctx < 64) :
    ∃ t, exec (.accClear ctx) s = .next t ∧ t.rd CTX_ACC_HBM ctx = 0 ∧ t.rd CTX_ACC_LPD ctx = 0 ∧ t.rd CTX_ACC_HOST ctx = 0 ∧
      t.rd CTX_ACC_CYCLES ctx = 0 ∧ t.rd CTX_ACC_ENERGY ctx = 0 ∧ t.rd CTX_ACC_NBR ctx = 0 ∧ (∀ p, p < 16 → t.rd CTX_ACC_PORT ctx p = 0) ∧
      s.foot t (accounts.map (fun f => f.1.key ctx f.2)) := by
  have foot : s.foot (accClearEffect ctx s) (accounts.map (fun f => f.1.key ctx f.2)) := by
    rw [accClearEffect_eq]
    exact State.foot_clearAll accounts (fun _ hg => List.mem_map_of_mem hg) s
  have cleared {f : Fld × Nat} (hf : f ∈ accounts) : (s.commit (accClearEffect ctx s)).rd f.1 ctx f.2 = 0 :=
    (State.rd_commit ..).trans (rd_accClearEffect hf)
  refine ⟨_, State.rails_eq (f := accClearEffect ctx) hr (decide_eq_true hc) rfl, cleared (f := (CTX_ACC_HBM, 0)) (by decide),
    cleared (f := (CTX_ACC_LPD, 0)) (by decide), cleared (f := (CTX_ACC_HOST, 0)) (by decide), cleared (f := (CTX_ACC_CYCLES, 0)) (by decide),
    cleared (f := (CTX_ACC_ENERGY, 0)) (by decide), cleared (f := (CTX_ACC_NBR, 0)) (by decide), fun p hp => ?_, State.foot_commit foot⟩
  exact cleared (f := (CTX_ACC_PORT, p)) (List.mem_append_right _ (List.mem_map_of_mem (List.mem_range.2 hp)))

end

/-- Settles O39: each clause is what one command leaves; a copy of the device itself changes no seat, no save and no state of a context. -/
theorem workIsSavedAndContextsResume : Obligations.WorkIsSavedAndContextsResume := by
  refine ⟨fun s i k b r hr hi hb saving out run here clean state slot => ?save,
    fun s i key a b r hr hi saving wait found block run clean here => ?restore, fun s ctx hr hc => ⟨?preempt, ?refused, ?resume, ?clear⟩⟩
  case save => exact saveComplete_saves hr hi hb saving out run here clean state slot
  case restore => exact restoreComplete_restores hr hi saving wait found block run clean here
  case preempt => exact fun state saved idle chans => exec_preempt hr hc state saved idle chans
  case refused => exact fun state => exec_preempt_refused hr hc state
  case resume => exact fun state saved crews => exec_ctxResume hr hc state saved crews
  case clear => exact exec_accClear hr hc

end Sys2Proof.Machine
end

section
/-!
PROOF. Copy-on-write (R284, R331, R335), refuted: a promotion that waited for the copy starts when the copy ends, and the tier manager notes it
in the object's record, so that bytes outside the page list change.
-/
namespace Sys2Proof.Machine

variable {s : State}

/-! ### A record of the object table is undefined after a promotion has started (R421, R433) -/

/-- Filtering that keeps no pair under a key leaves nothing under it. -/
theorem Tab.find_filter_of_false {α : Type} {t : List (Nat × α)} {f : Nat × α → Bool} {k : Nat} (hf : ∀ v, f (k, v) = false) :
    Tab.find (t.filter f) k = none := by
  induction t with
  | nil => rfl
  | cons p t ih =>
    by_cases hp : f p = true
    · have other : p.1 ≠ k := by
        rintro rfl
        rw [hf p.2] at hp
        exact absurd hp (by decide)
      rw [List.filter_cons_of_pos hp, Tab.find_cons, if_neg other, ih]
    · rw [List.filter_cons_of_neg hp, ih]

theorem State.rdByte_undefine {a n x : Nat} (lo : a ≤ x) (hi : x < a + n) : (s.undefine a n).rdByte x = Config.freeByte s.fresh x := by
  unfold State.undefine
  rw [if_neg (by omega)]
  refine State.rdByte_undefined (Tab.find_filter_of_false fun _ => ?_) (if_pos ⟨lo, hi⟩)
  simp only [Bool.or_eq_false_iff, decide_eq_false_iff_not]
  omega

/-- The first byte of an object's record in the table. -/
def State.recordAt (s : State) (id : Nat) : Nat := s.rd TIER_TABLE_BASE + id * 64

theorem State.rdByte_noteObj {id : Nat} (hid : id < 2 ^ 20) : (s.noteObj id).rdByte (s.recordAt id) = Config.freeByte s.fresh (s.recordAt id) := by
  unfold State.noteObj
  extract_lets counted shown
  have base : shown.rd TIER_TABLE_BASE = s.rd TIER_TABLE_BASE := by
    rw [State.rd_wr_ne _ (by decide), State.rd_wr_ne _ (by decide), State.rd_wr_ne _ (by decide)]
  rw [if_pos hid, base]
  exact State.rdByte_undefine (Nat.le_refl _) (by unfold State.recordAt; omega)

theorem State.rdByte_setObj {id : Nat} {o : Obj} (hid : id < 2 ^ 20) :
    (s.setObj id o).rdByte (s.recordAt id) = Config.freeByte s.fresh (s.recordAt id) :=
  State.rdByte_noteObj (s := { s with objs := Tab.put s.objs id o }) hid

theorem State.rdByte_movedTo {id t f : Nat} {o : Obj} (hid : id < 2 ^ 20)
    (apart : TIER_TABLE_BASE.key 0 0 ≠ (poolFlds t).2.key 0 (s.poolOf o.ctx)) :
    (s.movedTo id o t f).rdByte (s.recordAt id) = Config.freeByte (s.fresh + 1) (s.recordAt id) := by
  have base : s.recordAt id = (State.addUsed { s with fresh := s.fresh + 1 } o.ctx t o.pageFrames).recordAt id :=
    congrArg (· + id * 64) (State.rd_wr_ne (s := { s with fresh := s.fresh + 1 }) apart _).symm
  rw [base]
  exact State.rdByte_setObj hid

/-! ### A page that its entry holds alone (R284, R331) -/

theorem State.cowPage_alone {ag : Agent} {e l k : Nat} {h w c : List Byte} {u : State}
    (hh : s.readV ag (s.entry e).ctx (s.entry e).dir 64 = .ok h) :
    let x := s.entry e
    let d := parseDir x.ctx x.dir h
    s.readV ag x.ctx (d.list l + 16 * k) 16 = .ok w → s.readV ag x.ctx (d.copyList + 4 * l) 4 = .ok c → bitOf (fieldLE w 0 1) 1 = true →
    s.refsOf x.pool (s.pageIndex x.pool (entryPage (fieldLE w 0 8))) = .ok 1 →
    s.rosWrite x.ctx [{ va := d.list l + 16 * k, data := leBytes (fieldLE w 0 8 - 2) 8 }] = .ok u →
    s.cowPage ag e l k = .ok (some (u.bump ROS_PC_COW_AVOIDED)) := by
  intro x d hw hc bit refs hu
  simp only [x, d] at hw hc bit refs hu
  simp [State.cowPage, hh, hw, hc, bit, refs, hu]

/-! ### The witness -/

/-- The roster entry 3 of `Tests.shared` has its directory at 0x38000. -/
def cowDir : Dir := { ctx := 1, at' := 0x38000, layers := 1, fmt := 0, elems := 16, stride := 64, tpp := 256, cap := 4 }

/-- Its page-list entry names page 1, SHARED. -/
def cowWord : List Byte := leBytes (0x10000 + 3) 8 ++ leBytes 0 8

/-- The object of the 2 MiB at virtual address 0 of context 1, which lie at the start of LPDDR. -/
def poolObj : Obj := { restingObj with ctx := 1, pages := [(0, 0x800000)] }

/-- First byte of its record: record 1 of the table at 0x100000. -/
def poolRecord : Nat := 0x100040

/-- The seat of `Tests.shared`, with the page that the copy under way reads. -/
def cowSeat : Core :=
  { (default : Core) with block := some Tests.block1, next := some Tests.cmdCopy, cow := some (3, 0, 0), cowVas := [(1, 0x10000)] }

/-- Seat 0 has aborted on page 1, which entry 3 alone references by now; the pool lies in LPDDR, in an object whose promotion waits for
the copy (R335). The first byte of the object's record holds `b`. -/
def promotionWaits (b : Byte) : State :=
  let s := [(TIER_TABLE_BASE, 0x100000), (TIER_TABLE_SIZE_RECORDS, 16), (TIER_POOL_HBM_LIMIT, 32), (TIER_POOL_LPD_USED, 32)].foldl
    (fun (t : State) f => t.wr f.1 f.2) (Tests.shared 1 noPage)
  { s with
    mem := (poolRecord, b) :: s.mem.map (fun c => if c.1 < 0x200000 then (c.1 + 0x8000000000, c.2) else c)
    tlb := [{ ctx := 1, va := 0, size := 0x200000, leaf := 0x800000000F }]
    cores := [(0, cowSeat)]
    objs := [(1, poolObj)]
    waitMoves := [(1, 1)] }

/-- The write that makes the page the entry's own, and the state after it. -/
def ownWrite : Write := { va := cowDir.list 0 + 16 * 0, data := leBytes (fieldLE cowWord 0 8 - 2) 8 }
def pageOwned (b : Byte) : State := (promotionWaits b).writeAll (.agent .roster) 1 true [ownWrite]

/-- Then the seat waits no more, and the promotion may start. -/
def copyEnded (b : Byte) : State :=
  (((pageOwned b).bump ROS_PC_COW_AVOIDED).updCore 0 (fun x => { x with cow := none, cowVas := [] })).clearArrived (.core 0)
def promotionReady (b : Byte) : State := { copyEnded b with waitMoves := [] }

/-- The witnesses are in order, as every reachable state is, and the promotion does wait for the copy. -/
theorem promotionWaits_ordered : ∀ b ∈ [1, 2], (promotionWaits b).ordered = true ∧ (promotionWaits b).copyBusy poolObj = true := by
  decide +kernel

theorem promotionWaits_seat : ∀ b ∈ [1, 2], (promotionWaits b).railsUp = true ∧ ((promotionWaits b).core 0).cow = some (3, 0, 0) ∧
    ((promotionWaits b).core 0).stalled = false ∧ ((promotionWaits b).core 0).block = some Tests.block1 := by decide +kernel

theorem promotionWaits_reads : ∀ b ∈ [1, 2], (promotionWaits b).readV (.core 0) 1 0x38000 64 = .ok cowDir.header ∧
    (promotionWaits b).readV (.core 0) 1 (cowDir.list 0 + 16 * 0) 16 = .ok cowWord ∧
    (promotionWaits b).readV (.core 0) 1 (cowDir.copyList + 4 * 0) 4 = .ok (leBytes noPage 4) ∧ (promotionWaits b).refsOf 0 1 = .ok 1 ∧
    (promotionWaits b).pageIndex 0 (entryPage (fieldLE cowWord 0 8)) = 1 := by decide +kernel

theorem promotionWaits_entry : ∀ b ∈ [1, 2], ((promotionWaits b).entry 3).ctx = 1 ∧ ((promotionWaits b).entry 3).dir = 0x38000 ∧
    ((promotionWaits b).entry 3).pool = 0 := by decide +kernel

theorem promotionWaits_writes : ∀ b ∈ [1, 2], (promotionWaits b).rosWrite 1 [ownWrite] = .ok (pageOwned b) := by decide +kernel

theorem pageOwned_record : ∀ b ∈ [1, 2], (pageOwned b).rdByte poolRecord = b := by decide +kernel

theorem copyEnded_waits : ∀ b ∈ [1, 2], (copyEnded b).waitMoves = [(1, 1)] ∧ Tab.find (copyEnded b).objs 1 = some poolObj ∧
    (copyEnded b).copyBusy poolObj = false := by decide +kernel

theorem promotionReady_room : ∀ b ∈ [1, 2], (promotionReady b).poolOf 1 = 0 ∧ (promotionReady b).rd TIER_POOL_HBM_USED = 0 ∧
    (promotionReady b).rd TIER_POOL_HBM_LIMIT = 32 ∧ (promotionReady b).tierRanges 1 = [(0, 0x7C0000)] ∧
    (promotionReady b).takenFrames = [(0x800000, 32)] ∧ (promotionReady b).recordAt 1 = poolRecord ∧ (promotionReady b).fresh = 0 := by
  decide +kernel

/-! ### The end of the copy -/

/-- The promotion starts, whatever frames of HBM the tier manager takes. -/
theorem copyEnded_promotes {b : Byte} (hb : b ∈ [1, 2]) : ∃ f, (copyEnded b).startWaiting = (promotionReady b).movedTo 1 poolObj 1 f := by
  obtain ⟨waits, object, free⟩ := copyEnded_waits b hb
  obtain ⟨pool, used, limit, ranges, taken, -⟩ := promotionReady_room b hb
  obtain ⟨f, found⟩ := pickFrames_of_free (first := 0) (count := 0x7C0000) (n := 32) (start := Config.freeValue (promotionReady b).fresh)
    (used := [(0x800000, 32)]) (by decide) (by decide)
  have room : (promotionReady b).rd (poolFlds 1).2 0 ((promotionReady b).poolOf poolObj.ctx) + poolObj.pageFrames ≤
      (promotionReady b).rd (poolFlds 1).1 0 ((promotionReady b).poolOf poolObj.ctx) := by
    show (promotionReady b).rd TIER_POOL_HBM_USED 0 ((promotionReady b).poolOf 1) + 32 ≤
      (promotionReady b).rd TIER_POOL_HBM_LIMIT 0 ((promotionReady b).poolOf 1)
    rw [pool, used, limit]
  have starts := State.startMove_one (s := promotionReady b) (id := 1) (o := poolObj) rfl room (by rw [ranges, taken]; exact found)
  refine ⟨f, (State.startWaiting_one waits object free rfl rfl (by decide)).trans ?_⟩
  show ((promotionReady b).startMove 1 poolObj 1).getD (promotionReady b) = _
  rw [starts, Option.getD_some]

/-- COW_COPY leaves the object's record undefined. -/
theorem cowCopy_record {b : Byte} (hb : b ∈ [1, 2])
    (owned : (promotionWaits b).cowPage (.core 0) 3 0 0 = .ok (some ((pageOwned b).bump ROS_PC_COW_AVOIDED))) :
    ∃ t, exec (.cowCopy 0) (promotionWaits b) = .next t ∧ t.rdByte poolRecord = Config.freeByte 1 poolRecord := by
  obtain ⟨rails, cow, going, block⟩ := promotionWaits_seat b hb
  obtain ⟨pool, -, -, -, -, record, fresh⟩ := promotionReady_room b hb
  obtain ⟨f, promoted⟩ := copyEnded_promotes hb
  have can : (decide (0 < 144) && ((promotionWaits b).core 0).cow.isSome && !((promotionWaits b).core 0).stalled) = true := by
    rw [cow, going]
    rfl
  have noted := State.rdByte_movedTo (s := promotionReady b) (id := 1) (t := 1) (f := f) (o := poolObj) (by decide)
    (by show _ ≠ TIER_POOL_HBM_USED.key 0 ((promotionReady b).poolOf 1); rw [pool]; decide)
  rw [record, fresh] at noted
  exact ⟨_, State.rails_eq rails can ((cowCopyEffect_resolved cow block owned).trans promoted), (State.rdByte_commit ..).trans noted⟩

/-- What the statement says of a witness: the record keeps its byte, although it reads as a free value by then. -/
theorem freeByte_of_sharedPagesAreCopied (h : Obligations.SharedPagesAreCopiedOnWrite) {b : Byte} (hb : b ∈ [1, 2]) :
    Config.freeByte 1 poolRecord = b := by
  obtain ⟨rails, cow, going, block⟩ := promotionWaits_seat b hb
  obtain ⟨header, word, copies, alone, page⟩ := promotionWaits_reads b hb
  obtain ⟨ctx, dir, pool⟩ := promotionWaits_entry b hb
  have writes : (promotionWaits b).rosWrite 1 [{ va := cowDir.list 0 + 16 * 0, data := leBytes (fieldLE cowWord 0 8 - 2) 8 }] = .ok (pageOwned b) :=
    promotionWaits_writes b hb
  have parsed : parseDir ((promotionWaits b).entry 3).ctx ((promotionWaits b).entry 3).dir cowDir.header = cowDir := by
    rw [ctx, dir]
    decide
  have named : (promotionWaits b).refsOf ((promotionWaits b).entry 3).pool
      ((promotionWaits b).pageIndex ((promotionWaits b).entry 3).pool (entryPage (fieldLE cowWord 0 8))) = .ok 1 := by
    rw [pool]
    rw [page, alone]
  rw [← ctx] at header word copies writes
  rw [← dir] at header
  rw [← parsed] at word copies writes
  obtain ⟨own, -⟩ := h (promotionWaits b) 0 3 0 0 1 Tests.block1 cowDir.header cowWord (leBytes noPage 4) rails (by decide) cow going block header
    word copies (by decide) named
  obtain ⟨t, run, -, ⟨store, -⟩, -⟩ := own (pageOwned b) rfl writes
  obtain ⟨t', run', undefined⟩ := cowCopy_record hb (State.cowPage_alone header word copies (by decide) named writes)
  obtain rfl := Host.Outcome.next.inj (run.symm.trans run')
  rw [← undefined, store, pageOwned_record b hb]

/-- Refutes O8: a promotion of an object that holds the page waits for the copy (R335) and starts when the copy ends. The tier manager then
notes it in the object's record in memory, in a layout that no rule gives (log 20), so that bytes change that the roster has not written. -/
theorem not_sharedPagesAreCopiedOnWrite : ¬ Obligations.SharedPagesAreCopiedOnWrite := by
  intro h
  have one := freeByte_of_sharedPagesAreCopied h (b := 1) (by decide)
  have two := freeByte_of_sharedPagesAreCopied h (b := 2) (by decide)
  exact absurd (one.symm.trans two) (by decide)

end Sys2Proof.Machine
end

section
/-!
PROOF. What an agent reads does not depend on the bytes that have come for another one (R99).
-/
namespace Sys2Proof.Machine

variable {s : State}

/-! ### Translation -/

theorem State.walkFrom_clearArrived (s : State) (a : Agent) (va : Nat) (w : Bool) (l : List (Nat × Nat × Nat × Nat)) :
    ∀ base, (s.clearArrived a).walkFrom va w l base = s.walkFrom va w l base := by
  induction l with
  | nil => exact fun _ => rfl
  | cons x l ih =>
    intro base
    unfold State.walkFrom
    simp only [ih]
    rfl

theorem State.translate_clearArrived (s : State) (a : Agent) (ctx va : Nat) (acc : Access) :
    (s.clearArrived a).translate ctx va acc = s.translate ctx va acc := by
  unfold State.translate State.leafOf
  simp only [State.walkFrom_clearArrived]
  rfl

theorem State.broken_clearArrived (s : State) (a : Agent) (src ctx x n : Nat) (k : Reach) :
    (s.clearArrived a).broken src ctx x n k = s.broken src ctx x n k := rfl

/-! ### Reads within a page -/

theorem State.readReg_clearArrived (s : State) (a : Agent) (o : Nat) : (s.clearArrived a).readReg o = s.readReg o := by
  have stored (p : Page) (i off : Nat) : (s.clearArrived a).storedReg p i off = s.storedReg p i off := by
    unfold State.storedReg
    rfl
  have computed (p : Page) (i off : Nat) : (s.clearArrived a).computedReg p i off = s.computedReg p i off := by
    unfold State.computedReg
    cases p <;> rfl
  unfold State.readReg
  simp only [stored, computed]
  rfl

theorem State.regRead_clearArrived (s : State) (a : Agent) (who : Requester) (o n : Nat) :
    ((s.clearArrived a).regRead who o n).1 = (s.regRead who o n).1 := by
  have bytes (o n : Nat) : (s.clearArrived a).readRegBytes o n = s.readRegBytes o n := by
    simp only [State.readRegBytes, State.readReg_clearArrived]
  have latched : (s.clearArrived a).latched = s.latched := rfl
  unfold State.regRead
  simp only [State.readReg_clearArrived, bytes, latched]
  repeat' split
  all_goals rfl

theorem State.rdLocal_clearArrived (s : State) (a : Agent) (x n : Nat) : (s.clearArrived a).rdLocal x n = s.rdLocal x n := by
  have mem : (s.clearArrived a).rdMem x n = s.rdMem x n := rfl
  have tok (k : Nat) : (s.clearArrived a).tok k = s.tok k := rfl
  have dev : (s.clearArrived a).dev = s.dev := rfl
  simp only [State.rdLocal, State.regRead_clearArrived, mem, tok, dev]

/-- What has come for an agent stays when another one is done with its bytes. -/
theorem State.arrivedAt_clearArrived {a b : Agent} (h : b ≠ a) (g n : Nat) : (s.clearArrived b).arrivedAt a g n = s.arrivedAt a g n := by
  unfold State.arrivedAt
  show Option.map _ ((s.arrived.filter _).find? _) = _
  rw [List.find?_filter]
  congr 2
  funext x
  by_cases hx : x.agent = a
  · simp [hx, h.symm]
  · simp [hx]

theorem State.readGpa_clearArrived {a b : Agent} (h : b ≠ a) (ctx g n : Nat) : (s.clearArrived b).readGpa a ctx g n = s.readGpa a ctx g n := by
  unfold State.readGpa
  simp only [State.arrivedAt_clearArrived h, State.rdLocal_clearArrived]
  rfl

theorem State.readPage_clearArrived {a b : Agent} (h : b ≠ a) (ctx : Nat) (x : Xlat) (n : Nat) :
    (s.clearArrived b).readPage a ctx x n = s.readPage a ctx x n := by
  unfold State.readPage
  simp only [State.arrivedAt_clearArrived h, State.readGpa_clearArrived h]
  rfl

/-! ### Reads of a span -/

theorem State.readPieces_clearArrived {a b : Agent} (h : b ≠ a) (ctx : Nat) (l : List (Nat × Nat)) :
    (s.clearArrived b).readPieces a ctx l = s.readPieces a ctx l := by
  induction l with
  | nil => rfl
  | cons p l ih => simp only [State.readPieces, State.translate_clearArrived, State.readPage_clearArrived h, ih]

theorem State.placed_clearArrived (s : State) (a : Agent) (ctx : Nat) (acc : Access) (l : List (Nat × Nat)) :
    (s.clearArrived a).placed ctx acc l = s.placed ctx acc l := by
  induction l with
  | nil => rfl
  | cons p l ih => simp only [State.placed, State.translate_clearArrived, ih]

/-- A read finds the same when another agent is done with its bytes. -/
theorem State.readV_clearArrived {a b : Agent} (h : b ≠ a) (ctx va n : Nat) : (s.clearArrived b).readV a ctx va n = s.readV a ctx va n := by
  unfold State.readV State.spanCheck
  simp only [State.placed_clearArrived, State.broken_clearArrived, State.readPieces_clearArrived h]
  rfl

end Sys2Proof.Machine
end

section
/-!
PROOF. ROSTER cues (R305, R313 to R316, R344): ADMIT, FORK and RELEASE record their requests for the next catch.
-/
namespace Sys2Proof.Machine

variable {s : State}

/-! ### A request is recorded (R316) -/

/-- Parts of a cue's action that end change the coxes only. -/
theorem State.cuePart_coxes (s : State) (c i st fl o : Nat) (d : List Byte) (n : Nat) :
    ∃ xs, s.cuePart c i st fl o d n = { s with coxes := xs } := by
  unfold State.cuePart
  dsimp only
  split
  · exact ⟨s.coxes, rfl⟩
  · exact ⟨_, rfl⟩

section
variable {u v : State} {c idx n : Nat} {r : RosReq} {f : State → State} (hu : f { v with rosReqs := v.rosReqs ++ [r] } = u)
  (room : v.rd ROS_REQ_COUNT + n ≤ 4096)
include hu room

/-- A request within the limit is recorded with what its command does at once, counted, and its cue is issued. -/
theorem State.recordReq_coxes : ∃ xs, v.recordReq c idx r n f = { u.bump ROS_REQ_COUNT n with coxes := xs } ∧
    ((v.recordReq c idx r n f).cox c).issued = idx :: (u.cox c).issued := by
  unfold State.recordReq
  extract_lets d u' b x w
  obtain rfl : u' = u := hu
  rw [if_neg (by omega)]
  obtain ⟨xs, part⟩ := w.cuePart_coxes c idx stSuccess 0 8 d 1
  have marks := State.calm_marks (w.calm_cuePart c idx stSuccess 0 8 d 1) c
  rw [State.cox_setCox_same] at marks
  refine ⟨xs, part, (congrArg CoxMarks.issued marks).trans ?_⟩
  exact congrArg Cox.issued (State.cox_issueCue (u'.bump ROS_REQ_COUNT n) c idx 1)

/-- What a cue leaves that has recorded a request, where its command has changed no register and no cox of its own. -/
theorem State.recordReq_leaves (s : State) (regs : u.regs = v.regs) (coxes : u.coxes = v.coxes) :
    let t := s.commit (v.recordReq c idx r n f)
    t.rosReqs = u.rosReqs ∧ t.rosPrev = u.rosPrev ∧ t.rd ROS_REQ_COUNT = v.rd ROS_REQ_COUNT + n ∧
      (t.cox c).issued = idx :: (v.cox c).issued ∧ u.foot t [ROS_REQ_COUNT.key 0 0] := by
  obtain ⟨xs, recorded, issued⟩ := State.recordReq_coxes (c := c) (idx := idx) hu room
  have counted : (u.bump ROS_REQ_COUNT n).rd ROS_REQ_COUNT = v.rd ROS_REQ_COUNT + n := by
    rw [State.bump_eq, State.rd_wr_same, State.rd_congr regs]
    exact Nat.mod_eq_of_lt (show _ < 2 ^ 32 by omega)
  refine ⟨?_, ?_, (State.rd_commit ..).trans ?_, issued.trans ?_, State.foot_commit ?_⟩
  · rw [State.commit_rosReqs, recorded]
    rfl
  · rw [State.commit_rosPrev, recorded]
    rfl
  · rw [recorded]
    exact counted
  · rw [State.cox, coxes]
    rfl
  · rw [recorded]
    exact State.foot_upd_of (State.foot_wr (List.mem_singleton_self _)) rfl rfl rfl rfl

end

/-- The bytes that have come for an agent are no register and no memory. -/
theorem State.foot_clearArrived (s : State) (a : Agent) (ks : List Nat) : s.foot (s.clearArrived a) ks := State.foot_of_eq rfl rfl rfl rfl

theorem State.clearArrived_keeps (s : State) (a : Agent) : (s.clearArrived a).regs = s.regs ∧ (s.clearArrived a).coxes = s.coxes ∧
    (s.clearArrived a).rosReqs = s.rosReqs := ⟨rfl, rfl, rfl⟩

/-- The same for a command that does nothing more at once, from a state with the registers, coxes and requests of another. -/
theorem State.recordReq_only {s v : State} {c idx n : Nat} {r : RosReq} (same : s.foot v [ROS_REQ_COUNT.key 0 0]) (regs : v.regs = s.regs)
    (coxes : v.coxes = s.coxes) (reqs : v.rosReqs = s.rosReqs) (room : s.rd ROS_REQ_COUNT + n ≤ 4096) :
    let t := s.commit (v.recordReq c idx r n id)
    t.rosReqs = s.rosReqs ++ [r] ∧ t.rd ROS_REQ_COUNT = s.rd ROS_REQ_COUNT + n ∧ (t.cox c).issued = idx :: (s.cox c).issued ∧ s.sameStore t ∧
      s.sameRegsBut t [ROS_REQ_COUNT.key 0 0] := by
  have count : v.rd ROS_REQ_COUNT = s.rd ROS_REQ_COUNT := State.rd_congr regs ..
  have crew : v.cox c = s.cox c := congrArg (fun l => Tab.look l c default) coxes
  let u : State := { v with rosReqs := v.rosReqs ++ [r] }
  obtain ⟨recorded, -, counted, issued, foot⟩ := State.recordReq_leaves (v := v) (c := c) (idx := idx) (n := n) (u := u) (r := r) (f := id) rfl
    (count ▸ room) s rfl rfl
  refine ⟨recorded.trans ?_, counted.trans ?_, issued.trans ?_, State.foot_then same (State.foot_then (t := u) (State.foot_of_eq rfl rfl rfl rfl) foot)⟩
  · exact congrArg (· ++ [r]) reqs
  · rw [count]
  · rw [crew]

/-! ### The three commands (R313, R315) -/

/-- The bytes of a list stand at the address from which they are stored, and every other byte stays. -/
theorem State.stored_wrMem (d : List Byte) : ∀ (s : State) (a : Nat), s.stored (s.wrMem a d) a d := by
  induction d with
  | nil =>
    intro s a x
    rw [if_neg (by simp only [List.length_nil]; omega)]
    rfl
  | cons b d ih =>
    intro s a x
    rw [State.wrMem, ih, State.rdByte_wrByte, List.length_cons]
    by_cases first : x = a
    · rw [if_neg (by omega), if_pos first, if_pos (by omega), first, Nat.sub_self, List.getD_cons_zero]
    · by_cases later : a + 1 ≤ x ∧ x < a + 1 + d.length
      · rw [if_pos later, if_pos (by omega), show x - a = x - (a + 1) + 1 by omega, List.getD_cons_succ]
      · rw [if_neg later, if_neg first, if_neg (by omega)]

theorem State.stored_setEntry (s : State) (x : REnt) : s.stored (s.setEntry x) (rosterAddr x.id) x.bytes :=
  State.stored_wrMem x.bytes s (rosterAddr x.id)

/-- An entry that RELEASE names moves to leaving; the state that it was in is kept for the FORKs of its catch (R319). -/
def State.leaveEntry (s : State) (e : Nat) : State :=
  { s.setEntry { s.entry e with state := 4 } with rosPrev := Tab.put s.rosPrev e (s.entry e).state }

theorem State.leaveEntry_keeps (s : State) (e : Nat) :
    (s.leaveEntry e).regs = s.regs ∧ (s.leaveEntry e).coxes = s.coxes ∧ (s.leaveEntry e).tokens = s.tokens ∧
      (s.leaveEntry e).rosReqs = s.rosReqs := by
  obtain ⟨m, moved⟩ := State.wrMem_mem { s.entry e with state := 4 }.bytes s (rosterAddr e)
  unfold State.leaveEntry State.setEntry
  rw [show ({ s.entry e with state := 4 } : REnt).id = e from rfl, moved]
  exact ⟨rfl, rfl, rfl, rfl⟩

theorem State.stored_leaveEntry (s : State) (e : Nat) : s.stored (s.leaveEntry e) (rosterAddr e) { s.entry e with state := 4 }.bytes := by
  have noted (u : State) (l : List (Nat × Nat)) (x : Nat) : ({ u with rosPrev := l } : State).rdByte x = u.rdByte x := rfl
  exact fun x => (noted (s.setEntry _) _ x).trans (s.stored_setEntry { s.entry e with state := 4 } x)

section
variable {c idx : Nat} {sh : Sheet} {q : Cue} {raw : List Byte} (hr : s.railsUp = true) (hc : c < 16)
  (h : s.readyCue c = some (sh, q, idx)) (hk : q.kind = 4) (hx : s.ctxRefuses sh.ctx = none) (hrec : s.recordStop sh.ctx q = none)
  (on : s.blk .ros = 1) (idle : s.rosWait = none) (read : s.readV (.cox c) sh.ctx q.ptr 128 = .ok raw)

include hc h hk read in
/-- The ready ROSTER cue of a crew is one of its command's operation. -/
theorem State.rosterCue_ready {op : Nat} (hop : fieldLE raw 0 1 = op) : s.rosterCue c op = true := by
  have issues : s.issues c 4 = true := hk ▸ State.issues_ready hc h
  simp [State.rosterCue, issues, h, read, hop]

include h hx hrec on idle read in
/-- The command of a ready ROSTER cue has been read, and the roster takes it. -/
theorem State.rosterIssue_ready (f : Nat → Nat → Nat → List Byte → State → State) :
    s.rosterIssue c f = f sh.ctx idx q.id raw (s.clearArrived (.cox c)) := by
  rw [State.rosterIssue, State.issueWith_ready h hx hrec, if_neg (by simp [on]), if_neg (by simp [idle]), read]

include hr hc h hk hx hrec on idle read

theorem exec_admission_records (hop : fieldLE raw 0 1 = 0x41) (ok : s.admitOk sh.ctx raw = true) :
    exec (.admission c) s = .next (s.commit ((s.clearArrived (.cox c)).recordReq c idx { ctx := sh.ctx, raw := raw, kids := [] } 1 id)) := by
  refine State.rails_eq hr (State.rosterCue_ready hc h hk read hop) ?_
  rw [admitEffect, State.rosterIssue_ready h hx hrec on idle read]
  exact if_pos ok

theorem exec_fork_records {b : List Byte} (hop : fieldLE raw 0 1 = 0x40) (ok : forkOk raw = true) (fresh : s.forkAborted = [])
    (kids : s.readV .roster sh.ctx (fieldLE raw 72 8) (16 * fieldLE raw 66 1) = .ok b) (kidsOk : kidsOk (fieldLE raw 66 1) b = true) :
    exec (.fork c) s = .next (s.commit (((s.clearArrived (.cox c)).clearArrived .roster).recordReq c idx
      { ctx := sh.ctx, raw := raw, kids := forkKids (fieldLE raw 66 1) b } (fieldLE raw 66 1) id)) := by
  refine State.rails_eq hr (State.rosterCue_ready hc h hk read hop) ?_
  have found : (s.clearArrived (.cox c)).forkAborted = [] := fresh
  have same : (s.clearArrived (.cox c)).readV .roster sh.ctx (fieldLE raw 72 8) (16 * fieldLE raw 66 1) = .ok b :=
    (State.readV_clearArrived (by simp) ..).trans kids
  rw [forkEffect, State.rosterIssue_ready h hx hrec on idle read]
  dsimp only
  rw [if_neg (by simp [hop, ok]), found, List.find?_nil]
  dsimp only
  rw [same]
  dsimp only
  rw [if_neg (by simp [kidsOk])]

omit hr hc hk in
/-- RELEASE of an entry that is neither free nor leaving records its request, and the entry moves to leaving. -/
theorem releaseEffect_records (ok : releaseOk raw = true) (used : (s.entry (fieldBits raw 64 0 14)).state ≠ 0)
    (stays : (s.entry (fieldBits raw 64 0 14)).state ≠ 4) (r : RosReq) (hreq : r = { ctx := sh.ctx, raw := raw, kids := [] }) :
    ∃ f : State → State, releaseEffect c s = (s.clearArrived (.cox c)).recordReq c idx r 1 f ∧
      f { s.clearArrived (.cox c) with rosReqs := s.rosReqs ++ [r] } =
        State.leaveEntry { s.clearArrived (.cox c) with rosReqs := s.rosReqs ++ [r] } (fieldBits raw 64 0 14) := by
  rw [releaseEffect, State.rosterIssue_ready h hx hrec on idle read]
  dsimp only
  rw [if_neg (by simp [ok]), ← hreq]
  exact ⟨_, rfl, (if_neg used).trans (if_neg stays)⟩

end

/-- Settles O13: each command records its request by `State.recordReq`; RELEASE alone does something at once. -/
theorem rosterCuesRecordTheirRequests : Obligations.RosterCuesRecordTheirRequests := by
  intro s c idx sh q raw hr hc h hk hx hrec on idle read
  let v := s.clearArrived (.cox c)
  have cleared : s.foot v [ROS_REQ_COUNT.key 0 0] := s.foot_clearArrived ..
  obtain ⟨regs, coxes, reqs⟩ := s.clearArrived_keeps (.cox c)
  refine ⟨fun hop ok room => ?admission, fun b hop ok fresh kids kidsOk room => ?fork, fun hop ok room used stays => ?release⟩
  case admission =>
    exact ⟨_, exec_admission_records hr hc h hk hx hrec on idle read hop ok, State.recordReq_only cleared regs coxes reqs room⟩
  case fork =>
    obtain ⟨regs', coxes', reqs'⟩ := v.clearArrived_keeps .roster
    exact ⟨_, exec_fork_records hr hc h hk hx hrec on idle read hop ok fresh kids kidsOk,
      State.recordReq_only (State.foot_then cleared (State.foot_clearArrived ..)) (regs'.trans regs) (coxes'.trans coxes) (reqs'.trans reqs) room⟩
  case release =>
    obtain ⟨f, effect, leaves⟩ := releaseEffect_records h hx hrec on idle read ok used stays _ rfl
    let w : State := { v with rosReqs := s.rosReqs ++ [{ ctx := sh.ctx, raw := raw, kids := [] }] }
    obtain ⟨regs', coxes', tokens, reqs'⟩ := w.leaveEntry_keeps (fieldBits raw 64 0 14)
    obtain ⟨recorded, prev, count, issued, ⟨bytes, toks⟩, others⟩ := State.recordReq_leaves (c := c) (idx := idx) leaves room s regs' coxes'
    refine ⟨_, State.rails_eq hr (State.rosterCue_ready hc h hk read hop) effect, recorded.trans reqs', count, issued, fun x => ?_, prev,
      fun k _ => (toks k).trans (State.tok_congr tokens k), fun g i j hg => (others g i j hg).trans (State.rd_congr regs' g i j)⟩
    exact (bytes x).trans (w.stored_leaveEntry (fieldBits raw 64 0 14) x)

end Sys2Proof.Machine
end

section
/-!
PROOF. Writes of the roster keep the registers of the pools and add no object: an invariant of the stores of this device, of operations on
other devices and of copies for a checkpoint.
-/
namespace Sys2Proof.Machine

/-! ### The part of the state that writes leave -/

/-- ENABLE, FAULTED and FREE of the pools lie at keys like these: the pools' registers begin at byte 0x60200 and take 64 bytes each. -/
abbrev poolKey (k : Nat) : Prop := 0x60200 * 8 ≤ k ∧ (k % 512 = 256 ∨ k % 512 = 266 ∨ k % 512 = 320)

/-- The registers of the pools, and the numbers of the objects. -/
structure PoolView where
  regs : Nat → Option Nat
  objs : List Nat

def State.pools (s : State) : PoolView := ⟨regsOf poolKey s.regs, s.objs.map Prod.fst⟩

variable {s t u : State}

theorem State.pools_congr (regs : t.regs = s.regs) (objs : t.objs = s.objs) : t.pools = s.pools := by
  unfold State.pools
  rw [regs, objs]

theorem State.pools_wr {f : Fld} {v i j : Nat} (h : ¬ poolKey (f.key i j)) : (s.wr f v i j).pools = s.pools :=
  congrArg (fun r => (⟨r, s.objs.map Prod.fst⟩ : PoolView)) (regsOf_set h)

theorem State.pools_bump {f : Fld} {n i j : Nat} (h : ¬ poolKey (f.key i j)) : (s.bump f n i j).pools = s.pools := State.pools_wr h

theorem State.pools_foldl {α : Type} (g : State → α → State) (hg : ∀ (t : State) x, (g t x).pools = t.pools) (l : List α) (s : State) :
    (l.foldl g s).pools = s.pools := State.foldl_keep State.pools g hg l s

/-! ### Stores on this device -/

theorem State.pools_logEv (p : Page) (i a b c d : Nat) : (s.logEv p i a b c d).pools = s.pools := by
  unfold State.logEv State.logFrom
  split
  · rfl
  · exact State.pools_bump (by decide)

theorem State.pools_undefine (a n : Nat) : (s.undefine a n).pools = s.pools := by
  unfold State.undefine
  split <;> rfl

theorem State.pools_wrMem (d : List Byte) (a : Nat) : (s.wrMem a d).pools = s.pools := by
  obtain ⟨m, h⟩ := State.wrMem_mem d s a
  rw [h]
  rfl

theorem State.pools_noteMoves (g n : Nat) : (s.noteMoves g n).pools = s.pools := by
  unfold State.noteMoves
  split
  · simp only [State.pools, List.map_map]
    rfl
  · rfl

theorem State.pools_noteWrite (a n : Nat) : (s.noteWrite a n).pools = s.pools := by
  have cleansed (u : State) : (if u.poison.isEmpty = true then u else u.cleanse a n).pools = u.pools := by split <;> rfl
  unfold State.noteWrite
  refine (cleansed _).trans ((State.pools_noteMoves ..).trans ?_)
  split <;> rfl

theorem State.pools_noteLengths (a n : Nat) : (s.noteLengths a n).pools = s.pools := by
  unfold State.noteLengths
  split
  · exact State.pools_undefine ..
  · rfl

theorem State.pools_store (a wop : Nat) (sched : Bool) (data : List Byte) : (s.store a wop sched data).pools = s.pools := by
  have stored (d : List Byte) : (((s.wrMem a d).noteWrite a d.length).noteLengths a d.length).pools = s.pools := by
    rw [State.pools_noteLengths, State.pools_noteWrite, State.pools_wrMem]
  have touched (u : State) (l : List (Nat × Nat)) : ({ u with touched := l } : State).pools = u.pools := rfl
  unfold State.store
  dsimp only
  split
  · exact (touched _ _).trans (stored _)
  · exact stored _

theorem State.pools_account (ctx a n : Nat) : (s.account ctx a n).pools = s.pools := by
  unfold State.account
  split
  · exact State.pools_bump (by simp [Fld.key, Page.base, CTX_ACC_HBM]; omega)
  · exact State.pools_bump (by simp [Fld.key, Page.base, CTX_ACC_LPD]; omega)
  · rfl

theorem State.pools_changeTok (k : Nat) (v : Word) (b : Bool) : (s.changeTok k v b).pools = s.pools := by
  unfold State.changeTok State.stray
  split
  · rw [State.pools_logEv, State.pools_bump (by decide)]
    rfl
  · rfl

/-! ### Operations on other devices -/

theorem State.pools_barAnswer (f a : Nat) (d : Option (List Byte)) : (s.barAnswer f a d).pools = s.pools := by
  cases d with
  | none => rfl
  | some d =>
    have acc : ¬ poolKey (CTX_ACC_HOST.key f 0) := by simp [Fld.key, Page.base, CTX_ACC_HOST]; omega
    exact (State.pools_bump acc).trans (State.pools_bump (by decide))

theorem State.pools_errUncorr_dev : (s.errUncorr .dev).pools = s.pools := by
  rw [State.errUncorr, State.cause_eq, State.pools_wr (by decide), State.bumpSat, State.pools_wr (by decide)]

theorem State.pools_cuePart (c i a b d : Nat) (l : List Byte) (n : Nat) : (s.cuePart c i a b d l n).pools = s.pools := by
  obtain ⟨xs, h⟩ := s.cuePart_coxes c i a b d l n
  rw [h]
  rfl

/-- Whoever learns how an operation has ended, the pools stay. -/
theorem State.pools_finishOp (o : RemOp) : (s.finishOp o).pools = s.pools := by
  unfold State.finishOp
  extract_lets status
  cases o.owner with
  | cue c idx => exact State.pools_cuePart ..
  | bar f tag =>
    dsimp only
    split
    · rfl
    · split
      · exact State.pools_barAnswer ..
      · split <;> rfl
  | message =>
    dsimp only
    split
    · rfl
    · exact State.pools_errUncorr_dev
  | summary =>
    dsimp only
    split
    · rfl
    · exact State.pools_errUncorr_dev
  | agent a =>
    dsimp only
    split <;> rfl
  | core i => rfl
  | chan e ch => rfl
  | gone => rfl

theorem State.pools_sendRequest (q op : Nat) (x : Packet) (dest : Option Nat) : (s.sendRequest q op x dest).pools = s.pools := by
  unfold State.sendRequest
  dsimp only
  split
  · rfl
  · exact State.pools_bump (by simp [Fld.key, Page.base, LNK_SLOTS_USED_COUNT]; omega)

theorem State.pools_answer (op a d st : Nat) : (s.answer op a d st).pools = s.pools := by
  unfold State.answer
  split
  · rfl
  · extract_lets v w o'
    have noted : v.pools = s.pools := by
      show State.pools (if _ then _ else s) = _
      split <;> rfl
    split
    · exact noted
    · split
      · split
        · exact (State.pools_sendRequest ..).trans noted
        · exact (State.pools_finishOp _).trans noted
      · exact (State.pools_finishOp _).trans noted

theorem State.pools_sendOrFail (op : Nat) (x : Packet) (dest : Option Nat) : (s.sendOrFail op x dest).pools = s.pools := by
  unfold State.sendOrFail
  split
  · split
    · exact State.pools_answer ..
    · exact State.pools_sendRequest ..
  · exact State.pools_answer ..

theorem State.pools_putPieces (op ctx : Nat) (sched : Bool) (g : Nat) (data : List Byte) (l : List (Nat × Nat)) :
    ∀ s : State, (s.putPieces op ctx sched g data l).pools = s.pools := by
  induction l with
  | nil => exact fun _ => rfl
  | cons x l ih => exact fun s => (ih _).trans (State.pools_sendOrFail ..)

theorem State.pools_remotePut (o : Owner) (ctx : Nat) (sched : Bool) (g : Nat) (data : List Byte) :
    (s.remotePut o ctx sched g data).pools = s.pools := by
  unfold State.remotePut
  dsimp only
  split
  · rfl
  · refine (State.pools_putPieces ..).trans ?_
    cases o <;> rfl

theorem State.pools_failedHere (o : Owner) (ctx a : Nat) (sched : Bool) (st : Nat) : (s.failedHere o ctx a sched st).pools = s.pools := by
  refine (State.pools_finishOp _).trans ?_
  cases o <;> rfl

/-! ### Host memory -/

theorem State.pools_msixSend (f v : Nat) : (s.msixSend f v).pools = s.pools := by
  unfold State.msixSend
  split <;> rfl

theorem State.pools_triggerPut (ctx a : Nat) (data : List Byte) : (s.triggerPut ctx a data).2.pools = s.pools := by
  unfold State.triggerPut
  dsimp only
  split
  · exact State.pools_bump (by decide)
  · split
    · exact State.pools_bump (by decide)
    · exact State.pools_msixSend ..

theorem State.pools_hostPut (ctx a : Nat) (data : List Byte) : (s.hostPut ctx a data).2.pools = s.pools := by
  have acc : ¬ poolKey (CTX_ACC_HOST.key ctx 0) := by simp [Fld.key, Page.base, CTX_ACC_HOST]; omega
  unfold State.hostPut
  dsimp only
  split
  · exact State.pools_triggerPut ..
  · split
    · rfl
    · exact (State.pools_bump acc).trans (State.pools_bump (by decide))

/-! ### Writes of a context (R140) -/

theorem State.pools_rcWrite (o : Owner) (g n : Nat) : (s.rcWrite o g n).pools = s.pools := by
  obtain ⟨a, l, h⟩ := s.rcWrite_cache o g n
  rw [h]
  rfl

theorem State.pools_undefineObj (o : Obj) : (s.undefineObj o).pools = s.pools := by
  refine State.pools_foldl _ (fun t f => ?_) _ s
  split
  · exact State.pools_undefine ..
  · rfl

theorem State.pools_spoilPools (g n : Nat) : (s.spoilPools g n).pools = s.pools := by
  have wild (u : State) (l : List Nat) : ({ u with wildPools := l } : State).pools = u.pools := rfl
  unfold State.spoilPools
  dsimp only
  split
  · rfl
  · refine (wild _ _).trans (State.pools_foldl _ (fun t k => ?_) _ s)
    split
    · rfl
    · split
      · exact State.pools_undefineObj _
      · rfl

theorem State.pools_writeGpa (o : Owner) (ctx g wop : Nat) (sched : Bool) (data : List Byte) :
    (s.writeGpa o ctx g wop sched data).pools = s.pools := by
  unfold State.writeGpa
  extract_lets v w a r
  have spoilt : w.pools = s.pools := by
    refine Eq.trans ?_ (State.pools_rcWrite o g data.length)
    show State.pools (if _ then v else _) = _
    split
    · rfl
    · exact State.pools_spoilPools ..
  split
  · split
    · exact (State.pools_changeTok ..).trans spoilt
    · exact spoilt
    · have put : r.2.pools = w.pools := State.pools_hostPut ..
      split
      · exact put.trans spoilt
      · exact (State.pools_failedHere ..).trans (put.trans spoilt)
    · exact (State.pools_account ..).trans ((State.pools_store ..).trans spoilt)
  · exact (State.pools_remotePut ..).trans ((State.pools_noteMoves ..).trans spoilt)

theorem State.pools_writePieces (o : Owner) (ctx : Nat) (sched : Bool) (l : List (Nat × Nat)) :
    ∀ (s : State) (data : List Byte), (s.writePieces o ctx sched data l).pools = s.pools := by
  induction l with
  | nil => exact fun _ _ => rfl
  | cons x l ih =>
    intro s data
    unfold State.writePieces
    split
    · exact ih ..
    · exact (ih ..).trans (State.pools_writeGpa ..)

theorem State.pools_writeV (o : Owner) (ctx va : Nat) (sched : Bool) (data : List Byte) : (s.writeV o ctx va sched data).pools = s.pools :=
  State.pools_writePieces ..

theorem State.pools_writeAll (o : Owner) (ctx : Nat) (sched : Bool) (l : List Write) :
    ∀ s : State, (s.writeAll o ctx sched l).pools = s.pools := by
  induction l with
  | nil => exact fun _ => rfl
  | cons w l ih => exact fun s => (ih _).trans (State.pools_writeV ..)

/-! ### Frames of a checkpoint are copied (R492, R494) -/

theorem State.pools_putRaw (g : Nat) (data : List Byte) : (s.putRaw g data).pools = s.pools := by
  unfold State.putRaw
  split
  · split
    · rfl
    · rw [State.pools_noteWrite, State.pools_wrMem]
  · exact State.pools_remotePut ..

theorem State.pools_copyFrame (f : Nat) : (s.copyFrame f).pools = s.pools := by
  have cleared (u : State) : (u.clearCkptBit f).pools = u.pools := (State.pools_noteWrite ..).trans rfl
  have noted (u : State) (l : List Nat) : ({ u with ckptFrames := l } : State).pools = u.pools := rfl
  unfold State.copyFrame
  dsimp only
  split
  · rw [State.breakCkpt, State.pools_logEv, State.pools_putRaw, State.pools_wr (by decide)]
  · rw [State.pools_bump (by decide), State.pools_wr (by decide), noted, cleared, State.pools_putRaw, State.pools_putRaw]

theorem State.pools_copyHeld (a n : Nat) : (s.copyHeld a n).pools = s.pools := by
  unfold State.copyHeld
  split
  · rfl
  · refine State.pools_foldl _ (fun t f => ?_) _ s
    split
    · exact State.pools_copyFrame f
    · rfl

/-! ### Writes of the roster -/

theorem State.pools_rosReady {ctx : Nat} {ws : List Write} (n : Nat) : ∀ {s t : State}, s.rosReady ctx ws n = .ok t → t.pools = s.pools := by
  induction n with
  | zero => exact fun h => nomatch h
  | succ n ih =>
    intro s t h
    unfold State.rosReady at h
    split at h
    · exact Except.ok.inj h ▸ rfl
    · exact (ih h).trans (State.pools_copyFrame _)
    · cases h

theorem State.pools_patchArrived (ctx : Nat) (ws : List Write) : (s.patchArrived ctx ws).pools = s.pools := by
  unfold State.patchArrived
  split
  · rfl
  · refine State.pools_foldl _ (fun t w => State.pools_foldl _ (fun v q => ?_) _ t) _ s
    split <;> rfl

/-- A write of the roster leaves the pools' registers and the numbers of the objects. -/
theorem State.pools_rosWrite {ctx : Nat} {ws : List Write} (h : s.rosWrite ctx ws = .ok u) : u.pools = s.pools := by
  unfold State.rosWrite at h
  split at h
  next v ready =>
    obtain rfl := Except.ok.inj h
    rw [State.pools_patchArrived, State.pools_writeAll, State.pools_rosReady _ ready]
  next => cases h

end Sys2Proof.Machine
end

section
/-!
PROOF. Fault records, completions of tier commands and changed leaves keep the registers of the pools and add no object.
-/
namespace Sys2Proof.Machine

variable {s t u : State}

/-! ### Messages and faults of the translation -/

theorem State.pools_putWord (o : Owner) (ctx g : Nat) (w : List Byte) : (s.putWord o ctx g w).pools = s.pools := by
  unfold State.putWord
  split
  · split
    · exact State.pools_failedHere ..
    · exact State.pools_writeGpa ..
  · exact State.pools_remotePut ..

theorem State.pools_msix (ctx v : Nat) : (s.msix ctx v).pools = s.pools := State.pools_putWord ..

theorem State.pools_reportFault (n : Nat) : (s.reportFault n).pools = s.pools := by
  have noted (u : State) (l : List (Nat × FaultSlot)) : ({ u with slots := l } : State).pools = u.pools := rfl
  unfold State.reportFault
  split
  · rfl
  · dsimp only
    split
    · exact State.pools_wr (by decide)
    · split
      · rfl
      · rfl
      · rw [State.on, State.pools_wr (by decide), State.on, State.pools_wr (by decide)]
      · rw [State.pools_msix, State.pools_bump (by decide), noted, State.pools_writeV]

theorem State.pools_takeFault (ag : Agent) (ctx va level : Nat) (write : Bool) (id : Nat) :
    (s.takeFault ag ctx va level write id).pools = s.pools := by
  have noted (u : State) (l : List (Nat × FaultSlot)) (g : List (Nat × Nat)) : ({ u with slots := l, slotGen := g } : State).pools = u.pools := rfl
  unfold State.takeFault
  split
  · split
    · rfl
    · exact State.pools_bump (by decide)
  · dsimp only
    split
    · split <;> rfl
    · rw [State.pools_reportFault, State.pools_bump (by decide), State.pools_bump (by decide), noted]

theorem State.pools_markLost (ctx : Nat) : (s.markLost ctx).pools = s.pools := by
  have state : ¬ poolKey (CTX_STAT_STATE.key ctx 0) := by simp [Fld.key, Page.base, CTX_STAT_STATE]; omega
  have preempt : ¬ poolKey (CTX_CTL_PREEMPT.key ctx 0) := by simp [Fld.key, Page.base, CTX_CTL_PREEMPT]; omega
  have resume : ¬ poolKey (CTX_CTL_RESUME.key ctx 0) := by simp [Fld.key, Page.base, CTX_CTL_RESUME]; omega
  exact (State.pools_wr resume).trans ((State.pools_wr preempt).trans (State.pools_wr state))

theorem State.pools_reportLost (f : FaultSlot) : (s.reportLost f).pools = s.pools := by
  unfold State.reportLost
  split
  · rfl
  · extract_lets v w
    have reported : w.pools = s.pools := State.pools_reportFault _
    split
    · split
      · exact reported
      · exact (State.pools_bump (by decide)).trans reported
    · exact reported

theorem State.pools_loseContext (ctx va level : Nat) (write : Bool) (ag : Agent) (id : Nat) :
    (s.loseContext ctx va level write ag id).pools = s.pools := by
  unfold State.loseContext
  split
  · rfl
  · rw [State.pools_reportLost, State.pools_markLost]

/-! ### The tier manager writes records and leaves -/

theorem State.pools_tierDone (raw : List Byte) (status flags obj tier state : Nat) :
    (s.tierDone raw status flags obj tier state).pools = s.pools := by
  have fin (u : State) : ({ (u.clearArrived .tier).bump TIER_RING_HEAD with tierCmd := none } : State).pools = u.pools :=
    State.pools_bump (s := u.clearArrived .tier) (by decide)
  unfold State.tierDone
  dsimp only
  split
  · exact fin _
  · split
    · exact (fin _).trans (State.pools_writeV ..)
    · exact State.pools_takeFault ..
    · exact (fin _).trans (State.pools_loseContext ..)
    · exact fin _

theorem State.pools_putLeaf (a v : Nat) : (s.putLeaf a v).pools = s.pools := by
  rw [State.putLeaf, State.pools_noteWrite, State.wrLE, State.pools_wrMem, State.pools_copyHeld]

theorem State.pools_mapPage (o : Obj) (va f : Nat) : (s.mapPage o va f).pools = s.pools := by
  unfold State.mapPage
  split
  · exact State.pools_putLeaf ..
  · rfl

end Sys2Proof.Machine
end

section
/-!
PROOF. Registration of a pool's pages (R334, R422) and the hint of its objects change objects, and keep the registers of the pools.
-/
namespace Sys2Proof.Machine

variable {s t u : State}

/-! ### Objects change, the pools' registers stay -/

/-- The registers of the pools: those of `State.pools`. -/
def State.poolRegs (s : State) : Nat → Option Nat := regsOf poolKey s.regs

theorem State.poolRegs_of_pools (h : t.pools = s.pools) : t.poolRegs = s.poolRegs := congrArg PoolView.regs h

theorem State.poolRegs_wr {f : Fld} {v i j : Nat} (h : ¬ poolKey (f.key i j)) : (s.wr f v i j).poolRegs = s.poolRegs := regsOf_set h

theorem State.poolRegs_foldl {α : Type} (g : State → α → State) (hg : ∀ (t : State) x, (g t x).poolRegs = t.poolRegs) (l : List α)
    (s : State) : (l.foldl g s).poolRegs = s.poolRegs := State.foldl_keep State.poolRegs g hg l s

/-- A field of a pool reads the same in two states with the same pools' registers. -/
theorem State.rd_of_poolRegs (h : t.poolRegs = s.poolRegs) {f : Fld} {i j : Nat} (hk : poolKey (f.key i j)) : t.rd f i j = s.rd f i j := by
  have same : regsOf poolKey t.regs (f.key i j) = regsOf poolKey s.regs (f.key i j) := congrFun h _
  rw [regsOf, regsOf, if_pos hk, if_pos hk] at same
  simp only [State.rd, Tab.look, same]

theorem State.poolRegs_noteObj (id : Nat) : (s.noteObj id).poolRegs = s.poolRegs := by
  unfold State.noteObj
  extract_lets counted shown
  have kept : shown.poolRegs = s.poolRegs := by
    rw [State.poolRegs_wr (by decide), State.poolRegs_wr (by decide), State.poolRegs_wr (by decide)]
  split
  · exact (State.poolRegs_of_pools (State.pools_undefine ..)).trans kept
  · exact kept

theorem State.poolRegs_setObj (id : Nat) (o : Obj) : (s.setObj id o).poolRegs = s.poolRegs := State.poolRegs_noteObj ..

theorem State.poolRegs_delObj (id : Nat) : (s.delObj id).poolRegs = s.poolRegs := State.poolRegs_noteObj ..

theorem State.poolRegs_mapPages (o : Obj) (l : List (Nat × Nat)) (s : State) :
    (l.foldl (fun (t : State) p => t.mapPage o p.1 p.2) s).poolRegs = s.poolRegs :=
  State.poolRegs_foldl _ (fun _ _ => State.poolRegs_of_pools (State.pools_mapPage ..)) l s

/-- The count of a tier's used frames is no register of a pool. -/
theorem not_poolKey_used (t q : Nat) : ¬ poolKey ((poolFlds t).2.key 0 q) := by
  unfold poolFlds
  split
  · simp [Fld.key, Page.base, TIER_POOL_HBM_USED]; omega
  · simp [Fld.key, Page.base, TIER_POOL_LPD_USED]; omega
  · simp [Fld.key, Page.base, TIER_POOL_NBR_USED]; omega

theorem State.poolRegs_addUsed (ctx t n : Nat) : (s.addUsed ctx t n).poolRegs = s.poolRegs := State.poolRegs_wr (not_poolKey_used _ _)

theorem State.poolRegs_subUsed (ctx t n : Nat) : (s.subUsed ctx t n).poolRegs = s.poolRegs := State.poolRegs_wr (not_poolKey_used _ _)

/-! ### Moves of objects -/

theorem State.poolRegs_alloc {t n : Nat} (k : Nat) : ∀ {s u : State} {used : List (Nat × Nat)} {fs : List Nat},
    s.alloc t n used k = some (fs, u) → u.poolRegs = s.poolRegs := by
  induction k with
  | zero =>
    intro s u used fs h
    cases h
    rfl
  | succ k ih =>
    intro s u used fs h
    rw [State.alloc] at h
    dsimp only at h
    split at h
    · cases h
    · split at h
      next rest =>
        cases h
        exact (ih rest).trans rfl
      next => cases h

theorem State.poolRegs_take {ctx t n count : Nat} {fs : List Nat} (h : s.take ctx t n count = some (fs, u)) : u.poolRegs = s.poolRegs := by
  unfold State.take at h
  dsimp only at h
  split at h
  · cases h
  · split at h
    next taken =>
      cases h
      exact (State.poolRegs_addUsed ..).trans (State.poolRegs_alloc _ taken)
    next => cases h

theorem State.poolRegs_startMove {id t : Nat} {o : Obj} (h : s.startMove id o t = some u) : u.poolRegs = s.poolRegs := by
  unfold State.startMove at h
  split at h
  · cases h
  · next taken =>
    cases h
    exact (State.poolRegs_setObj ..).trans (State.poolRegs_take taken)

theorem State.poolRegs_settleScale (id : Nat) : (s.settleScale id).poolRegs = s.poolRegs := by
  unfold State.settleScale
  split
  · extract_lets mine best sc v
    have noted : v.poolRegs = s.poolRegs := State.poolRegs_setObj ..
    split
    · rfl
    · split
      · exact (State.poolRegs_setObj ..).trans noted
      · split
        · exact noted
        · cases started : v.startMove id sc best with
          | none => exact noted
          | some w => exact (State.poolRegs_startMove started).trans noted
  · rfl

theorem State.poolRegs_dropMove (id : Nat) (o : Obj) (status : Nat) : (s.dropMove id o status).poolRegs = s.poolRegs := by
  unfold State.dropMove
  split
  · next m _ =>
    extract_lets v w
    have noted : v.poolRegs = s.poolRegs := (State.poolRegs_setObj ..).trans (State.poolRegs_subUsed ..)
    have mapped : w.poolRegs = s.poolRegs := by
      refine Eq.trans ?_ noted
      show State.poolRegs (if _ then _ else v) = _
      split
      · exact State.poolRegs_mapPages ..
      · rfl
    split
    · split
      · exact (State.poolRegs_of_pools (State.pools_tierDone ..)).trans mapped
      · exact mapped
    · exact mapped
  · rfl

/-! ### Pools register their pages -/

theorem State.poolRegs_newId : s.newId.2.poolRegs = s.poolRegs := rfl

theorem State.poolRegs_takePages {ctx more : Nat} {big : Bool} {vas : List Nat} {gs : List (List (Nat × Nat) × Nat)}
    (h : s.takePages ctx big vas more = some (gs, u)) : u.poolRegs = s.poolRegs := by
  unfold State.takePages at h
  dsimp only at h
  split at h
  · cases h
  · cases h
    refine State.poolRegs_foldl _ (fun t o => ?_) _ s
    have dropped : (t.dropMove o.1 o.2 stBusy).poolRegs = t.poolRegs := State.poolRegs_dropMove ..
    split
    · exact (State.poolRegs_delObj ..).trans dropped
    · refine (State.poolRegs_foldl _ (fun v q => ?_) _ _).trans ((State.poolRegs_setObj ..).trans dropped)
      exact (State.poolRegs_setObj (s := v.newId.2) v.newId.1 _).trans State.poolRegs_newId

theorem State.poolRegs_newRosObj (id : Nat) (o : Obj) : (s.newRosObj id o).poolRegs = s.poolRegs := by
  unfold State.newRosObj
  dsimp only
  split
  · exact (State.poolRegs_mapPages ..).trans (State.poolRegs_setObj ..)
  · exact State.poolRegs_setObj ..

theorem State.poolRegs_registerPool (p ctx page scale first count hint : Nat) :
    (s.registerPool p ctx page scale first count hint).poolRegs = s.poolRegs := by
  unfold State.registerPool
  extract_lets mine v scales
  have paged : v.poolRegs = s.poolRegs := by
    refine State.poolRegs_foldl _ (fun t va => ?_) _ s
    split
    · next w taken =>
      exact (State.poolRegs_newRosObj (s := w.newId.2) w.newId.1 _).trans (State.poolRegs_newId.trans (State.poolRegs_takePages taken))
    · rfl
  split
  · exact paged
  · refine (State.poolRegs_foldl _ (fun t va => ?_) _ v).trans paged
    split
    · next taken =>
      exact (State.poolRegs_settleScale _).trans ((State.poolRegs_setObj ..).trans (State.poolRegs_takePages taken))
    · rfl

theorem State.poolRegs_rehint (h : Nat) (o : Nat × Obj) : (s.rehint h o).poolRegs = s.poolRegs := by
  unfold State.rehint
  extract_lets old new v
  have noted : v.poolRegs = s.poolRegs := State.poolRegs_setObj ..
  split
  · exact noted
  · exact (State.poolRegs_mapPages ..).trans noted

theorem State.poolRegs_rehintPool (p : Nat) : (s.rehintPool p).poolRegs = s.poolRegs :=
  State.poolRegs_foldl _ (fun _ _ => State.poolRegs_rehint ..) _ s

end Sys2Proof.Machine
end

section
/-!
PROOF. POOL_ENABLE and ROS_POOL_ADD (R308, R339 to R341).
-/
namespace Sys2Proof.Machine

variable {s t u : State} {p : Nat}

/-- Two fields that lie at different bits of the items of one page. -/
abbrev Fld.beside (f g : Fld) : Prop := f.page = g.page ∧ f.stride = g.stride ∧ f.off * 8 + f.lo ≠ g.off * 8 + g.lo

/-- A write of a field leaves those beside it in its item. -/
theorem State.rd_wr_beside {f g : Fld} (h : f.beside g) (v i j : Nat) : (s.wr g v i j).rd f i j = s.rd f i j := by
  obtain ⟨page, stride, place⟩ := h
  refine State.rd_wr_ne _ (fun same => place ?_) v
  unfold Fld.key at same
  rw [page, stride] at same
  omega

/-- What a command leaves stores what its effect stores. -/
theorem State.sameStore_commit {v : State} (h : s.sameStore t) : s.sameStore (v.commit t) :=
  ⟨fun a => (State.rdByte_commit ..).trans (h.1 a), fun k => (State.tok_commit ..).trans (h.2 k)⟩

/-! ### A pool is enabled (R334, R340) -/

/-- ENABLE and FREE of a pool that is enabled. -/
def State.shownEnabled (s : State) (p free : Nat) : State := (s.on ROS_POOL_CTL_ENABLE 0 p).wr ROS_POOL_FREE_FREE free 0 p

theorem State.shownEnabled_enable (n : Nat) : (s.shownEnabled p n).is ROS_POOL_CTL_ENABLE 0 p = true := by
  rw [State.is, State.shownEnabled, State.rd_wr_beside (by decide)]
  exact State.is_wr_one s _ _ _ rfl

theorem State.shownEnabled_faulted (n : Nat) : (s.shownEnabled p n).rd ROS_POOL_CTL_FAULTED 0 p = s.rd ROS_POOL_CTL_FAULTED 0 p := by
  rw [State.shownEnabled, State.rd_wr_beside (by decide), State.on, State.rd_wr_beside (by decide)]

theorem State.shownEnabled_free (n : Nat) : (s.shownEnabled p n).poolFreeCount p = n % 2 ^ ROS_POOL_FREE_FREE.w := State.rd_wr_same ..

theorem State.sameStore_shownEnabled (n : Nat) : s.sameStore (s.shownEnabled p n) := ⟨fun _ => rfl, fun _ => rfl⟩

/-- A pool of a number of pages is enabled: its pages and its scale pages are registered, and its objects take its hint. -/
def State.poolUp (s : State) (p n free : Nat) : State :=
  ((s.shownEnabled p free).registerPool p (s.poolCtx p) (s.rd ROS_POOL_PAGE_BASE 0 p) (s.rd ROS_POOL_SCALE_BASE 0 p) 0 n
    (s.rd ROS_POOL_CTL_HINT 0 p)).rehintPool p

/-- The registration of a pool leaves what the enabled pool shows. -/
theorem State.poolRegs_poolUp (n free : Nat) : (s.poolUp p n free).poolRegs = (s.shownEnabled p free).poolRegs :=
  (State.poolRegs_rehintPool p).trans (State.poolRegs_registerPool ..)

theorem poolKey_enable (p : Nat) : poolKey (ROS_POOL_CTL_ENABLE.key 0 p) := by simp [Fld.key, Page.base, ROS_POOL_CTL_ENABLE]; omega
theorem poolKey_faulted (p : Nat) : poolKey (ROS_POOL_CTL_FAULTED.key 0 p) := by simp [Fld.key, Page.base, ROS_POOL_CTL_FAULTED]; omega
theorem poolKey_free (p : Nat) : poolKey (ROS_POOL_FREE_FREE.key 0 p) := by simp [Fld.key, Page.base, ROS_POOL_FREE_FREE]; omega

theorem State.registerPool_of_empty (h : s.objs = []) (p ctx page scale first count hint : Nat) :
    s.registerPool p ctx page scale first count hint = s := by
  simp [State.registerPool, h]

theorem State.rehintPool_of_settled (h : s.offHint p = []) : s.rehintPool p = s := by
  rw [State.rehintPool, h, List.foldl_nil]

/-- Without objects, nothing is registered. -/
theorem State.poolUp_of_empty (h : s.objs = []) (n free : Nat) : s.poolUp p n free = s.shownEnabled p free := by
  have empty : (s.shownEnabled p free).objs = [] := h
  have settled : (s.shownEnabled p free).offHint p = [] := by rw [State.offHint, empty, List.filter_nil]
  rw [State.poolUp, State.registerPool_of_empty empty, State.rehintPool_of_settled settled]

/-! ### The writes of a pool that is enabled anew (R308, R340) -/

/-- A pool that is about to be enabled: FAULTED is clear, and the pool is no longer one whose words others wrote. -/
def State.poolReset (s : State) (p : Nat) : State := ({ s with wildPools := s.wildPools.filter (· != p) } : State).off ROS_POOL_CTL_FAULTED 0 p

theorem State.rd_poolReset {f : Fld} (h : f.beside ROS_POOL_CTL_FAULTED) : (s.poolReset p).rd f 0 p = s.rd f 0 p :=
  (State.rd_wr_beside h ..).trans rfl

/-- The zeros of the reference array, and the free stack of a pool of which every page is free. -/
def State.poolWrites (s : State) (p : Nat) : List Write :=
  [{ va := s.refAddr p 0, data := leBytes 0 (2 * s.poolSize p) },
   { va := s.stackAddr p 0, data := (List.range (s.poolSize p)).flatMap (fun k => leBytes (s.poolSize p - 1 - k) 4) }]

theorem State.startPool_writes (fresh : s.is ROS_POOL_CTL_RESTORE 0 p = false)
    (h : (s.poolReset p).rosWrite (s.poolCtx p) (s.poolWrites p) = .ok u) : s.startPool p = u.poolUp p (s.poolSize p) (s.poolSize p) := by
  have ctx : (s.poolReset p).poolCtx p = s.poolCtx p := State.rd_poolReset (by decide)
  have refs : (s.poolReset p).refAddr p 0 = s.refAddr p 0 := congrArg (· + 2 * 0) (State.rd_poolReset (by decide))
  have stack : (s.poolReset p).stackAddr p 0 = s.stackAddr p 0 := congrArg (· + 4 * 0) (State.rd_poolReset (by decide))
  have restore : (s.poolReset p).is ROS_POOL_CTL_RESTORE 0 p = false :=
    (congrArg (fun v => v != 0) (State.rd_poolReset (by decide))).trans fresh
  rw [State.poolWrites, ← ctx, ← refs, ← stack] at h
  unfold State.startPool
  extract_lets n v up fault w
  have same : w = s.poolReset p := rfl
  rw [same, restore, if_neg Bool.false_ne_true, h]
  rfl

/-! ### What the commands do -/

theorem State.poolUp_shows (h : u.pools = (s.poolReset p).pools) (n free : Nat) :
    (u.poolUp p n free).is ROS_POOL_CTL_ENABLE 0 p = true ∧ (u.poolUp p n free).is ROS_POOL_CTL_FAULTED 0 p = false ∧
      (u.poolUp p n free).poolFreeCount p = free % 2 ^ ROS_POOL_FREE_FREE.w := by
  have kept {f : Fld} (hk : poolKey (f.key 0 p)) : (u.poolUp p n free).rd f 0 p = (u.shownEnabled p free).rd f 0 p :=
    State.rd_of_poolRegs (State.poolRegs_poolUp ..) hk
  have clear : (u.poolUp p n free).rd ROS_POOL_CTL_FAULTED 0 p = (s.poolReset p).rd ROS_POOL_CTL_FAULTED 0 p := by
    rw [kept (poolKey_faulted p), State.shownEnabled_faulted, State.rd_of_poolRegs (State.poolRegs_of_pools h) (poolKey_faulted p)]
  refine ⟨?_, ?_, ?_⟩
  · rw [State.is, kept (poolKey_enable p)]
    exact u.shownEnabled_enable free
  · rw [State.is, clear]
    exact State.is_wr_zero _ ROS_POOL_CTL_FAULTED 0 p
  · exact (kept (poolKey_free p)).trans (State.shownEnabled_free free)

/-- Without objects before the writes there are none after them, and memory is as the writes leave it. -/
theorem State.sameStore_poolUp (h : u.pools = (s.poolReset p).pools) (empty : s.objs = []) (n free : Nat) : u.sameStore (u.poolUp p n free) := by
  have ids : u.objs.map Prod.fst = [] := (congrArg PoolView.objs h).trans (congrArg (List.map Prod.fst) empty)
  rw [State.poolUp_of_empty (List.map_eq_nil_iff.1 ids)]
  exact State.sameStore_shownEnabled free

/-- An enabled pool whose objects have its hint only loses its mark. -/
theorem poolEnableEffect_enabled (stopped : s.stkState = 0) (enabled : s.is ROS_POOL_CTL_ENABLE 0 p = true) (settled : s.offHint p = []) :
    poolEnableEffect p s = s.off ROS_POOL_CTL_FAULTED 0 p := by
  have hint : (s.off ROS_POOL_CTL_FAULTED 0 p).rd ROS_POOL_CTL_HINT 0 p = s.rd ROS_POOL_CTL_HINT 0 p :=
    State.rd_wr_beside (by decide) ..
  have same : (s.off ROS_POOL_CTL_FAULTED 0 p).offHint p = [] := by
    rw [State.offHint, hint]
    exact settled
  rw [poolEnableEffect, if_neg (by simp [stopped]), if_pos enabled, State.rehintPool_of_settled same]

theorem poolEnableEffect_disabled (stopped : s.stkState = 0) (disabled : s.is ROS_POOL_CTL_ENABLE 0 p = false) :
    poolEnableEffect p s = s.startPool p := by
  rw [poolEnableEffect, if_neg (by simp [stopped]), if_neg (by simp [disabled])]

theorem poolAddEffect_recorded (n : Nat) (new : Tab.find s.rosAdds p = none) (early : s.catchPassed (s.rd ROS_POOL_ADD_AT 0 p) = false) :
    poolAddEffect p n s =
      { s with rosAdds := Tab.put s.rosAdds p { count := n % 2 ^ 24, due := s.rd ROS_POOL_ADD_AT 0 p, late := false } } := by
  simp [poolAddEffect, new, early]

/-- Settles O14: the writes of the pool keep its registers and add no object, so that the pool shows as it was enabled. -/
theorem cachePoolsAreEnabledAndGrow : Obligations.CachePoolsAreEnabledAndGrow := by
  refine ⟨fun s u p hr hp stopped disabled fresh written => ?starts, fun s p hr hp stopped enabled settled => ?again,
    fun s p hr hp runs => ?refused, fun s p n hr hp new early => ?grows⟩
  case starts =>
    have kept : u.pools = (s.poolReset p).pools := State.pools_rosWrite written
    have effect : poolEnableEffect p s = u.poolUp p (s.poolSize p) (s.poolSize p) :=
      (poolEnableEffect_disabled stopped disabled).trans (State.startPool_writes fresh written)
    obtain ⟨enable, faulted, free⟩ := State.poolUp_shows kept (s.poolSize p) (s.poolSize p)
    exact ⟨_, State.rails_eq hr (decide_eq_true hp) effect, (State.is_commit ..).trans enable, (State.is_commit ..).trans faulted,
      (State.rd_commit ..).trans free, fun empty => State.sameStore_commit (State.sameStore_poolUp kept empty ..)⟩
  case again =>
    have cleared : s.foot (s.off ROS_POOL_CTL_FAULTED 0 p) [ROS_POOL_CTL_FAULTED.key 0 p] := State.foot_wr (List.mem_singleton_self _)
    obtain ⟨store, others⟩ := State.foot_commit (u := s) cleared
    exact ⟨_, State.rails_eq hr (decide_eq_true hp) (poolEnableEffect_enabled stopped enabled settled),
      (State.is_commit ..).trans (State.is_wr_zero ..), store, others⟩
  case refused =>
    obtain ⟨store, others⟩ := State.foot_commit (u := s) (s.foot_cfgErr .ros 0)
    exact ⟨_, State.rails_eq hr (decide_eq_true hp) (if_pos runs), (State.is_commit ..).trans (s.cfgErr_is .ros 0), store, others⟩
  case grows =>
    obtain ⟨store, others⟩ := State.foot_commit (u := s) (ks := []) (State.foot_of_eq rfl rfl rfl rfl)
    exact ⟨_, State.rails_eq hr (decide_eq_true hp) (poolAddEffect_recorded n new early), rfl, store, others⟩

end Sys2Proof.Machine
end

section
/-!
PROOF. Leases and lend windows (R440, R442, R443, R783): the registers that moves of objects write, and the state that each command shows.
-/
namespace Sys2Proof.Machine

variable {s u : State}

/-! ### The registers that moves of objects write (R421, R428, R437, R443) -/

/-- The keys of the object table's registers, of the counts of used frames, and of the FULL bits. -/
abbrev moveKey (k : Nat) : Prop := k ∈ tableKeys ∨ (∃ t q, k = (poolFlds t).2.key 0 q) ∨ ∃ t, k = (fullFld t).key 0 0

/-- The counts of used frames begin at byte 0x5120C, each at bit 0 of a register. -/
theorem key_used (t q : Nat) : 0x5120C * 8 ≤ (poolFlds t).2.key 0 q ∧ (poolFlds t).2.key 0 q % 8 = 0 := by
  unfold poolFlds
  split
  · simp [Fld.key, Page.base, TIER_POOL_HBM_USED]; omega
  · simp [Fld.key, Page.base, TIER_POOL_LPD_USED]; omega
  · simp [Fld.key, Page.base, TIER_POOL_NBR_USED]; omega

/-- The FULL bits lie in the register at byte 0x51104. -/
theorem key_full (t : Nat) : (fullFld t).key 0 0 < 0x51105 * 8 := by
  unfold fullFld
  split <;> decide

/-- A field beyond the FULL bits is none of those that moves write, where it lies before the counts of used frames or not at bit 0 of a byte. -/
theorem not_moveKey {k : Nat} (table : k ∉ tableKeys) (beyond : 0x51105 * 8 ≤ k) (place : k < 0x5120C * 8 ∨ k % 8 ≠ 0) : ¬ moveKey k := by
  rintro (listed | ⟨t, q, rfl⟩ | ⟨t, rfl⟩)
  · exact table listed
  · obtain ⟨low, bit⟩ := key_used t q
    omega
  · have := key_full t
    omega

section
variable {f : Fld} {i j : Nat} (hk : ¬ moveKey (f.key i j))
include hk

theorem State.rd_addUsed (ctx t n : Nat) : (s.addUsed ctx t n).rd f i j = s.rd f i j :=
  State.rd_wr_ne _ (fun e => hk (.inr (.inl ⟨_, _, e⟩))) _

theorem State.rd_subUsed (ctx t n : Nat) : (s.subUsed ctx t n).rd f i j = s.rd f i j :=
  State.rd_wr_ne _ (fun e => hk (.inr (.inl ⟨_, _, e⟩))) _

theorem State.rd_full (t : Nat) : (s.on (fullFld t)).rd f i j = s.rd f i j :=
  State.rd_wr_ne _ (fun e => hk (.inr (.inr ⟨_, e⟩))) _

theorem State.rd_setObj (id : Nat) (o : Obj) : (s.setObj id o).rd f i j = s.rd f i j :=
  (State.rd_noteObj _ id fun h => hk (.inl h)).trans rfl

theorem State.rd_delObj (id : Nat) : (s.delObj id).rd f i j = s.rd f i j :=
  (State.rd_noteObj _ id fun h => hk (.inl h)).trans rfl

end

/-! ### Frames are taken, and moves start (R428, R433) -/

/-- Which frames are taken follows from free values, and nothing else is used up. -/
theorem State.alloc_fresh {t n : Nat} (k : Nat) : ∀ {s u : State} {used : List (Nat × Nat)} {fs : List Nat},
    s.alloc t n used k = some (fs, u) → ∃ e, u = { s with fresh := e } := by
  induction k with
  | zero =>
    rintro s u used fs ⟨⟩
    exact ⟨s.fresh, rfl⟩
  | succ k ih =>
    intro s u used fs h
    rw [State.alloc] at h
    dsimp only at h
    split at h
    · cases h
    · split at h
      next rest =>
        cases h
        obtain ⟨e, rfl⟩ := ih rest
        exact ⟨e, rfl⟩
      next => cases h

theorem State.take_fresh {ctx t n count : Nat} {fs : List Nat} (h : s.take ctx t n count = some (fs, u)) :
    ∃ e, u = State.addUsed { s with fresh := e } ctx t (n * count) := by
  unfold State.take at h
  dsimp only at h
  split at h
  · cases h
  · split at h
    next taken =>
      cases h
      obtain ⟨e, rfl⟩ := State.alloc_fresh _ taken
      exact ⟨e, rfl⟩
    next => cases h

/-- The object in motion to some frames of a tier, of which nothing has been copied. -/
def Obj.movingTo (o : Obj) (t : Nat) (fs : List Nat) : Obj :=
  { o with state := if t < o.tier then 1 else 2, move := some { tier := t, frames := fs, next := 0, dirty := [], after := none } }

theorem State.startMove_of_take {id t : Nat} {o : Obj} {fs : List Nat} (h : s.take o.ctx t o.pageFrames o.pages.length = some (fs, u)) :
    s.startMove id o t = some (u.setObj id (o.movingTo t fs)) := by
  rw [State.startMove, h]
  rfl

section
variable {f : Fld} {i j : Nat} (hk : ¬ moveKey (f.key i j))
include hk

theorem State.rd_take {ctx t n count : Nat} {fs : List Nat} (h : s.take ctx t n count = some (fs, u)) : u.rd f i j = s.rd f i j := by
  obtain ⟨e, rfl⟩ := State.take_fresh h
  exact (State.rd_addUsed hk ..).trans rfl

theorem State.rd_startMove {id t : Nat} {o : Obj} (h : s.startMove id o t = some u) : u.rd f i j = s.rd f i j := by
  cases taken : s.take o.ctx t o.pageFrames o.pages.length with
  | none =>
    rw [State.startMove, taken] at h
    cases h
  | some x =>
    rw [State.startMove_of_take taken] at h
    cases h
    exact (State.rd_setObj hk ..).trans (State.rd_take hk taken)

theorem State.rd_startFirst {id : Nat} {o : Obj} (l : List Nat) (h : s.startFirst id o l = some u) : u.rd f i j = s.rd f i j := by
  induction l with
  | nil => cases h
  | cons t l ih =>
    unfold State.startFirst at h
    split at h
    next started =>
      cases h
      exact State.rd_startMove hk started
    next => exact ih h

theorem State.rd_vacate (r : Nat × Nat) (order : Obj → List Nat) : (s.vacate r order).rd f i j = s.rd f i j := by
  refine State.foldl_keep (fun t => t.rd f i j) _ (fun t o => ?_) _ s
  split
  next started => exact State.rd_startFirst hk _ started
  next => exact State.rd_full hk _

end

/-! ### The controls of windows and leases -/

/-- A field of a window or of a lease that does not begin a byte is none of those that moves write. -/
theorem not_moveKey_item {f : Fld} (j : Nat) (tier : f.page = .tier) (beyond : 0x300 ≤ f.off) (bit : f.lo % 8 ≠ 0) : ¬ moveKey (f.key 0 j) := by
  have low : 0x51300 * 8 ≤ f.key 0 j := by
    simp only [Fld.key, tier, Page.base]
    omega
  refine not_moveKey (fun listed => ?_) (by omega) (.inr ?_)
  · have : ∀ k ∈ tableKeys, k < 0x51300 * 8 := by decide
    have := this _ listed
    omega
  · simp only [Fld.key]
    omega

/-- No object has a frame in a range. -/
theorem State.empty_range {r : Nat × Nat} (h : ∀ o, o ∈ s.objs → o.2.inRange r = false) : (!s.objs.any fun o => o.2.inRange r) = true := by
  rw [Bool.not_eq_true', List.any_eq_false]
  exact fun o ho => by rw [h o ho]; decide

/-- LEND_ENABLE shows the window enabled and PREPARING. -/
theorem lendEnableEffect_shows (w : Nat) :
    (lendEnableEffect w s).is TIER_LEND_CTL_ENABLE 0 w = true ∧ (lendEnableEffect w s).rd TIER_LEND_CTL_STATE 0 w = 1 := by
  unfold lendEnableEffect
  constructor
  · rw [State.is, State.rd_vacate (not_moveKey_item w rfl (by decide) (by decide)), State.rd_wr_beside (by decide)]
    exact s.is_wr_one _ _ _ rfl
  · rw [State.rd_vacate (not_moveKey_item w rfl (by decide) (by decide)), State.rd_wr_same]
    rfl

/-- RECLAIM shows the lease RECLAIMING and enabled as it was. -/
theorem reclaimEffect_shows (j : Nat) :
    (reclaimEffect j s).rd TIER_LEASE_CTL_STATE 0 j = 1 ∧
      (reclaimEffect j s).is TIER_LEASE_CTL_ENABLE 0 j = s.is TIER_LEASE_CTL_ENABLE 0 j ∧
      (reclaimEffect j s).is TIER_LEASE_CTL_RECLAIM 0 j = true := by
  unfold reclaimEffect
  refine ⟨?_, ?_, ?_⟩
  · rw [State.rd_vacate (not_moveKey_item j rfl (by decide) (by decide)), State.on, State.rd_wr_beside (by decide), State.rd_wr_same]
    rfl
  · rw [State.is, State.rd_vacate (not_moveKey_item j rfl (by decide) (by decide)), State.on, State.rd_wr_beside (by decide),
      State.rd_wr_beside (by decide)]
    rfl
  · rw [State.is, State.rd_vacate (not_moveKey_item j rfl (by decide) (by decide))]
    exact State.is_wr_one _ _ _ _ rfl

section
variable {w j : Nat} (hr : s.railsUp = true)
include hr

theorem exec_windowOpen (hw : w < 8) (preparing : s.rd TIER_LEND_CTL_STATE 0 w = 1)
    (empty : ∀ o, o ∈ s.objs → o.2.inRange (s.lendFrames w) = false) :
    exec (.windowOpen w) s = .next (s.commit (s.wr TIER_LEND_CTL_STATE 2 0 w)) := by
  show execWindowOpen w s = _
  refine State.rails_eq hr ?_ rfl
  rw [State.empty_range empty, preparing]
  simp [hw]

theorem exec_leaseEnable (hj : j < 16) (off : s.is TIER_LEASE_CTL_ENABLE 0 j = false) : exec (.leaseEnable j) s =
    .next (s.commit (((s.on TIER_LEASE_CTL_ENABLE 0 j).off TIER_LEASE_CTL_RECLAIM 0 j).wr TIER_LEASE_CTL_STATE 0 0 j)) := by
  show execLeaseEnable j s = _
  exact State.rails_eq hr (by simp [hj, off]) rfl

theorem exec_leaseReturned (hj : j < 16) (reclaiming : s.rd TIER_LEASE_CTL_STATE 0 j = 1)
    (empty : ∀ o, o ∈ s.objs → o.2.inRange (s.leaseFrames j) = false) :
    exec (.leaseReturned j) s = .next (s.commit ((s.wr TIER_LEASE_CTL_STATE 2 0 j).off TIER_LEASE_CTL_RECLAIM 0 j)) := by
  show execLeaseReturned j s = _
  refine State.rails_eq hr ?_ rfl
  rw [State.empty_range empty, reclaiming]
  simp [hj]

end

/-- Settles O30: LEND_ENABLE and RECLAIM also start moves, which leave the controls; the other commands write the controls alone. -/
theorem leasesAndLendWindowsChangeState : Obligations.LeasesAndLendWindowsChangeState := by
  refine ⟨fun s w hr hw off => ?lend, fun s w hr hw preparing empty => ?opens, fun s j hr hj off => ?lease,
    fun s j hr hj enabled active => ?reclaim, fun s j hr hj reclaiming empty => ?returned⟩
  case lend =>
    obtain ⟨enabled, state⟩ := lendEnableEffect_shows (s := s) w
    exact ⟨_, State.rails_next hr (by simp [hw, off]) _, (State.is_commit ..).trans enabled, (State.rd_commit ..).trans state⟩
  case opens =>
    obtain ⟨store, others⟩ := State.foot_commit (u := s)
      (State.foot_wr (s := s) (f := TIER_LEND_CTL_STATE) (v := 2) (i := 0) (j := w) (List.mem_singleton_self _))
    exact ⟨_, exec_windowOpen hr hw preparing empty, (State.rd_commit ..).trans (State.rd_wr_same ..), store, others⟩
  case lease =>
    let ks := [TIER_LEASE_CTL_ENABLE.key 0 j, TIER_LEASE_CTL_STATE.key 0 j, TIER_LEASE_CTL_RECLAIM.key 0 j]
    have foot : s.foot (((s.on TIER_LEASE_CTL_ENABLE 0 j).off TIER_LEASE_CTL_RECLAIM 0 j).wr TIER_LEASE_CTL_STATE 0 0 j) ks :=
      State.foot_wr_of (State.foot_wr_of (State.foot_wr (by simp [ks])) (by simp [ks])) (by simp [ks])
    obtain ⟨store, others⟩ := State.foot_commit (u := s) foot
    refine ⟨_, exec_leaseEnable hr hj off, (State.is_commit ..).trans ?_, (State.rd_commit ..).trans (State.rd_wr_same ..), store,
      (State.is_commit ..).trans ?_, others⟩
    · rw [State.is, State.rd_wr_beside (by decide), State.off_eq, State.rd_wr_beside (by decide)]
      exact s.is_wr_one _ _ _ rfl
    · rw [State.is, State.rd_wr_beside (by decide)]
      exact State.is_wr_zero ..
  case reclaim =>
    obtain ⟨state, kept, reclaims⟩ := reclaimEffect_shows (s := s) j
    exact ⟨_, State.rails_next hr (by simp [hj, enabled, active]) _, (State.rd_commit ..).trans state,
      (State.is_commit ..).trans (kept.trans enabled), (State.is_commit ..).trans reclaims⟩
  case returned =>
    let ks := [TIER_LEASE_CTL_STATE.key 0 j, TIER_LEASE_CTL_RECLAIM.key 0 j]
    have foot : s.foot ((s.wr TIER_LEASE_CTL_STATE 2 0 j).off TIER_LEASE_CTL_RECLAIM 0 j) ks :=
      State.foot_wr_of (State.foot_wr (by simp [ks])) (by simp [ks])
    obtain ⟨store, others⟩ := State.foot_commit (u := s) foot
    refine ⟨_, exec_leaseReturned hr hj reclaiming empty, (State.rd_commit ..).trans ?_, (State.is_commit ..).trans (State.is_wr_zero ..), store,
      others⟩
    rw [State.off_eq, State.rd_wr_beside (by decide), State.rd_wr_same]
    rfl

end Sys2Proof.Machine
end

section
/-!
PROOF. Objects that move (R433, R435) and stale watch slots (R452): a chunk is copied, an object is switched to its new frames, and the source
of a slot is copied again, while no checkpoint is ACTIVE.
-/
namespace Sys2Proof.Machine

variable {s t u : State} {ks : List Nat}

/-! ### What a write of the device itself changes -/

/-- Bytes have been stored, and the tokens and every register but those listed stay. -/
def State.wrote (s t : State) (a : Nat) (d : List Byte) (ks : List Nat) : Prop := s.stored t a d ∧ s.sameToksBut t [] ∧ s.sameRegsBut t ks

theorem State.wrote_then {a : Nat} {d : List Byte} (h : s.wrote t a d ks) (h' : t.foot u ks) : s.wrote u a d ks := by
  obtain ⟨stored, toks, regs⟩ := h
  obtain ⟨⟨bytes, toks'⟩, regs'⟩ := h'
  exact ⟨fun x => (bytes x).trans (stored x), fun k hk => (toks' k).trans (toks k hk), fun f i j hk => (regs' f i j hk).trans (regs f i j hk)⟩

theorem State.wrote_wrMem (s : State) (a : Nat) (d : List Byte) (ks : List Nat) : s.wrote (s.wrMem a d) a d ks := by
  obtain ⟨m, h⟩ := State.wrMem_mem d s a
  refine ⟨State.stored_wrMem d s a, fun k _ => ?_, fun f i j _ => ?_⟩
  · rw [h]
    rfl
  · rw [h]
    rfl

/-- What notes a write changes watch slots, objects and poison only. -/
theorem State.noteWrite_leaves (s : State) (a n : Nat) :
    ∃ ws os ps, s.noteWrite a n = { s with watches := ws, objs := os, poison := ps } := by
  unfold State.noteWrite State.noteMoves
  dsimp only
  split <;> split <;> split <;> exact ⟨_, _, _, rfl⟩

theorem State.foot_noteWrite (s : State) (a n : Nat) (ks : List Nat) : s.foot (s.noteWrite a n) ks := by
  obtain ⟨ws, os, ps, h⟩ := s.noteWrite_leaves a n
  rw [h]
  exact State.foot_of_eq rfl rfl rfl rfl

/-- Bytes are stored, and the write is noted. -/
def State.written (s : State) (a : Nat) (d : List Byte) : State := (s.wrMem a d).noteWrite a d.length

theorem State.regs_written (s : State) (a : Nat) (d : List Byte) : (s.written a d).regs = s.regs := by
  obtain ⟨m, stored⟩ := State.wrMem_mem d s a
  obtain ⟨ws, os, ps, noted⟩ := (s.wrMem a d).noteWrite_leaves a d.length
  rw [State.written, noted, stored]

theorem State.wrote_written (s : State) (a : Nat) (d : List Byte) (ks : List Nat) : s.wrote (s.written a d) a d ks :=
  State.wrote_then (s.wrote_wrMem a d ks) (State.foot_noteWrite ..)

theorem Tab.find_map_snd {α β : Type} (g : α → β) (l : List (Nat × α)) (k : Nat) :
    Tab.find (l.map fun x => (x.1, g x.2)) k = (Tab.find l k).map g := by
  induction l with
  | nil => rfl
  | cons x l ih =>
    rw [List.map_cons, Tab.find_cons, Tab.find_cons, ih]
    split <;> rfl

theorem Obj.noteLines_pages (o : Obj) (a n : Nat) : (o.noteLines a n).pages = o.pages := by
  unfold Obj.noteLines
  split <;> rfl

theorem State.find_noteMoves {id : Nat} {o : Obj} (h : Tab.find s.objs id = some o) (g n : Nat) :
    ∃ x, Tab.find (s.noteMoves g n).objs id = some x ∧ x.pages = o.pages := by
  unfold State.noteMoves
  split
  · exact ⟨_, (Tab.find_map_snd (fun y => y.noteLines g n) s.objs id).trans (congrArg _ h), o.noteLines_pages g n⟩
  · exact ⟨o, h, rfl⟩

/-- A write leaves an object its pages. -/
theorem State.find_written {id : Nat} {o : Obj} (h : Tab.find s.objs id = some o) (a : Nat) (d : List Byte) :
    ∃ x, Tab.find (s.written a d).objs id = some x ∧ x.pages = o.pages := by
  obtain ⟨m, stored⟩ := State.wrMem_mem d s a
  unfold State.written State.noteWrite
  extract_lets v w
  have watched : Tab.find v.objs id = some o := by
    simp only [v, stored]
    split <;> exact h
  obtain ⟨x, found, pages⟩ := State.find_noteMoves watched (gpaOf v.dev a) d.length
  refine ⟨x, ?_, pages⟩
  split <;> exact found

/-! ### A chunk is copied (R433 point 2) -/

/-- While no checkpoint is ACTIVE no frame is protected. -/
theorem State.copyHeld_idle (idle : s.rd MMU_CKPT_STAT_STATE ≠ 2) (a n : Nat) : s.copyHeld a n = s := if_pos idle

/-- Other codewords of memory are poisoned. -/
def State.withPoison (s : State) (ps : List Nat) : State := { s with poison := ps }

theorem State.foot_withPoison (s : State) (ps : List Nat) : s.foot (s.withPoison ps) ks := State.foot_of_eq rfl rfl rfl rfl

theorem State.copySpan_here {dst : Nat} {d : List Byte} (idle : s.rd MMU_CKPT_STAT_STATE ≠ 2) (here : gpaDev dst = s.dev)
    (kept : s.lentAway s.dev (gpaLocal dst) d.length = false) (src n : Nat) :
    ∃ ps, s.copySpan src dst n d = (s.written (gpaLocal dst) d).withPoison ps := by
  have put : s.putOwn dst d = s.written (gpaLocal dst) d := by
    rw [State.putOwn, if_pos here, State.copyHeld_idle idle, State.putRaw, if_pos here, kept, if_neg Bool.false_ne_true, State.written]
  unfold State.copySpan
  rw [put]
  dsimp only
  split <;> exact ⟨_, rfl⟩

/-- The move of an object has one chunk more copied. -/
def State.chunkDone (s : State) (id : Nat) (o : Obj) (m : ObjMove) : State :=
  { s with objs := Tab.upd s.objs id o (fun x => { x with move := some { m with next := m.next + 1 } }) }

theorem State.foot_chunkDone (s : State) (id : Nat) (o : Obj) (m : ObjMove) : s.foot (s.chunkDone id o m) ks := State.foot_of_eq rfl rfl rfl rfl

theorem State.find_chunkDone {id : Nat} {o x : Obj} (h : Tab.find s.objs id = some x) (m : ObjMove) :
    Tab.find (s.chunkDone id o m).objs id = some { x with move := some { m with next := m.next + 1 } } := by
  have looked : Tab.look s.objs id o = x := by
    rw [Tab.look, h]
    rfl
  rw [State.chunkDone, Tab.upd, Tab.find_put, if_pos rfl, looked]

theorem objectCopyEffect_chunk {id f g : Nat} {o : Obj} {m : ObjMove} (ho : Tab.find s.objs id = some o) (hm : o.move = some m)
    (hf : o.frames[m.next]? = some f) (hg : (o.newFrames m)[m.next]? = some g) (here : gpaDev (f * 65536) = s.dev) :
    objectCopyEffect id s = State.chunkDone ((s.copySpan (f * 65536) (g * 65536) 65536 (s.rdMem (gpaLocal (f * 65536)) 65536)).clearArrived
      .tier) id o m := by
  have read : s.frameBytes (f * 65536) 65536 = .ok (s.rdMem (gpaLocal (f * 65536)) 65536) := if_pos here
  simp only [objectCopyEffect, ho, hm, hf, hg, read]
  rfl

/-- OBJECT_COPY of a chunk between frames of this device. -/
theorem objectCopyEffect_copies {id f g : Nat} {o : Obj} {m : ObjMove} (ho : Tab.find s.objs id = some o) (hm : o.move = some m)
    (hf : o.frames[m.next]? = some f) (hg : (o.newFrames m)[m.next]? = some g) (source : f / 2 ^ 27 = s.dev) (target : g / 2 ^ 27 = s.dev)
    (idle : s.rd MMU_CKPT_STAT_STATE ≠ 2) (kept : s.lentAway s.dev (gpaLocal (g * 65536)) 65536 = false) :
    s.wrote (objectCopyEffect id s) (gpaLocal (g * 65536)) (s.rdMem (gpaLocal (f * 65536)) 65536) [] ∧
      ∃ x y, Tab.find (objectCopyEffect id s).objs id = some x ∧ x.move = some y ∧ y.next = m.next + 1 ∧ x.pages = o.pages := by
  have device (k : Nat) : gpaDev (k * 65536) = k / 2 ^ 27 := by
    unfold gpaDev
    omega
  generalize hd : s.rdMem (gpaLocal (f * 65536)) 65536 = d
  have length : d.length = 65536 := by rw [← hd, State.rdMem, List.length_map, List.length_range]
  obtain ⟨ps, copied⟩ := State.copySpan_here (d := d) idle ((device g).trans target) (by rw [length]; exact kept) (f * 65536) 65536
  rw [objectCopyEffect_chunk ho hm hf hg ((device f).trans source), hd, copied]
  constructor
  · refine State.wrote_then (s.wrote_written _ d []) (State.foot_then (State.foot_withPoison _ ps) ?_)
    exact State.foot_then (State.foot_clearArrived _ .tier []) (State.foot_chunkDone _ id o m)
  · obtain ⟨x, found, pages⟩ := State.find_written ho (gpaLocal (g * 65536)) d
    generalize s.written (gpaLocal (g * 65536)) d = v at found
    exact ⟨_, _, State.find_chunkDone (s := (v.withPoison ps).clearArrived .tier) found m, rfl, rfl, pages⟩

/-! ### An object is switched to its new frames (R433 points 3 to 6) -/

/-- What notes a change of an object in the table writes registers and its record. -/
theorem State.noteObj_leaves (s : State) (id : Nat) :
    ∃ rs ms us e, s.noteObj id = { s with regs := rs, mem := ms, undef := us, fresh := e } := by
  unfold State.noteObj State.undefine
  dsimp only
  split
  · rw [if_neg (by decide)]
    exact ⟨_, _, _, _, rfl⟩
  · exact ⟨_, _, _, _, rfl⟩

theorem State.setObj_leaves (s : State) (id : Nat) (o : Obj) :
    ∃ rs ms us e, s.setObj id o = { s with regs := rs, mem := ms, undef := us, fresh := e, objs := Tab.put s.objs id o } :=
  State.noteObj_leaves { s with objs := Tab.put s.objs id o } id

/-- The object after the switch to the frames of its move. -/
def Obj.switched (o : Obj) (m : ObjMove) : Obj :=
  { o with pages := List.zipWith (fun p f => (p.1, f)) o.pages m.frames, tier := m.tier, state := restState o.hint m.tier, move := none }

/-- The pages of an object are mapped to its new frames, and the caches and watch slots follow (R433 point 5, R451). -/
def State.remapped (s : State) (o : Obj) (m : ObjMove) : State :=
  (((o.switched m).pages.foldl (fun (t : State) p => t.mapPage (o.switched m) p.1 p.2) s).dropPages o).moveWatches o (o.newFrames m)

/-- The tier manager counts the switch and frees the old frames (R433 point 6). -/
def State.countSwitch (s : State) (o : Obj) (m : ObjMove) : State :=
  (s.subUsed o.ctx o.tier o.size).bump (if m.tier < o.tier then TIER_PC_PROMOTED else TIER_PC_EVICTED) (o.size * 65536)

/-- An object outside the roster concerns no scale page. -/
theorem State.moveScale_none {id : Nat} {o : Obj} (kind : o.kind ≠ 3) (alone : o.members = []) : s.moveScale id o = s := by
  unfold State.moveScale
  split
  next three => exact absurd three kind
  next member => cases alone.symm.trans member
  next => rfl

/-- The switch of an object without recorded lines, for which nothing waits. -/
theorem State.switchObject_plain {id : Nat} {o : Obj} {m : ObjMove} (idle : s.rd MMU_CKPT_STAT_STATE ≠ 2) (last : m.after = none)
    (kind : o.kind ≠ 3) (alone : o.members = []) :
    s.switchObject id o m none [] = (((s.remapped o m).countSwitch o m).setObj id (o.switched m)).clearArrived .tier := by
  unfold State.switchObject
  simp only [List.foldl_nil, idle, if_false, last]
  exact State.moveScale_none (s := (((s.remapped o m).countSwitch o m).setObj id (o.switched m)).clearArrived .tier) (o := o.switched m) kind alone

theorem objectSwitchEffect_plain {id : Nat} {o : Obj} {m : ObjMove} (ho : Tab.find s.objs id = some o) (hm : o.move = some m)
    (here : ∀ f, f ∈ o.frames → f / 2 ^ 27 = s.dev) (clean : m.dirty = []) (quiet : s.tierCmd = none) :
    objectSwitchEffect id s = s.switchObject id o m none [] := by
  have near : (o.frames.any fun f => f / 2 ^ 27 != s.dev) = false := by
    rw [List.any_eq_false]
    intro f hf
    rw [here f hf]
    simp
  simp only [objectSwitchEffect, ho, hm, quiet, near, clean, State.dirtyLines, Bool.false_and, Bool.false_eq_true, if_false, -Nat.reducePow]

/-- The object has its new frames, and no cached translation of its pages is left. -/
theorem State.switchObject_shows {id : Nat} {o : Obj} {m : ObjMove} (idle : s.rd MMU_CKPT_STAT_STATE ≠ 2) (last : m.after = none)
    (kind : o.kind ≠ 3) (alone : o.members = []) :
    Tab.find (s.switchObject id o m none []).objs id = some (o.switched m) ∧
      ∀ e, e ∈ (s.switchObject id o m none []).tlb → e.ctx = o.ctx →
        ∀ p, p ∈ o.pages → overlaps p.1 (o.pageFrames * 65536) e.va e.size = false := by
  obtain ⟨rs, ms, us, e, noted⟩ := ((s.remapped o m).countSwitch o m).setObj_leaves id (o.switched m)
  rw [State.switchObject_plain idle last kind alone, noted]
  refine ⟨(Tab.find_put ..).trans (if_pos rfl), fun e cached ctx p hp => ?_⟩
  obtain ⟨-, dropped⟩ := List.mem_filter.1 cached
  rw [Bool.not_eq_true', Bool.and_eq_false_iff, List.any_eq_false] at dropped
  obtain other | apart := dropped
  · exact absurd ctx (by simpa using other)
  · exact Bool.eq_false_iff.2 (apart p hp)

/-! ### A stale slot is copied again (R452) -/

theorem State.offLengths_congr (h : t.regs = s.regs) (a n : Nat) : t.offLengths a n = s.offLengths a n := by
  simp only [State.offLengths, State.is, State.rd_congr h]

theorem State.noteLengths_off {a n : Nat} (off : s.offLengths a n = true) : s.noteLengths a n = s := by
  rw [State.offLengths, Bool.not_eq_true'] at off
  rw [State.noteLengths, off, if_neg Bool.false_ne_true]

/-- A plain store outside the length table. -/
theorem State.wrote_store {a : Nat} {d : List Byte} (off : s.offLengths a d.length = true) (sched : Bool) :
    s.wrote (s.store a 0 sched d) a d ks := by
  have length : (s.written a d).noteLengths a d.length = s.written a d :=
    State.noteLengths_off ((State.offLengths_congr (s.regs_written a d) ..).trans off)
  have stored : s.wrote ((s.written a d).noteLengths a d.length) a d ks := length.symm ▸ s.wrote_written a d ks
  cases sched with
  | true => exact State.wrote_then stored (State.foot_of_eq rfl rfl rfl rfl)
  | false => exact stored

theorem State.recopyWaits_idle (idle : s.rd MMU_CKPT_STAT_STATE ≠ 2) (w : Watch) : s.recopyWaits w = false := by
  have free (a n : Nat) : s.protectedIn a n = none := if_neg fun h => idle h.1
  simp [State.recopyWaits, free]

/-- A COPY to one seat writes its bytes as they are. -/
theorem Watch.copied_plain {w : Watch} (copies : dKind w.raw ≠ 1) (one : dMcast w.raw = false) (d : List Byte) : w.copied d = d := by
  simp [Watch.copied, castOffsets, copies, one]

theorem State.wrSpans_here {b n : Nat} (here : b < 2 ^ 43) (d : List Byte) :
    s.wrSpans [(gpaOf s.dev b, n)] d = s.store b 0 true (d.take n) := by
  have device : gpaDev (gpaOf s.dev b) = s.dev := by
    unfold gpaDev gpaOf
    omega
  have place : gpaLocal (gpaOf s.dev b) = b := by
    unfold gpaLocal gpaOf
    omega
  rw [State.wrSpans, if_pos device, place]
  rfl

/-- A slot has been copied again: it is not stale, and has one retry more. -/
def State.recopied (s : State) (k : Nat) (w : Watch) : State :=
  { s.bump TIER_PC_WATCH_REREAD with watches := Tab.put s.watches k { w with stale := false, retries := w.retries + 1 } }

theorem State.foot_recopied (s : State) (k : Nat) (w : Watch) : s.foot (s.recopied k w) [TIER_PC_WATCH_REREAD.key 0 0] :=
  State.foot_upd_of (t := s.bump TIER_PC_WATCH_REREAD) (State.foot_wr (List.mem_singleton_self _)) rfl rfl rfl rfl

/-- The recopy of a slot with one source and one destination on this device. -/
theorem watchRecopyEffect_one {k a b n : Nat} {w : Watch} (hw : Tab.find s.watches k = some w) (src : w.src = [(a, n)])
    (dst : w.dst = [(gpaOf s.dev b, n)]) (here : b < 2 ^ 43) (copies : dKind w.raw ≠ 1) (one : dMcast w.raw = false)
    (idle : s.rd MMU_CKPT_STAT_STATE ≠ 2) :
    watchRecopyEffect k s = (s.store b 0 true (s.rdMem a n)).recopied k w := by
  have bytes : (s.rdSpans [(a, n)]).take n = s.rdMem a n := by simp [State.rdSpans, State.rdMem]
  have stored : s.wrSpans w.dst (w.copied (s.rdSpans w.src)) = s.store b 0 true (s.rdMem a n) := by
    rw [Watch.copied_plain copies one, src, dst, State.wrSpans_here here, bytes]
  unfold watchRecopyEffect
  rw [hw]
  dsimp only
  rw [State.recopyWaits_idle idle, if_neg Bool.false_ne_true, stored]
  rfl

/-- Settles O29: a copy stores its bytes and notes the write; the switch maps the object's pages anew and drops their cached translations. -/
theorem objectsAndStaleSlotsAreCopied : Obligations.ObjectsAndStaleSlotsAreCopied := by
  refine ⟨fun s id f g o m hr runs ho hm more hf hg source target idle kept => ?copies,
    fun s id o m hr runs ho hm all here refs clean quiet last idle kind alone => ?switches,
    fun s k a b n w hr hw stale src dst here copies one idle off => ?recopies⟩
  case copies =>
    have going : (s.movesRun && s.copying id) = true := by simp [State.copying, runs, ho, hm, more]
    obtain ⟨written, x, y, found, chunk⟩ := objectCopyEffect_copies ho hm hf hg source target idle kept
    obtain ⟨stored, toks, regs⟩ := State.wrote_then written (State.foot_commit (u := s) (State.foot_refl _))
    exact ⟨_, State.rails_next hr going _, stored, ⟨x, y, found, chunk⟩, toks, regs⟩
  case switches =>
    have going : (s.switchRuns id && s.switchable id) = true := by simp [State.switchRuns, State.switchable, runs, ho, hm, all, refs]
    obtain ⟨object, cached⟩ := State.switchObject_shows (id := id) idle last kind alone
    exact ⟨_, State.rails_eq hr going (objectSwitchEffect_plain ho hm here clean quiet), object, cached⟩
  case recopies =>
    have going : (Tab.look s.watches k default).stale = true := by simp [Tab.look, hw, stale]
    have written : s.wrote (s.store b 0 true (s.rdMem a n)) b (s.rdMem a n) [TIER_PC_WATCH_REREAD.key 0 0] :=
      State.wrote_store (by rw [State.rdMem, List.length_map, List.length_range]; exact off) true
    obtain ⟨stored, toks, regs⟩ := State.wrote_then written (State.foot_commit (u := s) (State.foot_recopied _ k w))
    exact ⟨_, _, State.rails_eq hr going (watchRecopyEffect_one hw src dst here copies one idle), stored,
      (Tab.find_put ..).trans (if_pos rfl), rfl, rfl, toks, regs⟩

end Sys2Proof.Machine
end

section
/-!
PROOF. The commands of the tier ring (R421, R425, R427 to R432): the registers that copies for a checkpoint write, the command at HEAD and its
end, and what each command does with its object.
-/
namespace Sys2Proof.Machine

variable {s t u : State}

/-! ### The registers that copies for a checkpoint write (R492, R494, R636) -/

/-- The keys of the checkpoint unit's state and counts, of the logbook's count of lost entries, and of the ports' counts of used slots. -/
abbrev copyKey (k : Nat) : Prop :=
  k ∈ [MMU_CKPT_STAT_STATE.key 0 0, TIER_CKPT_FRAMES_COUNT.key 0 0, MMU_PC_CKPT_COPIES.key 0 0, LOG_DROPPED.key 0 0] ∨
    ∃ q, k = LNK_SLOTS_USED_COUNT.key q 0

section
variable {f : Fld} {i j : Nat} (hk : ¬ copyKey (f.key i j))
include hk

theorem State.rd_sendRequest (q op : Nat) (x : Packet) (dest : Option Nat) : (s.sendRequest q op x dest).rd f i j = s.rd f i j := by
  unfold State.sendRequest
  dsimp only
  split
  · rfl
  · exact (State.rd_wr_ne _ (fun e => hk (.inr ⟨q, e⟩)) _).trans rfl

omit hk in
theorem State.rd_finishOp {o : RemOp} (ho : o.owner = .agent .tier) : (s.finishOp o).rd f i j = s.rd f i j :=
  State.rd_of_kept (p := fun _ => True) (State.finishOp_agent ho).1 f i j trivial

theorem State.rd_answer {op : Nat} (h : s.opOfTier op) (addr dev status : Nat) : (s.answer op addr dev status).rd f i j = s.rd f i j := by
  unfold State.answer
  split
  · rfl
  next o found =>
    have owner : o.owner = .agent .tier := h o found
    extract_lets v w o'
    have noted : v.rd f i j = s.rd f i j := by
      show State.rd (if _ then _ else s) f i j = _
      split <;> rfl
    split
    · exact noted
    · split
      · split
        · exact (State.rd_sendRequest hk ..).trans noted
        · refine (State.rd_finishOp ?_).trans noted
          exact owner
      · refine (State.rd_finishOp ?_).trans noted
        exact owner

theorem State.rd_sendOrFail {op : Nat} (h : s.opOfTier op) (x : Packet) (dest : Option Nat) : (s.sendOrFail op x dest).rd f i j = s.rd f i j := by
  unfold State.sendOrFail
  split
  · split
    · exact State.rd_answer hk h ..
    · exact State.rd_sendRequest hk ..
  · exact State.rd_answer hk h ..

theorem State.rd_putPieces (op ctx : Nat) (sched : Bool) (g : Nat) (data : List Byte) (l : List (Nat × Nat)) :
    ∀ s : State, s.opOfTier op → (s.putPieces op ctx sched g data l).rd f i j = s.rd f i j := by
  induction l with
  | nil => exact fun _ _ => rfl
  | cons x l ih =>
    intro s h
    exact (ih _ (State.sendOrFail_keeps h _ none).2).trans (State.rd_sendOrFail hk h _ none)

theorem State.rd_remotePut (ctx : Nat) (sched : Bool) (g : Nat) (data : List Byte) :
    (s.remotePut (.agent .tier) ctx sched g data).rd f i j = s.rd f i j := by
  unfold State.remotePut
  dsimp only
  split
  · rfl
  · refine (State.rd_putPieces hk _ _ _ _ _ _ _ fun o found => ?_).trans rfl
    have opened : some _ = some o := (if_pos rfl).symm.trans ((Tab.find_put ..).symm.trans found)
    exact congrArg RemOp.owner (Option.some.inj opened).symm

omit hk in
theorem State.rd_written (a : Nat) (d : List Byte) : (s.written a d).rd f i j = s.rd f i j := State.rd_congr (s.regs_written a d) f i j

theorem State.rd_putRaw (g : Nat) (data : List Byte) : (s.putRaw g data).rd f i j = s.rd f i j := by
  unfold State.putRaw
  split
  · split
    · rfl
    · exact State.rd_written ..
  · exact State.rd_remotePut hk ..

theorem State.rd_copyFrame (n : Nat) : (s.copyFrame n).rd f i j = s.rd f i j := by
  have cleared (v : State) : (v.clearCkptBit n).rd f i j = v.rd f i j := (State.foot_rd (State.foot_noteWrite _ _ _ []) f i j (by simp)).trans rfl
  have noted (v : State) (l : List Nat) : ({ v with ckptFrames := l } : State).rd f i j = v.rd f i j := rfl
  have off {g : Fld} (v : State) (x : Nat)
      (h : g.key 0 0 ∈ [MMU_CKPT_STAT_STATE.key 0 0, TIER_CKPT_FRAMES_COUNT.key 0 0, MMU_PC_CKPT_COPIES.key 0 0, LOG_DROPPED.key 0 0]) :
      (v.wr g x).rd f i j = v.rd f i j := State.rd_wr_ne (f := g) _ (fun e => hk (.inl (by rw [e]; exact h))) x
  unfold State.copyFrame
  dsimp only
  split
  · rw [State.breakCkpt, State.logEv, State.rd_logFrom _ (fun e => hk (.inl (by simp [e]))), State.rd_putRaw hk, off _ _ (by simp)]
  · rw [State.bump_eq, off _ _ (by simp), off _ _ (by simp), noted, cleared, State.rd_putRaw hk, State.rd_putRaw hk]

theorem State.rd_copyHeld (a n : Nat) : (s.copyHeld a n).rd f i j = s.rd f i j := by
  unfold State.copyHeld
  split
  · rfl
  · refine State.foldl_keep (fun t => t.rd f i j) _ (fun t n => ?_) _ s
    split
    · exact State.rd_copyFrame hk n
    · rfl

theorem State.rd_putLeaf (a v : Nat) : (s.putLeaf a v).rd f i j = s.rd f i j := by
  have written : s.putLeaf a v = (s.copyHeld a 8).written a (leBytes v 8) := by
    rw [State.written, length_leBytes]
    rfl
  rw [written, State.rd_written, State.rd_copyHeld hk]

theorem State.rd_unmapPage (o : Obj) (va : Nat) : (s.unmapPage o va).rd f i j = s.rd f i j := by
  unfold State.unmapPage
  split
  · exact State.rd_putLeaf hk ..
  · rfl

end

/-- HEAD of the tier ring is none of the registers that copies for a checkpoint or moves of objects write. -/
theorem not_copyKey_head : ¬ copyKey (TIER_RING_HEAD.key 0 0) := by
  rintro (listed | ⟨q, h⟩)
  · exact absurd listed (by decide)
  · simp only [Fld.key, Page.base, TIER_RING_HEAD, LNK_SLOTS_USED_COUNT] at h
    omega

theorem not_moveKey_head : ¬ moveKey (TIER_RING_HEAD.key 0 0) := not_moveKey (by decide) (by decide) (.inl (by decide))

/-! ### The command at HEAD (R430, R431, R476) -/

/-- The command at HEAD has been read and is well formed without a status record, and neither the page's state nor a fault holds it back. -/
structure State.TierTurn (s : State) (k : Nat) (raw : List Byte) : Prop where
  row : s.rd PWR_STAT_STATE = 0
  op : s.tierOp k = true
  head : s.tierHead = .ok raw
  bare : fieldLE raw 32 8 = 0
  taken : s.tierRefuses = false
  formed : tierOk raw = true
  unheld : s.faultHeld (fun _ a => a.1 == .tier) = false
  unaborted : s.rosAborted = []

section
variable {k : Nat} {raw : List Byte}

theorem State.tierRun_turn (h : s.TierTurn k raw) (f : List Byte → State → State) : s.tierRun f = f raw s := by
  have unaborted (va : Option Nat) : s.tierAborted va = false := by rw [State.tierAborted, h.unaborted, List.any_nil]
  have ready : s.recordReady raw = .ok () := if_pos h.bare
  unfold State.tierRun
  simp only [h.unheld, unaborted, h.head, h.bare, ready, h.taken, h.formed, Bool.false_eq_true, if_false, if_true, ne_eq, not_true_eq_false,
    false_and]

/-- A command of the tier ring that may run answers its effect. -/
theorem State.work_turn (h : s.TierTurn k raw) {f : List Byte → State → State} (hf : f raw s = u) :
    s.work (s.tierOp k) (fun s => s.tierRun f) = .next (s.commit u) := by
  rw [State.work_row h.row h.op, State.tierRun_turn h, hf]

/-- The tier manager is done with the command at HEAD. -/
def State.tierNext (s : State) : State := { (s.clearArrived .tier).bump TIER_RING_HEAD with tierCmd := none }

theorem State.tierDone_bare (bare : fieldLE raw 32 8 = 0) (status flags obj tier state : Nat) :
    s.tierDone raw status flags obj tier state = s.tierNext := if_pos bare

theorem State.foot_tierNext (s : State) : s.foot s.tierNext [TIER_RING_HEAD.key 0 0] :=
  State.foot_upd_of (t := (s.clearArrived .tier).bump TIER_RING_HEAD)
    (State.foot_then (State.foot_clearArrived s .tier _) (State.foot_wr (List.mem_singleton_self _))) rfl rfl rfl rfl

/-- A command that runs and ends moves HEAD on, and leaves no command in progress; the objects and memory are as its effect has left them. -/
theorem State.work_ends (h : s.TierTurn k raw) {f : List Byte → State → State} (hf : f raw s = t.tierNext)
    (kept : t.rd TIER_RING_HEAD = s.rd TIER_RING_HEAD) :
    ∃ v, s.work (s.tierOp k) (fun s => s.tierRun f) = .next v ∧ v.objs = t.objs ∧
      v.rd TIER_RING_HEAD = (s.rd TIER_RING_HEAD + 1) % 2 ^ TIER_RING_HEAD.w ∧ v.tierCmd = none ∧ t.foot v [TIER_RING_HEAD.key 0 0] := by
  refine ⟨_, State.work_turn h hf, rfl, ?_, rfl, State.foot_commit t.foot_tierNext⟩
  rw [State.rd_commit, ← kept]
  exact State.rd_wr_same (t.clearArrived .tier) ..

/-- A command that stays in progress leaves HEAD. -/
theorem State.work_stays (h : s.TierTurn k raw) {f : List Byte → State → State} (hf : f raw s = { t with tierCmd := some raw })
    (kept : t.rd TIER_RING_HEAD = s.rd TIER_RING_HEAD) :
    ∃ v, s.work (s.tierOp k) (fun s => s.tierRun f) = .next v ∧ v.objs = t.objs ∧ v.rd TIER_RING_HEAD = s.rd TIER_RING_HEAD ∧
      v.tierCmd = some raw :=
  ⟨_, State.work_turn h hf, rfl, (State.rd_commit ..).trans kept, rfl⟩

theorem State.objs_setObj (id : Nat) (o : Obj) : (s.setObj id o).objs = Tab.put s.objs id o := by
  obtain ⟨rs, ms, us, e, h⟩ := s.setObj_leaves id o
  rw [h]

theorem State.objs_delObj (id : Nat) : (s.delObj id).objs = Tab.del s.objs id := by
  obtain ⟨rs, ms, us, e, h⟩ := State.noteObj_leaves { s with objs := Tab.del s.objs id } id
  rw [State.delObj, h]

theorem State.onObj_found {o : Obj} (ho : Tab.find s.objs (fieldLE raw 24 4) = some o) (f : Nat → Obj → State → State) :
    s.onObj raw f = f (fieldLE raw 24 4) o s := by
  simp only [State.onObj, ho]

/-! ### REGISTER (R427, R429, R432) -/

/-- The host object that a registration makes. -/
def registeredObj (raw : List Byte) (leaves : List (Nat × Nat)) (t : Nat) (fs : List Nat) : Obj :=
  { ctx := fieldLE raw 4 1, pages := List.zipWith (fun l f => (l.1, f)) leaves fs, big := bitOf (fieldLE raw 6 1) 0, hint := fieldBits raw 1 0 2,
    pinTier := fieldBits raw 1 2 1, state := if fieldBits raw 1 0 2 = 3 then 3 else 0, tier := t, touched := 0, kind := 0,
    members := [], move := none }

/-- The leaves of some pages map them to their frames. -/
def State.putLeaves (s : State) (leaves : List (Nat × Nat)) (fs : List Nat) (pin : Bool) : State :=
  (leaves.zip fs).foldl (fun (u : State) p => u.putLeaf p.1.2 (managedLeaf (u.rdLE p.1.2 8) p.2 pin)) s

/-- A registration whose frames have been taken. -/
def State.registered (s : State) (raw : List Byte) (leaves : List (Nat × Nat)) (t : Nat) (fs : List Nat) : State :=
  (s.newId.2.putLeaves leaves fs (fieldBits raw 1 0 2 == 3)).setObj s.newId.1 (registeredObj raw leaves t fs)

theorem registerEffect_registers {leaves : List (Nat × Nat)} {tt : Nat} {fs : List Nat} :
    let big := bitOf (fieldLE raw 6 1) 0
    let page := if big then 0x200000 else 0x10000
    fieldLE raw 8 8 % page = 0 → fieldLE raw 16 8 % page = 0 → fieldLE raw 16 8 ≠ 0 → fieldLE raw 8 8 + fieldLE raw 16 8 ≤ 2 ^ 49 →
    s.ctxOn (fieldLE raw 4 1) = true → s.lost.contains (fieldLE raw 4 1) = false → 0 < s.freeRecords →
    s.leafAddrs (fieldLE raw 4 1) big ((List.range (fieldLE raw 16 8 / page)).map (fun k => fieldLE raw 8 8 + k * page)) = .ok leaves →
    s.takeFirst (fieldLE raw 4 1) (if big then 32 else 1) leaves.length (hintOrder (fieldBits raw 1 0 2) (fieldBits raw 1 2 1)) =
      some (tt, fs, u) → fieldLE raw 32 8 = 0 →
    registerEffect raw s = (u.registered raw leaves tt fs).tierNext := by
  intro big page aligned whole filled low on kept room found taken bare
  have range : ¬ (fieldLE raw 8 8 % page ≠ 0 ∨ fieldLE raw 16 8 % page ≠ 0 ∨ fieldLE raw 16 8 = 0 ∨
      2 ^ 49 < fieldLE raw 8 8 + fieldLE raw 16 8) := by
    rintro (h | h | h | h)
    · exact h aligned
    · exact h whole
    · exact filled h
    · omega
  have serves : ¬ (!s.ctxOn (fieldLE raw 4 1) || s.lost.contains (fieldLE raw 4 1)) = true := by rw [on, kept]; decide
  refine (if_neg range).trans ((if_neg serves).trans ?_)
  rw [found]
  refine (if_neg (Nat.pos_iff_ne_zero.1 room)).trans ?_
  dsimp only [big] at taken ⊢
  rw [taken]
  exact State.tierDone_bare bare ..

section
variable {f : Fld} {i j : Nat}

theorem State.rd_takeFirst (hk : ¬ moveKey (f.key i j)) {ctx n count tt : Nat} {fs : List Nat} (l : List Nat)
    (h : s.takeFirst ctx n count l = some (tt, fs, u)) : u.rd f i j = s.rd f i j := by
  induction l with
  | nil => cases h
  | cons t l ih =>
    unfold State.takeFirst at h
    split at h
    next taken =>
      cases h
      exact State.rd_take hk taken
    next => exact ih h

theorem State.rd_registered (hm : ¬ moveKey (f.key i j)) (hc : ¬ copyKey (f.key i j)) (leaves : List (Nat × Nat)) (tt : Nat) (fs : List Nat) :
    (s.registered raw leaves tt fs).rd f i j = s.rd f i j :=
  (State.rd_setObj hm ..).trans ((State.foldl_keep (fun t => t.rd f i j) _ (fun _ _ => State.rd_putLeaf hc ..) _ _).trans rfl)

end

theorem State.find_registered (s : State) (raw : List Byte) (leaves : List (Nat × Nat)) (tt : Nat) (fs : List Nat) :
    Tab.find (s.registered raw leaves tt fs).objs s.newId.1 = some (registeredObj raw leaves tt fs) := by
  rw [State.registered, State.objs_setObj, Tab.find_put, if_pos rfl]

/-! ### FREE (R432) -/

/-- The object's pages are unmapped, its frames are free, and so is its record. -/
def State.freed (s : State) (id : Nat) (o : Obj) : State :=
  let t := ((o.pages.foldl (fun (t : State) p => t.unmapPage o p.1) s).dropPages o).subUsed o.ctx o.tier o.size
  State.delObj { t with lostObjs := t.lostObjs.filter (fun l => !(l.1 == o.ctx && o.pages.any (fun p => p.1 == l.2.1))) } id

theorem State.rd_freed {f : Fld} {i j : Nat} (hm : ¬ moveKey (f.key i j)) (hc : ¬ copyKey (f.key i j)) (id : Nat) (o : Obj) :
    (s.freed id o).rd f i j = s.rd f i j := by
  have unmapped := State.foldl_keep (fun t => t.rd f i j) (fun (t : State) (p : Nat × Nat) => t.unmapPage o p.1)
    (fun _ _ => State.rd_unmapPage hc ..) o.pages s
  exact (State.rd_delObj hm ..).trans ((State.rd_subUsed hm ..).trans unmapped)

theorem State.find_freed (id : Nat) (o : Obj) : Tab.find (s.freed id o).objs id = none := by
  rw [State.freed, State.objs_delObj, Tab.find_del, if_pos rfl]

section
variable {o : Obj} (ho : Tab.find s.objs (fieldLE raw 24 4) = some o) (bare : fieldLE raw 32 8 = 0)
include ho bare

theorem freeEffect_frees (host : o.kind = 0) (mine : o.ctx = fieldLE raw 4 1) (rests : o.move = none) :
    freeEffect raw s = (s.freed (fieldLE raw 24 4) o).tierNext := by
  rw [freeEffect, State.onObj_found ho, if_neg (by simp [host, mine]), if_neg (by simp [rests])]
  exact State.tierDone_bare bare ..

/-! ### SET_HINT, TOUCH and QUERY (R425, R432) -/

theorem setHintEffect_sets (free : fieldBits raw 1 0 2 ≠ 3) (unpinned : o.hint ≠ 3) :
    setHintEffect raw s = (s.setObj (fieldLE raw 24 4) { o with hint := fieldBits raw 1 0 2 }).tierNext := by
  rw [setHintEffect, State.onObj_found ho]
  exact (if_neg (not_or.2 ⟨free, unpinned⟩)).trans (State.tierDone_bare bare ..)

theorem touchEffect_touches :
    touchEffect raw s = (s.setObj (fieldLE raw 24 4) { o with touched := max o.touched s.stroke }).tierNext := by
  rw [touchEffect, State.onObj_found ho]
  exact State.tierDone_bare bare ..

theorem queryEffect_next : queryEffect raw s = s.tierNext := by
  rw [queryEffect, State.onObj_found ho]
  exact State.tierDone_bare bare ..

/-! ### MOVE (R428, R432, R433) -/

omit bare in
theorem moveEffect_starts (low : 1 ≤ fieldLE raw 5 1) (high : fieldLE raw 5 1 ≤ 3) (unpinned : o.state ≠ 3) (kept : o.state ≠ 4)
    (rests : o.move = none) (free : s.copyBusy o = false) (other : fieldLE raw 5 1 ≠ o.tier) {fs : List Nat}
    (taken : s.take o.ctx (fieldLE raw 5 1) o.pageFrames o.pages.length = some (fs, u)) :
    moveEffect raw s = { u.setObj (fieldLE raw 24 4) (o.movingTo (fieldLE raw 5 1) fs) with tierCmd := some raw } := by
  rw [moveEffect, State.onObj_found ho]
  refine (if_neg (by omega)).trans ((if_neg unpinned).trans ((if_neg kept).trans ((if_neg (by simp [free])).trans ?_)))
  rw [rests]
  refine (if_neg other).trans ?_
  rw [State.startMove_of_take taken]

end

/-! ### What a change of an object leaves in memory (R421) -/

theorem State.rdByte_undefine_other {a n x : Nat} (h : x < a ∨ a + n ≤ x) : (s.undefine a n).rdByte x = s.rdByte x := by
  unfold State.undefine
  split
  · rfl
  · have blank : undefSeed ({ lo := a, len := n, seed := s.fresh } :: s.undef) x = undefSeed s.undef x := if_neg (by simp only; omega)
    have listed : Tab.find (s.mem.filter fun p => p.1 < a || a + n ≤ p.1) x = Tab.find s.mem x := Tab.find_filter_none fun v => by simpa using h
    simp only [State.rdByte, State.blank, Tab.look, blank, listed]

/-- A change of an object leaves every byte outside its record. -/
theorem State.rdByte_setObj_other {id a : Nat} {o : Obj} (h : a < s.rd TIER_TABLE_BASE + id * 64 ∨ s.rd TIER_TABLE_BASE + id * 64 + 64 ≤ a) :
    (s.setObj id o).rdByte a = s.rdByte a := by
  unfold State.setObj State.noteObj
  extract_lets counted shown
  have base : shown.rd TIER_TABLE_BASE = s.rd TIER_TABLE_BASE := by
    rw [State.rd_wr_ne _ (by decide), State.rd_wr_ne _ (by decide), State.rd_wr_ne _ (by decide)]
    rfl
  split
  · rw [base]
    exact (State.rdByte_undefine_other h).trans rfl
  · rfl

end

/-- Settles O28: the command at HEAD runs its effect on the object, and ends by moving HEAD on; only MOVE stays in progress. -/
theorem tierCommandsActOnObjects : Obligations.TierCommandsActOnObjects := by
  intro s k raw row op head _ bare taken formed unheld unaborted
  have turn : s.TierTurn k raw := ⟨row, op, head, bare, taken, formed, unheld, unaborted⟩
  dsimp only
  refine ⟨?register, fun o ho => ⟨?free, ?setHint, ?move, ?touch, ?query⟩⟩
  case register =>
    rintro leaves tt fs u rfl aligned whole filled low on kept room found first
    have same : (u.registered raw leaves tt fs).rd TIER_RING_HEAD = s.rd TIER_RING_HEAD :=
      (State.rd_registered not_moveKey_head not_copyKey_head ..).trans (State.rd_takeFirst not_moveKey_head _ first)
    obtain ⟨t, run, objs, next, done, -⟩ := State.work_ends turn
      (registerEffect_registers aligned whole filled low on kept room found first bare) same
    refine ⟨t, u.newId.1, registeredObj raw leaves tt fs, run, ?_, rfl, rfl, rfl, rfl, rfl, next, done⟩
    rw [objs, State.find_registered]
  case free =>
    rintro rfl host mine rests
    obtain ⟨t, run, objs, next, done, -⟩ := State.work_ends turn (freeEffect_frees ho bare host mine rests)
      (State.rd_freed not_moveKey_head not_copyKey_head ..)
    exact ⟨t, run, by rw [objs, State.find_freed], next, done⟩
  case setHint =>
    rintro rfl free unpinned
    obtain ⟨t, run, objs, next, done, -⟩ := State.work_ends turn (setHintEffect_sets ho bare free unpinned) (State.rd_setObj not_moveKey_head ..)
    exact ⟨t, run, by rw [objs, State.objs_setObj], next, done⟩
  case move =>
    rintro rfl low high unpinned kept rests free other fs u frames
    have same : (u.setObj (fieldLE raw 24 4) (o.movingTo (fieldLE raw 5 1) fs)).rd TIER_RING_HEAD = s.rd TIER_RING_HEAD :=
      (State.rd_setObj not_moveKey_head ..).trans (State.rd_take not_moveKey_head frames)
    obtain ⟨t, run, objs, stays, going⟩ := State.work_stays turn (moveEffect_starts ho low high unpinned kept rests free other frames) same
    refine ⟨t, { tier := fieldLE raw 5 1, frames := fs, next := 0, dirty := [], after := none }, run, ?_, rfl, rfl, rfl, stays, going⟩
    rw [objs, State.objs_setObj, Tab.find_put, if_pos rfl]
    rfl
  case touch =>
    rintro rfl
    obtain ⟨t, run, objs, next, done, ⟨bytes, -⟩, -⟩ := State.work_ends turn (touchEffect_touches ho bare) (State.rd_setObj not_moveKey_head ..)
    exact ⟨t, run, by rw [objs, State.objs_setObj], next, done, fun a apart => (bytes a).trans (State.rdByte_setObj_other apart)⟩
  case query =>
    rintro rfl
    obtain ⟨t, run, objs, next, done, store, others⟩ := State.work_ends turn (queryEffect_next ho bare) rfl
    exact ⟨t, run, objs, next, done, store, others⟩

end Sys2Proof.Machine
end

section
/-!
PROOF. Translation and faults (R471, R480, R483 to R485, R783): an invalidation and its end, the fault ring with nothing to report, and what
resuming or aborting a fault leaves.
-/
namespace Sys2Proof.Machine

variable {s : State}

/-! ### Invalidations and the fault ring (R471, R483) -/

/-- An invalidation that starts drops the translations in its scope (R471). -/
theorem invalidationEffect_starts (idle : s.is MMU_INVAL_CTL_BUSY = false) :
    invalidationEffect s =
      (({ s with tlb := s.tlb.filter fun e => !s.inScope e } : State).on MMU_INVAL_CTL_GO).on MMU_INVAL_CTL_BUSY :=
  if_neg (by simp [idle])

/-- With every slot reported and held by a page fault, a flush has no record to write and no slot to free (R483). -/
theorem flushEffect_reported (reported : ∀ f, f ∈ s.slots → f.2.reported = true ∧ f.2.status ≠ stLost) :
    flushEffect s = s.off MMU_FAULT_OUT_OVERFLOW := by
  have unreported : s.slots.filter (fun f => !f.2.reported) = [] :=
    List.filter_eq_nil_iff.2 fun f hf => by simp [(reported f hf).1]
  have done : s.slots.filter (fun f => f.2.reported && f.2.status == stLost) = [] :=
    List.filter_eq_nil_iff.2 fun f hf => by simp [(reported f hf).2]
  have all : s.slots.all (fun f => f.2.reported) = true := List.all_eq_true.2 fun f hf => (reported f hf).1
  simp [flushEffect, unreported, done, all]

/-- Settles O33: each command writes its flags, and an invalidation filters the cached translations. -/
theorem invalidationsAndTheFaultRing : Obligations.InvalidationsAndTheFaultRing := by
  refine ⟨fun s up idle => ?start, fun s up busy settled => ?complete, fun s row ready overflow reported => ?flush⟩
  case start =>
    have foot : s.foot (s.commit (invalidationEffect s)) [MMU_INVAL_CTL_BUSY.key 0 0, MMU_INVAL_CTL_GO.key 0 0] := by
      rw [invalidationEffect_starts idle]
      exact State.foot_commit (State.foot_wr_of (State.foot_wr_of (State.foot_of_eq rfl rfl rfl rfl) (by simp)) (by simp))
    refine ⟨_, State.rails_next up rfl _, fun e => ?_, ?_, ?_, foot.1, foot.2⟩
    · simp [invalidationEffect_starts idle]
    · rw [State.is_commit, invalidationEffect_starts idle]
      exact State.is_wr_one _ _ _ _ rfl
    · rw [State.is_commit, invalidationEffect_starts idle, State.is, State.on, State.rd_wr_ne _ (by decide)]
      exact State.is_wr_one _ _ _ _ rfl
  case complete =>
    have foot : s.foot (s.commit ((s.off MMU_INVAL_CTL_GO).off MMU_INVAL_CTL_BUSY)) [MMU_INVAL_CTL_BUSY.key 0 0, MMU_INVAL_CTL_GO.key 0 0] :=
      State.foot_commit (State.foot_wr_of (State.foot_wr (by simp)) (by simp))
    refine ⟨_, State.rails_next up (by simp [busy, settled]) fun s => (s.off MMU_INVAL_CTL_GO).off MMU_INVAL_CTL_BUSY, ?_, ?_, rfl,
      foot.1, foot.2⟩
    · rw [State.is_commit]
      exact State.is_wr_zero ..
    · rw [State.is_commit, State.is, State.off, State.rd_wr_ne _ (by decide)]
      exact State.is_wr_zero ..
  case flush =>
    have run : exec .faultRingFlush s = .next (s.commit (s.off MMU_FAULT_OUT_OVERFLOW)) :=
      (State.work_row row (by simp [ready, overflow]) _).trans (by rw [flushEffect_reported reported])
    have foot : s.foot (s.commit (s.off MMU_FAULT_OUT_OVERFLOW)) [MMU_FAULT_OUT_OVERFLOW.key 0 0] := State.foot_commit (State.foot_wr (by simp))
    refine ⟨_, run, ?_, rfl, foot.1, foot.2⟩
    rw [State.is_commit]
    exact State.is_wr_zero ..

/-! ### Fault slots are freed (R480, R484, R485) -/

/-- A slot has been freed; its agents have not gone on yet. -/
def State.slotFreed (s : State) (n : Nat) : State :=
  ({ s with slots := Tab.del s.slots n } : State).wr MMU_FAULT_OUT_COUNT (s.rd MMU_FAULT_OUT_COUNT - 1)

/-- An agent of a fault goes on, or its access ends with a status. -/
def State.endFault (f : FaultSlot) (abort : Option Nat) (s : State) (a : Agent × Nat) : State :=
  match abort with
  | some st => s.abortAgent f.ctx f.va st a
  | none => s.wakeAgent a.1

variable {id n : Nat} {f : FaultSlot} {abort : Option Nat}

theorem State.freeFault_found (found : Tab.find s.slots n = some f) (kind : f.status ≠ stLost) :
    s.freeFault n abort = f.agents.foldl (State.endFault f abort) (s.slotFreed n) := by
  simp only [State.freeFault, found, if_neg kind]
  cases abort <;> rfl

/-- A write that names the generation of a page fault's slot ends the fault (R484, R485). -/
theorem State.resumeSlot_current (gen : Tab.look s.slotGen (id % 256) 0 = id / 256 % 256) (found : Tab.find s.slots (id % 256) = some f)
    (kind : f.status ≠ stLost) : s.resumeSlot id abort = (f.agents.foldl (State.endFault f abort) (s.slotFreed (id % 256))).retrySlotless := by
  rw [← State.freeFault_found found kind]
  simp [State.resumeSlot, gen, found]

theorem State.resumeSlot_stale (gen : Tab.look s.slotGen (id % 256) 0 ≠ id / 256 % 256) :
    s.resumeSlot id abort = s.bump MMU_PC_STALE_RESUME := if_pos gen

theorem exec_retry (up : s.railsUp = true) : exec (.retry id) s = .next (s.commit (s.resumeSlot id none)) :=
  State.rails_next up rfl fun s => s.resumeSlot id none

theorem exec_abort (up : s.railsUp = true) : exec (.abort id) s = .next (s.commit (s.resumeSlot id (some stPageFault))) :=
  State.rails_next up rfl fun s => s.resumeSlot id (some stPageFault)

theorem State.retrySlotless_nil (none : s.slotless = []) : s.retrySlotless = s := by
  simp only [State.retrySlotless, none, List.foldl_nil]
  exact congrArg (fun l => { s with slotless := l }) none.symm

/-- A channel that goes on: only its record and its registers change. -/
theorem State.unpauseChan_goes (e c : Nat) (error : Option Nat) :
    let t := s.unpauseChan e c error
    (t.chan e c).paused = false ∧ (t.chan e c).error = error.orElse (fun _ => (s.chan e c).error) ∧ t.slots = s.slots ∧
      t.slotless = s.slotless ∧ s.sameStore t := by
  have record := s.chan_setChan_same e c { s.chan e c with paused := false, error := error.orElse fun _ => (s.chan e c).error }
  have paused := congrArg Chan.paused record
  have ended := congrArg Chan.error record
  unfold State.unpauseChan State.setChState State.dmaWr
  dsimp only
  split
  · split <;> exact ⟨paused, ended, rfl, rfl, fun _ => rfl, fun _ => rfl⟩
  · exact ⟨paused, ended, rfl, rfl, fun _ => rfl, fun _ => rfl⟩

theorem State.endFault_chan (e c m : Nat) : State.endFault f abort s (.chan e c, m) = s.unpauseChan e c abort := by
  cases abort <;> rfl

/-- Where one slot is in use, with a fault of the context, ending the context's faults frees it and ends the fault (R484). -/
theorem State.resumeContext_one {ctx : Nat} (noneLeft : s.slotless = []) (one : s.slots = [(n, f)]) (mine : f.ctx = ctx)
    (kind : f.status ≠ stLost) :
    s.resumeContext ctx abort = (f.agents.foldl (State.endFault f abort) (s.slotFreed n)).retrySlotless := by
  have kept : ({ s with slotless := [] } : State) = s := congrArg (fun l => { s with slotless := l }) noneLeft.symm
  have found : Tab.find s.slots n = some f := by rw [one]; exact if_pos rfl
  rw [← State.freeFault_found found kind]
  simp only [State.resumeContext, noneLeft, List.filter_nil, List.foldl_nil, kept]
  simp [one, mine, kind]

/-- The fault of one channel ends: no slot is in use, and the channel goes on. -/
theorem State.resumeContext_chan {ctx e ch m : Nat} (noneLeft : s.slotless = []) (one : s.slots = [(n, f)]) (mine : f.ctx = ctx)
    (kind : f.status ≠ stLost) (agent : f.agents = [(.chan e ch, m)]) :
    (s.resumeContext ctx abort).slots = [] ∧ ((s.resumeContext ctx abort).chan e ch).paused = false ∧
      (∀ st, abort = some st → ((s.resumeContext ctx abort).chan e ch).error = some st) ∧ s.sameStore (s.resumeContext ctx abort) := by
  have freed : (s.slotFreed n).slots = [] := by simp [State.slotFreed, one, Tab.del]
  obtain ⟨goes, error, slots, slotless, store⟩ := (s.slotFreed n).unpauseChan_goes e ch abort
  have ended : s.resumeContext ctx abort = (s.slotFreed n).unpauseChan e ch abort := by
    rw [State.resumeContext_one noneLeft one mine kind, agent, List.foldl_cons, List.foldl_nil, State.endFault_chan]
    exact State.retrySlotless_nil (slotless.trans noneLeft)
  rw [ended]
  refine ⟨slots.trans freed, goes, ?_, store⟩
  rintro st rfl
  exact error

/-- Settles O32: the four commands free slots by `State.freeFault`, or count a stale write. -/
theorem faultSlotsAreResumed : Obligations.FaultSlotsAreResumed := by
  refine ⟨fun s id f c g up gen found kind which => ?current, fun s id c up gen which => ?stale,
    fun s ctx n e ch id f c up low noneLeft one mine kind agent which => ?context⟩
  case current =>
    have run : exec c s = .next (s.commit (f.agents.foldl g (s.slotFreed (id % 256))).retrySlotless) := by
      obtain ⟨rfl, rfl⟩ | ⟨rfl, rfl⟩ := which
      · exact (exec_retry up).trans (by rw [State.resumeSlot_current gen found kind]; rfl)
      · exact (exec_abort up).trans (by rw [State.resumeSlot_current gen found kind]; rfl)
    have foot : s.foot (s.slotFreed (id % 256)) [MMU_FAULT_OUT_COUNT.key 0 0] :=
      State.foot_wr_of (State.foot_of_eq rfl rfl rfl rfl) (by simp)
    exact ⟨_, run, (Tab.find_del ..).trans (if_pos rfl), fun m other => (Tab.find_del ..).trans (if_neg other), State.rd_wr_same ..,
      foot.1, foot.2⟩
  case stale =>
    have run : exec c s = .next (s.commit (s.bump MMU_PC_STALE_RESUME)) := by
      obtain rfl | rfl := which
      · exact (exec_retry up).trans (by rw [State.resumeSlot_stale gen])
      · exact (exec_abort up).trans (by rw [State.resumeSlot_stale gen])
    have foot : s.foot (s.commit (s.bump MMU_PC_STALE_RESUME)) [MMU_PC_STALE_RESUME.key 0 0] := State.foot_commit (State.foot_wr (by simp))
    exact ⟨_, run, rfl, (State.rd_commit ..).trans (State.rd_wr_same ..), foot.1, foot.2⟩
  case context =>
    have stored {t : State} (same : s.sameStore t) : s.sameStore (s.commit t) :=
      ⟨fun a => (State.rdByte_commit ..).trans (same.1 a), fun k => (State.tok_commit ..).trans (same.2 k)⟩
    have run (abort : Option Nat) : s.rails true (fun s => s.resumeContext (ctx % 64) abort) = .next (s.commit (s.resumeContext ctx abort)) :=
      (State.rails_next up rfl _).trans (by rw [Nat.mod_eq_of_lt low])
    obtain rfl | rfl := which
    · obtain ⟨free, goes, -, store⟩ := State.resumeContext_chan (abort := none) noneLeft one mine kind agent
      exact ⟨_, run none, free, goes, (fun h => nomatch h), stored store⟩
    · obtain ⟨free, goes, failed, store⟩ := State.resumeContext_chan (abort := some stPageFault) noneLeft one mine kind agent
      exact ⟨_, run (some stPageFault), free, goes, fun _ => failed _ rfl, stored store⟩

end Sys2Proof.Machine
end

section
/-!
PROOF. The checkpoint unit (R490, R491, R494 to R496, R636): its registers and the frames held through the writes of the unit, and what its
commands leave.
-/
namespace Sys2Proof.Machine

variable {s u : State}

/-! ### What the unit's writes leave

A write to a lender counts the slots of a port, and changes no other register. -/

/-- The keys that lie elsewhere in their page than LNK_SLOTS_USED. -/
abbrev unitKey (k : Nat) : Prop := k % 0x8000 ≠ 0x980

/-- The frames held, and the registers of these keys. -/
structure UnitView where
  frames : List Nat
  regs   : Nat → Option Nat

def State.unit (s : State) : UnitView := ⟨s.ckptFrames, regsOf unitKey s.regs⟩

theorem State.rd_of_unit (h : u.unit = s.unit) (f : Fld) (i j : Nat) (hk : unitKey (f.key i j)) : u.rd f i j = s.rd f i j := by
  have same : regsOf unitKey u.regs (f.key i j) = regsOf unitKey s.regs (f.key i j) := congrFun (congrArg UnitView.regs h) _
  rw [regsOf, regsOf, if_pos hk, if_pos hk] at same
  simp only [State.rd, Tab.look, same]

theorem State.ckptFrames_of_unit (h : u.unit = s.unit) : u.ckptFrames = s.ckptFrames := congrArg UnitView.frames h

theorem State.unit_sendRequest (q op : Nat) (x : Packet) (dest : Option Nat) : (s.sendRequest q op x dest).unit = s.unit := by
  have slots : ¬ unitKey (LNK_SLOTS_USED_COUNT.key q 0) := by simp [Fld.key, Page.base, LNK_SLOTS_USED_COUNT]; omega
  unfold State.sendRequest
  dsimp only
  split
  · rfl
  · exact congrArg (UnitView.mk s.ckptFrames) (regsOf_set slots)

theorem State.unit_finishOp {o : RemOp} (ho : o.owner = .agent .tier) : (s.finishOp o).unit = s.unit := by
  simp only [State.finishOp, ho]
  split <;> split <;> rfl

theorem State.unit_answer {op : Nat} (h : s.opOfTier op) (addr dev status : Nat) : (s.answer op addr dev status).unit = s.unit := by
  unfold State.answer
  split
  · rfl
  next o found =>
    have owner : o.owner = .agent .tier := h o found
    extract_lets v w o'
    have noted : v.unit = s.unit := by
      show State.unit (if _ then _ else s) = _
      split <;> rfl
    split
    · exact noted
    · split
      · split
        · exact (State.unit_sendRequest ..).trans noted
        · refine (State.unit_finishOp ?_).trans noted
          exact owner
      · refine (State.unit_finishOp ?_).trans noted
        exact owner

theorem State.unit_sendOrFail {op : Nat} (h : s.opOfTier op) (x : Packet) (dest : Option Nat) : (s.sendOrFail op x dest).unit = s.unit := by
  unfold State.sendOrFail
  split
  · split
    · exact State.unit_answer h ..
    · exact State.unit_sendRequest ..
  · exact State.unit_answer h ..

theorem State.unit_putPieces (op ctx : Nat) (sched : Bool) (g : Nat) (data : List Byte) (l : List (Nat × Nat)) :
    ∀ s : State, s.opOfTier op → (s.putPieces op ctx sched g data l).unit = s.unit := by
  induction l with
  | nil => exact fun _ _ => rfl
  | cons x l ih => exact fun s h => (ih _ (State.sendOrFail_keeps h _ none).2).trans (State.unit_sendOrFail h _ none)

theorem State.unit_remotePut (ctx : Nat) (sched : Bool) (g : Nat) (data : List Byte) :
    (s.remotePut (.agent .tier) ctx sched g data).unit = s.unit := by
  unfold State.remotePut
  dsimp only
  split
  · rfl
  · refine (State.unit_putPieces _ _ _ _ _ _ _ fun o found => ?_).trans rfl
    have opened : some _ = some o := (if_pos rfl).symm.trans ((Tab.find_put ..).symm.trans found)
    exact congrArg RemOp.owner (Option.some.inj opened).symm

theorem State.unit_undefine (a n : Nat) : (s.undefine a n).unit = s.unit := by
  unfold State.undefine
  split <;> rfl

theorem State.unit_wrMem (a : Nat) (data : List Byte) : (s.wrMem a data).unit = s.unit := by
  obtain ⟨m, h⟩ := State.wrMem_mem data s a
  rw [h]
  rfl

theorem State.unit_noteWrite (a n : Nat) : (s.noteWrite a n).unit = s.unit := by
  have moves (v : State) : (v.noteMoves (gpaOf s.dev a) n).unit = v.unit := by
    unfold State.noteMoves
    split <;> rfl
  have cleansed (v : State) : (if v.poison.isEmpty = true then v else v.cleanse a n).unit = v.unit := by split <;> rfl
  unfold State.noteWrite
  split
  · exact (cleansed _).trans (moves _)
  · exact (cleansed _).trans ((moves _).trans rfl)

/-- A write of the unit, wherever it goes, leaves its registers and the frames held. -/
theorem State.unit_putRaw (g : Nat) (data : List Byte) : (s.putRaw g data).unit = s.unit := by
  unfold State.putRaw
  split
  · split
    · rfl
    · rw [State.unit_noteWrite, State.unit_wrMem]
  · exact State.unit_remotePut ..

theorem State.unit_clearCkptBit (f : Nat) : (s.clearCkptBit f).unit = s.unit := (State.unit_noteWrite ..).trans rfl

/-! ### A checkpoint begins, breaks and ends (R491, R495, R496) -/

/-- The unit's registers as a checkpoint begins, with no frame held. -/
def State.ckptBegun (s : State) : State :=
  { (((s.off MMU_CKPT_CTL_ARM).wr MMU_CKPT_STAT_STATE 2).wr TIER_CKPT_STAT_AREA (s.rd TIER_CKPT_CTL_SELECT)).wr TIER_CKPT_FRAMES_COUNT 0 with
    ckptFrames := [] }

theorem State.unit_enterActive (stroke : Nat) : (s.enterActive stroke).unit = s.ckptBegun.unit := by
  have noted (v : State) (l : List (Nat × Snapshot)) : ({ v with snaps := l } : State).unit = v.unit := rfl
  have drawn (v : State) (n : Nat) : ({ v with fresh := n } : State).unit = v.unit := rfl
  unfold State.enterActive
  extract_lets a g v w x snap y
  have headed : y.unit = s.ckptBegun.unit := (noted ..).trans (State.unit_putRaw ..)
  split
  · exact (State.unit_undefine ..).trans headed
  · exact (State.unit_putRaw ..).trans ((drawn ..).trans headed)

/-- ARM in STOPPED, seen on the unit (R491, R493). -/
theorem State.enterActive_unit (stroke : Nat) :
    (s.enterActive stroke).rd MMU_CKPT_STAT_STATE = 2 ∧ (s.enterActive stroke).is MMU_CKPT_CTL_ARM = false ∧
      (s.enterActive stroke).ckptFrames = [] ∧
      (s.enterActive stroke).rd TIER_CKPT_STAT_AREA = s.rd TIER_CKPT_CTL_SELECT % 2 ^ TIER_CKPT_STAT_AREA.w := by
  have begun (f : Fld) (hk : unitKey (f.key 0 0)) :
      (s.enterActive stroke).rd f = ((((s.off MMU_CKPT_CTL_ARM).wr MMU_CKPT_STAT_STATE 2).wr TIER_CKPT_STAT_AREA
        (s.rd TIER_CKPT_CTL_SELECT)).wr TIER_CKPT_FRAMES_COUNT 0).rd f :=
    State.rd_of_unit (State.unit_enterActive stroke) f 0 0 hk
  refine ⟨?_, ?_, State.ckptFrames_of_unit (State.unit_enterActive stroke), ?_⟩
  · rw [begun _ (by decide), State.rd_wr_ne _ (by decide), State.rd_wr_ne _ (by decide), State.rd_wr_same]
    rfl
  · rw [State.is, begun _ (by decide), State.rd_wr_ne _ (by decide), State.rd_wr_ne _ (by decide), State.rd_wr_ne _ (by decide)]
    exact State.is_wr_zero ..
  · rw [begun _ (by decide), State.rd_wr_ne _ (by decide), State.rd_wr_same]

/-- A checkpoint that breaks shows STATE 3, and no other register of the unit changes. -/
theorem State.rd_breakCkpt {f : Fld} (hk : unitKey (f.key 0 0)) (hl : f.key 0 0 ≠ LOG_DROPPED.key 0 0) :
    s.breakCkpt.rd f = (s.wr MMU_CKPT_STAT_STATE 3).rd f :=
  (State.rd_logFrom _ hl ..).trans (State.rd_of_unit (State.unit_putRaw ..) f 0 0 hk)

/-- The scan is at its end: the unit is IDLE with DONE, and the frames held stay (R495). -/
theorem State.endScan_unit :
    s.endScan.rd MMU_CKPT_STAT_STATE = 0 ∧ s.endScan.is MMU_CKPT_STAT_DONE = true ∧ s.endScan.ckptFrames = s.ckptFrames := by
  unfold State.endScan
  extract_lets g index snap v
  have written : (v.putRaw (g + 2) (leBytes 2 1)).unit = s.unit := (State.unit_putRaw ..).trans (State.unit_putRaw ..)
  refine ⟨?_, State.is_wr_one _ _ _ _ rfl, (State.ckptFrames_of_unit written :)⟩
  rw [State.on, State.rd_wr_ne _ (by decide), State.rd_wr_same]
  rfl

/-! ### A frame is copied (R494, R636) -/

/-- A frame is copied into a free slot: after the unit's writes it is noted and counted. -/
theorem State.copyFrame_writes {f : Nat} (room : s.ckptFrames.length < s.areaSlots (s.rd TIER_CKPT_STAT_AREA)) :
    ∃ u : State, u.unit = s.unit ∧ s.copyFrame f =
      (({ u with ckptFrames := u.ckptFrames ++ [f] } : State).wr TIER_CKPT_FRAMES_COUNT (s.ckptFrames.length + 1)).bump MMU_PC_CKPT_COPIES :=
  ⟨_, (State.unit_clearCkptBit _).trans ((State.unit_putRaw ..).trans (State.unit_putRaw ..)), if_neg (Nat.not_le.2 room)⟩

/-- It is then the last of the frames held, and COUNT counts them. -/
theorem State.copyFrame_unit {f : Nat} (room : s.ckptFrames.length < s.areaSlots (s.rd TIER_CKPT_STAT_AREA)) :
    (s.copyFrame f).ckptFrames = s.ckptFrames ++ [f] ∧ (s.copyFrame f).rd MMU_CKPT_STAT_STATE = s.rd MMU_CKPT_STAT_STATE ∧
      (s.copyFrame f).rd TIER_CKPT_FRAMES_COUNT = (s.ckptFrames.length + 1) % 2 ^ TIER_CKPT_FRAMES_COUNT.w := by
  obtain ⟨u, same, copied⟩ := State.copyFrame_writes (f := f) room
  rw [copied]
  refine ⟨congrArg (· ++ [f]) (State.ckptFrames_of_unit same), ?_, ?_⟩
  · rw [State.bump_eq, State.rd_wr_ne _ (by decide), State.rd_wr_ne _ (by decide)]
    exact State.rd_of_unit same _ 0 0 (by decide)
  · rw [State.bump_eq, State.rd_wr_ne _ (by decide), State.rd_wr_same]

/-! ### The effects of the commands -/

theorem armEffect_waits (idle : s.rd MMU_CKPT_STAT_STATE = 0) (runs : s.stkState ≠ 0) (ahead : s.stroke < s.rd MMU_CKPT_AT) :
    armEffect s = (s.wr MMU_CKPT_STAT_STATE 1).on MMU_CKPT_CTL_ARM := by
  rw [armEffect, if_neg (by simp [idle]), if_neg runs, if_neg (by omega)]

theorem armEffect_stopped (idle : s.rd MMU_CKPT_STAT_STATE = 0) (stopped : s.stkState = 0) :
    armEffect s = s.enterActive (s.rd STK_FIRST_STROKE) := by
  rw [armEffect, if_neg (by simp [idle]), if_pos stopped]

/-- CANCEL clears ARM in every state of the unit (R491). -/
theorem cancelEffect_arm : (cancelEffect s).is MMU_CKPT_CTL_ARM = false := by
  have cleared (v : Nat) : ((s.off MMU_CKPT_CTL_ARM).wr MMU_CKPT_STAT_STATE v).is MMU_CKPT_CTL_ARM = false := by
    rw [State.is, State.rd_wr_ne _ (by decide)]
    exact State.is_wr_zero ..
  unfold cancelEffect
  dsimp only
  split
  · exact cleared 0
  · rw [State.is, State.rd_breakCkpt (by decide) (by decide)]
    exact cleared 3
  · exact cleared 0
  · exact State.is_wr_zero ..

theorem State.ckptState_armCleared : (s.off MMU_CKPT_CTL_ARM).rd MMU_CKPT_STAT_STATE = s.rd MMU_CKPT_STAT_STATE := State.rd_wr_ne _ (by decide) _

/-- From ARMED or BROKEN the unit is IDLE again. -/
theorem cancelEffect_idles (h : s.rd MMU_CKPT_STAT_STATE = 1 ∨ s.rd MMU_CKPT_STAT_STATE = 3) :
    cancelEffect s = (s.off MMU_CKPT_CTL_ARM).wr MMU_CKPT_STAT_STATE 0 := by
  obtain h | h := h <;> simp only [cancelEffect, State.ckptState_armCleared, h]

theorem cancelEffect_breaks (h : s.rd MMU_CKPT_STAT_STATE = 2) : cancelEffect s = (s.off MMU_CKPT_CTL_ARM).breakCkpt := by
  simp only [cancelEffect, State.ckptState_armCleared, h]

/-- CHECKPOINT_SCAN in ACTIVE while recovery work may run. -/
theorem exec_checkpointScan (up : s.railsUp = true) (active : s.rd MMU_CKPT_STAT_STATE = 2) (recovery : s.inRecovery = true) :
    exec .checkpointScan s = .next (s.commit (scanEffect s)) := State.rails_next up (by simp [active, recovery]) _

theorem scanEffect_copies {f : Nat} {rest : List Nat} (active : s.rd MMU_CKPT_STAT_STATE = 2) (set : s.setFrames = f :: rest) :
    scanEffect s = s.copyFrame f := by
  simp only [scanEffect, set, List.head?_cons, active, if_true]

theorem scanEffect_ends (active : s.rd MMU_CKPT_STAT_STATE = 2) (set : s.setFrames = []) : scanEffect s = s.endScan := by
  simp only [scanEffect, set, List.head?_nil, active, if_true]

/-- Settles O34: the writes of the unit leave its registers and the frames held, so that each command leaves what it writes there itself. -/
theorem checkpointUnitStates : Obligations.CheckpointUnitStates := by
  refine ⟨fun s up idle runs ahead => ?armed, fun s up idle stopped => ?active, fun s up => ?cancel, fun s f up active set room => ?copy,
    fun s f rest up active recovery set room => ?scan, fun s up active recovery set => ?done⟩
  case armed =>
    have run : exec .arm s = .next (s.commit ((s.wr MMU_CKPT_STAT_STATE 1).on MMU_CKPT_CTL_ARM)) :=
      (State.rails_next up rfl _).trans (by rw [armEffect_waits idle runs ahead])
    have foot : s.foot (s.commit ((s.wr MMU_CKPT_STAT_STATE 1).on MMU_CKPT_CTL_ARM)) [MMU_CKPT_STAT_STATE.key 0 0, MMU_CKPT_CTL_ARM.key 0 0] :=
      State.foot_commit (State.foot_wr_of (State.foot_wr (by simp)) (by simp))
    refine ⟨_, run, ?_, (State.is_commit ..).trans (State.is_wr_one _ _ _ _ rfl), foot.1, foot.2⟩
    rw [State.rd_commit, State.on, State.rd_wr_ne _ (by decide), State.rd_wr_same]
    rfl
  case active =>
    obtain ⟨state, arm, frames, area⟩ := s.enterActive_unit (s.rd STK_FIRST_STROKE)
    have run : exec .arm s = .next (s.commit (s.enterActive (s.rd STK_FIRST_STROKE))) :=
      (State.rails_next up rfl _).trans (by rw [armEffect_stopped idle stopped])
    exact ⟨_, run, (State.rd_commit ..).trans state, (State.is_commit ..).trans arm, frames, (State.rd_commit ..).trans area⟩
  case cancel =>
    refine ⟨_, State.rails_next up rfl _, (State.is_commit ..).trans cancelEffect_arm, fun h => ?_, fun h => ?_⟩
    · have foot : s.foot ((s.off MMU_CKPT_CTL_ARM).wr MMU_CKPT_STAT_STATE 0) [MMU_CKPT_CTL_ARM.key 0 0, MMU_CKPT_STAT_STATE.key 0 0] :=
        State.foot_wr_of (State.foot_wr (by simp)) (by simp)
      rw [cancelEffect_idles h]
      exact ⟨(State.rd_commit ..).trans (State.rd_wr_same ..), (State.foot_commit foot).1⟩
    · rw [cancelEffect_breaks h, State.rd_commit, State.rd_breakCkpt (by decide) (by decide), State.rd_wr_same]
      rfl
  case copy =>
    obtain ⟨frames, state, count⟩ := State.copyFrame_unit (f := f) room
    exact ⟨_, State.rails_next up (by simp [active, set]) fun s => s.copyFrame f, frames,
      (State.rd_commit ..).trans (state.trans active), (State.rd_commit ..).trans count⟩
  case scan =>
    obtain ⟨frames, state, -⟩ := State.copyFrame_unit (f := f) room
    have run : exec .checkpointScan s = .next (s.commit (s.copyFrame f)) :=
      (exec_checkpointScan up active recovery).trans (by rw [scanEffect_copies active set])
    exact ⟨_, run, frames, (State.rd_commit ..).trans (state.trans active)⟩
  case done =>
    obtain ⟨state, done, frames⟩ := s.endScan_unit
    have run : exec .checkpointScan s = .next (s.commit s.endScan) :=
      (exec_checkpointScan up active recovery).trans (by rw [scanEffect_ends active set])
    exact ⟨_, run, (State.rd_commit ..).trans state, (State.is_commit ..).trans done, frames⟩

end Sys2Proof.Machine
end

section
/-!
PROOF. Walks that meet a page fault (R468, R480): a seat that stands in a fault slot already does not join it again, and the lookup of a slot
by its number finds the first one that is listed under it.
-/
namespace Sys2Proof.Machine

/-! ### The witness: two faults listed under one slot number

Seat 0 of crew 0 has a block of context 2, whose page 1 has no leaf. Slot 0 is listed twice, which the model's own steps never leave
(`Tab.put` keeps one entry for a key): first with a fault of context 1, then with the fault of that page, at which the seat stands. -/

/-- A fault of another context. -/
def otherFault : FaultSlot := { (default : FaultSlot) with ctx := 1 }

/-- The fault of page 1 of context 2, with seat 0 of crew 0. -/
def seatFault : FaultSlot := { (default : FaultSlot) with ctx := 2, page := 1, va := 0x10000, agents := [(.core 0, 0)] }

def slotListedTwice : State :=
  { (Tests.tables Tests.running).setCore 0 { (default : Core) with block := some { Tests.block1 with ctx := 2 } } with
    slots := [(0, otherFault), (0, seatFault)] }

/-- The walk leaves the slots as they are: under number 0 the fault of the other context is found. -/
theorem slotListedTwice_walked : Tab.find (walkEffect (.core 0) 2 0x10000 .read slotListedTwice).slots 0 = some otherFault := by
  decide +kernel

/-- Refutes O31: the state is free to list two faults under one slot number. Where the seat stands at the second one already, its walk joins
no slot (R480), and the slot of that number shows the first fault, which is of another context. A table in order has no such pair. -/
theorem not_walksFillTheTlb : ¬ Obligations.WalksFillTheTlb := by
  rintro ⟨-, -, faults⟩
  obtain ⟨t, run, -, -, -, -, -, joins, -⟩ := faults slotListedTwice 0 2 0x10000 0 .read (by decide +kernel) (by decide) (by decide)
    (by decide +kernel) (by decide +kernel) (by decide +kernel) (by decide +kernel) (by decide +kernel) (by decide +kernel)
  have walked : exec (.walk (.core 0) 2 0x10000 .read) slotListedTwice =
      .next (slotListedTwice.commit (walkEffect (.core 0) 2 0x10000 .read slotListedTwice)) :=
    State.rails_next (by decide +kernel) (by decide +kernel) _
  obtain rfl := Host.Outcome.next.inj (run.symm.trans walked)
  obtain ⟨g, found, -, ctx, -⟩ := joins 0 seatFault (by decide +kernel)
  rw [State.commit_slots, slotListedTwice_walked] at found
  obtain rfl := Option.some.inj found
  exact absurd ctx (by decide)

end Sys2Proof.Machine
end

section
/-!
PROOF. DMA channels (R513, R522 to R524, R527): what a write of a channel's register leaves, and what enabling, draining, forcing off and
disabling a channel show.
-/
namespace Sys2Proof.Machine

variable {s t : State} {e ch v : Nat} {c c' h h' : Fld}

theorem State.chan_congr (chans : t.chans = s.chans) (i j : Nat) : t.chan i j = s.chan i j :=
  congrArg (fun l => Tab.look l (chanKey i j) default) chans

/-! ### A channel's registers (R501, R527) -/

/-- Two registers of a channel are other fields of its crew's page, and of the host engine's. -/
abbrev channelApart (c h c' h' : Fld) : Prop := c.beside c' ∧ h.beside h'

@[simp] theorem State.chan_dmaWr (s : State) (i j : Nat) : (s.dmaWr e ch c h v).chan i j = s.chan i j := by
  unfold State.dmaWr
  split <;> rfl

@[simp] theorem State.rdByte_dmaWr (s : State) (a : Nat) : (s.dmaWr e ch c h v).rdByte a = s.rdByte a := by
  unfold State.dmaWr
  split <;> rfl

@[simp] theorem State.tok_dmaWr (s : State) (k : Nat) : (s.dmaWr e ch c h v).tok k = s.tok k := by
  unfold State.dmaWr
  split <;> rfl

theorem State.dmaRd_dmaWr_same (s : State) {c h : Fld} (width : c.w = h.w) (v : Nat) : (s.dmaWr e ch c h v).dmaRd e ch c h = v % 2 ^ c.w := by
  unfold State.dmaWr State.dmaRd
  split
  · rw [State.rd_wr_same, width]
  · exact State.rd_wr_same ..

theorem State.dmaRd_dmaWr_apart (s : State) (apart : channelApart c h c' h') (v : Nat) :
    (s.dmaWr e ch c' h' v).dmaRd e ch c h = s.dmaRd e ch c h := by
  unfold State.dmaWr State.dmaRd
  split
  · exact State.rd_wr_beside apart.2 ..
  · exact State.rd_wr_beside apart.1 ..

theorem State.dmaRd_congr (regs : t.regs = s.regs) (e ch : Nat) (c h : Fld) : t.dmaRd e ch c h = s.dmaRd e ch c h := by
  simp only [State.dmaRd, State.rd_congr regs]

@[simp] theorem State.dmaRd_commit (s t : State) (e ch : Nat) (c h : Fld) : (s.commit t).dmaRd e ch c h = t.dmaRd e ch c h := by
  simp only [State.dmaRd, State.rd_commit]

@[simp] theorem State.chState_commit (s t : State) (e ch : Nat) : (s.commit t).chState e ch = t.chState e ch := State.dmaRd_commit ..

theorem State.chState_setChState (s : State) (e ch v : Nat) : (s.setChState e ch v).chState e ch = v % 8 :=
  State.dmaRd_dmaWr_same (c := CDM_CH_STAT_STATE) (h := HDM_CH_STAT_STATE) s rfl v

theorem State.chState_dmaWr (s : State) (apart : channelApart CDM_CH_STAT_STATE HDM_CH_STAT_STATE c h) (v : Nat) :
    (s.dmaWr e ch c h v).chState e ch = s.chState e ch := State.dmaRd_dmaWr_apart s apart v

@[simp] theorem State.chan_setChState (s : State) (i j : Nat) : (s.setChState e ch v).chan i j = s.chan i j := State.chan_dmaWr ..

/-- A write of a channel's register leaves bytes and tokens. -/
theorem State.sameStore_dmaWr (s : State) (e ch v : Nat) (c h : Fld) : s.sameStore (s.dmaWr e ch c h v) :=
  ⟨fun _ => State.rdByte_dmaWr .., fun _ => State.tok_dmaWr ..⟩

theorem State.sameStore_trans {u : State} (first : s.sameStore t) (second : t.sameStore u) : s.sameStore u :=
  ⟨fun a => (second.1 a).trans (first.1 a), fun k => (second.2 k).trans (first.2 k)⟩

/-- A state with other registers of a channel, after a change that left bytes and tokens. -/
theorem State.sameStore_dmaWr_of (same : s.sameStore t) : s.sameStore (t.dmaWr e ch c h v) :=
  State.sameStore_trans same (State.sameStore_dmaWr ..)

/-! ### A descriptor at HEAD that is not posted (R513) -/

/-- The channel reads the descriptor at HEAD again 1 µs later. -/
def State.ownerWaited (s : State) (e ch : Nat) : State :=
  let u := (s.at (s.clock + 16000)).clearArrived (.chan e ch)
  if e = 16 then u.bump HDM_CH_OWNER_WAITS else u.bump CDM_CH_OWNER_WAITS 1 e

theorem State.foot_ownerWaited (s : State) (e ch : Nat) :
    s.foot (s.ownerWaited e ch) [CDM_CH_OWNER_WAITS.key e 0, HDM_CH_OWNER_WAITS.key 0 0] := by
  have before : s.foot ((s.at (s.clock + 16000)).clearArrived (.chan e ch)) [CDM_CH_OWNER_WAITS.key e 0, HDM_CH_OWNER_WAITS.key 0 0] :=
    State.foot_of_eq rfl rfl rfl rfl
  unfold State.ownerWaited
  dsimp only
  split
  · exact State.foot_wr_of before (by simp)
  · exact State.foot_wr_of before (by simp)

theorem State.ownerWaited_keeps (s : State) (e ch : Nat) :
    (s.ownerWaited e ch).clock = s.clock + 16000 ∧ (s.ownerWaited e ch).chan e ch = s.chan e ch := by
  have later : max s.clock (s.clock + 16000) = s.clock + 16000 := max_eq_right (Nat.le_add_right ..)
  unfold State.ownerWaited
  dsimp only
  split <;> exact ⟨later, rfl⟩

theorem exec_ownerWait {raw : List Byte} (up : s.railsUp = true) (goes : s.chanGoes e ch = true) (idle : (s.chan e ch).desc = none)
    (desc : s.chanDesc e ch = some (.ok raw)) (unposted : s.owned e ch raw = false) :
    exec (.ownerWait e ch) s = .next (s.commit (s.ownerWaited e ch)) := by
  show execOwnerWait e ch s = _
  unfold execOwnerWait
  exact State.rails_next up (by simp [goes, idle, desc, unposted]) _

/-! ### A channel is opened, drains, and is forced off (R522 to R524) -/

/-- A disabled channel is opened. -/
theorem chEnableEffect_opens (disabled : s.chState e ch = 5) :
    let t := chEnableEffect e ch s
    t.chState e ch = 0 ∧ t.dmaRd e ch CDM_CH_CTL_ENABLE HDM_CH_CTL_ENABLE = 1 ∧ (t.chan e ch).force = false ∧ (t.chan e ch).stopped = false ∧
      s.sameStore t := by
  unfold chEnableEffect
  rw [if_pos disabled]
  refine ⟨?_, ?_, ?_, ?_, ?_⟩
  · exact (State.chState_dmaWr _ (by decide) _).trans (State.chState_setChState ..)
  · exact State.dmaRd_dmaWr_same (c := CDM_CH_CTL_ENABLE) (h := HDM_CH_CTL_ENABLE) _ rfl _
  · simp
  · simp
  · exact State.sameStore_dmaWr_of (State.sameStore_dmaWr ..)

/-- A channel that does not drain yet begins to, with the doorbell count of the request. -/
theorem chDisableEffect_drains (runs : s.chState e ch ≤ 3) (fresh : s.draining e ch = false) :
    let t := chDisableEffect e ch s
    t.chState e ch = 4 ∧ (t.chan e ch).bell = s.chanBell e ch ∧ (t.chan e ch).desc = (s.chan e ch).desc ∧ s.sameStore t := by
  unfold chDisableEffect
  rw [if_pos ⟨runs, by simp [fresh]⟩]
  refine ⟨?_, ?_, ?_, ?_⟩
  · exact (State.chState_dmaWr _ (by decide) _).trans (State.chState_setChState ..)
  · simp
  · simp
  · exact State.sameStore_dmaWr_of (State.sameStore_dmaWr ..)

/-- The descriptor of a channel that is forced off. -/
def DescRun.abandoned (d : DescRun) : DescRun :=
  { d with moved := true, status := stRefused, cause := 0, flags := d.flags ||| flAbandoned, done := if d.moved then d.done else 0 }

/-- FORCE_OFF abandons the descriptor in progress. -/
theorem chForceEffect_abandons {d : DescRun} (on : s.chState e ch ≤ 4) (desc : (s.chan e ch).desc = some d) :
    let t := chForceEffect e ch s
    t.chState e ch = 4 ∧ (t.chan e ch).force = true ∧ (t.chan e ch).desc = some d.abandoned ∧ s.sameStore t := by
  unfold chForceEffect
  rw [if_pos on]
  extract_lets x u y v w
  have kept : (u.chan e ch).desc = some d ∧ s.sameStore u := by
    simp only [u]
    split
    · exact ⟨desc, (s.foot_refl (ks := [])).1⟩
    · exact ⟨by simp [x, desc], (s.foot_refl (ks := [])).1⟩
  obtain ⟨kept, same⟩ := kept
  refine ⟨?_, ?_, ?_, ?_⟩
  · exact (State.chState_dmaWr _ (by decide) _).trans (State.chState_setChState ..)
  · simp [w, v]
  · simp [w, v, y, kept, DescRun.abandoned]
  · exact State.sameStore_dmaWr_of (State.sameStore_dmaWr_of same)

/-! ### A channel is disabled (R522, R523) -/

theorem State.sameStore_cuePart (s : State) (c idx st fl o : Nat) (d : List Byte) (n : Nat) : s.sameStore (s.cuePart c idx st fl o d n) := by
  obtain ⟨xs, h⟩ := s.cuePart_coxes c idx st fl o d n
  rw [h]
  exact ⟨fun _ => rfl, fun _ => rfl⟩

/-- The channel is disabled, and what its requests and its descriptor left is cleared. -/
def State.chanClosed (s : State) (e ch : Nat) : State :=
  let t := (s.setChan e ch { s.chan e ch with force := false, error := none }).setChState e ch 5
  ((t.dmaWr e ch CDM_CH_CTL_ENABLE HDM_CH_CTL_ENABLE 0).dmaWr e ch CDM_CH_CTL_DISABLE_REQ HDM_CH_CTL_DISABLE_REQ 0).dmaWr e ch
    CDM_CH_CTL_FORCE_OFF HDM_CH_CTL_FORCE_OFF 0

theorem State.chanClosed_shows (s : State) (e ch : Nat) :
    (s.chanClosed e ch).chState e ch = 5 ∧ ((s.chanClosed e ch).chan e ch).cue = (s.chan e ch).cue ∧
      (s.chanClosed e ch).dmaRd e ch CDM_CH_CTL_ENABLE HDM_CH_CTL_ENABLE = 0 ∧ s.sameStore (s.chanClosed e ch) := by
  unfold State.chanClosed
  refine ⟨?_, ?_, ?_, ?_⟩
  · rw [State.chState_dmaWr _ (by decide), State.chState_dmaWr _ (by decide), State.chState_dmaWr _ (by decide), State.chState_setChState]
  · simp
  · rw [State.dmaRd_dmaWr_apart _ (by decide), State.dmaRd_dmaWr_apart _ (by decide)]
    exact State.dmaRd_dmaWr_same (c := CDM_CH_CTL_ENABLE) (h := HDM_CH_CTL_ENABLE) _ rfl _
  · exact State.sameStore_dmaWr_of (State.sameStore_dmaWr_of (State.sameStore_dmaWr_of (State.sameStore_dmaWr ..)))

/-- The channel gives up the cue whose list it was working on. -/
def State.cueGivenUp (s : State) (e ch idx : Nat) : State :=
  let x := s.chan e ch
  ((s.clearArrived (.chan e ch)).setChan e ch { x with cue := none, count := 0, pos := 0, fail := none, flags := 0 }).cuePart e idx stRefused
    (x.flags ||| (if x.force then flAbandoned else 0)) 0 (leBytes x.pos 2)

theorem State.chan_cuePart (s : State) (c idx st fl o : Nat) (d : List Byte) (n i j : Nat) : (s.cuePart c idx st fl o d n).chan i j = s.chan i j := by
  obtain ⟨xs, h⟩ := s.cuePart_coxes c idx st fl o d n
  rw [h]
  rfl

theorem channelDisabledEffect_closes {idx : Nat} (list : s.ringMode e ch = false) (cue : (s.chan e ch).cue = some idx)
    (answered : (s.chan e ch).out = 0) : channelDisabledEffect e ch s = (s.cueGivenUp e ch idx).chanClosed e ch := by
  have mode : (s.clearArrived (.chan e ch)).ringMode e ch = false := list
  have free : (!true || (s.chan e ch).out != 0) = false := by simp [answered]
  simp only [channelDisabledEffect, list, mode, cue, free, Bool.false_eq_true, if_false]
  rfl

/-- Settles O17, each command from what its effect shows. -/
theorem channelsAreEnabledAndDisabled : Obligations.ChannelsAreEnabledAndDisabled := by
  intro s e ch up exist
  refine ⟨fun raw goes idle desc unposted => ?_, fun disabled => ?_, fun runs fresh => ?_, fun d on desc => ?_,
    fun idx drains idle answered goes quiet list cue spent => ?_⟩
  · obtain ⟨later, chan⟩ := s.ownerWaited_keeps e ch
    obtain ⟨store, regs⟩ := State.foot_commit (u := s) (s.foot_ownerWaited e ch)
    exact ⟨_, exec_ownerWait up goes idle desc unposted, later, store, chan, regs⟩
  · obtain ⟨state, enable, force, stopped, store⟩ := chEnableEffect_opens disabled
    exact ⟨_, State.rails_next up exist _, (State.chState_commit ..).trans state, (State.dmaRd_commit ..).trans enable, force, stopped,
      State.sameStore_commit store⟩
  · obtain ⟨state, bell, desc, store⟩ := chDisableEffect_drains runs fresh
    exact ⟨_, State.rails_next up exist _, (State.chState_commit ..).trans state, bell, desc, State.sameStore_commit store⟩
  · obtain ⟨state, force, left, store⟩ := chForceEffect_abandons on desc
    exact ⟨_, _, State.rails_next up exist _, (State.chState_commit ..).trans state, force, left, rfl, rfl, rfl, rfl,
      State.sameStore_commit store⟩
  · obtain ⟨state, done, enable, store⟩ := (s.cueGivenUp e ch idx).chanClosed_shows e ch
    have given : ((s.cueGivenUp e ch idx).chan e ch).cue = none := by
      rw [State.cueGivenUp, State.chan_cuePart, State.chan_setChan_same]
    have kept : s.sameStore (s.cueGivenUp e ch idx) := State.sameStore_cuePart ..
    have ok : (!(s.drainRuns e ch && decide (0 < s.chanLeft e ch))) = true := by
      obtain h | h := spent <;> simp [h]
    have cond : (chanExists e ch && s.chState e ch == 4 && ((s.chan e ch).out == 0 && (s.chan e ch).desc.isNone && !(s.chan e ch).paused &&
        !s.readsFly (.chan e ch)) && !(s.drainRuns e ch && decide (0 < s.chanLeft e ch))) = true := by
      simp [exist, drains, answered, idle, goes, quiet, ok]
    exact ⟨_, State.rails_eq up cond (channelDisabledEffect_closes list cue answered), (State.chState_commit ..).trans state,
      done.trans given, (State.dmaRd_commit ..).trans enable, State.sameStore_commit (State.sameStore_trans kept store)⟩

end Sys2Proof.Machine
end

section
/-!
PROOF. The completion of a descriptor (R511, R514, R515, R517, R527): the last one of a cue's list adds its increment, frees its channel and
ends its part of the cue.
-/
namespace Sys2Proof.Machine

variable {s t u : State} {e ch : Nat} {d : DescRun}

/-! ### What becomes of the descriptor (R514, R515, R517) -/

/-- An increment that is made here sets one token. -/
theorem State.signalAt_made {o : Owner} {ctx va inc : Nat} (made : s.signalAt o ctx va inc true = .made u) : ∃ k v, u = s.setTok k v := by
  have scheduled (k inc : Nat) : s.addTok k inc true = s.setTok k (s.tok k + BitVec.ofNat 32 inc) := by
    simp [State.addTok, State.changeTok, State.stray]
  unfold State.signalAt at made
  split at made
  · cases made
  · cases made
  · cases made
  · cases made
  · split at made
    · split at made
      · cases made
      · split at made
        · injection made with made
          exact ⟨_, _, made.symm.trans (scheduled ..)⟩
        · cases made
    · dsimp only at made
      cases made

/-- A descriptor that has succeeded, with a read-back that finds nothing amiss, keeps its outcome. -/
theorem State.descOutcome_success (fresh : d.sent = false) (good : (s.chan e ch).error = none)
    (clean : s.readBackBad (s.chan e ch).ctx d.raw = false) : s.descOutcome e ch d = (d, s) := by
  simp [State.descOutcome, fresh, good, clean]

/-- A descriptor of a list is not written back: its increment is made, where it names one, and it is closed. -/
theorem State.completeDesc_closes (list : s.ringMode e ch = false) (fresh : d.sent = false) (done : d.status = stSuccess) (bare : d.flags = 0)
    (made : fieldLE d.raw 40 8 = 0 ∧ u = s ∨ fieldLE d.raw 40 8 ≠ 0 ∧
      s.signalAt (.chan e ch) (s.chan e ch).ctx (fieldLE d.raw 40 8) (fieldLE d.raw 48 2) true = .made u) :
    s.completeDesc e ch d = u.closeDesc e ch { d with stage := 2 } := by
  have direct (k : State → State) : s.backThen e ch d k = k s := by simp [State.backThen, list]
  rw [State.completeDesc, direct]
  obtain ⟨unnamed, rfl⟩ | ⟨named, made⟩ := made
  · have quiet : ({ d with stage := 2 } : DescRun).increments = false := by simp [DescRun.increments, unnamed]
    simp [quiet]
  · have adds : ({ d with stage := 2 } : DescRun).increments = true := by
      simp [DescRun.increments, named, fresh, bare, done, stSuccess, stMalformed]
    simp [adds, list, made]

theorem descriptorCompleteEffect_closes (desc : (s.chan e ch).desc = some d) (list : s.ringMode e ch = false) (fresh : d.sent = false)
    (done : d.status = stSuccess) (bare : d.flags = 0) (good : (s.chan e ch).error = none)
    (here : s.readBackNeeds (.chan e ch) (s.chan e ch).ctx d.raw = none) (clean : s.readBackBad (s.chan e ch).ctx d.raw = false)
    (made : fieldLE d.raw 40 8 = 0 ∧ u = s ∨ fieldLE d.raw 40 8 ≠ 0 ∧
      s.signalAt (.chan e ch) (s.chan e ch).ctx (fieldLE d.raw 40 8) (fieldLE d.raw 48 2) true = .made u) :
    descriptorCompleteEffect e ch s = u.closeDesc e ch { d with stage := 2 } := by
  have outcome := State.descOutcome_success fresh good clean
  simp [descriptorCompleteEffect, desc, here, outcome, State.completeDesc_closes list fresh done bare made]

/-! ### The channel and its list (R511, R527) -/

/-- The registers count a descriptor of a crew's engine that has succeeded, and its channel holds none. -/
def State.descCounted (s : State) (e ch : Nat) (d : DescRun) : State :=
  ((s.wr CDM_CH_STAT_STATUS stSuccess e ch).bump CDM_PC_DESCRIPTORS 1 e).setChan e ch
    { ((s.chan e ch).gather d stSuccess d.cause d.done) with desc := none, error := none }

/-- The same, and the channel takes a state. -/
def State.descFreed (s : State) (e ch : Nat) (d : DescRun) (k : Nat) : State :=
  (s.descCounted e ch d).setChState e ch k

/-- The channel is idle, and works on no list. -/
def State.listFreed (s : State) (e ch : Nat) : State :=
  (s.setChan e ch { s.chan e ch with cue := none, count := 0, pos := 0, fail := none, flags := 0 }).setChState e ch 0

/-- The cue whose list has ended learns it. -/
def State.listEnded (s : State) (e ch idx : Nat) : State := (s.listFreed e ch).cuePart e idx stSuccess (s.chan e ch).flags 0 []

/-- The registers that the end of a descriptor writes. -/
abbrev descKeys (e ch : Nat) : List Nat := [CDM_CH_STAT_STATUS.key e ch, CDM_CH_STAT_STATE.key e ch, CDM_PC_DESCRIPTORS.key e 0]

theorem descriptors_ne_channel (f : Fld) (page : f.page = .cdm) (stride : f.stride = 0x20) (off : 0x200 ≤ f.off) (e i : Nat) :
    CDM_PC_DESCRIPTORS.key e 0 ≠ f.key e i := by
  simp only [Fld.key, page, stride, Page.base, CDM_PC_DESCRIPTORS]
  omega

/-- A part of a cue has ended. -/
theorem State.cuePart_left {c idx : Nat} {r : CueRun} (found : Tab.find (s.cox c).running idx = some r) (st fl o : Nat)
    (detail : List Byte) (n : Nat) :
    ∃ v, Tab.find ((s.cuePart c idx st fl o detail n).cox c).running idx = some v ∧ v.left = r.left - n := by
  unfold State.cuePart
  simp only [found]
  exact ⟨_, by rw [State.cox_setCox_same, Tab.find_put, if_pos rfl], rfl⟩

theorem State.regs_cuePart (s : State) (c idx st fl o : Nat) (detail : List Byte) (n : Nat) : (s.cuePart c idx st fl o detail n).regs = s.regs := by
  obtain ⟨xs, h⟩ := s.cuePart_coxes c idx st fl o detail n
  rw [h]

theorem State.setChState_crew (s : State) (ch v : Nat) (crew : e ≠ 16) : s.setChState e ch v = s.wr CDM_CH_STAT_STATE v e ch := if_neg crew

theorem State.foot_listEnded (s : State) (ch idx : Nat) (crew : e ≠ 16) : s.foot (s.listEnded e ch idx) [CDM_CH_STAT_STATE.key e ch] := by
  obtain ⟨xs, parts⟩ := (s.listFreed e ch).cuePart_coxes e idx stSuccess (s.chan e ch).flags 0 [] 1
  rw [State.listEnded, parts, State.listFreed, State.setChState_crew _ _ _ crew]
  exact State.foot_upd_of (State.foot_wr_of (State.foot_of_eq rfl rfl rfl rfl) (by simp)) rfl rfl rfl rfl

theorem State.listEnded_shows (s : State) (e ch idx : Nat) : (s.listEnded e ch idx).chState e ch = 0 ∧
    ((s.listEnded e ch idx).chan e ch).desc = (s.chan e ch).desc ∧ ((s.listEnded e ch idx).chan e ch).cue = none := by
  have regs : (s.listEnded e ch idx).regs = (s.listFreed e ch).regs := State.regs_cuePart ..
  have chan : (s.listEnded e ch idx).chan e ch = { s.chan e ch with cue := none, count := 0, pos := 0, fail := none, flags := 0 } := by
    rw [State.listEnded, State.chan_cuePart, State.listFreed, State.chan_setChState, State.chan_setChan_same]
  exact ⟨(State.dmaRd_congr regs ..).trans (State.chState_setChState ..), by rw [chan], by rw [chan]⟩

theorem State.cox_listFreed (s : State) (e ch c : Nat) : (s.listFreed e ch).cox c = s.cox c := by
  unfold State.listFreed State.setChState State.dmaWr
  split <;> rfl

theorem State.cox_descFreed (s : State) (e ch : Nat) (d : DescRun) (k c : Nat) : (s.descFreed e ch d k).cox c = s.cox c := by
  unfold State.descFreed State.setChState State.dmaWr
  split <;> rfl

theorem State.chan_descFreed (s : State) (e ch : Nat) (d : DescRun) (k : Nat) :
    (s.descFreed e ch d k).chan e ch = { ((s.chan e ch).gather d stSuccess d.cause d.done) with desc := none, error := none } := by
  rw [State.descFreed, State.chan_setChState, State.descCounted, State.chan_setChan_same]

theorem State.foot_descFreed (s : State) (ch : Nat) (d : DescRun) (k : Nat) (crew : e ≠ 16) : s.foot (s.descFreed e ch d k) (descKeys e ch) := by
  rw [State.descFreed, State.setChState_crew _ _ _ crew, State.descCounted]
  exact State.foot_wr_of (State.foot_upd_of (State.foot_wr_of (State.foot_wr (by simp)) (by simp)) rfl rfl rfl rfl) (by simp)

theorem State.rd_descFreed (s : State) (ch : Nat) (d : DescRun) (k : Nat) (crew : e ≠ 16) :
    (s.descFreed e ch d k).rd CDM_CH_STAT_STATUS e ch = stSuccess ∧
      (s.descFreed e ch d k).rd CDM_PC_DESCRIPTORS e = (s.rd CDM_PC_DESCRIPTORS e + 1) % 2 ^ CDM_PC_DESCRIPTORS.w := by
  have status := descriptors_ne_channel CDM_CH_STAT_STATUS rfl rfl (by decide) e ch
  have state := descriptors_ne_channel CDM_CH_STAT_STATE rfl rfl (by decide) e ch
  rw [State.descFreed, State.setChState_crew _ _ _ crew, State.descCounted]
  constructor
  · rw [State.rd_wr_beside (by decide), State.rd_setChan, State.bump_eq, State.rd_wr_ne _ status.symm, State.rd_wr_same]
    rfl
  · rw [State.rd_wr_ne _ state, State.rd_setChan, State.bump_eq, State.rd_wr_same, State.rd_wr_ne _ status]

/-! ### The last descriptor of a list -/

theorem State.endList_success {idx : Nat} (cue : (s.chan e ch).cue = some idx) (good : (s.chan e ch).fail = none) (on : s.chState e ch ≠ 4) :
    s.endList e ch = s.listEnded e ch idx := by
  have before (x : Chan) : (s.setChan e ch x).chState e ch ≠ 4 := on
  simp only [State.endList, cue, good, before, if_false]
  rfl

/-- The state in which the next descriptor finds the channel. -/
def State.chanAfter (s : State) (e ch : Nat) : Nat := if s.chanLeft e ch = 0 then 0 else if s.chanGoes e ch then 1 else 3

/-- A descriptor of a crew's engine that has succeeded, with its channel on. -/
theorem State.finishDesc_success (crew : e ≠ 16) (on : (s.descCounted e ch d).chState e ch ≠ 4) :
    s.finishDesc e ch d stSuccess d.cause d.done =
      let t := s.descFreed e ch d ((s.descCounted e ch d).chanAfter e ch)
      if !t.ringMode e ch ∧ (t.chan e ch).count ≤ (t.chan e ch).pos then t.endList e ch else t := by
  have inst : dmaInst e = e := if_neg crew
  have other : stSuccess ≠ stBadDesc := by decide
  simp only [State.finishDesc, State.dmaWr, inst, if_neg crew, if_neg other]
  exact congrArg (fun t : State => if !t.ringMode e ch ∧ (t.chan e ch).count ≤ (t.chan e ch).pos then t.endList e ch else t) (if_neg on)

theorem State.chState_descCounted (s : State) (ch : Nat) (d : DescRun) (crew : e ≠ 16) :
    (s.descCounted e ch d).chState e ch = s.chState e ch := by
  have descriptors := descriptors_ne_channel CDM_CH_STAT_STATE rfl rfl (by decide) e ch
  simp only [State.chState, State.dmaRd, if_neg crew]
  rw [State.descCounted, State.rd_setChan, State.bump_eq, State.rd_wr_ne _ descriptors.symm, State.rd_wr_beside (by decide)]

theorem mode_notin_descKeys (e ch : Nat) : CDM_CH_CTL_MODE.key e ch ∉ descKeys e ch := by
  simp only [List.mem_cons, List.not_mem_nil, or_false, Fld.key, Page.base, CDM_CH_CTL_MODE, CDM_CH_STAT_STATUS, CDM_CH_STAT_STATE,
    CDM_PC_DESCRIPTORS]
  omega

theorem State.ringMode_descFreed (s : State) (ch : Nat) (d : DescRun) (k : Nat) (crew : e ≠ 16) :
    (s.descFreed e ch d k).ringMode e ch = s.ringMode e ch := by
  have mode := State.foot_rd (s.foot_descFreed ch d k crew) CDM_CH_CTL_MODE e ch (mode_notin_descKeys e ch)
  simp only [State.ringMode, State.is, mode]

theorem State.chanAfter_ne (s : State) (e ch : Nat) : s.chanAfter e ch % 8 ≠ 4 := by
  unfold State.chanAfter
  split
  · decide
  · split <;> decide

/-- The last descriptor of a list ends with it. -/
theorem State.finishDesc_last {idx : Nat} (crew : e ≠ 16) (list : s.ringMode e ch = false) (on : s.chState e ch ≠ 4)
    (cue : (s.chan e ch).cue = some idx) (last : (s.chan e ch).count ≤ (s.chan e ch).pos) (good : (s.chan e ch).fail = none) :
    ∃ k, s.finishDesc e ch d stSuccess d.cause d.done = (s.descFreed e ch d k).listEnded e ch idx := by
  refine ⟨(s.descCounted e ch d).chanAfter e ch, ?_⟩
  rw [State.finishDesc_success crew ((s.chState_descCounted ch d crew).symm ▸ on)]
  generalize hk : (s.descCounted e ch d).chanAfter e ch = k
  have free : k % 8 ≠ 4 := hk ▸ State.chanAfter_ne (s.descCounted e ch d) e ch
  have chan := s.chan_descFreed e ch d k
  have kept : (!(s.descFreed e ch d k).ringMode e ch) = true ∧
      ((s.descFreed e ch d k).chan e ch).count ≤ ((s.descFreed e ch d k).chan e ch).pos := by
    rw [State.ringMode_descFreed _ _ _ _ crew, list, chan]
    exact ⟨rfl, last⟩
  have empty : ((s.descFreed e ch d k).chan e ch).fail = none := by
    rw [chan]
    simp [Chan.gather, good, statusOk, stSuccess]
  rw [if_pos kept]
  exact State.endList_success (by rw [chan]; exact cue) empty (by rw [State.descFreed, State.chState_setChState]; exact free)

theorem State.closeDesc_last {idx : Nat} (crew : e ≠ 16) (silent : dMsi d.raw = false) (done : d.status = stSuccess)
    (list : s.ringMode e ch = false) (on : s.chState e ch ≠ 4) (cue : (s.chan e ch).cue = some idx)
    (last : (s.chan e ch).count ≤ (s.chan e ch).pos) (good : (s.chan e ch).fail = none) :
    ∃ k, s.closeDesc e ch d = ((s.descFreed e ch d k).listEnded e ch idx).clearArrived (.chan e ch) := by
  obtain ⟨k, finished⟩ := State.finishDesc_last (d := d) crew list on cue last good
  exact ⟨k, by simp [State.closeDesc, silent, done, finished]⟩

theorem State.chan_clearArrived (s : State) (a : Agent) (i j : Nat) : (s.clearArrived a).chan i j = s.chan i j := rfl
theorem State.rd_clearArrived (s : State) (a : Agent) (f : Fld) (i j : Nat) : (s.clearArrived a).rd f i j = s.rd f i j := rfl
theorem State.chState_clearArrived (s : State) (a : Agent) (i j : Nat) : (s.clearArrived a).chState i j = s.chState i j := rfl
theorem State.cox_clearArrived (s : State) (a : Agent) (c : Nat) : (s.clearArrived a).cox c = s.cox c := rfl

/-- What the end of the last descriptor leaves. -/
theorem State.lastDesc_shows (s : State) (ch idx : Nat) (d : DescRun) (k : Nat) (crew : e ≠ 16) {w : CueRun}
    (found : Tab.find (s.cox e).running idx = some w) :
    let t := ((s.descFreed e ch d k).listEnded e ch idx).clearArrived (.chan e ch)
    (t.chan e ch).desc = none ∧ (t.chan e ch).cue = none ∧ t.chState e ch = 0 ∧ t.rd CDM_CH_STAT_STATUS e ch = stSuccess ∧
      t.rd CDM_PC_DESCRIPTORS e = (s.rd CDM_PC_DESCRIPTORS e + 1) % 2 ^ CDM_PC_DESCRIPTORS.w ∧
      (∃ v, Tab.find (t.cox e).running idx = some v ∧ v.left = w.left - 1) ∧ s.foot t (descKeys e ch) := by
  obtain ⟨status, count⟩ := s.rd_descFreed ch d k crew
  obtain ⟨state, desc, cue⟩ := (s.descFreed e ch d k).listEnded_shows e ch idx
  have ended := (s.descFreed e ch d k).foot_listEnded ch idx crew
  have shown : CDM_CH_STAT_STATUS.key e ch ∉ [CDM_CH_STAT_STATE.key e ch] := by
    simp [Fld.key, CDM_CH_STAT_STATUS, CDM_CH_STAT_STATE]
  have counted : CDM_PC_DESCRIPTORS.key e 0 ∉ [CDM_CH_STAT_STATE.key e ch] := by
    simpa using descriptors_ne_channel CDM_CH_STAT_STATE rfl rfl (by decide) e ch
  have cox : ((s.descFreed e ch d k).listFreed e ch).cox e = s.cox e := (State.cox_listFreed ..).trans (State.cox_descFreed ..)
  have left : ∃ v, Tab.find (((s.descFreed e ch d k).listEnded e ch idx).cox e).running idx = some v ∧ v.left = w.left - 1 :=
    State.cuePart_left (cox.symm ▸ found) ..
  have empty : ((s.descFreed e ch d k).chan e ch).desc = none := by rw [State.chan_descFreed]
  have foot := State.foot_then (s.foot_descFreed ch d k crew) (State.foot_mono ended (by simp))
  dsimp only
  simp only [State.chan_clearArrived, State.rd_clearArrived, State.chState_clearArrived, State.cox_clearArrived]
  exact ⟨desc.trans empty, cue, state, (State.foot_rd ended _ _ _ shown).trans status, (State.foot_rd ended _ _ _ counted).trans count, left,
    State.foot_then foot (State.foot_clearArrived ..)⟩

/-! ### The command -/

theorem exec_descriptorComplete (up : s.railsUp = true) (exist : chanExists e ch = true) (quiet : s.regWrites = [])
    (answered : (s.chan e ch).out = 0) (goes : (s.chan e ch).paused = false) (desc : (s.chan e ch).desc = some d) (moved : d.moved = true)
    (stays : (descriptorCompleteEffect e ch s).rd CTX_STAT_STATE (s.chan e ch).ctx ≠ 2) :
    exec (.descriptorComplete e ch) s = .next (s.commit (descriptorCompleteEffect e ch s)) := by
  show execDescriptorComplete e ch s = _
  unfold execDescriptorComplete
  exact State.rails_eq up (by simp [exist, quiet, answered, goes, desc, moved]) (State.settlePreempt_other stays)

theorem ctxState_notin_descKeys (ctx e ch : Nat) : CTX_STAT_STATE.key ctx 0 ∉ descKeys e ch := by
  simp only [List.mem_cons, List.not_mem_nil, or_false, Fld.key, Page.base, CTX_STAT_STATE, CDM_CH_STAT_STATUS, CDM_CH_STAT_STATE, CDM_PC_DESCRIPTORS]
  omega

/-- Settles O16: the last descriptor is closed in the state in which its increment has been made. -/
theorem descriptorsCompleteWithTheirList : Obligations.DescriptorsCompleteWithTheirList := by
  intro s u e ch idx d w up he hch list state desc moved fresh first quiet ctx here done bare good answered goes silent clean cue last noFail
    found made
  have crew : e ≠ 16 := by omega
  have exist : chanExists e ch = true := by simp [chanExists, he, hch]
  have same : u.regs = s.regs ∧ u.chans = s.chans ∧ u.coxes = s.coxes := by
    obtain ⟨-, rfl⟩ | ⟨-, made⟩ := made
    · exact ⟨rfl, rfl, rfl⟩
    · obtain ⟨k, v, rfl⟩ := State.signalAt_made made
      exact ⟨rfl, rfl, rfl⟩
  obtain ⟨regs, chans, coxes⟩ := same
  have chan : u.chan e ch = s.chan e ch := State.chan_congr chans ..
  have cox : u.cox e = s.cox e := congrArg (fun l => Tab.look l e default) coxes
  have mode : u.ringMode e ch = false := by
    simpa only [State.ringMode, State.is, State.rd_congr regs] using list
  have on : u.chState e ch ≠ 4 := by
    rw [State.chState, State.dmaRd_congr regs]
    exact ne_of_lt (Nat.lt_succ_of_le state)
  obtain ⟨k, closed⟩ := State.closeDesc_last (s := u) (d := { d with stage := 2 }) (idx := idx) crew silent done mode on (by rw [chan, cue])
    (by rw [chan]; exact last) (by rw [chan, noFail])
  have effect := (descriptorCompleteEffect_closes desc list fresh done bare good here clean made).trans closed
  have shows := u.lastDesc_shows ch idx { d with stage := 2 } k crew (cox.symm ▸ found)
  generalize ((u.descFreed e ch { d with stage := 2 } k).listEnded e ch idx).clearArrived (.chan e ch) = t at effect shows
  obtain ⟨noDesc, noCue, idle, status, count, ⟨v, running, left⟩, foot⟩ := shows
  have stays : (descriptorCompleteEffect e ch s).rd CTX_STAT_STATE (s.chan e ch).ctx ≠ 2 := by
    rw [effect, State.foot_rd foot _ _ _ (ctxState_notin_descKeys _ e ch), State.rd_congr regs]
    exact ctx
  obtain ⟨store, others⟩ := State.foot_commit (u := s) foot
  refine ⟨s.commit t, v, effect ▸ exec_descriptorComplete up exist quiet answered goes desc moved stays, noDesc, noCue,
    (State.chState_commit ..).trans idle, (State.rd_commit ..).trans status, ?_, running, left, store, others⟩
  rw [State.rd_commit, count, State.rd_congr regs]

end Sys2Proof.Machine
end

section
/-!
PROOF. What an agent reads, and the side effects of its reads, do not depend on what the DMA channels hold; a translation does not depend on the
count of tiles that a crew store has delivered (R388).
-/
namespace Sys2Proof.Machine

/-- The DMA channels hold something else. -/
def State.withChans (s : State) (cs : List (Nat × Chan)) : State := { s with chans := cs }

variable (s : State) (cs : List (Nat × Chan))

/-! ### Translation -/

theorem State.walkFrom_withChans (va : Nat) (w : Bool) (l : List (Nat × Nat × Nat × Nat)) :
    ∀ base, (s.withChans cs).walkFrom va w l base = s.walkFrom va w l base := by
  induction l with
  | nil => exact fun _ => rfl
  | cons x l ih =>
    intro base
    unfold State.walkFrom
    simp only [ih]
    rfl

theorem State.translate_withChans (ctx va : Nat) (acc : Access) : (s.withChans cs).translate ctx va acc = s.translate ctx va acc := by
  unfold State.translate State.leafOf
  simp only [State.walkFrom_withChans]
  rfl

/-! ### Registers -/

theorem State.readReg_withChans (o : Nat) : (s.withChans cs).readReg o = s.readReg o := by
  have stored (p : Page) (i off : Nat) : (s.withChans cs).storedReg p i off = s.storedReg p i off := by
    unfold State.storedReg
    rfl
  have computed (p : Page) (i off : Nat) : (s.withChans cs).computedReg p i off = s.computedReg p i off := by
    unfold State.computedReg
    cases p <;> rfl
  unfold State.readReg
  simp only [stored, computed]
  rfl

theorem State.clearRc_withChans (o : Nat) : (s.withChans cs).clearRc o = (s.clearRc o).withChans cs := by
  have fold (f : State → Fld → State) (hf : ∀ (t : State) x, f (t.withChans cs) x = (f t x).withChans cs) (l : List Fld) :
      ∀ t : State, l.foldl f (t.withChans cs) = (l.foldl f t).withChans cs := by
    induction l with
    | nil => exact fun _ => rfl
    | cons x l ih => exact fun t => (congrArg (List.foldl f · l) (hf t x)).trans (ih (f t x))
  unfold State.clearRc
  split
  · rfl
  · split
    · rw [if_pos ‹_›]
    · rw [if_neg ‹_›]
      refine fold _ (fun t x => ?_) _ s
      split <;> rfl

theorem State.regRead_withChans (who : Requester) (o n : Nat) :
    (s.withChans cs).regRead who o n = ((s.regRead who o n).1, (s.regRead who o n).2.withChans cs) := by
  have bytes (o n : Nat) : (s.withChans cs).readRegBytes o n = s.readRegBytes o n := by
    simp only [State.readRegBytes, State.readReg_withChans]
  have latched : (s.withChans cs).latched = s.latched := rfl
  unfold State.regRead
  simp only [State.readReg_withChans, bytes, latched, State.clearRc_withChans]
  repeat' split
  all_goals rfl

/-! ### Reads of a span -/

theorem State.rdLocal_withChans (a n : Nat) : (s.withChans cs).rdLocal a n = s.rdLocal a n := by
  have mem : (s.withChans cs).rdMem a n = s.rdMem a n := rfl
  have tok (k : Nat) : (s.withChans cs).tok k = s.tok k := rfl
  have dev : (s.withChans cs).dev = s.dev := rfl
  simp only [State.rdLocal, State.regRead_withChans, mem, tok, dev]

theorem State.readGpa_withChans (ag : Agent) (ctx g n : Nat) : (s.withChans cs).readGpa ag ctx g n = s.readGpa ag ctx g n := by
  unfold State.readGpa
  simp only [State.rdLocal_withChans]
  rfl

theorem State.readPage_withChans (ag : Agent) (ctx : Nat) (x : Xlat) (n : Nat) : (s.withChans cs).readPage ag ctx x n = s.readPage ag ctx x n := by
  unfold State.readPage
  simp only [State.readGpa_withChans]
  rfl

theorem State.readPieces_withChans (ag : Agent) (ctx : Nat) (l : List (Nat × Nat)) :
    (s.withChans cs).readPieces ag ctx l = s.readPieces ag ctx l := by
  induction l with
  | nil => rfl
  | cons p l ih => simp only [State.readPieces, State.translate_withChans, State.readPage_withChans, ih]

theorem State.placed_withChans (ctx : Nat) (acc : Access) (l : List (Nat × Nat)) : (s.withChans cs).placed ctx acc l = s.placed ctx acc l := by
  induction l with
  | nil => rfl
  | cons p l ih => simp only [State.placed, State.translate_withChans, ih]

theorem State.readV_withChans (ag : Agent) (ctx va n : Nat) : (s.withChans cs).readV ag ctx va n = s.readV ag ctx va n := by
  unfold State.readV State.spanCheck
  simp only [State.placed_withChans, State.readPieces_withChans]
  rfl

theorem State.readRows_withChans (ag : Agent) (ctx : Nat) (rows : List (Nat × Nat)) :
    (s.withChans cs).readRows ag ctx rows = s.readRows ag ctx rows := by
  simp only [State.readRows, State.readV_withChans]

/-! ### The side effects of reads (R723, R726) -/

theorem State.noteRead_withChans (g n : Nat) : (s.withChans cs).noteRead g n = (s.noteRead g n).withChans cs := by
  have dev : (s.withChans cs).dev = s.dev := rfl
  unfold State.noteRead
  rw [State.regRead_withChans, dev]
  split <;> rfl

theorem State.noteReads_withChans (ctx : Nat) (rows : List (Nat × Nat)) :
    (s.withChans cs).noteReads ctx rows = (s.noteReads ctx rows).withChans cs := by
  unfold State.noteReads
  generalize rows.flatMap (fun p => spanPages p.1 p.2) = l
  induction l generalizing s with
  | nil => rfl
  | cons p l ih =>
    refine (congrArg (List.foldl _ · l) ?_).trans (ih _)
    dsimp only
    rw [State.translate_withChans]
    split
    · exact State.noteRead_withChans ..
    · rfl

/-! ### The count of delivered tiles (R388) -/

/-- A crew store has delivered tiles: their count takes a value. -/
def State.tiled (s : State) (c v : Nat) : State := s.wr CST_PC_TRANSPOSE v c

variable (c v : Nat)

theorem State.rd_tiled {f : Fld} (place : (f.off * 8 + f.lo) % 4096 ≠ 0x1c0) (i : Nat) : (s.tiled c v).rd f i = s.rd f i :=
  State.rd_wr_place (g := CST_PC_TRANSPOSE) place v i c

theorem State.rd_tiled_window {f : Fld} {w : Nat} (tier : f.page = .tier) (stride : f.stride = 0x10) (low : f.off < 0x410) (bits : f.lo < 64)
    (hw : w < 8) : (s.tiled c v).rd f 0 w = s.rd f 0 w := by
  refine State.rd_wr_ne _ ?_ v
  simp only [Fld.key, tier, stride, Page.base, CST_PC_TRANSPOSE]
  omega

theorem State.lentAway_tiled (src a n : Nat) : (s.tiled c v).lentAway src a n = s.lentAway src a n := by
  unfold State.lentAway
  rw [Bool.eq_iff_iff, List.any_eq_true, List.any_eq_true]
  refine exists_congr fun w => and_congr_right fun hw => ?_
  have window {f : Fld} (tier : f.page = .tier) (stride : f.stride = 0x10) (low : f.off < 0x410) (bits : f.lo < 64) :=
    s.rd_tiled_window c v tier stride low bits (List.mem_range.1 hw)
  rw [window (f := TIER_LEND_CTL_STATE) rfl rfl (by decide) (by decide), window (f := TIER_LEND_BASE) rfl rfl (by decide) (by decide),
    window (f := TIER_LEND_SIZE) rfl rfl (by decide) (by decide), window (f := TIER_LEND_CTL_BORROWER) rfl rfl (by decide) (by decide)]

theorem State.dev_tiled : (s.tiled c v).dev = s.dev := State.rd_tiled s c v (by decide) 0

theorem State.walkFrom_tiled (va : Nat) (write : Bool) (l : List (Nat × Nat × Nat × Nat)) :
    ∀ base, (s.tiled c v).walkFrom va write l base = s.walkFrom va write l base := by
  have line (a : Nat) : (s.tiled c v).rdLE a 8 = s.rdLE a 8 := rfl
  have poison (a : Nat) : (s.tiled c v).poisoned a 8 = s.poisoned a 8 := rfl
  induction l with
  | nil => exact fun _ => rfl
  | cons x l ih =>
    intro base
    unfold State.walkFrom
    simp only [ih, State.lentAway_tiled, State.dev_tiled, line, poison]

theorem State.leafOf_tiled (ctx va : Nat) (write : Bool) : (s.tiled c v).leafOf ctx va write = s.leafOf ctx va write := by
  have tlb : (s.tiled c v).tlb = s.tlb := rfl
  unfold State.leafOf
  simp only [State.walkFrom_tiled, State.rd_tiled s c v (f := CTX_PT_ROOT_ROOT) (by decide), tlb]

theorem State.protectedIn_tiled (a n : Nat) : (s.tiled c v).protectedIn a n = s.protectedIn a n := by
  have byte (x : Nat) : (s.tiled c v).rdByte x = s.rdByte x := rfl
  simp only [State.protectedIn, State.ckptBit, State.rd_tiled s c v (f := MMU_CKPT_STAT_STATE) (by decide),
    State.rd_tiled s c v (f := MMU_CKPT_BASE) (by decide), byte]

theorem State.selfWindow_tiled (ctx va : Nat) : (s.tiled c v).selfWindow ctx va = s.selfWindow ctx va := by
  have seat : (s.tiled c v).self = s.self := rfl
  have seatOf (i : Nat) : (s.tiled c v).seatOf i = s.seatOf i := rfl
  unfold State.selfWindow
  simp only [State.rd_tiled s c v (f := CTX_SELF_VA) (by decide), seat, seatOf]

theorem State.translate_tiled (ctx va : Nat) (acc : Access) : (s.tiled c v).translate ctx va acc = s.translate ctx va acc := by
  have blk (p : Page) (i : Nat) : (s.tiled c v).blk p i = s.blk p i :=
    State.rd_tiled s c v (f := BLK_STAT_STATE p) (show 0xC * 8 % 4096 ≠ 0x1c0 by decide) i
  have on : (s.tiled c v).ctxOn ctx = s.ctxOn ctx := by simp only [State.ctxOn, blk]
  have gone : (s.tiled c v).lostObjs = s.lostObjs := rfl
  have lost : (s.tiled c v).lost = s.lost := rfl
  unfold State.translate
  simp only [blk, on, gone, lost, State.selfWindow_tiled, State.leafOf_tiled, State.dev_tiled, State.protectedIn_tiled]

end Sys2Proof.Machine
end

section
/-!
PROOF. What a DMA channel does before and at the end of a transfer (R384, R505, R513): it takes its descriptor, checks the watch slots, and stores
a row on this device under the page's write operation.
-/
namespace Sys2Proof.Machine

variable {s t u : State} {e ch : Nat} {raw : List Byte}

/-! ### The descriptor is taken (R505, R513) -/

/-- The descriptor that the channel takes. -/
def State.newDesc (s : State) (e ch : Nat) (raw : List Byte) : DescRun :=
  { raw := raw, addr := s.chanNext e ch, moved := false, status := stSuccess, cause := 0, flags := 0, done := 0, sent := false }

/-- The registers that taking a descriptor writes. -/
abbrev takeKeys (e ch : Nat) : List Nat :=
  [CDM_CH_HEAD.key e ch, CDM_CH_CUR.key e ch, CDM_CH_STAT_DESC_ID.key e ch, CDM_CH_STAT_STATE.key e ch, HDM_CH_HEAD.key 0 ch,
    HDM_CH_CUR.key 0 ch, HDM_CH_STAT_DESC_ID.key 0 ch, HDM_CH_STAT_STATE.key 0 ch]

/-- A change of registers and channels only. -/
def State.onlyChannels (s t : State) (ks : List Nat) : Prop :=
  (∃ rs cs, t = { s with regs := rs, chans := cs }) ∧ s.foot t ks

theorem State.onlyChannels_dmaWr {ks : List Nat} {c h : Fld} {v : Nat} (before : s.onlyChannels t ks)
    (crew : c.key e ch ∈ ks) (host : h.key 0 ch ∈ ks) :
    s.onlyChannels (t.dmaWr e ch c h v) ks := by
  obtain ⟨⟨rs, cs, rfl⟩, foot⟩ := before
  unfold State.dmaWr
  split
  · exact ⟨⟨_, cs, rfl⟩, State.foot_wr_of foot host⟩
  · exact ⟨⟨_, cs, rfl⟩, State.foot_wr_of foot crew⟩

theorem State.onlyChannels_setChan {ks : List Nat} (before : s.onlyChannels t ks) (x : Chan) : s.onlyChannels (t.setChan e ch x) ks := by
  obtain ⟨⟨rs, cs, rfl⟩, foot⟩ := before
  exact ⟨⟨rs, _, rfl⟩, State.foot_upd_of foot rfl rfl rfl rfl⟩

theorem State.onlyChannels_refl (s : State) (ks : List Nat) : s.onlyChannels s ks := ⟨⟨s.regs, s.chans, rfl⟩, s.foot_refl⟩

theorem State.takeDesc_again {d : DescRun} (desc : (s.chan e ch).desc = some d) : s.takeDesc e ch raw = s := by
  unfold State.takeDesc
  rw [if_pos (by simp [desc])]

/-- A channel without a descriptor takes one. -/
theorem State.takeDesc_new (idle : (s.chan e ch).desc = none) :
    ((s.takeDesc e ch raw).chan e ch).desc = some (s.newDesc e ch raw) ∧
      ((s.takeDesc e ch raw).chan e ch).error = (s.chan e ch).error ∧
      (s.takeDesc e ch raw).dmaRd e ch CDM_CH_STAT_DESC_ID HDM_CH_STAT_DESC_ID = fieldLE raw 4 2 % 2 ^ CDM_CH_STAT_DESC_ID.w := by
  unfold State.takeDesc
  rw [if_neg (by simp [idle])]
  extract_lets a d v w z
  have headed : w.chan e ch = v.chan e ch := by
    simp only [w]
    split
    · exact State.chan_dmaWr ..
    · rfl
  have chan : z.chan e ch = v.chan e ch := (State.chan_dmaWr ..).trans ((State.chan_dmaWr ..).trans headed)
  have taken : (z.chan e ch).desc = some (s.newDesc e ch raw) ∧ (z.chan e ch).error = (s.chan e ch).error := by
    rw [chan, State.chan_setChan_same]
    exact ⟨rfl, rfl⟩
  have id : z.dmaRd e ch CDM_CH_STAT_DESC_ID HDM_CH_STAT_DESC_ID = fieldLE raw 4 2 % 2 ^ CDM_CH_STAT_DESC_ID.w :=
    State.dmaRd_dmaWr_same (c := CDM_CH_STAT_DESC_ID) (h := HDM_CH_STAT_DESC_ID) _ rfl _
  split
  · exact ⟨taken.1, taken.2, id⟩
  · rw [State.chan_setChState]
    exact ⟨taken.1, taken.2, (State.dmaRd_dmaWr_apart _ (by decide) _).trans id⟩

theorem State.takeDesc_only (s : State) (e ch : Nat) (raw : List Byte) : s.onlyChannels (s.takeDesc e ch raw) (takeKeys e ch) := by
  unfold State.takeDesc
  extract_lets x a d v w z
  have taken : s.onlyChannels v (takeKeys e ch) := State.onlyChannels_setChan (s.onlyChannels_refl _) _
  split
  · exact s.onlyChannels_refl _
  · have headed : s.onlyChannels w (takeKeys e ch) := by
      simp only [w]
      split
      · exact State.onlyChannels_dmaWr taken (by simp) (by simp)
      · exact taken
    have shown : s.onlyChannels z (takeKeys e ch) :=
      State.onlyChannels_dmaWr (State.onlyChannels_dmaWr headed (by simp) (by simp)) (by simp) (by simp)
    split
    · exact shown
    · exact State.onlyChannels_dmaWr shown (by simp) (by simp)

/-! ### The watch slots are checked (R450, R452) -/

/-- The descriptor is marked in its channel, and nothing else changes. -/
def State.descMarked (s t : State) (e ch : Nat) (d d' : DescRun) : Prop :=
  (∃ cs, t = s.withChans cs) ∧ t.chan e ch = { s.chan e ch with desc := some d' } ∧ d'.raw = d.raw ∧ d'.addr = d.addr ∧ d'.part = d.part

theorem State.descMarked_refl {d : DescRun} (desc : (s.chan e ch).desc = some d) : s.descMarked s e ch d d :=
  ⟨⟨s.chans, rfl⟩, by rw [← desc], rfl, rfl, rfl⟩

theorem State.descMarked_upd {d d' : DescRun} (before : s.descMarked t e ch d d') (f : DescRun → DescRun)
    (keeps : (f d').raw = d'.raw ∧ (f d').addr = d'.addr ∧ (f d').part = d'.part) : s.descMarked (t.updDesc e ch f) e ch d (f d') := by
  obtain ⟨⟨cs, rfl⟩, chan, same, addr, part⟩ := before
  obtain ⟨keepsRaw, keepsAddr, keepsPart⟩ := keeps
  refine ⟨⟨_, rfl⟩, ?_, keepsRaw.trans same, keepsAddr.trans addr, keepsPart.trans part⟩
  rw [State.updDesc, State.chan_setChan_same, chan]
  rfl

theorem State.watchGate_none (watches : s.watches = []) (ctx : Nat) (rows : List (Nat × Nat)) : s.watchGate ctx rows = .ok s := by
  have hits : s.watchHits ctx rows = [] := by
    unfold State.watchHits
    rw [if_pos (by rw [watches]; rfl)]
  unfold State.watchGate
  rw [hits]
  rfl

/-- Without watch slots a descriptor that arms none goes on. -/
theorem State.watchStart_goes {d : DescRun} (desc : (s.chan e ch).desc = some d) (watches : s.watches = []) (plain : dWatch raw = false) (ctx : Nat) :
    ∃ v d', s.watchStart e ch ctx raw = .ok (.go v) ∧ s.descMarked v e ch d d' := by
  have gate := s.watchGate_none watches ctx (srcRows raw)
  have arm (t : State) : t.armWatch ctx raw = .go t := by simp [State.armWatch, plain]
  have marked : s.descMarked (if d.checked then s else s.updDesc e ch (fun x => { x with checked := true })) e ch d
      (if d.checked then d else { d with checked := true }) := by
    split
    · exact State.descMarked_refl desc
    · exact State.descMarked_upd (State.descMarked_refl desc) _ ⟨rfl, rfl, rfl⟩
  have goes : s.watchStart e ch ctx raw = .ok (.go (
      let t := if d.checked then s else s.updDesc e ch (fun x => { x with checked := true })
      if d.armed then t else t.updDesc e ch (fun x => { x with armed := true }))) := by
    simp only [State.watchStart, desc, Option.getD_some, gate, ite_self, arm]
    by_cases armed : d.armed = true
    · rw [if_pos armed, if_pos armed]
    · rw [if_neg armed, if_neg armed]
  by_cases armed : d.armed = true
  · exact ⟨_, _, goes.trans (by rw [if_pos armed]), marked⟩
  · exact ⟨_, _, goes.trans (by rw [if_neg armed]), State.descMarked_upd marked _ ⟨rfl, rfl, rfl⟩⟩

/-! ### The row is stored (R384) -/

/-- The bytes that a page's write operation stores: plain, SET or CLEAR. -/
def opBytes (wop : Nat) (old data : List Byte) : List Byte :=
  if wop = 1 then List.zipWith (fun p q => p ||| q) old data else if wop = 2 then List.zipWith (fun p q => p &&& ~~~q) old data else data

theorem length_opBytes (wop : Nat) {old data : List Byte} (same : old.length = data.length) : (opBytes wop old data).length = data.length := by
  unfold opBytes
  split
  · rw [List.length_zipWith, same, min_self]
  · split
    · rw [List.length_zipWith, same, min_self]
    · rfl

theorem State.length_rdMem (s : State) (a n : Nat) : (s.rdMem a n).length = n := by simp [State.rdMem]

theorem State.chans_written (s : State) (a : Nat) (d : List Byte) : (s.written a d).chans = s.chans := by
  obtain ⟨m, stored⟩ := State.wrMem_mem d s a
  obtain ⟨ws, os, ps, noted⟩ := (s.wrMem a d).noteWrite_leaves a d.length
  rw [State.written, noted, stored]

/-- A store outside the length table, under any write operation. -/
theorem State.store_writes {a n : Nat} {d : List Byte} (length : d.length = n) (off : s.offLengths a n = true) (wop : Nat) (sched : Bool)
    (ks : List Nat) :
    s.wrote (s.store a wop sched d) a (opBytes wop (s.rdMem a n) d) ks ∧ (s.store a wop sched d).chans = s.chans := by
  have bytes : (opBytes wop (s.rdMem a n) d).length = n := (length_opBytes wop (by rw [State.length_rdMem, length])).trans length
  generalize made : opBytes wop (s.rdMem a n) d = b at bytes
  have kept : (s.written a b).noteLengths a b.length = s.written a b :=
    State.noteLengths_off ((State.offLengths_congr (s.regs_written a b) ..).trans (bytes.symm ▸ off))
  have stored : s.store a wop sched d =
      let t := (s.written a b).noteLengths a b.length
      if sched then { t with touched := (a, b.length) :: t.touched } else t := by
    subst length made
    rfl
  rw [kept] at stored
  rw [stored]
  split
  · exact ⟨State.wrote_then (s.wrote_written a b ks) (State.foot_of_eq rfl rfl rfl rfl), s.chans_written a b⟩
  · exact ⟨s.wrote_written a b ks, s.chans_written a b⟩

/-- With no objects a write spoils pools only. -/
theorem State.spoilPools_bare (objs : s.objs = []) (g n : Nat) : ∃ ws, s.spoilPools g n = { s with wildPools := ws } := by
  have missing (k : Nat) : Tab.find s.objs k = none := by rw [objs]; rfl
  unfold State.spoilPools
  extract_lets bad t
  have same : t = s := by
    refine State.foldl_unchanged bad (fun v k _ => ?_) s
    rw [missing]
    split <;> rfl
  split
  · exact ⟨s.wildPools, rfl⟩
  · exact ⟨_, by rw [same]⟩

theorem State.account_only (s : State) (ctx a n : Nat) :
    s.foot (s.account ctx a n) [CTX_ACC_HBM.key ctx 0, CTX_ACC_LPD.key ctx 0] ∧ (s.account ctx a n).chans = s.chans := by
  unfold State.account
  split
  · exact ⟨State.foot_wr (by simp), rfl⟩
  · exact ⟨State.foot_wr (by simp), rfl⟩
  · exact ⟨s.foot_refl, rfl⟩

/-- A channel writes a row to HBM or LPDDR of this device. -/
theorem State.writeGpa_row {ctx g wop n : Nat} {sched : Bool} {data : List Byte} (objs : s.objs = []) (here : gpaDev g = s.dev)
    (dram : (regionOf (gpaLocal g)).1 = .hbm ∨ (regionOf (gpaLocal g)).1 = .lpd) (length : data.length = n)
    (off : s.offLengths (gpaLocal g) n = true) :
    s.wrote (s.writeGpa (.chan e ch) ctx g wop sched data) (gpaLocal g) (opBytes wop (s.rdMem (gpaLocal g) n) data)
        [CTX_ACC_HBM.key ctx 0, CTX_ACC_LPD.key ctx 0] ∧
      (s.writeGpa (.chan e ch) ctx g wop sched data).chans = s.chans := by
  obtain ⟨as, rs, cached⟩ := s.rcWrite_cache (.chan e ch) g data.length
  obtain ⟨ws, spoiled⟩ := State.spoilPools_bare (s := { s with asked := as, rcache := rs }) objs g data.length
  let v : State := { s with asked := as, rcache := rs, wildPools := ws }
  have eq : s.writeGpa (.chan e ch) ctx g wop sched data = (v.store (gpaLocal g) wop sched data).account ctx (gpaLocal g) data.length := by
    have other : (Owner.chan e ch == .agent .roster) = false := rfl
    simp only [State.writeGpa, cached, other, Bool.false_eq_true, if_false, spoiled]
    refine (if_pos here).trans ?_
    obtain h | h := dram <;> rw [h]
  obtain ⟨stored, chans⟩ := State.store_writes (s := v) length off wop sched [CTX_ACC_HBM.key ctx 0, CTX_ACC_LPD.key ctx 0]
  obtain ⟨counted, uncounted⟩ := State.account_only (v.store (gpaLocal g) wop sched data) ctx (gpaLocal g) data.length
  rw [eq]
  exact ⟨State.wrote_then stored counted, uncounted.trans chans⟩

/-- The same for a row of a context that lies in one page. -/
theorem State.writeAll_row {ctx va n : Nat} {sched : Bool} {data : List Byte} {x : Xlat} (objs : s.objs = []) (page : spanPages va n = [(va, n)])
    (found : s.translate ctx va .write = .ok x) (here : gpaDev x.gpa = s.dev)
    (dram : (regionOf (gpaLocal x.gpa)).1 = .hbm ∨ (regionOf (gpaLocal x.gpa)).1 = .lpd) (length : data.length = n)
    (off : s.offLengths (gpaLocal x.gpa) n = true) :
    s.wrote (s.writeAll (.chan e ch) ctx sched [{ va := va, data := data }]) (gpaLocal x.gpa) (opBytes x.wop (s.rdMem (gpaLocal x.gpa) n) data)
        [CTX_ACC_HBM.key ctx 0, CTX_ACC_LPD.key ctx 0] ∧
      (s.writeAll (.chan e ch) ctx sched [{ va := va, data := data }]).chans = s.chans := by
  have eq : s.writeAll (.chan e ch) ctx sched [{ va := va, data := data }] = s.writeGpa (.chan e ch) ctx x.gpa x.wop sched data := by
    rw [State.writeAll, State.writeAll, State.writeV, length, page, State.writePieces, found]
    dsimp only
    rw [State.writePieces, List.take_of_length_le length.le]
  rw [eq]
  exact State.writeGpa_row objs here dram length off

end Sys2Proof.Machine
end

section
/-!
PROOF. A descriptor of one destination row on this device moves its bytes (R384, R506, R507, R509, R514, R516): the channel that has taken it reads
its source, makes the row, stores it, and keeps its descriptor for the completion.
-/
namespace Sys2Proof.Machine

variable {s t u : State} {e ch : Nat} {raw : List Byte}

/-! ### The transfer (R506, R507, R527) -/

/-- The bytes that the engine has moved are counted. -/
def State.bytesCounted (s : State) (e : Nat) (d : List Byte) : State :=
  if e = 16 then (s.bump HDM_PC_BYTES_READ (if dKind d = 2 then 0 else dTotal d)).bump HDM_PC_BYTES_WRITTEN (dTotal d)
  else (s.bump CDM_PC_BYTES_READ (if dKind d = 2 then 0 else dTotal d) (dmaInst e)).bump CDM_PC_BYTES_WRITTEN (dTotal d * (castOffsets d).length)
    (dmaInst e)

/-- The registers that a transfer writes. -/
abbrev transferKeys (e ctx : Nat) : List Nat :=
  [CST_PC_TRANSPOSE.key e 0, CTX_ACC_HBM.key ctx 0, CTX_ACC_LPD.key ctx 0, HDM_PC_BYTES_READ.key 0 0, HDM_PC_BYTES_WRITTEN.key 0 0,
    CDM_PC_BYTES_READ.key (dmaInst e) 0, CDM_PC_BYTES_WRITTEN.key (dmaInst e) 0]

theorem State.bytesCounted_only (s : State) (e ctx : Nat) (d : List Byte) :
    s.foot (s.bytesCounted e d) (transferKeys e ctx) ∧ (s.bytesCounted e d).chans = s.chans := by
  unfold State.bytesCounted
  split
  · exact ⟨State.foot_wr_of (State.foot_wr (by simp)) (by simp), rfl⟩
  · exact ⟨State.foot_wr_of (State.foot_wr (by simp)) (by simp), rfl⟩

theorem State.countTiles_cases (s : State) (e ctx : Nat) (d : List Byte) :
    s.countTiles e ctx d = s ∨ ∃ v, s.countTiles e ctx d = s.tiled e v := by
  unfold State.countTiles
  split
  · exact .inl rfl
  · split
    · split
      · exact .inr ⟨_, rfl⟩
      · exact .inl rfl
    · exact .inl rfl

/-- Delivered tiles are counted, and nothing that a write goes by changes. -/
structure State.TilesCounted (s t : State) (e ctx : Nat) : Prop where
  foot : s.foot t (transferKeys e ctx)
  chans : t.chans = s.chans
  objs : t.objs = s.objs
  dev : t.dev = s.dev
  translate (c va : Nat) (acc : Access) : t.translate c va acc = s.translate c va acc
  lengths (a n : Nat) : t.offLengths a n = s.offLengths a n

theorem State.countTiles_counts (s : State) (e ctx c : Nat) (d : List Byte) : s.TilesCounted (s.countTiles e c d) e ctx := by
  obtain same | ⟨v, counted⟩ := s.countTiles_cases e c d
  · rw [same]
    exact ⟨s.foot_refl, rfl, rfl, rfl, fun _ _ _ => rfl, fun _ _ => rfl⟩
  · rw [counted]
    refine ⟨State.foot_wr (by simp), rfl, rfl, s.dev_tiled e v, s.translate_tiled e v, fun a n => ?_⟩
    simp only [State.offLengths, State.is, s.rd_tiled e v (f := ROS_LEN_BASE_ENABLE) (by decide), s.rd_tiled e v (f := ROS_LEN_BASE_BASE) (by decide)]

/-- The descriptor has moved its bytes, and waits for its completion. -/
def DescRun.transferred (d : DescRun) (n : Nat) : DescRun := { d with moved := true, status := stSuccess, cause := 0, flags := 0, done := n }

theorem State.desc_endTransfer (s : State) (e ch n : Nat) :
    ((s.endTransfer e ch stSuccess 0 0 n).chan e ch).desc = (s.chan e ch).desc.map (fun d => d.transferred n) := by
  rw [State.endTransfer, State.chan_setChan_same]
  rfl

/-- A write after a change within its keys. -/
theorem State.wrote_from {a : Nat} {d : List Byte} {ks ls : List Nat} (before : s.foot t ks) (h : t.wrote u a d ls)
    (sub : ls ⊆ ks) : s.wrote u a d ks := by
  obtain ⟨stored, toks, regs⟩ := h
  obtain ⟨⟨bytes, counters⟩, fields⟩ := before
  refine ⟨fun x => ?_, fun k hk => (toks k hk).trans (counters k), fun f i j hk => (regs f i j fun h => hk (sub h)).trans (fields f i j hk)⟩
  rw [stored, bytes]

section
variable {ctx va n : Nat} {d : DescRun} {data : List Byte} {src : List (List Byte)} {x : Xlat}

/-- A transfer whose source can be read, and whose reads have no side effects. -/
theorem State.transfer_moves (desc : (s.chan e ch).desc = some d) (start : d.part = 0) (one : dMcast raw = false)
    (read : s.readRows (.chan e ch) ctx (srcRows raw) = .ok src) (quiet : s.noteReads ctx (srcRows raw) = s)
    (rows : dstRows raw = [(va, n)]) (made : moveRows raw src = [data]) :
    ∃ sched, s.transfer e ch ctx raw = ((((s.countTiles e ctx raw).endTransfer e ch stSuccess 0 0 (dTotal raw)).writeAll (.chan e ch) ctx sched
      [{ va := va, data := data }]).clearArrived (.chan e ch)).bytesCounted e raw := by
  have offsets : castOffsets raw = [0] := by simp [castOffsets, one]
  simp only [State.transfer, State.bytesCounted, desc, Option.getD_some, start, lt_irrefl, if_false, read, quiet, rows, made, offsets]
  exact ⟨_, rfl⟩

theorem State.transfer_row (desc : (s.chan e ch).desc = some d) (start : d.part = 0) (one : dMcast raw = false)
    (read : s.readRows (.chan e ch) ctx (srcRows raw) = .ok src) (quiet : s.noteReads ctx (srcRows raw) = s)
    (rows : dstRows raw = [(va, n)]) (made : moveRows raw src = [data]) (objs : s.objs = []) (page : spanPages va n = [(va, n)])
    (found : s.translate ctx va .write = .ok x) (here : gpaDev x.gpa = s.dev)
    (dram : (regionOf (gpaLocal x.gpa)).1 = .hbm ∨ (regionOf (gpaLocal x.gpa)).1 = .lpd) (length : data.length = n)
    (off : s.offLengths (gpaLocal x.gpa) n = true) :
    s.wrote (s.transfer e ch ctx raw) (gpaLocal x.gpa) (opBytes x.wop (s.rdMem (gpaLocal x.gpa) n) data) (transferKeys e ctx) ∧
      ((s.transfer e ch ctx raw).chan e ch).desc = some (d.transferred (dTotal raw)) := by
  obtain ⟨sched, moved⟩ := State.transfer_moves desc start one read quiet rows made
  have tiles := s.countTiles_counts e ctx ctx raw
  generalize s.countTiles e ctx raw = p at moved tiles
  obtain ⟨foot, chans, noObjs, dev, translate, lengths⟩ := tiles
  let w := p.endTransfer e ch stSuccess 0 0 (dTotal raw)
  have mem : w.rdMem (gpaLocal x.gpa) n = s.rdMem (gpaLocal x.gpa) n := by
    simp only [State.rdMem]
    exact List.map_congr_left fun i _ => foot.1.1 _
  have target : w.translate ctx va .write = .ok x := (State.translate_withChans ..).trans ((translate ..).trans found)
  obtain ⟨stored, kept⟩ := State.writeAll_row (s := w) (e := e) (ch := ch) (sched := sched) (noObjs.trans objs) page target
    (here.trans dev.symm) dram length ((lengths ..).trans off)
  rw [mem] at stored
  obtain ⟨counted, still⟩ := State.bytesCounted_only
    ((w.writeAll (.chan e ch) ctx sched [{ va := va, data := data }]).clearArrived (.chan e ch)) e ctx raw
  rw [moved]
  constructor
  · have ended : s.foot w (transferKeys e ctx) := State.foot_upd_of foot rfl rfl rfl rfl
    exact State.wrote_then (State.wrote_from ended (State.wrote_then stored (State.foot_clearArrived ..)) (by simp)) counted
  · rw [State.chan_congr (still.trans kept), State.desc_endTransfer, State.chan_congr chans, desc]
    rfl

end

/-! ### The channel runs (R509, R516) -/

theorem State.touchRows_bare (objs : s.objs = []) (ctx : Nat) (d : List Byte) : s.touchRows ctx d = s := by simp [State.touchRows, objs]

/-- A prepared descriptor is transferred, once its watch slots have been looked at. -/
theorem State.runDesc_transfers {d : DescRun} {ctx : Nat} (desc : (s.chan e ch).desc = some d) (place : (s.chan e ch).ctx = ctx)
    (good : (s.chan e ch).error = none) (ok : descOk raw (e == 16) = true) (bytes : dTotal raw ≠ 0) (plain : dWatch raw = false)
    (watches : s.watches = []) (objs : s.objs = []) (prepared : s.prepare e ctx raw = .ok ()) :
    ∃ v d', s.runDesc e ch raw = v.transfer e ch ctx raw ∧ s.descMarked v e ch d d' := by
  obtain ⟨v, d', goes, marked⟩ := State.watchStart_goes desc watches plain ctx
  refine ⟨v, d', ?_, marked⟩
  obtain ⟨⟨cs, rfl⟩, -⟩ := marked
  have still : (s.withChans cs).touchRows ctx raw = s.withChans cs := State.touchRows_bare (s := s.withChans cs) objs ctx raw
  simp only [State.runDesc, place, good, ok, bytes, prepared, goes, plain, still, Bool.not_true, Bool.false_eq_true, Bool.false_and, if_false]

theorem exec_dmaMove {i : Instr} {k : Nat} (row : s.rd PWR_STAT_STATE = 0)
    (kinds : i = .dmaCopy e ch ∧ k = 0 ∨ i = .dmaTranspose e ch ∧ k = 1 ∨ i = .dmaFill e ch ∧ k = 2) (goes : s.chanGoes e ch = true)
    (desc : s.chanDesc e ch = some (.ok raw)) (posted : s.owned e ch raw = true) (kind : dKind raw = k) :
    exec i s = .next (s.commit ((s.takeDesc e ch raw).runDesc e ch raw)) := by
  have ok : s.chanKind e ch k = true := by simp [State.chanKind, goes, desc, posted, kind]
  have runs : s.chanRun e ch = (s.takeDesc e ch raw).runDesc e ch raw := by simp only [State.chanRun, desc]
  obtain ⟨rfl, rfl⟩ | ⟨rfl, rfl⟩ | ⟨rfl, rfl⟩ := kinds <;> exact (State.work_row row ok fun s => s.chanRun e ch).trans (by rw [runs])

/-- The descriptor with which the channel goes on, or which it has taken. -/
theorem State.takeDesc_holds (good : (s.chan e ch).error = none) (part : ∀ d, (s.chan e ch).desc = some d → d.part = 0) :
    ∃ d, ((s.takeDesc e ch raw).chan e ch).desc = some d ∧ ((s.takeDesc e ch raw).chan e ch).error = none ∧ d.part = 0 ∧
      ((s.chan e ch).desc = none → d.raw = raw ∧ d.addr = s.chanNext e ch ∧
        (s.takeDesc e ch raw).dmaRd e ch CDM_CH_STAT_DESC_ID HDM_CH_STAT_DESC_ID = fieldLE raw 4 2 % 2 ^ CDM_CH_STAT_DESC_ID.w) := by
  cases desc : (s.chan e ch).desc with
  | none =>
    obtain ⟨taken, error, id⟩ := State.takeDesc_new (raw := raw) desc
    exact ⟨_, taken, error.trans good, rfl, fun _ => ⟨rfl, rfl, id⟩⟩
  | some d =>
    rw [State.takeDesc_again desc]
    exact ⟨d, desc, good, part d desc, fun idle => nomatch idle⟩

theorem notin_takeKeys (e ch : Nat) : DEV_ID_ID.key 0 0 ∉ takeKeys e ch ∧ ROS_LEN_BASE_ENABLE.key 0 0 ∉ takeKeys e ch ∧
    ROS_LEN_BASE_BASE.key 0 0 ∉ takeKeys e ch := by
  simp only [List.mem_cons, List.not_mem_nil, or_false, Fld.key, Page.base, CDM_CH_HEAD, CDM_CH_CUR, CDM_CH_STAT_DESC_ID, CDM_CH_STAT_STATE,
    HDM_CH_HEAD, HDM_CH_CUR, HDM_CH_STAT_DESC_ID, HDM_CH_STAT_STATE, DEV_ID_ID, ROS_LEN_BASE_ENABLE, ROS_LEN_BASE_BASE]
  omega

theorem descId_notin_transferKeys (e ch ctx : Nat) :
    CDM_CH_STAT_DESC_ID.key e ch ∉ transferKeys e ctx ∧ HDM_CH_STAT_DESC_ID.key 0 ch ∉ transferKeys e ctx := by
  simp only [List.mem_cons, List.not_mem_nil, or_false, Fld.key, Page.base, CDM_CH_STAT_DESC_ID, HDM_CH_STAT_DESC_ID, CST_PC_TRANSPOSE, CTX_ACC_HBM,
    CTX_ACC_LPD, HDM_PC_BYTES_READ, HDM_PC_BYTES_WRITTEN, CDM_PC_BYTES_READ, CDM_PC_BYTES_WRITTEN]
  omega

theorem State.descId_of_regs {ctx : Nat} (same : s.sameRegsBut t (transferKeys e ctx)) (ch : Nat) :
    t.dmaRd e ch CDM_CH_STAT_DESC_ID HDM_CH_STAT_DESC_ID = s.dmaRd e ch CDM_CH_STAT_DESC_ID HDM_CH_STAT_DESC_ID := by
  obtain ⟨crew, host⟩ := descId_notin_transferKeys e ch ctx
  unfold State.dmaRd
  rw [same _ _ _ crew, same _ _ _ host]

/-- Settles O15: the descriptor that is taken stands in its channel, and its row is transferred. -/
theorem descriptorsMoveTheirBytes : Obligations.DescriptorsMoveTheirBytes := by
  intro s i e ch k va n raw data src x row kinds goes desc posted kind good part ok one plain bytes watches objs u ctx prepared read rows made
    length quiet page found here dram off old
  obtain ⟨⟨rs, cs, only⟩, taken⟩ := s.takeDesc_only e ch raw
  obtain ⟨d, holds, fine, start, fresh⟩ := State.takeDesc_holds (raw := raw) good part
  obtain ⟨v, d', runs, ⟨ds, rfl⟩, chan, same, addr, begun⟩ := State.runDesc_transfers (s := u) (ctx := ctx) holds rfl fine ok bytes plain
    ((congrArg State.watches only).trans watches) ((congrArg State.objs only).trans objs) prepared
  have before : s.foot (u.withChans ds) (takeKeys e ch) := State.foot_upd_of taken rfl rfl rfl rfl
  obtain ⟨idKey, enableKey, baseKey⟩ := notin_takeKeys e ch
  have dev : (u.withChans ds).dev = s.dev := before.2 _ _ _ idKey
  have lengths : (u.withChans ds).offLengths (gpaLocal x.gpa) n = true := by
    rw [← off, State.offLengths, State.offLengths, State.is, State.is, before.2 _ _ _ enableKey, before.2 _ _ _ baseKey]
  have contents : (u.withChans ds).rdMem (gpaLocal x.gpa) n = old := by
    simp only [State.rdMem, old]
    exact List.map_congr_left fun i _ => before.1.1 _
  obtain ⟨moved, waits⟩ := State.transfer_row (s := u.withChans ds) (by rw [chan]) (begun.trans start) one
    ((u.readRows_withChans ds ..).trans read) ((u.noteReads_withChans ds ..).trans (by rw [quiet])) rows made
    ((congrArg State.objs only).trans objs) page ((u.translate_withChans ds ..).trans found) (here.trans dev.symm) dram length lengths
  rw [contents] at moved
  have id := State.descId_of_regs moved.2.2 ch
  obtain ⟨stored, toks, -⟩ := State.wrote_from (ks := takeKeys e ch ++ transferKeys e ctx) (State.foot_mono before (by simp)) moved (by simp)
  have run := exec_dmaMove row kinds goes desc posted kind
  generalize (u.withChans ds).transfer e ch ctx raw = t at runs moved waits id stored toks
  have ran : exec i s = .next (s.commit t) := run.trans (by rw [runs])
  refine ⟨s.commit t, d'.transferred (dTotal raw), ran, fun a => (State.rdByte_commit ..).trans (stored a),
    fun k hk => (State.tok_commit ..).trans (toks k hk), waits, ?_, rfl, rfl, rfl, rfl, rfl, fun idle => ?_⟩
  · rw [holds]
    exact same
  · obtain ⟨whole, next, number⟩ := fresh idle
    exact ⟨same.trans whole, addr.trans next, ((State.dmaRd_commit ..).trans id).trans number⟩

end Sys2Proof.Machine
end

section
/-!
PROOF. What happens at one port (R529 to R549, R565, R566, R572): frames taken in order, management messages, packets that leave.
-/
namespace Sys2Proof.Machine

variable {s t u : State} {q r : Nat} {ks ls : List Nat}

/-! ### Fields of the LNK page -/

/-- A field of the LNK page is none of the pages below it. -/
theorem Fld.lnk_ne_low {f g : Fld} (link : f.page = .lnk) (low : g.key 0 0 < 0x200000) (q j : Nat) : f.key q j ≠ g.key 0 0 := by
  rw [Fld.key, link, Page.base]
  omega

/-- Two fields at different bits of the LNK page of a port. -/
theorem Fld.beside_ne {f g : Fld} (h : f.beside g) (i j : Nat) : f.key i j ≠ g.key i j := by
  obtain ⟨page, stride, place⟩ := h
  unfold Fld.key
  rw [page, stride]
  omega

/-! ### Changes at one port -/

/-- Memory and tokens stay, the registers but those with the keys listed, and every port but one. -/
def State.atPort (s t : State) (q : Nat) (ks : List Nat) : Prop := s.foot t ks ∧ ∀ r, r ≠ q → t.port r = s.port r

theorem State.atPort_refl (s : State) (q : Nat) (ks : List Nat) : s.atPort s q ks := ⟨s.foot_refl, fun _ _ => rfl⟩

theorem State.atPort_then (h : s.atPort t q ks) (h' : t.atPort u q ks) : s.atPort u q ks :=
  ⟨State.foot_then h.1 h'.1, fun r hr => (h'.2 r hr).trans (h.2 r hr)⟩

theorem State.atPort_mono (h : s.atPort t q ks) (sub : ks ⊆ ls) : s.atPort t q ls := ⟨State.foot_mono h.1 sub, h.2⟩

theorem State.atPort_setPort (h : s.atPort t q ks) (x : Port) : s.atPort (t.setPort q x) q ks :=
  ⟨State.foot_then h.1 (State.foot_ports _), fun r hr => (t.port_setPort q x r).trans ((if_neg hr).trans (h.2 r hr))⟩

theorem State.atPort_foot (h : s.atPort t q ks) (foot : t.foot u ks) (ports : u.ports = t.ports) : s.atPort u q ks :=
  ⟨State.foot_then h.1 foot, fun r hr => (congrArg (Tab.look · r default) ports).trans (h.2 r hr)⟩

theorem State.atPort_wr (h : s.atPort t q ks) {f : Fld} {v i j : Nat} (mem : f.key i j ∈ ks) : s.atPort (t.wr f v i j) q ks :=
  State.atPort_foot h (State.foot_wr mem) rfl

/-- What a command answers whose effect has changed one port. -/
theorem State.atPort_answer {o : Host.Outcome State Fault Refusal} (run : o = .next (s.commit t)) (only : s.atPort t q ks) :
    ∃ u, o = .next u ∧ u.port q = t.port q ∧ (∀ r, r ≠ q → u.port r = s.port r) ∧ s.sameStore u ∧ s.sameRegsBut u ks ∧
      ∀ f i, u.rd f i = t.rd f i :=
  ⟨s.commit t, run, rfl, only.2, State.sameStore_commit only.1.1, (State.foot_commit only.1).2, fun _ _ => State.rd_commit ..⟩

/-- A port that is up does not train. -/
theorem State.training_of_up (up : s.portUp q = true) : s.training q = false := by
  simp only [State.portUp, Bool.or_eq_true, beq_iff_eq] at up
  obtain up | up := up <;> simp [State.training, up]

theorem State.framing_of_up (up : s.portUp q = true) : s.framing q = true := by simp [State.framing, up]

theorem portOk_of_lt (hq : q < 16) : portOk q = true := decide_eq_true hq

/-- A write of another field of the LNK page leaves the state of the port. -/
theorem State.training_wr {f : Fld} (h : LNK_STAT_STATE.beside f) (v : Nat) : (s.wr f v q).training q = s.training q := by
  simp only [State.training, State.rd_wr_beside h]

/-! ### Frames (R535, R536) -/

/-- A port with packets that have arrived. -/
def Port.receives (x : Port) (ps : List (Nat × Packet)) : Port := { x with rx := x.rx ++ ps }

theorem State.receive_good {p : Packet} (vc : vcOf p.type = some p.vc) : s.receive q p =
    (s.bump LNK_PC_RX_CELLS (packetCells p) q).setPort q ((s.port q).receives [(s.clock, p)]) := if_pos vc

/-- The packets of a good frame join the receive buffer in their order. -/
theorem State.receive_all (q : Nat) (ps : List Packet) : ∀ s : State, (∀ p ∈ ps, vcOf p.type = some p.vc) →
    let t := ps.foldl (fun t p => t.receive q p) s
    t.port q = (s.port q).receives (ps.map (fun p => (s.clock, p))) ∧ t.clock = s.clock ∧
      s.atPort t q [LNK_PC_RX_CELLS.key q 0] := by
  induction ps with
  | nil => exact fun s _ => ⟨by simp [Port.receives], rfl, s.atPort_refl q _⟩
  | cons p ps ih =>
    intro s good
    have first := State.receive_good (s := s) (q := q) (good p List.mem_cons_self)
    have joined : (s.receive q p).port q = (s.port q).receives [(s.clock, p)] := by rw [first, State.port_setPort_same]
    have still : (s.receive q p).clock = s.clock := by rw [first]; rfl
    obtain ⟨port, clock, only⟩ := ih (s.receive q p) fun p' mem => good p' (List.mem_cons_of_mem _ mem)
    refine ⟨port.trans ?_, clock.trans still, State.atPort_then ?_ only⟩
    · rw [joined, still]
      simp [Port.receives]
    · rw [first]
      exact State.atPort_setPort (State.atPort_wr (s.atPort_refl q _) (by simp)) _

/-- A port without the frames that one acknowledges. -/
def Port.freed (x : Port) (f : Frame) (n a : Nat) : Port := { x with replay := afterAck f.ack x.replay, replays := n, ackAt := a }

/-- A frame that asks for no replay frees the frames that it acknowledges. -/
theorem State.takeAck_frees {f : Frame} (ask : f.nak = false) (few : (s.port q).replays < 16) :
    ∃ n a, s.takeAck q f = s.setPort q ((s.port q).freed f n a) := by
  unfold State.takeAck
  extract_lets x left moved again n s1 s2
  have quiet : again = false := by simp [again, ask]
  have low : ¬ 16 ≤ n := by
    have : x.replays < 16 := few
    simp only [n, quiet, b2n, Bool.false_eq_true, if_false]
    split <;> omega
  refine ⟨n, if moved then s.clock else x.ackAt, ?_⟩
  rw [if_neg low]
  simp only [s2, quiet, Bool.false_eq_true, if_false]
  exact rfl

/-- A port that has taken the frame it waited for. -/
def Port.accepts (x : Port) (f : Frame) : Port :=
  { x with rxSeq := (x.rxSeq + 1) % 4096, nak := false, credits := addCredits x.credits (credIdx (f.crVc % 4) (f.crClass % 2)) (f.crCount % 4096) }

/-- A port that discards a frame asks for it again. -/
def State.refuses (s : State) (q : Nat) : State := s.setPort q { s.port q with nak := true }

theorem frameEffect_bad {f : Frame} (bad : f.good = false) : frameEffect q f s = (s.bump LNK_PC_FEC_UNCORR 1 q).refuses q := by
  unfold frameEffect
  dsimp only
  rw [bad]
  rfl

section
variable {f : Frame} (up : s.portUp q = true)
include up

theorem training_fixed (n : Nat) : (s.bump LNK_PC_FEC_SYMBOLS n q).training q = false :=
  (State.training_wr (by decide) _).trans (State.training_of_up up)

theorem frameEffect_stray (good : f.good = true) (stray : f.seq ≠ (s.port q).rxSeq) :
    frameEffect q f s = (s.bump LNK_PC_FEC_SYMBOLS f.fixed q).refuses q := by
  unfold frameEffect
  dsimp only
  rw [good, training_fixed up, if_pos stray]
  rfl

theorem frameEffect_next (good : f.good = true) (seq : f.seq = (s.port q).rxSeq) :
    frameEffect q f s = (f.packets.foldl (fun t p => t.receive q p)
      ((s.bump LNK_PC_FEC_SYMBOLS f.fixed q).setPort q ((s.port q).accepts f))).takeAck q f := by
  unfold frameEffect
  dsimp only
  rw [good, training_fixed up, if_neg (not_not_intro seq)]
  rfl

end

theorem exec_frame {f : Frame} (rails : s.railsUp = true) (hq : q < 16) (up : s.portUp q = true) :
    exec (.frame q f) s = .next (s.commit (frameEffect q f s)) :=
  State.rails_next rails (by rw [portOk_of_lt hq, State.framing_of_up up]; rfl) _

/-- What a frame leaves that is discarded. -/
theorem State.atPort_refuses (s : State) (q n : Nat) (f : Fld) : s.atPort ((s.bump f n q).refuses q) q [f.key q 0] :=
  State.atPort_setPort (State.atPort_wr (s.atPort_refl q _) (List.mem_singleton_self _)) _

/-- Settles O18: a good frame is `frameEffect_next`; a frame that fails or is out of order leaves the port but for its NAK. -/
theorem framesAreTakenInOrder : Obligations.FramesAreTakenInOrder := by
  refine ⟨?taken, ?bad, ?stray⟩
  case taken =>
    intro s q f rails hq up good seq ask few vcs
    let u := (s.bump LNK_PC_FEC_SYMBOLS f.fixed q).setPort q ((s.port q).accepts f)
    have begun : s.atPort u q [LNK_PC_FEC_SYMBOLS.key q 0, LNK_PC_RX_CELLS.key q 0] :=
      State.atPort_setPort (State.atPort_wr (s.atPort_refl q _) (by simp)) _
    have port : u.port q = (s.port q).accepts f := State.port_setPort_same ..
    obtain ⟨received, -, only⟩ := State.receive_all q f.packets u vcs
    rw [port] at received
    obtain ⟨n, a, acked⟩ := State.takeAck_frees (s := f.packets.foldl (fun t p => t.receive q p) u) (q := q) ask (by rw [received]; exact few)
    have effect := (frameEffect_next up good seq).trans acked
    have answer := exec_frame (f := f) rails hq up
    rw [effect] at answer
    obtain ⟨t, run, port, others, store, regs, -⟩ :=
      State.atPort_answer answer (State.atPort_setPort (State.atPort_then begun (State.atPort_mono only (by simp))) _)
    rw [State.port_setPort_same, received] at port
    exact ⟨t, run, congrArg Port.rx port, congrArg Port.rxSeq port, congrArg Port.nak port, congrArg Port.replay port,
      (congrArg Port.tx port :), others, store, regs⟩
  case bad =>
    intro s q f rails hq up bad
    obtain ⟨t, run, port, others, store, regs, rd⟩ :=
      State.atPort_answer ((exec_frame rails hq up).trans (by rw [frameEffect_bad bad])) (s.atPort_refuses q 1 LNK_PC_FEC_UNCORR)
    exact ⟨t, run, port.trans (State.port_setPort_same ..), others, (rd ..).trans (State.rd_wr_same ..), store, regs⟩
  case stray =>
    intro s q f rails hq up good stray
    obtain ⟨t, run, port, others, store, regs, -⟩ :=
      State.atPort_answer ((exec_frame rails hq up).trans (by rw [frameEffect_stray up good stray])) (s.atPort_refuses q f.fixed LNK_PC_FEC_SYMBOLS)
    exact ⟨t, run, port.trans (State.port_setPort_same ..), others, store, regs⟩

end Sys2Proof.Machine
end

section
/-!
PROOF. Management messages (R544, R545) and packets that leave or pass on (R547, R549, R565, R566).
-/
namespace Sys2Proof.Machine

variable {s t u : State} {q r a : Nat} {p : Packet} {ks : List Nat}

/-! ### A packet leaves the receive buffer (R565) -/

/-- A port without its oldest packet of a virtual channel, whose cells it owes. -/
def Port.without (x : Port) (v : Nat) (p : Packet) : Port :=
  { x with rx := x.rx.eraseP (fun e => e.2.vc == v), owed := x.owed ++ [(v, p.cls, packetCells p)] }

theorem State.dropHead_eq {v : Nat} (head : s.headVc q v = some (a, p)) : s.dropHead q v = s.setPort q ((s.port q).without v p) := by
  unfold State.headVc at head
  simp only [State.dropHead, head]
  rfl

/-! ### Management messages -/

theorem State.mgmtAt_head (h : s.mgmtAt q = some (a, p)) : s.headVc q 3 = some (a, p) := by
  unfold State.mgmtAt at h
  split at h
  · next head =>
    split at h
    · exact head.trans h
    · cases h
  · cases h

/-- The state in which a management message has its effect. -/
def State.heard (s : State) (q : Nat) (p : Packet) : State := s.setPort q ((s.port q).without 3 p)

theorem exec_mgmt (rails : s.railsUp = true) (hq : q < 16) (h : s.mgmtAt q = some (a, p)) :
    exec (.mgmt q) s = .next (s.commit ((s.heard q p).takeMgmt q a p.mgmt)) := by
  have run : exec (.mgmt q) s = .next (s.commit (mgmtEffect q s)) :=
    State.rails_next rails (by rw [portOk_of_lt hq, h]; rfl) _
  rw [run, mgmtEffect, h]
  exact congrArg (fun u : State => Host.Outcome.next (s.commit (u.takeMgmt q a p.mgmt))) (State.dropHead_eq (State.mgmtAt_head h))

theorem State.atPort_heard (s : State) (q : Nat) (p : Packet) : s.atPort (s.heard q p) q ks := State.atPort_setPort (s.atPort_refl q ks) _

theorem State.port_heard (s : State) (q : Nat) (p : Packet) : (s.heard q p).port q = (s.port q).without 3 p := State.port_setPort_same ..

/-- The peer as an identity message names it. -/
def State.showPeer (s : State) (q dev port : Nat) : State := ((s.wr LNK_PEER_DEV dev q).wr LNK_PEER_PORT port q).on LNK_PEER_VALID q

theorem State.showPeer_leaves (s : State) (q dev port : Nat) :
    (s.showPeer q dev port).rd LNK_PEER_DEV q = dev % 2 ^ LNK_PEER_DEV.w ∧ (s.showPeer q dev port).rd LNK_PEER_PORT q = port % 2 ^ LNK_PEER_PORT.w ∧
      (s.showPeer q dev port).is LNK_PEER_VALID q = true ∧
      s.atPort (s.showPeer q dev port) q [LNK_PEER_DEV.key q 0, LNK_PEER_PORT.key q 0, LNK_PEER_VALID.key q 0] := by
  refine ⟨?_, ?_, State.is_wr_one _ _ _ _ rfl,
    State.atPort_wr (State.atPort_wr (State.atPort_wr (s.atPort_refl q _) (by simp)) (by simp)) (by simp)⟩
  · exact (State.rd_wr_beside (by decide) ..).trans ((State.rd_wr_beside (by decide) ..).trans (State.rd_wr_same ..))
  · exact (State.rd_wr_beside (by decide) ..).trans (State.rd_wr_same ..)

/-- The credits that a message of grants gives a port that has none: the halves of its words. -/
theorem grants_from_nothing (v0 v1 v2 v3 : Nat) :
    (List.range 8).map (fun k => ([] : List Nat).getD k 0 +
      ([v0, v1, v2, v3].flatMap (fun w => [bits w 0 14, bits w 16 14])).getD k 0 - ([] : List Nat).getD k 0) =
    [bits v0 0 14, bits v0 16 14, bits v1 0 14, bits v1 16 14, bits v2 0 14, bits v2 16 14, bits v3 0 14, bits v3 16 14] := by
  simp [List.range_succ]

/-- Settles O21: each message is what `takeMgmt` does once the packet has left the receive buffer. -/
theorem managementMessagesAreTaken : Obligations.ManagementMessagesAreTaken := by
  refine ⟨?identity, ?measure, ?reply, ?credits⟩
  case identity =>
    intro s q a p dev port fw width rails hq head msg
    obtain ⟨shownDev, shownPort, valid, only⟩ := (s.heard q p).showPeer_leaves q dev port
    obtain ⟨t, run, same, others, store, regs, rd⟩ :=
      State.atPort_answer (exec_mgmt rails hq head) (by rw [msg]; exact State.atPort_then (s.atPort_heard q p) only)
    rw [msg] at same rd
    exact ⟨t, run, congrArg Port.rx (same.trans (s.port_heard q p)), others, (rd ..).trans shownDev, (rd ..).trans shownPort,
      (congrArg (· != 0) (rd ..)).trans valid, store, regs⟩
  case measure =>
    intro s q a t1 p rails hq head msg
    have effect := exec_mgmt rails hq head
    rw [msg, State.takeMgmt, State.enqueue, s.port_heard q p] at effect
    obtain ⟨t, run, same, others, store, regs, -⟩ := State.atPort_answer (ks := []) effect (State.atPort_setPort (s.atPort_heard q p) _)
    rw [State.port_setPort_same] at same
    exact ⟨t, _, run, congrArg Port.rx same, others, congrArg Port.tx same, rfl, rfl, rfl, store, regs⟩
  case reply =>
    intro s q a t1 t2 t3 p rails hq head msg phase few
    have port := s.port_heard q p
    have counts : ((s.heard q p).port q).phase = 5 ∧ ((s.heard q p).port q).rttCount < 1024 := by rw [port]; exact ⟨phase, few⟩
    have effect := exec_mgmt rails hq head
    rw [msg, State.takeMgmt, if_pos counts, port] at effect
    obtain ⟨t, run, same, others, store, regs, -⟩ := State.atPort_answer (ks := []) effect (State.atPort_setPort (s.atPort_heard q p) _)
    rw [State.port_setPort_same] at same
    exact ⟨t, run, congrArg Port.rx same, others, congrArg Port.rttCount same, congrArg Port.rttSum same, store, regs⟩
  case credits =>
    intro s q a v0 v1 v2 v3 p rails hq head msg trains noGrant noCredits
    have still : (s.heard q p).training q = true := trains
    have effect := exec_mgmt rails hq head
    rw [msg, State.takeMgmt, if_pos still, s.port_heard q p] at effect
    obtain ⟨t, run, same, others, store, regs, -⟩ := State.atPort_answer (ks := []) effect (State.atPort_setPort (s.atPort_heard q p) _)
    rw [State.port_setPort_same] at same
    refine ⟨t, run, congrArg Port.rx same, others, congrArg Port.peerCr same, (congrArg Port.credits same).trans ?_, store, regs⟩
    simp only [Port.without, noGrant, noCredits]
    exact grants_from_nothing v0 v1 v2 v3

/-! ### PACKET_SEND (R566) -/

/-- What the arbitration picked, as it goes into the frame. -/
def State.leaving (s : State) : Option (Nat × Nat × Nat × Packet) → List Packet
  | some (_, _, t0, p) => [s.stamp t0 p]
  | none => []

/-- The cells of a packet that leaves are counted, for the port and for the packet's context. -/
def State.countCells (s : State) (q : Nat) : Option (Nat × Nat × Nat × Packet) → State
  | some (_, _, _, p) => (s.bump LNK_PC_TX_CELLS (packetCells p) q).bump CTX_ACC_PORT (packetCells p * 64) p.ctx q
  | none => s

theorem State.atPort_countCells (s : State) (q pos age t0 : Nat) (p : Packet) :
    s.atPort (s.countCells q (some (pos, age, t0, p))) q [LNK_PC_TX_CELLS.key q 0, CTX_ACC_PORT.key p.ctx q] :=
  State.atPort_wr (State.atPort_wr (s.atPort_refl q _) (by simp)) (by simp)

/-- The counts of cells are not the state of a port. -/
theorem linkState_ne_portCells {ctx : Nat} (_ : q < 16) : LNK_STAT_STATE.key q 0 ≠ CTX_ACC_PORT.key ctx q := by
  simp only [Fld.key, Page.base, LNK_STAT_STATE, CTX_ACC_PORT]
  omega

theorem State.training_countCells (s : State) (hq : q < 16) (pick : Option (Nat × Nat × Nat × Packet)) :
    (s.countCells q pick).training q = s.training q := by
  cases pick with
  | none => rfl
  | some e =>
    have state : (s.countCells q (some e)).rd LNK_STAT_STATE q = s.rd LNK_STAT_STATE q :=
      (State.rd_wr_ne _ (linkState_ne_portCells hq) _).trans (State.rd_wr_beside (by decide) ..)
    simp only [State.training, state]

theorem State.port_countCells (s : State) (q k : Nat) (pick : Option (Nat × Nat × Nat × Packet)) : (s.countCells q pick).port k = s.port k := by
  cases pick <;> rfl

/-- A frame leaves a port that is up, with what the arbitration picked. -/
theorem packetSendEffect_sends (hq : q < 16) (up : s.portUp q = true) :
    ∃ x : Port, packetSendEffect q s = (s.countCells q (s.nextOut q)).setPort q x ∧
      x.replay = (s.port q).replay ++ [(s.port q).nextFrame (s.leaving (s.nextOut q))] ∧ x.nextSeq = ((s.port q).nextSeq + 1) % 4096 := by
  have trains := (s.training_countCells hq (s.nextOut q)).trans (State.training_of_up up)
  have port := s.port_countCells q q (s.nextOut q)
  unfold packetSendEffect
  generalize s.nextOut q = pick at trains port
  cases pick with
  | none =>
    simp only [State.countCells, State.leaving] at trains ⊢
    rw [trains]
    exact ⟨_, rfl, rfl, rfl⟩
  | some e =>
    simp only [State.countCells, State.leaving] at trains ⊢
    rw [trains]
    exact ⟨_, rfl, rfl, rfl⟩

theorem exec_packetSend (rails : s.railsUp = true) (hq : q < 16) (up : s.portUp q = true) (room : (s.port q).replay.length < 256) :
    exec (.packetSend q) s = .next (s.commit (packetSendEffect q s)) :=
  State.rails_next rails (by rw [portOk_of_lt hq, State.framing_of_up up, decide_eq_true room]; rfl) _

/-! ### PACKET_FORWARD (R547, R549) -/

theorem State.forwardVc_head {v : Nat} (h : s.forwardVc q = some (v, p)) : ∃ a, s.headVc q v = some (a, p) := by
  obtain ⟨w, -, found⟩ := List.exists_of_findSome?_eq_some h
  split at found
  · next a p' head =>
    split at found
    · obtain ⟨rfl, rfl⟩ := Prod.mk.inj (Option.some.inj found)
      exact ⟨a, head⟩
    · cases found
  · cases found

/-- A packet as it passes on. -/
def State.passed (s : State) (p : Packet) : Packet := { p with hops := p.hops + 1, cls := s.classFor p.dst p }

theorem packetForwardEffect_queues {v : Nat} (h : s.forwardVc q = some (v, p)) (few : p.hops < 15) (route : s.portFor p.dst p = some r)
    (takes : s.blk .lnk r ≠ 2) : packetForwardEffect q s = (s.setPort q ((s.port q).without v p)).enqueue r (s.passed p) := by
  obtain ⟨a, head⟩ := State.forwardVc_head h
  have same : (s.setPort q ((s.port q).without v p)).portFor p.dst p = some r := route
  have again : (s.setPort q ((s.port q).without v p)).portFor p.dst { p with hops := p.hops + 1 } = some r := route
  have opened : ((s.setPort q ((s.port q).without v p)).blk .lnk r == 2) = false := beq_eq_false_iff_ne.2 takes
  simp only [packetForwardEffect, h, State.dropHead_eq head, if_neg (Nat.not_le.2 few), same, opened, Bool.and_false, Bool.false_eq_true, if_false,
    State.sendRouted, again]
  rfl

theorem State.tx_enqueue (s : State) (r : Nat) (p : Packet) : ((s.enqueue r p).port r).tx = (s.port r).tx ++ [(0, s.clock, p)] :=
  congrArg Port.tx (State.port_setPort_same ..)

/-- Settles O22: a frame by `packetSendEffect_sends`, a packet that passes on by `packetForwardEffect_queues`. -/
theorem packetsLeaveByTheirPorts : Obligations.PacketsLeaveByTheirPorts := by
  refine ⟨?idle, ?packet, ?forward⟩
  case idle =>
    intro s q rails hq up room idle
    obtain ⟨x, sends, replay, seq⟩ := packetSendEffect_sends hq up
    rw [idle] at sends replay
    obtain ⟨t, run, port, -, store, regs, -⟩ :=
      State.atPort_answer ((exec_packetSend rails hq up room).trans (by rw [sends]))
        (State.atPort_setPort (t := s.countCells q none) (s.atPort_refl q []) x)
    rw [State.port_setPort_same] at port
    exact ⟨t, _, run, (congrArg Port.replay port).trans replay, rfl, rfl, rfl, rfl, (congrArg Port.nextSeq port).trans seq, store, regs⟩
  case packet =>
    intro s q pos age t0 p rails hq up room pick
    obtain ⟨x, sends, replay, seq⟩ := packetSendEffect_sends hq up
    rw [pick] at sends replay
    obtain ⟨t, run, port, others, store, regs, -⟩ :=
      State.atPort_answer ((exec_packetSend rails hq up room).trans (by rw [sends])) (State.atPort_setPort (s.atPort_countCells q pos age t0 p) x)
    rw [State.port_setPort_same] at port
    exact ⟨t, _, run, (congrArg Port.replay port).trans replay, rfl, rfl, (congrArg Port.nextSeq port).trans seq, others, store, regs⟩
  case forward =>
    intro s q v r p rails hq h few route takes
    have run : exec (.packetForward q) s = .next (s.commit (packetForwardEffect q s)) :=
      State.rails_next rails (by rw [portOk_of_lt hq, h]; rfl) _
    rw [packetForwardEffect_queues h few route takes] at run
    have buffer : ((s.setPort q ((s.port q).without v p)).port r).tx = (s.port r).tx := by
      rw [State.port_setPort]
      split
      · next same => rw [same]; rfl
      · rfl
    have foot : s.foot ((s.setPort q ((s.port q).without v p)).enqueue r (s.passed p)) [] := State.foot_of_eq rfl rfl rfl rfl
    refine ⟨_, run, ?_, State.foot_commit foot⟩
    rw [State.port_commit, State.tx_enqueue, buffer]
    rfl

end Sys2Proof.Machine
end

section
/-!
PROOF. Training (R540 to R544, R572): a port retrains, its phases end, and it comes up or fails.
-/
namespace Sys2Proof.Machine

variable {s t u : State} {q : Nat} {ks : List Nat}

/-! ### The state of a port (R575, R686) -/

/-- A logbook event changes the queue, and the count of those that it had no room for. -/
theorem State.logEv_only (s : State) (p : Page) (i a b c d : Nat) : ∃ rs l, s.logEv p i a b c d = { s with regs := rs, logQueue := l } := by
  unfold State.logEv State.logFrom
  split
  · exact ⟨s.regs, _, rfl⟩
  · exact ⟨_, s.logQueue, rfl⟩

/-- The registers that a new STATE of a port may change. -/
abbrev stateKeys (q : Nat) : List Nat := [LNK_STAT_STATE.key q 0, LNK_CTL_RETRAIN.key q 0, LOG_DROPPED.key 0 0]

theorem State.setPortState_only (s : State) (q n : Nat) : ∃ rs l, s.setPortState q n = { s with regs := rs, logQueue := l } := by
  unfold State.setPortState
  dsimp only
  split
  · exact State.logEv_only ..
  · exact State.logEv_only ..

theorem State.foot_setPortState (s : State) (q n : Nat) : s.foot (s.setPortState q n) (stateKeys q) := by
  unfold State.setPortState
  dsimp only
  refine State.foot_logEv_of ?_ (by simp)
  split
  · exact State.foot_wr (by simp)
  · exact State.foot_wr_of (State.foot_wr (by simp)) (by simp)

theorem State.rd_setPortState (s : State) (q n : Nat) : (s.setPortState q n).rd LNK_STAT_STATE q = n % 8 := by
  unfold State.setPortState
  dsimp only
  rw [State.logEv, State.rd_logFrom _ (Fld.lnk_ne_low rfl (by decide) q 0)]
  split
  · exact State.rd_wr_same ..
  · exact (State.rd_wr_beside (by decide) ..).trans (State.rd_wr_same ..)

/-- A field of the LNK page beside STATE and RETRAIN keeps its value. -/
theorem State.rd_setPortState_other {f : Fld} (state : f.beside LNK_STAT_STATE) (retrain : f.beside LNK_CTL_RETRAIN) (s : State) (q n : Nat) :
    (s.setPortState q n).rd f q = s.rd f q := by
  have low : f.key q 0 ≠ LOG_DROPPED.key 0 0 := Fld.lnk_ne_low state.1 (by decide) q 0
  refine (s.foot_setPortState q n).2 f q 0 ?_
  simp only [List.mem_cons, List.not_mem_nil, or_false, not_or]
  exact ⟨Fld.beside_ne state q 0, Fld.beside_ne retrain q 0, low⟩

/-! ### Phases (R542) -/

theorem State.port_setPhaseOf (s : State) (q n : Nat) : (s.setPhaseOf q n).port q = { s.port q with phase := n } := State.port_setPort_same ..

theorem State.rd_setPhaseOf (s : State) (q n : Nat) : (s.setPhaseOf q n).rd LNK_STAT_PHASE q = min (n - 1) 3 :=
  (State.rd_wr_same ..).trans (Nat.mod_eq_of_lt (show _ < 4 by omega))

theorem State.rd_setPhaseOf_other {f : Fld} (h : f.beside LNK_STAT_PHASE) (s : State) (q n : Nat) : (s.setPhaseOf q n).rd f q = s.rd f q :=
  State.rd_wr_beside h ..

theorem State.atPort_setPhaseOf (h : s.atPort t q ks) (mem : LNK_STAT_PHASE.key q 0 ∈ ks) (n : Nat) : s.atPort (t.setPhaseOf q n) q ks :=
  State.atPort_wr (State.atPort_setPort h _) mem

/-- A port that begins to train. -/
def State.begins (s : State) (q : Nat) : Port :=
  { s.port q with
    start := s.clock, failed := s.lostLanes q, rttSum := 0, rttRaw := 0, rttCount := 0, peerCr := false
    tx := (s.port q).tx.filter (fun e => e.2.2.type != ptMgmt) }

theorem State.startPhases_eq (s : State) (q : Nat) :
    s.startPhases q = ((s.setPort q (s.begins q)).setPhaseOf q 1).wr LNK_PEER_VALID 0 q := rfl

theorem State.startPhases_leaves (s : State) (q : Nat) :
    (s.startPhases q).port q = { s.begins q with phase := 1 } ∧ (s.startPhases q).rd LNK_STAT_PHASE q = 0 ∧
      (s.startPhases q).is LNK_PEER_VALID q = false ∧ s.atPort (s.startPhases q) q [LNK_STAT_PHASE.key q 0, LNK_PEER_VALID.key q 0] := by
  rw [State.startPhases_eq]
  refine ⟨?_, (State.rd_wr_beside (by decide) ..).trans (State.rd_setPhaseOf ..), State.is_wr_zero ..,
    State.atPort_wr (State.atPort_setPhaseOf (State.atPort_setPort (s.atPort_refl q _) _) (by simp) 1) (by simp)⟩
  rw [State.port_wr, State.port_setPhaseOf, State.port_setPort_same]

/-! ### RETRAIN (R538, R540, R572) -/

/-- Without a threshold a transient error is counted only. -/
theorem State.transient_counts (s : State) (i : Inst) :
    (∃ fs rs, s.transient i 0 = { s with faults := fs, regs := rs }) ∧ s.foot (s.transient i 0) [SPR_PC_TRANSIENT.key 0 0] := by
  unfold State.transient
  split
  · exact ⟨⟨s.faults, s.regs, rfl⟩, s.foot_refl⟩
  · dsimp only
    rw [if_neg (fun h => absurd h.1 (lt_irrefl 0))]
    exact ⟨⟨_, _, rfl⟩, State.foot_wr_of (State.foot_of_eq rfl rfl rfl rfl) (by simp)⟩

/-- The registers that a port which retrains may change. -/
abbrev retrainKeys (q : Nat) : List Nat :=
  [LNK_STAT_STATE.key q 0, LNK_CTL_RETRAIN.key q 0, LOG_DROPPED.key 0 0, LNK_STAT_PHASE.key q 0, LNK_PEER_VALID.key q 0, SPR_PC_TRANSIENT.key 0 0]

theorem State.startRetrain_leaves (up : s.portUp q = true) :
    (s.startRetrain q).port q = { s.begins q with phase := 1 } ∧ (s.startRetrain q).rd LNK_STAT_STATE q = 4 ∧ (s.startRetrain q).rd LNK_STAT_PHASE q = 0 ∧
      (s.startRetrain q).is LNK_PEER_VALID q = false ∧ (s.startRetrain q).clock = s.clock ∧ s.atPort (s.startRetrain q) q (retrainKeys q) := by
  have transientKey {f : Fld} (link : f.page = .lnk) : f.key q 0 ∉ [SPR_PC_TRANSIENT.key 0 0] := by
    simpa using Fld.lnk_ne_low link (g := SPR_PC_TRANSIENT) (by decide) q 0
  obtain ⟨rs, l, only⟩ := s.setPortState_only q 4
  have state := s.foot_setPortState q 4
  have shows := s.rd_setPortState q 4
  obtain ⟨port, phase, valid, begun⟩ := (s.setPortState q 4).startPhases_leaves q
  obtain ⟨⟨fs, ss, counted⟩, foot⟩ := ((s.setPortState q 4).startPhases q).transient_counts { kind := 13, block := q, pos := 0 }
  have effect : s.startRetrain q = ((s.setPortState q 4).startPhases q).transient { kind := 13, block := q, pos := 0 } 0 := if_pos up
  have ports : (s.startRetrain q).ports = ((s.setPortState q 4).startPhases q).ports := by rw [effect, counted]
  have first : s.atPort (s.setPortState q 4) q (retrainKeys q) :=
    State.atPort_foot (s.atPort_refl q _) (State.foot_mono state (by simp)) (by rw [only])
  rw [effect] at ports ⊢
  refine ⟨?_, ?_, ?_, ?_, ?_, State.atPort_foot (State.atPort_then first (State.atPort_mono begun (by simp))) (State.foot_mono foot (by simp)) ports⟩
  · rw [State.port, ports, ← State.port, port, only]
    rfl
  · refine (foot.2 _ _ _ (transientKey rfl)).trans ((begun.1.2 _ _ _ ?_).trans shows)
    simp [Fld.beside_ne (f := LNK_STAT_STATE) (g := LNK_STAT_PHASE) (by decide),
      Fld.beside_ne (f := LNK_STAT_STATE) (g := LNK_PEER_VALID) (by decide)]
  · exact (foot.2 _ _ _ (transientKey rfl)).trans phase
  · exact (congrArg (· != 0) (foot.2 LNK_PEER_VALID q 0 (transientKey rfl))).trans valid
  · rw [counted, only]
    rfl

/-! ### Phases end (R542 to R544) -/

theorem exec_trainingPhase (rails : s.railsUp = true) (hq : q < 16) (trains : s.training q = true) (done : s.phaseDone q = true) (lanes : Nat) :
    exec (.trainingPhase q lanes) s = .next (s.commit (trainingPhaseEffect q lanes s)) :=
  State.rails_next rails (by rw [portOk_of_lt hq, trains, done]; rfl) _

/-- The lanes on which a phase did not succeed count as failed. -/
def State.lanesReported (s : State) (q lanes : Nat) : State :=
  s.setPort q { s.port q with failed := (s.port q).failed ||| (2 ^ 17 - 1 - lanes % 2 ^ 17) }

theorem trainingPhaseEffect_early {lanes : Nat} (early : (s.port q).phase = 1 ∨ (s.port q).phase = 2) :
    trainingPhaseEffect q lanes s = (s.lanesReported q lanes).setPhaseOf q ((s.port q).phase + 1) := by
  unfold trainingPhaseEffect
  extract_lets x s'
  have early : x.phase = 1 ∨ x.phase = 2 := early
  change _ = s'.setPhaseOf q (x.phase + 1)
  obtain phase | phase := early
  · rw [phase]
    rfl
  · rw [phase]
    rfl

section
variable {lanes : Nat}

theorem trainingPhaseEffect_three (phase : (s.port q).phase = 3) : trainingPhaseEffect q lanes s = (s.lanesReported q lanes).settleWidth q := by
  unfold trainingPhaseEffect
  extract_lets x s'
  rw [show x.phase = 3 from phase]
  rfl

theorem trainingPhaseEffect_four (phase : (s.port q).phase = 4) : trainingPhaseEffect q lanes s = s.startMeasuring q := by
  simp only [trainingPhaseEffect, phase]

theorem trainingPhaseEffect_five (phase : (s.port q).phase = 5) : trainingPhaseEffect q lanes s = s.endMeasuring q := by
  simp only [trainingPhaseEffect, phase]

theorem trainingPhaseEffect_six (phase : (s.port q).phase = 6) : trainingPhaseEffect q lanes s = s.portComesUp q := by
  simp only [trainingPhaseEffect, phase]

end

/-- The lanes that have not failed. -/
def State.healthy (s : State) (q : Nat) : List Nat := (List.range 17).filter (fun l => !bitOf (s.port q).failed l)

/-- The width of a port and its lanes, as the registers show them (R540, R575). -/
def State.showWidth (s : State) (q w mask used map : Nat) : State :=
  (((s.wr LNK_STAT_WIDTH w q).wr LNK_LANES_ACTIVE_MASK mask q).wr LNK_STAT_SPARE_USED used q).wr LNK_LANE_MAP_SPARED map q

theorem State.foot_showWidth (s : State) (q w mask used map : Nat) : s.foot (s.showWidth q w mask used map)
    [LNK_STAT_WIDTH.key q 0, LNK_LANES_ACTIVE_MASK.key q 0, LNK_STAT_SPARE_USED.key q 0, LNK_LANE_MAP_SPARED.key q 0] :=
  State.foot_wr_of (State.foot_wr_of (State.foot_wr_of (State.foot_wr (by simp)) (by simp)) (by simp)) (by simp)

theorem State.rd_showWidth (s : State) (q w mask used map : Nat) :
    (s.showWidth q w mask used map).rd LNK_STAT_WIDTH q = w % 4 ∧ (s.showWidth q w mask used map).rd LNK_STAT_STATE q = s.rd LNK_STAT_STATE q := by
  constructor
  · exact (State.rd_wr_beside (by decide) ..).trans ((State.rd_wr_beside (by decide) ..).trans ((State.rd_wr_beside (by decide) ..).trans
      (State.rd_wr_same ..)))
  · simp (disch := decide) only [State.showWidth, State.rd_wr_beside]

theorem widthFor_lt {n w : Nat} (h : widthFor n = some w) : w < 4 := by
  unfold widthFor at h
  split at h
  · cases h; decide
  · split at h
    · cases h; decide
    · split at h
      · cases h; decide
      · cases h

theorem State.settleWidth_takes {w : Nat} (width : widthFor (s.healthy q).length = some w) (enough : w ≤ s.rd LNK_CTL_MIN_WIDTH q) :
    ∃ mask used map me, s.settleWidth q = ((s.showWidth q w mask used map).enqueue q me).setPhaseOf q 4 := by
  unfold State.healthy at width
  unfold State.settleWidth
  simp only [width]
  rw [if_neg (Nat.not_lt.2 enough)]
  exact ⟨_, _, _, _, rfl⟩

/-- The measure message (R544). -/
def State.measureMsg (s : State) : Packet := { zeroPacket with type := ptMgmt, vc := 3, src := s.dev, mgmt := .measure 0 }

theorem State.startMeasuring_eq (s : State) (q : Nat) : s.startMeasuring q =
    (s.setPort q { s.port q with tx := (s.port q).tx ++ List.replicate 1024 (0, s.clock, s.measureMsg) }).setPhaseOf q 5 := rfl

theorem State.grants_latency (s : State) (q v : Nat) : (s.wr LNK_LATENCY_LAT v q).grants q = s.grants q := by
  simp (disch := decide) only [State.grants, State.rd_wr_beside]

/-- The message with the grants of a port (R565). -/
def State.grantMsg (s : State) (q : Nat) : Packet :=
  { zeroPacket with
    type := ptMgmt, vc := 3, src := s.dev
    mgmt := .credits ((s.grants q).getD 0 0) ((s.grants q).getD 1 0) ((s.grants q).getD 2 0) ((s.grants q).getD 3 0) }

theorem State.endMeasuring_even (short : (s.port q).rttRaw ≤ 16000 * (s.port q).rttCount)
    (even : (s.port q).rttSum % (2 * (s.port q).rttCount) = 0) :
    let v := s.wr LNK_LATENCY_LAT ((s.port q).rttSum / (2 * (s.port q).rttCount)) q
    s.endMeasuring q = (v.enqueue q (v.grantMsg q)).setPhaseOf q 6 := by
  unfold State.endMeasuring
  dsimp only
  rw [if_neg (Nat.not_lt.2 short), if_pos even]
  rfl

/-- The registers that a port which comes up may change. -/
abbrev upKeys (q : Nat) : List Nat :=
  [LNK_STAT_STATE.key q 0, LNK_STAT_PHASE.key q 0, LNK_PC_REPLAYS.key q 0, LNK_CTL_RETRAIN.key q 0, LOG_DROPPED.key 0 0]

theorem State.portComesUp_leaves (s : State) (q : Nat) :
    (s.portComesUp q).rd LNK_STAT_STATE q = (if s.rd LNK_STAT_WIDTH q = 0 then 2 else 3) ∧ (s.portComesUp q).rd LNK_STAT_PHASE q = 0 ∧
      (s.portComesUp q).port q = { s.port q with phase := 0, replays := 0, ackAt := s.clock } ∧ s.atPort (s.portComesUp q) q (upKeys q) := by
  unfold State.portComesUp
  extract_lets x s1 s2
  have port : s2.port q = { s.port q with phase := 0, replays := 0, ackAt := s.clock } := State.port_setPort_same ..
  have width : s2.rd LNK_STAT_WIDTH q = s.rd LNK_STAT_WIDTH q := (State.rd_wr_beside (by decide) ..).trans (State.rd_wr_beside (by decide) ..)
  have phase : s2.rd LNK_STAT_PHASE q = 0 := (State.rd_wr_beside (by decide) ..).trans (State.rd_wr_same ..)
  have only : s.atPort s2 q (upKeys q) :=
    State.atPort_wr (State.atPort_wr (State.atPort_setPort (s.atPort_refl q _) _) (by simp)) (by simp)
  rw [width]
  obtain ⟨rs, l, same⟩ := s2.setPortState_only q (if s.rd LNK_STAT_WIDTH q = 0 then 2 else 3)
  refine ⟨?_, (State.rd_setPortState_other (by decide) (by decide) ..).trans phase, ?_,
    State.atPort_foot only (State.foot_mono (s2.foot_setPortState q _) (by simp)) (by rw [same])⟩
  · rw [State.rd_setPortState]
    split <;> rfl
  · rw [same]
    exact port

end Sys2Proof.Machine
end

section
/-!
PROOF. Ports that fail, retrain or spare a lane (R538 to R543, R573, R617 to R624), and the statements about training.
-/
namespace Sys2Proof.Machine

variable {s t u : State} {q : Nat} {ks : List Nat}

/-! ### An item becomes permanent (R618, R621) -/

/-- The item's fault is noted: logbook, ledger, counter, interrupt. -/
def State.noted (s : State) (i : Inst) (n : Nat) : State :=
  (((s.logEv .spr 0 0x602 3 0 (instData i)).ledgerNote 1 i n).bump SPR_PC_PERMANENT).ibiRaise 5

theorem State.noted_only (s : State) (i : Inst) (n : Nat) :
    ∃ rs l p b, s.noted i n = { s with regs := rs, logQueue := l, ledgerPend := p, ibi := b } := by
  obtain ⟨rs, l, logged⟩ := s.logEv_only .spr 0 0x602 3 0 (instData i)
  unfold State.noted State.ibiRaise
  rw [logged]
  split <;> exact ⟨_, _, _, _, rfl⟩

theorem State.foot_noted (s : State) (i : Inst) (n : Nat) : s.foot (s.noted i n) [LOG_DROPPED.key 0 0, SPR_PC_PERMANENT.key 0 0] :=
  State.foot_then (State.foot_wr_of (State.foot_upd_of (State.foot_logEv (by simp)) rfl rfl rfl rfl) (by simp)) (State.foot_ibiRaise ..)

theorem lnk_notin_noted {f : Fld} (link : f.page = .lnk) (q : Nat) : f.key q 0 ∉ [LOG_DROPPED.key 0 0, SPR_PC_PERMANENT.key 0 0] := by
  simp only [List.mem_cons, List.not_mem_nil, or_false, not_or]
  exact ⟨Fld.lnk_ne_low link (by decide) q 0, Fld.lnk_ne_low link (by decide) q 0⟩

/-- The registers of the spares that say that an item waits. -/
abbrev pendKeys : List Nat := [SPR_PENDING_KINDS.key 0 0, (BLK_INT_STAT .spr).key 0 0]

theorem lnk_notin_pendKeys {f : Fld} (link : f.page = .lnk) (q : Nat) : f.key q 0 ∉ pendKeys := by
  simp only [List.mem_cons, List.not_mem_nil, or_false, not_or]
  exact ⟨Fld.lnk_ne_low link (by decide) q 0, Fld.lnk_ne_low link (by decide) q 0⟩

/-- The item of a port (R617). -/
abbrev portInst (q : Nat) : Inst := { kind := 13, block := q, pos := 0 }

/-- How a retired port goes on: it waits for its spare, is being entered, or has none. -/
def State.portWaits (u : State) (q : Nat) : State :=
  if u.spareLeft (portInst q) = 0 then (u.setPhase (portInst q) 3).pendKind 13
  else if u.autoSpare (portInst q) then u.startEntry (portInst q) else (u.setPhase (portInst q) 0).pendKind 13

theorem State.portWaits_leaves (u : State) (q : Nat) :
    ∃ k rs, u.portWaits q = { u.setPhase (portInst q) k with regs := rs } ∧ u.foot (u.portWaits q) pendKeys := by
  have pends (k : Nat) : u.foot ((u.setPhase (portInst q) k).pendKind 13) pendKeys :=
    State.foot_wr_of (State.foot_wr_of (State.foot_of_eq rfl rfl rfl rfl) (by simp)) (by simp)
  unfold State.portWaits
  split
  · exact ⟨3, _, rfl, pends 3⟩
  · split
    · exact ⟨1, u.regs, rfl, State.foot_of_eq rfl rfl rfl rfl⟩
    · exact ⟨0, _, rfl, pends 0⟩

theorem State.permanent_port (fresh : s.phase (portInst q) = none) (n : Nat) :
    s.permanent (portInst q) n = ((s.noted (portInst q) n).markRetired (portInst q)).portWaits q := by
  unfold State.permanent
  rw [fresh]
  rfl

/-- A port with nothing to discard goes down. -/
theorem State.portDown_empty (replay : (s.port q).replay = []) (tx : (s.port q).tx = []) :
    ∃ x : Port, s.portDown q = (s.setPort q x).setPortState q 5 ∧ x.phase = 0 := by
  unfold State.portDown
  simp only [replay, tx]
  exact ⟨_, rfl, rfl⟩

/-- A port that trains, is not retired, and holds nothing fails (R543). -/
theorem State.failPort_leaves (trains : s.training q = true) (fresh : s.phase (portInst q) = none)
    (replay : (s.port q).replay = []) (tx : (s.port q).tx = []) :
    (s.failPort q).rd LNK_STAT_STATE q = 5 ∧ ((s.failPort q).port q).phase = 0 ∧ (s.failPort q).clock = s.clock ∧
      ∃ n, (portInst q, n) ∈ (s.failPort q).retired := by
  obtain ⟨ns, l, p, b, noted⟩ := s.noted_only (portInst q) 1
  have state : (s.noted (portInst q) 1).rd LNK_STAT_STATE q ≠ 5 := by
    rw [(s.foot_noted (portInst q) 1).2 _ _ _ (lnk_notin_noted rfl q)]
    intro failed
    simp [State.training, failed] at trains
  have goes : (s.noted (portInst q) 1).markRetired (portInst q) = (s.noted (portInst q) 1).portDown q := if_neg state
  obtain ⟨x, down, idle⟩ := State.portDown_empty (s := s.noted (portInst q) 1) (q := q) (by rw [noted]; exact replay) (by rw [noted]; exact tx)
  obtain ⟨k, rs, retires, foot⟩ := ((s.noted (portInst q) 1).portDown q).portWaits_leaves q
  have permanent := (State.permanent_port fresh 1).trans (congrArg (State.portWaits · q) goes)
  have failed : (s.permanent (portInst q) 1).rd LNK_STAT_STATE q = 5 := by
    rw [permanent, foot.2 _ _ _ (lnk_notin_pendKeys rfl q), down, State.rd_setPortState]
  have effect : s.failPort q = s.permanent (portInst q) 1 := if_pos failed
  obtain ⟨ds, dl, only⟩ := ((s.noted (portInst q) 1).setPort q x).setPortState_only q 5
  rw [effect]
  refine ⟨failed, ?_, ?_, k, ?_⟩
  · rw [permanent, retires, down, only]
    exact (congrArg Port.phase ((s.noted (portInst q) 1).port_setPort_same q x)).trans idle
  · rw [permanent, retires, down, only, noted]
    rfl
  · rw [permanent, retires]
    exact List.mem_append_right _ (List.mem_singleton_self _)

/-- Settles O20: one case for each phase, as `trainingPhaseEffect` goes on from it, and the timeout by `State.failPort_leaves`. -/
theorem trainingBringsAPortUp : Obligations.TrainingBringsAPortUp := by
  refine ⟨?early, ?width, ?measure, ?latency, ?up, ?timeout⟩
  case early =>
    intro s q lanes rails hq trains early
    have done : s.phaseDone q = true := by
      obtain phase | phase := early <;> simp only [State.phaseDone, phase]
    have answer := exec_trainingPhase rails hq trains done lanes
    rw [trainingPhaseEffect_early early] at answer
    obtain ⟨t, run, port, -, store, regs, rd⟩ := State.atPort_answer answer
      (State.atPort_setPhaseOf (State.atPort_setPort (s.atPort_refl q [LNK_STAT_PHASE.key q 0]) _) (by simp) _)
    rw [State.port_setPhaseOf, State.lanesReported, State.port_setPort_same] at port
    refine ⟨t, run, congrArg Port.phase port, (rd ..).trans ((State.rd_setPhaseOf ..).trans ?_), congrArg Port.failed port, (congrArg Port.tx port :),
      (congrArg Port.replay port :), store, regs⟩
    omega
  case width =>
    intro s q lanes w rails hq trains phase width enough
    have answer := exec_trainingPhase rails hq trains (by simp only [State.phaseDone, phase]) lanes
    have reported : (s.lanesReported q lanes).port q = _ := State.port_setPort_same ..
    have healthy : (s.lanesReported q lanes).healthy q =
        (List.range 17).filter (fun l => !bitOf ((s.port q).failed ||| (2 ^ 17 - 1 - lanes % 2 ^ 17)) l) := by rw [State.healthy, reported]
    obtain ⟨mask, used, map, me, takes⟩ := State.settleWidth_takes (s := s.lanesReported q lanes) (q := q) (by rw [healthy]; exact width) enough
    rw [trainingPhaseEffect_three phase, takes] at answer
    obtain ⟨shown, state⟩ := (s.lanesReported q lanes).rd_showWidth q w mask used map
    have foot := (s.lanesReported q lanes).foot_showWidth q w mask used map
    let ls := [LNK_STAT_WIDTH.key q 0, LNK_LANES_ACTIVE_MASK.key q 0, LNK_STAT_SPARE_USED.key q 0, LNK_LANE_MAP_SPARED.key q 0,
      LNK_STAT_PHASE.key q 0]
    have first : s.atPort ((s.lanesReported q lanes).showWidth q w mask used map) q ls :=
      State.atPort_foot (State.atPort_setPort (s.atPort_refl q _) _) (State.foot_mono foot (by simp [ls])) rfl
    obtain ⟨t, run, port, -, store, -, rd⟩ :=
      State.atPort_answer answer (State.atPort_setPhaseOf (State.atPort_setPort first _) (by simp [ls]) 4)
    rw [State.port_setPhaseOf, State.enqueue, State.port_setPort_same] at port
    refine ⟨t, run, ?_, congrArg Port.phase port, ?_, (congrArg Port.replay port :).trans (congrArg Port.replay reported :), store⟩
    · rw [rd, State.rd_setPhaseOf_other (by decide)]
      exact shown.trans (Nat.mod_eq_of_lt (widthFor_lt width))
    · rw [rd, State.rd_setPhaseOf_other (by decide)]
      exact state
  case measure =>
    intro s q lanes rails hq trains phase valid
    have answer := exec_trainingPhase rails hq trains (by simp only [State.phaseDone, phase, valid]) lanes
    rw [trainingPhaseEffect_four phase, State.startMeasuring_eq] at answer
    obtain ⟨t, run, port, -, store, regs, rd⟩ := State.atPort_answer answer
      (State.atPort_setPhaseOf (State.atPort_setPort (s.atPort_refl q [LNK_STAT_PHASE.key q 0]) _) (by simp) _)
    rw [State.port_setPhaseOf, State.port_setPort_same] at port
    exact ⟨t, s.measureMsg, run, congrArg Port.phase port, (rd ..).trans (State.rd_setPhaseOf ..), (congrArg Port.tx port :), rfl, rfl,
      (congrArg Port.replay port :), store, regs⟩
  case latency =>
    intro s q lanes rails hq trains phase enough short even
    have answer := exec_trainingPhase rails hq trains (by simp only [State.phaseDone, phase, decide_eq_true enough]) lanes
    let v := s.wr LNK_LATENCY_LAT ((s.port q).rttSum / (2 * (s.port q).rttCount)) q
    have first : s.atPort v q [LNK_STAT_PHASE.key q 0, LNK_LATENCY_LAT.key q 0] := State.atPort_wr (s.atPort_refl q _) (by simp)
    have grants : v.grants q = s.grants q := s.grants_latency q _
    have msg : (v.grantMsg q).mgmt = .credits ((s.grants q).getD 0 0) ((s.grants q).getD 1 0) ((s.grants q).getD 2 0) ((s.grants q).getD 3 0) := by
      rw [State.grantMsg, grants]
    rw [trainingPhaseEffect_five phase, State.endMeasuring_even short even] at answer
    obtain ⟨t, run, port, -, store, regs, rd⟩ :=
      State.atPort_answer answer (State.atPort_setPhaseOf (State.atPort_setPort first _) (by simp) _)
    rw [State.port_setPhaseOf, State.enqueue, State.port_setPort_same] at port
    refine ⟨t, v.grantMsg q, run, congrArg Port.phase port, (rd ..).trans (State.rd_setPhaseOf ..), ?_, (congrArg Port.tx port :), msg,
      (congrArg Port.replay port :), store, regs⟩
    rw [rd, State.rd_setPhaseOf_other (by decide)]
    exact State.rd_wr_same ..
  case up =>
    intro s q lanes rails hq trains phase peer
    have answer := exec_trainingPhase rails hq trains (by simp only [State.phaseDone, phase, peer]) lanes
    rw [trainingPhaseEffect_six phase] at answer
    obtain ⟨state, phase, up, only⟩ := s.portComesUp_leaves q
    obtain ⟨t, run, port, -, store, regs, rd⟩ := State.atPort_answer answer only
    have port := port.trans up
    exact ⟨t, run, (rd ..).trans state, congrArg Port.phase port, (rd ..).trans phase, (congrArg Port.replay port :), (congrArg Port.tx port :), store, regs⟩
  case timeout =>
    intro s q rails hq trains fresh replay tx
    have run : exec (.trainingTimeout q) s = .next (s.commit (trainingTimeoutEffect q s)) :=
      State.rails_next rails (by rw [portOk_of_lt hq, trains]; rfl) _
    obtain ⟨state, phase, clock, retired⟩ := State.failPort_leaves (s := s.at ((s.port q).start + max 1 (s.rd LNK_RETRAIN_MAX_MS q) * 16000000))
      trains fresh replay tx
    exact ⟨_, run, (State.rd_commit ..).trans state, phase, clock, retired⟩

end Sys2Proof.Machine
end

section
/-!
PROOF. A port retrains, and its spare carries a lane (R538 to R540, R572, R783).
-/
namespace Sys2Proof.Machine

variable {s t u : State} {q lane : Nat}

/-! ### RETRAIN, ACK_TIMEOUT, FRAME_LOCK_LOSS -/

/-- What the three commands that retrain a port do to one that is up. -/
theorem exec_retrains {c : Instr} (rails : s.railsUp = true) (hq : q < 16) (up : s.portUp q = true)
    (which : c = .ackTimeout q ∧ (s.port q).replay ≠ [] ∨ c = .frameLockLoss q ∨ c = .retrain q) :
    ∃ v w : State, exec c s = .next (s.commit w) ∧ v = s.at v.clock ∧ v.portUp q = true ∧
      (w = v.startRetrain q ∨ w = (v.startRetrain q).on LNK_CTL_RETRAIN q) ∧
      (c = .ackTimeout q → v.clock = max s.clock ((s.port q).ackAt + 160000)) ∧
      (c = .retrain q → w = (v.startRetrain q).on LNK_CTL_RETRAIN q) := by
  have still : s = s.at s.clock := by rw [State.at, max_self]
  obtain ⟨rfl, busy⟩ | rfl | rfl := which
  · let v := s.at ((s.port q).ackAt + 160000)
    have run : exec (.ackTimeout q) s = .next (s.commit (v.startRetrain q)) :=
      State.rails_next rails (by rw [portOk_of_lt hq, up]; simpa using busy) (fun s => (s.at ((s.port q).ackAt + 160000)).startRetrain q)
    exact ⟨v, _, run, by simp [v, State.at], up, .inl rfl, fun _ => rfl, nofun⟩
  · have run : exec (.frameLockLoss q) s = .next (s.commit (s.startRetrain q)) :=
      State.rails_next rails (by rw [portOk_of_lt hq, up]; rfl) (fun s => s.startRetrain q)
    exact ⟨s, _, run, still, up, .inl rfl, nofun, nofun⟩
  · have run : exec (.retrain q) s = .next (s.commit (retrainEffect q s)) := State.rails_next rails (portOk_of_lt hq) _
    rw [retrainEffect, if_pos up] at run
    exact ⟨s, _, run, still, up, .inr rfl, nofun, fun _ => rfl⟩

/-! ### The spare lane (R539, R621) -/

/-- The item of a lane on the receive side (R617). -/
abbrev laneInst (q lane : Nat) : Inst := { kind := 8, block := q, pos := lane }

/-- Where lanes are spared automatically and the spare is free, a lane that becomes permanent has its spare in service. -/
theorem State.permanent_lane (fresh : s.phase (laneInst q lane) = none) (free : 0 < s.spareLeft (laneInst q lane))
    (auto : s.is LNK_CTL_LANE_AUTO q = true) (n : Nat) :
    s.permanent (laneInst q lane) n = ((s.noted (laneInst q lane) n).useSpareLane q (lane % 32)).entered (laneInst q lane) := by
  obtain ⟨rs, l, p, b, noted⟩ := s.noted_only (laneInst q lane) n
  have left : (s.noted (laneInst q lane) n).spareLeft (laneInst q lane) ≠ 0 := by
    rw [noted]
    exact Nat.pos_iff_ne_zero.1 free
  have takes : (s.noted (laneInst q lane) n).autoSpare (laneInst q lane) = true :=
    (congrArg (· != 0) ((s.foot_noted (laneInst q lane) n).2 LNK_CTL_LANE_AUTO q 0 (lnk_notin_noted rfl q))).trans auto
  unfold State.noted at left takes ⊢
  unfold State.permanent
  rw [fresh]
  exact (if_neg left).trans (if_pos takes)

/-- The lanes of a port whose spare carries one of its 16. -/
theorem spared_mask (low : lane < 16) :
    (if bitOf 0xFFFF lane then 0xFFFF - 2 ^ lane + (if bitOf 0xFFFF 16 then 0 else 2 ^ 16) else 0xFFFF) % 2 ^ 17 = 0x1FFFF - 2 ^ lane := by
  interval_cases lane <;> decide

/-- The registers that a lane's spare changes. -/
abbrev laneKeys (q : Nat) : List Nat := [LNK_LANES_ACTIVE_MASK.key q 0, LNK_LANE_MAP_SPARED.key q 0, LNK_STAT_SPARE_USED.key q 0]

theorem State.useSpareLane_leaves (low : lane < 16) (lanes : s.rd LNK_LANES_ACTIVE_MASK q = 0xFFFF) :
    (s.useSpareLane q lane).rd LNK_LANE_MAP_SPARED q = lane ∧ (s.useSpareLane q lane).is LNK_STAT_SPARE_USED q = true ∧
      (s.useSpareLane q lane).rd LNK_LANES_ACTIVE_MASK q = 0x1FFFF - 2 ^ lane ∧ s.foot (s.useSpareLane q lane) (laneKeys q) ∧
      (s.useSpareLane q lane).rd LNK_STAT_STATE q = s.rd LNK_STAT_STATE q := by
  unfold State.useSpareLane
  rw [lanes]
  refine ⟨?_, State.is_wr_one _ _ _ _ rfl, ?_, State.foot_wr_of (State.foot_wr_of (State.foot_wr (by simp)) (by simp)) (by simp), ?_⟩
  · exact (State.rd_wr_beside (by decide) ..).trans ((State.rd_wr_same ..).trans (Nat.mod_eq_of_lt (show lane < 32 by omega)))
  · exact (State.rd_wr_beside (by decide) ..).trans ((State.rd_wr_beside (by decide) ..).trans ((State.rd_wr_same ..).trans (spared_mask low)))
  · simp (disch := decide) only [State.on_eq, State.rd_wr_beside]

theorem lnk_notin_enteredKeys {f : Fld} (link : f.page = .lnk) (q : Nat) : f.key q 0 ∉ enteredKeys := by
  simp only [enteredKeys, List.mem_cons, List.not_mem_nil, or_false, not_or]
  exact ⟨Fld.lnk_ne_low link (by decide) q 0, Fld.lnk_ne_low link (by decide) q 0, Fld.lnk_ne_low link (by decide) q 0,
    Fld.lnk_ne_low link (by decide) q 0, Fld.lnk_ne_low link (by decide) q 0⟩

theorem State.sprDone_ports (s : State) (i : Inst) (st : Nat) : (s.sprDone i st).ports = s.ports := by
  unfold State.sprDone
  split
  · rfl
  · rfl

theorem State.entered_ports (s : State) (i : Inst) : (s.entered i).ports = s.ports :=
  (State.sprDone_ports ..).trans (State.logFrom_ports ..)

/-- What the link layer shows of a port whose spare carries a lane. -/
def State.spared (s t : State) (q lane : Nat) : Prop :=
  t.rd LNK_LANE_MAP_SPARED q = lane ∧ t.is LNK_STAT_SPARE_USED q = true ∧ t.rd LNK_LANES_ACTIVE_MASK q = 0x1FFFF - 2 ^ lane ∧
    t.rd LNK_STAT_STATE q = s.rd LNK_STAT_STATE q ∧ t.phase (laneInst q lane) = some 2 ∧ (t.port q).tx = (s.port q).tx ∧ s.sameStore t

theorem State.permanent_lane_spares (low : lane < 16) (lanes : s.rd LNK_LANES_ACTIVE_MASK q = 0xFFFF) (auto : s.is LNK_CTL_LANE_AUTO q = true)
    (fresh : s.phase (laneInst q lane) = none) (free : 0 < s.spareLeft (laneInst q lane)) : s.spared (s.permanent (laneInst q lane) 1) q lane := by
  have link {f : Fld} (h : f.page = .lnk) : (s.noted (laneInst q lane) 1).rd f q = s.rd f q :=
    (s.foot_noted (laneInst q lane) 1).2 f q 0 (lnk_notin_noted h q)
  obtain ⟨rs, l, p, b, noted⟩ := s.noted_only (laneInst q lane) 1
  obtain ⟨map, used, mask, foot, state⟩ := State.useSpareLane_leaves low ((link rfl).trans lanes)
  have store := State.foot_trans (s.foot_noted (laneInst q lane) 1) foot
  rw [State.permanent_lane fresh free auto, Nat.mod_eq_of_lt (show lane < 32 by omega)]
  generalize same : (s.noted (laneInst q lane) 1).useSpareLane q lane = w at map used mask store state
  have ports : w.ports = s.ports := by rw [← same, noted]; rfl
  have entered := w.foot_entered (laneInst q lane)
  have keeps {f : Fld} (h : f.page = .lnk) : (w.entered (laneInst q lane)).rd f q = w.rd f q := entered.2 f q 0 (lnk_notin_enteredKeys h q)
  refine ⟨(keeps rfl).trans map, (congrArg (· != 0) (keeps rfl)).trans used, (keeps rfl).trans mask, (keeps rfl).trans (state.trans (link rfl)),
    w.entered_phase _, ?_, (State.foot_trans store entered).1⟩
  rw [State.port, w.entered_ports, ports, ← State.port]

/-- A lane that fails has its spare (R539). -/
theorem State.laneFails_spares (low : lane < 16) (lanes : s.rd LNK_LANES_ACTIVE_MASK q = 0xFFFF) (auto : s.is LNK_CTL_LANE_AUTO q = true)
    (fresh : s.phase (laneInst q lane) = none) (free : 0 < s.spareLeft (laneInst q lane)) : s.spared (s.laneFails q lane) q lane := by
  obtain ⟨map, used, mask, state, phase, tx, store⟩ := State.permanent_lane_spares low lanes auto fresh free
  have active : bitOf (s.rd LNK_LANES_ACTIVE_MASK q) lane = true := by
    rw [lanes]
    interval_cases lane <;> decide
  unfold State.laneFails
  rw [active]
  dsimp only
  generalize s.permanent (laneInst q lane) 1 = v at map used mask state phase tx store
  rw [if_neg (by decide), if_pos phase]
  let w := v.setPort q { v.port q with failed := (v.port q).failed ||| 2 ^ lane }
  obtain ⟨rs, l, logged⟩ := w.logEv_only .lnk q 0x302 2 0 (v.portData q (v.rd LNK_STAT_STATE q))
  have foot : v.foot (w.logEv .lnk q 0x302 2 0 (v.portData q (v.rd LNK_STAT_STATE q))) [LOG_DROPPED.key 0 0] :=
    State.foot_logEv_of (State.foot_ports _) (by simp)
  have keeps {f : Fld} (h : f.page = .lnk) : (w.logEv .lnk q 0x302 2 0 (v.portData q (v.rd LNK_STAT_STATE q))).rd f q = v.rd f q :=
    foot.2 f q 0 (by simpa using Fld.lnk_ne_low h (g := LOG_DROPPED) (by decide) q 0)
  refine ⟨(keeps rfl).trans map, (congrArg (· != 0) (keeps rfl)).trans used, (keeps rfl).trans mask, (keeps rfl).trans state, ?_, ?_,
    ⟨fun a => (foot.1.1 a).trans (store.1 a), fun k => (foot.1.2 k).trans (store.2 k)⟩⟩
  · rw [logged]
    exact phase
  · rw [logged]
    exact (congrArg Port.tx (v.port_setPort_same q _)).trans tx

/-- A window in which one lane alone has errors, and too many (R539). -/
theorem laneWindowEffect_one {n : Nat} (up : s.portUp q = true) (many : s.rd LNK_RETRAIN_ERR_LIMIT q < n) (lane : Nat) :
    laneWindowEffect q (List.replicate lane 0 ++ [n]) s = s.laneFails q lane := by
  have quiet (l : List (Nat × Nat)) (zero : ∀ e ∈ l, e.1 = 0) : l.foldl (fun (t : State) e =>
      if s.rd LNK_RETRAIN_ERR_LIMIT q < e.1 ∧ t.portUp q then t.laneFails q e.2 else t) s = s := by
    induction l with
    | nil => rfl
    | cons e l ih =>
      have none : ¬ (s.rd LNK_RETRAIN_ERR_LIMIT q < e.1 ∧ s.portUp q = true) := by
        rw [zero e List.mem_cons_self]
        omega
      rw [List.foldl_cons, if_neg none]
      exact ih fun e' mem => zero e' (List.mem_cons_of_mem _ mem)
  unfold laneWindowEffect
  rw [List.zipIdx_append, List.foldl_append, quiet]
  · simp [many, up]
  · intro e mem
    exact (List.mem_replicate.1 (List.fst_mem_of_mem_zipIdx mem)).2

/-- Settles O19: the port that retrains by `State.startRetrain_leaves`, the lane by `State.laneFails_spares`. -/
theorem portsRetrainAndSpareTheirLanes : Obligations.PortsRetrainAndSpareTheirLanes := by
  refine ⟨?retrain, ?lane⟩
  case retrain =>
    intro s q c rails hq up which
    obtain ⟨v, w, run, same, vup, effect, clock, retrain⟩ := exec_retrains rails hq up which
    obtain ⟨port, state, phase, valid, still, only⟩ := State.startRetrain_leaves vup
    have ports : v.ports = s.ports := (congrArg State.ports same :)
    have here : v.port q = s.port q := congrArg (fun l => Tab.look l q default) ports
    generalize v.startRetrain q = u at port state phase valid still only effect retrain
    have shown : w.rd LNK_STAT_STATE q = 4 ∧ w.rd LNK_STAT_PHASE q = 0 ∧ w.is LNK_PEER_VALID q = false ∧ w.ports = u.ports ∧ w.clock = u.clock ∧
        u.sameStore w := by
      obtain rfl | rfl := effect
      · exact ⟨state, phase, valid, rfl, rfl, (w.foot_refl (ks := [])).1⟩
      · refine ⟨?_, ?_, ?_, rfl, rfl, (State.foot_wr (ks := [LNK_CTL_RETRAIN.key q 0]) (by simp)).1⟩
        · exact (State.rd_wr_beside (by decide) ..).trans state
        · exact (State.rd_wr_beside (by decide) ..).trans phase
        · exact (congrArg (· != 0) (State.rd_wr_beside (by decide) ..)).trans valid
    obtain ⟨wstate, wphase, wvalid, wports, wclock, wstore⟩ := shown
    have wport (r : Nat) : (s.commit w).port r = u.port r := congrArg (fun l => Tab.look l r default) wports
    have bits : v.sameStore w := ⟨fun a => (wstore.1 a).trans (only.1.1.1 a), fun k => (wstore.2 k).trans (only.1.1.2 k)⟩
    have store : s.sameStore w := by
      rw [same] at bits
      exact bits
    refine ⟨_, run, (State.rd_commit ..).trans wstate, (State.rd_commit ..).trans wphase, (State.is_commit ..).trans wvalid, ?_, ?_, ?_, ?_, ?_, ?_,
      State.sameStore_commit store, fun h => (wclock.trans still).trans (clock h), fun h => ?_⟩
    · rw [wport, port]
    · rw [wport, port, ← here]
      rfl
    · rw [wport, port, ← here]
      rfl
    · rw [wport, port, ← here]
      rfl
    · rw [wport, port, ← here]
      rfl
    · intro r ne
      rw [wport, only.2 r ne, State.port, ports]
      rfl
    · rw [State.is_commit, retrain h]
      exact State.is_wr_one _ _ _ _ rfl
  case lane =>
    intro s q lane n c rails hq up low lanes auto fresh free which
    have spares := State.laneFails_spares low lanes auto fresh free
    have run : exec c s = .next (s.commit (s.laneFails q lane)) := by
      obtain rfl | ⟨rfl, many⟩ := which
      · exact State.rails_next rails (by rw [portOk_of_lt hq, up]; simp; omega) (fun s => s.laneFails q lane)
      · refine (State.rails_next rails (by rw [portOk_of_lt hq, up]; rfl) (laneWindowEffect q (List.replicate lane 0 ++ [n]))).trans ?_
        rw [laneWindowEffect_one up many]
    generalize s.laneFails q lane = t at spares run
    obtain ⟨map, used, mask, state, phase, tx, store⟩ := spares
    exact ⟨_, run, (State.rd_commit ..).trans map, (State.is_commit ..).trans used, (State.rd_commit ..).trans mask, (State.rd_commit ..).trans state,
      phase, tx, State.sameStore_commit store⟩

end Sys2Proof.Machine
end

section
/-!
PROOF. REMOTE cues (R551 to R557, R567): an operation of one packet on another device opens, and its packet takes a slot of its port.
-/
namespace Sys2Proof.Machine

variable {s u v : State}

/-! ### What a packet that leaves depends on -/

/-- Registers, memory, tokens, ports and routes are the same in two states. -/
structure State.samePaths (s u : State) : Prop where
  regs   : u.regs = s.regs
  mem    : u.mem = s.mem
  undef  : u.undef = s.undef
  tokens : u.tokens = s.tokens
  ports  : u.ports = s.ports
  routes : u.routesF = s.routesF

theorem State.samePaths_trans (h : s.samePaths u) (h' : u.samePaths v) : s.samePaths v :=
  ⟨h'.regs.trans h.regs, h'.mem.trans h.mem, h'.undef.trans h.undef, h'.tokens.trans h.tokens, h'.ports.trans h.ports, h'.routes.trans h.routes⟩

section
variable (same : s.samePaths u)
include same

theorem State.samePaths_foot (ks : List Nat) : s.foot u ks := State.foot_of_eq same.regs same.mem same.undef same.tokens

theorem State.samePaths_port (r : Nat) : u.port r = s.port r := congrArg (fun l => Tab.look l r default) same.ports

theorem State.samePaths_isHere (p : RemPart) : u.isHere p = s.isHere p := by
  unfold State.isHere State.dev
  rw [State.rd_congr same.regs]

theorem State.samePaths_blk (r : Nat) : u.blk .lnk r = s.blk .lnk r := State.rd_congr same.regs ..

theorem State.samePaths_inSlot (r n : Nat) (x : Packet) : u.inSlot r n x = s.inSlot r n x := by
  have route (k : Nat) : u.route k = s.route k := congrArg (fun l => Tab.look l k 0) same.routes
  simp only [State.inSlot, State.classFor, State.dev, route, State.rd_congr same.regs, State.samePaths_port same]

/-- A request to a port with a free slot takes it, also after what leaves the paths as they are. -/
theorem State.samePaths_slotted {r n : Nat} {x : Packet} (port : s.portFor x.dst x = some r) (up : s.blk .lnk r ≠ 2)
    (free : (s.port r).freeSlot = some n) (op : Nat) (dest : Option Nat) : u.sendOrFail op x dest = u.slotted r n op x dest := by
  refine State.sendOrFail_slotted ((State.portFor_congr same.regs same.routes ..).trans port) ?_ ?_
  · rw [State.samePaths_blk same]
    exact up
  · rw [State.samePaths_port same]
    exact free

/-- What the slot, the queue and the rest of the state show once the request has left. -/
theorem State.samePaths_queues (r n op : Nat) (x : Packet) (dest : Option Nat) :
    (u.slotted r n op x dest).queued r = s.queued r ++ [s.inSlot r n x] ∧ (Tab.find ((u.slotted r n op x dest).port r).slots n).isSome = true ∧
      s.foot (u.slotted r n op x dest) [LNK_SLOTS_USED_COUNT.key r 0] := by
  have queue : u.queued r = s.queued r := by
    unfold State.queued
    rw [State.samePaths_port same]
  refine ⟨?_, State.slots_slotted .., State.foot_then (State.samePaths_foot same _) (State.foot_slotted ..)⟩
  rw [State.queued_slotted, queue, State.samePaths_inSlot same]

end

/-! ### The four operations (R552, R555 to R557) -/

/-- What sends one packet: an operation opens and its packet goes to its port; crews and paths stay. -/
def State.sendsOnly (s t : State) (x : Packet) : Prop :=
  ∃ (u : State) (op : Nat) (dest : Option Nat), t = u.sendOrFail op x dest ∧ s.samePaths u ∧ u.coxes = s.coxes

theorem State.rcWrite_opens (s : State) (o : Owner) (g n ctx left : Nat) (sched zero : Bool) (signal : Option (Nat × Nat × Nat)) :
    s.samePaths ((s.rcWrite o g n).openOp o ctx left sched zero signal).2 ∧
      ((s.rcWrite o g n).openOp o ctx left sched zero signal).2.coxes = s.coxes := by
  obtain ⟨a, l, h⟩ := s.rcWrite_cache o g n
  rw [h]
  exact ⟨⟨rfl, rfl, rfl, rfl, rfl, rfl⟩, rfl⟩

theorem State.noteMoves_objs (s : State) (g n : Nat) : ∃ l, s.noteMoves g n = { s with objs := l } := by
  unfold State.noteMoves
  split
  · exact ⟨_, rfl⟩
  · exact ⟨_, rfl⟩

section
variable {o : Owner} {ctx : Nat} {pl : RemPlan} {p : RemPart} (parts : pl.parts = [p]) (away : s.isHere p = false)
include parts away

theorem State.runPut_sends : s.sendsOnly (s.runPut o ctx true pl) { zeroPacket with
    type := ptPut, vc := 1, ctx := ctx, sched := true, dst := gpaDev p.gpa, addr := gpaLocal p.gpa, data := (pl.data.drop p.off).take p.n } := by
  obtain ⟨same, coxes⟩ := s.rcWrite_opens o p.gpa p.n ctx 1 true false none
  have put : s.runPut o ctx true pl = ((s.rcWrite o p.gpa p.n).openOp o ctx 1 true false none).2.putPart (s.rcWrite o p.gpa p.n).nextOp ctx true
      pl.data p := by
    unfold State.runPut
    rw [parts]
    rfl
  rw [put]
  generalize ((s.rcWrite o p.gpa p.n).openOp o ctx 1 true false none).2 = u at same coxes
  obtain ⟨l, moves⟩ := u.noteMoves_objs p.gpa p.n
  refine ⟨u.noteMoves p.gpa p.n, (s.rcWrite o p.gpa p.n).nextOp, none, ?_, ?_, ?_⟩
  · rw [State.putPart, State.samePaths_isHere same, away]
    rfl
  · rw [moves]
    exact State.samePaths_trans same ⟨rfl, rfl, rfl, rfl, rfl, rfl⟩
  · rw [moves]
    exact coxes

theorem State.runPutSignal_sends {d : List Byte} (tokens : gpaDev pl.sig = gpaDev p.gpa) :
    s.sendsOnly (s.runPutSignal o ctx true d pl) { zeroPacket with
    type := ptPutSignal, vc := 1, ctx := ctx, sched := true, dst := gpaDev p.gpa, addr := gpaLocal p.gpa,
    aux := gpaLocal pl.sig, inc := rInc d, data := pl.data } := by
  obtain ⟨same, coxes⟩ := s.rcWrite_opens o p.gpa p.n ctx 1 true false none
  obtain ⟨a, l, drops⟩ := s.rcWrite_cache o p.gpa p.n
  have other : gpaDev p.gpa ≠ (s.rcWrite o p.gpa p.n).dev := by
    rw [drops]
    exact of_decide_eq_false away
  refine ⟨_, (s.rcWrite o p.gpa p.n).nextOp, none, ?_, same, coxes⟩
  unfold State.runPutSignal
  rw [parts, tokens]
  exact if_neg other

theorem State.runGet_sends {ag : Agent} {d : List Byte} {r : Nat} {x : Packet} (port : s.portFor x.dst x = some r) (up : s.blk .lnk r ≠ 2)
    (packet : x = { zeroPacket with
      type := ptGet, vc := 2, ctx := ctx, sched := true, dst := gpaDev p.gpa, addr := gpaLocal p.gpa, aux := p.n }) :
    s.sendsOnly (s.runGet ag o ctx true d pl) x := by
  have same : s.samePaths (s.openOp o ctx 1 true false none).2 := ⟨rfl, rfl, rfl, rfl, rfl, rfl⟩
  have get : s.runGet ag o ctx true d pl = (s.openOp o ctx 1 true false none).2.getPart ag s.nextOp ctx true (rLocal d) p := by
    unfold State.runGet
    rw [parts]
    rfl
  have can : (s.openOp o ctx 1 true false none).2.cannotSend x = false := by
    rw [State.cannotSend, State.portFor_congr same.regs same.routes, port]
    exact beq_eq_false_iff_ne.2 up
  refine ⟨_, s.nextOp, some (rLocal d + p.off), ?_, same, rfl⟩
  rw [get, State.getPart, State.samePaths_isHere same, away]
  simp only [Bool.false_eq_true, ↓reduceIte, State.getParts, ← packet, can]

theorem State.runAtomic_sendsOnly {ag : Agent} {d : List Byte} : s.sendsOnly (s.runAtomic ag o ctx true d pl) { zeroPacket with
    type := ptAtomic, vc := 2, ctx := ctx, sched := true, dst := gpaDev p.gpa, addr := gpaLocal p.gpa, aop := rAop d,
    wide := rWide d, operand := rOperand d, compare := rCompare d } := by
  obtain ⟨same, coxes⟩ := s.rcWrite_opens o p.gpa p.n ctx 1 true false none
  refine ⟨_, (s.rcWrite o p.gpa p.n).nextOp, if rLocal d = 0 then none else some (rLocal d), ?_, same, coxes⟩
  have other : ((s.rcWrite o p.gpa p.n).openOp o ctx 1 true false none).2.isHere p ≠ true := by
    rw [State.samePaths_isHere same, away]
    exact Bool.false_ne_true
  unfold State.runAtomic
  rw [parts]
  exact if_neg other

end

/-! ### The cue issues (R76, R553) -/

/-- The state in which a REMOTE cue has issued, with its OP_ID in its record. -/
def State.remoteIssued (s : State) (c idx : Nat) (d : List Byte) : State := (s.issueCue c idx 1).noteOpId c idx d

theorem State.remoteIssued_coxes (s : State) (c idx : Nat) (d : List Byte) :
    ∃ l, s.remoteIssued c idx d = { s with coxes := l } := by
  unfold State.remoteIssued State.noteOpId
  dsimp only
  split
  · exact ⟨_, rfl⟩
  · exact ⟨_, rfl⟩

theorem State.issued_remoteIssued (s : State) (c idx : Nat) (d : List Byte) :
    ((s.remoteIssued c idx d).cox c).issued = idx :: (s.cox c).issued := by
  have issued : ((s.issueCue c idx 1).cox c).issued = idx :: (s.cox c).issued := congrArg Cox.issued (s.cox_issueCue c idx 1)
  unfold State.remoteIssued State.noteOpId
  dsimp only
  split
  · exact (congrArg Cox.issued (State.cox_setCox_same ..)).trans issued
  · exact issued

section
variable {c idx : Nat} {sh : Sheet} {q : Cue} {d : List Byte} {pl : RemPlan}

theorem State.remoteIs_ready {op : Nat} (hc : c < 16) (ready : s.readyCue c = some (sh, q, idx)) (kind : q.kind = 3)
    (read : s.readV (.cox c) sh.ctx q.ptr 64 = .ok d) (is : rOp d = op) : s.remoteIs c op = true := by
  have issues : s.issues c 3 = true := kind ▸ State.issues_ready hc ready
  simp [State.remoteIs, issues, ready, read, is]

theorem State.remoteCue_runs (ready : s.readyCue c = some (sh, q, idx)) (runs : s.ctxRefuses sh.ctx = none) (free : s.recordStop sh.ctx q = none)
    (read : s.readV (.cox c) sh.ctx q.ptr 64 = .ok d) (some_bytes : remoteBytes d ≠ 0) (plan : s.remotePlan (.cox c) sh.ctx d = .ok pl)
    (quiet : s.noteReads sh.ctx [(rLocal d, pl.data.length)] = s) (run : Owner → Nat → List Byte → RemPlan → State → State) :
    s.remoteCue c run = (run (.cue c idx) sh.ctx d pl (s.remoteIssued c idx d)).clearArrived (.cox c) := by
  have moves : ¬ (rLength d = 0 ∧ (rOp d = 0 ∨ rOp d = 2)) := by
    rintro ⟨zero, kind⟩
    refine some_bytes ?_
    rw [remoteBytes, if_neg (by omega), zero]
  rw [State.remoteCue, State.issueWith_ready ready runs free]
  simp only [read, plan, quiet, if_neg moves]
  rfl

/-- A REMOTE cue whose operation sends one packet to another device. -/
theorem exec_remote {i : Instr} {op r n : Nat} {x : Packet} (rails : s.railsUp = true) (is : s.remoteIs c op = true)
    (run : Owner → Nat → List Byte → RemPlan → State → State) (row : exec i s = s.rails (s.remoteIs c op) (fun s => s.remoteCue c run))
    (effect : s.remoteCue c run = (run (.cue c idx) sh.ctx d pl (s.remoteIssued c idx d)).clearArrived (.cox c))
    (sends : (s.remoteIssued c idx d).sendsOnly (run (.cue c idx) sh.ctx d pl (s.remoteIssued c idx d)) x)
    (port : s.portFor x.dst x = some r) (up : s.blk .lnk r ≠ 2) (free : (s.port r).freeSlot = some n) :
    ∃ t, exec i s = .next t ∧ (t.cox c).issued = idx :: (s.cox c).issued ∧ t.queued r = s.queued r ++ [s.inSlot r n x] ∧
      (Tab.find (t.port r).slots n).isSome = true ∧ s.sameStore t ∧ s.sameRegsBut t [LNK_SLOTS_USED_COUNT.key r 0] := by
  obtain ⟨u, o, dest, sent, same, coxes⟩ := sends
  have issued := s.issued_remoteIssued c idx d
  obtain ⟨l, only⟩ := s.remoteIssued_coxes c idx d
  have same : s.samePaths u := by
    rw [only] at same
    exact ⟨same.regs, same.mem, same.undef, same.tokens, same.ports, same.routes⟩
  have marks : (u.cox c).issued = idx :: (s.cox c).issued := (congrArg (fun l => (Tab.look l c default).issued) coxes).trans issued
  obtain ⟨queue, slot, foot⟩ := State.samePaths_queues same r n o x dest
  have final : s.remoteCue c run = (u.slotted r n o x dest).clearArrived (.cox c) := by
    rw [effect, sent, State.samePaths_slotted same port up free]
  refine ⟨s.commit ((u.slotted r n o x dest).clearArrived (.cox c)), ?_, marks, queue, slot,
    State.foot_commit (State.foot_then foot (State.foot_clearArrived ..))⟩
  rw [row, State.rails_next rails is, final]

end

/-- Settles O23: each operation sends its one packet, and the packet takes the free slot. -/
theorem remoteCuesSendTheirPackets : Obligations.RemoteCuesSendTheirPackets := by
  intro s c idx r n op sh q d pl p x i rails hc ready kind runs record read is some_bytes plan parts away quiet which port up free
  have row := State.remoteIs_ready hc ready kind read is
  have effect := State.remoteCue_runs ready runs record read some_bytes plan quiet
  obtain ⟨l, only⟩ := s.remoteIssued_coxes c idx d
  have same : s.samePaths (s.remoteIssued c idx d) := by
    rw [only]
    exact ⟨rfl, rfl, rfl, rfl, rfl, rfl⟩
  have other : (s.remoteIssued c idx d).isHere p = false := (State.samePaths_isHere same p).trans away
  obtain ⟨rfl, rfl, rfl⟩ | ⟨rfl, rfl, tokens, rfl⟩ | ⟨rfl, rfl, packet⟩ | ⟨rfl, rfl, rfl⟩ := which
  · exact exec_remote rails row _ rfl (effect _) (State.runPut_sends parts other) port up free
  · exact exec_remote rails row _ rfl (effect _) (State.runPutSignal_sends parts other tokens) port up free
  · refine exec_remote rails row _ rfl (effect _) (State.runGet_sends parts other (r := r) ?_ ?_ packet) port up free
    · rw [State.portFor_congr same.regs same.routes]
      exact port
    · rw [State.samePaths_blk same]
      exact up
  · exact exec_remote rails row _ rfl (effect _) (State.runAtomic_sendsOnly parts other) port up free

end Sys2Proof.Machine
end

section
/-!
PROOF. Responses and the timeout (R555, R559, R567, R568, R571): a slot ends, and what waited for it learns of it.
-/
namespace Sys2Proof.Machine

variable {s a u : State} {q n : Nat} {p : Packet} {x : Txn} {o : RemOp} {st : Nat}

/-! ### A slot ends (R567, R568) -/

/-- All that the end of a slot depends on, the owners and the bytes are the same in two states. -/
structure State.sameTxns (s a : State) : Prop where
  foot  : s.foot a []
  ops   : a.ops = s.ops
  waits : a.waitPkts = s.waitPkts
  coxes : a.coxes = s.coxes
  cores : a.cores = s.cores
  bars  : a.barWaits = s.barWaits
  clock : a.clock = s.clock
  slots : ∀ r, (a.port r).slots = (s.port r).slots
  gens  : ∀ r, (a.port r).gens = (s.port r).gens

theorem State.sameTxns_refl (s : State) : s.sameTxns s := ⟨s.foot_refl, rfl, rfl, rfl, rfl, rfl, rfl, fun _ => rfl, fun _ => rfl⟩

/-- A read cache that drops what is written has no part in it. -/
theorem State.sameTxns_rcWrite (h : s.sameTxns a) (w : Owner) (g k : Nat) : s.sameTxns (a.rcWrite w g k) := by
  obtain ⟨l, m, cache⟩ := a.rcWrite_cache w g k
  rw [cache]
  exact ⟨State.foot_upd_of h.foot rfl rfl rfl rfl, h.ops, h.waits, h.coxes, h.cores, h.bars, h.clock, h.slots, h.gens⟩

/-- A slot of a port is free, with the next generation; the rest stays but for the count of used slots and the operations. -/
structure State.slotEnded (s b : State) (q n : Nat) : Prop where
  slot  : Tab.find (b.port q).slots n = none
  gen   : Tab.look (b.port q).gens n 0 = (Tab.look (s.port q).gens n 0 + 1) % 128
  foot  : s.foot b [LNK_SLOTS_USED_COUNT.key q 0]
  coxes : b.coxes = s.coxes
  cores : b.cores = s.cores
  bars  : b.barWaits = s.barWaits
  clock : b.clock = s.clock

/-- The books of the operations and of the leases are not among what a slot's end is stated of. -/
theorem State.slotEnded_books (h : s.slotEnded u q n) (os : List (Nat × RemOp)) (l : List (Nat × Nat × Nat)) :
    s.slotEnded { u with ops := os, leaseFails := l } q n :=
  ⟨h.slot, h.gen, State.foot_upd_of h.foot rfl rfl rfl rfl, h.coxes, h.cores, h.bars, h.clock⟩

theorem State.slotGone_ends (same : s.sameTxns a) (q n : Nat) : s.slotEnded (a.slotGone q n) q n := by
  have port : (a.slotGone q n).port q = { a.port q with
      slots := Tab.del (a.port q).slots n, gens := Tab.set (a.port q).gens n 0 ((Tab.look (a.port q).gens n 0 + 1) % 128) } :=
    State.port_setPort_same ..
  refine ⟨?_, ?_, ?_, same.coxes, same.cores, same.bars, same.clock⟩
  · rw [port]
    exact (Tab.find_del ..).trans (if_pos rfl)
  · rw [port, ← same.gens q]
    exact Tab.look_set_same ..
  · exact State.foot_wr_of (State.foot_upd_of (State.foot_mono same.foot (by simp)) rfl rfl rfl rfl) (by simp)

theorem State.nextWait_empty (empty : s.waitPkts = []) : s.nextWait = none := by
  rw [State.nextWait, empty]
  rfl

/-- Where no packet waits for a slot, the end of one is learned by its operation alone. -/
theorem State.endSlot_answers (slot : Tab.find (s.port q).slots n = some x) (empty : s.waitPkts = [])
    (defined : statusOk st = true ∨ s.undefGet x.op x.packet x.dest = s) :
    s.endSlot q n st = (s.slotGone q n).answer x.op (packetTarget x.packet) x.packet.dst st := by
  have same : (if statusOk st = true then s else s.undefGet x.op x.packet x.dest) = s := by
    obtain ok | same := defined
    · exact if_pos ok
    · rw [same, ite_self]
  have idle : (s.slotGone q n).nextWait = none := State.nextWait_empty empty
  unfold State.endSlot
  simp only [slot, same, idle, State.sendWaiting]

/-! ### An operation learns of its packet (R555, R559) -/

/-- The status with which an operation ends. -/
def RemOp.endStatus (o : RemOp) : Nat :=
  match o.worst with
  | some (_, _, st) => st
  | none => if o.zero then stFlags else stSuccess

/-- The operation whose last packet has met a status. -/
def RemOp.closed (o : RemOp) (addr dev st : Nat) : RemOp := { o with left := o.left - 1, worst := if statusOk st then none else some (addr, dev, st) }

theorem RemOp.endStatus_closed (whole : statusOk st = true → o.zero = false ∧ st = 1) (addr dev : Nat) : (o.closed addr dev st).endStatus = st := by
  by_cases ok : statusOk st = true
  · obtain ⟨zero, rfl⟩ := whole ok
    simp [RemOp.endStatus, RemOp.closed, zero, statusOk, stSuccess]
  · simp [RemOp.endStatus, RemOp.closed, ok]

section
variable {op addr dev : Nat} (opened : Tab.find s.ops op = some o)
include opened

theorem State.answer_last (last : o.left = 1) (fresh : o.worst = none) (plain : o.signal = none ∨ statusOk st = false) :
    ∃ l, s.answer op addr dev st = ({ s with ops := Tab.del s.ops op, leaseFails := l } : State).finishOp (o.closed addr dev st) := by
  have done : ¬ 1 < o.left := by omega
  obtain ⟨l, books⟩ : ∃ l, (if st = stUnreachable ∨ st = stTimeout then { s with leaseFails := s.leaseFails ++ [(dev, addr, st)] } else s) =
      { s with leaseFails := l } := by
    split
    · exact ⟨_, rfl⟩
    · exact ⟨s.leaseFails, rfl⟩
  refine ⟨l, ?_⟩
  unfold State.answer RemOp.closed
  simp only [opened, fresh, if_neg done, books]
  cases signal : o.signal with
  | none => rfl
  | some v =>
    have bad : statusOk st = false := plain.resolve_left (by rw [signal]; exact Option.some_ne_none v)
    simp only [bad, Bool.false_eq_true, if_false]

theorem State.answer_more (more : 1 < o.left) (ok : st = 1) :
    s.answer op addr dev st = { s with ops := Tab.put s.ops op { o with left := o.left - 1 } } := by
  subst ok
  unfold State.answer
  simp only [opened, if_pos more]
  rfl

end

theorem State.finishOp_cue {c idx : Nat} (owner : o.owner = .cue c idx) : ∃ fl d, s.finishOp o = s.cuePart c idx o.endStatus fl 0 d := by
  unfold State.finishOp
  simp only [owner]
  exact ⟨_, _, rfl⟩

theorem State.finishOp_core {i : Nat} (owner : o.owner = .core i) : s.finishOp o = s.setCore i { s.core i with
    out := (s.core i).out - 1,
    error := if statusOk o.endStatus then (s.core i).error else some ((s.core i).error.getD o.endStatus) } := by
  unfold State.finishOp
  simp only [owner]
  rfl

/-- A part of a cue that fails first gives it its status. -/
theorem State.cuePart_status {c idx : Nat} {r : CueRun} (found : Tab.find (s.cox c).running idx = some r) (well : statusOk r.status = true)
    (fl k : Nat) (d : List Byte) :
    ∃ v, Tab.find ((s.cuePart c idx st fl k d).cox c).running idx = some v ∧ v.left = r.left - 1 ∧ (statusOk st = false → v.status = st) := by
  unfold State.cuePart
  simp only [found]
  refine ⟨_, by rw [State.cox_setCox_same, Tab.find_put, if_pos rfl], rfl, fun bad => ?_⟩
  simp [bad, well]

/-! ### The last packet and one of several -/

/-- The last packet of an operation frees its slot and ends the operation. -/
theorem State.endSlot_last (same : s.sameTxns a) (slot : Tab.find (s.port q).slots n = some x) (empty : s.waitPkts = [])
    (opened : Tab.find s.ops x.op = some o) (last : o.left = 1) (fresh : o.worst = none) (plain : o.signal = none ∨ statusOk st = false)
    (defined : statusOk st = true ∨ a.undefGet x.op x.packet x.dest = a) :
    ∃ b : State, a.endSlot q n st = b.finishOp (o.closed (packetTarget x.packet) x.packet.dst st) ∧ s.slotEnded b q n ∧ Tab.find b.ops x.op = none := by
  have found : Tab.find (a.slotGone q n).ops x.op = some o := (congrArg (fun l => Tab.find l x.op) same.ops).trans opened
  obtain ⟨l, ends⟩ := State.answer_last (addr := packetTarget x.packet) (dev := x.packet.dst) found last fresh plain
  refine ⟨_, (State.endSlot_answers ((congrArg (fun l => Tab.find l n) (same.slots q)).trans slot) (same.waits.trans empty) defined).trans ends,
    State.slotEnded_books (State.slotGone_ends same q n) _ _, ?_⟩
  exact (Tab.find_del ..).trans (if_pos rfl)

/-! ### Responses (R555, R568) -/

theorem State.responseAt_head {k : Nat} (h : s.responseAt q k = some p) : ∃ t, s.headVc q 0 = some (t, p) := by
  unfold State.responseAt at h
  split at h
  · next r served =>
    split at h
    · cases h
      unfold State.servable at served
      split at served
      · next t r head =>
        split at served
        · cases served
          exact ⟨t, head⟩
        · cases served
      · cases served
    · cases h
  · cases h

theorem State.dropHead_txns {t : Nat} (head : s.headVc q 0 = some (t, p)) : s.sameTxns (s.dropHead q 0) := by
  rw [State.dropHead_eq head]
  refine ⟨State.foot_of_eq rfl rfl rfl rfl, rfl, rfl, rfl, rfl, rfl, rfl, fun r => ?_, fun r => ?_⟩
  · rw [State.port_setPort]
    split
    · next here => rw [here]; rfl
    · rfl
  · rw [State.port_setPort]
    split
    · next here => rw [here]; rfl
    · rfl

theorem State.txnOf_slot (h : s.txnOf p = some x) : Tab.find (s.port p.port).slots p.slot = some x := by
  unfold State.txnOf at h
  split at h
  · next found =>
    split at h
    · rw [found]
      exact h
    · cases h
  · cases h

/-- A response that names a slot has its effect there, and what waited goes on. -/
theorem State.takeResponse_named (same : s.sameTxns (s.dropHead q 0)) (named : s.txnOf p = some x) (f : Txn → State → State) :
    s.takeResponse q p f = (f x (s.dropHead q 0)).wakeCores.pumpBars := by
  have still : (s.dropHead q 0).txnOf p = some x := by
    rw [← named, State.txnOf, State.txnOf, same.slots]
  unfold State.takeResponse
  simp only [still]

/-- Where no seat and no access of the host waits, nothing goes on. -/
theorem State.wakes_nobody (cores : s.cores = []) (bars : s.barWaits = []) : s.wakeCores.pumpBars = s := by
  have still : s.wakeCores = s := by
    rw [State.wakeCores, cores]
    rfl
  rw [still, State.pumpBars, bars]
  rfl

section
variable (rails : s.railsUp = true) (named : s.txnOf p = some x)
include rails named

/-- ACK and NAK end the slot that they name. -/
theorem exec_ack (at_head : s.responseAt q ptAck = some p) : ∃ a : State, s.sameTxns a ∧
    exec (.ack q) s = .next (s.commit (a.endSlot p.port p.slot p.status).wakeCores.pumpBars) := by
  obtain ⟨t, head⟩ := State.responseAt_head at_head
  have same := State.dropHead_txns head
  have run : exec (.ack q) s = .next (s.commit (ackEffect q s)) := State.rails_next rails (by rw [at_head]; rfl) _
  unfold ackEffect at run
  simp only [at_head, State.takeResponse_named same named] at run
  split at run
  · next o found =>
    exact ⟨_, State.sameTxns_rcWrite same .., run⟩
  · exact ⟨_, same, run⟩

theorem exec_nak (at_head : s.responseAt q ptNak = some p) : ∃ a : State, s.sameTxns a ∧
    exec (.nak q) s = .next (s.commit (a.endSlot p.port p.slot p.status).wakeCores.pumpBars) := by
  obtain ⟨t, head⟩ := State.responseAt_head at_head
  have same := State.dropHead_txns head
  have run : exec (.nak q) s = .next (s.commit (nakEffect q s)) := State.rails_next rails (by rw [at_head]; rfl) _
  unfold nakEffect at run
  simp only [at_head, State.takeResponse_named same named] at run
  exact ⟨_, same, run⟩

/-- An answer whose old value goes nowhere ends its slot. -/
theorem exec_atomicResp (at_head : s.responseAt q ptAtomicResp = some p) (nowhere : x.dest = none) : ∃ a : State, s.sameTxns a ∧
    exec (.atomicResp q) s = .next (s.commit (a.endSlot p.port p.slot p.status).wakeCores.pumpBars) := by
  obtain ⟨t, head⟩ := State.responseAt_head at_head
  have same := State.dropHead_txns head
  have goes : s.deliverWaits p = false := by simp only [State.deliverWaits, named, nowhere]
  have run : exec (.atomicResp q) s = .next (s.commit (atomicRespEffect q s)) :=
    State.rails_next rails (by simp only [at_head, goes, Bool.not_false]) _
  unfold atomicRespEffect at run
  simp only [at_head, State.takeResponse_named same named, nowhere] at run
  exact ⟨_, same, run⟩

/-- The answer of a BAR2 read with bytes of it in place. -/
def State.barBytes (s : State) (tag off : Nat) (w : BarWait) (data : List Byte) : State :=
  { s with barWaits := Tab.put s.barWaits tag { w with data := spliceAt w.data off data } }

/-- The bytes of a GET of a BAR2 read go to its answer, and the slot ends. -/
theorem exec_getData {f tag off : Nat} {w : BarWait} (at_head : s.responseAt q ptGetData = some p) (opened : Tab.find s.ops x.op = some o)
    (owner : o.owner = .bar f tag) (place : x.dest = some off) (waits : Tab.find s.barWaits tag = some w) (ok : p.status = 1) :
    ∃ a : State, (s.barBytes tag off w (p.data.take x.packet.aux)).sameTxns a ∧
      exec (.getData q) s = .next (s.commit (a.endSlot p.port p.slot 1).wakeCores.pumpBars) := by
  obtain ⟨t, head⟩ := State.responseAt_head at_head
  have same := State.dropHead_txns head
  have goes : s.deliverWaits p = false := by simp only [State.deliverWaits, named, place, opened, owner]
  have run : exec (.getData q) s = .next (s.commit (getDataEffect q s)) :=
    State.rails_next rails (by simp only [at_head, goes, Bool.not_false]) _
  have brings : (s.dropHead q 0).bringData x (p.data.take x.packet.aux) =
      (stSuccess, (s.dropHead q 0).barBytes tag off w (p.data.take x.packet.aux)) := by
    have operation : Tab.find (s.dropHead q 0).ops x.op = some o := by rw [same.ops, opened]
    have reader : Tab.find (s.dropHead q 0).barWaits tag = some w := by rw [same.bars, waits]
    unfold State.bringData
    simp only [operation, owner, place, reader]
    rfl
  unfold getDataEffect at run
  simp only [at_head, State.takeResponse_named same named, ok, brings] at run
  refine ⟨(s.dropHead q 0).barBytes tag off w (p.data.take x.packet.aux), ⟨State.foot_upd_of same.foot rfl rfl rfl rfl, same.ops, same.waits,
    same.coxes, same.cores, ?_, same.clock, same.slots, same.gens⟩, run⟩
  rw [State.barBytes, State.barBytes, same.bars]

end

/-- The timeout counts, and ends its slot (R571). -/
theorem exec_rmtTimeout (rails : s.railsUp = true) (left : s.slotLeft q n = true) (slot : Tab.find (s.port q).slots n = some x) :
    exec (.rmtTimeout q n) s =
      .next (s.commit (((s.at x.due).bump LNK_PC_TIMEOUTS 1 q).endSlot q n stTimeout).wakeCores.pumpBars) := by
  have run : exec (.rmtTimeout q n) s = .next (s.commit (rmtTimeoutEffect q n s)) := State.rails_next rails left _
  unfold rmtTimeoutEffect at run
  simp only [slot] at run
  exact run

/-! ### What each answer leaves -/

/-- The last packet of a cue's operation. -/
theorem State.endSlot_cue {c idx : Nat} (same : s.sameTxns a) (slot : Tab.find (s.port q).slots n = some x)
    (empty : s.waitPkts = []) (opened : Tab.find s.ops x.op = some o) (last : o.left = 1) (owner : o.owner = .cue c idx) (plain : o.signal = none)
    (fresh : o.worst = none) (whole : statusOk st = true → o.zero = false ∧ st = 1) (put : x.packet.type = ptPut) :
    ∃ (b : State) (fl : Nat) (d : List Byte), a.endSlot q n st = b.cuePart c idx st fl 0 d ∧ s.slotEnded b q n ∧ Tab.find b.ops x.op = none := by
  have defined : a.undefGet x.op x.packet x.dest = a := by
    unfold State.undefGet
    split
    · split
      · exact if_neg (by rw [put]; decide)
      · rfl
    · rfl
  obtain ⟨b, ends, ended, closed⟩ := State.endSlot_last same slot empty opened last fresh (.inl plain) (.inr defined)
  obtain ⟨fl, d, part⟩ := State.finishOp_cue (s := b) (o := o.closed (packetTarget x.packet) x.packet.dst st) owner
  refine ⟨b, fl, d, ?_, ended, closed⟩
  rw [ends, part, RemOp.endStatus_closed whole]

/-- The last packet of a seat's operation. -/
theorem State.endSlot_core {i : Nat} (same : s.sameTxns a) (slot : Tab.find (s.port q).slots n = some x)
    (empty : s.waitPkts = []) (opened : Tab.find s.ops x.op = some o) (last : o.left = 1) (owner : o.owner = .core i)
    (plain : o.signal = none ∨ statusOk st = false) (fresh : o.worst = none) (whole : statusOk st = true → o.zero = false ∧ st = 1) :
    ∃ b : State, a.endSlot q n st = b.setCore i { s.core i with
        out := (s.core i).out - 1
        error := if statusOk st then (s.core i).error else some ((s.core i).error.getD st) } ∧ s.slotEnded b q n ∧ Tab.find b.ops x.op = none := by
  have defined : statusOk st = true ∨ a.undefGet x.op x.packet x.dest = a := by
    refine .inr ?_
    unfold State.undefGet
    rw [same.ops, opened]
    split
    · next found =>
      cases found
      simp only [owner]
    · rfl
  obtain ⟨b, ends, ended, closed⟩ := State.endSlot_last same slot empty opened last fresh plain defined
  have core : b.core i = s.core i := congrArg (fun l => Tab.look l i default) ended.cores
  refine ⟨b, ?_, ended, closed⟩
  rw [ends, State.finishOp_core (o := o.closed ..) owner, RemOp.endStatus_closed whole, core]

/-- A packet with more to come frees its slot and is counted. -/
theorem State.endSlot_more (same : s.sameTxns a) (slot : Tab.find (s.port q).slots n = some x) (empty : s.waitPkts = [])
    (opened : Tab.find s.ops x.op = some o) (more : 1 < o.left) :
    s.slotEnded (a.endSlot q n 1) q n ∧ Tab.find (a.endSlot q n 1).ops x.op = some { o with left := o.left - 1 } := by
  have found : Tab.find (a.slotGone q n).ops x.op = some o := (congrArg (fun l => Tab.find l x.op) same.ops).trans opened
  rw [State.endSlot_answers ((congrArg (fun l => Tab.find l n) (same.slots q)).trans slot) (same.waits.trans empty) (.inl rfl),
    State.answer_more found more rfl]
  exact ⟨State.slotEnded_books (State.slotGone_ends same q n) _ _, (Tab.find_put ..).trans (if_pos rfl)⟩

/-- Settles O26: each response ends its slot, and its operation goes to its owner. -/
theorem responsesEndTheirTransactions : Obligations.ResponsesEndTheirTransactions := by
  refine ⟨?cue, ?bar, ?seat, ?timeout⟩
  case cue =>
    intro s q c idx p x o w i rails at_head named empty opened last owner plain fresh zero put found well which
    have whole : statusOk p.status = true → o.zero = false ∧ p.status = 1 := by
      obtain ⟨-, -, one⟩ | ⟨-, -, bad⟩ := which
      · exact fun _ => ⟨zero, one⟩
      · exact fun ok => absurd (bad.symm.trans ok) Bool.false_ne_true
    have fails (nak : p.type = ptNak) : statusOk p.status = false := by
      obtain ⟨-, ack, -⟩ | ⟨-, -, bad⟩ := which
      · exact absurd (ack.symm.trans nak) (by decide)
      · exact bad
    obtain ⟨a, same, run⟩ : ∃ a : State, s.sameTxns a ∧
        exec i s = .next (s.commit (a.endSlot p.port p.slot p.status).wakeCores.pumpBars) := by
      obtain ⟨rfl, type, -⟩ | ⟨rfl, type, -⟩ := which
      · exact exec_ack rails named (type ▸ at_head)
      · exact exec_nak rails named (type ▸ at_head)
    obtain ⟨b, fl, d, ends, ended, closed⟩ := State.endSlot_cue same (State.txnOf_slot named) empty opened last owner plain fresh whole put
    rw [ends] at run
    have running : Tab.find (b.cox c).running idx = some w :=
      (congrArg (fun l => Tab.find (Tab.look l c default).running idx) ended.coxes).trans found
    obtain ⟨v, shown, left, status⟩ := State.cuePart_status (st := p.status) running well fl 0 d
    obtain ⟨xs, only⟩ := b.cuePart_coxes c idx p.status fl 0 d 1
    generalize b.cuePart c idx p.status fl 0 d = u at run shown only
    subst only
    have foot := State.foot_upd_of ended.foot rfl rfl rfl rfl (u := { b with coxes := xs })
    refine ⟨_, { b with coxes := xs }, v, run, rfl, fun cores bars => ?_, ended.slot, ended.gen, closed, shown, left, fun nak => status (fails nak),
      foot.1, foot.2⟩
    exact congrArg s.commit (State.wakes_nobody (s := { b with coxes := xs }) (ended.cores.trans cores) (ended.bars.trans bars))
  case bar =>
    intro s q f tag off p x o w rails at_head named empty opened owner more place waits ok
    obtain ⟨a, same, run⟩ := exec_getData rails named at_head opened owner place waits ok
    obtain ⟨ended, counted⟩ := State.endSlot_more same (State.txnOf_slot named) empty opened more
    refine ⟨_, _, run, rfl, ended.slot, ?_, counted, ended.foot.1, ended.foot.2⟩
    rw [ended.bars, State.barBytes, Tab.find_put, if_pos rfl]
  case seat =>
    intro s q i p x o rails at_head named empty opened last plain fresh zero owner nowhere ok
    obtain ⟨a, same, run⟩ := exec_atomicResp rails named at_head nowhere
    rw [ok] at run
    obtain ⟨b, ends, ended, closed⟩ := State.endSlot_core (st := 1) same (State.txnOf_slot named) empty opened last owner (.inl plain) fresh
      (fun _ => ⟨zero, rfl⟩)
    rw [ends] at run
    have foot := ended.foot
    refine ⟨_, _, run, rfl, ended.slot, closed, ?_, ?_, foot.1, foot.2⟩
    · rw [State.core_setCore_same]
    · rw [State.core_setCore_same]
      rfl
  case timeout =>
    intro s q n i x o rails left slot empty opened last fresh owner well
    have run := exec_rmtTimeout rails left slot
    let v := (s.at x.due).bump LNK_PC_TIMEOUTS 1 q
    obtain ⟨b, ends, ended, closed⟩ := State.endSlot_core (s := v) (st := stTimeout) v.sameTxns_refl slot empty opened last owner (.inr rfl) fresh
      (fun ok => absurd ok (by decide))
    have counted : v.rd LNK_PC_TIMEOUTS q = (s.rd LNK_PC_TIMEOUTS q + 1) % 2 ^ LNK_PC_TIMEOUTS.w := State.rd_wr_same ..
    have apart : LNK_PC_TIMEOUTS.key q 0 ∉ [LNK_SLOTS_USED_COUNT.key q 0] := by
      simpa using Fld.beside_ne (f := LNK_PC_TIMEOUTS) (g := LNK_SLOTS_USED_COUNT) (by decide) q 0
    rw [ends] at run
    refine ⟨_, _, run, rfl, ended.clock, ended.slot, closed, ?_, (ended.foot.2 _ _ _ apart).trans counted⟩
    rw [State.core_setCore_same]
    exact congrArg (fun e => some (Option.getD e stTimeout)) well

end Sys2Proof.Machine
end

section
/-!
PROOF. Reads of host memory that this device has outstanding (R577, R591): they end with their bytes or with the timeout.
-/
namespace Sys2Proof.Machine

variable {s : State} {tag : Nat} {r : HostRead} {ag : Agent}

/-- A fill of the read cache leaves all but the cache and the next free value. -/
theorem State.rcFill_only (s : State) (crew sec : Nat) (d : List Byte) : ∃ l n, s.rcFill crew sec d = { s with rcache := l, fresh := n } := by
  unfold State.rcFill
  dsimp only
  split
  · exact ⟨_, _, rfl⟩
  · split
    · exact ⟨_, _, rfl⟩
    · exact ⟨_, _, rfl⟩

/-- Bytes that the read cache keeps leave all but the cache and the next free value. -/
theorem State.rcKeep_only (s : State) (x : Arrived) : ∃ l n, s.rcKeep x = { s with rcache := l, fresh := n } := by
  have fills (c : Nat) (js : List Nat) : ∀ t : State, ∃ l n,
      js.foldl (fun (t : State) j => t.rcFill c (x.addr / 32 + j) ((x.data.drop (32 * j)).take 32)) t = { t with rcache := l, fresh := n } := by
    induction js with
    | nil => exact fun t => ⟨_, _, rfl⟩
    | cons j js ih =>
      intro t
      obtain ⟨l, n, first⟩ := t.rcFill_only c (x.addr / 32 + j) ((x.data.drop (32 * j)).take 32)
      obtain ⟨l', n', rest⟩ := ih { t with rcache := l, fresh := n }
      exact ⟨l', n', by rw [List.foldl_cons, first, rest]⟩
  unfold State.rcKeep
  split
  · split
    · exact fills ..
    · exact ⟨_, _, rfl⟩
  · exact ⟨_, _, rfl⟩

/-- Bytes that no other seat shares come for their agent alone. -/
theorem State.bring_only {x : Arrived} (alone : ∀ m, m ∈ s.mcast → Agent.core m.2 ≠ x.agent) :
    ∃ l n, s.bring x = { s with rcache := l, fresh := n, arrived := addArrived s.arrived x } := by
  obtain ⟨l, n, keeps⟩ := s.rcKeep_only x
  refine ⟨l, n, ?_⟩
  unfold State.bring
  rw [keeps]
  dsimp only
  split
  · next k core =>
    have none : s.mcast.filter (fun p => p.2 == k && s.asked.any (fun a => a.agent == Agent.core p.1)) = [] := by
      rw [List.filter_eq_nil_iff]
      intro m hm
      have other : m.2 ≠ k := fun e => alone m hm (e ▸ core.symm)
      simp [other]
    rw [none]
    rfl
  · rfl

/-- Bytes that the host interface has received are counted, in all and for a context (R597, R613). -/
def State.received (s : State) (n ctx : Nat) : State := (s.bump HIF_PC_RX_BYTES n).bump CTX_ACC_HOST n ctx

theorem State.foot_received (s : State) (n ctx : Nat) : s.foot (s.received n ctx) [HIF_PC_RX_BYTES.key 0 0, CTX_ACC_HOST.key ctx 0] :=
  State.foot_wr_of (State.foot_wr (by simp)) (by simp)

theorem State.dev_received (s : State) (n ctx : Nat) : (s.received n ctx).dev = s.dev :=
  (State.rd_wr_place (by decide) ..).trans (State.rd_wr_place (by decide) ..)

theorem State.rd_received_bytes (s : State) (n ctx : Nat) :
    (s.received n ctx).rd HIF_PC_RX_BYTES = (s.rd HIF_PC_RX_BYTES + n) % 2 ^ HIF_PC_RX_BYTES.w :=
  (State.rd_wr_ne _ (by simp [Fld.key, Page.base, HIF_PC_RX_BYTES, CTX_ACC_HOST]; omega) _).trans (State.rd_wr_same ..)

section
variable (found : Tab.find s.hostReads tag = some r) (own : r.packet = none) (agent : r.agent = some ag)
include found own agent

/-- HOST_COMPLETION with data: the bytes are counted and come, then the seats and the accesses of the host go on (R591). -/
theorem hostCompletionEffect_success (data : List Byte) :
    let v := s.received data.length (s.hostReadCtx r)
    hostCompletionEffect tag stSuccess data s =
      (State.bring { v with hostReads := Tab.del s.hostReads tag }
        { agent := ag, addr := gpaOf v.dev r.addr, data := data }).wakeCores.pumpBars := by
  intro v
  unfold hostCompletionEffect
  rw [found]
  show ((v.endHostRead tag r (.ok data)).wakeCores).pumpBars = _
  unfold State.endHostRead
  simp only [own, agent]
  rfl

/-- COMPLETION_TIMEOUT: the read fails, and AER reports it (R577, R591). -/
theorem completionTimeoutEffect_fails :
    completionTimeoutEffect tag s =
      (State.failAsked { (s.at r.due).on HIF_ERR_CPL_TIMEOUT with
        hostOut := s.hostOut ++ [HostOut.aer 0], hostReads := Tab.del s.hostReads tag } ag stBus).wakeCores.pumpBars := by
  unfold completionTimeoutEffect State.endHostRead State.failHostRead
  simp only [found, own, agent]
  rfl

end

/-- Settles O36: the read is gone, and its agent has its bytes or the timeout. -/
theorem deviceReadsOfHostMemoryEnd : Obligations.DeviceReadsOfHostMemoryEnd := by
  intro s tag r ag rails found own agent alone
  refine ⟨fun data length => ?_, ?_⟩
  · have run : exec (.hostCompletion tag stSuccess data) s = .next (s.commit (hostCompletionEffect tag stSuccess data s)) :=
      State.rails_next rails (by simp [found, length]) _
    rw [hostCompletionEffect_success found own agent data] at run
    let v := s.received data.length (s.hostReadCtx r)
    obtain ⟨l, n, brings⟩ := State.bring_only (s := { v with hostReads := Tab.del s.hostReads tag })
      (x := { agent := ag, addr := gpaOf v.dev r.addr, data := data }) alone
    have counted := s.rd_received_bytes data.length (s.hostReadCtx r)
    have stays := (s.foot_received data.length (s.hostReadCtx r)).1
    have place : v.dev = s.dev := s.dev_received ..
    rw [brings] at run
    refine ⟨_, run, rfl, ?_, counted, stays⟩
    rw [place]
    rfl
  · have run : exec (.completionTimeout tag) s = .next (s.commit (completionTimeoutEffect tag s)) :=
      State.rails_next rails (by simp [found]) _
    rw [completionTimeoutEffect_fails found own agent] at run
    have shown : ((s.at r.due).wr HIF_ERR_CPL_TIMEOUT 1).is HIF_ERR_CPL_TIMEOUT = true := State.is_wr_one _ _ _ _ rfl
    have foot : (s.at r.due).foot ((s.at r.due).wr HIF_ERR_CPL_TIMEOUT 1) [HIF_ERR_CPL_TIMEOUT.key 0 0] := State.foot_wr (by simp)
    exact ⟨_, run, rfl, rfl, shown, rfl, rfl, foot.1, foot.2⟩

end Sys2Proof.Machine
end

section
/-!
PROOF. Accesses of the host (R465, R579 to R585): a write that hits the leaf of an object's page leaves the whole object undefined, so that
bytes outside its own span change.
-/
namespace Sys2Proof.Machine

/-! ### The witness: a host that writes onto the leaf of an object

Function 1 of a front device sees the first 2 MiB of HBM at its aperture, where the tables of context 0 have the leaf of the object's
page at 0x3000. -/

/-- The state in which the host writes. The object's first byte was undefined once (with seed 0) and has been written since. -/
def leafBehindBar2 : State :=
  { (Tests.mapped State.reset).on HIF_LINK_STAT_FRONT with
    mem := leafTables ++ [(objByte, Config.freeByte 1 objByte + 1)]
    undef := [{ lo := objByte, len := 1, seed := 0 }]
    fresh := 1
    objs := [(1, pageObj)] }

/-- The part to which a write of one byte of BAR2 at 0x3000 goes. -/
def leafPart : RemPart := { off := 0, gpa := 0x3000, n := 1, wop := 0 }

/-- The witness is in order, as every reachable state is: its memory is that of `leafAt3000`. -/
theorem leafBehindBar2_ordered : leafBehindBar2.ordered = true := by
  have ordered := leafAt3000_ordered zeroPacket
  simp only [State.ordered, Bool.and_eq_true] at ordered ⊢
  obtain ⟨⟨memory, -⟩, -⟩ := ordered
  exact ⟨⟨memory, by decide +kernel⟩, by decide +kernel⟩

/-- The host may write there. -/
theorem leafBehindBar2_part :
    let u := (leafBehindBar2.bump HIF_PC_RX_BYTES 1).bump CTX_ACC_HOST 1 1
    u.ctxOn 1 = true ∧ u.partsOf 1 (u.rd CTX_APERTURE 1 + 0x3000) 1 .write = .ok [leafPart] ∧ u.isHere leafPart = true ∧
      u.partOk 1 .put leafPart = true ∧ u.partWaits leafPart = false := by
  refine ⟨?_, ?_, ?_, ?_, ?_⟩ <;> decide +kernel

theorem leafBehindBar2_objByte : leafBehindBar2.rdByte objByte = Config.freeByte 1 objByte + 1 := rfl

/-- The write leaves the object undefined, under seed 1. -/
theorem leafBehindBar2_undefines (u : State) :
    (u.commit (bar2WriteEffect 1 0x3000 [0] false leafBehindBar2)).rdByte objByte = Config.freeByte 1 objByte := by
  rw [State.rdByte_commit]
  exact State.rdByte_undefined (by decide +kernel) (by decide +kernel)

/-- Refutes O35: a BAR2_WRITE onto the leaf of an object's page leaves every byte of the object undefined (R465), so that other bytes than
those written change. -/
theorem not_hostAccessesReachTheirContext : ¬ Obligations.HostAccessesReachTheirContext := by
  intro h
  obtain ⟨-, writes, -⟩ := h leafBehindBar2 1 0x3000 (by decide +kernel) (by decide +kernel) (by decide) (by decide +kernel) rfl
  obtain ⟨on, parts, here, allowed, free⟩ := leafBehindBar2_part
  obtain ⟨t, run, stored, -⟩ := writes [0] leafPart (by decide) (by decide) (by decide) on parts rfl rfl rfl here allowed free
    (.inl (by decide)) (by decide +kernel)
  have answer : exec (.bar2Write 1 0x3000 [0] false) leafBehindBar2 =
      .next (leafBehindBar2.commit (bar2WriteEffect 1 0x3000 [0] false leafBehindBar2)) :=
    State.rails_next (by decide +kernel) (by decide +kernel) _
  obtain rfl := Host.Outcome.next.inj (run.symm.trans answer)
  have outside : ¬ (gpaLocal leafPart.gpa ≤ objByte ∧ objByte < gpaLocal leafPart.gpa + [(0 : Byte)].length) := by decide
  have kept := (stored objByte).trans (if_neg outside)
  rw [leafBehindBar2_undefines, leafBehindBar2_objByte] at kept
  simp at kept

end Sys2Proof.Machine
end

section
/-!
PROOF. The task unit (R602, R603, R613): the statement reads a task's first command while its seat is still free, the seat fetches it when it
is busy, and a command that lies in HIF_SEAT_BUSY tells the two apart.
-/
namespace Sys2Proof.Machine

/-! ### The witness: a command whose first word is HIF_SEAT_BUSY

Seat 0 is pre-empted, seats 1 to 7 of crew 0 are free. The command stands at 0xFFFC of context 0: its first 4 bytes are HIF_SEAT_BUSY in
the register window, the others zero bytes of HBM. Only a cached translation of a size that no walk fills (0xFEEC) puts a register other
than the last of its frame there; no hypothesis of the statement excludes one. -/

/-- A task descriptor of one command at 0xFFFC. -/
def busyTask : List Byte := leBytes 1 8 ++ leBytes 1 4 ++ leBytes 0 4 ++ leBytes 0xFFFC 8 ++ leBytes 0 40

/-- The command as it reads while seat 0 alone is busy: opcode 0x01. -/
def busyCommand : List Byte := 1 :: leBytes 0 127

def commandInSeatBusy : State :=
  let s := ((([0, 1, 2, 3].foldl (fun (t : State) c => t.wr (BLK_STAT_STATE .ctx) 1 c) State.reset).on CTX_TASK_RING_CTL_ENABLE 0).wr
    CTX_TASK_RING_BASE 0x600 0).wrMem 0x600 busyTask
  { (s.setTok (tokGlobal 0) 1).setCore 0 { (default : Core) with saving := 1 } with
    tlb := [{ ctx := 0, va := 0x10000, size := 0x10000, leaf := 0xF },
            { ctx := 0, va := 0xFFF0, size := 0xFEEC, leaf := 0x4008001000F },
            { ctx := 0, va := 0, size := 0x200000, leaf := 0xF }] }

/-- The ring and the descriptor of a task that waits in its ring. -/
def Waiting.ofRing : Waiting → Option (Nat × List Byte)
  | .ring c d => some (c, d)
  | .saved _ _ => none

theorem Waiting.eq_of_ofRing {c : Nat} {d : List Byte} {w : Waiting} (same : w.ofRing = some (c, d)) : w = .ring c d := by
  cases w with
  | ring c' d' =>
    have eqs : c' = c ∧ d' = d := Prod.mk.inj (Option.some.inj same)
    rw [eqs.1, eqs.2]
  | saved key a =>
    have none : none = some (c, d) := same
    exact absurd none (by simp)

theorem commandInSeatBusy_waiting : commandInSeatBusy.waiting = [.ring 0 busyTask] := by
  have rings : commandInSeatBusy.waiting.map Waiting.ofRing = [some (0, busyTask)] := by decide +kernel
  obtain ⟨w, one, ring⟩ := List.map_eq_singleton_iff.mp rings
  rw [one, Waiting.eq_of_ofRing ring]

theorem commandInSeatBusy_rings {c : Nat} (below : c < 64) (e : Stop) :
    commandInSeatBusy.blk .ctx c ≠ 2 ∧ commandInSeatBusy.ringTask c ≠ some (.error e) := by
  have all : ∀ c, c < 64 → commandInSeatBusy.blk .ctx c ≠ 2 ∧ (commandInSeatBusy.ringTask c).map Tests.isOk ≠ some false := by decide +kernel
  obtain ⟨running, reads⟩ := all c below
  exact ⟨running, fun err => reads (congrArg (Option.map Tests.isOk) err)⟩

/-- Before its placement the task's command reads as one that a seat can run. -/
theorem commandInSeatBusy_reads :
    ({ commandInSeatBusy.bump CTX_TASK_HEAD 1 0 with self := some 1 } : State).readV (.core 1) 0 (fieldLE busyTask 16 8) 128 = .ok busyCommand := by
  decide +kernel

/-- Seat 1, once busy, shows in the command: its opcode is 0x03, which no seat runs. -/
theorem commandInSeatBusy_fetches :
    ((commandInSeatBusy.commit (taskPlacementEffect commandInSeatBusy)).core 1).next = none := by
  decide +kernel

/-- Refutes O38: the seat's own placement changes the first command of the task, which lies in HIF_SEAT_BUSY, so that the seat does not hold
the command that the statement has read before. -/
theorem not_tasksRunOnFreeSeats : ¬ Obligations.TasksRunOnFreeSeats := by
  intro h
  obtain ⟨t, b, run, -, -, -, -, -, -, -, next, -⟩ := h.1 commandInSeatBusy 0 1 busyTask busyCommand (by decide +kernel)
    (fun _ e below => commandInSeatBusy_rings below e) commandInSeatBusy_waiting (by decide +kernel) (by decide +kernel) (by decide +kernel)
    (by decide +kernel) commandInSeatBusy_reads (by decide +kernel)
  have answer : exec .taskPlacement commandInSeatBusy =
      .next (commandInSeatBusy.commit (taskPlacementEffect commandInSeatBusy)) :=
    State.rails_next (by decide +kernel) rfl _
  obtain rfl := Host.Outcome.next.inj (run.symm.trans answer)
  rw [commandInSeatBusy_fetches] at next
  exact absurd next (by simp)

end Sys2Proof.Machine
end

section
/-!
PROOF. What a context's end does to its work (R595, R596) leaves STATE and FORCE_OFF of every block: an invariant of the writes, messages
and faults it makes.
-/
namespace Sys2Proof.Machine

variable {s t u : State}

/-! ### The registers that say how far a block is -/

/-- STATE and FORCE_OFF stand at these places of every page. -/
abbrev headKey (k : Nat) : Prop := k % 4096 = 0x60 ∨ k % 4096 = 0x42

/-- STATE and FORCE_OFF of every block. -/
def State.heads (s : State) : Nat → Option Nat := regsOf headKey s.regs

theorem State.rd_of_heads (h : t.heads = s.heads) {f : Fld} (place : headKey (f.off * 8 + f.lo)) (i : Nat) : t.rd f i = s.rd f i := by
  have key : headKey (f.key i 0) := by
    simp only [headKey, f.key_mod i]
    exact place
  have same : regsOf headKey t.regs (f.key i 0) = regsOf headKey s.regs (f.key i 0) := congrFun h _
  rw [regsOf, regsOf, if_pos key, if_pos key] at same
  simp only [State.rd, Tab.look, same]

theorem State.heads_wr_key {f : Fld} {i j : Nat} (h : ¬ headKey (f.key i j)) (v : Nat) : (s.wr f v i j).heads = s.heads := regsOf_set h

/-- Writes of fields at other places of their pages leave them. -/
theorem State.heads_wr {f : Fld} {v i : Nat} (h : ¬ headKey (f.off * 8 + f.lo)) : (s.wr f v i).heads = s.heads := by
  refine State.heads_wr_key ?_ v
  simp only [headKey, f.key_mod i]
  exact h

theorem State.heads_bump {f : Fld} {n i : Nat} (h : ¬ headKey (f.off * 8 + f.lo)) : (s.bump f n i).heads = s.heads := State.heads_wr h

theorem State.heads_foldl {α : Type} (g : State → α → State) (hg : ∀ (t : State) x, (g t x).heads = t.heads) (l : List α) (s : State) :
    (l.foldl g s).heads = s.heads := State.foldl_keep State.heads g hg l s

/-! ### Stores on this device -/

theorem State.heads_logEv (p : Page) (i a b c d : Nat) : (s.logEv p i a b c d).heads = s.heads := by
  unfold State.logEv State.logFrom
  split
  · rfl
  · exact State.heads_bump (by decide)

theorem State.heads_undefine (a n : Nat) : (s.undefine a n).heads = s.heads := by
  unfold State.undefine
  split <;> rfl

theorem State.heads_noteMoves (g n : Nat) : (s.noteMoves g n).heads = s.heads := by
  unfold State.noteMoves
  split <;> rfl

theorem State.heads_noteWrite (a n : Nat) : (s.noteWrite a n).heads = s.heads := by
  have cleansed (u : State) : (if u.poison.isEmpty = true then u else u.cleanse a n).heads = u.heads := by split <;> rfl
  unfold State.noteWrite
  refine (cleansed _).trans ((State.heads_noteMoves ..).trans ?_)
  split <;> rfl

theorem State.heads_store (a wop : Nat) (sched : Bool) (data : List Byte) : (s.store a wop sched data).heads = s.heads := by
  have touched (u : State) (l : List (Nat × Nat)) : ({ u with touched := l } : State).heads = u.heads := rfl
  have lengths (u : State) (n : Nat) : (u.noteLengths a n).heads = u.heads := by
    unfold State.noteLengths
    split
    · exact State.heads_undefine ..
    · rfl
  have stored (d : List Byte) : (((s.wrMem a d).noteWrite a d.length).noteLengths a d.length).heads = s.heads := by
    obtain ⟨m, wrote⟩ := State.wrMem_mem d s a
    rw [lengths, State.heads_noteWrite, wrote]
    rfl
  unfold State.store
  dsimp only
  split
  · exact (touched _ _).trans (stored _)
  · exact stored _

theorem State.heads_account (ctx a n : Nat) : (s.account ctx a n).heads = s.heads := by
  unfold State.account
  split
  · exact State.heads_bump (by decide)
  · exact State.heads_bump (by decide)
  · rfl

theorem State.heads_changeTok (k : Nat) (v : Word) (b : Bool) : (s.changeTok k v b).heads = s.heads := by
  unfold State.changeTok State.stray
  split
  · rw [State.heads_logEv, State.heads_bump (by decide)]
    rfl
  · rfl

/-! ### Operations on other devices -/

theorem State.heads_barAnswer (f a : Nat) (d : Option (List Byte)) : (s.barAnswer f a d).heads = s.heads := by
  cases d with
  | none => rfl
  | some d => exact (State.heads_bump (by decide)).trans (State.heads_bump (by decide))

theorem State.heads_errUncorr_dev : (s.errUncorr .dev).heads = s.heads :=
  (State.heads_wr (by decide)).trans (State.heads_wr (by decide))

theorem State.heads_cuePart (c i a b d : Nat) (l : List Byte) (n : Nat) : (s.cuePart c i a b d l n).heads = s.heads := by
  obtain ⟨xs, h⟩ := s.cuePart_coxes c i a b d l n
  rw [h]
  rfl

/-- Whoever learns how an operation has ended. -/
theorem State.heads_finishOp (o : RemOp) : (s.finishOp o).heads = s.heads := by
  unfold State.finishOp
  extract_lets status
  cases o.owner with
  | cue c idx => exact State.heads_cuePart ..
  | bar f tag =>
    dsimp only
    split
    · rfl
    · split
      · exact State.heads_barAnswer ..
      · split <;> rfl
  | message =>
    dsimp only
    split
    · rfl
    · exact State.heads_errUncorr_dev
  | summary =>
    dsimp only
    split
    · rfl
    · exact State.heads_errUncorr_dev
  | agent a =>
    dsimp only
    split <;> rfl
  | core i => rfl
  | chan e ch => rfl
  | gone => rfl

theorem State.heads_sendRequest (q op : Nat) (x : Packet) (dest : Option Nat) : (s.sendRequest q op x dest).heads = s.heads := by
  unfold State.sendRequest
  dsimp only
  split
  · rfl
  · exact State.heads_bump (by decide)

theorem State.heads_answer (op a d st : Nat) : (s.answer op a d st).heads = s.heads := by
  unfold State.answer
  split
  · rfl
  · extract_lets v w o'
    have noted : v.heads = s.heads := by
      show State.heads (if _ then _ else s) = _
      split <;> rfl
    split
    · exact noted
    · split
      · split
        · exact (State.heads_sendRequest ..).trans noted
        · exact (State.heads_finishOp _).trans noted
      · exact (State.heads_finishOp _).trans noted

theorem State.heads_sendOrFail (op : Nat) (x : Packet) (dest : Option Nat) : (s.sendOrFail op x dest).heads = s.heads := by
  unfold State.sendOrFail
  split
  · split
    · exact State.heads_answer ..
    · exact State.heads_sendRequest ..
  · exact State.heads_answer ..

theorem State.heads_putPieces (op ctx : Nat) (sched : Bool) (g : Nat) (data : List Byte) (l : List (Nat × Nat)) :
    ∀ s : State, (s.putPieces op ctx sched g data l).heads = s.heads := by
  induction l with
  | nil => exact fun _ => rfl
  | cons x l ih => exact fun s => (ih _).trans (State.heads_sendOrFail ..)

theorem State.heads_getPieces (op ctx : Nat) (sched : Bool) (g : Nat) (dest : Option Nat) (l : List (Nat × Nat)) :
    ∀ s : State, (s.getPieces op ctx sched g dest l).heads = s.heads := by
  induction l with
  | nil => exact fun _ => rfl
  | cons x l ih => exact fun s => (ih _).trans (State.heads_sendOrFail ..)

theorem State.heads_remotePut (o : Owner) (ctx : Nat) (sched : Bool) (g : Nat) (data : List Byte) :
    (s.remotePut o ctx sched g data).heads = s.heads := by
  unfold State.remotePut
  dsimp only
  split
  · rfl
  · refine (State.heads_putPieces ..).trans ?_
    cases o <;> rfl

theorem State.heads_failedHere (o : Owner) (ctx a : Nat) (sched : Bool) (st : Nat) : (s.failedHere o ctx a sched st).heads = s.heads := by
  refine (State.heads_finishOp _).trans ?_
  cases o <;> rfl

/-- Bytes that an agent asks for. -/
theorem State.heads_ask (ag : Agent) (ctx : Nat) (sched : Bool) (g n : Nat) : (s.ask ag ctx sched g n).heads = s.heads := by
  have span (g n : Nat) : (s.askSpan ag ctx sched g n).heads = s.heads := by
    unfold State.askSpan
    split
    · rfl
    · dsimp only
      split
      · rfl
      · exact State.heads_getPieces ..
  unfold State.ask
  split <;> exact span ..

/-! ### Writes of a context (R140) -/

theorem State.heads_hostPut (ctx a : Nat) (data : List Byte) : (s.hostPut ctx a data).2.heads = s.heads := by
  have sent (f v : Nat) : (s.msixSend f v).heads = s.heads := by
    unfold State.msixSend
    split <;> rfl
  have trigger : (s.triggerPut ctx a data).2.heads = s.heads := by
    unfold State.triggerPut
    dsimp only
    split
    · exact State.heads_bump (by decide)
    · split
      · exact State.heads_bump (by decide)
      · exact sent ..
  unfold State.hostPut
  dsimp only
  split
  · exact trigger
  · split
    · rfl
    · exact (State.heads_bump (by decide)).trans (State.heads_bump (by decide))

theorem State.heads_spoilPools (g n : Nat) : (s.spoilPools g n).heads = s.heads := by
  have wild (u : State) (l : List Nat) : ({ u with wildPools := l } : State).heads = u.heads := rfl
  have spoilt (t : State) (o : Obj) : (t.undefineObj o).heads = t.heads := by
    refine State.heads_foldl _ (fun t f => ?_) _ t
    split
    · exact State.heads_undefine ..
    · rfl
  unfold State.spoilPools
  dsimp only
  split
  · rfl
  · refine (wild _ _).trans (State.heads_foldl _ (fun t k => ?_) _ s)
    split
    · rfl
    · split
      · exact spoilt ..
      · rfl

theorem State.heads_writeGpa (o : Owner) (ctx g wop : Nat) (sched : Bool) (data : List Byte) :
    (s.writeGpa o ctx g wop sched data).heads = s.heads := by
  unfold State.writeGpa
  extract_lets v w a r
  have cached : v.heads = s.heads := by
    obtain ⟨asked, cache, h⟩ := s.rcWrite_cache o g data.length
    exact (congrArg State.heads h).trans rfl
  have spoilt : w.heads = s.heads := by
    refine Eq.trans ?_ cached
    show State.heads (if _ then v else _) = _
    split
    · rfl
    · exact State.heads_spoilPools ..
  split
  · split
    · exact (State.heads_changeTok ..).trans spoilt
    · exact spoilt
    · have put : r.2.heads = w.heads := State.heads_hostPut ..
      split
      · exact put.trans spoilt
      · exact (State.heads_failedHere ..).trans (put.trans spoilt)
    · exact (State.heads_account ..).trans ((State.heads_store ..).trans spoilt)
  · exact (State.heads_remotePut ..).trans ((State.heads_noteMoves ..).trans spoilt)

theorem State.heads_writePieces (o : Owner) (ctx : Nat) (sched : Bool) (l : List (Nat × Nat)) :
    ∀ (s : State) (data : List Byte), (s.writePieces o ctx sched data l).heads = s.heads := by
  induction l with
  | nil => exact fun _ _ => rfl
  | cons x l ih =>
    intro s data
    unfold State.writePieces
    split
    · exact ih ..
    · exact (ih ..).trans (State.heads_writeGpa ..)

theorem State.heads_writeV (o : Owner) (ctx va : Nat) (sched : Bool) (data : List Byte) : (s.writeV o ctx va sched data).heads = s.heads :=
  State.heads_writePieces ..

theorem State.heads_writeAll (o : Owner) (ctx : Nat) (sched : Bool) (l : List Write) :
    ∀ s : State, (s.writeAll o ctx sched l).heads = s.heads := by
  induction l with
  | nil => exact fun _ => rfl
  | cons w l ih => exact fun s => (ih _).trans (State.heads_writeV ..)

/-! ### Messages and faults -/

theorem State.heads_msix (ctx v : Nat) : (s.msix ctx v).heads = s.heads := by
  unfold State.msix State.putWord
  split
  · split
    · exact State.heads_failedHere ..
    · exact State.heads_writeGpa ..
  · exact State.heads_remotePut ..

theorem State.heads_reportFault (n : Nat) : (s.reportFault n).heads = s.heads := by
  have noted (u : State) (l : List (Nat × FaultSlot)) : ({ u with slots := l } : State).heads = u.heads := rfl
  unfold State.reportFault
  split
  · rfl
  · dsimp only
    split
    · exact State.heads_wr (by decide)
    · split
      · rfl
      · rfl
      · exact (State.heads_wr (by decide)).trans (State.heads_wr (by decide))
      · rw [State.heads_msix, State.heads_bump (by decide), noted, State.heads_writeV]

theorem State.heads_takeFault (ag : Agent) (ctx va level : Nat) (write : Bool) (id : Nat) :
    (s.takeFault ag ctx va level write id).heads = s.heads := by
  unfold State.takeFault
  split
  · split
    · rfl
    · exact State.heads_bump (by decide)
  · dsimp only
    split
    · split <;> rfl
    · rw [State.heads_reportFault, State.heads_bump (by decide), State.heads_bump (by decide)]
      rfl

theorem State.heads_taskFault (ctx id : Nat) (e : Stop) : (s.taskFault ctx id e).heads = s.heads := by
  unfold State.taskFault
  split
  · exact State.heads_takeFault ..
  · rfl

theorem State.heads_taskStall (ctx : Nat) (e : Stop) : (s.taskStall ctx e).heads = s.heads := by
  unfold State.taskStall
  split
  · exact State.heads_ask ..
  · exact State.heads_taskFault ..

/-! ### The ring of a context goes back (R595) -/

theorem State.heads_returnTask (ctx : Nat) : (s.returnTask ctx).1.heads = s.heads := by
  unfold State.returnTask
  extract_lets a gone stop
  have goes (t : State) : (gone t).1.heads = t.heads := State.heads_bump (s := t.takeAbort 128 ctx) (by decide)
  have stops (e : Stop) : (stop e).1.heads = s.heads := by
    dsimp only [stop]
    split
    · exact State.heads_taskStall ..
    · split
      · exact State.heads_taskStall ..
      · exact goes s
  split
  · exact stops _
  · split
    · exact stops _
    · exact (goes _).trans (State.heads_writeAll ..)

theorem State.heads_returnTasks (s : State) (ctx : Nat) : (s.returnTasks ctx).heads = s.heads := by
  have all (l : List Nat) : ∀ q : State × Bool,
      (l.foldl (fun (t : State × Bool) _ => if t.2 then t.1.returnTask ctx else t) q).1.heads = q.1.heads := by
    induction l with
    | nil => exact fun _ => rfl
    | cons n l ih =>
      intro q
      refine (ih _).trans ?_
      dsimp only
      split
      · exact State.heads_returnTask ctx
      · rfl
  unfold State.returnTasks
  split
  · rfl
  · exact all ..

/-! ### A task completes (R600) -/

/-- A signal of a task, made here or sent to another device. -/
theorem State.heads_signalAt (s : State) (o : Owner) (ctx va inc : Nat) (sched : Bool) (u : State)
    (made : s.signalAt o ctx va inc sched = .made u ∨ s.signalAt o ctx va inc sched = .sent u) : u.heads = s.heads := by
  have neither {x : Signal} (made : x = .made u ∨ x = .sent u) (fault : ∀ v, x ≠ .made v ∧ x ≠ .sent v) : u.heads = s.heads :=
    made.elim (fun h => absurd h (fault u).1) (fun h => absurd h (fault u).2)
  unfold State.signalAt at made
  split at made
  · exact neither made (by simp)
  · exact neither made (by simp)
  · exact neither made (by simp)
  · exact neither made (by simp)
  · split at made
    · split at made
      · exact neither made (by simp)
      · split at made
        · obtain rfl : _ = u := by simpa using made
          exact State.heads_changeTok ..
        · exact neither made (by simp)
    · obtain rfl : _ = u := by simpa using made
      exact (State.heads_sendOrFail ..).trans rfl

/-- The state with which the completion of a task ends or waits. -/
def TaskEnd.state : TaskEnd → State
  | .waits s => s
  | .done s => s
  | .sent s => s

theorem State.heads_completeTask (o : Owner) (ctx a : Nat) (d : List Byte) (status flags fail : Nat) (detail : List Byte) :
    (s.completeTask o ctx a d status flags fail detail).state.heads = s.heads := by
  have waits (e : Stop) (x : TaskEnd) (ends : x.state.heads = s.heads) :
      (if e.waits = true then TaskEnd.waits (s.taskFault ctx (fieldLE d 2 2) e) else x).state.heads = s.heads := by
    split
    · exact State.heads_taskFault ..
    · exact ends
  unfold State.completeTask
  extract_lets id abandoned back rp record sp t
  have written : t.heads = s.heads := (State.heads_writeAll ..).trans (State.heads_writeAll ..)
  split
  · refine waits _ _ ?_
    split
    · exact waits _ _ rfl
    · exact State.heads_writeAll ..
  · exact waits _ _ (State.heads_writeAll ..)
  · split
    · exact written
    · split
      · exact waits _ _ written
      · have made := t.heads_signalAt o ctx sp (fieldLE d 40 2) false
        split
        next u made' => exact (made u (.inl made')).trans written
        next u sent => exact (made u (.inr sent)).trans written
        next => exact written

/-! ### What touches no register -/

theorem State.heads_setCore (i : Nat) (x : Core) : (s.setCore i x).heads = s.heads := rfl
theorem State.heads_setChan (e ch : Nat) (x : Chan) : (s.setChan e ch x).heads = s.heads := rfl
theorem State.heads_leaveSlots (ag : Agent) : (s.leaveSlots ag).heads = s.heads := rfl
theorem State.heads_clearArrived (ag : Agent) : (s.clearArrived ag).heads = s.heads := rfl
theorem State.heads_takeAbort (base ctx : Nat) : (s.takeAbort base ctx).heads = s.heads := rfl

theorem State.heads_noteSaves (s : State) (l : List (Nat × Saved)) : ({ s with saved := l } : State).heads = s.heads := rfl
theorem State.heads_freeCrews (s : State) (l : List (Nat × CrewSave)) : ({ s with crewSaves := l } : State).heads = s.heads := rfl

/-! ### Cues fail, seats and channels are abandoned -/

theorem State.heads_failCues (s : State) (ctx st : Nat) : (s.failCues ctx st).heads = s.heads := by
  have fails (u : State) (c k : Nat) : (u.failCue c k st).heads = u.heads := (State.heads_cuePart ..).trans rfl
  refine State.heads_foldl _ (fun t c => ?_) _ s
  split
  · split
    · refine (State.heads_foldl _ (fun u k => ?_) _ _).trans rfl
      split
      · rfl
      · exact fails ..
    · rfl
  · rfl

theorem State.heads_undefineAreas (ctx : Nat) (r : Run) : (s.undefineAreas ctx r).heads = s.heads := by
  have page (t : State) (va n : Nat) : (t.undefineV ctx va n).heads = t.heads := by
    refine State.heads_foldl _ (fun t p => ?_) _ t
    split
    · split
      · exact State.heads_undefine ..
      · rfl
    · rfl
  exact State.heads_foldl _ (fun t p => page ..) _ s

theorem State.heads_undefineRun (i : Nat) : (s.undefineRun i).heads = s.heads := by
  unfold State.undefineRun
  split
  · dsimp only
    split
    · exact State.heads_undefineAreas ..
    · exact (State.heads_undefine ..).trans (State.heads_undefineAreas ..)
  · rfl

theorem State.heads_showIdle (i : Nat) : (s.showIdle i).heads = s.heads := by
  unfold State.showIdle
  rw [State.heads_wr (by decide), State.heads_wr (by decide), State.heads_wr (by decide), State.heads_wr (by decide)]

theorem State.heads_endBlock (i status id : Nat) : (s.endBlock i status id).heads = s.heads := by
  unfold State.endBlock
  split
  · rfl
  · dsimp only
    split
    · exact (State.heads_showIdle i).trans rfl
    · split
      · exact (State.heads_cuePart ..).trans ((State.heads_showIdle i).trans rfl)
      · exact (State.heads_foldl _ (fun t r => State.heads_cuePart ..) _ _).trans ((State.heads_showIdle i).trans rfl)

theorem State.heads_abandonSeat (s : State) (i : Nat) : (s.abandonSeat i).heads = s.heads := by
  unfold State.abandonSeat
  extract_lets x v
  split
  · rfl
  · extract_lets w
    have left : w.heads = s.heads := by
      exact (State.heads_setCore ..).trans ((State.heads_clearArrived _).trans ((State.heads_leaveSlots _).trans (State.heads_undefineRun i)))
    split
    · exact (State.heads_setCore ..).trans left
    · exact (State.heads_endBlock ..).trans left

theorem State.heads_taskMessage (ctx : Nat) (d : List Byte) : (s.taskMessage ctx d).heads = s.heads := by
  unfold State.taskMessage
  split
  · exact State.heads_msix ..
  · rfl

theorem State.heads_abandonSaved (s : State) (key : Nat) (a : Saved) : (s.abandonSaved key a).heads = s.heads := by
  unfold State.abandonSaved
  extract_lets v w i x
  have undefined : w.heads = s.heads := by
    dsimp only [w]
    split
    · exact (State.heads_undefineAreas ..).trans rfl
    · rfl
  have shown : x.heads = s.heads := by
    refine Eq.trans ?_ undefined
    show State.heads (if _ then _ else w) = _
    split
    · exact State.heads_showIdle i
    · rfl
  split
  · exact shown
  next b _ =>
    extract_lets detail
    split
    · have task := x.heads_completeTask .message a.ctx b.task.2 b.task.1 stRefused (b.flags ||| flAbandoned) b.pos detail
      split
      next t ends =>
        rw [ends] at task
        exact (t.heads_noteSaves _).trans (task.trans shown)
      next t ends =>
        rw [ends] at task
        exact (State.heads_taskMessage ..).trans ((State.heads_takeAbort ..).trans (task.trans shown))
      next t ends =>
        rw [ends] at task
        exact (State.heads_taskMessage ..).trans (task.trans shown)
    · split
      · exact (State.heads_cuePart ..).trans shown
      · exact (State.heads_foldl _ (fun t r => State.heads_cuePart ..) _ x).trans shown

/-- STATE and the requests of the channels stand at other places than those of a block. -/
theorem State.heads_dmaWr {c h : Fld} (crew : c.stride = 0x20 ∧ (c.off * 8 + c.lo) % 0x100 < 0x40)
    (host : h.stride = 0x20 ∧ (h.off * 8 + h.lo) % 0x100 < 0x40) (e ch v : Nat) : (s.dmaWr e ch c h v).heads = s.heads := by
  have apart {f : Fld} (at_ : f.stride = 0x20 ∧ (f.off * 8 + f.lo) % 0x100 < 0x40) (i j : Nat) : ¬ headKey (f.key i j) := by
    obtain ⟨stride, place⟩ := at_
    have base := Page.base_mod f.page i
    unfold Fld.key headKey
    rw [stride]
    omega
  unfold State.dmaWr
  split
  · exact State.heads_wr_key (apart host 0 ch) v
  · exact State.heads_wr_key (apart crew e ch) v

theorem State.heads_chDisableEffect (s : State) (e ch : Nat) : (chDisableEffect e ch s).heads = s.heads := by
  unfold chDisableEffect State.setChState
  split
  · exact (State.heads_dmaWr (by decide) (by decide) ..).trans ((State.heads_dmaWr (by decide) (by decide) ..).trans rfl)
  · rfl

theorem State.heads_chForceEffect (s : State) (e ch : Nat) : (chForceEffect e ch s).heads = s.heads := by
  unfold chForceEffect State.setChState
  split
  · extract_lets x v y w
    have kept : w.heads = s.heads := by
      rw [show w = (v.leaveSlots (.chan e ch)).setChan e ch _ from rfl, State.heads_setChan, State.heads_leaveSlots]
      show State.heads (if _ then s else _) = _
      split <;> rfl
    exact (State.heads_dmaWr (by decide) (by decide) ..).trans ((State.heads_dmaWr (by decide) (by decide) ..).trans kept)
  · rfl

/-! ### A context drains or is abandoned (R595, R596) -/

theorem State.heads_setCtxState (s : State) (ctx v : Nat) : (s.setCtxState ctx v).heads = s.heads := by
  unfold State.setCtxState
  rw [State.heads_wr (by decide), State.heads_wr (by decide), State.heads_wr (by decide)]

theorem State.heads_drainCtx (s : State) (ctx : Nat) : (s.drainCtx ctx).heads = s.heads := by
  unfold State.drainCtx
  extract_lets v w x y
  have belled : v.heads = s.heads := rfl
  have state : w.heads = s.heads := (v.heads_setCtxState ctx 6).trans belled
  have ring : x.heads = s.heads := by
    refine Eq.trans ?_ state
    show State.heads (if _ then w else _) = _
    split
    · rfl
    · exact w.heads_returnTasks ctx
  refine (State.heads_foldl _ (fun t p => ?_) _ y).trans ((x.heads_failCues ctx stRefused).trans ring)
  exact t.heads_chDisableEffect ..

theorem State.heads_abandonCtx (s : State) (ctx : Nat) : (s.abandonCtx ctx).heads = s.heads := by
  unfold State.abandonCtx
  extract_lets bell state ring cues saves slots seats chans cut ends
  have belled : bell.heads = s.heads := by
    show State.heads (if _ then s else _) = _
    split <;> rfl
  have stated : state.heads = s.heads := (bell.heads_setCtxState ctx 6).trans belled
  have failed : cues.heads = s.heads := (ring.heads_failCues ctx stRefused).trans ((state.heads_returnTasks ctx).trans stated)
  have saved : saves.heads = cues.heads :=
    State.heads_foldl (fun (t : State) (a : Nat × Saved) => t.abandonSaved a.1 a.2) (fun t a => t.heads_abandonSaved a.1 a.2) _ cues
  have freed : slots.heads = saves.heads := saves.heads_freeCrews _
  have seated : seats.heads = slots.heads :=
    State.heads_foldl (fun (t : State) (c : Nat × Core) => t.abandonSeat c.1) (fun t c => t.heads_abandonSeat c.1) _ slots
  have forced : chans.heads = seats.heads :=
    State.heads_foldl (fun (t : State) (p : Nat × Nat) => chForceEffect p.1 p.2 t) (fun t p => t.heads_chForceEffect p.1 p.2) _ seats
  have ended : ends.heads = chans.heads := by
    refine State.heads_foldl _ (fun (t : State) (c : Nat × Chan) => ?_) _ chans
    rfl
  unfold State.showSlots
  rw [State.heads_wr (by decide), State.heads_wr (by decide), ended, forced, seated, freed, saved, failed]

/-- FORCE_OFF of a context that is enabled or drains. -/
theorem forceEffect_ctx_drains {f : Nat} (runs : s.blk .ctx f = 1 ∨ s.blk .ctx f = 2) :
    (forceEffect .ctx f s).blk .ctx f = 2 ∧ (forceEffect .ctx f s).is (BLK_CTL_FORCE_OFF .ctx) f = true := by
  have after {v t : State} (kept : t.heads = v.heads) (state : v.blk .ctx f = 2) (force : v.rd (BLK_CTL_FORCE_OFF .ctx) f = 1) :
      t.blk .ctx f = 2 ∧ t.is (BLK_CTL_FORCE_OFF .ctx) f = true := by
    refine ⟨(State.rd_of_heads kept (by decide) f).trans state, ?_⟩
    rw [State.is, State.rd_of_heads kept (by decide) f, force]
    rfl
  unfold forceEffect
  rcases runs with enabled | drains
  · rw [if_pos enabled]
    let v := (s.wr (BLK_STAT_STATE .ctx) 2 f).on (BLK_CTL_FORCE_OFF .ctx) f
    have kept : ((v.drainBlock .ctx f).forceBlock .ctx f).heads = v.heads :=
      ((v.drainCtx f).heads_abandonCtx f).trans (v.heads_drainCtx f)
    exact after kept ((State.rd_wr_place (by decide) ..).trans (State.rd_wr_same ..)) (State.rd_wr_same ..)
  · rw [if_neg (by omega), if_pos drains]
    let v := s.on (BLK_CTL_FORCE_OFF .ctx) f
    have kept : (v.forceBlock .ctx f).heads = v.heads := v.heads_abandonCtx f
    exact after kept ((State.rd_wr_place (by decide) ..).trans drains) (State.rd_wr_same ..)

end Sys2Proof.Machine
end

section
/-!
PROOF. The PCIe link and its resets (R577, R578, R591, R592, R667, R774): what a lost link leaves, and what a reset clears.
-/
namespace Sys2Proof.Machine

variable {s t u : State}

/-! ### The link goes down (R591) -/

/-- The end of a read of host memory touches only what its agent waits for, and the ports. -/
theorem State.failHostRead_only (s : State) (r : HostRead) (st : Nat) : ∃ l ps, s.failHostRead r st = { s with asked := l, ports := ps } := by
  unfold State.failHostRead
  split
  · unfold State.sendReply State.sendRouted
    dsimp only
    split
    next t sent =>
      split at sent
      · exact ⟨_, _, (Option.some.inj sent).symm⟩
      · cases sent
    next => exact ⟨_, _, rfl⟩
  · exact ⟨_, _, rfl⟩
  · exact ⟨_, _, rfl⟩

/-- The registers of a link that is down. -/
def State.unlinked (s : State) : State :=
  (((s.wr HIF_LINK_STAT_SPEED 0).wr HIF_LINK_STAT_WIDTH 0).wr HIF_LINK_STAT_FLIT 0).wr HIF_LINK_STAT_FRONT 0

/-- What a lost link leaves but for the agents and ports that learn it. -/
def State.linkLost (s : State) : State :=
  { (s.on HIF_ERR_LINK_DOWN).unlinked with hostReads := [], barWaits := [], msixTab := [], msixPba := [] }

theorem State.pcieDown_only (s : State) : ∃ l ps, s.pcieDown = { s.linkLost with asked := l, ports := ps } := by
  have fails (rs : List (Nat × HostRead)) : ∀ t : State, ∃ l ps,
      rs.foldl (fun (t : State) r => t.failHostRead r.2 stUnreachable) t = { t with asked := l, ports := ps } := by
    induction rs with
    | nil => exact fun t => ⟨_, _, rfl⟩
    | cons r rs ih =>
      intro t
      obtain ⟨l, ps, first⟩ := t.failHostRead_only r.2 stUnreachable
      obtain ⟨l', ps', rest⟩ := ih { t with asked := l, ports := ps }
      exact ⟨l', ps', (congrArg (rs.foldl _) first).trans rest⟩
  exact fails s.hostReads s.linkLost

/-- The registers of the link. -/
def linkKeys : List Nat := [HIF_LINK_STAT_FRONT.key 0 0, HIF_LINK_STAT_SPEED.key 0 0, HIF_LINK_STAT_WIDTH.key 0 0, HIF_LINK_STAT_FLIT.key 0 0]

theorem State.foot_unlinked (s : State) : s.foot s.unlinked linkKeys :=
  State.foot_wr_of (State.foot_wr_of (State.foot_wr_of (State.foot_wr (by simp [linkKeys])) (by simp [linkKeys])) (by simp [linkKeys]))
    (by simp [linkKeys])

theorem State.foot_pcieDown (s : State) : (s.on HIF_ERR_LINK_DOWN).foot s.pcieDown linkKeys := by
  obtain ⟨l, ps, only⟩ := s.pcieDown_only
  rw [only]
  exact State.foot_upd_of (State.foot_unlinked _) rfl rfl rfl rfl

theorem State.pcieDown_shown (s : State) : s.pcieDown.is HIF_ERR_LINK_DOWN = true := by
  rw [State.is, State.foot_rd s.foot_pcieDown _ 0 0 (by decide)]
  exact State.is_wr_one _ _ _ _ rfl

theorem State.unlinked_front (s : State) : s.unlinked.front = false := State.is_wr_zero ..

theorem State.pcieDown_front (s : State) : s.pcieDown.front = false := by
  obtain ⟨l, ps, only⟩ := s.pcieDown_only
  have regs : s.pcieDown.regs = (s.on HIF_ERR_LINK_DOWN).unlinked.regs := by rw [only]; rfl
  rw [State.front, State.is, State.rd_congr regs]
  exact (s.on HIF_ERR_LINK_DOWN).unlinked_front

/-! ### What a reset clears -/

/-- What a reset gives and what it leaves: the waiting transfer of the management controller, PERST#, the stroke unit, the coxes, the
accesses of the host, and the cause that is shown. -/
structure ResetView where
  waiting : Option Instr
  perst : Bool
  stk : StrokeUnit
  coxes : List (Nat × Cox)
  bars : List (Nat × BarWait)
  cause : Nat

def State.resetView (s : State) : ResetView := ⟨s.i3c.waiting, s.pwr.perst, s.stk, s.coxes, s.barWaits, s.rd PWR_RESET_CAUSE_KIND⟩

theorem State.resetView_wr_key {f : Fld} {i j : Nat} (apart : f.key i j ≠ PWR_RESET_CAUSE_KIND.key 0 0) (v : Nat) :
    (s.wr f v i j).resetView = s.resetView :=
  congrArg (ResetView.mk s.i3c.waiting s.pwr.perst s.stk s.coxes s.barWaits) (State.rd_wr_ne s apart.symm v)

/-- Writes of fields of the pages behind that of the power controller leave it. -/
theorem State.resetView_wr {f : Fld} {v i j : Nat} (behind : 0x3000 ≤ f.page.base 0) : (s.wr f v i j).resetView = s.resetView := by
  have base : f.page.base 0 ≤ f.page.base i := by cases f.page <;> simp [Page.base]
  have key : PWR_RESET_CAUSE_KIND.key 0 0 < 0x3000 * 8 := by decide
  refine State.resetView_wr_key (fun same => ?_) v
  rw [← same, Fld.key] at key
  omega

theorem State.resetView_foldl {α : Type} (g : State → α → State) (hg : ∀ (t : State) x, (g t x).resetView = t.resetView) (l : List α)
    (s : State) : (l.foldl g s).resetView = s.resetView := State.foldl_keep State.resetView g hg l s

theorem State.resetView_logFrom (a b c d e : Nat) : (s.logFrom a b c d e).resetView = s.resetView := by
  unfold State.logFrom
  split
  · rfl
  · exact State.resetView_wr (by decide)

theorem State.resetView_updPwr {f : PowerUnit → PowerUnit} (keeps : ∀ p, (f p).perst = p.perst) : (s.updPwr f).resetView = s.resetView :=
  congrArg (fun b => (⟨s.i3c.waiting, b, s.stk, s.coxes, s.barWaits, s.rd PWR_RESET_CAUSE_KIND⟩ : ResetView)) (keeps s.pwr)

theorem State.resetView_ibiRaise (n : Nat) : (s.ibiRaise n).resetView = s.resetView := by
  unfold State.ibiRaise
  split <;> rfl

/-! ### The ledger is applied (R631) -/

theorem State.resetView_setPhase (i : Inst) (n : Nat) : (s.setPhase i n).resetView = s.resetView := rfl
theorem State.resetView_ledgerNote (n : Nat) (i : Inst) (d : Nat) : (s.ledgerNote n i d).resetView = s.resetView := rfl

theorem State.resetView_pendKind (k : Nat) : (s.pendKind k).resetView = s.resetView :=
  (State.resetView_wr (by decide)).trans (State.resetView_wr (by decide))

theorem State.resetView_entered (i : Inst) : (s.entered i).resetView = s.resetView := by
  have done (u : State) (st : Nat) : (u.sprDone i st).resetView = u.resetView := by
    unfold State.sprDone
    split
    · exact (State.resetView_wr (by decide)).trans (State.resetView_wr (by decide))
    · rfl
  unfold State.entered
  rw [done, State.bump_eq, State.resetView_wr (by decide), State.cause_eq, State.resetView_wr (by decide), State.resetView_ledgerNote,
    State.logEv, State.resetView_logFrom, State.resetView_setPhase]

theorem State.resetView_setChState (e ch v : Nat) : (s.setChState e ch v).resetView = s.resetView := by
  unfold State.setChState State.dmaWr
  split
  · exact State.resetView_wr (by decide)
  · exact State.resetView_wr (by decide)

theorem State.resetView_useSpareLane (q lane : Nat) : (s.useSpareLane q lane).resetView = s.resetView :=
  (State.resetView_wr (by decide)).trans ((State.resetView_wr (by decide)).trans (State.resetView_wr (by decide)))

/-- The fields of the spare bank that is free lie behind the power controller's page. -/
theorem bankFld_behind (first scratch : Bool) :
    let f := if first = true then bankFld scratch 0 else bankFld scratch 1
    0x3000 ≤ f.1.page.base 0 ∧ 0x3000 ≤ f.2.page.base 0 := by
  cases first <;> cases scratch <;> decide

theorem State.resetView_startEntry (i : Inst) : (s.startEntry i).resetView = s.resetView := by
  unfold State.startEntry
  extract_lets f0 f v x ctl st
  obtain ⟨name, flag⟩ : 0x3000 ≤ f.1.page.base 0 ∧ 0x3000 ≤ f.2.page.base 0 := by
    simpa [f] using bankFld_behind (decide (s.rd f0.1 i.block = 0x7F)) (i.kind == 2)
  split
  · rw [State.resetView_setPhase, State.on_eq, State.resetView_wr flag, State.resetView_wr name]
  · split
    · have named : v.resetView = s.resetView := by
        show State.resetView (if _ then _ else _) = _
        split
        · exact State.resetView_wr (by decide)
        · exact State.resetView_wr (by decide)
      rw [State.resetView_entered, State.resetView_setChState, named]
    · split
      · rw [State.resetView_entered, State.resetView_useSpareLane]
      · split
        · exact State.resetView_entered i
        · rfl

/-- A retired item that is no port. -/
theorem State.resetView_markRetired {i : Inst} (noPort : i.kind ≠ 13) : (s.markRetired i).resetView = s.resetView := by
  unfold State.markRetired
  split
  · exact (State.resetView_wr (by decide)).trans (State.resetView_wr (by decide))
  · split
    · exact (State.resetView_wr (by decide)).trans rfl
    · split
      · split
        · exact State.resetView_wr (by decide)
        · exact State.resetView_wr (by decide)
      · rfl

theorem State.resetView_applyRetired (i : Inst) (phase : Nat) : (s.applyRetired i phase).resetView = s.resetView := by
  unfold State.applyRetired
  split
  · rfl
  next noPort =>
  split
  · unfold State.repair
    dsimp only
    split <;> rfl
  · split
    · split
      · extract_lets v c
        have core : v.resetView = s.resetView := State.resetView_wr (by decide)
        split
        · exact core
        · exact (State.resetView_wr (by decide)).trans (Eq.trans rfl core)
      · split
        · extract_lets f0 f
          obtain ⟨name, -⟩ : 0x3000 ≤ f.1.page.base 0 ∧ 0x3000 ≤ f.2.page.base 0 := by
            simpa [f] using bankFld_behind (decide (s.rd f0.1 i.block = 0x7F)) (i.kind == 2)
          exact State.resetView_wr name
        · split
          · split
            · exact State.resetView_wr (by decide)
            · exact State.resetView_wr (by decide)
          · rfl
    · extract_lets v
      have marked : v.resetView = s.resetView := State.resetView_markRetired noPort
      split
      · exact (State.resetView_pendKind _).trans marked
      · split
        · exact (State.resetView_startEntry i).trans marked
        · exact (State.resetView_pendKind _).trans marked

theorem State.resetView_applyLedger (s : State) : s.applyLedger.resetView = s.resetView := by
  unfold State.applyLedger
  extract_lets recs good marks seen v w
  have counted : w.resetView = s.resetView :=
    (State.resetView_wr (by decide)).trans ((State.resetView_wr (by decide)).trans rfl)
  exact (State.resetView_foldl _ (fun t q => State.resetView_applyRetired ..) marks w).trans counted

/-! ### The retained values come back (R672, R673) -/

/-- The cause of the last reset is no retained register. -/
theorem rwk_ne_cause : ∀ q ∈ rwkPages, (BLK_RETAIN_CTL_SKIP q.1).key q.2 0 ≠ PWR_RESET_CAUSE_KIND.key 0 0 ∧
    (BLK_RETAIN_CTL_DIRTY q.1).key q.2 0 ≠ PWR_RESET_CAUSE_KIND.key 0 0 ∧
    ∀ f ∈ (pageFields q.1).filter (fun f => f.acc == .rwk), f.key q.2 0 ≠ PWR_RESET_CAUSE_KIND.key 0 0 := by
  decide +kernel

/-- A fold over some elements whose steps leave the view does. -/
theorem State.resetView_foldl_mem {α : Type} (g : State → α → State) (l : List α)
    (hg : ∀ (t : State), ∀ x ∈ l, (g t x).resetView = t.resetView) (s : State) : (l.foldl g s).resetView = s.resetView := by
  induction l generalizing s with
  | nil => rfl
  | cons x l ih =>
    exact (ih (fun t y mem => hg t y (List.mem_cons_of_mem x mem)) (g s x)).trans (hg s x List.mem_cons_self)

theorem State.resetView_restoreAll (es : List (Nat × Nat × Nat)) : (s.restoreAll es).resetView = s.resetView := by
  refine State.resetView_foldl_mem _ _ (fun t q mem => ?_) s
  obtain ⟨skip, dirty, fields⟩ := rwk_ne_cause q mem
  exact (State.resetView_foldl_mem _ _ (fun t f mem => State.resetView_wr_key (fields f mem) _) _).trans
    ((State.resetView_wr_key dirty _).trans (State.resetView_wr_key skip _))

theorem State.resetView_restoreRetained : s.restoreRetained.resetView = s.resetView := by
  unfold State.restoreRetained
  split
  · rw [State.resetView_wr_key (by decide), State.resetView_restoreAll]
  · split
    · rw [State.resetView_updPwr, State.resetView_wr_key (by decide), State.resetView_wr_key (by decide), State.resetView_restoreAll]
      exact fun _ => rfl
    · rw [State.logEv, State.resetView_logFrom, State.resetView_wr_key (by decide), State.resetView_restoreAll]

theorem State.resetView_runImage (n : Nat) : (s.runImage n).resetView = s.resetView := by
  unfold State.runImage
  extract_lets f v w
  have named : v.resetView = s.resetView := by
    dsimp only [v]
    rw [State.resetView_wr_key (by decide), State.resetView_wr_key (by decide), State.resetView_wr_key (by decide),
      State.resetView_wr_key (by decide)]
  exact (State.resetView_logFrom ..).trans named

/-! ### Bring-up and warm reset (R666 to R669) -/

/-- The state from which bring-up takes the firmware: only the always-on domain has kept what it had, and the cause is shown. -/
def State.fromReset (s : State) (kind trigger : Nat) : State :=
  let s := tmpClear s.loseMain
  let s := pwrCounters.foldl (fun (t : State) f => t.wr f 0) s
  let s := if kind = 1 then pwrColdFields.foldl (fun (t : State) f => t.wr f 0) s else s
  ((((s.wr PWR_RESET_CAUSE_KIND kind).wr PWR_RESET_CAUSE_TRIGGER trigger).wr PWR_PAD_RELEASE_HELD 0).wr PWR_STAT_STEP 0).updPwr
    (fun p => { p with calm := 0, owed := none })

theorem State.bringUp_eq (s : State) (kind trigger : Nat) : s.bringUp kind trigger =
    match (s.fromReset kind trigger).fwChosen with
    | none => (s.fromReset kind trigger).bringUpFault 4
    | some n => (((((s.fromReset kind trigger).runImage n).restoreRetained).applyLedger).wr PWR_STAT_STATE 0).ibiRaise 7 := rfl

/-- A write of the cause changes the cause alone. -/
theorem State.resetView_wr_cause (v : Nat) :
    (s.wr PWR_RESET_CAUSE_KIND v).resetView = { s.resetView with cause := v % 2 ^ PWR_RESET_CAUSE_KIND.w } :=
  congrArg (ResetView.mk s.i3c.waiting s.pwr.perst s.stk s.coxes s.barWaits) (State.rd_wr_same ..)

theorem State.resetView_fromReset (s : State) (kind trigger : Nat) :
    (s.fromReset kind trigger).resetView = ⟨s.i3c.waiting, s.pwr.perst, default, [], [], kind % 4⟩ := by
  unfold State.fromReset
  extract_lets v w x
  have lost : { v.resetView with cause := kind % 4 } = ⟨s.i3c.waiting, s.pwr.perst, default, [], [], kind % 4⟩ := rfl
  have counters : w.resetView = v.resetView :=
    State.resetView_foldl_mem _ pwrCounters (fun t f mem => State.resetView_wr_key ((by decide : ∀ f ∈ pwrCounters,
      f.key 0 0 ≠ PWR_RESET_CAUSE_KIND.key 0 0) f mem) 0) v
  have cold : x.resetView = v.resetView := by
    dsimp only [x]
    split
    · exact (State.resetView_foldl_mem _ pwrColdFields (fun t f mem => State.resetView_wr_key ((by decide : ∀ f ∈ pwrColdFields,
        f.key 0 0 ≠ PWR_RESET_CAUSE_KIND.key 0 0) f mem) 0) w).trans counters
    · exact counters
  refine (State.resetView_updPwr (fun _ => rfl)).trans ?_
  rw [State.resetView_wr_key (by decide), State.resetView_wr_key (by decide), State.resetView_wr_key (by decide), State.resetView_wr_cause, cold]
  exact lost

theorem State.resetView_bringUp (s : State) (kind trigger : Nat) :
    (s.bringUp kind trigger).resetView = ⟨s.i3c.waiting, s.pwr.perst, default, [], [], kind % 4⟩ := by
  rw [State.bringUp_eq, ← s.resetView_fromReset kind trigger]
  split
  · rw [State.bringUpFault, State.resetView_ibiRaise, State.logEv, State.resetView_logFrom, State.resetView_wr_key (by decide),
      State.resetView_wr_key (by decide)]
  · rw [State.resetView_ibiRaise, State.resetView_wr_key (by decide), State.resetView_applyLedger, State.resetView_restoreRetained,
      State.resetView_runImage]

/-- A warm reset, whether it starts now or is owed, leaves PERST# and the transfer that waits. -/
theorem State.warmReset_keeps (s : State) (trigger : Nat) :
    (s.warmReset trigger).i3c.waiting = s.i3c.waiting ∧ (s.warmReset trigger).pwr.perst = s.pwr.perst := by
  have up (u : State) (k n : Nat) : (u.bringUp k n).i3c.waiting = u.i3c.waiting ∧ (u.bringUp k n).pwr.perst = u.pwr.perst :=
    ⟨congrArg ResetView.waiting (u.resetView_bringUp k n), congrArg ResetView.perst (u.resetView_bringUp k n)⟩
  unfold State.warmReset
  extract_lets st
  split
  · exact ⟨rfl, rfl⟩
  · split
    · exact ⟨rfl, rfl⟩
    · split
      · split
        · exact ⟨(up ..).1.trans (up ..).1, (up ..).2.trans (up ..).2⟩
        · exact ⟨rfl, rfl⟩
      · exact up ..

/-- In ROW and EASY, with no commit in progress, a warm reset starts at once (R666). -/
theorem State.warmReset_starts {trigger : Nat} (idle : s.is PWR_RET_STAT_BUSY = false) (awake : s.rd PWR_STAT_STATE ≤ 1) :
    s.warmReset trigger = s.bringUp 2 trigger := by
  unfold State.warmReset
  extract_lets st
  have small : st ≤ 1 := awake
  rw [if_neg (by simp [idle]; omega), if_neg (by omega), if_neg (by omega)]

/-- A transfer does not run when none waits. -/
theorem State.runWaiting_none (quiet : s.i3c.waiting = none) : s.runWaiting = s := by
  unfold State.runWaiting
  rw [quiet]

/-! ### PERST# (R667, R774) -/

/-- The device under PERST#. -/
def State.perstOn (s : State) : State := s.updPwr (fun p => { p with perst := true })

theorem perstAssertEffect_eq (s : State) : perstAssertEffect s = if s.front then s.perstOn.pcieDown.warmReset 0 else s.perstOn := rfl

theorem perstAssertEffect_keeps (s : State) :
    (perstAssertEffect s).i3c.waiting = s.i3c.waiting ∧ (perstAssertEffect s).pwr.perst = true := by
  obtain ⟨l, ps, down⟩ := s.perstOn.pcieDown_only
  rw [perstAssertEffect_eq]
  split
  · obtain ⟨waiting, perst⟩ := s.perstOn.pcieDown.warmReset_keeps 0
    rw [waiting, perst, down]
    exact ⟨rfl, rfl⟩
  · exact ⟨rfl, rfl⟩

/-- The command at its end: no transfer runs after it. -/
theorem exec_perstAssert (standby : s.pwr.standby = true) (released : s.pwr.perst = false) (quiet : s.i3c.waiting = none) :
    exec .perstAssert s = .next (s.commit (perstAssertEffect s)) := by
  have run : exec .perstAssert s = .next (s.commit (perstAssertEffect s).runWaiting) :=
    State.always_next (s := s) (ok := s.pwr.standby && !s.pwr.perst) (by simp [standby, released]) (fun s => (perstAssertEffect s).runWaiting)
  rwa [State.runWaiting_none ((perstAssertEffect_keeps s).1.trans quiet)] at run

/-- PERST_ASSERT of a front device in ROW or EASY with no commit in progress: a warm reset. -/
theorem perstAssertEffect_resets (front : s.front = true) (idle : s.is PWR_RET_STAT_BUSY = false) (awake : s.rd PWR_STAT_STATE ≤ 1) :
    ∃ w p, (perstAssertEffect s).resetView = ⟨w, p, default, [], [], 2⟩ := by
  have read (f : Fld) (apart : f.key 0 0 ∉ HIF_ERR_LINK_DOWN.key 0 0 :: linkKeys) : s.perstOn.pcieDown.rd f = s.rd f := by
    obtain ⟨shown, link⟩ := not_or.mp (fun mem => apart (List.mem_cons.mpr mem))
    exact (State.foot_rd s.perstOn.foot_pcieDown f 0 0 link).trans (State.rd_wr_ne _ shown _)
  rw [perstAssertEffect_eq, if_pos front, State.warmReset_starts]
  · exact ⟨_, _, State.resetView_bringUp ..⟩
  · rw [State.is, read _ (by decide)]
    exact idle
  · rw [read _ (by decide)]
    exact awake

/-- Settles O37: the link comes and goes, a function is reset, and PERST# resets the module. -/
theorem thePcieLinkComesAndGoes : Obligations.ThePcieLinkComesAndGoes := by
  refine ⟨?up, ?down, ?flr, ?assert, ?deassert⟩
  case up =>
    intro s width speed flit rails released back item speeds widths
    have ok : (!s.pwr.perst && !s.front && !s.groupHeld .hif 0 && (speed == 5 || speed == 6) && (width == 8 || width == 16) &&
        (flit == (speed == 6))) = true := by
      rcases speeds with ⟨rfl, rfl⟩ | ⟨rfl, rfl⟩ <;> simpa [released, back, item] using widths
    have foot : s.foot (pcieLinkUpEffect speed width flit s) linkKeys :=
      State.foot_wr_of (State.foot_wr_of (State.foot_wr_of (State.foot_wr (by simp [linkKeys])) (by simp [linkKeys])) (by simp [linkKeys]))
        (by simp [linkKeys])
    obtain ⟨run, store, regs⟩ := State.rails_foot rails ok (pcieLinkUpEffect speed width flit) foot
    refine ⟨_, run, ?_, ?_, ?_, store, regs⟩
    · exact (State.is_commit ..).trans (State.is_wr_one _ _ _ _ rfl)
    · rw [State.rd_commit]
      exact (State.rd_wr_place (by decide) ..).trans ((State.rd_wr_place (by decide) ..).trans ((State.rd_wr_place (by decide) ..).trans
        (State.rd_wr_same ..)))
    · rw [State.rd_commit]
      exact (State.rd_wr_place (by decide) ..).trans ((State.rd_wr_place (by decide) ..).trans (State.rd_wr_same ..))
  case down =>
    intro s rails front _
    have run : exec .linkDown s = .next (s.commit s.pcieDown) := State.rails_next rails front _
    obtain ⟨l, ps, only⟩ := s.pcieDown_only
    have foot : s.foot (s.commit s.pcieDown) (HIF_ERR_LINK_DOWN.key 0 0 :: linkKeys) :=
      State.foot_commit (State.foot_then (State.foot_wr (by simp)) (State.foot_mono s.foot_pcieDown (by simp)))
    refine ⟨_, run, ?_, ?_, ?_, ?_, foot.1⟩
    · exact (State.is_commit ..).trans s.pcieDown_front
    · exact (State.is_commit ..).trans s.pcieDown_shown
    · exact (congrArg State.hostReads only).trans rfl
    · exact (congrArg State.barWaits only).trans rfl
  case flr =>
    intro s f rails front below virtual runs
    have run : exec (.functionLevelReset f) s = .next (s.commit (flrEffect f s)) := State.rails_next rails (by simp [front, below]) _
    have effect : flrEffect f s = forceEffect .ctx f (s.msixReset f) := by rw [flrEffect, if_pos virtual]
    obtain ⟨drains, forced⟩ := forceEffect_ctx_drains (s := s.msixReset f) (f := f) runs
    rw [effect] at run
    exact ⟨_, run, (State.rd_commit ..).trans drains, (State.is_commit ..).trans forced⟩
  case assert =>
    intro s standby released quiet
    refine ⟨_, exec_perstAssert standby released quiet, (perstAssertEffect_keeps s).2, fun back => ?_, fun front idle awake => ?_⟩
    · have still : perstAssertEffect s = s.perstOn := by rw [perstAssertEffect_eq, back]; rfl
      rw [still]
      obtain ⟨store, regs⟩ : s.foot (s.commit s.perstOn) [] := State.foot_commit (State.foot_of_eq rfl rfl rfl rfl)
      exact ⟨store, regs, rfl⟩
    · obtain ⟨w, p, view⟩ := perstAssertEffect_resets front idle awake
      exact ⟨congrArg ResetView.stk view, congrArg ResetView.coxes view, congrArg ResetView.bars view,
        (State.rd_commit ..).trans (congrArg ResetView.cause view)⟩
  case deassert =>
    intro s asserted
    obtain ⟨store, regs⟩ : s.foot (s.commit (s.updPwr (fun p => { p with perst := false }))) [] :=
      State.foot_commit (State.foot_of_eq rfl rfl rfl rfl)
    exact ⟨_, State.always_next (s := s) asserted (fun s => s.updPwr (fun p => { p with perst := false })), rfl, store, regs⟩

end Sys2Proof.Machine
end

section
/-!
PROOF. What every command keeps to: it answers, it leaves the queue, one of the main dies needs their rails (R650, R660), and a command
of the stroke unit that is not accepted shows it (R67, R746, R747).
-/
namespace Sys2Proof.Machine

variable {s t : State}

/-! ### Every command answers (R716, R727) -/

/-- Settles O57: each command answers its effect or the state as it was, and `State.commit` gives back the queue. -/
theorem everyCommandRunsAndLeavesTheQueue : Obligations.EveryCommandRunsAndLeavesTheQueue := by
  intro i s
  obtain ⟨ok, u, run⟩ := exec_commits i s
  refine ⟨_, run, ?_⟩
  cases ok with
  | false => rfl
  | true => rfl

/-! ### The rails of the main dies (R650, R660) -/

/-- A command of the main dies acts under their rails (R650): where it acts, they are on. -/
theorem exec_rails {i : Instr} (main : alwaysOn i = false) (s : State) :
    ∃ (ok : Bool) (u : State), exec i s = .next (if s.railsUp && ok then s.commit u else s) := by
  cases i with
  | memoryRequest a r k b =>
    -- an address of no memory names no controller
    show ∃ (ok : Bool) (u : State), execMemoryRequest a r k b s = _
    unfold execMemoryRequest
    split
    · exact ⟨_, _, rfl⟩
    · exact ⟨false, s, by simp⟩
  | logTransfer | privateRead | readStatus | readLog _ | readIdentity _ | readPwr _ | writePwr _ | ackIbi _ | echo _ | readReg _
  | writeReg _ | readLedger _ | warmReset _ | spdmSend _ | spdmRecv _ | fwBegin _ | fwData _ | fwCommit _ | ibiRepeat | wakeReady | wake
  | padRelease _ | selfRefreshExit _ _ | pwrWarmReset _ | perstAssert | perstDeassert | retCommitDone | powerCheck _ | trip _
  | supplyLoss | supplyReturn | mateOpen | standbyStop | standbyStart _ | ledgerWrite | extest | idcode | samplePreload _ | clamp
  | highz | bypass | testLogicReset => cases main
  | _ => exact ⟨_, _, rfl⟩

/-- Settles O58: a command of the main dies runs under their rails. -/
theorem noMainDieCommandRunsWithoutItsRails : Obligations.NoMainDieCommandRunsWithoutItsRails := by
  intro i s off main
  obtain ⟨ok, u, run⟩ := exec_rails main s
  simpa [off] using run

/-! ### STK_CMD outside its state or starter (R67, R746, R747) -/

/-- The registers that show a command of the stroke unit as not accepted, and those that record a refused GO. -/
def refusedKeys : List Nat :=
  [STK_STAT_CFG_ERR.key 0 0, (BLK_STAT_CFG_ERR .stk).key 0 0, (BLK_INT_STAT .stk).key 0 0, STK_STAT_GO_ERR.key 0 0,
    STK_GO_FAULT_CAUSE.key 0 0, STK_GO_FAULT_DEV.key 0 0, STK_GO_FAULT_READY_COUNT.key 0 0, STK_GO_FAULT_VALID.key 0 0]

/-- What a command of the stroke unit that is not accepted leaves: both error bits are set, the unit is as it was, and only the registers
that show the refusal may have changed. -/
structure State.Refused (s t : State) : Prop where
  stkErr : t.is STK_STAT_CFG_ERR = true
  pageErr : t.is (BLK_STAT_CFG_ERR .stk) = true
  unit : t.stk = s.stk
  foot : s.foot t refusedKeys

theorem State.stkCfgErr_refused (s : State) : s.Refused s.stkCfgErr where
  stkErr := by
    rw [State.is, State.stkCfgErr, State.foot_rd (State.foot_cfgErr _ .stk 0) _ _ _ (by decide)]
    exact State.is_wr_one s STK_STAT_CFG_ERR 0 0 rfl
  pageErr := State.cfgErr_is _ .stk 0
  unit := rfl
  foot := State.foot_then (State.foot_wr (by simp [refusedKeys])) (State.foot_mono (State.foot_cfgErr _ .stk 0) (by simp [refusedKeys]))

/-- A further register of those that record the refusal. -/
theorem State.Refused.wr (h : s.Refused t) {f : Fld} (v : Nat) (hk : f.key 0 0 ∈ refusedKeys) (h1 : STK_STAT_CFG_ERR.key 0 0 ≠ f.key 0 0)
    (h2 : (BLK_STAT_CFG_ERR .stk).key 0 0 ≠ f.key 0 0) : s.Refused (t.wr f v) where
  stkErr := by rw [State.is, State.rd_wr_ne _ h1]; exact h.stkErr
  pageErr := by rw [State.is, State.rd_wr_ne _ h2]; exact h.pageErr
  unit := h.unit
  foot := State.foot_wr_of h.foot hk

theorem State.goFault_refused (s : State) (cause dev : Nat) : s.Refused (s.goFault cause dev) := by
  refine ((((s.stkCfgErr_refused.wr 1 ?_ ?_ ?_).wr _ ?_ ?_ ?_).wr _ ?_ ?_ ?_).wr _ ?_ ?_ ?_).wr 1 ?_ ?_ ?_
  all_goals decide

/-- A GO that does not find its conditions met is refused. -/
theorem goEffect_refused (h : ¬ (s.stkState = 1 ∧ s.starter = true ∧ s.stk.due = none ∧ s.rd STK_MEMBERS_COUNT ≤ s.stk.readys.length + 1 ∧
    ∀ r, r ∈ s.stk.readys → s.readyCause r.2 = 0)) : s.Refused (goEffect s) := by
  unfold goEffect
  split
  · exact s.stkCfgErr_refused
  next armed =>
    split
    · exact s.goFault_refused 0 0
    next full =>
      split
      · exact s.goFault_refused _ _
      next matching =>
        simp only [not_or, Bool.not_eq_true', not_not, Option.isSome_iff_ne_none, ne_eq, Bool.not_eq_false] at armed
        obtain ⟨state, starter, due⟩ := armed
        exact absurd ⟨state, starter, due, by omega, fun r hr => by simpa using List.find?_eq_none.1 matching r hr⟩ h

theorem stopCmdEffect_refused (h : ¬ (s.stkState = 2 ∧ s.starter = true)) : s.Refused (stopCmdEffect s) :=
  by
  rw [stopCmdEffect, if_neg h]; exact s.stkCfgErr_refused

theorem resumeCmdEffect_refused (h : ¬ (s.stkState = 3 ∧ s.starter = true)) : s.Refused (resumeCmdEffect s) :=
  by
  rw [resumeCmdEffect, if_neg h]; exact s.stkCfgErr_refused

theorem abandonCmdEffect_refused (h : ¬ (s.stkState = 3 ∧ s.starter = true)) : s.Refused (abandonCmdEffect s) :=
  by
  rw [abandonCmdEffect, if_neg h]; exact s.stkCfgErr_refused

/-- Settles O59: each of the four commands is refused, and what a refusal leaves is what the statement says. -/
theorem stkCmdOutsideItsStateIsIgnored : Obligations.StkCmdOutsideItsStateIsIgnored := by
  intro i s hr outside
  obtain ⟨f, run, refused⟩ : ∃ f, exec i s = s.rails true f ∧ s.Refused (f s) := by
    rcases outside with ⟨rfl, h⟩ | ⟨rfl, h⟩ | ⟨rfl | rfl, h⟩
    · exact ⟨_, rfl, goEffect_refused h⟩
    · exact ⟨_, rfl, stopCmdEffect_refused h⟩
    · exact ⟨_, rfl, resumeCmdEffect_refused h⟩
    · exact ⟨_, rfl, abandonCmdEffect_refused h⟩
  obtain ⟨next, foot⟩ := State.rails_foot hr rfl f refused.foot
  refine ⟨_, run.trans next, ?_, ?_, refused.unit, ?_, ?_, foot⟩
  · rw [State.is_commit]; exact refused.stkErr
  · rw [State.is_commit]; exact refused.pageErr
  · exact State.foot_rd foot STK_STAT_STATE 0 0 (by decide)
  · exact State.foot_rd foot STK_STROKE 0 0 (by decide)

end Sys2Proof.Machine
end

section
/-!
PROOF. PWR_CMD during a request and of the present state (R655), and the slots of the retention store (R671, R674 to R676).
-/
namespace Sys2Proof.Machine

variable {s : State}

/-! ### PWR_CMD (R655) -/

/-- The four requests are one operation with the state asked for. -/
theorem exec_powerCmd {k : Nat} {c : Instr}
    (h : k = 0 ∧ c = .enterRow ∨ k = 1 ∧ c = .enterEasy ∨ k = 2 ∧ c = .enterHold ∨ k = 3 ∧ c = .enterDormant) (s : State) :
    exec c s = s.rails true (fun s => s.powerCmd k) := by
  rcases h with ⟨rfl, rfl⟩ | ⟨rfl, rfl⟩ | ⟨rfl, rfl⟩ | ⟨rfl, rfl⟩ <;> rfl

theorem State.powerCmd_during (h : s.pwr.req.isSome = true) (k : Nat) : s.powerCmd k = s.cfgErr .pwr := if_pos h

theorem State.powerCmd_same {k : Nat} (h : s.pwr.req = none) (hk : s.rd PWR_STAT_STATE = k) : s.powerCmd k = s.entryDone :=
  (if_neg (by simp [h])).trans (if_pos hk)

/-- The registers that show the outcome of a request. -/
def outcomeKeys : List Nat :=
  [PWR_STAT_LAST_RESULT.key 0 0, PWR_STAT_REASON.key 0 0, PWR_STAT_BLOCK_TYPE.key 0 0, PWR_STAT_BLOCK_INSTANCE.key 0 0]

theorem State.foot_entryDone (s : State) : s.foot s.entryDone outcomeKeys := by
  refine State.foot_wr_of (State.foot_wr_of (State.foot_wr_of (State.foot_wr ?_) ?_) ?_) ?_ <;> simp [outcomeKeys]

theorem State.entryDone_result (s : State) : s.entryDone.rd PWR_STAT_LAST_RESULT = 1 :=
  (State.rd_wr_ne _ (by decide) _).trans ((State.rd_wr_ne _ (by decide) _).trans ((State.rd_wr_ne _ (by decide) _).trans
    (State.rd_wr_same ..)))

theorem State.entryDone_reason (s : State) : s.entryDone.rd PWR_STAT_REASON = 0 :=
  (State.rd_wr_ne _ (by decide) _).trans ((State.rd_wr_ne _ (by decide) _).trans (State.rd_wr_same ..))

/-- Settles O46: a request in progress is the first test of PWR_CMD, the state asked for the second. -/
theorem pwrCmdDuringARequestIsIgnored : Obligations.PwrCmdDuringARequestIsIgnored := by
  intro s k c hr hc
  refine ⟨fun during => ?_, fun idle state => ?_⟩
  · have eff := State.powerCmd_during during k
    obtain ⟨run, foot⟩ := State.rails_foot hr rfl (fun s => s.powerCmd k) (eff ▸ s.foot_cfgErr .pwr 0)
    refine ⟨_, (exec_powerCmd hc s).trans run, ?_, ?_, ?_, foot⟩
    · rw [State.is_commit, eff]; exact s.cfgErr_is .pwr 0
    all_goals rw [eff]; rfl
  · have eff := State.powerCmd_same idle state
    obtain ⟨run, foot⟩ := State.rails_foot hr rfl (fun s => s.powerCmd k) (eff ▸ s.foot_entryDone)
    refine ⟨_, (exec_powerCmd hc s).trans run, ?_, ?_, ?_, foot⟩
    · rw [State.rd_commit, eff]; exact s.entryDone_result
    · rw [State.rd_commit, eff]; exact s.entryDone_reason
    · rw [eff]; rfl

/-! ### The retention store (R671, R674 to R676) -/

/-- The flags of page items are clear. -/
def State.cleanPages (s : State) (l : List (Page × Nat)) : State :=
  l.foldl (fun (t : State) q => t.wr (BLK_RETAIN_CTL_DIRTY q.1) 0 q.2) s

/-- Clearing flags changes registers only. -/
theorem State.cleanPages_only (l : List (Page × Nat)) : ∀ s : State, ∃ r, s.cleanPages l = { s with regs := r } := by
  induction l with
  | nil => exact fun s => ⟨s.regs, rfl⟩
  | cons q l ih => exact fun s => ih (s.wr (BLK_RETAIN_CTL_DIRTY q.1) 0 q.2)

/-- A clear flag stays clear when another, or the same, is cleared. -/
theorem State.rd_clean_zero (p q : Page × Nat) (h : s.rd (BLK_RETAIN_CTL_DIRTY p.1) p.2 = 0) :
    (s.wr (BLK_RETAIN_CTL_DIRTY q.1) 0 q.2).rd (BLK_RETAIN_CTL_DIRTY p.1) p.2 = 0 := by
  by_cases same : (BLK_RETAIN_CTL_DIRTY p.1).key p.2 0 = (BLK_RETAIN_CTL_DIRTY q.1).key q.2 0
  · have reset : (BLK_RETAIN_CTL_DIRTY p.1).resetAt 0 = (BLK_RETAIN_CTL_DIRTY q.1).resetAt 0 := by
      simp [Fld.resetAt, BLK_RETAIN_CTL_DIRTY]
    rw [State.rd, same, reset]
    exact State.rd_wr_same s (BLK_RETAIN_CTL_DIRTY q.1) 0 q.2 0
  · rw [State.rd_wr_ne s same, h]

/-- After the flags of some page items are cleared, each of them reads 0. -/
theorem State.cleanPages_clear (p : Page × Nat) (l : List (Page × Nat)) :
    ∀ s : State, p ∈ l ∨ s.rd (BLK_RETAIN_CTL_DIRTY p.1) p.2 = 0 → (s.cleanPages l).rd (BLK_RETAIN_CTL_DIRTY p.1) p.2 = 0 := by
  induction l with
  | nil => exact fun s h => h.resolve_left List.not_mem_nil
  | cons q l ih =>
    intro s h
    refine ih (s.wr (BLK_RETAIN_CTL_DIRTY q.1) 0 q.2) ?_
    rcases h with mem | zero
    · obtain rfl | mem := List.mem_cons.1 mem
      · exact .inr (State.rd_wr_same ..)
      · exact .inl mem
    · exact .inr (s.rd_clean_zero p q zero)

/-- The power controller's page and the device's hold retained fields. -/
theorem pwr_dev_retained : (Page.pwr, 0) ∈ rwkPages ∧ (Page.dev, 0) ∈ rwkPages := by decide +kernel

@[simp] theorem State.setRetSlot_regs (s : State) (n : Nat) (r : RetSlot) : (s.setRetSlot n r).regs = s.regs := by
  unfold State.setRetSlot; split <;> rfl

@[simp] theorem State.setRetSlot_pwr (s : State) (n : Nat) (r : RetSlot) : (s.setRetSlot n r).pwr = s.pwr := by
  unfold State.setRetSlot; split <;> rfl

@[simp] theorem State.setRetSlot_waiting (s : State) (n : Nat) (r : RetSlot) : (s.setRetSlot n r).i3c = s.i3c := by
  unfold State.setRetSlot; split <;> rfl

theorem State.foot_setRetSlot {ks : List Nat} (s : State) (n : Nat) (r : RetSlot) : s.foot (s.setRetSlot n r) ks := by
  unfold State.setRetSlot
  split <;> exact State.foot_of_eq rfl rfl rfl rfl

@[simp] theorem State.retSlot_setRetSlot (s : State) (n : Nat) (r : RetSlot) : (s.setRetSlot n r).retSlot n = r := by
  by_cases h : n = 0 <;> simp [State.setRetSlot, State.retSlot, h]

/-- A slot that is written leaves the other. -/
theorem State.retSlot_setRetSlot_other (s : State) {n : Nat} (h : n < 2) (r : RetSlot) :
    (s.setRetSlot n r).retSlot (1 - n) = s.retSlot (1 - n) := by
  obtain rfl | rfl : n = 0 ∨ n = 1 := by omega
  · rfl
  · rfl

/-- The slot that a commit writes, as it is until its CHECK stands. -/
def State.newSlot (s : State) : RetSlot :=
  { good := false, seq := max s.ret0.seq s.ret1.seq + 1, fw := s.rd DEV_FW_VERSION, entries := s.retEntries }

theorem retCommitEffect_starts (h : s.is PWR_RET_STAT_BUSY = false) : retCommitEffect s =
    ((((s.cleanPages rwkPages).setRetSlot (1 - s.pwr.lastSlot % 2) s.newSlot).on PWR_RET_STAT_BUSY).updPwr
      (fun p => { p with lastSlot := 1 - s.pwr.lastSlot % 2 })) := if_neg (by simp [h])

theorem retCommitEffect_busy (h : s.is PWR_RET_STAT_BUSY = true) : retCommitEffect s = s.cfgErr .pwr := if_pos h

/-- COMMIT while no commit is in progress (R674, R675). -/
theorem exec_pwrRetCommit (hr : s.railsUp = true) (h : s.is PWR_RET_STAT_BUSY = false) :
    let n := 1 - s.pwr.lastSlot % 2
    ∃ t, exec .pwrRetCommit s = .next t ∧ t.is PWR_RET_STAT_BUSY = true ∧ t.pwr.lastSlot = n ∧ t.retSlot n = s.newSlot ∧
      t.retSlot (1 - n) = s.retSlot (1 - n) ∧ t.rd (BLK_RETAIN_CTL_DIRTY .pwr) = 0 ∧ t.rd (BLK_RETAIN_CTL_DIRTY .dev) = 0 ∧
      s.sameStore t := by
  intro n
  have run : exec .pwrRetCommit s = .next (s.commit (retCommitEffect s)) := State.rails_next hr rfl retCommitEffect
  rw [retCommitEffect_starts h] at run
  obtain ⟨r, only⟩ := s.cleanPages_only rwkPages
  have below : n < 2 := by omega
  obtain ⟨pwr, dev⟩ := pwr_dev_retained
  have clear (p : Page) (mem : (p, 0) ∈ rwkPages) (apart : (BLK_RETAIN_CTL_DIRTY p).key 0 0 ≠ PWR_RET_STAT_BUSY.key 0 0) :
      (((s.cleanPages rwkPages).setRetSlot n s.newSlot).on PWR_RET_STAT_BUSY).rd (BLK_RETAIN_CTL_DIRTY p) = 0 := by
    rw [State.on_eq, State.rd_wr_ne _ apart, State.rd_congr (State.setRetSlot_regs ..)]
    exact State.cleanPages_clear (p, 0) rwkPages s (.inl mem)
  refine ⟨_, run, ?_, rfl, ?_, ?_, ?_, ?_, ?_⟩
  · rw [State.is_commit]
    exact State.is_wr_one _ PWR_RET_STAT_BUSY 0 0 rfl
  · exact State.retSlot_setRetSlot ..
  · refine (State.retSlot_setRetSlot_other (s.cleanPages rwkPages) below s.newSlot).trans ?_
    rw [only]
    rfl
  · exact (State.rd_commit ..).trans (clear .pwr pwr (by decide))
  · exact (State.rd_commit ..).trans (clear .dev dev (by decide))
  · have kept : s.sameStore (s.cleanPages rwkPages) := by
      rw [only]
      exact ⟨fun _ => rfl, fun _ => rfl⟩
    have written := ((s.cleanPages rwkPages).foot_setRetSlot (ks := []) n s.newSlot).1
    exact ⟨fun a => (State.rdByte_commit ..).trans ((written.1 a).trans (kept.1 a)),
      fun k => (State.tok_commit ..).trans ((written.2 k).trans (kept.2 k))⟩

/-- COMMIT during a commit (R674). -/
theorem exec_pwrRetCommit_busy (hr : s.railsUp = true) (h : s.is PWR_RET_STAT_BUSY = true) :
    ∃ t, exec .pwrRetCommit s = .next t ∧ t.is (BLK_STAT_CFG_ERR .pwr) = true ∧ t.ret0 = s.ret0 ∧ t.ret1 = s.ret1 ∧
      s.foot t [(BLK_STAT_CFG_ERR .pwr).key 0 0, (BLK_INT_STAT .pwr).key 0 0] := by
  have eff := retCommitEffect_busy h
  obtain ⟨run, foot⟩ := State.rails_foot hr rfl retCommitEffect (eff ▸ s.foot_cfgErr .pwr 0)
  refine ⟨_, run, ?_, ?_, ?_, foot⟩
  · rw [State.is_commit, eff]; exact s.cfgErr_is .pwr 0
  all_goals rw [eff]; rfl

/-- The counter of a slot's commits. -/
def commitsFld (n : Nat) : Fld := if n = 0 then PWR_RET_COMMITS_SLOT0 else PWR_RET_COMMITS_SLOT1

/-- The slot with its CHECK written, and the commit shown as done. -/
def State.slotDone (s : State) (n : Nat) : State :=
  (((s.setRetSlot n { s.retSlot n with good := true }).wr PWR_RET_STAT_BUSY 0).wr PWR_RET_STAT_SEQUENCE (s.retSlot n).seq).bump (commitsFld n)

theorem State.slotDone_pwr (s : State) (n : Nat) : (s.slotDone n).pwr = s.pwr := s.setRetSlot_pwr n _

theorem retCommitDoneEffect_eq (h : s.pwr.owed = none) : retCommitDoneEffect s = s.slotDone (s.pwr.lastSlot % 2) := by
  have owed : (s.slotDone (s.pwr.lastSlot % 2)).pwr.owed = none := (congrArg PowerUnit.owed (s.slotDone_pwr _)).trans h
  show (match (s.slotDone (s.pwr.lastSlot % 2)).pwr.owed with | some t => _ | none => s.slotDone (s.pwr.lastSlot % 2)) = _
  rw [owed]

/-- The registers that show that a commit is done. -/
def slotDoneKeys : List Nat := [PWR_RET_STAT_BUSY.key 0 0, PWR_RET_STAT_SEQUENCE.key 0 0, PWR_RET_COMMITS_SLOT0.key 0 0,
  PWR_RET_COMMITS_SLOT1.key 0 0]

theorem commitsFld_key (n : Nat) : (commitsFld n).key 0 0 = PWR_RET_COMMITS_SLOT0.key 0 0 ∨
    (commitsFld n).key 0 0 = PWR_RET_COMMITS_SLOT1.key 0 0 := by
  unfold commitsFld; split
  · exact .inl rfl
  · exact .inr rfl

theorem State.foot_slotDone (s : State) (n : Nat) : s.foot (s.slotDone n) slotDoneKeys := by
  refine State.foot_wr_of (State.foot_wr_of (State.foot_wr_of (s.foot_setRetSlot n _) ?_) ?_) ?_
  · simp [slotDoneKeys]
  · simp [slotDoneKeys]
  · rcases commitsFld_key n with e | e <;> simp [slotDoneKeys, e]

/-- A register that is no counter of commits. -/
theorem State.rd_slotDone {f : Fld} (h0 : f.key 0 0 ≠ PWR_RET_COMMITS_SLOT0.key 0 0) (h1 : f.key 0 0 ≠ PWR_RET_COMMITS_SLOT1.key 0 0)
    (s : State) (n : Nat) : (s.slotDone n).rd f =
      (((s.setRetSlot n { s.retSlot n with good := true }).wr PWR_RET_STAT_BUSY 0).wr PWR_RET_STAT_SEQUENCE (s.retSlot n).seq).rd f := by
  refine State.rd_wr_ne _ ?_ _
  rcases commitsFld_key n with e | e <;> rwa [e]

/-- RET_COMMIT_DONE with nothing owed (R674). -/
theorem exec_retCommitDone (hs : s.pwr.standby = true) (hb : s.is PWR_RET_STAT_BUSY = true) (ho : s.pwr.owed = none)
    (quiet : s.i3c.waiting = none) :
    let n := s.pwr.lastSlot % 2
    ∃ t, exec .retCommitDone s = .next t ∧ t.is PWR_RET_STAT_BUSY = false ∧ t.retSlot n = { s.retSlot n with good := true } ∧
      t.retSlot (1 - n) = s.retSlot (1 - n) ∧ t.rd PWR_RET_STAT_SEQUENCE = (s.retSlot n).seq % 2 ^ PWR_RET_STAT_SEQUENCE.w ∧
      s.foot t slotDoneKeys := by
  intro n
  have waits : (s.slotDone n).i3c.waiting = none := (congrArg I3cUnit.waiting (s.setRetSlot_waiting n _)).trans quiet
  have eff : (retCommitDoneEffect s).runWaiting = s.slotDone n := by
    rw [retCommitDoneEffect_eq ho, State.runWaiting_none waits]
  have run : exec .retCommitDone s = .next (s.commit (retCommitDoneEffect s).runWaiting) :=
    State.always_next (s := s) (ok := s.pwr.standby && s.is PWR_RET_STAT_BUSY) (by simp [hs, hb])
      (fun s => (retCommitDoneEffect s).runWaiting)
  rw [eff] at run
  have below : n < 2 := by omega
  refine ⟨_, run, ?_, State.retSlot_setRetSlot .., State.retSlot_setRetSlot_other s below _, ?_, State.foot_commit (s.foot_slotDone n)⟩
  · rw [State.is_commit, State.is, State.rd_slotDone (by decide) (by decide), State.rd_wr_ne _ (by decide), State.rd_wr_same]
    rfl
  · rw [State.rd_commit, State.rd_slotDone (by decide) (by decide), State.rd_wr_same]

/-- Settles O47: COMMIT, the end of a commit and INVALIDATE, one after the other. -/
theorem settingsAreCommittedToASlot : Obligations.SettingsAreCommittedToASlot := by
  intro s
  refine ⟨exec_pwrRetCommit, fun hr busy => ?_, fun hs hb ho quiet => ?_, fun hr => ?_⟩
  · obtain ⟨t, run, err, slot0, slot1, store, regs⟩ := exec_pwrRetCommit_busy hr busy
    exact ⟨t, run, err, slot0, slot1, store, regs⟩
  · obtain ⟨t, run, idle, good, other, seq, store, regs⟩ := exec_retCommitDone hs hb ho quiet
    exact ⟨t, run, idle, good, other, seq, store, regs⟩
  · obtain ⟨run, foot⟩ := State.rails_foot (ks := []) hr rfl invalidateEffect (State.foot_of_eq rfl rfl rfl rfl)
    exact ⟨_, run, rfl, rfl, foot⟩

end Sys2Proof.Machine
end

section
/-!
PROOF. The power states are entered and left (R650 to R655, R658 to R660, R690): the handshake with its outcomes, the wake, the pads.
-/
namespace Sys2Proof.Machine

variable {s t : State}

/-! ### The entry handshake (R650 to R655) -/

/-- In ROW a request for another state is noted, and the blocks are asked at once. -/
def State.requested (s : State) (r : PowerReq) : State := (s.wr PWR_STAT_STATE 5).updPwr (fun p => { p with req := some r })

theorem State.powerCmd_asks {k : Nat} (row : s.rd PWR_STAT_STATE = 0) (idle : s.pwr.req = none) (hk : k ≠ 0) :
    let r : PowerReq := { target := k, origin := 0, start := s.clock, agreed := false, block := (0, 0) }
    s.powerCmd k = (s.requested r).askRound r := by
  simp only [State.powerCmd, State.requested, idle, row, hk, hk.symm]
  rfl

/-- No block stands lowest in a list of none. -/
theorem lowestBlock_none {l : List (Page × Nat)} {f : Page × Nat → Bool} (h : ∀ b, b ∈ l → f b = false) : lowestBlock (l.filter f) = none := by
  rw [List.filter_eq_nil_iff.2 (fun b mem => by simp [h b mem])]
  rfl

/-- A request in which every block has accepted. -/
def State.agreed (s : State) (r : PowerReq) : State := s.updPwr (fun p => { p with req := some { r with agreed := true } })

theorem State.askRound_agrees {r : PowerReq} (h : ∀ b, b ∈ s.asked' → s.askBlock r.target b.1 b.2 = .accept) :
    s.askRound r = s.agreed r := by
  have refuses : lowestBlock (s.asked'.filter (fun b => (s.askBlock r.target b.1 b.2).reason != 0)) = none :=
    lowestBlock_none (fun b mem => by rw [h b mem]; rfl)
  have defers : lowestBlock (s.asked'.filter (fun b => s.askBlock r.target b.1 b.2 == .defer)) = none :=
    lowestBlock_none (fun b mem => by rw [h b mem]; rfl)
  unfold State.askRound
  dsimp only
  rw [refuses, defers]
  rfl

theorem State.askRound_refuses {r : PowerReq} {b : Page × Nat}
    (h : lowestBlock (s.asked'.filter (fun x => (s.askBlock r.target x.1 x.2).reason != 0)) = some b) :
    s.askRound r = s.failEntry r.origin b.1.typeCode (b.2 % 256) (s.askBlock r.target b.1 b.2).reason := by
  unfold State.askRound
  dsimp only
  rw [h]

/-- What a request that fails writes. -/
def State.failure (s : State) (origin type inst reason : Nat) : State :=
  ((((s.wr PWR_STAT_STATE origin).wr PWR_STAT_LAST_RESULT 2).wr PWR_STAT_REASON reason).wr PWR_STAT_BLOCK_TYPE type).wr
    PWR_STAT_BLOCK_INSTANCE inst

theorem State.rd_failEntry {f : Fld} (h : f.key 0 0 ≠ PWR_PC_REFUSALS.key 0 0) (s : State) (origin type inst reason : Nat) :
    (s.failEntry origin type inst reason).rd f = (s.failure origin type inst reason).rd f :=
  (s.failure origin type inst reason).rd_wr_ne h _

/-- The registers that a failed request may change. -/
def failureKeys : List Nat := PWR_PC_REFUSALS.key 0 0 :: PWR_STAT_STATE.key 0 0 :: outcomeKeys

theorem State.foot_failure (s : State) (origin type inst reason : Nat) : s.foot (s.failure origin type inst reason) failureKeys := by
  refine State.foot_wr_of (State.foot_wr_of (State.foot_wr_of (State.foot_wr_of (State.foot_wr ?_) ?_) ?_) ?_) ?_ <;>
    simp [failureKeys, outcomeKeys]

theorem State.foot_failEntry (s : State) (origin type inst reason : Nat) : s.foot (s.failEntry origin type inst reason) failureKeys :=
  State.foot_then (s.foot_failure origin type inst reason)
    (State.foot_upd_of (State.foot_wr (f := PWR_PC_REFUSALS) (List.mem_cons_self ..)) rfl rfl rfl rfl)

/-- What a request that has failed shows. -/
theorem State.failEntry_shows (s : State) (origin type inst reason : Nat) :
    let t := s.failEntry origin type inst reason
    t.rd PWR_STAT_STATE = origin % 8 ∧ t.rd PWR_STAT_LAST_RESULT = 2 ∧ t.rd PWR_STAT_REASON = reason % 16 ∧
      t.rd PWR_STAT_BLOCK_TYPE = type % 128 ∧ t.rd PWR_STAT_BLOCK_INSTANCE = inst % 256 ∧ t.pwr.req = none ∧ s.sameStore t := by
  refine ⟨?_, ?_, ?_, ?_, ?_, rfl, (s.foot_failEntry origin type inst reason).1⟩
  all_goals rw [State.rd_failEntry (by decide), State.failure]
  · rw [State.rd_wr_ne _ (by decide), State.rd_wr_ne _ (by decide), State.rd_wr_ne _ (by decide), State.rd_wr_ne _ (by decide),
      State.rd_wr_same]
    rfl
  · rw [State.rd_wr_ne _ (by decide), State.rd_wr_ne _ (by decide), State.rd_wr_ne _ (by decide), State.rd_wr_same]
    rfl
  · rw [State.rd_wr_ne _ (by decide), State.rd_wr_ne _ (by decide), State.rd_wr_same]
    rfl
  · rw [State.rd_wr_ne _ (by decide), State.rd_wr_same]
    rfl
  · rw [State.rd_wr_same]
    rfl

/-- ENTER_EASY, ENTER_HOLD and ENTER_DORMANT where every block accepts. -/
theorem exec_enter_agreed {k : Nat} {c : Instr} (row : s.rd PWR_STAT_STATE = 0) (idle : s.pwr.req = none)
    (hc : k = 1 ∧ c = .enterEasy ∨ k = 2 ∧ c = .enterHold ∨ k = 3 ∧ c = .enterDormant) {r : PowerReq}
    (hr : r = { target := k, origin := 0, start := s.clock, agreed := false, block := (0, 0) })
    (h : ∀ b, b ∈ (s.requested r).asked' → (s.requested r).askBlock k b.1 b.2 = .accept) :
    ∃ t, exec c s = .next t ∧ t.rd PWR_STAT_STATE = 5 ∧ t.pwr.req = some { r with agreed := true } ∧ s.foot t [PWR_STAT_STATE.key 0 0] := by
  subst hr
  have eff := (State.powerCmd_asks row idle (by omega : k ≠ 0)).trans (State.askRound_agrees h)
  have foot : s.foot (s.powerCmd k) [PWR_STAT_STATE.key 0 0] := by
    rw [eff]
    exact State.foot_upd_of (State.foot_wr (f := PWR_STAT_STATE) (v := 5) (List.mem_singleton_self _)) rfl rfl rfl rfl
  obtain ⟨run, foot⟩ := State.rails_foot (State.railsUp_row row) rfl (fun s => s.powerCmd k) foot
  refine ⟨_, (exec_powerCmd (.inr hc) s).trans run, ?_, ?_, foot⟩
  · rw [State.rd_commit, eff]
    exact State.rd_wr_same s PWR_STAT_STATE 5 0 0
  · rw [eff]; rfl

/-- The same where one refuses: the request has failed. -/
theorem exec_enter_refused {k : Nat} {c : Instr} (row : s.rd PWR_STAT_STATE = 0) (idle : s.pwr.req = none)
    (hc : k = 1 ∧ c = .enterEasy ∨ k = 2 ∧ c = .enterHold ∨ k = 3 ∧ c = .enterDormant) {r : PowerReq}
    (hr : r = { target := k, origin := 0, start := s.clock, agreed := false, block := (0, 0) }) {b : Page × Nat}
    (h : lowestBlock ((s.requested r).asked'.filter (fun x => ((s.requested r).askBlock k x.1 x.2).reason != 0)) = some b) :
    exec c s = .next (s.commit ((s.requested r).failEntry 0 b.1.typeCode (b.2 % 256) ((s.requested r).askBlock k b.1 b.2).reason)) := by
  subst hr
  have eff := (State.powerCmd_asks row idle (by omega : k ≠ 0)).trans (State.askRound_refuses h)
  rw [exec_powerCmd (.inr hc) s, State.rails_next (State.railsUp_row row) rfl, eff]

/-- Work in EASY finds the module in ROW. -/
theorem State.easyWake_state (h : s.rd PWR_STAT_STATE = 1) : s.easyWake.rd PWR_STAT_STATE = 0 := by
  rw [State.easyWake, if_pos h, State.logPower, State.logEv, State.rd_logFrom _ (by decide)]
  exact State.rd_wr_same ..

theorem State.powerCmd_row (awake : s.rd PWR_STAT_STATE = 0 ∨ s.rd PWR_STAT_STATE = 1) (idle : s.pwr.req = none) :
    s.powerCmd 0 = s.easyWake.entryDone := by
  rcases awake with row | easy
  · rw [State.powerCmd_same idle row, State.easyWake_row row]
  · simp [State.powerCmd, idle, easy]

theorem State.rd_entryDone (s : State) : s.entryDone.rd PWR_STAT_STATE = s.rd PWR_STAT_STATE := State.foot_rd s.foot_entryDone _ 0 0 (by decide)

/-- ENTER_ROW without a request. -/
theorem exec_enterRow (idle : s.pwr.req = none) (awake : s.rd PWR_STAT_STATE = 0 ∨ s.rd PWR_STAT_STATE = 1) :
    ∃ t, exec .enterRow s = .next t ∧ t.rd PWR_STAT_STATE = 0 ∧ t.rd PWR_STAT_LAST_RESULT = 1 ∧
      s.foot t (PWR_STAT_STATE.key 0 0 :: outcomeKeys ++ [LOG_DROPPED.key 0 0]) := by
  have rails : s.railsUp = true := by rcases awake with h | h <;> simp [State.railsUp, h]
  have eff := State.powerCmd_row awake idle
  have foot : s.foot (s.powerCmd 0) (PWR_STAT_STATE.key 0 0 :: outcomeKeys ++ [LOG_DROPPED.key 0 0]) := by
    rw [eff]
    exact State.foot_then (State.foot_easyWake (by simp) (by simp)) (State.foot_mono (State.foot_entryDone _) (by simp [outcomeKeys]))
  obtain ⟨run, foot⟩ := State.rails_foot rails rfl (fun s => s.powerCmd 0) foot
  refine ⟨_, run, ?_, ?_, foot⟩
  · rw [State.rd_commit, eff, State.rd_entryDone]
    rcases awake with row | easy
    · rw [State.easyWake_row row, row]
    · exact State.easyWake_state easy
  · rw [State.rd_commit, eff]
    exact State.entryDone_result _

section
variable {r : PowerReq} {ms : Nat} (rails : s.railsUp = true) (req : s.pwr.req = some r) (fresh : r.agreed = false)
include rails req fresh

theorem exec_askRound : exec (.askRound ms) s = .next (s.commit (askRoundEffect ms s)) :=
  State.rails_next rails (by simp [req, fresh]) (askRoundEffect ms)

/-- ASK_ROUND past the longest deferral (R653). -/
theorem exec_askRound_late (late : r.start + s.rd PWR_DEFER_MAX_MS * 16000000 < s.clock + ms * 16000000) :
    exec (.askRound ms) s = .next (s.commit (s.failEntry r.origin r.block.1 r.block.2 7)) := by
  rw [exec_askRound rails req fresh]
  simp only [askRoundEffect, req, if_pos late]

/-- ASK_ROUND in time, where every block accepts (R653). -/
theorem exec_askRound_agreed (inTime : s.clock + ms * 16000000 ≤ r.start + s.rd PWR_DEFER_MAX_MS * 16000000)
    (h : ∀ b, b ∈ (s.at (s.clock + ms * 16000000)).asked' → (s.at (s.clock + ms * 16000000)).askBlock r.target b.1 b.2 = .accept) :
    exec (.askRound ms) s = .next (s.commit ((s.at (s.clock + ms * 16000000)).agreed r)) := by
  rw [exec_askRound rails req fresh]
  simp only [askRoundEffect, req, if_neg (not_lt.2 inTime), State.askRound_agrees h]

end

/-! ### Wake (R658 to R660, R690) -/

/-- In HOLD, and in a wake, a command that waits goes on waiting. -/
theorem State.runWaiting_waking (h : s.rd PWR_STAT_STATE = 6) : s.runWaiting = s := by
  unfold State.runWaiting
  split
  · rfl
  · exact if_neg (by simp [State.mRuns, h])

/-- WAKE in HOLD (R659). -/
theorem exec_wake_hold (hs : s.pwr.standby = true) (quiet : s.i3c.waiting = none) (hold : s.rd PWR_STAT_STATE = 2) :
    ∃ t, exec .wake s = .next t ∧ t.rd PWR_STAT_STATE = 6 ∧ t.pwr.ready = false ∧ t.i3c.waiting = some .wake ∧
      s.foot t [PWR_STAT_STATE.key 0 0] := by
  let w : State := ({ s with i3c := { s.i3c with resp := none, waiting := some .wake } } : State)
  let v : State := (w.wr PWR_STAT_STATE 6).updPwr (fun p => { p with ready := false })
  have state : v.rd PWR_STAT_STATE = 6 := State.rd_wr_same w PWR_STAT_STATE 6 0 0
  have woken : w.wake = v := by
    show (match s.rd PWR_STAT_STATE with | 2 => v | 3 => _ | _ => w) = v
    rw [hold]
    rfl
  have asleep : s.mRuns = false := by simp [State.mRuns, hold]
  have taken : s.takeM .wake = w.wake.runWaiting := by
    show (if s.mRuns then _ else if (s.rd PWR_STAT_STATE == 2 || s.rd PWR_STAT_STATE == 3) then w.wake.runWaiting else w) = _
    simp [asleep, hold]
  have run : exec .wake s = .next (s.commit (s.takeM .wake)) := State.always_next (by simp [hs, quiet]) _
  rw [taken, woken, State.runWaiting_waking state] at run
  refine ⟨_, run, (State.rd_commit ..).trans state, rfl, rfl, State.foot_commit ?_⟩
  exact State.foot_upd_of (State.foot_wr (f := PWR_STAT_STATE) (v := 6) (List.mem_singleton_self _)) rfl rfl rfl rfl

/-- WAKE in ROW (R690). -/
theorem exec_wake_row (hs : s.pwr.standby = true) (quiet : s.i3c.waiting = none) (row : s.rd PWR_STAT_STATE = 0) :
    ∃ t, exec .wake s = .next t ∧ t.i3c.resp = some (leBytes stSuccess 1 ++ leBytes 0 2) ∧ s.foot t [] :=
  ⟨_, State.m_next (c := .wake) hs quiet (by omega) rfl, rfl, State.foot_commit (State.foot_of_eq rfl rfl rfl rfl)⟩

/-- A raised cause pends. -/
theorem State.ibiRaise_any (s : State) (b : Nat) : (s.ibiRaise b).ibi.any (fun e => e.1 == b) = true := by
  unfold State.ibiRaise
  split
  next h => exact h
  · simp

theorem State.ibiRaise_only (s : State) (b : Nat) : ∃ l, s.ibiRaise b = { s with ibi := l } := by
  unfold State.ibiRaise
  split
  · exact ⟨s.ibi, rfl⟩
  · exact ⟨_, rfl⟩

/-- A wake ends where nothing holds it back (R660). -/
def State.wakeEnds (s : State) : Prop :=
  s.rd PWR_STAT_STATE = 6 ∧ s.pwr.ready = true ∧ s.rd PWR_PAD_RELEASE_HELD = 0 ∧ s.pwr.selfRef = 0

theorem State.reachRow_stays (h : ¬ s.wakeEnds) : s.reachRow = s := if_neg h

/-- The module has reached ROW. -/
def State.rowReached (s : State) : State := ((s.wr PWR_STAT_STATE 0).logPower 2 0).ibiRaise 7

theorem State.rowReached_only (s : State) : ∃ rs q l, s.rowReached = { s with regs := rs, logQueue := q, ibi := l } := by
  unfold State.rowReached State.logPower
  obtain ⟨rs, q, logged⟩ := (s.wr PWR_STAT_STATE 0).logEv_only .pwr 0 0x701 1 0 (2 + 0 * 2 ^ 8)
  rw [logged]
  obtain ⟨l, raised⟩ := State.ibiRaise_only ({ s.wr PWR_STAT_STATE 0 with regs := rs, logQueue := q } : State) 7
  exact ⟨rs, q, l, raised⟩

theorem State.foot_inRow (s : State) : s.foot s.rowReached [PWR_STAT_STATE.key 0 0, LOG_DROPPED.key 0 0] :=
  State.foot_then (State.foot_logEv_of (State.foot_wr (by simp)) (by simp)) (State.foot_ibiRaise ..)

theorem State.rowReached_state (s : State) : s.rowReached.rd PWR_STAT_STATE = 0 := by
  rw [State.rowReached, State.foot_rd (State.foot_ibiRaise _ 7 []) _ _ _ List.not_mem_nil, State.logPower, State.logEv,
    State.rd_logFrom _ (by decide)]
  exact State.rd_wr_same ..

theorem State.reachRow_ends (h : s.wakeEnds) (owed : s.pwr.owed = none) : s.reachRow = s.rowReached := by
  obtain ⟨rs, q, l, only⟩ := s.rowReached_only
  have still : s.rowReached.pwr.owed = none := by rw [only]; exact owed
  have ends : s.reachRow = match s.rowReached.pwr.owed with
    | some t => s.rowReached.warmReset t
    | none => s.rowReached := if_pos h
  rw [ends, still]

/-- Whether a wake ends or not, what is owed being nothing: the power unit and the controller's transfer stay. -/
theorem State.reachRow_leaves (owed : s.pwr.owed = none) : s.reachRow.pwr = s.pwr ∧ s.reachRow.i3c = s.i3c ∧
    s.foot s.reachRow [PWR_STAT_STATE.key 0 0, LOG_DROPPED.key 0 0] := by
  by_cases h : s.wakeEnds
  · rw [State.reachRow_ends h owed]
    obtain ⟨rs, q, l, only⟩ := s.rowReached_only
    exact ⟨by rw [only], by rw [only], s.foot_inRow⟩
  · rw [State.reachRow_stays h]
    exact ⟨rfl, rfl, s.foot_refl⟩

/-- WAKE_READY with a group held (R660). -/
theorem exec_wakeReady (hs : s.pwr.standby = true) (waking : s.rd PWR_STAT_STATE = 6) (notReady : s.pwr.ready = false)
    (held : s.rd PWR_PAD_RELEASE_HELD ≠ 0) :
    ∃ t, exec .wakeReady s = .next t ∧ t.pwr.ready = true ∧ t.rd PWR_STAT_STATE = 6 ∧ t.ibi.any (fun e => e.1 == 6) = true ∧
      t.clock = s.clock ∧ s.sameStore t := by
  let v := (s.updPwr (fun p => { p with ready := true })).ibiRaise 6
  obtain ⟨l, only⟩ : ∃ l, v = { s.updPwr (fun p => { p with ready := true }) with ibi := l } := State.ibiRaise_only ..
  have foot : s.foot v [] := State.foot_then (State.foot_of_eq rfl rfl rfl rfl) (State.foot_ibiRaise ..)
  have state : v.rd PWR_STAT_STATE = 6 := (State.foot_rd foot _ 0 0 List.not_mem_nil).trans waking
  have stays : wakeReadyEffect s = v := State.reachRow_stays (fun ends => held ((State.foot_rd foot _ 0 0 List.not_mem_nil).symm.trans ends.2.2.1))
  have run : exec .wakeReady s = .next (s.commit (wakeReadyEffect s).runWaiting) :=
    State.always_next (s := s) (ok := s.pwr.standby && s.rd PWR_STAT_STATE == 6 && !s.pwr.ready) (by simp [hs, waking, notReady])
      (fun s => (wakeReadyEffect s).runWaiting)
  rw [stays, State.runWaiting_waking state] at run
  refine ⟨_, run, ?_, (State.rd_commit ..).trans state, State.ibiRaise_any .., ?_, (State.foot_commit foot).1⟩
  all_goals rw [only]; rfl

/-- A memory leaves self-refresh. -/
def State.refreshed (s : State) (lpd : Bool) (ctl : Nat) : State :=
  s.updPwr (fun p => { p with selfRef := p.selfRef - (p.selfRef &&& 2 ^ memBit lpd ctl) })

/-- SELF_REFRESH_EXIT with no reset owed (R660). -/
theorem exec_selfRefreshExit {lpd : Bool} {c : Nat} (may : s.mayLeaveRefresh lpd c = true) (owed : s.pwr.owed = none)
    (quiet : s.i3c.waiting = none) :
    ∃ t, exec (.selfRefreshExit lpd c) s = .next t ∧ t.pwr.selfRef = s.pwr.selfRef - (s.pwr.selfRef &&& 2 ^ memBit lpd c) ∧
      (t.pwr.selfRef = 0 → s.rd PWR_PAD_RELEASE_HELD = 0 → t.rd PWR_STAT_STATE = 0) ∧
      s.foot t [PWR_STAT_STATE.key 0 0, LOG_DROPPED.key 0 0] := by
  obtain ⟨pwr, i3c, foot⟩ := State.reachRow_leaves (s := s.refreshed lpd c) owed
  have run : exec (.selfRefreshExit lpd c) s = .next (s.commit (s.refreshed lpd c).reachRow.runWaiting) :=
    State.always_next (s := s) may (fun s => (selfRefreshExitEffect lpd c s).runWaiting)
  rw [State.runWaiting_none ((congrArg I3cUnit.waiting i3c).trans quiet)] at run
  have bits : (s.refreshed lpd c).reachRow.pwr.selfRef = s.pwr.selfRef - (s.pwr.selfRef &&& 2 ^ memBit lpd c) := by rw [pwr]; rfl
  refine ⟨_, run, bits, fun none unheld => ?_, State.foot_commit (State.foot_then (State.foot_of_eq rfl rfl rfl rfl) foot)⟩
  simp only [State.mayLeaveRefresh, Bool.and_eq_true, beq_iff_eq] at may
  obtain ⟨⟨⟨⟨waking, ready⟩, -⟩, -⟩, -⟩ := may
  have ends : (s.refreshed lpd c).wakeEnds := ⟨waking, ready, unheld, bits.symm.trans none⟩
  rw [State.rd_commit, State.reachRow_ends ends owed]
  exact State.rowReached_state _

/-! ### The pads are released (R658, R660) -/

/-- What the release of pads reads of the power controller, and what the training of the ports leaves. -/
structure PadView where
  pwr : PowerUnit
  i3c : I3cUnit
  mem : List Host.Cell
  undef : List UndefRange
  tokens : List (Nat × Word)
  state : Nat
  held : Nat

def State.padView (s : State) : PadView :=
  ⟨s.pwr, s.i3c, s.mem, s.undef, s.tokens, s.rd PWR_STAT_STATE, s.rd PWR_PAD_RELEASE_HELD⟩

/-- The parts of the state, other than registers, that the release of pads reads. -/
def State.padParts (s : State) : PowerUnit × I3cUnit × List Host.Cell × List UndefRange × List (Nat × Word) :=
  (s.pwr, s.i3c, s.mem, s.undef, s.tokens)

theorem State.padParts_wr (s : State) (f : Fld) (v i j : Nat) : (s.wr f v i j).padParts = s.padParts := rfl
theorem State.padParts_setPort (s : State) (q : Nat) (x : Port) : (s.setPort q x).padParts = s.padParts := rfl

theorem State.padView_foot {ks : List Nat} (foot : s.foot t ks) (h1 : PWR_STAT_STATE.key 0 0 ∉ ks) (h2 : PWR_PAD_RELEASE_HELD.key 0 0 ∉ ks)
    (only : t.padParts = s.padParts) : t.padView = s.padView := by
  simp only [State.padParts, Prod.mk.injEq] at only
  obtain ⟨pwr, i3c, mem, undef, tokens⟩ := only
  rw [State.padView, State.foot_rd foot _ 0 0 h1, State.foot_rd foot _ 0 0 h2, pwr, i3c, mem, undef, tokens]
  rfl

/-- Registers of a port's page are none of the power controller's. -/
theorem pwr_notin_stateKeys (q : Nat) : PWR_STAT_STATE.key 0 0 ∉ stateKeys q ∧ PWR_PAD_RELEASE_HELD.key 0 0 ∉ stateKeys q := by
  have apart (g : Fld) (low : g.key 0 0 < 0x200000) (dropped : g.key 0 0 ≠ LOG_DROPPED.key 0 0) : g.key 0 0 ∉ stateKeys q := by
    simp only [stateKeys, List.mem_cons, List.not_mem_nil, or_false, not_or]
    exact ⟨(Fld.lnk_ne_low rfl low q 0).symm, (Fld.lnk_ne_low rfl low q 0).symm, dropped⟩
  exact ⟨apart _ (by decide) (by decide), apart _ (by decide) (by decide)⟩

theorem State.padView_setPortState (s : State) (q n : Nat) : (s.setPortState q n).padView = s.padView := by
  obtain ⟨rs, l, only⟩ := s.setPortState_only q n
  exact State.padView_foot (s.foot_setPortState q n) (pwr_notin_stateKeys q).1 (pwr_notin_stateKeys q).2 (by rw [only]; rfl)

theorem State.padView_startPhases (s : State) (q : Nat) : (s.startPhases q).padView = s.padView := by
  obtain ⟨-, -, -, foot, -⟩ := s.startPhases_leaves q
  have apart (g : Fld) (low : g.key 0 0 < 0x200000) : g.key 0 0 ∉ [LNK_STAT_PHASE.key q 0, LNK_PEER_VALID.key q 0] := by
    simp only [List.mem_cons, List.not_mem_nil, or_false, not_or]
    exact ⟨(Fld.lnk_ne_low rfl low q 0).symm, (Fld.lnk_ne_low rfl low q 0).symm⟩
  exact State.padView_foot foot (apart _ (by decide)) (apart _ (by decide)) (by
    rw [State.startPhases_eq, State.padParts_wr, State.setPhaseOf, State.padParts_wr, State.padParts_setPort, State.padParts_setPort])

theorem State.padView_retrainGroup (s : State) (g : Nat) : (s.retrainGroup g).padView = s.padView := by
  refine State.foldl_keep State.padView _ (fun t q => ?_) _ s
  split
  · rw [State.padView_startPhases, State.padView_setPortState]
  · rfl

/-- The groups that a write names and that are held are released, and their ports train. -/
def State.released (s : State) (mask : Nat) : State :=
  let go := s.rd PWR_PAD_RELEASE_HELD &&& mask
  let s := s.wr PWR_PAD_RELEASE_HELD (s.rd PWR_PAD_RELEASE_HELD - go)
  let s := if bitOf go 1 then s.retrainGroup 1 else s
  if bitOf go 2 then s.retrainGroup 2 else s

theorem State.releasePads_eq (s : State) (mask : Nat) : s.releasePads mask = (s.released mask).reachRow := rfl

theorem State.padView_released (s : State) (mask : Nat) :
    (s.released mask).padView = { s.padView with held := (s.rd PWR_PAD_RELEASE_HELD - (s.rd PWR_PAD_RELEASE_HELD &&& mask)) % 128 } := by
  unfold State.released
  extract_lets go v w
  have written : v.padView = { s.padView with held := (s.rd PWR_PAD_RELEASE_HELD - go) % 128 } := by
    show PadView.mk v.pwr v.i3c v.mem v.undef v.tokens (v.rd PWR_STAT_STATE) (v.rd PWR_PAD_RELEASE_HELD) = _
    rw [State.rd_wr_ne s (by decide), State.rd_wr_same]
    rfl
  have first : w.padView = v.padView := by
    dsimp only [w]
    split
    · exact State.padView_retrainGroup ..
    · rfl
  rw [← written, ← first]
  split
  · exact State.padView_retrainGroup ..
  · rfl

/-- PAD_RELEASE with no command waiting (R658). -/
theorem exec_padRelease (hs : s.pwr.standby = true) (quiet : s.i3c.waiting = none) (m : Nat) :
    let h := s.rd PWR_PAD_RELEASE_HELD - (s.rd PWR_PAD_RELEASE_HELD &&& (m % 128))
    (s.rd PWR_STAT_STATE ≠ 6 ∨ h % 128 ≠ 0 →
      ∃ t, exec (.padRelease m) s = .next t ∧ t.rd PWR_PAD_RELEASE_HELD = h % 128 ∧ t.rd PWR_STAT_STATE = s.rd PWR_STAT_STATE ∧
        s.sameStore t) ∧
    (s.rd PWR_STAT_STATE = 6 → h % 128 = 0 → s.pwr.ready = true → s.pwr.selfRef = 0 → s.pwr.owed = none →
      ∃ t, exec (.padRelease m) s = .next t ∧ t.rd PWR_PAD_RELEASE_HELD = 0 ∧ t.rd PWR_STAT_STATE = 0 ∧ s.sameStore t) := by
  intro h
  have view := s.padView_released (m % 128)
  have pwr : (s.released (m % 128)).pwr = s.pwr := congrArg PadView.pwr view
  have i3c : (s.released (m % 128)).i3c = s.i3c := congrArg PadView.i3c view
  have state : (s.released (m % 128)).rd PWR_STAT_STATE = s.rd PWR_STAT_STATE := congrArg PadView.state view
  have held : (s.released (m % 128)).rd PWR_PAD_RELEASE_HELD = h % 128 := congrArg PadView.held view
  have kept : s.sameStore (s.released (m % 128)) :=
    ⟨fun a => State.rdByte_congr (congrArg PadView.mem view) (congrArg PadView.undef view) a,
      fun k => State.tok_congr (congrArg PadView.tokens view) k⟩
  have run : exec (.padRelease m) s = .next (s.commit (s.released (m % 128)).reachRow.runWaiting) :=
    State.always_next (s := s) hs (fun s => (s.releasePads (m % 128)).runWaiting)
  refine ⟨fun holds => ?_, fun waking free ready refreshed owed => ?_⟩
  · have stays : ¬ (s.released (m % 128)).wakeEnds := by
      rintro ⟨waking, -, free, -⟩
      exact holds.elim (fun n => n (state.symm.trans waking)) (fun n => n (held.symm.trans free))
    rw [State.reachRow_stays stays, State.runWaiting_none ((congrArg I3cUnit.waiting i3c).trans quiet)] at run
    exact ⟨_, run, (State.rd_commit ..).trans held, (State.rd_commit ..).trans state,
      fun a => (State.rdByte_commit ..).trans (kept.1 a), fun k => (State.tok_commit ..).trans (kept.2 k)⟩
  · have ends : (s.released (m % 128)).wakeEnds := ⟨state.trans waking, by rw [pwr, ready], held.trans free, by rw [pwr, refreshed]⟩
    have still : (s.released (m % 128)).pwr.owed = none := by rw [pwr, owed]
    obtain ⟨-, i3c', foot⟩ := State.reachRow_leaves still
    rw [State.runWaiting_none ((congrArg I3cUnit.waiting (i3c'.trans i3c)).trans quiet)] at run
    refine ⟨_, run, ?_, ?_, fun a => (State.rdByte_commit ..).trans ((foot.1.1 a).trans (kept.1 a)),
      fun k => (State.tok_commit ..).trans ((foot.1.2 k).trans (kept.2 k))⟩
    · rw [State.rd_commit, State.foot_rd foot _ 0 0 (by decide), held, free]
    · rw [State.rd_commit, State.reachRow_ends ends still]
      exact State.rowReached_state _

/-- Settles O43: the handshake with its two outcomes, its later rounds, and the steps of a wake. -/
theorem powerStatesAreEnteredAndLeft : Obligations.PowerStatesAreEnteredAndLeft := by
  refine ⟨fun s k c row idle hc => ?_, fun s idle awake => ?_, fun s r ms rails req fresh => ?_, fun s hs quiet => ?_,
    fun s hs waking notReady held => exec_wakeReady hs waking notReady held, fun s lpd c may owed quiet => ?_⟩
  · refine ⟨fun h => ?_, fun b h => ?_⟩
    · obtain ⟨t, run, state, agreed, store, regs⟩ := exec_enter_agreed row idle hc rfl h
      exact ⟨t, run, state, agreed, store, regs⟩
    · obtain ⟨state, result, reason, type, inst, req, store⟩ :=
        State.failEntry_shows (s.requested { target := k, origin := 0, start := s.clock, agreed := false, block := (0, 0) }) 0 b.1.typeCode
          (b.2 % 256) (((s.requested { target := k, origin := 0, start := s.clock, agreed := false, block := (0, 0) }).askBlock k b.1 b.2).reason)
      exact ⟨_, exec_enter_refused row idle hc rfl h, (State.rd_commit ..).trans state, req, (State.rd_commit ..).trans result,
        (State.rd_commit ..).trans reason, (State.rd_commit ..).trans type, ((State.rd_commit ..).trans inst).trans (Nat.mod_mod ..),
        fun a => (State.rdByte_commit ..).trans (store.1 a), fun k => (State.tok_commit ..).trans (store.2 k)⟩
  · obtain ⟨t, run, state, result, store, regs⟩ := exec_enterRow idle awake
    exact ⟨t, run, state, result, store, regs⟩
  · refine ⟨fun late => ?_, fun inTime h => ?_⟩
    · obtain ⟨state, -, reason, -, -, gone, -⟩ := s.failEntry_shows r.origin r.block.1 r.block.2 7
      exact ⟨_, exec_askRound_late rails req fresh late, (State.rd_commit ..).trans state, (State.rd_commit ..).trans reason, gone⟩
    · obtain ⟨store, regs⟩ : s.foot (s.commit ((s.at (s.clock + ms * 16000000)).agreed r)) [] :=
        State.foot_commit (State.foot_of_eq rfl rfl rfl rfl)
      exact ⟨_, exec_askRound_agreed rails req fresh inTime h, rfl, Nat.max_eq_right (Nat.le_add_right ..), store, regs⟩
  · refine ⟨fun hold => ?_, fun row => ?_, fun m => exec_padRelease hs quiet m⟩
    · obtain ⟨t, run, state, ready, waits, store, regs⟩ := exec_wake_hold hs quiet hold
      exact ⟨t, run, state, ready, waits, store, regs⟩
    · obtain ⟨t, run, resp, store, regs⟩ := exec_wake_row hs quiet row
      exact ⟨t, run, resp, store, regs⟩
  · obtain ⟨t, run, bit, row, store, regs⟩ := exec_selfRefreshExit may owed quiet
    exact ⟨t, run, bit, row, store, regs⟩

end Sys2Proof.Machine
end

section
/-!
PROOF. The logbook and the interrupts (R683 to R687, R693, R694, R732, R734): entries reach the ring, causes pend, and the summary
message leaves as an MSI-X vector.
-/
namespace Sys2Proof.Machine

variable {s : State}

/-! ### LOG_TRANSFER (R683 to R685, R693) -/

section
variable {e : LogEntry} {rest : List LogEntry}

/-- An entry has left the queue, 16 ns later. -/
def State.dequeued (s : State) (rest : List LogEntry) : State := { s.at (s.clock + 256) with logQueue := rest }

/-- The entry stands in the ring. -/
def State.ringed (s : State) (e : LogEntry) : State :=
  ({ s with logRing := Tab.put s.logRing (s.rd LOG_WRITTEN % 8192) e } : State).bump LOG_WRITTEN

theorem logTransferEffect_eq (h : s.logQueue = e :: rest) : logTransferEffect s =
    if e.severity < s.rd LOG_CTL_MIN_SEVERITY then s.dequeued rest
    else if s.is LOG_CTL_FREEZE then (s.dequeued rest).bump LOG_DROPPED
    else if ((s.dequeued rest).ringed e).rd LOG_CTL_IBI_SEVERITY ≤ e.severity then ((s.dequeued rest).ringed e).ibiRaise 8
    else (s.dequeued rest).ringed e := by
  unfold logTransferEffect State.logMove
  rw [show (s.at (s.clock + 256)).logQueue = e :: rest from h]
  rfl

theorem exec_logTransfer (standby : s.pwr.standby = true) (h : s.logQueue = e :: rest) :
    exec .logTransfer s = .next (s.commit (logTransferEffect s)) :=
  State.always_next (s := s) (ok := s.pwr.standby && !s.logQueue.isEmpty) (by simp [standby, h]) logTransferEffect

theorem State.dequeued_foot (s : State) (rest : List LogEntry) (ks : List Nat) : s.foot (s.dequeued rest) ks :=
  State.foot_of_eq rfl rfl rfl rfl

theorem State.dequeued_clock (s : State) (rest : List LogEntry) : (s.dequeued rest).clock = s.clock + 256 :=
  Nat.max_eq_right (Nat.le_add_right ..)

/-- An entry below the least severity is gone (R685). -/
theorem logTransferEffect_below (h : s.logQueue = e :: rest) (below : e.severity < s.rd LOG_CTL_MIN_SEVERITY) :
    logTransferEffect s = s.dequeued rest := (logTransferEffect_eq h).trans (if_pos below)

/-- Under FREEZE one is counted as dropped (R685). -/
theorem logTransferEffect_frozen (h : s.logQueue = e :: rest) (severe : s.rd LOG_CTL_MIN_SEVERITY ≤ e.severity)
    (frozen : s.is LOG_CTL_FREEZE = true) : logTransferEffect s = (s.dequeued rest).bump LOG_DROPPED :=
  (logTransferEffect_eq h).trans ((if_neg (not_lt.2 severe)).trans (if_pos frozen))

/-- Else it is written, and may raise the in-band cause of the logbook (R683, R693). -/
theorem logTransferEffect_written (h : s.logQueue = e :: rest) (severe : s.rd LOG_CTL_MIN_SEVERITY ≤ e.severity)
    (thawed : s.is LOG_CTL_FREEZE = false) : ∃ l, logTransferEffect s = { (s.dequeued rest).ringed e with ibi := l } ∧
      (s.rd LOG_CTL_IBI_SEVERITY ≤ e.severity → l.any (fun x => x.1 == 8) = true) := by
  have ibi : ((s.dequeued rest).ringed e).rd LOG_CTL_IBI_SEVERITY = s.rd LOG_CTL_IBI_SEVERITY := State.rd_wr_ne _ (by decide) _
  have written : logTransferEffect s = if s.rd LOG_CTL_IBI_SEVERITY ≤ e.severity then ((s.dequeued rest).ringed e).ibiRaise 8
      else (s.dequeued rest).ringed e := by
    rw [logTransferEffect_eq h, if_neg (not_lt.2 severe), if_neg (by simp [thawed]), ibi]
  rw [written]
  split
  · obtain ⟨l, only⟩ := ((s.dequeued rest).ringed e).ibiRaise_only 8
    refine ⟨l, only, fun _ => ?_⟩
    have raised := ((s.dequeued rest).ringed e).ibiRaise_any 8
    rwa [only] at raised
  next quiet => exact ⟨_, rfl, fun loud => absurd loud quiet⟩

/-- In each case the entry has left the queue, the clock has moved on, and memory and tokens are as they were. -/
theorem logTransferEffect_leaves (h : s.logQueue = e :: rest) :
    (logTransferEffect s).logQueue = rest ∧ (logTransferEffect s).clock = s.clock + 256 ∧ s.sameStore (logTransferEffect s) := by
  by_cases below : e.severity < s.rd LOG_CTL_MIN_SEVERITY
  · rw [logTransferEffect_below h below]
    exact ⟨rfl, s.dequeued_clock rest, (s.dequeued_foot rest []).1⟩
  · cases frozen : s.is LOG_CTL_FREEZE with
    | true =>
      rw [logTransferEffect_frozen h (not_lt.1 below) frozen]
      exact ⟨rfl, s.dequeued_clock rest, (s.dequeued_foot rest []).1⟩
    | false =>
      obtain ⟨l, written, -⟩ := logTransferEffect_written h (not_lt.1 below) frozen
      rw [written]
      exact ⟨rfl, s.dequeued_clock rest, (s.dequeued_foot rest []).1⟩

end

/-! ### LOG_INJECT (R687) -/

/-- A software entry with room in the queue. -/
theorem logInjectEffect_room {code sev : Nat} (low : 0x800 ≤ code) (high : code ≤ 0x8FF) (severity : sev ≤ 4) (room : s.logQueue.length < 64) :
    logInjectEffect ((code + sev * 0x10000) % 2 ^ 19) s = { s with logQueue := s.logQueue ++
      [{ time := s.ns, stroke := s.stroke, source := 0xFF02, event := code, severity := sev, status := 0,
         data := s.rd LOG_INJECT_DATA % 2 ^ 64 }] } := by
  have value : (code + sev * 0x10000) % 2 ^ 19 = code + sev * 0x10000 := Nat.mod_eq_of_lt (by omega)
  have event : (code + sev * 0x10000) % 0x10000 = code := by omega
  have level : (code + sev * 0x10000) / 0x10000 = sev := by omega
  rw [value, logInjectEffect, event, level, if_pos ⟨low, high, severity⟩, State.logFrom, if_pos room]

/-! ### IBI_REPEAT (R694) -/

/-- The causes that pend for a second are logged. -/
def State.ibiLogged (s : State) : State := s.ibi.foldl (fun (t : State) e =>
  if !e.2.2 && decide (e.2.1 + 1000000000 ≤ t.ns) then t.logFrom 0xFF01 0x901 2 0 (2 ^ e.1) else t) s

theorem State.foot_ibiLogged (s : State) : s.foot s.ibiLogged [LOG_DROPPED.key 0 0] := by
  refine State.foot_foldl (fun t e => ?_) _ s
  split
  · exact State.foot_logFrom (by simp)
  · exact t.foot_refl

/-- Logging leaves the clock, the causes and the controller. -/
theorem State.ibiLogged_keeps (s : State) : (s.ibiLogged.clock, s.ibiLogged.ibi, s.ibiLogged.i3c) = (s.clock, s.ibi, s.i3c) := by
  refine State.foldl_keep (fun t : State => (t.clock, t.ibi, t.i3c)) _ (fun t e => ?_) _ s
  split
  · unfold State.logFrom
    split <;> rfl
  · rfl

theorem exec_ibiRepeat (standby : s.pwr.standby = true) (pends : s.ibi ≠ []) :
    ∃ t, exec .ibiRepeat s = .next t ∧ t.clock = max s.clock s.ibiNext ∧ t.i3c.ibiAt = t.clock + 1600000000 ∧
      t.ibi.map (fun e => e.1) = s.ibi.map (fun e => e.1) ∧ s.foot t [LOG_DROPPED.key 0 0] := by
  have run : exec .ibiRepeat s = .next (s.commit (ibiRepeatEffect s)) :=
    State.always_next (s := s) (ok := s.pwr.standby && !s.ibi.isEmpty) (by simp [standby, pends]) ibiRepeatEffect
  obtain ⟨clock, ibi, -⟩ : _ ∧ _ ∧ _ := by simpa only [Prod.mk.injEq] using (s.at s.ibiNext).ibiLogged_keeps
  refine ⟨_, run, clock, rfl, ?_, State.foot_commit ?_⟩
  · show ((s.at s.ibiNext).ibiLogged.ibi.map _).map _ = _
    rw [ibi, List.map_map]
    rfl
  · exact State.foot_upd_of (State.foot_then (State.foot_of_eq rfl rfl rfl rfl) (s.at s.ibiNext).foot_ibiLogged) rfl rfl rfl rfl

/-! ### The summary message (R732, R734) -/

/-- ARMED is none of the registers that make a page pending. -/
theorem State.pendingPages_armed (s : State) (v : Nat) : (s.wr DEV_INT_CTL_ARMED v).pendingPages = s.pendingPages := by
  have page (p : Page) (i : Nat) : (s.wr DEV_INT_CTL_ARMED v).pagePending p i = s.pagePending p i := by
    have stat : (s.wr DEV_INT_CTL_ARMED v).rd (BLK_INT_STAT p) i = s.rd (BLK_INT_STAT p) i := State.rd_wr_place (by cases p <;> decide) v i 0
    have en : (s.wr DEV_INT_CTL_ARMED v).rd (BLK_INT_EN p) i = s.rd (BLK_INT_EN p) i := State.rd_wr_place (by cases p <;> decide) v i 0
    rw [State.pagePending, stat, en, State.pagePending]
  simp only [State.pendingPages, page]

/-- Without ENABLE, or with no page pending, ARMED set is all. -/
theorem State.summaryCheck_quiet (h : s.is DEV_INT_CTL_ENABLE = false ∨ s.pendingPages = []) :
    (s.on DEV_INT_CTL_ARMED).summaryCheck = s.on DEV_INT_CTL_ARMED := by
  refine if_neg ?_
  rw [State.on_eq, State.pendingPages_armed, State.is, State.rd_wr_ne _ (by decide), ← State.is]
  rcases h with off | none
  · simp [off]
  · simp [none]

/-- With ENABLE and a page pending, the message leaves. -/
theorem State.summaryCheck_sends (enable : s.is DEV_INT_CTL_ENABLE = true) (pending : s.pendingPages ≠ []) :
    (s.on DEV_INT_CTL_ARMED).summaryCheck = (s.on DEV_INT_CTL_ARMED).sendSummary := by
  refine if_pos ?_
  rw [State.on_eq, State.pendingPages_armed, State.is_wr_one _ _ _ _ rfl, State.is, State.rd_wr_ne _ (by decide), ← State.is, enable]
  simpa using pending

/-! ### A leaf of the page tables lies in DRAM (R461, R463) -/

/-- A kind of address, with the end of its range, that is no DRAM. -/
def noDram (p : Region × Nat) : Prop := (p.1 == .hbm || p.1 == .lpd) = false

theorem noDram_ite {c : Prop} [Decidable c] {x y : Region × Nat} (hx : noDram x) (hy : noDram y) : noDram (if c then x else y) := by
  split
  · exact hx
  · exact hy

/-- Beyond LPDDR no address is DRAM. -/
theorem regionOf_beyond {a : Nat} (far : 0x27000000000 ≤ a) : noDram (regionOf a) := by
  unfold regionOf
  rw [if_neg (by omega), if_neg (by omega), if_neg (by omega)]
  refine noDram_ite rfl (noDram_ite rfl (noDram_ite (noDram_ite rfl rfl) ?_))
  refine noDram_ite rfl (noDram_ite rfl (noDram_ite rfl (noDram_ite rfl (noDram_ite rfl ?_))))
  exact noDram_ite rfl (noDram_ite rfl (noDram_ite rfl rfl))

theorem inDram_below {a : Nat} (h : inDram a = true) : a < 0x27000000000 := by
  by_contra far
  have beyond : inDram a = false := regionOf_beyond (not_lt.1 far)
  exact Bool.false_ne_true (beyond.symm.trans h)

/-- A pointer that is not malformed names a table in DRAM. -/
theorem entry_inDram {level e : Nat} (sound : entryMalformed level e = false) (pointer : bitOf e 1 = false) :
    inDram (bits e 16 35 * 256) = true ∧ level ≠ 0 := by
  simp only [entryMalformed, pointer] at sound
  split at sound
  · cases sound
  · simp at sound
    exact ⟨sound.1.2, sound.1.1.1.1⟩

/-- From a table in DRAM on, the leaf of a page lies in DRAM. -/
theorem State.leafSlot_below {va base a : Nat} {big : Bool} (l : List (Nat × Nat × Nat × Nat)) (narrow : ∀ x ∈ l, x.2.2.1 ≤ 9)
    (low : base < 0x27000000000) (found : s.leafSlot va big l base = .ok a) : a < 0x27000001000 := by
  induction l generalizing base with
  | nil => cases found
  | cons x l ih =>
    obtain ⟨level, shift, w, size⟩ := x
    have index : bits va shift w < 2 ^ 9 :=
      lt_of_lt_of_le (Nat.mod_lt _ (Nat.two_pow_pos w)) (Nat.pow_le_pow_right two_pos (narrow _ List.mem_cons_self))
    unfold State.leafSlot at found
    dsimp only at found
    by_cases leaf : level = if big = true then 1 else 0
    · rw [if_pos leaf] at found
      cases found
      omega
    · rw [if_neg leaf] at found
      split at found
      · cases found
      · split at found
        · cases found
        · split at found
          · cases found
          next sound =>
            simp only [Bool.or_eq_true, not_or, Bool.not_eq_true] at sound
            exact ih (fun y mem => narrow y (List.mem_cons_of_mem _ mem)) (inDram_below (entry_inDram sound.1 sound.2).1) found

/-- The leaf of a page of any context lies in DRAM: the first level holds none. -/
theorem State.leafAddr_below {ctx va a : Nat} {big : Bool} (found : s.leafAddr ctx va big = .ok a) : a < 0x27000001000 := by
  unfold State.leafAddr walkLevels State.leafSlot at found
  dsimp only at found
  have root : ¬ 3 = if big = true then 1 else 0 := by cases big <;> decide
  rw [if_neg root] at found
  split at found
  · cases found
  · split at found
    · cases found
    · split at found
      · cases found
      next sound =>
        simp only [Bool.or_eq_true, not_or, Bool.not_eq_true] at sound
        exact State.leafSlot_below _ (by decide) (inDram_below (entry_inDram sound.1 sound.2).1) found

/-- A write beyond DRAM touches no leaf. -/
theorem State.hitsLeaf_beyond {g : Nat} (here : gpaDev g = s.dev) (far : 0x27000002000 ≤ gpaLocal g) (o : Obj) (n : Nat) :
    s.hitsLeaf o g n = false := by
  refine List.any_eq_false.2 (fun p _ => ?_)
  split
  next a found =>
    have low := State.leafAddr_below found
    have place : g = s.dev * 2 ^ 43 + gpaLocal g := by
      rw [← here]
      exact (Nat.div_add_mod' g _).symm
    have apart : gpaOf s.dev a + 8 ≤ g := by rw [place]; unfold gpaOf; omega
    simp [overlaps]
    omega
  · simp

/-- It spoils pools and checkpoints at most. -/
theorem State.spoilPools_beyond {g : Nat} (here : gpaDev g = s.dev) (far : 0x27000002000 ≤ gpaLocal g) (n : Nat) :
    ∃ ws, s.spoilPools g n = { s with wildPools := ws } := by
  have none : (s.objs.filter (fun o => s.hitsLeaf o.2 g n)).map (fun o => 32 + o.1) = [] := by
    simp [State.hitsLeaf_beyond here far]
  have pools (k : Nat) (mem : k ∈ s.spoiledBy g n) : k < 32 := by
    simp only [State.spoiledBy, none, List.append_nil, List.mem_append, List.mem_filter, List.mem_range] at mem
    rcases mem with ⟨low, -⟩ | ckpt
    · omega
    · split at ckpt
      · simp at ckpt; omega
      · cases ckpt
  unfold State.spoilPools
  extract_lets bad t
  have same : t = s := by
    refine State.foldl_unchanged bad (fun v k mem => ?_) s
    rw [if_pos (pools k (List.mem_filter.1 mem).1)]
  split
  · exact ⟨s.wildPools, rfl⟩
  · exact ⟨_, by rw [same]⟩

/-! ### The message leaves (R588, R590, R734) -/

theorem leNat_leBytes_word {v : Nat} (h : v < 2 ^ 32) : leNat (leBytes v 4) = v := by
  simp only [leBytes, leNat, BitVec.toNat_ofNat]
  omega

/-- A PUT of a vector word to the trigger page of this device, by the sender of the summary message. -/
theorem State.putWord_trigger {g w : Nat} (here : gpaDev g = s.dev) (host : (regionOf (gpaLocal g)).1 = .host)
    (trigger : 0x7FFFFFF0000 ≤ gpaLocal g) (aligned : gpaLocal g % 4 = 0) (vector : w < 2048) (unmasked : s.msixMasked 0 w = false)
    (ok : s.checkLocal s.dev 0 (gpaLocal g) 4 .put = .ok ()) :
    ∃ as rs ws, s.putWord .summary 0 g (leBytes w 4) =
      { s with asked := as, rcache := rs, wildPools := ws, hostOut := s.hostOut ++ [HostOut.msix 0 w] } := by
  obtain ⟨as, rs, cached⟩ := s.rcWrite_cache .summary g 4
  obtain ⟨ws, spoiled⟩ := State.spoilPools_beyond (s := { s with asked := as, rcache := rs }) here (by omega) 4
  let v : State := { s with asked := as, rcache := rs, wildPools := ws }
  have word : leNat (leBytes w 4) = w := leNat_leBytes_word (by omega)
  have zero : bits w 16 6 = 0 := by simp only [bits, Nat.shiftRight_eq_div_pow]; omega
  have number : bits w 0 11 = w := by simp only [bits, Nat.shiftRight_eq_div_pow]; omega
  have sound : vectorWordOk w = true := by
    simp only [vectorWordOk, bits, Nat.shiftRight_eq_div_pow, Bool.and_eq_true, beq_iff_eq]
    omega
  have sent : v.hostPut 0 (gpaLocal g) (leBytes w 4) = (stSuccess, { v with hostOut := s.hostOut ++ [HostOut.msix 0 w] }) := by
    have mask : v.msixMasked 0 w = false := unmasked
    rw [State.hostPut, if_pos trigger, State.triggerPut, word, zero, number]
    simp only [length_leBytes, aligned, sound]
    rw [if_neg (by simp [msixVectors]; omega), if_neg (by simp), State.msixSend, if_neg (by simp [mask])]
  refine ⟨as, rs, ws, ?_⟩
  have other : (Owner.summary == .agent .roster) = false := rfl
  rw [State.putWord, if_pos here, length_leBytes, ok]
  simp only [State.writeGpa, length_leBytes, cached, other, Bool.false_eq_true, if_false, spoiled]
  refine (if_pos here).trans ?_
  rw [host]
  dsimp only
  rw [sent]
  rfl

/-- The registers and the unit of a sent message: ARMED is clear, and the host has its vector. -/
theorem State.sendSummary_leaves {w : Nat} (here : gpaDev (s.rd DEV_INT_ADDR) = s.dev) (host : (regionOf (gpaLocal (s.rd DEV_INT_ADDR))).1 = .host)
    (trigger : 0x7FFFFFF0000 ≤ gpaLocal (s.rd DEV_INT_ADDR)) (aligned : gpaLocal (s.rd DEV_INT_ADDR) % 4 = 0)
    (number : s.rd DEV_INT_CTL_VECTOR = w) (vector : w < 2048) (unmasked : s.msixMasked 0 w = false)
    (ok : ((s.on DEV_INT_CTL_ARMED).off DEV_INT_CTL_ARMED).checkLocal s.dev 0 (gpaLocal (s.rd DEV_INT_ADDR)) 4 .put = .ok ()) :
    (s.on DEV_INT_CTL_ARMED).sendSummary.is DEV_INT_CTL_ARMED = false ∧
      (s.on DEV_INT_CTL_ARMED).sendSummary.hostOut = s.hostOut ++ [HostOut.msix 0 w] ∧ s.sameStore (s.on DEV_INT_CTL_ARMED).sendSummary := by
  let v : State := (s.on DEV_INT_CTL_ARMED).off DEV_INT_CTL_ARMED
  have read {f : Fld} (apart : f.key 0 0 ≠ DEV_INT_CTL_ARMED.key 0 0) : v.rd f = s.rd f :=
    (State.rd_wr_ne _ apart 0).trans (s.rd_wr_ne apart 1)
  have dev : v.dev = s.dev := read (by decide)
  have address : (s.on DEV_INT_CTL_ARMED).rd DEV_INT_ADDR = s.rd DEV_INT_ADDR := s.rd_wr_ne (by decide) 1
  have named : (s.on DEV_INT_CTL_ARMED).rd DEV_INT_CTL_VECTOR = w := (s.rd_wr_ne (by decide) 1).trans number
  obtain ⟨as, rs, ws, sent⟩ := State.putWord_trigger (s := v) (here.trans dev.symm) host trigger aligned vector unmasked (dev.symm ▸ ok)
  have eq : (s.on DEV_INT_CTL_ARMED).sendSummary =
      { v with asked := as, rcache := rs, wildPools := ws, hostOut := s.hostOut ++ [HostOut.msix 0 w] } := by
    rw [State.sendSummary, address, named]
    exact sent
  rw [eq]
  exact ⟨State.is_wr_zero (s.on DEV_INT_CTL_ARMED) DEV_INT_CTL_ARMED 0 0, rfl, fun _ => rfl, fun _ => rfl⟩

/-- Settles O50: the move of an entry, the software entry, the repetition, and the summary message with and without a page pending. -/
theorem logbookAndInterruptsReport : Obligations.LogbookAndInterruptsReport := by
  refine ⟨fun s e rest standby h => ?_, fun s code sev rails low high severity room => ?_, fun s standby pends => ?_,
    fun s rails quiet => ?_, fun s a rails due quiet => ?_,
    fun s w rails enable pending front hif number here host trigger aligned vector unmasked ok => ?_⟩
  · obtain ⟨queue, clock, store⟩ := logTransferEffect_leaves h
    refine ⟨_, exec_logTransfer standby h, queue, clock, ⟨fun a => (State.rdByte_commit ..).trans (store.1 a),
      fun k => (State.tok_commit ..).trans (store.2 k)⟩, fun below => ?_, fun severe frozen => ?_, fun severe thawed => ?_⟩
    · rw [logTransferEffect_below h below]
      exact ⟨rfl, (State.foot_commit (s.dequeued_foot rest [])).2⟩
    · rw [logTransferEffect_frozen h severe frozen]
      refine ⟨rfl, (State.rd_commit ..).trans (State.rd_wr_same ..), (State.foot_commit ?_).2⟩
      exact State.foot_wr_of (s.dequeued_foot rest _) (by simp)
    · obtain ⟨l, written, raised⟩ := logTransferEffect_written h severe thawed
      rw [written]
      refine ⟨?_, (State.rd_commit ..).trans (State.rd_wr_same (s.dequeued rest) LOG_WRITTEN _ 0 0), (State.foot_commit ?_).2, raised⟩
      · exact (Tab.find_put ..).trans (if_pos rfl)
      · exact State.foot_upd_of (State.foot_wr_of (f := LOG_WRITTEN) (s.dequeued_foot rest _) (List.mem_singleton_self _)) rfl rfl rfl rfl
  · have run : exec (.logInject (code + sev * 0x10000)) s = .next (s.commit (logInjectEffect ((code + sev * 0x10000) % 2 ^ 19) s)) :=
      State.rails_next rails (decide_eq_true (by omega)) _
    rw [logInjectEffect_room low high severity room] at run
    obtain ⟨store, regs⟩ : s.foot _ [] := State.foot_commit (u := s) (State.foot_of_eq (s := s) (t := { s with logQueue := s.logQueue ++ _ })
      rfl rfl rfl rfl)
    exact ⟨_, _, run, rfl, rfl, rfl, rfl, rfl, rfl, rfl, rfl, store, regs⟩
  · obtain ⟨t, run, clock, next, causes, store, regs⟩ := exec_ibiRepeat standby pends
    exact ⟨t, run, clock, next, causes, store, regs⟩
  · have eff : rearmEffect s = s.on DEV_INT_CTL_ARMED := State.summaryCheck_quiet quiet
    have foot : s.foot (rearmEffect s) [DEV_INT_CTL_ARMED.key 0 0] := by
      rw [eff]
      exact State.foot_wr (List.mem_singleton_self _)
    obtain ⟨run, store, regs⟩ := State.rails_foot rails rfl rearmEffect foot
    refine ⟨_, run, ?_, ?_, store, regs⟩
    · rw [State.is_commit, eff]; exact State.is_wr_one _ _ _ _ rfl
    · rw [eff]; rfl
  · let v : State := { s.at a with summaryAt := none }
    have eff : summaryRetryEffect s = v.on DEV_INT_CTL_ARMED := by
      rw [summaryRetryEffect, due]
      exact State.summaryCheck_quiet (s := v) quiet
    have foot : s.foot (summaryRetryEffect s) [DEV_INT_CTL_ARMED.key 0 0] := by
      rw [eff]
      exact State.foot_then (State.foot_of_eq (t := v) rfl rfl rfl rfl) (State.foot_wr (List.mem_singleton_self _))
    obtain ⟨run, store, regs⟩ := State.rails_foot (ok := s.summaryAt.isSome) rails (by simp [due]) summaryRetryEffect foot
    refine ⟨_, run, ?_, ?_, ?_, store, regs⟩
    · rw [State.is_commit, eff]; exact State.is_wr_one _ _ _ _ rfl
    all_goals rw [eff]; rfl
  · have eff : rearmEffect s = (s.on DEV_INT_CTL_ARMED).sendSummary := State.summaryCheck_sends enable pending
    obtain ⟨armed, out, store⟩ := State.sendSummary_leaves here host trigger aligned number vector unmasked ok
    have run : exec .rearm s = .next (s.commit (rearmEffect s)) := State.rails_next rails rfl rearmEffect
    rw [eff] at run
    exact ⟨_, run, (State.is_commit ..).trans armed, out, fun a => (State.rdByte_commit ..).trans (store.1 a),
      fun k => (State.tok_commit ..).trans (store.2 k)⟩

end Sys2Proof.Machine
end

section
/-!
PROOF. Spares enter service for retired items (R617, R618, R621 to R625, R628, R753, R754): SPR_CMD with each of its answers, the
entry of a seat, and the remap of a unit.
-/
namespace Sys2Proof.Machine

variable {s t : State} {i : Inst}

/-! ### What the work on spares leaves -/

/-- What a spare that enters service, and an item that waits for one, leave: the in-band causes, memory, tokens, and the count of permanent
faults. -/
structure SpareView where
  ibi : List (Nat × Nat × Bool)
  mem : List Host.Cell
  undef : List UndefRange
  tokens : List (Nat × Word)
  faults : Nat

def State.spareView (s : State) : SpareView := ⟨s.ibi, s.mem, s.undef, s.tokens, s.rd SPR_PC_PERMANENT⟩

theorem State.spareView_wr_key {f : Fld} {i j : Nat} (apart : f.key i j ≠ SPR_PC_PERMANENT.key 0 0) (v : Nat) :
    (s.wr f v i j).spareView = s.spareView :=
  congrArg (SpareView.mk s.ibi s.mem s.undef s.tokens) (State.rd_wr_ne s apart.symm v)

/-- Registers of the pages behind that of the spares count no fault. -/
theorem State.spareView_wr {f : Fld} {v i j : Nat} (behind : 0x5000 ≤ f.page.base 0) : (s.wr f v i j).spareView = s.spareView := by
  have base : f.page.base 0 ≤ f.page.base i := by cases f.page <;> simp [Page.base]
  have key : SPR_PC_PERMANENT.key 0 0 < 0x5000 * 8 := by decide
  refine State.spareView_wr_key (fun same => ?_) v
  rw [← same, Fld.key] at key
  omega

theorem State.spareView_sameStore (h : t.spareView = s.spareView) : s.sameStore t :=
  ⟨fun a => State.rdByte_congr (congrArg SpareView.mem h) (congrArg SpareView.undef h) a,
    fun k => State.tok_congr (congrArg SpareView.tokens h) k⟩

theorem State.spareView_pendKind (k : Nat) : (s.pendKind k).spareView = s.spareView :=
  (State.spareView_wr_key (by decide) _).trans (State.spareView_wr_key (by decide) _)

theorem State.spareView_sprStatus (n : Nat) : (s.sprStatus n).spareView = s.spareView :=
  (State.spareView_wr_key (by decide) _).trans (State.spareView_wr_key (by decide) _)

theorem State.spareView_sprDone (n : Nat) : (s.sprDone i n).spareView = s.spareView := by
  unfold State.sprDone
  split
  · exact (State.spareView_wr_key (by decide) _).trans (State.spareView_wr_key (by decide) _)
  · rfl

theorem State.spareView_logFrom (a b c d e : Nat) : (s.logFrom a b c d e).spareView = s.spareView := by
  unfold State.logFrom
  split
  · rfl
  · exact State.spareView_wr_key (by decide) _

/-- An item whose spare is in service, with the entry noted and counted. -/
def State.enters (s : State) (i : Inst) : State :=
  (((s.setPhase i 2).logEv .spr 0 0x603 1 0 (instData i)).ledgerNote (if i.kind = 6 ∨ i.kind = 7 then 7 else 3) i 0).cause .spr 8

theorem State.entered_eq (s : State) (i : Inst) : s.entered i = ((s.enters i).bump SPR_PC_ENTERED).sprDone i stSuccess := rfl

theorem State.spareView_enters : (s.enters i).spareView = s.spareView := by
  refine (State.spareView_wr_key (by decide) _).trans ?_
  exact (State.spareView_logFrom ..).trans rfl

theorem State.spareView_entered : (s.entered i).spareView = s.spareView :=
  (State.spareView_sprDone _).trans ((State.spareView_wr_key (by decide) _).trans State.spareView_enters)

theorem State.rd_sprDone_entered (n : Nat) : (s.sprDone i n).rd SPR_PC_ENTERED = s.rd SPR_PC_ENTERED := by
  unfold State.sprDone
  split
  · exact (State.rd_wr_ne _ (by decide) _).trans (State.rd_wr_ne _ (by decide) _)
  · rfl

/-- A spare in service is counted. -/
theorem State.rd_entered : (s.entered i).rd SPR_PC_ENTERED = (s.rd SPR_PC_ENTERED + 1) % 2 ^ SPR_PC_ENTERED.w := by
  have before : (s.enters i).rd SPR_PC_ENTERED = s.rd SPR_PC_ENTERED :=
    (State.rd_wr_ne _ (by decide) _).trans (State.rd_logFrom (s := s.setPhase i 2) (by decide) ..)
  rw [State.entered_eq, State.rd_sprDone_entered, State.bump_eq, State.rd_wr_same, before]

theorem State.sprDone_units (s : State) (i : Inst) (n : Nat) : (s.sprDone i n).cores = s.cores ∧ (s.sprDone i n).spareMap = s.spareMap := by
  unfold State.sprDone
  split
  · exact ⟨rfl, rfl⟩
  · exact ⟨rfl, rfl⟩

/-- A spare in service touches no unit. -/
theorem State.entered_units (s : State) (i : Inst) : (s.entered i).cores = s.cores ∧ (s.entered i).spareMap = s.spareMap := by
  obtain ⟨cores, map⟩ := ((s.enters i).bump SPR_PC_ENTERED).sprDone_units i stSuccess
  exact ⟨cores.trans (State.logFrom_cores ..), map.trans (State.logFrom_spareMap ..)⟩

/-- The fields of the spare bank that is free lie behind the spares' page. -/
theorem bankFld_behind_spares (first scratch : Bool) :
    let f := if first = true then bankFld scratch 0 else bankFld scratch 1
    0x5000 ≤ f.1.page.base 0 ∧ 0x5000 ≤ f.2.page.base 0 := by
  cases first <;> cases scratch <;> decide

theorem State.spareView_setChState (e ch v : Nat) : (s.setChState e ch v).spareView = s.spareView := by
  unfold State.setChState State.dmaWr
  split
  · exact State.spareView_wr (by decide)
  · exact State.spareView_wr (by decide)

theorem State.spareView_useSpareLane (q lane : Nat) : (s.useSpareLane q lane).spareView = s.spareView :=
  (State.spareView_wr (by decide)).trans ((State.spareView_wr (by decide)).trans (State.spareView_wr (by decide)))

/-- A spare that starts to enter is being copied, or in service at once. -/
theorem State.startEntry_leaves (s : State) (i : Inst) :
    (s.startEntry i).spareView = s.spareView ∧ ((s.startEntry i).phase i = some 1 ∨ (s.startEntry i).phase i = some 2) := by
  unfold State.startEntry
  extract_lets f0 f v x ctl st
  split
  · obtain ⟨name, flag⟩ : 0x5000 ≤ f.1.page.base 0 ∧ 0x5000 ≤ f.2.page.base 0 := by
      simpa [f] using bankFld_behind_spares (decide (s.rd f0.1 i.block = 0x7F)) (i.kind == 2)
    refine ⟨?_, .inl (State.phase_setPhase ..)⟩
    show ((s.wr f.1 (i.pos % 128) i.block).on f.2 i.block).spareView = s.spareView
    rw [State.on_eq, State.spareView_wr flag, State.spareView_wr name]
  · split
    · have named : v.spareView = s.spareView := by
        show State.spareView (if _ then _ else _) = _
        split
        · exact State.spareView_wr (by decide)
        · exact State.spareView_wr (by decide)
      exact ⟨State.spareView_entered.trans ((State.spareView_setChState ..).trans named), .inr (State.entered_phase ..)⟩
    · split
      · exact ⟨State.spareView_entered.trans (State.spareView_useSpareLane ..), .inr (State.entered_phase ..)⟩
      · split
        · exact ⟨State.spareView_entered, .inr (State.entered_phase ..)⟩
        · exact ⟨rfl, .inl (State.phase_setPhase ..)⟩

/-! ### An item becomes permanent (R618, R621, R622) -/

/-- A retired item, a port that has not gone down apart. -/
theorem State.spareView_markRetired (port : i.kind = 13 → s.rd LNK_STAT_STATE i.block = 5) : (s.markRetired i).spareView = s.spareView := by
  unfold State.markRetired
  split
  · exact (State.spareView_wr (by decide)).trans (State.spareView_wr (by decide))
  · split
    · exact (State.spareView_wr (by decide)).trans rfl
    · split
      · split
        · exact State.spareView_wr (by decide)
        · exact State.spareView_wr (by decide)
      · split
        next link => rw [if_pos (port link)]
        · rfl

/-- How a retired item goes on: it has no spare, its spare starts to enter, or it waits for software. -/
def State.settled (s : State) (i : Inst) : State :=
  if s.spareLeft i = 0 then (s.setPhase i 3).pendKind i.kind
  else if s.autoSpare i then s.startEntry i
  else (s.setPhase i 0).pendKind i.kind

theorem State.settled_leaves (s : State) (i : Inst) :
    (s.settled i).spareView = s.spareView ∧ ((s.settled i).phase i).isSome = true := by
  have waits (n : Nat) : ((s.setPhase i n).pendKind i.kind).spareView = s.spareView ∧
      (((s.setPhase i n).pendKind i.kind).phase i).isSome = true := by
    have phase : ((s.setPhase i n).pendKind i.kind).phase i = some n := s.phase_setPhase i n
    exact ⟨State.spareView_pendKind _, by rw [phase]; rfl⟩
  unfold State.settled
  split
  · exact waits 3
  · split
    · obtain ⟨view, one | two⟩ := s.startEntry_leaves i
      · exact ⟨view, by rw [one]; rfl⟩
      · exact ⟨view, by rw [two]; rfl⟩
    · exact waits 0

theorem State.permanent_fresh (fresh : s.phase i = none) (unit : ¬ (i.kind = 1 ∨ i.kind = 3 ∨ i.kind = 12)) (n : Nat) :
    s.permanent i n = ((s.noted i n).markRetired i).settled i := by
  unfold State.permanent
  rw [fresh]
  exact if_neg unit

/-- A noted fault is counted, and its cause pends. -/
theorem State.noted_shows (s : State) (i : Inst) (n : Nat) :
    (s.noted i n).rd SPR_PC_PERMANENT = (s.rd SPR_PC_PERMANENT + 1) % 2 ^ SPR_PC_PERMANENT.w ∧
      (s.noted i n).ibi.any (fun e => e.1 == 5) = true := by
  refine ⟨?_, State.ibiRaise_any ..⟩
  rw [State.noted, State.foot_rd (State.foot_ibiRaise _ 5 []) _ _ _ List.not_mem_nil, State.bump_eq, State.rd_wr_same]
  exact congrArg (fun x => (x + 1) % _) (State.rd_logFrom _ (by decide) ..)

/-! ### SPR_CMD (R628, R754, R755) -/

theorem State.sprCmd_idle (idle : s.is SPR_CMD_STAT_BUSY = false) (f : State → State) : s.sprCmd f = f s := if_neg (by simp [idle])

theorem State.sprStatus_shows (s : State) (n : Nat) : (s.sprStatus n).rd SPR_CMD_STAT_STATUS = n % 256 := State.rd_wr_same ..

theorem State.foot_sprStatus (s : State) (n : Nat) :
    s.foot (s.sprStatus n) [SPR_CMD_STAT_BUSY.key 0 0, SPR_CMD_STAT_STATUS.key 0 0] :=
  State.foot_wr_of (State.foot_wr (by simp)) (by simp)

/-- A command that ends is answered with success, or stays BUSY while its item is being copied. -/
theorem State.sprSettle_cases (s : State) (i : Inst) : (s.sprSettle i).spareView = s.spareView ∧ (s.sprSettle i).retired = s.retired ∧
    (s.phase i = some 1 → i.kind ≠ 1 → i.kind ≠ 3 → i.kind ≠ 12 → (s.sprSettle i).is SPR_CMD_STAT_BUSY = true) ∧
    (s.phase i = some 2 → (s.sprSettle i).rd SPR_CMD_STAT_STATUS = stSuccess) := by
  unfold State.sprSettle
  split
  next copied =>
    refine ⟨State.spareView_wr_key (by decide) _, rfl, fun _ _ _ _ => State.is_wr_one _ _ _ _ rfl, fun two => ?_⟩
    rw [copied.1] at two
    cases two
  next ready =>
    exact ⟨State.spareView_sprStatus _, rfl, fun one h1 h3 h12 => absurd ⟨one, h1, h3, h12⟩ ready, fun _ => State.sprStatus_shows ..⟩

/-! #### RETIRE -/

section
variable {kind block : Nat} (rails : s.railsUp = true) (idle : s.is SPR_CMD_STAT_BUSY = false)
include rails idle

theorem exec_retire_malformed (h : (s.sprInst kind block).kind = 15 ∨ (s.sprInst kind block).exists' = false) :
    exec (.retire kind block) s = .next (s.commit (s.sprStatus stMalformed)) := by
  have run : exec (.retire kind block) s = .next (s.commit (retireEffect kind block s)) := State.rails_next rails rfl _
  rw [run, retireEffect, State.sprCmd_idle idle]
  dsimp only
  rw [if_pos (by simpa using h)]

variable (known : (s.sprInst kind block).exists' = true)
include known

theorem exec_retire_repair (h : (s.sprInst kind block).kind = 1 ∨ (s.sprInst kind block).kind = 3 ∨ (s.sprInst kind block).kind = 12) :
    exec (.retire kind block) s = .next (s.commit ((s.ledgerNote 4 (s.sprInst kind block) 0).sprStatus stSuccess)) := by
  have run : exec (.retire kind block) s = .next (s.commit (retireEffect kind block s)) := State.rails_next rails rfl _
  rw [run, retireEffect, State.sprCmd_idle idle]
  dsimp only
  rw [if_neg (by simp [known]; omega), if_pos h]

section
variable (unit : ¬ (s.sprInst kind block).kind = 15) (noRepair : ¬ ((s.sprInst kind block).kind = 1 ∨ (s.sprInst kind block).kind = 3 ∨
  (s.sprInst kind block).kind = 12))
include unit noRepair

theorem exec_retire_busy (h : (s.phase (s.sprInst kind block)).isSome = true) :
    exec (.retire kind block) s = .next (s.commit (s.sprStatus stBusy)) := by
  have run : exec (.retire kind block) s = .next (s.commit (retireEffect kind block s)) := State.rails_next rails rfl _
  rw [run, retireEffect, State.sprCmd_idle idle]
  dsimp only
  rw [if_neg (by simp [known, unit]), if_neg noRepair, if_pos h]

theorem exec_retire_fresh (h : s.phase (s.sprInst kind block) = none) :
    exec (.retire kind block) s = .next (s.commit ((s.permanent (s.sprInst kind block) 0).sprSettle (s.sprInst kind block))) := by
  have run : exec (.retire kind block) s = .next (s.commit (retireEffect kind block s)) := State.rails_next rails rfl _
  rw [run, retireEffect, State.sprCmd_idle idle]
  dsimp only
  rw [if_neg (by simp [known, unit]), if_neg noRepair, if_neg (by simp [h])]

end

end

/-- What RETIRE of an item that is not retired leaves. -/
theorem State.permanent_retires (fresh : s.phase i = none) (noRepair : ¬ (i.kind = 1 ∨ i.kind = 3 ∨ i.kind = 12))
    (port : i.kind = 13 → s.rd LNK_STAT_STATE i.block = 5) :
    let t := (s.permanent i 0).sprSettle i
    (t.phase i).isSome = true ∧ t.rd SPR_PC_PERMANENT = (s.rd SPR_PC_PERMANENT + 1) % 2 ^ SPR_PC_PERMANENT.w ∧
      t.ibi.any (fun e => e.1 == 5) = true ∧ s.sameStore t := by
  intro t
  have down : i.kind = 13 → (s.noted i 0).rd LNK_STAT_STATE i.block = 5 := fun link =>
    (State.foot_rd (s.foot_noted i 0) _ _ _ (lnk_notin_noted rfl i.block)).trans (port link)
  obtain ⟨settled, phase⟩ := ((s.noted i 0).markRetired i).settled_leaves i
  obtain ⟨ended, retired, -, -⟩ := (s.permanent i 0).sprSettle_cases i
  obtain ⟨count, ibi⟩ := s.noted_shows i 0
  have made := State.permanent_fresh fresh noRepair 0
  have view : t.spareView = (s.noted i 0).spareView := ended.trans (by rw [made, settled, State.spareView_markRetired down])
  have store := State.spareView_sameStore view
  have noted := (s.foot_noted i 0).1
  refine ⟨?_, (congrArg SpareView.faults view).trans count, ?_, fun a => (store.1 a).trans (noted.1 a), fun k => (store.2 k).trans (noted.2 k)⟩
  · rw [State.phase, retired, ← State.phase, made]
    exact phase
  · rw [show t.ibi = (s.noted i 0).ibi from congrArg SpareView.ibi view]
    exact ibi

/-! #### ENTER -/

/-- The kind's bit of SPR_PENDING goes when no item of the kind waits any more. -/
def State.unpended (s : State) (i : Inst) : State :=
  if s.retired.any (fun r => r.1.kind == i.kind && (r.2 == 0 || r.2 == 3)) then s
  else s.wr SPR_PENDING_KINDS (s.rd SPR_PENDING_KINDS - (s.rd SPR_PENDING_KINDS &&& 2 ^ i.kind))

theorem State.unpended_leaves (s : State) (i : Inst) : (s.unpended i).retired = s.retired ∧ (s.unpended i).spareView = s.spareView ∧
    (s.unpended i).rd SPR_CMD_STAT_BUSY = s.rd SPR_CMD_STAT_BUSY ∧ (s.unpended i).rd SPR_CMD_STAT_STATUS = s.rd SPR_CMD_STAT_STATUS := by
  unfold State.unpended
  split
  · exact ⟨rfl, rfl, rfl, rfl⟩
  · exact ⟨rfl, State.spareView_wr_key (by decide) _, State.rd_wr_ne _ (by decide) _, State.rd_wr_ne _ (by decide) _⟩

section
variable {kind block : Nat} (rails : s.railsUp = true) (idle : s.is SPR_CMD_STAT_BUSY = false)
include rails idle

theorem exec_enter_malformed (h : (s.sprInst kind block).kind = 15 ∨ (s.sprInst kind block).kind = 1 ∨ (s.sprInst kind block).kind = 3 ∨
    (s.sprInst kind block).kind = 12) : exec (.enter kind block) s = .next (s.commit (s.sprStatus stMalformed)) := by
  have run : exec (.enter kind block) s = .next (s.commit (enterSpareEffect kind block s)) := State.rails_next rails rfl _
  rw [run, enterSpareEffect, State.sprCmd_idle idle]
  dsimp only
  rw [if_pos h]

theorem exec_enter_deferred (h : (s.sprInst kind block).kind = 5 ∨ (s.sprInst kind block).kind = 13 ∨ (s.sprInst kind block).kind = 14) :
    exec (.enter kind block) s = .next (s.commit (s.sprStatus stDeferred)) := by
  have run : exec (.enter kind block) s = .next (s.commit (enterSpareEffect kind block s)) := State.rails_next rails rfl _
  rw [run, enterSpareEffect, State.sprCmd_idle idle]
  dsimp only
  rw [if_neg (by omega), if_pos h]

variable (known : (s.sprInst kind block).exists' = true) (unit : ¬ ((s.sprInst kind block).kind = 15 ∨ (s.sprInst kind block).kind = 1 ∨
  (s.sprInst kind block).kind = 3 ∨ (s.sprInst kind block).kind = 12)) (spared : ¬ ((s.sprInst kind block).kind = 5 ∨
  (s.sprInst kind block).kind = 13 ∨ (s.sprInst kind block).kind = 14))
include known unit spared

theorem exec_enter_inUse (h : s.phase (s.sprInst kind block) = none) :
    exec (.enter kind block) s = .next (s.commit (s.sprStatus stBusy)) := by
  have run : exec (.enter kind block) s = .next (s.commit (enterSpareEffect kind block s)) := State.rails_next rails rfl _
  rw [run, enterSpareEffect, State.sprCmd_idle idle]
  dsimp only
  rw [if_neg unit, if_neg spared, if_neg (by simp [known]), h]

theorem exec_enter_noSpare (h : s.phase (s.sprInst kind block) = some 0) (none : s.spareLeft (s.sprInst kind block) = 0) :
    exec (.enter kind block) s = .next (s.commit (s.sprStatus stDeferred)) := by
  have run : exec (.enter kind block) s = .next (s.commit (enterSpareEffect kind block s)) := State.rails_next rails rfl _
  rw [run, enterSpareEffect, State.sprCmd_idle idle]
  dsimp only
  rw [if_neg unit, if_neg spared, if_neg (by simp [known]), h, if_pos none]
  rfl

theorem exec_enter_starts (h : s.phase (s.sprInst kind block) = some 0) (left : s.spareLeft (s.sprInst kind block) ≠ 0) :
    exec (.enter kind block) s =
      .next (s.commit (((s.startEntry (s.sprInst kind block)).sprSettle (s.sprInst kind block)).unpended (s.sprInst kind block))) := by
  have run : exec (.enter kind block) s = .next (s.commit (enterSpareEffect kind block s)) := State.rails_next rails rfl _
  rw [run, enterSpareEffect, State.sprCmd_idle idle]
  dsimp only
  rw [if_neg unit, if_neg spared, if_neg (by simp [known]), h, if_neg left]
  rfl

end

/-- What ENTER of an item with a spare left leaves. -/
theorem State.entry_started (noRepair : i.kind ≠ 1 ∧ i.kind ≠ 3 ∧ i.kind ≠ 12) :
    let t := ((s.startEntry i).sprSettle i).unpended i
    (t.phase i = some 1 ∧ t.is SPR_CMD_STAT_BUSY = true ∨ t.phase i = some 2 ∧ t.rd SPR_CMD_STAT_STATUS = stSuccess) ∧ s.sameStore t := by
  intro t
  obtain ⟨started, phase⟩ := s.startEntry_leaves i
  obtain ⟨settled, retired, copied, done⟩ := (s.startEntry i).sprSettle_cases i
  obtain ⟨retired', view, busy, status⟩ := ((s.startEntry i).sprSettle i).unpended_leaves i
  obtain ⟨h1, h3, h12⟩ := noRepair
  have same : t.phase i = (s.startEntry i).phase i := by rw [State.phase, retired', retired, State.phase]
  refine ⟨?_, State.spareView_sameStore (view.trans (settled.trans started))⟩
  rcases phase with one | two
  · exact .inl ⟨same.trans one, (congrArg (· != 0) busy).trans (copied one h1 h3 h12)⟩
  · exact .inr ⟨same.trans two, status.trans (done two)⟩

/-! #### ANNOTATE -/

section
variable {kind block : Nat} (rails : s.railsUp = true) (idle : s.is SPR_CMD_STAT_BUSY = false)
include rails idle

theorem exec_annotate_room (room : (s.ledger false).length + s.ledgerPend.length < ledgerCap) : exec (.annotate kind block) s =
    .next (s.commit ((s.ledgerNote 9 (s.sprInst kind block) (s.rd SPR_CMD_POS)).sprStatus stSuccess)) := by
  have run : exec (.annotate kind block) s = .next (s.commit (annotateEffect kind block s)) := State.rails_next rails rfl _
  rw [run, annotateEffect, State.sprCmd_idle idle, if_neg (not_le.2 room)]

theorem exec_annotate_full (full : ledgerCap ≤ (s.ledger false).length + s.ledgerPend.length) :
    exec (.annotate kind block) s = .next (s.commit (s.sprStatus stDeferred)) := by
  have run : exec (.annotate kind block) s = .next (s.commit (annotateEffect kind block s)) := State.rails_next rails rfl _
  rw [run, annotateEffect, State.sprCmd_idle idle, if_pos full]

end

/-! ### SEAT_ENTRY (R25, R623) -/

/-- The registers that show what a core does. -/
def coreShown : List Fld := [CORE_STATE_STATE, CORE_STATE_OPCODE, CORE_STATE_CMD_INDEX, CORE_STEPS_LEFT, CORE_CMD_ADDR]

/-- Core `n` shows what core `o` shows. -/
def State.showsAs (s : State) (o n : Nat) : State := coreShown.foldl (fun (t : State) f => t.wr f (s.rd f o) n) s

/-- The map of a crew in which core `p` serves the seat of core `o`. -/
def State.mapWith (s : State) (c o p : Nat) : List Nat := (List.range 8).map (fun t => if s.phys c t = o % 9 then p else s.phys c t)

/-- What waits for core `o` waits for core `n`, which serves its seat. -/
def State.reseated (s : State) (c o p : Nat) : State :=
  { s.showsAs o (9 * c + p) with
    spareMap := Tab.put s.spareMap c (s.mapWith c o p)
    ops := s.ops.map (fun e => (e.1, match e.2.owner with
      | .core k => if k = o then { e.2 with owner := .core (9 * c + p) } else e.2
      | .agent a => { e.2 with owner := .agent (reseat o (9 * c + p) a) }
      | _ => e.2))
    slots := s.slots.map (fun f => (f.1, { f.2 with agents := f.2.agents.map (fun a => (reseat o (9 * c + p) a.1, a.2)) }))
    slotless := s.slotless.map (fun f =>
      { f with agents := f.agents.map (fun a => (reseat o (9 * c + p) a.1, a.2)) })
    arrived := s.arrived.map (fun a => { a with agent := reseat o (9 * c + p) a.agent })
    asked := s.asked.map (fun a => { a with agent := reseat o (9 * c + p) a.agent }) }

/-- The spare core holds the work of the retired one, and is enabled. -/
def State.coreMoved (s : State) (c o p : Nat) : State :=
  ((((s.reseated c o p).setCore (9 * c + p) { s.core o with failing := 0 }).setCore o default).showIdle o).wr (BLK_STAT_STATE .core) 1 (9 * c + p)

theorem seatEntryEffect_eq {c p : Nat} (h : s.enteringSeat c = some (i, p)) :
    seatEntryEffect c s = ((s.coreMoved c i.block p).entered i).fetchNext (9 * c + p) := by
  unfold seatEntryEffect State.coreMoved State.reseated State.showsAs State.mapWith coreShown
  rw [h] <;> rfl

/-- Registers aside, a core that shows another's work changes nothing. -/
theorem State.showsAs_parts (s : State) (o n : Nat) :
    ((s.showsAs o n).mem, (s.showsAs o n).undef, (s.showsAs o n).tokens) = (s.mem, s.undef, s.tokens) :=
  State.foldl_keep (fun t : State => (t.mem, t.undef, t.tokens)) (fun (t : State) f => t.wr f (s.rd f o) n) (fun _ _ => rfl) coreShown s

/-- STATE of a core is no register that a spare in service changes. -/
theorem coreState_notin_enteredKeys (n : Nat) : (BLK_STAT_STATE .core).key n 0 ∉ enteredKeys := by
  simp [enteredKeys, Fld.key, Page.base, BLK_STAT_STATE, LOG_DROPPED, BLK_INT_STAT, SPR_PC_ENTERED, SPR_CMD_STAT_BUSY, SPR_CMD_STAT_STATUS]
  omega

section
variable (s) (c p : Nat)

theorem State.coreMoved_core (o k : Nat) :
    (s.coreMoved c o p).core k =
      if k = o then default else if k = 9 * c + p then { s.core o with failing := 0 } else (s.reseated c o p).core k := by
  rw [State.coreMoved, State.core_wr, State.core_showIdle, State.core_setCore, State.core_setCore]

theorem State.coreMoved_phys (o : Nat) {k : Nat} (seat : k < 8) :
    (s.coreMoved c o p).phys c k = if s.phys c k = o % 9 then p else s.phys c k := by
  have map : (s.coreMoved c o p).spareMap = Tab.put s.spareMap c (s.mapWith c o p) := by
    simp only [State.coreMoved, State.showIdle, State.wr_spareMap, State.setCore_spareMap, State.reseated]
  rw [State.phys, map, Tab.look_put_same, State.mapWith]
  simp [seat]

theorem State.coreMoved_store (o : Nat) : s.sameStore (s.coreMoved c o p) := by
  obtain ⟨mem, undef, tokens⟩ : _ ∧ _ ∧ _ := by simpa only [Prod.mk.injEq] using s.showsAs_parts o (9 * c + p)
  refine ⟨fun a => State.rdByte_congr ?_ ?_ a, fun k => State.tok_congr ?_ k⟩
  · simpa only [State.coreMoved, State.showIdle, State.wr_mem, State.setCore_mem, State.reseated] using mem
  · simpa only [State.coreMoved, State.showIdle, State.wr_undef, State.setCore_undef, State.reseated] using undef
  · simpa only [State.coreMoved, State.showIdle, State.wr_tokens, State.setCore_tokens, State.reseated] using tokens

end

/-- What SEAT_ENTRY leaves before the seat goes on. -/
theorem State.seat_entered {c p : Nat} (other : i.block ≠ 9 * c + p) :
    let u := (s.coreMoved c i.block p).entered i
    u.phase i = some 2 ∧ u.blk .core (9 * c + p) = 1 ∧ u.core (9 * c + p) = { s.core i.block with failing := 0 } ∧ u.core i.block = default ∧
      (∀ k, k < 8 → u.phys c k = if s.phys c k = i.block % 9 then p else s.phys c k) ∧ s.sameStore u := by
  intro u
  obtain ⟨cores, map⟩ := (s.coreMoved c i.block p).entered_units i
  have core (k : Nat) : u.core k = (s.coreMoved c i.block p).core k := congrArg (Tab.look · k default) cores
  have phys (k : Nat) : u.phys c k = (s.coreMoved c i.block p).phys c k := by
    rw [State.phys, map, State.phys]
  have moved := s.coreMoved_store c p i.block
  have entered := ((s.coreMoved c i.block p).foot_entered i).1
  refine ⟨State.entered_phase .., ?_, ?_, ?_, fun k seat => (phys k).trans (s.coreMoved_phys c p i.block seat),
    fun a => (entered.1 a).trans (moved.1 a), fun k => (entered.2 k).trans (moved.2 k)⟩
  · exact (State.foot_rd ((s.coreMoved c i.block p).foot_entered i) _ _ _ (coreState_notin_enteredKeys _)).trans (State.rd_wr_same ..)
  · rw [core, s.coreMoved_core, if_neg other.symm, if_pos rfl]
  · rw [core, s.coreMoved_core, if_pos rfl]

/-- Settles O48: RETIRE, ENTER and ANNOTATE with each answer, the window, and the entry of a seat and of a unit. -/
theorem sparesEnterForRetiredItems : Obligations.SparesEnterForRetiredItems := by
  refine ⟨fun s kind block rails idle => ?_, fun s rails => ?_, fun s c p i rails crew entering other => ?_,
    fun s lpd ctl i rails drive copied => ?_⟩
  · have ends (n : Nat) : (s.commit (s.sprStatus n)).rd SPR_CMD_STAT_STATUS = n % 256 ∧ (s.commit (s.sprStatus n)).retired = s.retired ∧
        s.sameStore (s.commit (s.sprStatus n)) :=
      ⟨(State.rd_commit ..).trans (s.sprStatus_shows n), rfl, (State.foot_commit (s.foot_sprStatus n)).1⟩
    have commits {t : State} (store : s.sameStore t) : s.sameStore (s.commit t) :=
      ⟨fun a => (State.rdByte_commit ..).trans (store.1 a), fun k => (State.tok_commit ..).trans (store.2 k)⟩
    refine ⟨fun bad => ⟨_, exec_retire_malformed rails idle bad, ends stMalformed⟩, fun known repair => ?_, fun known h15 h1 h3 h12 retired =>
      ⟨_, exec_retire_busy rails idle known h15 (by omega) retired, ends stBusy⟩, fun known h15 h1 h3 h12 fresh port => ?_,
      fun bad => ⟨_, exec_enter_malformed rails idle bad, ends stMalformed⟩,
      fun none => ⟨_, exec_enter_deferred rails idle none, ends stDeferred⟩, fun known h15 h1 h3 h12 h5 h13 h14 => ⟨fun fresh => ?_,
        fun waits none => ?_, fun waits left => ?_⟩, fun room => ?_, fun full => ?_⟩
    · refine ⟨_, exec_retire_repair rails idle known repair, (State.rd_commit ..).trans (State.sprStatus_shows ..), ?_, rfl, commits ?_⟩
      · exact List.length_append ..
      · exact ((s.ledgerNote 4 (s.sprInst kind block) 0).foot_sprStatus stSuccess).1
    · obtain ⟨phase, count, ibi, store⟩ := State.permanent_retires fresh (by omega) port
      exact ⟨_, exec_retire_fresh rails idle known h15 (by omega) fresh, phase, (State.rd_commit ..).trans count, ibi, commits store⟩
    · exact ⟨_, exec_enter_inUse rails idle known (by omega) (by omega) fresh, ends stBusy⟩
    · exact ⟨_, exec_enter_noSpare rails idle known (by omega) (by omega) waits none, ends stDeferred⟩
    · obtain ⟨outcome, store⟩ := State.entry_started (s := s) (i := s.sprInst kind block) ⟨h1, h3, h12⟩
      refine ⟨_, exec_enter_starts rails idle known (by omega) (by omega) waits left, ?_, commits store⟩
      show _ ∧ (s.commit _).is _ = true ∨ _ ∧ (s.commit _).rd _ = _
      rw [State.is_commit, State.rd_commit]
      exact outcome
    · refine ⟨_, exec_annotate_room rails idle room, (State.rd_commit ..).trans (State.sprStatus_shows ..), ?_, rfl, ?_⟩
      · exact commits ((s.ledgerNote 9 (s.sprInst kind block) (s.rd SPR_CMD_POS)).foot_sprStatus stSuccess).1
      · exact (State.foot_commit ((s.ledgerNote 9 (s.sprInst kind block) (s.rd SPR_CMD_POS)).foot_sprStatus stSuccess)).2
    · obtain ⟨status, -, store⟩ := ends stDeferred
      exact ⟨_, exec_annotate_full rails idle full, status, rfl, store⟩
  · obtain ⟨run, store, regs⟩ := State.rails_foot (ks := []) rails rfl (fun s => { s with faults := [] }) (State.foot_of_eq rfl rfl rfl rfl)
    exact ⟨_, run, rfl, store, regs⟩
  · have run : exec (.seatEntry c) s = .next (s.commit (seatEntryEffect c s)) := State.rails_next rails (by simp [crew, entering]) _
    rw [seatEntryEffect_eq entering] at run
    exact ⟨_, run, State.seat_entered other⟩
  · have run : exec (.unitRemap lpd ctl) s = .next (s.commit (unitRemapEffect lpd ctl s)) := State.rails_next rails (by simp [drive, copied]) _
    have effect : unitRemapEffect lpd ctl s = s.entered i := by rw [unitRemapEffect, copied]
    rw [effect] at run
    exact ⟨_, run, State.entered_phase .., State.entered_ledgerPend .., (State.rd_commit ..).trans State.rd_entered,
      (State.foot_commit (s.foot_entered i)).1⟩

end Sys2Proof.Machine
end

section
/-!
PROOF. The test units, the sweeps of the memory margins and the boundary scan port (R699 to R708).
-/
namespace Sys2Proof.Machine

variable {s t : State}

/-! ### The test unit of a page (R699 to R701) -/

/-- The fields of a page's test unit: RUN, STATE, LOCK, ERRORS, BITS. -/
abbrev TestRegs := Fld × Fld × Fld × Fld × Fld × Fld × Fld

/-- The place of a field in its page, in bits. -/
def Fld.place (f : Fld) : Nat := (f.off * 8 + f.lo) % 4096

theorem State.rd_wr_apart {f g : Fld} (h : f.place ≠ g.place) (s : State) (v i j : Nat) : (s.wr g v j).rd f i = s.rd f i :=
  State.rd_wr_place h v i j

/-- Every test unit has its fields at the same places. -/
theorem testRegs_places {p : Page} {m : TestRegs} (h : testRegs p = some m) :
    m.1.place = 3584 ∧ m.2.2.1.place = 3600 ∧ m.2.2.2.1.place = 3616 ∧ m.2.2.2.2.1.place = 3618 ∧ m.2.2.2.2.2.1.place = 3648 ∧
      m.2.2.2.2.2.2.place = 3712 ∧ m.2.2.1.w = 1 ∧ m.2.2.2.1.w = 2 := by
  cases p <;> cases h <;> decide

/-- The test runs, with its lock and counts at 0. -/
def State.testUnderWay (s : State) (m : TestRegs) (i : Nat) : State :=
  ((((s.on m.2.2.1 i).wr m.2.2.2.1 1 i).wr m.2.2.2.2.1 0 i).wr m.2.2.2.2.2.1 0 i).wr m.2.2.2.2.2.2 0 i

/-- The test is refused. -/
def State.testRefused (s : State) (m : TestRegs) (i : Nat) : State := (s.off m.2.2.1 i).wr m.2.2.2.1 2 i

/-- The registers of a test that runs. -/
def testKeys (m : TestRegs) (i : Nat) : List Nat :=
  [m.2.2.1.key i 0, m.2.2.2.1.key i 0, m.2.2.2.2.1.key i 0, m.2.2.2.2.2.1.key i 0, m.2.2.2.2.2.2.key i 0]

section
variable {p : Page} {m : TestRegs} {i : Nat}

theorem testRunEffect_eq (h : testRegs p = some m) : testRunEffect p i s =
    if s.testOk p i (s.rd m.1 i) then
      if p = .hif ∧ ((s.testUnderWay m i).rd m.1 i = 2 ∨ (s.testUnderWay m i).rd m.1 i = 4) ∧ (s.testUnderWay m i).front then (s.testUnderWay m i).pcieDown
      else s.testUnderWay m i
    else s.testRefused m i := by
  unfold testRunEffect
  rw [h]
  rfl

theorem State.foot_testUnderWay (s : State) (m : TestRegs) (i : Nat) : s.foot (s.testUnderWay m i) (testKeys m i) := by
  refine State.foot_wr_of (State.foot_wr_of (State.foot_wr_of (State.foot_wr_of (State.foot_wr ?_) ?_) ?_) ?_) ?_ <;> simp [testKeys]

theorem State.foot_testRefused (s : State) (m : TestRegs) (i : Nat) : s.foot (s.testRefused m i) [m.2.2.1.key i 0, m.2.2.2.1.key i 0] :=
  State.foot_wr_of (State.foot_wr (by simp)) (by simp)

/-- What a test that runs shows. -/
theorem State.testUnderWay_shows (h : testRegs p = some m) (s : State) (i : Nat) :
    (s.testUnderWay m i).rd m.1 i = s.rd m.1 i ∧ (s.testUnderWay m i).is m.2.2.1 i = true ∧ (s.testUnderWay m i).rd m.2.2.2.1 i = 1 ∧
      (s.testUnderWay m i).rd m.2.2.2.2.1 i = 0 ∧ (s.testUnderWay m i).rd m.2.2.2.2.2.1 i = 0 ∧ (s.testUnderWay m i).rd m.2.2.2.2.2.2 i = 0 := by
  obtain ⟨mode, run, state, lock, errors, bits, one, two⟩ := testRegs_places h
  unfold State.testUnderWay
  refine ⟨?_, ?_, ?_, ?_, ?_, ?_⟩
  · rw [State.rd_wr_apart (by omega), State.rd_wr_apart (by omega), State.rd_wr_apart (by omega), State.rd_wr_apart (by omega), State.on_eq,
      State.rd_wr_apart (by omega)]
  · rw [State.is, State.rd_wr_apart (by omega), State.rd_wr_apart (by omega), State.rd_wr_apart (by omega), State.rd_wr_apart (by omega),
      ← State.is, State.on_eq, State.is_wr_one _ _ _ _ one]
  · rw [State.rd_wr_apart (by omega), State.rd_wr_apart (by omega), State.rd_wr_apart (by omega), State.rd_wr_same, two]
    rfl
  · rw [State.rd_wr_apart (by omega), State.rd_wr_apart (by omega), State.rd_wr_same, Nat.zero_mod]
  · rw [State.rd_wr_apart (by omega), State.rd_wr_same, Nat.zero_mod]
  · rw [State.rd_wr_same, Nat.zero_mod]

theorem State.testRefused_shows (h : testRegs p = some m) (s : State) (i : Nat) :
    (s.testRefused m i).is m.2.2.1 i = false ∧ (s.testRefused m i).rd m.2.2.2.1 i = 2 := by
  obtain ⟨mode, run, state, lock, errors, bits, one, two⟩ := testRegs_places h
  unfold State.testRefused
  refine ⟨?_, ?_⟩
  · rw [State.is, State.rd_wr_apart (by omega), ← State.is, State.off_eq, State.is_wr_zero]
  · rw [State.rd_wr_same, two]
    rfl

/-- A test of the host link leaves what the link is. -/
theorem State.testUnderWay_front (h : testRegs .hif = some m) (s : State) : (s.testUnderWay m 0).front = s.front := by
  cases h
  exact congrArg (· != 0) (State.foot_rd (s.foot_testUnderWay _ 0) HIF_LINK_STAT_FRONT 0 0 (by decide))

variable (rails : s.railsUp = true) (item : i < p.count) (h : testRegs p = some m)
include rails item h

theorem exec_testRun : exec (.testRun p i) s = .next (s.commit (testRunEffect p i s)) := State.rails_next rails (by simp [item, h]) _

theorem exec_testRun_runs (ok : s.testOk p i (s.rd m.1 i) = true) (link : p = .hif → s.rd m.1 i = 1 ∨ s.front = false) :
    exec (.testRun p i) s = .next (s.commit (s.testUnderWay m i)) := by
  have stays : ¬ (p = .hif ∧ ((s.testUnderWay m i).rd m.1 i = 2 ∨ (s.testUnderWay m i).rd m.1 i = 4) ∧ (s.testUnderWay m i).front = true) := by
    rintro ⟨rfl, mode, front⟩
    obtain rfl : i = 0 := Nat.lt_one_iff.1 item
    rw [(s.testUnderWay_shows h 0).1] at mode
    rw [s.testUnderWay_front h] at front
    rcases link rfl with one | off
    · omega
    · exact Bool.false_ne_true (off.symm.trans front)
  rw [exec_testRun rails item h, testRunEffect_eq h, if_pos ok, if_neg stays]

theorem exec_testRun_linkDown (ok : s.testOk p i (s.rd m.1 i) = true) (link : p = .hif) (other : s.rd m.1 i ≠ 1) (front : s.front = true) :
    exec (.testRun p i) s = .next (s.commit (s.testUnderWay m i).pcieDown) := by
  subst link
  obtain rfl : i = 0 := Nat.lt_one_iff.1 item
  have modes : s.rd m.1 0 = 2 ∨ s.rd m.1 0 = 4 := by
    simp [State.testOk, testModeOk] at ok
    omega
  rw [exec_testRun rails item h, testRunEffect_eq h, if_pos ok, if_pos ⟨rfl, by rwa [(s.testUnderWay_shows h 0).1], by rwa [s.testUnderWay_front h]⟩]

theorem exec_testRun_refused (no : s.testOk p i (s.rd m.1 i) = false) : exec (.testRun p i) s = .next (s.commit (s.testRefused m i)) := by
  rw [exec_testRun rails item h, testRunEffect_eq h, if_neg (by simp [no])]

end

/-- A link that is down leaves the registers of the test. -/
theorem State.pcieDown_leaves {f : Fld} (apart : f.key 0 0 ∉ HIF_ERR_LINK_DOWN.key 0 0 :: linkKeys) (s : State) : s.pcieDown.rd f = s.rd f := by
  obtain ⟨shown, link⟩ := not_or.mp (fun mem => apart (List.mem_cons.mpr mem))
  exact (State.foot_rd s.foot_pcieDown f 0 0 link).trans (State.rd_wr_ne _ shown _)

theorem State.pcieDown_reads (s : State) : s.pcieDown.hostReads = [] := by
  obtain ⟨l, ps, only⟩ := s.pcieDown_only
  rw [only]
  rfl

/-! ### Margining (R702 to R704) -/

/-- Every controller has its margin registers at the same places. -/
theorem marginRegs_places (lpd : Bool) :
    let m := marginRegs lpd
    m.go.place = 3856 ∧ m.busy.place = 3857 ∧ m.paused.place = 3858 ∧ m.low.place = 3872 ∧ m.high.place = 3880 ∧ m.worst.place = 3888 ∧
      m.valid.place = 3896 ∧ m.clipped.place = 3897 := by
  cases lpd <;> decide

theorem marginRegs_widths (lpd : Bool) :
    let m := marginRegs lpd
    m.go.w = 1 ∧ m.busy.w = 1 ∧ m.valid.w = 1 ∧ m.clipped.w = 1 ∧ m.low.w = 8 ∧ m.high.w = 8 := by
  cases lpd <;> decide

/-- The register of a controller that reads a refused sweep. -/
def refusedFld (lpd : Bool) : Fld := if lpd then LPD_TEST_STAT_STATE else HBM_TEST_STAT_STATE

/-- The registers of a sweep at its start. -/
def State.sweepShown (s : State) (lpd : Bool) (c : Nat) : State :=
  let m := marginRegs lpd
  let s := ((((s.wr m.low 0 c).wr m.high 0 c).wr m.worst 0 c).wr m.valid 0 c).wr m.clipped 0 c
  ((s.on m.go c).on m.busy c).wr m.paused (b2n (s.sweepPaused lpd c)) c

section
variable {lpd : Bool} {c : Nat}

theorem marginGoEffect_starts (idle : s.is (marginRegs lpd).busy c = false) (ok : s.memTestOk lpd c = true) : marginGoEffect lpd c s =
    { s.sweepShown lpd c with
      sweeps := Tab.put (s.sweepShown lpd c).sweeps (sweepKey lpd c) { upper := false, steps := 0, worst := none } } := by
  unfold marginGoEffect
  dsimp only
  rw [if_neg (by simp [idle]), if_neg (by simp [ok])]
  rfl

theorem marginGoEffect_refused (idle : s.is (marginRegs lpd).busy c = false) (no : s.memTestOk lpd c = false) :
    marginGoEffect lpd c s = s.wr (refusedFld lpd) 2 c := by
  unfold marginGoEffect
  dsimp only
  rw [if_neg (by simp [idle]), if_pos (by simp [no])]
  rfl

theorem State.sweepShown_shows (s : State) (lpd : Bool) (c : Nat) :
    (s.sweepShown lpd c).is (marginRegs lpd).busy c = true ∧ (s.sweepShown lpd c).is (marginRegs lpd).go c = true ∧
      (s.sweepShown lpd c).is (marginRegs lpd).valid c = false := by
  obtain ⟨go, busy, paused, low, high, worst, valid, clipped⟩ := marginRegs_places lpd
  obtain ⟨goBit, busyBit, -⟩ := marginRegs_widths lpd
  unfold State.sweepShown State.is
  refine ⟨?_, ?_, ?_⟩
  · rw [State.rd_wr_apart (by omega), State.on_eq, State.rd_wr_same, busyBit]
    rfl
  · rw [State.rd_wr_apart (by omega), State.on_eq, State.rd_wr_apart (by omega), State.on_eq, State.rd_wr_same, goBit]
    rfl
  · rw [State.rd_wr_apart (by omega), State.on_eq, State.rd_wr_apart (by omega), State.on_eq, State.rd_wr_apart (by omega),
      State.rd_wr_apart (by omega), State.rd_wr_same, Nat.zero_mod]
    rfl

/-- A sweep changes registers only. -/
theorem State.sweepShown_store (s : State) (lpd : Bool) (c : Nat) : s.sameStore (s.sweepShown lpd c) := by
  simp only [State.sweepShown, State.on_eq]
  exact ⟨fun a => by simp, fun k => by simp⟩

end

section
variable {lpd : Bool} {c : Nat} {w : Sweep} {errors : List Nat}

theorem marginTrialEffect_passes (found : Tab.find s.sweeps (sweepKey lpd c) = some w) (clean : ∀ e, e ∈ errors → e = 0) :
    marginTrialEffect lpd c errors s =
      if 127 ≤ w.steps + 1 then s.endSide lpd c { w with steps := w.steps + 1 } true
      else { s with sweeps := Tab.put s.sweeps (sweepKey lpd c) { w with steps := w.steps + 1 } } := by
  have none : errors.findIdx? (fun e => e != 0) = none := List.findIdx?_eq_none_iff.2 (fun e mem => by simp [clean e mem])
  unfold marginTrialEffect
  rw [found, none]

theorem marginTrialEffect_fails (found : Tab.find s.sweeps (sweepKey lpd c) = some w) {dq : Nat}
    (first : errors.findIdx? (fun e => e != 0) = some dq) :
    marginTrialEffect lpd c errors s = s.endSide lpd c { w with worst := some (w.worst.getD dq) } false := by
  unfold marginTrialEffect
  rw [found, first]

/-- The lower side has ended with every step passed. -/
theorem State.endSide_lower (s : State) (lpd : Bool) (c : Nat) (lower : w.upper = false) (below : w.steps < 128) :
    (s.endSide lpd c w true).rd (marginRegs lpd).low c = w.steps ∧ (s.endSide lpd c w true).is (marginRegs lpd).clipped c = true ∧
      Tab.find (s.endSide lpd c w true).sweeps (sweepKey lpd c) = some { upper := true, steps := 0, worst := w.worst } ∧
      s.sameStore (s.endSide lpd c w true) := by
  obtain ⟨go, busy, paused, low, high, worst, valid, clipped⟩ := marginRegs_places lpd
  obtain ⟨-, -, -, bit, width, -⟩ := marginRegs_widths lpd
  have eq : s.endSide lpd c w true =
      let t := (s.wr (marginRegs lpd).low w.steps c).on (marginRegs lpd).clipped c
      { t with sweeps := Tab.put t.sweeps (sweepKey lpd c) { upper := true, steps := 0, worst := w.worst } } := by
    simp [State.endSide, lower]
  rw [eq]
  refine ⟨?_, State.is_wr_one _ _ _ _ bit, (Tab.find_put ..).trans (if_pos rfl), fun _ => rfl, fun _ => rfl⟩
  show ((s.wr (marginRegs lpd).low w.steps c).wr (marginRegs lpd).clipped 1 c).rd (marginRegs lpd).low c = w.steps
  rw [State.rd_wr_apart (by omega), State.rd_wr_same, width]
  exact Nat.mod_eq_of_lt (by omega)

/-- What the end of the upper side shows. -/
def State.sweepResult (s : State) (lpd : Bool) (c : Nat) (w : Sweep) : State :=
  let m := marginRegs lpd
  (((((s.wr m.high w.steps c).wr m.worst (w.worst.getD 0) c).on m.valid c).wr m.busy 0 c).wr m.go 0 c).wr m.paused 0 c

theorem State.endSide_upper (s : State) (lpd : Bool) (c : Nat) (upper : w.upper = true) :
    s.endSide lpd c w false = { s.sweepResult lpd c w with sweeps := Tab.del (s.sweepResult lpd c w).sweeps (sweepKey lpd c) } := by
  simp only [State.endSide, upper, State.sweepResult, if_true, Bool.false_eq_true, if_false, State.wr_sweeps, State.on_eq]

theorem State.rd_sweeps (s : State) (x : List (Nat × Sweep)) (f : Fld) (i j : Nat) : ({ s with sweeps := x } : State).rd f i j = s.rd f i j := rfl

theorem State.sameStore_sweeps (s : State) (x : List (Nat × Sweep)) : s.sameStore { s with sweeps := x } := ⟨fun _ => rfl, fun _ => rfl⟩

theorem State.sweepResult_shows (s : State) (lpd : Bool) (c : Nat) (below : w.steps < 256) :
    let t := s.sweepResult lpd c w
    t.rd (marginRegs lpd).high c = w.steps ∧ t.is (marginRegs lpd).valid c = true ∧ t.is (marginRegs lpd).busy c = false ∧
      t.is (marginRegs lpd).go c = false ∧ t.rd (marginRegs lpd).worst c = (w.worst.getD 0) % 2 ^ (marginRegs lpd).worst.w := by
  obtain ⟨go, busy, paused, low, high, worst, valid, clipped⟩ := marginRegs_places lpd
  obtain ⟨-, -, bit, -, -, width⟩ := marginRegs_widths lpd
  unfold State.sweepResult State.is
  refine ⟨?_, ?_, ?_, ?_, ?_⟩
  · rw [State.rd_wr_apart (by omega), State.rd_wr_apart (by omega), State.rd_wr_apart (by omega), State.on_eq, State.rd_wr_apart (by omega),
      State.rd_wr_apart (by omega), State.rd_wr_same, width]
    exact Nat.mod_eq_of_lt (by omega)
  · rw [State.rd_wr_apart (by omega), State.rd_wr_apart (by omega), State.rd_wr_apart (by omega), State.on_eq, State.rd_wr_same, bit]
    rfl
  · rw [State.rd_wr_apart (by omega), State.rd_wr_apart (by omega), State.rd_wr_same, Nat.zero_mod]
    rfl
  · rw [State.rd_wr_apart (by omega), State.rd_wr_same, Nat.zero_mod]
    rfl
  · rw [State.rd_wr_apart (by omega), State.rd_wr_apart (by omega), State.rd_wr_apart (by omega), State.on_eq, State.rd_wr_apart (by omega),
      State.rd_wr_same]

theorem State.sweepResult_store (s : State) (lpd : Bool) (c : Nat) (w : Sweep) : s.sameStore (s.sweepResult lpd c w) := by
  simp only [State.sweepResult, State.on_eq]
  exact ⟨fun a => by simp, fun k => by simp⟩

end

/-- The side that ends a sweep writes its result, and the sweep is gone (R704). -/
theorem State.sweepEnds {w : Sweep} (s : State) (lpd : Bool) (c : Nat) (upper : w.upper = true) (below : w.steps < 256) :
    let t := s.commit (s.endSide lpd c w false)
    t.rd (marginRegs lpd).high c = w.steps ∧ t.is (marginRegs lpd).valid c = true ∧ t.is (marginRegs lpd).busy c = false ∧
      t.is (marginRegs lpd).go c = false ∧ t.rd (marginRegs lpd).worst c = (w.worst.getD 0) % 2 ^ (marginRegs lpd).worst.w ∧
      s.sameStore t := by
  obtain ⟨high, valid, busy, go, worst⟩ := s.sweepResult_shows (w := w) lpd c below
  have store := s.sweepResult_store lpd c w
  rw [State.endSide_upper s lpd c upper]
  generalize s.sweepResult lpd c w = r at high valid busy go worst store
  have gone := r.sameStore_sweeps (Tab.del r.sweeps (sweepKey lpd c))
  simp only [State.is, State.rd_commit, State.rd_sweeps]
  exact ⟨high, valid, busy, go, worst, fun a => (State.rdByte_commit ..).trans ((gone.1 a).trans (store.1 a)),
    fun k => (State.tok_commit ..).trans ((gone.2 k).trans (store.2 k))⟩

/-! ### JTAG (R705 to R708) -/

/-- Loading the instruction register changes the port alone. -/
theorem State.foot_loadIr (s : State) (code : Nat) : s.foot (s.loadIr code) [] := State.foot_of_eq rfl rfl rfl rfl

/-- No port holds a frame to replay or to send. -/
def State.portsQuiet (s : State) : Prop := ∀ q, q < 16 → (s.port q).replay = [] ∧ (s.port q).tx = []

/-- A port that is neither disabled nor failed fails. -/
def State.lowered (s : State) (q : Nat) : State :=
  if s.rd LNK_STAT_STATE q = 0 ∨ s.rd LNK_STAT_STATE q = 5 then s else s.portDown q

/-- What a port that goes down leaves: every port quiet, memory and tokens, the test port, the PCIe link, and the state of each other port. -/
structure State.Lowers (s t : State) (down : Nat → Prop) : Prop where
  quiet : t.portsQuiet
  store : s.sameStore t
  tap : t.tap = s.tap
  front : t.front = s.front
  failed : ∀ q, down q → s.rd LNK_STAT_STATE q ≠ 0 → t.rd LNK_STAT_STATE q = 5
  others : ∀ q, ¬ down q → t.rd LNK_STAT_STATE q = s.rd LNK_STAT_STATE q

theorem stateKey_inj {q r : Nat} (h : LNK_STAT_STATE.key q 0 = LNK_STAT_STATE.key r 0) : q = r := by
  simp only [Fld.key, Page.base, LNK_STAT_STATE] at h
  omega

theorem State.lowered_lowers (quiet : s.portsQuiet) {q : Nat} (low : q < 16) : s.Lowers (s.lowered q) (· = q) := by
  unfold State.lowered
  split
  next off =>
    refine ⟨quiet, ⟨fun _ => rfl, fun _ => rfl⟩, rfl, rfl, fun r here up => ?_, fun _ _ => rfl⟩
    subst here
    exact off.resolve_left up
  next up =>
    obtain ⟨replay, tx⟩ := quiet q low
    have down : s.portDown q = (s.setPort q { s.port q with replay := [], tx := [], phase := 0 }).setPortState q 5 := by
      unfold State.portDown
      simp only [replay, tx]
      rfl
    obtain ⟨rs, l, only⟩ := (s.setPort q { s.port q with replay := [], tx := [], phase := 0 }).setPortState_only q 5
    have foot := (s.setPort q { s.port q with replay := [], tx := [], phase := 0 }).foot_setPortState q 5
    have link : HIF_LINK_STAT_FRONT.key 0 0 ∉ stateKeys q := by
      have low : HIF_LINK_STAT_FRONT.key 0 0 < 0x200000 := by decide
      simp only [stateKeys, List.mem_cons, List.not_mem_nil, or_false, not_or]
      exact ⟨(Fld.lnk_ne_low rfl low q 0).symm, (Fld.lnk_ne_low rfl low q 0).symm, by decide⟩
    rw [down]
    refine ⟨fun r below => ?_, foot.1, by rw [only]; rfl, ?_, fun r here _ => ?_, fun r other => ?_⟩
    · have port : ((s.setPort q { s.port q with replay := [], tx := [], phase := 0 }).setPortState q 5).port r =
          (s.setPort q { s.port q with replay := [], tx := [], phase := 0 }).port r := by rw [only]; rfl
      rw [port, State.port_setPort]
      split
      · exact ⟨rfl, rfl⟩
      · exact quiet r below
    · exact congrArg (· != 0) ((State.foot_rd foot HIF_LINK_STAT_FRONT 0 0 link).trans (s.rd_setPort ..))
    · subst here
      exact State.rd_setPortState ..
    · refine (State.foot_rd foot _ _ _ ?_).trans (s.rd_setPort ..)
      simp only [stateKeys, List.mem_cons, List.not_mem_nil, or_false, not_or]
      refine ⟨fun same => other (stateKey_inj same), fun same => ?_, Fld.lnk_ne_low rfl (by decide) r 0⟩
      exact Fld.key_ne (f := LNK_STAT_STATE) (g := LNK_CTL_RETRAIN) (by decide) r q same

/-- Every port of a list goes down. -/
theorem State.lowered_all (l : List Nat) (low : ∀ q ∈ l, q < 16) (quiet : s.portsQuiet) : s.Lowers (l.foldl State.lowered s) (· ∈ l) := by
  induction l generalizing s with
  | nil => exact ⟨quiet, ⟨fun _ => rfl, fun _ => rfl⟩, rfl, rfl, fun _ mem => absurd mem List.not_mem_nil, fun _ _ => rfl⟩
  | cons q l ih =>
    have one := State.lowered_lowers quiet (low q List.mem_cons_self)
    have rest := ih (fun r mem => low r (List.mem_cons_of_mem q mem)) one.quiet
    refine ⟨rest.quiet, ⟨fun a => (rest.store.1 a).trans (one.store.1 a), fun k => (rest.store.2 k).trans (one.store.2 k)⟩,
      rest.tap.trans one.tap, rest.front.trans one.front, fun r mem up => ?_, fun r other => ?_⟩
    · by_cases here : r = q
      · have five := one.failed r here up
        by_cases again : r ∈ l
        · exact rest.failed r again (by rw [five]; decide)
        · exact (rest.others r again).trans five
      · exact rest.failed r ((List.mem_cons.1 mem).resolve_left here) (by rwa [one.others r here])
    · obtain ⟨here, later⟩ := not_or.1 (fun h => other (List.mem_cons.2 h))
      exact (rest.others r later).trans (one.others r here)

/-- Off a front device every port that is up fails, and nothing else is lost (R708). -/
theorem State.linksDown_leaves (back : s.front = false) (quiet : s.portsQuiet) :
    s.linksDown.tap = s.tap ∧ s.sameStore s.linksDown ∧
      (∀ q, q < 16 → s.railsUp = true → s.portUp q = true → s.linksDown.rd LNK_STAT_STATE q = 5) ∧
      (s.railsUp = false → s.linksDown = s) := by
  have all := State.lowered_all (s := s) (List.range 16) (fun q mem => List.mem_range.1 mem) quiet
  have eq : s.linksDown = if s.railsUp && (s.front || (List.range 16).any s.portUp) then
      (if ((List.range 16).foldl State.lowered s).front then ((List.range 16).foldl State.lowered s).pcieDown
        else (List.range 16).foldl State.lowered s) else s := rfl
  rw [all.front, back] at eq
  simp only [Bool.false_eq_true, if_false, Bool.false_or] at eq
  rw [eq]
  split
  next down =>
    refine ⟨all.tap, all.store, fun q low _ up => all.failed q (List.mem_range.2 low) (fun off => ?_), fun off => ?_⟩
    · simp [State.portUp, off] at up
    · simp [off] at down
  next still =>
    refine ⟨rfl, ⟨fun _ => rfl, fun _ => rfl⟩, fun q low rails up => absurd ?_ still, fun _ => rfl⟩
    simp only [rails, Bool.true_and, List.any_eq_true, List.mem_range]
    exact ⟨q, low, up⟩

/-- EXTEST, CLAMP and HIGHZ (R706, R708). -/
theorem exec_boundary {c : Instr} {ir : Nat} (standby : s.pwr.standby = true)
    (hc : c = .extest ∧ ir = 0x00 ∨ c = .clamp ∧ ir = 0x04 ∨ c = .highz ∧ ir = 0x05) :
    exec c s = .next (s.commit (s.loadIr ir).linksDown) := by
  have run : exec c s = s.always s.pwr.standby (fun s => (s.loadIr ir).linksDown) := by
    rcases hc with ⟨rfl, rfl⟩ | ⟨rfl, rfl⟩ | ⟨rfl, rfl⟩ <;> rfl
  exact run.trans (State.always_next standby _)

/-- IDCODE, BYPASS and TEST_LOGIC_RESET (R705, R706). -/
theorem exec_register {c : Instr} {ir : Nat} (standby : s.pwr.standby = true)
    (hc : c = .idcode ∧ ir = 0x01 ∨ c = .bypass ∧ ir = 0xFF ∨ c = .testLogicReset ∧ ir = 0x01) :
    exec c s = .next (s.commit (s.loadIr ir)) := by
  have run : exec c s = s.always s.pwr.standby (fun s => s.loadIr ir) := by
    rcases hc with ⟨rfl, rfl⟩ | ⟨rfl, rfl⟩ | ⟨rfl, rfl⟩ <;> rfl
  exact run.trans (State.always_next standby _)

/-- The boundary register takes what is shifted in. -/
def State.preloaded (s : State) (cells : List Bool) : State := { s with tap := { ir := 0x02, cells := cells } }

theorem State.foot_preloaded (s : State) (cells : List Bool) : s.foot (s.preloaded cells) [] := State.foot_of_eq rfl rfl rfl rfl

theorem State.preloaded_tap (s : State) (cells : List Bool) : (s.preloaded cells).tap = { ir := 0x02, cells := cells } := rfl

/-- SAMPLE_PRELOAD (R706). -/
theorem exec_samplePreload {cells : List Bool} (standby : s.pwr.standby = true) (length : cells.length = 96) :
    exec (.samplePreload cells) s = .next (s.commit (s.preloaded cells)) := by
  have run : exec (.samplePreload cells) s =
      s.always (s.pwr.standby && decide (cells.length = 96)) (fun s => s.preloaded cells) := rfl
  have ok : (s.pwr.standby && decide (cells.length = 96)) = true := by rw [standby, decide_eq_true length, Bool.and_self]
  exact run.trans (State.always_next ok _)

/-- Settles O53: the test units, the follower, the start and the trials of a sweep, and the JTAG instructions. -/
theorem testsAndBoundaryScanRun : Obligations.TestsAndBoundaryScanRun := by
  have commits {s t : State} (store : s.sameStore t) : s.sameStore (s.commit t) :=
    ⟨fun a => (State.rdByte_commit ..).trans (store.1 a), fun k => (State.tok_commit ..).trans (store.2 k)⟩
  refine ⟨fun s p i m rails item h => ?_, fun s rails front => ?_, fun s lpd c rails mem idle => ?_,
    fun s lpd c w errors rails mem found running below => ?_, fun s standby => ?_⟩
  · refine ⟨fun ok link => ?_, fun ok link other front => ?_, fun no => ?_⟩
    · obtain ⟨-, run, state, lock, errors, bits⟩ := State.testUnderWay_shows h s i
      obtain ⟨store, regs⟩ := State.foot_commit (u := s) (s.foot_testUnderWay m i)
      exact ⟨_, exec_testRun_runs rails item h ok link, (State.is_commit ..).trans run, (State.rd_commit ..).trans state,
        (State.rd_commit ..).trans lock, (State.rd_commit ..).trans errors, (State.rd_commit ..).trans bits, store, regs⟩
    · obtain ⟨-, -, state, -⟩ := State.testUnderWay_shows h s i
      refine ⟨_, exec_testRun_linkDown rails item h ok link other front, ?_, (State.is_commit ..).trans (State.pcieDown_front _),
        State.pcieDown_reads _⟩
      subst link
      obtain rfl : i = 0 := Nat.lt_one_iff.1 item
      cases h
      exact (State.rd_commit ..).trans ((State.pcieDown_leaves (by decide) _).trans state)
    · obtain ⟨run, state⟩ := State.testRefused_shows h s i
      obtain ⟨store, regs⟩ := State.foot_commit (u := s) (s.foot_testRefused m i)
      exact ⟨_, exec_testRun_refused rails item h no, (State.is_commit ..).trans run, (State.rd_commit ..).trans state, store, regs⟩
  · have run : exec .loopbackFollower s = .next (s.commit (loopbackFollowerEffect s)) := State.rails_next rails front _
    exact ⟨_, run, (State.rd_commit ..).trans ((State.pcieDown_leaves (by decide) _).trans (State.rd_wr_same ..)),
      (State.is_commit ..).trans (State.pcieDown_front _), State.pcieDown_reads _⟩
  · have run : exec (.marginGo lpd c) s = .next (s.commit (marginGoEffect lpd c s)) := State.rails_next rails mem _
    refine ⟨fun ok => ?_, fun no => ?_⟩
    · obtain ⟨busy, go, valid⟩ := s.sweepShown_shows lpd c
      rw [marginGoEffect_starts idle ok] at run
      exact ⟨_, run, (State.is_commit ..).trans busy, (State.is_commit ..).trans go, (Tab.find_put ..).trans (if_pos rfl),
        (State.is_commit ..).trans valid, commits (s.sweepShown_store lpd c)⟩
    · rw [marginGoEffect_refused idle no] at run
      obtain ⟨store, regs⟩ : s.foot _ [(refusedFld lpd).key c 0] :=
        State.foot_commit (u := s) (State.foot_wr (s := s) (f := refusedFld lpd) (v := 2) (i := c) (List.mem_singleton_self _))
      refine ⟨_, run, (State.rd_commit ..).trans ((State.rd_wr_same s (refusedFld lpd) 2 c 0).trans ?_), rfl, store, regs⟩
      cases lpd <;> rfl
  · have run : exec (.marginTrial lpd c errors) s = .next (s.commit (marginTrialEffect lpd c errors s)) :=
      State.rails_next rails (by simp [mem, found, running]) _
    refine ⟨fun clean more => ?_, fun clean last lower => ?_, fun dq first upper => ?_⟩
    · rw [marginTrialEffect_passes found clean, if_neg (by omega)] at run
      obtain ⟨store, regs⟩ : s.foot _ [] := State.foot_commit (u := s) (s := s)
        (t := { s with sweeps := Tab.put s.sweeps (sweepKey lpd c) { w with steps := w.steps + 1 } }) (State.foot_of_eq rfl rfl rfl rfl)
      exact ⟨_, run, store, regs, (Tab.find_put ..).trans (if_pos rfl)⟩
    · rw [marginTrialEffect_passes found clean, if_pos last.ge] at run
      obtain ⟨low, clipped, sweep, store⟩ := s.endSide_lower (w := { w with steps := w.steps + 1 }) lpd c lower
        (show w.steps + 1 < 128 by omega)
      exact ⟨_, run, (State.rd_commit ..).trans (low.trans last), (State.is_commit ..).trans clipped, sweep, commits store⟩
    · rw [marginTrialEffect_fails found first] at run
      exact ⟨_, run, s.sweepEnds (w := { w with worst := some (w.worst.getD dq) }) lpd c upper (show w.steps < 256 by omega)⟩
  · refine ⟨fun c ir hc => ?_, fun cells length => ?_, fun c ir hc back quiet => ?_⟩
    · obtain ⟨store, regs⟩ := State.foot_commit (u := s) (s.foot_loadIr ir)
      exact ⟨_, exec_register standby hc, rfl, store, regs⟩
    · obtain ⟨store, regs⟩ := State.foot_commit (u := s) (s.foot_preloaded cells)
      exact ⟨_, exec_samplePreload standby length, s.preloaded_tap cells, store, regs⟩
    · obtain ⟨tap, store, failed, still⟩ := State.linksDown_leaves (s := s.loadIr ir) back quiet
      refine ⟨_, exec_boundary standby hc, tap, commits store, fun q low rails up => (State.rd_commit ..).trans (failed q low rails up),
        fun off => ?_⟩
      rw [still off]
      exact (State.foot_commit (u := s) (s.foot_loadIr ir)).2

end Sys2Proof.Machine
end

section
/-!
PROOF. The check of the limits moves the operating point, and work in EASY returns the module to ROW (R651, R663, R677, R757).
-/
namespace Sys2Proof.Machine

variable {s t : State}

/-! ### The readings of a check (R677, R757) -/

/-- One reading: the temperature of a die, its peak, and that it is valid. -/
def State.dieRead (s : State) (e : Nat × Nat) : State :=
  ((s.wr TMP_DIE_TEMP e.1 0 e.2).wr TMP_DIE_PEAK (max e.1 (s.rd TMP_DIE_PEAK 0 e.2)) 0 e.2).wr TMP_DIE_VALID 1 0 e.2

/-- The other fields of the dies lie at other bits of their words. -/
theorem TMP_DIE_TEMP_ne {g : Fld} (page : g.page = .tmp) (stride : g.stride = 4) (bit : (g.off * 8 + g.lo) % 32 ≠ 0) (j k : Nat) :
    TMP_DIE_TEMP.key 0 j ≠ g.key 0 k := by
  intro same
  simp only [Fld.key, TMP_DIE_TEMP, page, stride, Page.base] at same
  omega

theorem State.dieRead_temp (s : State) (e : Nat × Nat) (j : Nat) :
    (s.dieRead e).rd TMP_DIE_TEMP 0 j = if j = e.2 then e.1 % 256 else s.rd TMP_DIE_TEMP 0 j := by
  unfold State.dieRead
  rw [State.rd_wr_ne _ (TMP_DIE_TEMP_ne rfl rfl (by decide) _ _), State.rd_wr_ne _ (TMP_DIE_TEMP_ne rfl rfl (by decide) _ _)]
  split
  next same => subst same; exact State.rd_wr_same ..
  next other => exact State.rd_wr_ne _ (fun same => other (by simpa [Fld.key, TMP_DIE_TEMP] using same)) _

/-- Each die shows its own reading. -/
theorem State.diesRead_temp (l : List Nat) : ∀ (s : State) (k j : Nat), k ≤ j → j < k + l.length →
    ((l.zipIdx k).foldl State.dieRead s).rd TMP_DIE_TEMP 0 j = l.getD (j - k) 0 % 256 := by
  have later (l : List Nat) : ∀ (s : State) (k j : Nat), j < k →
      ((l.zipIdx k).foldl State.dieRead s).rd TMP_DIE_TEMP 0 j = s.rd TMP_DIE_TEMP 0 j := by
    induction l with
    | nil => exact fun _ _ _ _ => rfl
    | cons x l ih =>
      intro s k j below
      rw [List.zipIdx_cons, List.foldl_cons, ih _ _ _ (by omega), State.dieRead_temp, if_neg (by omega)]
  induction l with
  | nil => intro s k j from' below; exact absurd below (by simp; omega)
  | cons x l ih =>
    intro s k j start below
    rw [List.zipIdx_cons, List.foldl_cons]
    obtain rfl | after := Nat.eq_or_lt_of_le start
    · rw [later l _ _ _ (Nat.lt_succ_self k), State.dieRead_temp, if_pos rfl, Nat.sub_self]; rfl
    · rw [List.length_cons] at below
      rw [ih _ _ _ after (by omega), show j - k = j - (k + 1) + 1 by omega, List.getD_cons_succ]

theorem State.dieRead_low (s : State) (e : Nat × Nat) (f : Fld) (i j : Nat) (low : lowKey (f.key i j)) :
    (s.dieRead e).rd f i j = s.rd f i j := by
  have high (g : Fld) (page : g.page = .tmp) (n : Nat) : ¬ lowKey (g.key 0 n) := by
    simp only [lowKey, Fld.key, page, Page.base]; omega
  unfold State.dieRead
  rw [State.rd_wr_low _ (high _ rfl _) f i j low, State.rd_wr_low _ (high _ rfl _) f i j low, State.rd_wr_low _ (high _ rfl _) f i j low]

/-- What the readings of the dies leave: memory, tokens, the clock, the power unit and the low registers. -/
theorem State.diesRead_leaves (l : List (Nat × Nat)) (s : State) :
    s.sameStore (l.foldl State.dieRead s) ∧ (l.foldl State.dieRead s).clock = s.clock ∧ (l.foldl State.dieRead s).pwr = s.pwr ∧
      ∀ (f : Fld) (i j : Nat), lowKey (f.key i j) → (l.foldl State.dieRead s).rd f i j = s.rd f i j :=
  ⟨⟨fun a => State.foldl_keep (fun u => u.rdByte a) State.dieRead (fun _ _ => rfl) l s,
      fun k => State.foldl_keep (fun u => u.tok k) State.dieRead (fun _ _ => rfl) l s⟩,
    State.foldl_keep (fun u => u.clock) State.dieRead (fun _ _ => rfl) l s, State.foldl_keep (fun u => u.pwr) State.dieRead (fun _ _ => rfl) l s,
    fun f i j low => State.foldl_keep (fun u => u.rd f i j) State.dieRead (fun u e => u.dieRead_low e f i j low) l s⟩

/-- The registers of the module's readings, beside those of the dies. -/
def readingKeys : List Nat :=
  [TMP_HOTTEST_TEMP.key 0 0, TMP_HOTTEST_DIE.key 0 0, TMP_HOTTEST_VALID.key 0 0, PWR_INPUT_MV.key 0 0, PWR_INPUT_W.key 0 0,
    PWR_PC_ENERGY.key 0 0]

/-- The readings beside those of the dies. -/
def State.moduleRead (s : State) (hot die mv w energy : Nat) : State :=
  (((((s.wr TMP_HOTTEST_TEMP hot).wr TMP_HOTTEST_DIE die).wr TMP_HOTTEST_VALID 1).wr PWR_INPUT_MV mv).wr PWR_INPUT_W w).wr PWR_PC_ENERGY energy

theorem State.foot_moduleRead (s : State) (hot die mv w energy : Nat) : s.foot (s.moduleRead hot die mv w energy) readingKeys := by
  unfold State.moduleRead
  iterate 6 refine State.foot_wr_of ?_ (by decide)
  exact s.foot_refl

theorem State.moduleRead_shows (s : State) (hot die mv w energy : Nat) :
    let t := s.moduleRead hot die mv w energy
    t.rd TMP_HOTTEST_TEMP = hot % 256 ∧ t.rd PWR_INPUT_MV = mv % 65536 ∧ t.rd PWR_INPUT_W = w % 4096 ∧ t.clock = s.clock ∧ t.pwr = s.pwr := by
  unfold State.moduleRead
  refine ⟨?_, ?_, ?_, rfl, rfl⟩ <;> simp (disch := decide) only [State.rd_wr_ne, State.rd_wr_same] <;> rfl

/-- The temperatures of a reading as the registers hold them. -/
def shownTemps (r : PowerReading) : List Nat := (r.temps.take 6).map (fun x => min x 255)

/-- The hottest of them. -/
def hottest (r : PowerReading) : Nat := (shownTemps r).foldl max 0

theorem shownTemps_six {r : PowerReading} (six : r.temps.length = 6) : shownTemps r = r.temps.map (fun x => min x 255) := by
  rw [shownTemps, List.take_of_length_le (Nat.le_of_eq six)]

theorem shownTemps_length {r : PowerReading} (six : r.temps.length = 6) : (shownTemps r).length = 6 := by
  rw [shownTemps_six six, List.length_map, six]

theorem shownTemps_le (r : PowerReading) (j : Nat) : (shownTemps r).getD j 0 ≤ 255 := by
  unfold shownTemps
  rw [List.getD_eq_getElem?_getD, List.getElem?_map]
  cases (r.temps.take 6)[j]? with
  | none => exact Nat.zero_le _
  | some x => exact Nat.min_le_right x 255

theorem hottest_le (r : PowerReading) : hottest r ≤ 255 := by
  have bounded (l : List Nat) (within : ∀ x ∈ l, x ≤ 255) : ∀ b, b ≤ 255 → l.foldl max b ≤ 255 := by
    induction l with
    | nil => exact fun b hb => hb
    | cons x l ih =>
      intro b hb
      rw [List.forall_mem_cons] at within
      exact ih within.2 _ (Nat.max_le.2 ⟨hb, within.1⟩)
  refine bounded _ (fun x hx => ?_) 0 (Nat.zero_le _)
  obtain ⟨y, -, rfl⟩ := List.mem_map.1 hx
  exact Nat.min_le_right ..

theorem State.telemetry_eq (s : State) (r : PowerReading) : ∃ die energy,
    s.telemetry r = ((shownTemps r).zipIdx.foldl State.dieRead s).moduleRead (hottest r) die (min r.mv 65535) (min r.w 4095) energy :=
  ⟨_, _, rfl⟩

/-- What a check's telemetry shows, and what it leaves (R677, R757). -/
theorem State.telemetry_shows {r : PowerReading} (s : State) (six : r.temps.length = 6) :
    (∀ j, j < 6 → (s.telemetry r).rd TMP_DIE_TEMP 0 j = (shownTemps r).getD j 0) ∧ (s.telemetry r).rd TMP_HOTTEST_TEMP = hottest r ∧
      (s.telemetry r).rd PWR_INPUT_MV = min r.mv 65535 ∧ (s.telemetry r).rd PWR_INPUT_W = min r.w 4095 ∧
      (s.telemetry r).clock = s.clock ∧ (s.telemetry r).pwr = s.pwr ∧ s.sameStore (s.telemetry r) ∧
      ∀ f : Fld, lowKey (f.key 0 0) → f.key 0 0 ∉ readingKeys → (s.telemetry r).rd f = s.rd f := by
  obtain ⟨die, energy, eq⟩ := s.telemetry_eq r
  obtain ⟨store, clock, pwr, low⟩ := State.diesRead_leaves (shownTemps r).zipIdx s
  have temps := State.diesRead_temp (shownTemps r) s 0
  rw [eq]
  generalize (shownTemps r).zipIdx.foldl State.dieRead s = u at store clock pwr low temps
  obtain ⟨hot, mv, w, clocked, powered⟩ := u.moduleRead_shows (hottest r) die (min r.mv 65535) (min r.w 4095) energy
  have foot := u.foot_moduleRead (hottest r) die (min r.mv 65535) (min r.w 4095) energy
  refine ⟨fun j below => ?_, hot.trans (Nat.mod_eq_of_lt (Nat.lt_succ_of_le (hottest_le r))), mv.trans (Nat.mod_eq_of_lt (by omega)),
    w.trans (Nat.mod_eq_of_lt (by omega)), clocked.trans clock, powered.trans pwr, ⟨fun a => (foot.1.1 a).trans (store.1 a), fun k => (foot.1.2 k).trans (store.2 k)⟩,
    fun f within apart => (State.foot_rd foot f 0 0 apart).trans (low f 0 0 within)⟩
  have apart : ∀ j, j < 6 → TMP_DIE_TEMP.key 0 j ∉ readingKeys := by decide
  rw [State.foot_rd foot _ _ _ (apart j below), temps j (Nat.zero_le _) (by rw [shownTemps_length six]; omega), Nat.sub_zero,
    Nat.mod_eq_of_lt (Nat.lt_succ_of_le (shownTemps_le r j))]

/-! ### The operating point (R663) -/

/-- The registers that a check may change to throttle. -/
def throttleKeys : List Nat := [PWR_CLOCK_POINT.key 0 0, PWR_CLOCK_CAUSE.key 0 0, (BLK_INT_STAT .tmp).key 0 0]

theorem State.foot_setPoint (s : State) (p c : Nat) : s.foot (s.setPoint p c) [PWR_CLOCK_POINT.key 0 0, PWR_CLOCK_CAUSE.key 0 0] := by
  unfold State.setPoint
  split
  · exact s.foot_refl
  · exact State.foot_wr_of (State.foot_wr (by decide)) (by decide)

theorem State.setPoint_point (s : State) {p : Nat} (below : p < 8) (c : Nat) : (s.setPoint p c).rd PWR_CLOCK_POINT = p := by
  unfold State.setPoint
  split
  next same => exact same
  · rw [State.rd_wr_ne _ (by decide), State.rd_wr_same]
    exact Nat.mod_eq_of_lt below

theorem State.setPoint_keeps (s : State) (p c : Nat) : (s.setPoint p c).clock = s.clock ∧ (s.setPoint p c).ibi = s.ibi := by
  unfold State.setPoint
  split <;> exact ⟨rfl, rfl⟩

theorem State.foot_capPoint (s : State) : s.foot s.capPoint [PWR_CLOCK_POINT.key 0 0, PWR_CLOCK_CAUSE.key 0 0] := by
  unfold State.capPoint
  split
  · exact s.foot_setPoint _ _
  · exact s.foot_refl

theorem State.capPoint_keeps (s : State) : s.capPoint.clock = s.clock ∧ s.capPoint.ibi = s.ibi := by
  unfold State.capPoint
  split
  · exact s.setPoint_keeps _ _
  · exact ⟨rfl, rfl⟩

/-- The point is never faster than PWR_CLOCK_MAX. -/
theorem State.capPoint_point (s : State) (slow : s.rd PWR_CLOCK_POINT ≤ 6) :
    s.capPoint.rd PWR_CLOCK_POINT = max (s.rd PWR_CLOCK_POINT) (min 6 (s.rd PWR_CLOCK_MAX_POINT)) := by
  unfold State.capPoint
  split
  · rw [State.setPoint_point _ (by omega)]
    omega
  · omega

/-- The power unit alone changes. -/
theorem State.foot_updPwr (s : State) (f : PowerUnit → PowerUnit) (ks : List Nat) : s.foot (s.updPwr f) ks := State.foot_of_eq rfl rfl rfl rfl

/-- The die is too hot: the slowest point, cause 8 and the in-band cause (R663). -/
def State.tooHot (s : State) : State := ((s.setPoint 6 1).cause .tmp 8).ibiRaise 3

theorem State.tooHot_shows (s : State) : s.tooHot.rd PWR_CLOCK_POINT = 6 ∧ bitOf (s.tooHot.rd (BLK_INT_STAT .tmp)) 8 = true ∧
    s.tooHot.ibi.any (fun e => e.1 == 3) = true ∧ s.tooHot.clock = s.clock ∧ s.foot s.tooHot throttleKeys := by
  have raised := State.foot_ibiRaise ((s.setPoint 6 1).cause .tmp 8) 3 []
  have foot : s.foot s.tooHot throttleKeys :=
    State.foot_then (State.foot_cause_of (State.foot_mono (s.foot_setPoint 6 1) (by decide)) (by decide)) (State.foot_mono raised (by simp))
  refine ⟨?_, ?_, State.ibiRaise_any _ 3, ?_, foot⟩
  · refine (State.foot_rd raised _ 0 0 (by simp)).trans ?_
    rw [State.cause_eq, State.rd_wr_ne _ (by decide), State.setPoint_point _ (by decide)]
  · rw [show s.tooHot.rd (BLK_INT_STAT .tmp) = _ from State.foot_rd raised _ 0 0 (by simp), State.cause_eq, State.rd_wr_same]
    show ((_ ||| 2 ^ 8) % 2 ^ 32).testBit 8 = true
    simp only [Nat.testBit_mod_two_pow, Nat.testBit_or, Nat.testBit_two_pow_self, Bool.or_true, Bool.and_true]
    decide
  · obtain ⟨l, only⟩ := State.ibiRaise_only ((s.setPoint 6 1).cause .tmp 8) 3
    rw [State.tooHot, only]
    exact (s.setPoint_keeps 6 1).1

/-- What a check leaves when it throttles. -/
theorem State.throttle_leaves (s : State) (hot w : Nat) : s.foot (s.throttle hot w) throttleKeys ∧ (s.throttle hot w).clock = s.clock := by
  have moved (p c : Nat) (f : PowerUnit → PowerUnit) :
      s.foot ((s.setPoint p c).updPwr f) throttleKeys ∧ ((s.setPoint p c).updPwr f).clock = s.clock :=
    ⟨State.foot_then (State.foot_mono (s.foot_setPoint p c) (by decide)) (State.foot_updPwr ..), (s.setPoint_keeps p c).1⟩
  have still (f : PowerUnit → PowerUnit) : s.foot (s.updPwr f) throttleKeys ∧ (s.updPwr f).clock = s.clock := ⟨s.foot_updPwr .., rfl⟩
  obtain ⟨-, -, -, clock, foot⟩ := s.tooHot_shows
  unfold State.throttle
  dsimp only
  split
  · exact ⟨State.foot_then foot (State.foot_updPwr ..), clock⟩
  · repeat' split
    · exact moved ..
    · exact moved ..
    · exact moved ..
    · exact still _
    · exact still _
    · exact still _

theorem State.throttle_hot (s : State) {hot w : Nat} (high : 105 ≤ hot) : s.throttle hot w = s.tooHot.updPwr (fun u => { u with calm := 0 }) := by
  unfold State.throttle
  exact if_pos high

theorem State.throttle_slower (s : State) {hot w : Nat} (below : hot < 105) (act : 95 ≤ hot ∨ s.rd PWR_LIMIT_W < w) :
    (s.throttle hot w).rd PWR_CLOCK_POINT = min 6 (s.rd PWR_CLOCK_POINT + 1) := by
  unfold State.throttle
  dsimp only
  rw [if_neg (by omega)]
  split
  · exact s.setPoint_point (by omega) 2
  next cool =>
    rw [if_pos (act.resolve_left cool)]
    exact s.setPoint_point (by omega) 3

/-! ### The check (R663) -/

/-- The instant of the next check. -/
def State.checkDue (s : State) : Nat := max s.clock (s.pwr.checkAt + 16000000)

/-- The next check has been reached, and the time at a slower point counted. -/
def State.checkReached (s : State) : State :=
  let u := (s.at s.checkDue).updPwr (fun p => { p with checkAt := s.checkDue })
  if u.rd PWR_CLOCK_POINT = 0 ∨ !u.railsUp then u else u.bump PWR_PC_THROTTLE_NS ((s.checkDue - s.pwr.checkAt) / 16)

theorem State.checkReached_leaves (s : State) :
    s.checkReached.clock = s.checkDue ∧ s.checkReached.pwr.ready = s.pwr.ready ∧ s.foot s.checkReached [PWR_PC_THROTTLE_NS.key 0 0] := by
  have reached : s.foot ((s.at s.checkDue).updPwr (fun p => { p with checkAt := s.checkDue })) [PWR_PC_THROTTLE_NS.key 0 0] :=
    State.foot_of_eq rfl rfl rfl rfl
  have clock : max s.clock s.checkDue = s.checkDue := by unfold State.checkDue; omega
  unfold State.checkReached
  dsimp only
  split
  · exact ⟨clock, rfl, reached⟩
  · exact ⟨clock, rfl, State.foot_wr_of reached (List.mem_singleton_self _)⟩

/-- The action of a check while the rails are on (R663). -/
def State.acted (s : State) (w : Nat) : State := (s.throttle (s.rd TMP_HOTTEST_TEMP) w).capPoint

theorem powerCheckEffect_eq (r : PowerReading) (s : State) : powerCheckEffect r s =
    if (s.checkReached.telemetry r).railsUp then (s.checkReached.telemetry r).acted r.w else s.checkReached.telemetry r := rfl

theorem State.acted_leaves (s : State) (w : Nat) : s.foot (s.acted w) throttleKeys ∧ (s.acted w).clock = s.clock := by
  obtain ⟨foot, clock⟩ := s.throttle_leaves (s.rd TMP_HOTTEST_TEMP) w
  exact ⟨State.foot_then foot (State.foot_mono (State.foot_capPoint _) (by decide)), (State.capPoint_keeps _).1.trans clock⟩

theorem State.acted_hot {s : State} {w : Nat} (high : 105 ≤ s.rd TMP_HOTTEST_TEMP) :
    (s.acted w).rd PWR_CLOCK_POINT = 6 ∧ bitOf ((s.acted w).rd (BLK_INT_STAT .tmp)) 8 = true ∧
      (s.acted w).ibi.any (fun e => e.1 == 3) = true := by
  obtain ⟨point, cause, pends, -, -⟩ := s.tooHot_shows
  have calm := s.tooHot.foot_updPwr (fun u => { u with calm := 0 }) []
  rw [State.acted, State.throttle_hot s high]
  generalize hu : s.tooHot.updPwr (fun u => { u with calm := 0 }) = u at calm
  have ibi : u.ibi = s.tooHot.ibi := hu ▸ rfl
  have slow : u.rd PWR_CLOCK_POINT = 6 := (State.foot_rd calm _ 0 0 (by simp)).trans point
  refine ⟨by rw [u.capPoint_point (by omega), slow]; omega, ?_, ?_⟩
  · rw [State.foot_rd u.foot_capPoint _ 0 0 (by decide), State.foot_rd calm _ 0 0 (by simp)]
    exact cause
  · rw [u.capPoint_keeps.2, ibi]
    exact pends

theorem State.acted_slower {s : State} {w : Nat} (below : s.rd TMP_HOTTEST_TEMP < 105)
    (act : 95 ≤ s.rd TMP_HOTTEST_TEMP ∨ s.rd PWR_LIMIT_W < w) :
    (s.acted w).rd PWR_CLOCK_POINT = max (min 6 (s.rd PWR_CLOCK_POINT + 1)) (min 6 (s.rd PWR_CLOCK_MAX_POINT)) := by
  have slower := s.throttle_slower below act
  rw [State.acted, State.capPoint_point _ (by omega), slower,
    State.foot_rd (s.throttle_leaves _ w).1 PWR_CLOCK_MAX_POINT 0 0 (by decide)]

/-- POWER_CHECK with the standby supply (R663, R677, R757). -/
theorem exec_powerCheck {r : PowerReading} (standby : s.pwr.standby = true) (six : r.temps.length = 6) :
    ∃ t, exec (.powerCheck r) s = .next t ∧ t.clock = s.checkDue ∧ (∀ j, j < 6 → t.rd TMP_DIE_TEMP 0 j = (shownTemps r).getD j 0) ∧
      t.rd TMP_HOTTEST_TEMP = hottest r ∧ t.rd PWR_INPUT_MV = min r.mv 65535 ∧ t.rd PWR_INPUT_W = min r.w 4095 ∧ s.sameStore t ∧
      (s.railsUp = false → t.rd PWR_CLOCK_POINT = s.rd PWR_CLOCK_POINT) ∧
      (s.railsUp = true → 105 ≤ hottest r → t.rd PWR_CLOCK_POINT = 6 ∧ bitOf (t.rd (BLK_INT_STAT .tmp)) 8 = true ∧
        t.ibi.any (fun e => e.1 == 3) = true) ∧
      (s.railsUp = true → hottest r < 105 → (95 ≤ hottest r ∨ s.rd PWR_LIMIT_W < r.w) →
        t.rd PWR_CLOCK_POINT = max (min 6 (s.rd PWR_CLOCK_POINT + 1)) (min 6 (s.rd PWR_CLOCK_MAX_POINT))) := by
  have run : exec (.powerCheck r) s = .next (s.commit (powerCheckEffect r s)) :=
    State.always_next (by rw [standby, six]; rfl) (powerCheckEffect r)
  obtain ⟨due, ready, reached⟩ := s.checkReached_leaves
  obtain ⟨temps, hot, mv, w, clock, pwr, store, low⟩ := s.checkReached.telemetry_shows six
  rw [powerCheckEffect_eq] at run
  generalize s.checkReached.telemetry r = u at run temps hot mv w clock pwr store low
  have keeps (f : Fld) (within : lowKey (f.key 0 0)) (apart : f.key 0 0 ∉ readingKeys) (other : f.key 0 0 ∉ [PWR_PC_THROTTLE_NS.key 0 0]) :
      u.rd f = s.rd f := (low f within apart).trans (State.foot_rd reached f 0 0 other)
  have rails : u.railsUp = s.railsUp := by
    unfold State.railsUp
    rw [keeps PWR_STAT_STATE (by decide) (by decide) (by decide), pwr, ready]
  have stored : s.sameStore u := ⟨fun a => (store.1 a).trans (reached.1.1 a), fun k => (store.2 k).trans (reached.1.2 k)⟩
  have point := keeps PWR_CLOCK_POINT (by decide) (by decide) (by decide)
  by_cases up : s.railsUp = true
  · rw [if_pos (rails.trans up)] at run
    obtain ⟨foot, kept⟩ := u.acted_leaves r.w
    have shows (f : Fld) (j : Nat) (apart : f.key 0 j ∉ throttleKeys) : (s.commit (u.acted r.w)).rd f 0 j = u.rd f 0 j :=
      (State.rd_commit ..).trans (State.foot_rd foot f 0 j apart)
    have dies : ∀ j, j < 6 → TMP_DIE_TEMP.key 0 j ∉ throttleKeys := by decide
    refine ⟨_, run, (kept.trans clock).trans due, fun j below => (shows _ j (dies j below)).trans (temps j below),
      (shows _ 0 (by decide)).trans hot, (shows _ 0 (by decide)).trans mv, (shows _ 0 (by decide)).trans w,
      State.sameStore_commit ⟨fun a => (foot.1.1 a).trans (stored.1 a), fun k => (foot.1.2 k).trans (stored.2 k)⟩,
      fun off => absurd up (by simp [off]), fun _ high => ?_, fun _ below act => (State.rd_commit ..).trans ?_⟩
    · obtain ⟨slow, cause, pends⟩ := State.acted_hot (s := u) (w := r.w) (hot ▸ high)
      exact ⟨(State.rd_commit ..).trans slow, (congrArg (bitOf · 8) (State.rd_commit ..)).trans cause, pends⟩
    · have limit := keeps PWR_LIMIT_W (by decide) (by decide) (by decide)
      have fastest := keeps PWR_CLOCK_MAX_POINT (by decide) (by decide) (by decide)
      rw [State.acted_slower (hot ▸ below) (by rwa [hot, limit]), point, fastest]
  · rw [if_neg (by rwa [rails])] at run
    exact ⟨_, run, clock.trans due, fun j below => (State.rd_commit ..).trans (temps j below), (State.rd_commit ..).trans hot,
      (State.rd_commit ..).trans mv, (State.rd_commit ..).trans w, State.sameStore_commit stored,
      fun _ => (State.rd_commit ..).trans point, fun on => absurd on up, fun on => absurd on up⟩

/-! ### Work leaves the power state that its return to ROW has brought (R651) -/

theorem State.holdWater_power (s : State) (st r : Nat) : (s.holdWater st r).rd PWR_STAT_STATE = s.rd PWR_STAT_STATE := by
  unfold State.holdWater
  split
  · simp only [State.cause_eq, State.logEv]
    rw [State.rd_wr_ne _ (by decide), State.rd_logFrom _ (by decide), State.rd_wr_ne _ (by decide), State.rd_wr_ne _ (by decide)]
    exact (State.rd_showHeld_low s.stopUnits _ 0 0 (by decide)).trans rfl
  · rfl

theorem State.orderHold_power (s : State) (st r : Nat) : (s.orderHold st r).rd PWR_STAT_STATE = s.rd PWR_STAT_STATE :=
  (State.holdWater_power ..).trans (State.foot_rd (s.foot_broadcast (ks := []) _ _) _ 0 0 (by simp))

theorem State.sendHoldReq_power (s : State) (st : Nat) : (s.sendHoldReq st).rd PWR_STAT_STATE = s.rd PWR_STAT_STATE := by
  unfold State.sendHoldReq
  cases starter : s.starter
  · obtain ⟨ps, sent⟩ | ⟨d, lost⟩ := State.toStarter_cases starter { noMsg with code := 5, dev := s.dev, num := s.stroke, status := st }
    · rw [sent]; rfl
    · rw [lost]
      exact (State.holdWater_power ..).trans (State.rd_logFrom _ (by decide) ..)
  · have taken : s.toStarter { noMsg with code := 5, dev := s.dev, num := s.stroke, status := st } =
        if s.stkState = 2 then s.orderHold st s.dev else s := by
      rw [State.toStarter, if_pos starter, State.starterTake, if_neg (by simp [starter])]
      rfl
    rw [taken]
    split
    · exact s.orderHold_power ..
    · rfl

theorem State.scheduleCatch_power (s : State) (a n k : Nat) : (s.scheduleCatch a n k).rd PWR_STAT_STATE = s.rd PWR_STAT_STATE := by
  unfold State.scheduleCatch
  dsimp only
  split <;> simp only [State.bump_eq]
  · rw [State.rd_wr_ne _ (by decide), State.rd_wr_ne _ (by decide), State.rd_curtainSaves_low _ _ _ _ (by decide)]; rfl
  · rw [State.rd_wr_ne _ (by decide), State.rd_curtainSaves_low _ _ _ _ (by decide)]; rfl

theorem State.relay_power (s : State) (q : Nat) (m : StrokeMsg) : (s.relay q m).rd PWR_STAT_STATE = s.rd PWR_STAT_STATE :=
  State.foot_rd (s.foot_broadcast (ks := []) _ _) _ 0 0 (by simp)

/-- The number of the CATCH that comes next (R64). -/
def State.catchExpected (s : State) : Nat := if s.stkState = 1 then s.rd STK_FIRST_STROKE else (s.stroke + 1) % 2 ^ 64

/-- What follows the relay of a CATCH that is not discarded (R60 to R64, R102). -/
def State.actOnCatch (s : State) (elapsed t : Nat) (m : StrokeMsg) : State :=
  if s.stkState = 3 then s
  else if m.num ≠ s.catchExpected ∨ m.tag ≠ s.rd STK_SCHEDULE_ID % 2 ^ 32 then
    s.sendHoldReq stInternal
  else if s.is STK_STAT_LATE then (s.sendHoldReq stOverrun).holdWater stOverrun s.dev
  else
    let u := if s.rd STK_LEAD_NS * 16 ≤ elapsed then (s.on STK_STAT_CATCH_LATE).logEv .stk 0 0x101 2 0 elapsed else s
    u.scheduleCatch (t + (s.rd STK_LEAD_NS * 16 - elapsed)) m.num m.b

/-- A CATCH is noted and passed on (R60). -/
def State.passCatch (s : State) (q t : Nat) (m : StrokeMsg) (elapsed : Nat) : State :=
  let u : State := { s with stk := { s.stk with seen := m.num :: s.stk.seen } }
  u.relay q { m with a := elapsed + (u.clock - t) }

theorem State.takeCatch_eq (s : State) (q t : Nat) (m : StrokeMsg) : s.takeCatch q t m =
    let elapsed := m.a + s.rd LNK_LATENCY_LAT q
    let u := s.wr STK_LAST_ELAPSED elapsed
    if u.stkState = 0 ∨ u.catchSeen m.num then u else (u.passCatch q t m elapsed).actOnCatch elapsed t m := rfl

theorem State.passCatch_power (s : State) (q t : Nat) (m : StrokeMsg) (elapsed : Nat) :
    (s.passCatch q t m elapsed).rd PWR_STAT_STATE = s.rd PWR_STAT_STATE := (State.relay_power ..).trans rfl

theorem State.actOnCatch_power (s : State) (elapsed t : Nat) (m : StrokeMsg) :
    (s.actOnCatch elapsed t m).rd PWR_STAT_STATE = s.rd PWR_STAT_STATE := by
  unfold State.actOnCatch
  by_cases holding : s.stkState = 3
  · rw [if_pos holding]
  rw [if_neg holding]
  split
  · exact s.sendHoldReq_power _
  split
  · exact (State.holdWater_power ..).trans (s.sendHoldReq_power _)
  · refine (State.scheduleCatch_power ..).trans ?_
    split
    · exact (State.rd_logFrom _ (by decide) ..).trans (State.rd_wr_ne _ (by decide) _)
    · rfl

theorem State.takeCatch_power (s : State) (q t : Nat) (m : StrokeMsg) : (s.takeCatch q t m).rd PWR_STAT_STATE = s.rd PWR_STAT_STATE := by
  have elapsed (v : Nat) : (s.wr STK_LAST_ELAPSED v).rd PWR_STAT_STATE = s.rd PWR_STAT_STATE := State.rd_wr_ne _ (by decide) _
  rw [State.takeCatch_eq]
  dsimp only
  split
  · exact elapsed _
  · exact (State.actOnCatch_power ..).trans ((State.passCatch_power ..).trans (elapsed _))

theorem State.stkCfgErr_power (s : State) : s.stkCfgErr.rd PWR_STAT_STATE = s.rd PWR_STAT_STATE := by
  unfold State.stkCfgErr
  rw [State.cfgErr_eq, State.cause_eq, State.on_eq, State.rd_wr_ne _ (by decide), State.rd_wr_ne _ (by decide), State.rd_wr_ne _ (by decide)]

theorem runEffect_power (s : State) : (runEffect s).rd PWR_STAT_STATE = s.rd PWR_STAT_STATE := by
  have armed := State.foot_rd s.foot_armedUnit PWR_STAT_STATE 0 0 (by decide)
  unfold runEffect
  split
  · rfl
  · split
    · show (if s.armedUnit.starter = true then s.armedUnit else s.armedUnit.toStarter _).rd PWR_STAT_STATE = _
      split
      · exact armed
      · exact (State.foot_rd (State.foot_toStarter (ks := [LOG_DROPPED.key 0 0]) (Bool.not_eq_true _ ▸ ‹_›) (show 1 ≠ 5 by decide)
          (List.mem_singleton_self _)) _ 0 0 (by decide)).trans armed
    · exact s.stkCfgErr_power

theorem clearRunEffect_power (s : State) : (clearRunEffect s).rd PWR_STAT_STATE = s.rd PWR_STAT_STATE := by
  unfold clearRunEffect
  split
  · exact State.foot_rd s.foot_becomeStopped _ 0 0 (by decide)
  · split
    · rfl
    · exact s.stkCfgErr_power

theorem State.tierDone_power (s : State) (raw : List Byte) (status flags obj tier state : Nat) :
    (s.tierDone raw status flags obj tier state).rd PWR_STAT_STATE = s.rd PWR_STAT_STATE := by
  have next (u : State) : u.tierNext.rd PWR_STAT_STATE = u.rd PWR_STAT_STATE := State.foot_rd u.foot_tierNext _ 0 0 (by decide)
  have calm {u : State} (same : u.calm = s.calm) : u.rd PWR_STAT_STATE = s.rd PWR_STAT_STATE := State.calm_rd same _ 0 0 (by decide)
  unfold State.tierDone
  dsimp only
  split
  · exact next s
  · split
    · exact (next _).trans (calm (State.calm_writeV ..))
    · exact calm (State.calm_takeFault ..)
    · exact (next _).trans (calm (State.calm_loseContext ..))
    · exact next s

/-- The run of the command at HEAD leaves the power state where its operation does. -/
theorem State.tierRun_power {f : List Byte → State → State} (hf : ∀ raw, (f raw s).rd PWR_STAT_STATE = s.rd PWR_STAT_STATE) :
    (s.tierRun f).rd PWR_STAT_STATE = s.rd PWR_STAT_STATE := by
  have calm {u : State} (same : u.calm = s.calm) : u.rd PWR_STAT_STATE = s.rd PWR_STAT_STATE := State.calm_rd same _ 0 0 (by decide)
  have head (u : State) (n : Nat) : (u.bump TIER_RING_HEAD n).rd PWR_STAT_STATE = u.rd PWR_STAT_STATE := State.rd_wr_ne _ (by decide) _
  unfold State.tierRun
  split
  · rfl
  split
  · exact head ..
  split
  · exact calm (State.calm_takeFault ..)
  · exact calm (State.calm_ask ..)
  · rfl
  · exact (head ..).trans (calm (State.calm_loseContext ..))
  · rfl
  · rfl
  · exact head ..
  · split
    · exact head ..
    split
    · exact calm (State.calm_takeFault ..)
    · rfl
    · split
      · exact (State.tierDone_power ..).trans rfl
      split
      · exact State.tierDone_power ..
      split
      · exact hf _
      · exact State.tierDone_power ..

theorem touchEffect_power (raw : List Byte) (s : State) : (touchEffect raw s).rd PWR_STAT_STATE = s.rd PWR_STAT_STATE := by
  unfold touchEffect State.onObj
  dsimp only
  split
  · exact (State.tierDone_power ..).trans ((State.rd_noteObj _ _ (by decide)).trans rfl)
  · exact State.tierDone_power ..

theorem queryEffect_power (raw : List Byte) (s : State) : (queryEffect raw s).rd PWR_STAT_STATE = s.rd PWR_STAT_STATE := by
  unfold queryEffect State.onObj
  dsimp only
  split <;> exact State.tierDone_power ..

/-- Work that leaves the power state returns the module from EASY to ROW. -/
theorem State.work_leavesEasy {ok : Bool} {f : State → State} (easy : s.rd PWR_STAT_STATE = 1) (may : ok = true)
    (keeps : (f s.easyWake).rd PWR_STAT_STATE = s.easyWake.rd PWR_STAT_STATE) :
    ∃ t, s.work ok f = .next t ∧ t.rd PWR_STAT_STATE = 0 :=
  ⟨_, State.work_next (by simp [State.railsUp, easy]) may f, (State.rd_commit ..).trans (keeps.trans (State.easyWake_state easy))⟩

/-- What a CATCH does at a port. -/
def curtainFalls (q t : Nat) (m : StrokeMsg) (s : State) : State := (if s.stkState = 0 then s else s.easyWake).takeCatch q t m

/-- A CATCH that arrives outside STOPPED returns the module from EASY to ROW (R651). -/
theorem exec_curtain_leavesEasy {q : Nat} (easy : s.rd PWR_STAT_STATE = 1) (runs : s.stkState ≠ 0) (here : (s.strokeAt q 2).isSome = true) :
    ∃ t, exec (.curtain q) s = .next t ∧ t.rd PWR_STAT_STATE = 0 := by
  have run : exec (.curtain q) s = .next (s.commit (s.onStroke q 2 (curtainFalls q))) :=
    State.rails_next (s := s) (by simp [State.railsUp, easy]) here (fun u => u.onStroke q 2 (curtainFalls q))
  obtain ⟨⟨a, p⟩, found⟩ := Option.isSome_iff_exists.1 here
  obtain ⟨ps, taken⟩ := s.onStroke_eq found (curtainFalls q)
  have outside : ({ s with ports := ps } : State).stkState ≠ 0 := runs
  rw [taken, curtainFalls, if_neg outside] at run
  exact ⟨_, run, (State.rd_commit ..).trans ((State.takeCatch_power ..).trans (State.easyWake_state (s := { s with ports := ps }) easy))⟩

/-- Settles O44: a check shows its readings and moves the operating point, and work in EASY returns to ROW. -/
theorem limitsAndWorkMoveTheOperatingPoint : Obligations.LimitsAndWorkMoveTheOperatingPoint := by
  refine ⟨fun s r standby six => ?_, fun i s easy work => ?_⟩
  · have checked := exec_powerCheck standby six
    rw [hottest, shownTemps_six six] at checked
    exact checked
  · rcases work with rfl | rfl | ⟨q, rfl, outside, here⟩ | ⟨rfl, head⟩ | ⟨rfl, head⟩
    · exact State.work_leavesEasy easy rfl (runEffect_power _)
    · exact State.work_leavesEasy easy rfl (clearRunEffect_power _)
    · exact exec_curtain_leavesEasy easy outside here
    · exact State.work_leavesEasy (f := fun u => u.tierRun touchEffect) easy head (State.tierRun_power (fun raw => touchEffect_power raw _))
    · exact State.work_leavesEasy (f := fun u => u.tierRun queryEffect) easy head (State.tierRun_power (fun raw => queryEffect_power raw _))

end Sys2Proof.Machine
end

section
/-!
PROOF. The ledger and the restore of a checkpoint area (R629, R630, R641, R642, R648).
-/
namespace Sys2Proof.Machine

variable {s t : State}

/-! ### The ledger (R629, R630) -/

/-- The oldest record stands in the current region. -/
def State.recorded (s : State) (r : LedgerRec) (rest : List LedgerRec) : State :=
  ({ s with ledgerPend := rest }.setLedger (s.is SPR_LEDGER_STAT_REGION) (s.ledger false ++ [ledgerBytes s.powerCycles r]))

theorem State.ledger_of_region {region : Bool} (at' : s.is SPR_LEDGER_STAT_REGION = region) (other : Bool) :
    s.ledger other = if region != other then s.ledger1 else s.ledger0 := by rw [State.ledger, at']

theorem State.is_setLedger (s : State) (region : Bool) (rs : List (List Byte)) (f : Fld) : (s.setLedger region rs).is f = s.is f := by
  cases region <;> rfl

/-- Of the two regions, the current one takes the records. -/
theorem State.ledger_setLedger (s : State) (rs : List (List Byte)) :
    (s.setLedger (s.is SPR_LEDGER_STAT_REGION) rs).ledger false = rs ∧
      (s.setLedger (s.is SPR_LEDGER_STAT_REGION) rs).ledger true = s.ledger true := by
  cases region : s.is SPR_LEDGER_STAT_REGION
  all_goals
    have kept := (s.is_setLedger (s.is SPR_LEDGER_STAT_REGION) rs SPR_LEDGER_STAT_REGION).trans region
    rw [region] at kept
    rw [State.ledger_of_region kept, State.ledger_of_region kept, State.ledger_of_region region]
    exact ⟨rfl, rfl⟩

theorem State.recorded_leaves (s : State) (r : LedgerRec) (rest : List LedgerRec) :
    s.foot (s.recorded r rest) [] ∧ (s.recorded r rest).ledger false = s.ledger false ++ [ledgerBytes s.powerCycles r] ∧
      (s.recorded r rest).ledger true = s.ledger true ∧ (s.recorded r rest).ledgerPend = rest := by
  obtain ⟨current, other⟩ := State.ledger_setLedger { s with ledgerPend := rest } (s.ledger false ++ [ledgerBytes s.powerCycles r])
  refine ⟨?_, current, other, ?_⟩ <;> unfold State.recorded State.setLedger <;> split
  · exact State.foot_of_eq rfl rfl rfl rfl
  · exact State.foot_of_eq rfl rfl rfl rfl
  · rfl
  · rfl

/-- The record is counted. -/
def State.recordCounted (s : State) (used : Nat) : State := (s.bump SPR_PC_LEDGER).wr SPR_LEDGER_STAT_USED used

theorem ledgerWriteEffect_below {r : LedgerRec} {rest : List LedgerRec} (waits : s.ledgerPend = r :: rest)
    (below : (s.ledger false).length + 1 < ledgerCap * 7 / 8) :
    ledgerWriteEffect s = (s.recorded r rest).recordCounted ((s.ledger false).length + 1) := by
  unfold ledgerWriteEffect
  rw [waits]
  refine (if_neg ?_).trans ?_
  · rw [List.length_append]; exact Nat.not_le.2 below
  · rw [List.length_append]; rfl

theorem State.recordCounted_leaves (s : State) (used : Nat) :
    s.foot (s.recordCounted used) [SPR_LEDGER_STAT_USED.key 0 0, SPR_PC_LEDGER.key 0 0] ∧
      (s.recordCounted used).rd SPR_LEDGER_STAT_USED = used % 2 ^ 19 ∧ (∀ other, (s.recordCounted used).ledger other = s.ledger other) ∧
      (s.recordCounted used).ledgerPend = s.ledgerPend := by
  have region : (s.recordCounted used).is SPR_LEDGER_STAT_REGION = s.is SPR_LEDGER_STAT_REGION := by
    rw [State.recordCounted, State.is, State.bump_eq, State.rd_wr_ne _ (by decide), State.rd_wr_ne _ (by decide)]
    rfl
  refine ⟨State.foot_wr_of (State.foot_wr (by decide)) (by decide), State.rd_wr_same .., fun other => ?_, rfl⟩
  rw [State.ledger_of_region region, State.ledger_of_region rfl]
  rfl

theorem exec_ledgerWrite {r : LedgerRec} {rest : List LedgerRec} (waits : s.ledgerPend = r :: rest)
    (below : (s.ledger false).length + 1 < ledgerCap * 7 / 8) :
    ∃ t, exec .ledgerWrite s = .next t ∧ t.ledger false = s.ledger false ++ [ledgerBytes s.powerCycles r] ∧
      t.ledger true = s.ledger true ∧ t.ledgerPend = rest ∧ t.rd SPR_LEDGER_STAT_USED = (s.ledger false).length + 1 ∧ s.sameStore t ∧
      s.sameRegsBut t [SPR_LEDGER_STAT_USED.key 0 0, SPR_PC_LEDGER.key 0 0] := by
  have run : exec .ledgerWrite s = .next (s.commit (ledgerWriteEffect s)) :=
    State.always_next (by rw [waits]; rfl) ledgerWriteEffect
  rw [ledgerWriteEffect_below waits below] at run
  obtain ⟨written, current, other, pend⟩ := s.recorded_leaves r rest
  obtain ⟨counted, used, kept, pending⟩ := (s.recorded r rest).recordCounted_leaves ((s.ledger false).length + 1)
  have committed (u : State) (side : Bool) : (s.commit u).ledger side = u.ledger side := by
    rw [State.ledger_of_region (State.is_commit ..), State.ledger_of_region rfl]
    rfl
  obtain ⟨store, regs⟩ := State.foot_commit (u := s) (State.foot_trans written counted)
  refine ⟨_, run, (committed _ _).trans ((kept _).trans current), (committed _ _).trans ((kept _).trans other), pending.trans pend,
    (State.rd_commit ..).trans (used.trans (Nat.mod_eq_of_lt (by unfold ledgerCap at below; omega))), store, regs⟩

/-! ### LOAD (R641, R642, R648) -/

/-- The restore stands at a place. -/
def State.loadingAt (s : State) (p : Option Nat) : State := { s with loadPos := p }

/-- A register reads the same wherever a restore stands. -/
theorem State.readReg_loadingAt (s : State) (p : Option Nat) (o : Nat) : (s.loadingAt p).readReg o = s.readReg o := by
  have stored (q : Page) (i off : Nat) : (s.loadingAt p).storedReg q i off = s.storedReg q i off := by
    unfold State.storedReg
    rfl
  have computed (q : Page) (i off : Nat) : (s.loadingAt p).computedReg q i off = s.computedReg q i off := by
    unfold State.computedReg
    cases q <;> rfl
  unfold State.readReg
  simp only [stored, computed]
  rfl

theorem State.regRead_loadingAt (s : State) (p : Option Nat) (who : Requester) (o n : Nat) :
    ((s.loadingAt p).regRead who o n).1 = (s.regRead who o n).1 := by
  have bytes (o n : Nat) : (s.loadingAt p).readRegBytes o n = s.readRegBytes o n := by
    simp only [State.readRegBytes, State.readReg_loadingAt]
  have latched : (s.loadingAt p).latched = s.latched := rfl
  unfold State.regRead
  simp only [State.readReg_loadingAt, bytes, latched]
  repeat' split
  all_goals rfl

theorem State.loadRead_loadingAt (s : State) (p : Option Nat) (off n : Nat) : (s.loadingAt p).loadRead off n = s.loadRead off n := by
  have mem (x n : Nat) : (s.loadingAt p).rdMem x n = s.rdMem x n := rfl
  have tok (k : Nat) : (s.loadingAt p).tok k = s.tok k := rfl
  have dev : (s.loadingAt p).dev = s.dev := rfl
  have loc (x n : Nat) : (s.loadingAt p).rdLocal x n = s.rdLocal x n := by
    simp only [State.rdLocal, State.regRead_loadingAt, mem, tok, dev]
  unfold State.loadRead State.readGpa
  simp only [loc]
  rfl

/-- What the end of a restore shows and leaves. -/
theorem State.loadEnd_leaves (s : State) (err : Nat) :
    (s.loadEnd err).rd TIER_CKPT_STAT_LOAD_ERR = err % 8 ∧ (s.loadEnd err).is TIER_CKPT_STAT_LOAD_BUSY = false ∧
      (s.loadEnd err).loadPos = none ∧ (s.loadEnd err).tlb = s.tlb ∧
      s.foot (s.loadEnd err) [TIER_CKPT_STAT_LOAD_BUSY.key 0 0, TIER_CKPT_STAT_LOAD_ERR.key 0 0, TIER_CKPT_CTL_LOAD.key 0 0] := by
  have regs : (s.loadEnd err).regs =
      (((s.wr TIER_CKPT_STAT_LOAD_BUSY 0).wr TIER_CKPT_STAT_LOAD_ERR err).wr TIER_CKPT_CTL_LOAD 0).regs := rfl
  refine ⟨?_, ?_, rfl, rfl, ?_⟩
  · rw [State.rd_congr regs, State.rd_wr_ne _ (by decide), State.rd_wr_same]
    rfl
  · rw [State.is, State.rd_congr regs, State.rd_wr_ne _ (by decide), State.rd_wr_ne _ (by decide), State.rd_wr_same]
    rfl
  · refine State.foot_upd_of (t := ((s.wr TIER_CKPT_STAT_LOAD_BUSY 0).wr TIER_CKPT_STAT_LOAD_ERR err).wr TIER_CKPT_CTL_LOAD 0) ?_ rfl rfl rfl rfl
    exact State.foot_wr_of (State.foot_wr_of (State.foot_wr (by decide)) (by decide)) (by decide)

/-- A restore has begun. -/
def State.loadBegun (s : State) : State :=
  State.loadingAt (((s.on TIER_CKPT_CTL_LOAD).on TIER_CKPT_STAT_LOAD_BUSY).wr TIER_CKPT_STAT_LOAD_ERR 0) (some 0)

theorem State.foot_loadBegun (s : State) :
    s.foot s.loadBegun [TIER_CKPT_STAT_LOAD_BUSY.key 0 0, TIER_CKPT_STAT_LOAD_ERR.key 0 0, TIER_CKPT_CTL_LOAD.key 0 0] := by
  refine State.foot_upd_of (t := ((s.wr TIER_CKPT_CTL_LOAD 1).wr TIER_CKPT_STAT_LOAD_BUSY 1).wr TIER_CKPT_STAT_LOAD_ERR 0) ?_ rfl rfl rfl rfl
  exact State.foot_wr_of (State.foot_wr_of (State.foot_wr (by decide)) (by decide)) (by decide)

theorem loadEffect_starts (stopped : s.stkState = 0) (idle : s.rd MMU_CKPT_STAT_STATE = 0) (free : s.loadPos = none) :
    loadEffect s = s.loadBegun.loadRun ((((s.on TIER_CKPT_CTL_LOAD).on TIER_CKPT_STAT_LOAD_BUSY).wr TIER_CKPT_STAT_LOAD_ERR 0).areaSlots
      ((((s.on TIER_CKPT_CTL_LOAD).on TIER_CKPT_STAT_LOAD_BUSY).wr TIER_CKPT_STAT_LOAD_ERR 0).rd TIER_CKPT_CTL_LOAD_AREA) + 2) := by
  unfold loadEffect
  rw [if_neg (by simp [stopped, idle, free])]
  rfl

/-- A header that does not fit ends the restore (R642). -/
theorem State.loadStep_misfit {h : List Byte} {e : Nat} (header : s.loadRead 0 64 = .ok h) (misfit : s.headerError h = some e)
    {pos : Nat} (first : pos = 0) : s.loadStep pos = (false, s.loadEnd e) := by
  unfold State.loadStep
  rw [header]
  dsimp only
  rw [if_pos first, misfit]

/-- The checks of the index and of the snapshot (R641, R642). -/
def State.loadChecked (s : State) (h : List Byte) : Except Stop (List Byte) → Except Stop (List Byte) → Bool × State
  | .error e, _ => (false, s.loadStop 0 e)
  | _, .error e => (false, s.loadStop 0 e)
  | .ok index, .ok snap =>
    if crc32 index ≠ fieldLE h 36 4 ∨ crc32 snap ≠ fieldLE h 40 4 then (false, s.loadEnd 4) else (true, s.loadingAt (some 1))

theorem State.loadStep_fits {h : List Byte} (header : s.loadRead 0 64 = .ok h) (fits : s.headerError h = none)
    {pos : Nat} (first : pos = 0) :
    s.loadStep pos = s.loadChecked h (s.loadRead 0x200000 (8 * fieldLE h 32 4)) (s.loadRead 0x10000 0x1F0000) := by
  unfold State.loadStep
  rw [header]
  dsimp only
  rw [if_pos first]
  generalize s.loadRead 0x200000 (8 * fieldLE h 32 4) = list
  generalize s.loadRead 0x10000 0x1F0000 = area
  rw [fits]
  cases list <;> cases area <;> rfl

/-- After the last frame of the index the restore brings the snapshot (R641). -/
theorem State.loadStep_last {h snap : List Byte} (pos : Nat) (past : fieldLE h 32 4 < pos) (header : s.loadRead 0 64 = .ok h)
    (copied : s.loadRead 0x10000 0x1F0000 = .ok snap) : s.loadStep pos = (false, s.loadFinish (fieldLE h 8 8) snap) := by
  unfold State.loadStep
  generalize s.loadRead 0x10000 0x1F0000 = area at copied
  subst copied
  rw [header]
  dsimp only
  rw [if_neg (Nat.ne_zero_of_lt past), if_neg (Nat.not_le.2 past)]

/-- A little-endian number of n bytes lies below 256^n. -/
theorem leNat_lt : ∀ l : List Byte, leNat l < 256 ^ l.length
  | [] => Nat.one_pos
  | b :: l => by
    have rest := leNat_lt l
    have byte := b.isLt
    rw [leNat, List.length_cons, Nat.pow_succ]
    omega

theorem fieldLE_lt (raw : List Byte) (off n : Nat) : fieldLE raw off n < 256 ^ n :=
  (leNat_lt _).trans_le (Nat.pow_le_pow_right (by decide) (List.length_take_le ..))

theorem State.loadFinish_shows (s : State) {stroke : Nat} (below : stroke < 2 ^ 64) (bytes : List Byte) :
    (s.loadFinish stroke bytes).rd TIER_CKPT_STAT_LOAD_ERR = 0 ∧ (s.loadFinish stroke bytes).is TIER_CKPT_STAT_LOAD_BUSY = false ∧
      (s.loadFinish stroke bytes).loadPos = none ∧ (s.loadFinish stroke bytes).rd STK_FIRST_STROKE = stroke ∧
      (s.loadFinish stroke bytes).tlb = [] := by
  obtain ⟨err, busy, pos, tlb, foot⟩ :=
    State.loadEnd_leaves { (s.restoreSnap s.loadBase bytes).wr STK_FIRST_STROKE stroke with tlb := [] } 0
  refine ⟨err, busy, pos, (State.foot_rd foot _ 0 0 (by decide)).trans ?_, tlb⟩
  exact (State.rd_wr_same (s.restoreSnap s.loadBase bytes) STK_FIRST_STROKE stroke 0 0).trans (Nat.mod_eq_of_lt below)

theorem State.loadRun_ends {n pos : Nat} (at' : s.loadPos = some pos) (ends : s.loadStep pos = (false, t)) : s.loadRun (n + 1) = t := by
  rw [State.loadRun, at']
  dsimp only
  rw [ends]
  exact if_neg Bool.false_ne_true

theorem State.loadRun_goes {n pos : Nat} (at' : s.loadPos = some pos) (goes : s.loadStep pos = (true, t)) :
    s.loadRun (n + 1) = t.loadRun n := by
  rw [State.loadRun, at']
  dsimp only
  rw [goes]
  exact if_pos rfl

theorem headerError_le {h : List Byte} {e : Nat} (misfit : s.headerError h = some e) : e ≤ 3 := by
  unfold State.headerError at misfit
  repeat' split at misfit
  all_goals simp only [Option.some.injEq, reduceCtorEq] at misfit
  all_goals omega

/-- The registers of a restore. -/
def loadKeys : List Nat := [TIER_CKPT_STAT_LOAD_BUSY.key 0 0, TIER_CKPT_STAT_LOAD_ERR.key 0 0, TIER_CKPT_CTL_LOAD.key 0 0]

/-- A restore that may not start (R648). -/
theorem loadEffect_refused (busy : s.stkState ≠ 0 ∨ s.rd MMU_CKPT_STAT_STATE ≠ 0 ∨ s.loadPos.isSome = true) :
    loadEffect s = s.cfgErr .tier := if_pos busy

theorem exec_load (rails : s.railsUp = true) : exec .load s = .next (s.commit (loadEffect s)) := State.rails_next rails rfl loadEffect

section
variable {h : List Byte} (rails : s.railsUp = true) (stopped : s.stkState = 0) (idle : s.rd MMU_CKPT_STAT_STATE = 0)
  (free : s.loadPos = none) (header : s.loadBegun.loadRead 0 64 = .ok h)
include rails stopped idle free header

/-- LOAD of an area whose header does not fit (R642). -/
theorem exec_load_misfit {e : Nat} (misfit : s.loadBegun.headerError h = some e) :
    ∃ t, exec .load s = .next t ∧ t.rd TIER_CKPT_STAT_LOAD_ERR = e ∧ t.is TIER_CKPT_STAT_LOAD_BUSY = false ∧ t.loadPos = none ∧
      s.sameStore t := by
  have run := exec_load rails
  rw [loadEffect_starts stopped idle free, State.loadRun_ends rfl (State.loadStep_misfit header misfit rfl)] at run
  obtain ⟨err, busy, pos, -, foot⟩ := s.loadBegun.loadEnd_leaves e
  have small : e % 8 = e := Nat.mod_eq_of_lt (by have := headerError_le misfit; omega)
  exact ⟨_, run, (State.rd_commit ..).trans (err.trans small), (State.is_commit ..).trans busy, pos,
    (State.foot_commit (State.foot_trans s.foot_loadBegun foot)).1⟩

/-- LOAD of an area that holds no frame and whose checks are right (R641). -/
theorem exec_load_restores {snap : List Byte} (fits : s.loadBegun.headerError h = none) (empty : fieldLE h 32 4 = 0)
    (listed : s.loadBegun.loadRead 0x200000 0 = .ok []) (copied : s.loadBegun.loadRead 0x10000 0x1F0000 = .ok snap)
    (indexSum : crc32 [] = fieldLE h 36 4) (snapSum : crc32 snap = fieldLE h 40 4) :
    ∃ t, exec .load s = .next t ∧ t.rd TIER_CKPT_STAT_LOAD_ERR = 0 ∧ t.is TIER_CKPT_STAT_LOAD_BUSY = false ∧ t.loadPos = none ∧
      t.rd STK_FIRST_STROKE = fieldLE h 8 8 ∧ t.tlb = [] := by
  have run := exec_load rails
  have checked : s.loadBegun.loadStep 0 = (true, s.loadBegun.loadingAt (some 1)) := by
    rw [State.loadStep_fits header fits rfl, empty, Nat.mul_zero, listed, copied, State.loadChecked]
    exact if_neg (by simp [indexSum, snapSum])
  have last := State.loadStep_last (s := s.loadBegun.loadingAt (some 1)) (h := h) 1 (by omega)
    ((State.loadRead_loadingAt ..).trans header) ((State.loadRead_loadingAt ..).trans copied)
  rw [loadEffect_starts stopped idle free, State.loadRun_goes rfl checked, State.loadRun_ends rfl last] at run
  obtain ⟨err, busy, pos, stroke, tlb⟩ :=
    (s.loadBegun.loadingAt (some 1)).loadFinish_shows (stroke := fieldLE h 8 8) (fieldLE_lt h 8 8) snap
  exact ⟨_, run, (State.rd_commit ..).trans err, (State.is_commit ..).trans busy, pos, (State.rd_commit ..).trans stroke, tlb⟩

end

/-- Settles O49: the ledger takes its oldest record, and LOAD is refused, ends with an error, or restores the area. -/
theorem ledgerAndCheckpointAreKept : Obligations.LedgerAndCheckpointAreKept := by
  refine ⟨fun s r rest waits below => exec_ledgerWrite waits below, fun s rails busy => ?_, ?_⟩
  · obtain ⟨store, regs⟩ := State.foot_commit (u := s) (s.foot_cfgErr .tier 0)
    have run := exec_load rails
    rw [loadEffect_refused busy] at run
    exact ⟨_, run, (State.is_commit ..).trans (s.cfgErr_is .tier 0), rfl, store, regs⟩
  · intro s h rails stopped idle free u header
    exact ⟨fun e misfit => exec_load_misfit rails stopped idle free header misfit,
      fun snap fits empty listed copied indexSum snapSum =>
        exec_load_restores rails stopped idle free header fits empty listed copied indexSum snapSum⟩

end Sys2Proof.Machine
end

section
/-!
PROOF. The losses of power and the resets (R656, R664 to R669, R677, R691, R769, R771, R772): what bring-up keeps of the always-on
domain, and where each event leaves the module.
-/
namespace Sys2Proof.Machine

variable {s t : State}

/-! ### What bring-up keeps of the always-on domain (R656, R668) -/

/-- What bring-up leaves of what it was started from: the supplies, the straps, the clock, the count of power-ups, the management
controller, and the trigger that is shown. -/
structure BootView where
  standby : Bool
  supply : Bool
  straps : Nat
  clock : Nat
  cycles : Nat
  i3c : I3cUnit
  trigger : Nat

def State.bootView (s : State) : BootView :=
  ⟨s.pwr.standby, s.pwr.supply, s.pwr.straps, s.clock, s.powerCycles, s.i3c, s.rd PWR_RESET_CAUSE_TRIGGER⟩

theorem State.bootView_wr_key {f : Fld} {i j : Nat} (apart : f.key i j ≠ PWR_RESET_CAUSE_TRIGGER.key 0 0) (v : Nat) :
    (s.wr f v i j).bootView = s.bootView :=
  congrArg (BootView.mk s.pwr.standby s.pwr.supply s.pwr.straps s.clock s.powerCycles s.i3c) (State.rd_wr_ne s apart.symm v)

/-- Registers of the pages behind that of the power controller show no trigger. -/
theorem State.bootView_wr {f : Fld} {v i j : Nat} (behind : 0x3000 ≤ f.page.base 0) : (s.wr f v i j).bootView = s.bootView := by
  have base : f.page.base 0 ≤ f.page.base i := by cases f.page <;> simp [Page.base]
  have key : PWR_RESET_CAUSE_TRIGGER.key 0 0 < 0x3000 * 8 := by decide
  refine State.bootView_wr_key (fun same => ?_) v
  rw [← same, Fld.key] at key
  omega

theorem State.bootView_wr_trigger (v : Nat) :
    (s.wr PWR_RESET_CAUSE_TRIGGER v).bootView = { s.bootView with trigger := v % 16 } :=
  congrArg (BootView.mk s.pwr.standby s.pwr.supply s.pwr.straps s.clock s.powerCycles s.i3c) (State.rd_wr_same ..)

theorem State.bootView_foldl_mem {α : Type} (g : State → α → State) (l : List α)
    (hg : ∀ (t : State), ∀ x ∈ l, (g t x).bootView = t.bootView) (s : State) : (l.foldl g s).bootView = s.bootView := by
  induction l generalizing s with
  | nil => rfl
  | cons x l ih => exact (ih (fun t y mem => hg t y (List.mem_cons_of_mem x mem)) (g s x)).trans (hg s x List.mem_cons_self)

theorem State.bootView_logFrom (a b c d e : Nat) : (s.logFrom a b c d e).bootView = s.bootView := by
  unfold State.logFrom
  split
  · rfl
  · exact State.bootView_wr (by decide)

theorem State.bootView_updPwr {f : PowerUnit → PowerUnit}
    (keeps : ∀ p, (f p).standby = p.standby ∧ (f p).supply = p.supply ∧ (f p).straps = p.straps) : (s.updPwr f).bootView = s.bootView := by
  obtain ⟨standby, supply, straps⟩ := keeps s.pwr
  rw [State.bootView, show (s.updPwr f).pwr = f s.pwr from rfl, standby, supply, straps]
  rfl

theorem State.bootView_ibiRaise (n : Nat) : (s.ibiRaise n).bootView = s.bootView := by
  unfold State.ibiRaise
  split <;> rfl

theorem State.bootView_setPhase (i : Inst) (n : Nat) : (s.setPhase i n).bootView = s.bootView := rfl

theorem State.bootView_pendKind (k : Nat) : (s.pendKind k).bootView = s.bootView :=
  (State.bootView_wr (by decide)).trans (State.bootView_wr (by decide))

theorem State.bootView_sprDone (i : Inst) (n : Nat) : (s.sprDone i n).bootView = s.bootView := by
  unfold State.sprDone
  split
  · exact (State.bootView_wr (by decide)).trans (State.bootView_wr (by decide))
  · rfl

theorem State.bootView_entered (i : Inst) : (s.entered i).bootView = s.bootView := by
  rw [State.entered_eq, State.bootView_sprDone, State.bump_eq, State.bootView_wr (by decide)]
  exact (State.bootView_wr (by decide)).trans ((State.bootView_logFrom ..).trans rfl)

theorem State.bootView_setChState (e ch v : Nat) : (s.setChState e ch v).bootView = s.bootView := by
  unfold State.setChState State.dmaWr
  split <;> exact State.bootView_wr (by decide)

theorem State.bootView_startEntry (i : Inst) : (s.startEntry i).bootView = s.bootView := by
  unfold State.startEntry
  extract_lets f0 f v x ctl st
  obtain ⟨name, flag⟩ : 0x3000 ≤ f.1.page.base 0 ∧ 0x3000 ≤ f.2.page.base 0 := by
    simpa [f] using bankFld_behind (decide (s.rd f0.1 i.block = 0x7F)) (i.kind == 2)
  have named : v.bootView = s.bootView := by
    show State.bootView (if _ then _ else _) = _
    split
    · exact State.bootView_wr (by decide)
    · exact State.bootView_wr (by decide)
  split
  · rw [State.bootView_setPhase, State.on_eq, State.bootView_wr flag, State.bootView_wr name]
  split
  · exact (State.bootView_entered i).trans ((State.bootView_setChState ..).trans named)
  split
  · exact (State.bootView_entered i).trans
      ((State.bootView_wr (by decide)).trans ((State.bootView_wr (by decide)).trans (State.bootView_wr (by decide))))
  split
  · exact State.bootView_entered i
  · rfl

theorem State.bootView_markRetired {i : Inst} (noPort : i.kind ≠ 13) : (s.markRetired i).bootView = s.bootView := by
  unfold State.markRetired
  split
  · exact (State.bootView_wr (by decide)).trans (State.bootView_wr (by decide))
  split
  · exact (State.bootView_wr (by decide)).trans rfl
  split
  · split <;> exact State.bootView_wr (by decide)
  · rfl

theorem State.bootView_applyRetired (i : Inst) (phase : Nat) : (s.applyRetired i phase).bootView = s.bootView := by
  unfold State.applyRetired
  split
  · rfl
  next noPort =>
  split
  · unfold State.repair
    dsimp only
    split <;> rfl
  split
  · extract_lets v c f0 f
    split
    · have core : v.bootView = s.bootView := State.bootView_wr (by decide)
      split
      · exact core
      · exact (State.bootView_wr (by decide)).trans (Eq.trans rfl core)
    split
    · obtain ⟨name, -⟩ : 0x3000 ≤ f.1.page.base 0 ∧ 0x3000 ≤ f.2.page.base 0 := by
        simpa [f] using bankFld_behind (decide (s.rd f0.1 i.block = 0x7F)) (i.kind == 2)
      exact State.bootView_wr name
    split
    · split <;> exact State.bootView_wr (by decide)
    · rfl
  · extract_lets v
    have marked : v.bootView = s.bootView := State.bootView_markRetired noPort
    split
    · exact (State.bootView_pendKind _).trans marked
    split
    · exact (State.bootView_startEntry i).trans marked
    · exact (State.bootView_pendKind _).trans marked

theorem State.bootView_applyLedger (s : State) : s.applyLedger.bootView = s.bootView := by
  unfold State.applyLedger
  extract_lets recs good marks seen v w
  have counted : w.bootView = s.bootView := (State.bootView_wr (by decide)).trans ((State.bootView_wr (by decide)).trans rfl)
  exact (State.bootView_foldl_mem _ marks (fun t q _ => State.bootView_applyRetired ..) w).trans counted

/-! ### The retained values and the firmware leave it (R672, R673, R698) -/

/-- The trigger of the last reset is no retained register. -/
theorem rwk_ne_trigger : ∀ q ∈ rwkPages, (BLK_RETAIN_CTL_SKIP q.1).key q.2 0 ≠ PWR_RESET_CAUSE_TRIGGER.key 0 0 ∧
    (BLK_RETAIN_CTL_DIRTY q.1).key q.2 0 ≠ PWR_RESET_CAUSE_TRIGGER.key 0 0 ∧
    ∀ f ∈ (pageFields q.1).filter (fun f => f.acc == .rwk), f.key q.2 0 ≠ PWR_RESET_CAUSE_TRIGGER.key 0 0 := by
  decide +kernel

theorem State.bootView_restoreAll (es : List (Nat × Nat × Nat)) : (s.restoreAll es).bootView = s.bootView := by
  refine State.bootView_foldl_mem _ _ (fun t q mem => ?_) s
  obtain ⟨skip, dirty, fields⟩ := rwk_ne_trigger q mem
  exact (State.bootView_foldl_mem _ _ (fun t f mem => State.bootView_wr_key (fields f mem) _) _).trans
    ((State.bootView_wr_key dirty _).trans (State.bootView_wr_key skip _))

theorem State.bootView_restoreRetained : s.restoreRetained.bootView = s.bootView := by
  unfold State.restoreRetained
  split
  · exact (State.bootView_wr_key (by decide) _).trans (State.bootView_restoreAll _)
  split
  · rw [State.bootView_updPwr, State.bootView_wr_key (by decide), State.bootView_wr_key (by decide), State.bootView_restoreAll]
    exact fun _ => ⟨rfl, rfl, rfl⟩
  · exact (State.bootView_logFrom ..).trans ((State.bootView_wr_key (by decide) _).trans (State.bootView_restoreAll _))

theorem State.bootView_runImage (n : Nat) : (s.runImage n).bootView = s.bootView := by
  unfold State.runImage
  extract_lets f v w
  have named : v.bootView = s.bootView := by
    dsimp only [v]
    rw [State.bootView_wr_key (by decide), State.bootView_wr_key (by decide), State.bootView_wr_key (by decide),
      State.bootView_wr_key (by decide)]
  exact (State.bootView_logFrom ..).trans named

/-! ### Bring-up (R668, R669) -/

/-- A write of the PWR page's fields that bring-up clears shows no trigger. -/
theorem State.bootView_fromReset (s : State) (kind trigger : Nat) :
    (s.fromReset kind trigger).bootView = { s.bootView with trigger := trigger % 16 } := by
  unfold State.fromReset
  extract_lets v w x
  have lost : { v.bootView with trigger := trigger % 16 } = { s.bootView with trigger := trigger % 16 } := rfl
  have counters : w.bootView = v.bootView :=
    State.bootView_foldl_mem _ pwrCounters (fun t f mem => State.bootView_wr_key ((by decide : ∀ f ∈ pwrCounters,
      f.key 0 0 ≠ PWR_RESET_CAUSE_TRIGGER.key 0 0) f mem) 0) v
  have cold : x.bootView = v.bootView := by
    dsimp only [x]
    split
    · exact (State.bootView_foldl_mem _ pwrColdFields (fun t f mem => State.bootView_wr_key ((by decide : ∀ f ∈ pwrColdFields,
        f.key 0 0 ≠ PWR_RESET_CAUSE_TRIGGER.key 0 0) f mem) 0) w).trans counters
    · exact counters
  rw [State.bootView_updPwr, State.bootView_wr_key (by decide), State.bootView_wr_key (by decide), State.bootView_wr_trigger,
    State.bootView_wr_key (by decide), cold]
  · exact lost
  · exact fun _ => ⟨rfl, rfl, rfl⟩

/-- The firmware that the security block loads. -/
def State.fwStore (s : State) : FwImage × FwImage × Nat := (s.fwA, s.fwB, s.fwMin)

theorem State.fwChosen_congr (same : t.fwStore = s.fwStore) : t.fwChosen = s.fwChosen := by
  obtain ⟨a, rest⟩ := Prod.mk.inj same
  obtain ⟨b, least⟩ := Prod.mk.inj rest
  simp only [State.fwChosen, State.fwValid, a, b, least]

theorem State.fwChosen_fromReset (s : State) (kind trigger : Nat) : (s.fromReset kind trigger).fwChosen = s.fwChosen := by
  have cleared (l : List Fld) (u : State) : (l.foldl (fun (t : State) f => t.wr f 0) u).fwStore = u.fwStore :=
    State.foldl_keep State.fwStore (fun (t : State) f => t.wr f 0) (fun _ _ => rfl) l u
  refine State.fwChosen_congr ?_
  unfold State.fromReset
  extract_lets v w x
  have counters : w.fwStore = s.fwStore := (cleared pwrCounters v).trans rfl
  have cold : x.fwStore = s.fwStore := by
    dsimp only [x]
    split
    · exact (cleared pwrColdFields w).trans counters
    · exact counters
  exact Eq.trans rfl cold

/-- Bring-up with a valid firmware slot reaches ROW. -/
theorem State.bringUp_row (valid : s.fwChosen ≠ none) (kind trigger : Nat) :
    (s.bringUp kind trigger).rd PWR_STAT_STATE = 0 ∧ (s.bringUp kind trigger).bootView = { s.bootView with trigger := trigger % 16 } ∧
      (s.bringUp kind trigger).resetView = ⟨s.i3c.waiting, s.pwr.perst, default, [], [], kind % 4⟩ := by
  obtain ⟨n, chosen⟩ := Option.ne_none_iff_exists'.1 valid
  have loaded : s.bringUp kind trigger =
      (((((s.fromReset kind trigger).runImage n).restoreRetained).applyLedger).wr PWR_STAT_STATE 0).ibiRaise 7 := by
    rw [State.bringUp_eq, State.fwChosen_fromReset, chosen]
  refine ⟨?_, ?_, s.resetView_bringUp kind trigger⟩
  · rw [loaded, State.foot_rd (State.foot_ibiRaise _ 7 []) _ 0 0 (by simp), State.rd_wr_same]
    rfl
  · rw [loaded, State.bootView_ibiRaise, State.bootView_wr_key (by decide), State.bootView_applyLedger, State.bootView_restoreRetained,
      State.bootView_runImage, State.bootView_fromReset]

/-- Bring-up without a valid firmware slot stops at step 4 (R669). -/
theorem State.bringUp_fault (invalid : s.fwChosen = none) (kind trigger : Nat) :
    (s.bringUp kind trigger).rd PWR_STAT_STATE = 7 ∧ (s.bringUp kind trigger).rd PWR_STAT_STEP = 4 ∧
      (s.bringUp kind trigger).ibi.any (fun e => e.1 == 4) = true := by
  have stopped : s.bringUp kind trigger = (s.fromReset kind trigger).bringUpFault 4 := by
    rw [State.bringUp_eq, State.fwChosen_fromReset, invalid]
  have shows (u : State) (f : Fld) (other : f.key 0 0 ≠ LOG_DROPPED.key 0 0) :
      (u.bringUpFault 4).rd f = ((u.wr PWR_STAT_STATE 7).wr PWR_STAT_STEP 4).rd f :=
    (State.foot_rd (State.foot_ibiRaise _ 4 []) _ 0 0 (by simp)).trans (State.rd_logFrom _ other ..)
  rw [stopped, shows _ _ (by decide), shows _ _ (by decide), State.rd_wr_same, State.rd_wr_ne _ (by decide), State.rd_wr_same]
  exact ⟨rfl, rfl, State.ibiRaise_any _ 4⟩

/-! ### Losing power (R664, R665, R769, R771) -/

/-- The module is in DORMANT after its rails have gone off (R650). -/
theorem State.dropRails_state (s : State) : s.dropRails.rd PWR_STAT_STATE = 3 := by
  unfold State.dropRails
  split
  next dormant => exact dormant
  · rw [State.foot_rd (State.foot_updPwr _ _ []) _ 0 0 (by simp), State.rd_wr_ne _ (by decide), State.rd_wr_same]
    rfl

/-- Off the main dies, their units are as after reset (R656). -/
theorem State.dropRails_units (on : s.rd PWR_STAT_STATE ≠ 3) :
    s.dropRails.stk = default ∧ s.dropRails.coxes = [] ∧ s.dropRails.cores = [] ∧ s.dropRails.mem = [] := by
  unfold State.dropRails
  rw [if_neg on]
  exact ⟨rfl, rfl, rfl, rfl⟩

theorem State.commit_mem_nil (empty : t.mem = []) : (s.commit t).mem = [] := by
  show (Tab.canon t.mem).filter _ = []
  rw [empty]
  rfl

theorem exec_trip (cause : Nat) (standby : s.pwr.standby = true) (on : s.rd PWR_STAT_STATE ≠ 3) :
    ∃ t, exec (.trip cause) s = .next t ∧ t.rd PWR_STAT_STATE = 3 ∧ t.is PWR_STAT_TRIP = true ∧ t.ibi.any (fun e => e.1 == 1) = true ∧
      t.stk = default ∧ t.coxes = [] ∧ t.cores = [] ∧ t.mem = [] := by
  have run : exec (.trip cause) s = .next (s.commit (tripEffect cause s)) :=
    State.always_next (by simp [standby, on]) (tripEffect cause)
  obtain ⟨l, raised⟩ := State.ibiRaise_only (s.dropRails.on PWR_STAT_TRIP) 1
  obtain ⟨stk, coxes, cores, mem⟩ := State.dropRails_units on
  have shows (f : Fld) (other : f.key 0 0 ≠ LOG_DROPPED.key 0 0) : (tripEffect cause s).rd f = (s.dropRails.wr PWR_STAT_TRIP 1).rd f :=
    (State.rd_logFrom _ other ..).trans (State.foot_rd (State.foot_ibiRaise _ 1 []) _ 0 0 (by simp))
  refine ⟨_, run, ?_, ?_, ?_, ?_, ?_, ?_, State.commit_mem_nil ?_⟩
  · rw [State.rd_commit, shows _ (by decide), State.rd_wr_ne _ (by decide), State.dropRails_state]
  · rw [State.is_commit, State.is, shows _ (by decide), State.rd_wr_same]
    rfl
  · rw [State.commit_ibi, tripEffect, State.logEv, State.logFrom_ibi]
    exact State.ibiRaise_any _ 1
  · rw [State.commit_stk, tripEffect, State.logEv, State.logFrom_stk, raised]
    exact stk
  · rw [State.commit_coxes, tripEffect, State.logEv, State.logFrom_coxes, raised]
    exact coxes
  · rw [State.commit_cores, tripEffect, State.logEv, State.logFrom_cores, raised]
    exact cores
  · rw [tripEffect, State.logEv, State.logFrom_mem, raised]
    exact mem

/-- The stage has lost its supply: the module is in DORMANT, without a trip. -/
def State.unsupplied (s : State) (n : Nat) : State :=
  { (s.dropRails.wr PWR_STAT_TRIP 0).updPwr (fun p => { p with supply := false }) with fresh := n }

theorem State.rd_unsupplied (s : State) (n : Nat) (f : Fld) : (s.unsupplied n).rd f = (s.dropRails.wr PWR_STAT_TRIP 0).rd f :=
  State.rd_congr rfl f 0 0

theorem State.loseSupply_eq (s : State) : ∃ n v, s.loseSupply = ((s.unsupplied n).logEv .pwr 0 0x703 4 0 v).ibiRaise 2 :=
  ⟨_, _, rfl⟩

theorem exec_losesSupply {c : Instr} (which : c = .supplyLoss ∨ c = .mateOpen) (standby : s.pwr.standby = true) (supply : s.pwr.supply = true) :
    ∃ t, exec c s = .next t ∧ t.rd PWR_STAT_STATE = 3 ∧ t.is PWR_STAT_TRIP = false ∧ t.pwr.supply = false ∧
      t.ibi.any (fun e => e.1 == 2) = true := by
  have run : exec c s = .next (s.commit s.loseSupply) := by
    have both : exec c s = s.always (s.pwr.standby && s.pwr.supply) (fun s => s.loseSupply) := by
      rcases which with rfl | rfl <;> rfl
    exact both.trans (State.always_next (by rw [standby, supply]; rfl) _)
  obtain ⟨n, v, eq⟩ := s.loseSupply_eq
  obtain ⟨l, raised⟩ := State.ibiRaise_only ((s.unsupplied n).logEv .pwr 0 0x703 4 0 v) 2
  have shows (f : Fld) (other : f.key 0 0 ≠ LOG_DROPPED.key 0 0) : s.loseSupply.rd f = (s.dropRails.wr PWR_STAT_TRIP 0).rd f := by
    rw [eq]
    exact (State.foot_rd (State.foot_ibiRaise _ 2 []) _ 0 0 (by simp)).trans
      ((State.rd_logFrom _ other ..).trans (s.rd_unsupplied n f))
  refine ⟨_, run, ?_, ?_, ?_, ?_⟩
  · rw [State.rd_commit, shows _ (by decide), State.rd_wr_ne _ (by decide), State.dropRails_state]
  · rw [State.is_commit, State.is, shows _ (by decide), State.rd_wr_same]
    rfl
  · rw [State.commit_pwr, eq, raised]
    show (State.logEv _ _ _ _ _ _ _).pwr.supply = false
    rw [State.logEv, State.logFrom_pwr]
    rfl
  · rw [State.commit_ibi, eq]
    exact State.ibiRaise_any _ 2

theorem exec_standbyStop (standby : s.pwr.standby = true) :
    ∃ t, exec .standbyStop s = .next t ∧ t.rd PWR_STAT_STATE = 3 ∧ t.pwr.standby = false ∧ t.pwr.supply = false ∧ t.logRing = [] ∧
      t.ibi = [] := by
  have run : exec .standbyStop s = .next (s.commit (standbyStopEffect s)) := State.always_next standby standbyStopEffect
  refine ⟨_, run, ?_, rfl, rfl, rfl, rfl⟩
  rw [State.rd_commit, standbyStopEffect, State.foot_rd (State.foot_updPwr _ _ []) _ 0 0 (by simp), State.rd_wr_same]
  rfl

/-! ### The supplies return (R665, R771, R772) -/

theorem exec_supplyReturn (standby : s.pwr.standby = true) (absent : s.pwr.supply = false) :
    exec .supplyReturn s = .next (s.commit ((s.updPwr (fun p => { p with supply := true })).bringUp 1 1)) :=
  State.always_next (by rw [standby, absent]; rfl) supplyReturnEffect

theorem exec_supplyReturn_row (standby : s.pwr.standby = true) (absent : s.pwr.supply = false) (valid : s.fwChosen ≠ none) :
    ∃ t, exec .supplyReturn s = .next t ∧ t.rd PWR_STAT_STATE = 0 ∧ t.pwr.supply = true ∧ t.stk = default ∧
      t.rd PWR_RESET_CAUSE_KIND = 1 := by
  obtain ⟨row, boot, reset⟩ := State.bringUp_row (s := s.updPwr (fun p => { p with supply := true })) valid 1 1
  exact ⟨_, exec_supplyReturn standby absent, (State.rd_commit ..).trans row, congrArg BootView.supply boot, congrArg ResetView.stk reset,
    (State.rd_commit ..).trans (congrArg ResetView.cause reset)⟩

theorem exec_supplyReturn_fault (standby : s.pwr.standby = true) (absent : s.pwr.supply = false) (invalid : s.fwChosen = none) :
    ∃ t, exec .supplyReturn s = .next t ∧ t.rd PWR_STAT_STATE = 7 ∧ t.rd PWR_STAT_STEP = 4 ∧ t.ibi.any (fun e => e.1 == 4) = true := by
  obtain ⟨fault, step, pends⟩ := State.bringUp_fault (s := s.updPwr (fun p => { p with supply := true })) invalid 1 1
  exact ⟨_, exec_supplyReturn standby absent, (State.rd_commit ..).trans fault, (State.rd_commit ..).trans step, pends⟩

/-- The straps are sampled, the power-up counted, and the clock starts afresh (R771, R772). -/
def State.sampled (s : State) (straps : Nat) : State :=
  State.updPwr { s with clock := 0, powerCycles := s.powerCycles + 1 }
    (fun p => { p with standby := true, supply := true, straps := straps % 16, checkAt := 0 })

theorem exec_standbyStart (straps : Nat) (absent : s.pwr.standby = false) (valid : s.fwChosen ≠ none) :
    ∃ t, exec (.standbyStart straps) s = .next t ∧ t.rd PWR_STAT_STATE = 0 ∧ t.clock = 0 ∧ t.powerCycles = s.powerCycles + 1 ∧
      t.pwr.standby = true ∧ t.pwr.straps = straps % 16 ∧ t.stk = default := by
  have run : exec (.standbyStart straps) s = .next (s.commit ((s.sampled straps).bringUp 1 0)) :=
    State.always_next (by rw [absent]; rfl) (standbyStartEffect straps)
  obtain ⟨row, boot, reset⟩ := State.bringUp_row (s := s.sampled straps) valid 1 0
  exact ⟨_, run, (State.rd_commit ..).trans row, congrArg BootView.clock boot, congrArg BootView.cycles boot,
    congrArg BootView.standby boot, congrArg BootView.straps boot, congrArg ResetView.stk reset⟩

/-! ### Warm resets (R666, R667, R691) -/

theorem exec_pwrWarmReset {u : State} {key : Nat} (standby : s.pwr.standby = true) (done : pwrWarmResetEffect key s = u)
    (quiet : u.i3c.waiting = none) : exec (.pwrWarmReset key) s = .next (s.commit u) := by
  have run : exec (.pwrWarmReset key) s = .next (s.commit (pwrWarmResetEffect key s).runWaiting) :=
    State.always_next standby (fun s => (pwrWarmResetEffect key s).runWaiting)
  rw [run, done, State.runWaiting_none quiet]

/-- The keys of a warm reset, as the controller sends them, spell 0xA55A. -/
theorem warmKey_iff (args : List Byte) : args.length = 2 ∧ leNat args = 0xA55A ↔ args = [0x5A, 0xA5] := by
  constructor
  · rintro ⟨two, key⟩
    obtain ⟨a, b, rfl⟩ := List.length_eq_two.1 two
    have low := a.isLt
    have high := b.isLt
    simp only [leNat] at key
    have first : a = 0x5A := BitVec.eq_of_toNat_eq (by show a.toNat = 90; omega)
    have second : b = 0xA5 := BitVec.eq_of_toNat_eq (by show b.toNat = 165; omega)
    rw [first, second]
  · rintro rfl
    exact ⟨rfl, rfl⟩

theorem warmResetRun_keyed : warmResetRun [0x5A, 0xA5] s = (s.respond stSuccess []).warmReset 1 := if_pos ((warmKey_iff _).2 rfl)

section
variable (standby : s.pwr.standby = true) (quiet : s.i3c.waiting = none)
include standby quiet

/-- PWR_WARM_RESET with another key is ignored (R677). -/
theorem exec_pwrWarmReset_otherKey {key : Nat} (other : key ≠ 0xA55A) :
    ∃ t, exec (.pwrWarmReset key) s = .next t ∧ s.sameStore t ∧ s.sameRegsBut t [] := by
  obtain ⟨store, regs⟩ := State.foot_commit (u := s) s.foot_refl
  exact ⟨_, exec_pwrWarmReset standby (if_neg other) quiet, store, regs⟩

/-- WARM_RESET with another key is malformed (R691). -/
theorem exec_warmReset_otherKey {args : List Byte} (other : args ≠ [0x5A, 0xA5]) (row : s.rd PWR_STAT_STATE ≤ 1) :
    ∃ t, exec (.warmReset args) s = .next t ∧ t.i3c.resp = some (leBytes stMalformed 1 ++ leBytes 0 2) ∧ s.sameStore t ∧
      s.sameRegsBut t [] := by
  have run : (privateReadEffect s).runM (.warmReset args) = (privateReadEffect s).malformed := if_neg (fun key => other ((warmKey_iff args).1 key))
  obtain ⟨store, regs⟩ := State.foot_commit (u := s) (State.foot_of_eq (s := s) (t := (privateReadEffect s).malformed) (ks := []) rfl rfl rfl rfl)
  exact ⟨_, State.m_next standby quiet row run, rfl, store, regs⟩

variable (row : s.rd PWR_STAT_STATE ≤ 1) (idle : s.is PWR_RET_STAT_BUSY = false) (valid : s.fwChosen ≠ none)
include row idle valid

theorem exec_pwrWarmReset_starts :
    ∃ t, exec (.pwrWarmReset 0xA55A) s = .next t ∧ t.rd PWR_STAT_STATE = 0 ∧ t.rd PWR_RESET_CAUSE_KIND = 2 ∧
      t.rd PWR_RESET_CAUSE_TRIGGER = 2 ∧ t.stk = default ∧ t.coxes = [] := by
  obtain ⟨up, boot, reset⟩ := s.bringUp_row valid 2 2
  have starts : pwrWarmResetEffect 0xA55A s = s.bringUp 2 2 := (if_pos rfl).trans (State.warmReset_starts idle row)
  exact ⟨_, exec_pwrWarmReset standby starts ((congrArg ResetView.waiting reset).trans quiet), (State.rd_commit ..).trans up,
    (State.rd_commit ..).trans (congrArg ResetView.cause reset), (State.rd_commit ..).trans (congrArg BootView.trigger boot),
    congrArg ResetView.stk reset, congrArg ResetView.coxes reset⟩

theorem exec_warmReset_starts :
    ∃ t, exec (.warmReset [0x5A, 0xA5]) s = .next t ∧ t.rd PWR_STAT_STATE = 0 ∧ t.rd PWR_RESET_CAUSE_KIND = 2 ∧
      t.rd PWR_RESET_CAUSE_TRIGGER = 1 ∧ t.stk = default ∧ t.i3c.resp = some (leBytes stSuccess 1 ++ leBytes 0 2) := by
  obtain ⟨up, boot, reset⟩ := ((privateReadEffect s).respond stSuccess []).bringUp_row valid 2 1
  have starts : (privateReadEffect s).runM (.warmReset [0x5A, 0xA5]) = ((privateReadEffect s).respond stSuccess []).bringUp 2 1 :=
    warmResetRun_keyed.trans (State.warmReset_starts (s := (privateReadEffect s).respond stSuccess []) idle row)
  exact ⟨_, State.m_next standby quiet row starts, (State.rd_commit ..).trans up, (State.rd_commit ..).trans (congrArg ResetView.cause reset),
    (State.rd_commit ..).trans (congrArg BootView.trigger boot), congrArg ResetView.stk reset,
    congrArg (fun v => v.i3c.resp) boot⟩

end

/-- Settles O45: the losses of power, the returns, and the two warm resets. -/
theorem resetsAndPowerLossStartAfresh : Obligations.ResetsAndPowerLossStartAfresh := fun _ =>
  ⟨fun cause standby on => exec_trip cause standby on, fun _ which standby supply => exec_losesSupply which standby supply, exec_standbyStop,
    fun standby absent => ⟨exec_supplyReturn_row standby absent, exec_supplyReturn_fault standby absent⟩,
    fun straps absent valid => exec_standbyStart straps absent valid,
    fun standby quiet row idle valid =>
      ⟨exec_pwrWarmReset_starts standby quiet row idle valid, exec_warmReset_starts standby quiet row idle valid⟩,
    fun _ other standby quiet => exec_pwrWarmReset_otherKey standby quiet other,
    fun _ other standby quiet row => exec_warmReset_otherKey standby quiet other row⟩

end Sys2Proof.Machine
end

section
/-!
PROOF. Registers follow their access types (R711, R713, R722, R723, R726, R727, R731): INT_FORCE, the writes of whole registers, and a read
that clears.
-/
namespace Sys2Proof.Machine

variable {s t : State} {p : Page} {i : Nat}

/-! ### Where a header register lies (R710, R713, R722) -/

/-- The header registers that are written and read here: BLK_ID, BLK_INT_STAT, BLK_INT_FORCE and BLK_ERR_CORR. -/
def headerOffsets : List Nat := [0, 0x10, 0x18, 0x1C]

theorem pageAt_headers : ∀ p ∈ Page.all, ∀ i ∈ List.range p.count, ∀ off ∈ headerOffsets, pageAt (p.base i + off) = some (p, i, off) := by
  decide +kernel

theorem mem_allPages (p : Page) : p ∈ Page.all := by cases p <;> decide

theorem pageAt_header {off : Nat} (item : i < p.count) (header : off ∈ headerOffsets) : pageAt (p.base i + off) = some (p, i, off) :=
  pageAt_headers p (mem_allPages p) i (List.mem_range.2 item) off header

theorem base_aligned (p : Page) (i : Nat) : p.base i % 8 = 0 := by
  cases p <;> simp only [Page.base] <;> omega

/-- Header registers have 32 bits. -/
theorem regSize_headers : ∀ p ∈ Page.all, ∀ off ∈ headerOffsets, regSize p off = 32 := by decide +kernel

theorem regSize_header {off : Nat} (header : off ∈ headerOffsets) : regSize p off = 32 :=
  regSize_headers p (mem_allPages p) off header

/-- BLK_ERR_CORR is the one register of its offset that a read clears. -/
theorem readClears_errCorr : ∀ p ∈ Page.all,
    (pageFields p ++ headerFields p).filter (fun f => decide (f.acc = .rc ∧ f.off = 0x1C)) = [BLK_ERR_CORR p] := by
  decide +kernel

/-! ### INT_FORCE (R731) -/

theorem exec_intForce (rails : s.railsUp = true) (item : i < p.count) (mask : Nat) :
    exec (.intForce p i mask) s = .next (s.commit (intForceEffect p i mask s)) :=
  State.rails_next rails (decide_eq_true item) (intForceEffect p i mask)

theorem exec_intForce_sets (rails : s.railsUp = true) (item : i < p.count) (mask : Nat) (on : s.blk p i = 1 ∨ s.blk p i = 2 ∨ s.blk p i = 3) :
    ∃ t, exec (.intForce p i mask) s = .next t ∧
      t.rd (BLK_INT_STAT p) i = (s.rd (BLK_INT_STAT p) i ||| (mask &&& causeMask p)) % 2 ^ 32 ∧ s.sameStore t ∧
      s.sameRegsBut t [(BLK_INT_STAT p).key i 0] := by
  have run := exec_intForce rails item mask
  rw [intForceEffect, if_neg (by omega)] at run
  obtain ⟨store, regs⟩ := State.foot_commit (u := s) (State.foot_wr (s := s) (f := BLK_INT_STAT p) (i := i) (j := 0)
    (v := s.rd (BLK_INT_STAT p) i ||| (mask &&& causeMask p)) (List.mem_singleton_self _))
  exact ⟨_, run, (State.rd_commit ..).trans (State.rd_wr_same ..), store, regs⟩

theorem exec_intForce_refused (rails : s.railsUp = true) (item : i < p.count) (mask : Nat) (off : s.blk p i = 0 ∨ s.blk p i = 4 ∨ s.blk p i = 5) :
    ∃ t, exec (.intForce p i mask) s = .next t ∧ t.is (BLK_STAT_CFG_ERR p) i = true ∧ s.sameStore t ∧
      s.sameRegsBut t [(BLK_STAT_CFG_ERR p).key i 0, (BLK_INT_STAT p).key i 0] := by
  have run := exec_intForce rails item mask
  rw [intForceEffect, if_pos off] at run
  obtain ⟨store, regs⟩ := State.foot_commit (u := s) (s.foot_cfgErr p i)
  exact ⟨_, run, (State.is_commit ..).trans (s.cfgErr_is p i), store, regs⟩

/-! ### Writes of whole registers (R711, R722, R723, R727) -/

/-- With no half of a register waiting, a 4-byte write of a 32-bit register is taken whole. -/
theorem State.regWrite_word {who : Requester} {o off : Nat} (quiet : s.halves = []) (at' : pageAt o = some (p, i, off))
    (word : regSize p off = 32) (noHigh : off % 8 = 4 → regSize p (off - 4) = 32) (v : Nat) :
    s.regWrite who o 4 v = s.takeWrite p i off v := by
  have same : ({ s with halves := s.halves.filter (fun h => !(h.1 == who)) } : State) = s := by
    rw [quiet, List.filter_nil, ← quiet]
  unfold State.regWrite
  rw [same, at']
  dsimp only
  rw [if_neg (by decide), if_neg (by rw [word]; omega), if_neg (fun high => by rw [noHigh high.1] at high; omega)]

/-- A write of 4 bytes by a device. -/
theorem exec_deviceWrite {d o off v : Nat} (rails : s.railsUp = true) (quiet : s.halves = []) (device : d < 512) (aligned : o % 4 = 0)
    (small : v < 2 ^ 32) (at' : pageAt o = some (p, i, off)) (word : regSize p off = 32)
    (noHigh : off % 8 = 4 → regSize p (off - 4) = 32) :
    exec (.registerWrite (.device d) o 4 v) s = .next (s.commit (s.takeWrite p i off v)) := by
  have run : exec (.registerWrite (.device d) o 4 v) s = .next (s.commit (registerWriteEffect (.device d) o 4 v s)) :=
    State.rails_next rails (by simpa [State.mayWrite, device] using small) (registerWriteEffect (.device d) o 4 v)
  have taken : registerWriteEffect (.device d) o 4 v s = s.regWrite (.device d) o 4 v := if_pos (by simp [regAccessOk, aligned])
  rw [run, taken, State.regWrite_word quiet at' word noHigh]

theorem State.takeWrite_int (v : Nat) (on : s.blk p i = 1) : s.takeWrite p i 0x10 v =
    s.wr (BLK_INT_STAT p) (s.rd (BLK_INT_STAT p) i - (s.rd (BLK_INT_STAT p) i &&& v)) i := by
  unfold State.takeWrite
  rw [if_pos (by decide), if_neg (by decide), on, if_neg (by simp [pageAccepts]), if_neg (by decide)]
  rfl

theorem State.takeWrite_id (v : Nat) : s.takeWrite p i 0 v = s := rfl

/-! ### A field that a write stores (R15, R711) -/

theorem fieldsAt_id : fieldsAt .dev 0x118 = [(DEV_ID_ID, 0)] := by decide

/-- The device ID may be written in STOPPED. -/
theorem stopped_of_idVerdict {v : Nat} (may : s.verdict .dev i 0x118 v = .ok) : s.stkState = 0 := by
  simpa [State.verdict, State.devVerdict, okIf] using may

section
variable {off v : Nat} {f : Fld} (fields : fieldsAt p off = [(f, 0)]) (stored : f.acc = .rw) (keeps : actsOnly f = false)
include fields stored keeps

theorem State.putFields_one : s.putFields p i off v = s.wr f (f.part v) i := by
  rw [State.putFields, fields]
  show s.putField f i 0 v = _
  simp [State.putField, keeps, stored]

/-- The device ID is the one stored field with a rule of its own for its write. -/
theorem State.specificWrite_stores (item : i < p.count) (plain : p ≠ .stk) (table : p = .dev → off < 0x800) (may : s.verdict p i off v = .ok)
    (acts : ∀ u : State, u.act p i off v = u) :
    (s.specificWrite p i off v).rd f i = f.part v % 2 ^ f.w ∧ s.foot (s.specificWrite p i off v) [f.key i 0] := by
  have wrote : (s.wr f (f.part v) i).rd f i = f.part v % 2 ^ f.w ∧ s.foot (s.wr f (f.part v) i) [f.key i 0] :=
    ⟨State.rd_wr_same .., State.foot_wr (List.mem_singleton_self _)⟩
  unfold State.specificWrite
  dsimp only
  rw [if_neg (by simp [fields, stored]), if_neg (fun t => by have := table t.1; omega)]
  split
  next isId =>
    obtain ⟨rfl, rfl⟩ := isId
    obtain rfl : i = 0 := Nat.lt_one_iff.1 item
    obtain rfl : DEV_ID_ID = f := congrArg Prod.fst (List.singleton_inj.1 (fieldsAt_id.symm.trans fields))
    rw [devIdEffect, if_pos (stopped_of_idVerdict may)]
    refine ⟨(State.rd_wr_same s DEV_ID_ID (v % 512) 0 0).trans ?_, s.foot_takeId _⟩
    simp [Fld.part, bits, DEV_ID_ID]
  next =>
    rw [if_neg (fun t => plain t.1), if_neg (fun t => plain t.1), if_neg (fun t => plain t.1), if_neg (by simp [fields, stored]), may]
    dsimp only
    rw [acts, State.putFields_one fields stored keeps]
    exact wrote

omit stored keeps in
theorem State.takeWrite_specific (beyond : 0x100 ≤ off) (on : s.blk p i = 1) : s.takeWrite p i off v = s.specificWrite p i off v := by
  unfold State.takeWrite
  rw [if_neg (by omega), if_neg (by simp [fields]), on, if_neg (by simp [pageAccepts])]

end

/-! ### A read that clears (R711, R726) -/

theorem foldl_clear (o i : Nat) (l : List Fld) : ∀ s : State,
    l.foldl (fun (t : State) f => if f.acc = .rc ∧ f.off = o then t.wr f 0 i else t) s =
      (l.filter (fun f => decide (f.acc = .rc ∧ f.off = o))).foldl (fun (t : State) f => t.wr f 0 i) s := by
  intro s
  rw [List.foldl_filter]
  simp only [decide_eq_true_eq]

theorem State.clearRc_errCorr (item : i < p.count) (on : s.blk p i ≠ 0) : s.clearRc (p.base i + 0x1C) = s.wr (BLK_ERR_CORR p) 0 i := by
  unfold State.clearRc
  rw [pageAt_header item (by decide)]
  dsimp only
  rw [if_neg on, foldl_clear, readClears_errCorr p (mem_allPages p)]
  rfl

/-- A 4-byte read of BLK_ERR_CORR answers the register and clears it. -/
theorem State.regRead_errCorr (who : Requester) (item : i < p.count) (on : s.blk p i ≠ 0) :
    s.regRead who (p.base i + 0x1C) 4 = (leBytes (s.readReg (p.base i + 0x1C)) 4, s.wr (BLK_ERR_CORR p) 0 i) := by
  have aligned := base_aligned p i
  have high : pageAt (p.base i + 0x1C - 4) = some (p, i, 0x18) := pageAt_header item (by decide)
  have bytes : s.readRegBytes (p.base i + 0x1C) 4 = leBytes (s.readReg (p.base i + 0x1C)) 4 := by
    unfold State.readRegBytes
    rw [pageAt_header item (by decide)]
    dsimp only
    rw [if_neg (fun h => by have word := h.2.2; rw [regSize_header (by decide)] at word; omega)]
  unfold State.regRead
  dsimp only
  rw [if_neg (by omega), if_neg (by rw [high]; simp [regSize_header (p := p) (off := 0x18) (by decide)]), bytes, State.clearRc_errCorr item on]

theorem State.foot_barAnswer (f o : Nat) (d : List Byte) :
    s.foot (s.barAnswer f o (some d)) [HIF_PC_TX_BYTES.key 0 0, CTX_ACC_HOST.key f 0] :=
  State.foot_wr_of (State.foot_wr_of (State.foot_of_eq rfl rfl rfl rfl) (by simp)) (by simp)

/-- READ_TO_CLEAR of BLK_ERR_CORR by the physical function. -/
theorem exec_readToClear_errCorr (rails : s.railsUp = true) (item : i < p.count) (front : s.front = true) (on : s.blk p i ≠ 0) :
    ∃ t, exec (.readToClear (.func 0) (p.base i + 0x1C)) s = .next t ∧
      t.hostOut = s.hostOut ++ [HostOut.completion 0 (p.base i + 0x1C) (leBytes (s.readReg (p.base i + 0x1C)) 4)] ∧
      t.rd (BLK_ERR_CORR p) i = 0 ∧ s.sameStore t ∧
      s.sameRegsBut t [(BLK_ERR_CORR p).key i 0, HIF_PC_TX_BYTES.key 0 0, CTX_ACC_HOST.key 0 0] := by
  have aligned := base_aligned p i
  have run : exec (.readToClear (.func 0) (p.base i + 0x1C)) s =
      .next (s.commit (readToClearEffect (.func 0) (p.base i + 0x1C) s)) :=
    State.rails_next rails (by rw [front]; rfl) (readToClearEffect (.func 0) (p.base i + 0x1C))
  have effect : readToClearEffect (.func 0) (p.base i + 0x1C) s =
      (s.wr (BLK_ERR_CORR p) 0 i).barAnswer 0 (p.base i + 0x1C) (some (leBytes (s.readReg (p.base i + 0x1C)) 4)) := by
    unfold readToClearEffect funcOffset
    dsimp only
    rw [if_neg (by omega), if_pos rfl]
    dsimp only
    rw [State.regRead_errCorr (.func 0) item on]
  rw [effect] at run
  have answered := State.foot_barAnswer (s := s.wr (BLK_ERR_CORR p) 0 i) 0 (p.base i + 0x1C) (leBytes (s.readReg (p.base i + 0x1C)) 4)
  have apart : (BLK_ERR_CORR p).key i 0 ∉ [HIF_PC_TX_BYTES.key 0 0, CTX_ACC_HOST.key 0 0] := by
    rw [List.mem_cons, List.mem_singleton, not_or]
    have place : ((BLK_ERR_CORR p).off * 8 + (BLK_ERR_CORR p).lo) % 4096 = 224 := rfl
    exact ⟨Fld.key_ne (by rw [place]; decide) i 0, Fld.key_ne (by rw [place]; decide) i 0⟩
  obtain ⟨store, regs⟩ := State.foot_commit (u := s) (State.foot_trans (State.foot_wr (s := s) (f := BLK_ERR_CORR p) (v := 0) (i := i) (j := 0)
    (List.mem_singleton_self _)) answered)
  refine ⟨_, run, rfl, ?_, store, regs⟩
  rw [State.rd_commit, State.foot_rd answered _ _ _ apart, State.rd_wr_same, Nat.zero_mod]

/-- Settles O41: INT_FORCE, the writes of a stored field, of causes and of BLK_ID, and the read that clears. -/
theorem registersFollowTheirAccessTypes : Obligations.RegistersFollowTheirAccessTypes := by
  intro s p i rails item quiet
  have aligned := base_aligned p i
  refine ⟨fun mask => ⟨exec_intForce_sets rails item mask, exec_intForce_refused rails item mask⟩, ?_, fun d v device small on => ?_,
    fun d v device small _ => ?_, exec_readToClear_errCorr rails item⟩
  · intro d o off v f device at' beyond alignedO small plain table word noHigh on fields _ stored keeps may acts
    have run := exec_deviceWrite rails quiet device alignedO small at' word noHigh
    obtain ⟨reads, foot⟩ := State.specificWrite_stores fields stored keeps item plain table may acts
    rw [State.takeWrite_specific fields beyond on] at run
    obtain ⟨store, regs⟩ := State.foot_commit (u := s) foot
    exact ⟨_, run, (State.rd_commit ..).trans reads, store, regs⟩
  · have run := exec_deviceWrite (off := 0x10) rails quiet device (by omega) small (pageAt_header item (by decide)) (regSize_header (by decide))
      (fun high => absurd high (by decide))
    rw [State.takeWrite_int v on] at run
    obtain ⟨store, regs⟩ := State.foot_commit (u := s) (State.foot_wr (s := s) (f := BLK_INT_STAT p) (i := i) (j := 0)
      (v := s.rd (BLK_INT_STAT p) i - (s.rd (BLK_INT_STAT p) i &&& v)) (List.mem_singleton_self _))
    exact ⟨_, run, (State.rd_commit ..).trans (State.rd_wr_same ..), store, regs⟩
  · have run := exec_deviceWrite (off := 0) rails quiet device (by omega) small (pageAt_header item (by decide)) (regSize_header (by decide))
      (fun high => absurd high (by decide))
    obtain ⟨store, regs⟩ := State.foot_commit (u := s) s.foot_refl
    exact ⟨_, run, store, regs⟩

end Sys2Proof.Machine
end

section
/-!
PROOF. The commands of the management controller are answered (R689 to R693).
-/
namespace Sys2Proof.Machine

variable {s t : State}

/-! ### How a command of the controller is answered (R689) -/

/-- The bytes of a response: STATUS, LEN and the payload. -/
def responseBytes (st : Nat) (d : List Byte) : List Byte := leBytes st 1 ++ leBytes d.length 2 ++ d

/-- A command is answered: the response is there, memory and tokens stay, and of the registers only those of some keys may change. -/
def State.answers (s t : State) (st : Nat) (d : List Byte) (ks : List Nat) : Prop :=
  t.i3c.resp = some (responseBytes st d) ∧ s.sameStore t ∧ s.sameRegsBut t ks

theorem State.foot_privateRead (s : State) (ks : List Nat) : s.foot (privateReadEffect s) ks := State.foot_of_eq rfl rfl rfl rfl

/-- What a command has done before its response stands. -/
theorem State.answers_respond {u : State} {ks : List Nat} (foot : s.foot t ks) (st : Nat) (d : List Byte) :
    s.answers (u.commit (t.respond st d)) st d ks := by
  obtain ⟨store, regs⟩ := State.foot_commit (u := u) (State.foot_upd_of (u := t.respond st d) foot rfl rfl rfl rfl)
  exact ⟨rfl, store, regs⟩

/-- A refused or malformed command changes nothing else. -/
theorem State.answers_only (s : State) (st : Nat) (d : List Byte) :
    s.answers (s.commit ((privateReadEffect s).respond st d)) st d [] :=
  State.answers_respond (s.foot_privateRead []) st d

section
variable (standby : s.pwr.standby = true) (quiet : s.i3c.waiting = none)
include standby quiet

theorem State.ao_next (f : State → State) : s.ao f = .next (s.commit (f (privateReadEffect s))) :=
  State.always_next (by rw [standby, quiet]; rfl) (fun s => f { s with i3c := { s.i3c with resp := none } })

/-! ### Commands of the always-on domain (R690, R691) -/

theorem exec_readStatus : ∃ t, exec .readStatus s = .next t ∧ s.answers t stSuccess (privateReadEffect s).statusPayload [] :=
  ⟨_, State.ao_next standby quiet readStatusRun, s.answers_only stSuccess _⟩

theorem exec_readLog {a : List Byte} (size : a.length = 8) : ∃ t, exec (.readLog a) s = .next t ∧
    s.answers t stSuccess (leBytes (s.rd LOG_WRITTEN) 8 ++ (privateReadEffect s).logEntries (leNat a) 7) [] := by
  have run : exec (.readLog a) s = _ := State.ao_next standby quiet (readLogRun a)
  rw [readLogRun, if_pos size] at run
  exact ⟨_, run, s.answers_only stSuccess _⟩

theorem exec_readIdentity {a : List Byte} (size : a.length = 6) (some : 1 ≤ fieldLE a 4 2) (most : fieldLE a 4 2 ≤ 256)
    (inside : fieldLE a 0 4 + fieldLE a 4 2 ≤ 65536) : ∃ t, exec (.readIdentity a) s = .next t ∧
      s.answers t stSuccess ((List.range (fieldLE a 4 2)).map (fun k => Config.identity (fieldLE a 0 4 + k))) [] := by
  have run : exec (.readIdentity a) s = _ := State.ao_next standby quiet (readIdentityRun a)
  rw [readIdentityRun, if_pos ⟨size, some, most, inside⟩] at run
  exact ⟨_, run, s.answers_only stSuccess _⟩

theorem exec_readPwr {a : List Byte} (size : a.length = 2) (aligned : leNat a % 4 = 0) (inside : leNat a < 0x1000) :
    ∃ t, exec (.readPwr a) s = .next t ∧
      t.i3c.resp = some (responseBytes stSuccess ((privateReadEffect s).regRead .i3c (0x2000 + leNat a) 4).1) := by
  have run : exec (.readPwr a) s = _ := State.ao_next standby quiet (readPwrRun a)
  rw [readPwrRun, if_pos ⟨size, aligned, inside⟩] at run
  exact ⟨_, run, rfl⟩

theorem exec_ackIbi {a : List Byte} (size : a.length = 2) : ∃ t, exec (.ackIbi a) s = .next t ∧
    t.ibi = s.ibi.filter (fun e => !bitOf (leNat a) e.1) ∧ s.answers t stSuccess [] [] := by
  have run : exec (.ackIbi a) s = _ := State.ao_next standby quiet (ackIbiRun a)
  rw [ackIbiRun, if_pos size] at run
  exact ⟨_, run, rfl, State.answers_respond (State.foot_of_eq rfl rfl rfl rfl) stSuccess []⟩

theorem exec_echo {a : List Byte} (some : 1 ≤ a.length) (most : a.length ≤ 250) :
    ∃ t, exec (.echo a) s = .next t ∧ s.answers t stSuccess a [] := by
  have run : exec (.echo a) s = _ := State.ao_next standby quiet (echoRun a)
  rw [echoRun, if_pos ⟨some, most⟩] at run
  exact ⟨_, run, s.answers_only stSuccess _⟩

/-- A command of the controller that is malformed. -/
theorem State.ao_malformed {f : State → State} (bad : f (privateReadEffect s) = (privateReadEffect s).malformed) :
    ∃ t, s.ao f = .next t ∧ s.answers t stMalformed [] [] := by
  have run := State.ao_next standby quiet f
  rw [bad] at run
  exact ⟨_, run, s.answers_only stMalformed []⟩

/-- WRITE_PWR runs at once: no command waits for it. -/
theorem exec_writePwr {a : List Byte} {u : State} (done : writePwrRun a (privateReadEffect s) = u) (none : u.i3c.waiting = none) :
    exec (.writePwr a) s = .next (s.commit u) := by
  have run : exec (.writePwr a) s = .next (s.commit (writePwrRun a (privateReadEffect s)).runWaiting) :=
    State.ao_next standby quiet (fun s => (writePwrRun a s).runWaiting)
  rw [run, done, State.runWaiting_none none]

end

/-! ### Register writes of the controller (R678, R692) -/

theorem fieldsAt_limit : fieldsAt .pwr 0x10C = [(PWR_LIMIT_W, 0)] := by decide

/-- PWR_LIMIT within its range is stored as a retained field. -/
theorem State.specificWrite_limit {v : Nat} (low : 600 ≤ v) (high : v ≤ 1600) (idle : s.is PWR_RET_STAT_BUSY = false) :
    s.specificWrite .pwr 0 0x10C v = s.putField PWR_LIMIT_W 0 0 v := by
  have part : PWR_LIMIT_W.part v = v := by simp [Fld.part, bits, PWR_LIMIT_W]; omega
  have may : s.verdict .pwr 0 0x10C v = .ok := by
    simp [State.verdict, pwrVerdict, inRange, okIf, part, low, high]
  have retained : PWR_LIMIT_W.acc = .rwk := rfl
  simp [State.specificWrite, State.putFields, State.act, fieldsAt_limit, may, idle, retained]

/-- What a write of PWR_LIMIT shows and leaves. -/
theorem State.i3cWrite_limit {v : Nat} (low : 600 ≤ v) (high : v ≤ 1600) (idle : s.is PWR_RET_STAT_BUSY = false) (on : s.blk .pwr = 1)
    (whole : s.halves = []) :
    ∃ w, s.i3cWrite 0x210C v = w.respond stSuccess [] ∧ w.rd PWR_LIMIT_W = v ∧ w.i3c = s.i3c ∧
      s.foot w [PWR_LIMIT_W.key 0 0, (BLK_RETAIN_CTL_DIRTY .pwr).key 0 0] := by
  have stored : s.regWrite .i3c 0x210C 4 v = s.putField PWR_LIMIT_W 0 0 v := by
    rw [State.regWrite_word (p := .pwr) (i := 0) (off := 0x10C) whole (by decide) (by decide) (by decide),
      State.takeWrite_specific fieldsAt_limit (by decide) on, State.specificWrite_limit low high idle]
  have part : PWR_LIMIT_W.part v = v := by simp [Fld.part, bits, PWR_LIMIT_W]; omega
  refine ⟨s.putField PWR_LIMIT_W 0 0 v, ?_, ?_, ?_, State.foot_putField_rwk rfl rfl⟩
  · rw [State.i3cWrite, if_neg (by omega), if_pos (show s.mayWrite .i3c 0x210C = true from rfl), stored]
  · exact (State.rd_putField_rwk rfl rfl (by decide)).trans part
  · rw [State.putField_rwk rfl rfl]
    split <;> rfl

section
variable (standby : s.pwr.standby = true) (quiet : s.i3c.waiting = none)
include standby quiet

theorem exec_writePwr_limit {a : List Byte} (size : a.length = 6) (limit : fieldLE a 0 2 = 0x10C) (low : 600 ≤ fieldLE a 2 4)
    (high : fieldLE a 2 4 ≤ 1600) (idle : s.is PWR_RET_STAT_BUSY = false) (on : s.blk .pwr = 1) (whole : s.halves = []) :
    ∃ t, exec (.writePwr a) s = .next t ∧ t.rd PWR_LIMIT_W = fieldLE a 2 4 ∧
      s.answers t stSuccess [] [PWR_LIMIT_W.key 0 0, (BLK_RETAIN_CTL_DIRTY .pwr).key 0 0] := by
  obtain ⟨w, wrote, reads, i3c, foot⟩ := State.i3cWrite_limit (s := privateReadEffect s) low high idle on whole
  have done : writePwrRun a (privateReadEffect s) = w.respond stSuccess [] := by
    rw [writePwrRun, if_pos (by rw [size, limit]; decide), limit]
    exact wrote
  have none : (w.respond stSuccess []).i3c.waiting = none := (congrArg I3cUnit.waiting i3c).trans quiet
  exact ⟨_, exec_writePwr standby quiet done none, (State.rd_commit ..).trans reads,
    State.answers_respond (State.foot_trans (s.foot_privateRead []) foot) stSuccess []⟩

/-- PWR_CMD may not be written in HOLD and DORMANT (R692). -/
theorem exec_writePwr_asleep {a : List Byte} (size : a.length = 6) (command : fieldLE a 0 2 = 0x100)
    (asleep : s.rd PWR_STAT_STATE = 2 ∨ s.rd PWR_STAT_STATE = 3) :
    ∃ t, exec (.writePwr a) s = .next t ∧ s.answers t stPermission [] [] := by
  have done : writePwrRun a (privateReadEffect s) = (privateReadEffect s).respond stPermission [] := by
    rw [writePwrRun, if_pos (by rw [size, command]; decide), command]
    exact if_pos ⟨asleep, rfl⟩
  exact ⟨_, exec_writePwr standby quiet done quiet, s.answers_only stPermission []⟩

theorem exec_writePwr_malformed {a : List Byte} (size : a.length ≠ 6) :
    ∃ t, exec (.writePwr a) s = .next t ∧ s.answers t stMalformed [] [] := by
  have done : writePwrRun a (privateReadEffect s) = (privateReadEffect s).malformed := if_neg (fun h => size h.1)
  exact ⟨_, exec_writePwr standby quiet done quiet, s.answers_only stMalformed []⟩

/-- The commands of a wrong length (R689). -/
theorem exec_wrongLength {a : List Byte} {c : Instr}
    (wrong : c = .readLog a ∧ a.length ≠ 8 ∨ c = .readIdentity a ∧ a.length ≠ 6 ∨ c = .readPwr a ∧ a.length ≠ 2 ∨
      c = .writePwr a ∧ a.length ≠ 6 ∨ c = .ackIbi a ∧ a.length ≠ 2 ∨ c = .echo a ∧ (a.length = 0 ∨ 250 < a.length)) :
    ∃ t, exec c s = .next t ∧ s.answers t stMalformed [] [] := by
  rcases wrong with ⟨rfl, size⟩ | ⟨rfl, size⟩ | ⟨rfl, size⟩ | ⟨rfl, size⟩ | ⟨rfl, size⟩ | ⟨rfl, size⟩
  · exact State.ao_malformed standby quiet (f := readLogRun a) (if_neg size)
  · exact State.ao_malformed standby quiet (f := readIdentityRun a) (if_neg (fun h => size h.1))
  · exact State.ao_malformed standby quiet (f := readPwrRun a) (if_neg (fun h => size h.1))
  · exact exec_writePwr_malformed standby quiet size
  · exact State.ao_malformed standby quiet (f := ackIbiRun a) (if_neg size)
  · exact State.ao_malformed standby quiet (f := echoRun a) (if_neg (by omega))

/-! ### Commands of the main dies (R690 to R692) -/

variable (row : s.rd PWR_STAT_STATE ≤ 1)
include row

theorem exec_readReg {a : List Byte} (size : a.length = 4) (aligned : leNat a % 4 = 0) :
    ∃ t, exec (.readReg a) s = .next t ∧ t.i3c.resp = some (responseBytes stSuccess ((privateReadEffect s).regRead .i3c (leNat a) 4).1) := by
  have run : (privateReadEffect s).runM (.readReg a) = (privateReadEffect s).i3cRead (leNat a) := if_pos ⟨size, aligned⟩
  exact ⟨_, State.m_next standby quiet row run, rfl⟩

theorem exec_writeReg_limit {a : List Byte} (size : a.length = 8) (limit : fieldLE a 0 4 = 0x210C) (low : 600 ≤ fieldLE a 4 4)
    (high : fieldLE a 4 4 ≤ 1600) (idle : s.is PWR_RET_STAT_BUSY = false) (on : s.blk .pwr = 1) (whole : s.halves = []) :
    ∃ t, exec (.writeReg a) s = .next t ∧ t.rd PWR_LIMIT_W = fieldLE a 4 4 ∧
      s.answers t stSuccess [] [PWR_LIMIT_W.key 0 0, (BLK_RETAIN_CTL_DIRTY .pwr).key 0 0] := by
  obtain ⟨w, wrote, reads, -, foot⟩ := State.i3cWrite_limit (s := privateReadEffect s) low high idle on whole
  have run : (privateReadEffect s).runM (.writeReg a) = w.respond stSuccess [] := by
    show writeRegRun a (privateReadEffect s) = _
    rw [writeRegRun, if_pos (by rw [size, limit]; decide), limit]
    exact wrote
  exact ⟨_, State.m_next standby quiet row run, (State.rd_commit ..).trans reads,
    State.answers_respond (State.foot_trans (s.foot_privateRead []) foot) stSuccess []⟩

theorem exec_writeReg_refused {a : List Byte} (size : a.length = 8) (aligned : fieldLE a 0 4 % 4 = 0)
    (forbidden : s.mayWrite .i3c (fieldLE a 0 4) = false) :
    ∃ t, exec (.writeReg a) s = .next t ∧ s.answers t stPermission [] [] := by
  have awake : ¬ (((privateReadEffect s).rd PWR_STAT_STATE = 2 ∨ (privateReadEffect s).rd PWR_STAT_STATE = 3) ∧ fieldLE a 0 4 = 0x2100) :=
    fun h => by have state : s.rd PWR_STAT_STATE = 2 ∨ s.rd PWR_STAT_STATE = 3 := h.1; omega
  have may : (privateReadEffect s).mayWrite .i3c (fieldLE a 0 4) = false := forbidden
  have run : (privateReadEffect s).runM (.writeReg a) = (privateReadEffect s).respond stPermission [] := by
    show writeRegRun a (privateReadEffect s) = _
    rw [writeRegRun, if_pos ⟨size, aligned⟩, State.i3cWrite, if_neg awake, if_neg (by simp [may])]
  exact ⟨_, State.m_next standby quiet row run, s.answers_only stPermission []⟩

theorem exec_readLedger {a : List Byte} (size : a.length = 4) (inside : leNat a < ledgerCap) :
    ∃ t, exec (.readLedger a) s = .next t ∧ s.answers t stSuccess (((s.ledger false)[leNat a]?).getD (leBytes 0 32)) [] := by
  have run : (privateReadEffect s).runM (.readLedger a) =
      (privateReadEffect s).respond stSuccess (((s.ledger false)[leNat a]?).getD (leBytes 0 32)) := if_pos ⟨size, inside⟩
  exact ⟨_, State.m_next standby quiet row run, s.answers_only stSuccess _⟩

end

/-- Settles O51: each command of the controller with its answer. -/
theorem managementCommandsAreAnswered : Obligations.ManagementCommandsAreAnswered := by
  intro s standby quiet u answer
  refine ⟨fun waits => ?_, exec_readStatus standby quiet, fun a => exec_readLog standby quiet,
    fun a size some most inside => ?_, fun a => exec_readPwr standby quiet, fun a size limit low high idle on whole => ?_,
    fun a => exec_writePwr_asleep standby quiet, fun a size => ?_, fun a => exec_echo standby quiet, fun a c => exec_wrongLength standby quiet,
    fun row => ⟨fun a => exec_readReg standby quiet row, fun a size limit low high idle on whole => ?_,
      fun a => exec_writeReg_refused standby quiet row, fun a size inside => ?_⟩⟩
  · obtain ⟨store, regs⟩ := State.foot_commit (u := s) (s.foot_privateRead [])
    exact ⟨_, State.always_next (by rw [standby, waits]; rfl) privateReadEffect, rfl, store, regs⟩
  · obtain ⟨t, run, resp, store, regs⟩ := exec_readIdentity standby quiet size some most inside
    exact ⟨t, run, store, regs, resp⟩
  · obtain ⟨t, run, reads, resp, stored⟩ := exec_writePwr_limit standby quiet size limit low high idle on whole
    exact ⟨t, run, resp, reads, stored⟩
  · obtain ⟨t, run, ibi, resp, stored⟩ := exec_ackIbi standby quiet size
    exact ⟨t, run, resp, ibi, stored⟩
  · obtain ⟨t, run, reads, resp, stored⟩ := exec_writeReg_limit standby quiet row size limit low high idle on whole
    exact ⟨t, run, resp, reads, stored⟩
  · obtain ⟨t, run, resp, store, regs⟩ := exec_readLedger standby quiet row size inside
    exact ⟨t, run, store, regs, resp⟩

end Sys2Proof.Machine
end
